-- ==== Sys2Proof/Word.lean ====
section
/-! DEFINITION. The word types of the GA-3200 model and the type of a sparse table. The device is little-endian
throughout (R9); configuration registers, scalar registers and instruction words are 64 bits. -/

namespace Sys2Proof

/-- A 64-bit register, instruction or descriptor word (R8: bit 0 is the least significant). -/
abbrev Word := BitVec 64

/-- One byte of memory (R9). -/
abbrev Byte := BitVec 8

/-- A sparse table: pairs of a key and a value, keys strictly rising, no pair equal to what an unlisted key reads as.
What an unlisted key reads as is the default named where the table is read (see Machine/Maps.lean). -/
abbrev SMap (α : Type) := List (Nat × α)

end Sys2Proof
end

