-- ==== Sys2Proof/Syntax.lean ====
section
/-! DEFINITION. The commands of the block: one constructor of `Instr` per row of spec/opcode_table.json. A command is a
write from outside, an instruction issued by a stream of a core, a frame, a pin event, or one of the part's own whole
steps (spec/95_what_each_step_holds.md). What the device itself cannot know (a temperature, an ECC outcome, the bytes a
host or a peer returns, the bits a stream fetched) is an operand. -/

namespace Sys2Proof

/-- The three instruction streams of a core: forward, backward, update (R86). -/
inductive StreamId where
  | F | B | U
deriving DecidableEq, Repr

/-- What the ECC decoder found in a sector (R460 to R462): nothing, `n` corrected codewords, or an uncorrectable one.
DESIGN CHOICE: notes/assumptions/4. -/
inductive Ecc where
  | clean | corrected (n : Nat) | uncorrectable
deriving DecidableEq, Repr

/-- What an issuing instruction carries besides its opcode: the logical core L, the stream, the streams that offer an
instruction to the same shared unit in the same cycle (R88), the predicate fields (R128) and bits [47:0] (R124); what the
scratchpad's decoder finds in the words that the instruction reads (R97), where the command has no operand of its own for it; and
whether the stream offers it in the very cycle in which a fault of a sibling halts the stream (R163).
DESIGN CHOICE: notes/assumptions/4, 6. -/
structure Insn where
  core   : Nat
  stream : StreamId
  rivals : List StreamId
  pred   : BitVec 3
  pneg   : Bool
  body   : BitVec 48
  ecc    : Ecc := .clean
  tied   : Bool := false
deriving DecidableEq, Repr

/-- Who makes a configuration-space access (R39, R89, R545). -/
inductive Path where
  | host | mgmt | monitor | peerMgmt
deriving DecidableEq, Repr

/-- The read-only caches of a core (R98). -/
inductive RoKind where
  | instr | const | desc
deriving DecidableEq, Repr

/-- The timing parameters that a request may change (R62, R63). -/
inductive TimingParam where
  | period | slot | lead
deriving DecidableEq, Repr

/-- How a request outside this device ended (R148, R398, R443): the statuses of Table 12-6, a failed host read, or a
host-window refusal. -/
inductive Status where
  | ok | addrFault | unreachable | refused | timeout | hostLost | windowFault
deriving DecidableEq, Repr

/-- What came back for a request that left the device, whether the waybills matched (R103), and what the scratchpad's decoder
finds in the words that the request writes in part (R97).
DESIGN CHOICE: notes/assumptions/4. -/
structure Answer where
  status : Status
  data   : List Byte
  wbOk   : Bool
  ecc    : Ecc := .clean
deriving DecidableEq, Repr

/-- One device's announcement in a root election (R55, R56). -/
structure Candidate where
  dev       : Nat
  tickInput : Bool
  prio      : Nat
  stage     : Nat
deriving DecidableEq, Repr

/-- What a milestone carries from the root to the other devices (R50, R62, R72, R80): the timebase value it is issued for, the
number of the stage that it opens, the period, the slot fraction, the lead and the stretch limit in force from then on, and
whether the root's milestones follow MS_TICK. DESIGN CHOICE: notes/assumptions/45. -/
structure RootWord where
  time   : Nat
  stage  : Nat
  period : Nat
  slot   : Nat
  lead   : Nat
  limit  : Nat
  ext    : Bool
deriving DecidableEq, Repr

/-- What a milestone brings: the root's word, and the times measured in the stage that ends (R349). DESIGN CHOICE:
notes/assumptions/45. -/
structure MilestoneIn where
  root  : RootWord
  phase : List Nat
deriving DecidableEq, Repr

/-- One background piece that runs in a service slot (R66), with what it observes: a scrub the symbols in error of each codeword of the
sector that is next, beyond those of a stored flaw; a self-test of a pseudo-channel the lanes (die and lane) that fail, one of a lane
group the lanes that fail. -/
inductive Piece where
  | audit (slice : Nat)
  | scrub (stack : Nat) (errs : List (List Nat)) (astray : Bool)
  | migrate (stack lines : Nat)
  | moveService
  | selfTestLane (stack pc : Nat) (failed : List (Nat × Nat))
  | selfTestGroup (group : Nat) (failed : List Nat)
  | copyAudit (stack : Nat)
  | replicaAudit (stack : Nat)
  | remeasure (cluster phys vminMv : Nat)
deriving DecidableEq, Repr

/-- Damage that stored data takes (R97, R458, R460): a sector of stack memory, of the reserve or of the pinned window (`dram`) or its
copy in Verge (`verge`): the symbols in error of each of its codewords, whether it is read from a wrong place, bytes that change beneath
their waybill, or a mismatch that only the next check meets; a word of a core's scratchpad that a read finds correctable, or not.
DESIGN CHOICE: notes/assumptions/111. -/
inductive Strike where
  | dram (sector : Nat) (errs : List (List Nat)) (astray : Bool) (data : Option (List Byte)) (once : Bool)
  | verge (sector : Nat) (errs : List (List Nat)) (data : Option (List Byte)) (once : Bool)
  | scratch (core off : Nat) (uncorrectable : Bool)
deriving DecidableEq, Repr

/-- The run of a background piece (R66): the piece, the timebase value at which it starts, how long it takes in ns, and whether
foreground work or an early tick cuts it short. DESIGN CHOICE: notes/assumptions/102. -/
structure PieceRun where
  piece : Piece
  start : Nat
  ns    : Nat
  cut   : Bool := false
deriving DecidableEq, Repr

/-- What the controller measures for a service slot (R494, R497): the device's and clusters' mean power, energy drawn,
and the critical-path monitors' Vmin of each physical core at each frequency step (key: 32 × (136 × cluster + physical core) + step),
with the members that have background work pending, the pieces that run, and the damage that stored data has taken since.
DESIGN CHOICE: notes/assumptions/4. -/
structure SlotIn where
  devPowerW  : Nat
  clPowerDw  : SMap Nat
  energyMj   : Nat
  vminMv     : SMap Nat
  pending    : List Nat
  pieces     : List PieceRun
  strikes    : List Strike := []
deriving DecidableEq, Repr

/-- What a Read or Write is for, where its receiver must know and Table 12-2 has no field for it: nothing more, an access issued by a
management core of the source (R44), a request for the waybill of an owner's sector (R478). DESIGN CHOICE: notes/assumptions/107. -/
inductive FrameWhy where
  | plain | mgmt | audit
deriving DecidableEq, Repr

/-- The header of a causeway frame (Table 12-2), with what its receiver knows of its purpose (R44, R478). -/
structure FrameHdr where
  type   : Nat
  cls    : Nat
  vc     : Nat
  length : Nat
  dst    : Nat
  src    : Nat
  tag    : Nat
  op     : Nat
  status : Nat
  detour : Nat
  rsv    : Nat
  addr   : Nat
  why    : FrameWhy := .plain
deriving DecidableEq, Repr

/-- A codeword as a port's decoder gives it (R387, Table 12-1): the symbol errors that it met beyond the corrections told by lane,
the stream bytes, and the link fields beside seq, ack and nak. The parity symbols and the field arithmetic of the Reed-Solomon code are
not the spec's, so what the decoder met is observed. DESIGN CHOICE: notes/assumptions/108. -/
structure RxWord where
  errors : Nat
  stream : List Byte
  first  : Nat
  marker : Bool
  signal : Nat
  stage  : Nat
  check  : BitVec 32
deriving DecidableEq, Repr

/-- What a Kerb frame carries (R388): a command block, a status record, or a contribution block (R311, R312). -/
inductive KerbPayload where
  | command (words : List Word) (id : Nat)
  | status (id : Nat) (word0 word1 : Word)
  | contribution (shard block step epoch replica : Nat) (codes : List Byte) (scale : BitVec 16) (last : Bool)
deriving DecidableEq, Repr

/-- What a bring-up frame carries (R394): the lowest UID seen, coordinates, the coordinates of one member on their way to the origin,
the origin's count. DESIGN CHOICE: notes/assumptions/109. -/
inductive BringupInfo where
  | uid (u : Word)
  | coords (fromPort : Nat) (c : Nat)
  | member (dev : Nat)
  | count (members : Nat)
deriving DecidableEq, Repr

/-- Which piece of which collective a collective frame or acknowledgement names (R407, R411). -/
structure PieceId where
  id    : Nat
  phase : Nat
  dim   : Nat
  step  : Nat
  dir   : Nat
  piece : Nat
deriving DecidableEq, Repr

/-- The fields of a collective record that every member must agree on (R411). -/
structure CollKey where
  op    : Nat
  dtype : Nat
  mask  : Nat
  c     : Nat
  root  : Nat
  epoch : Nat
deriving DecidableEq, Repr

/-- The bytes of a piece that one frame carries, at most 512, with their place in the piece (R388, R408). -/
structure PieceBytes where
  off  : Nat
  data : List Byte
deriving DecidableEq, Repr

/-- The kinds of host reset (R418). -/
inductive HostResetKind where
  | hot | perst | linkDisable | flr
deriving DecidableEq, Repr

/-- Requests of kinds the function does not support (R417, R419). -/
inductive UrKind where
  | atomicOp | translated | outsideBars | bar0Unmapped | poisonedWrite | other
deriving DecidableEq, Repr

/-- The result of the checks that a boot step makes outside the model: rails, clocks, training and lanes, the fuse and
non-volatile words read, and the verdict of R530 on each firmware slot (0 passes, 1 to 5 the refusal reason).
DESIGN CHOICE: notes/assumptions/4. -/
structure BootIn where
  verdictA   : Option Nat
  verdictB   : Option Nat
  svnA       : Nat
  svnB       : Nat
  failedSens : List Nat
  lanes      : List (Nat × List Nat)
deriving DecidableEq, Repr

/-- A write to BAR4 that falls into the 64 bytes of a channel index (R435): its offset there, its width in bytes, its data. One that is no
naturally aligned 64-bit write of a doorbell word is dropped by the row that names it. DESIGN CHOICE: notes/assumptions/112. -/
structure BellWrite where
  at_   : Nat
  width : Nat := 8
  data  : Word
deriving DecidableEq, Repr

/-- A monitor line's length in characters (R544). -/
abbrev LineLen := Nat

/-- One constructor per row of spec/opcode_table.json, in the table's order. -/
inductive Instr where
  -- registers and milestones (chapters 00 and 02)
  | registerWrite (src : Path) (off width : Nat) (data : Word)
  | milestone (m : MilestoneIn)
  | lateSample
  | serviceSlot (m : SlotIn)
  | lateSignal (port : Nat) (stage : BitVec 12)
  | clearSignal (port : Nat) (stage : BitVec 12)
  | releaseFrame (port r stage : Nat)
  | stretchLimit
  | msTickEdge (e : Nat)
  | tickMissed
  | scheduleAnnounce (port s : Nat)
  | mstTickModeWrite (mode : BitVec 2)
  | mstEnable
  | timingRequest (p : TimingParam) (v : Nat)
  | rootLost (cands : List Candidate)
  | timeSyncTimer
  | timeSyncFrame (port parentTime rttNs errPs : Nat) (held : Bool)
  -- core registers and events (chapter 03)
  | streamStartRequest (core : Nat) (streams : BitVec 3)
  | streamHaltRequest (core : Nat) (streams : BitVec 3)
  | roInvalidate (core : Nat)
  | coreIssueWrite (core : Nat) (order : BitVec 3) (rotate : BitVec 2)
  | streamHalted (core : Nat) (t : StreamId)
  | dbgDataWrite (core : Nat) (data : Word)
  | roCacheFill (core : Nat) (c : RoKind) (line : Nat) (wbOk : Bool)
  -- control instructions (chapter 04, class 0)
  | nop (x : Insn)
  | br (x : Insn)
  | jal (x : Insn)
  | branchCompare (fn : BitVec 4) (x : Insn)
  | jr (x : Insn)
  | jalr (x : Insn)
  | loop (x : Insn)
  | halt (x : Insn)
  | brk (x : Insn)
  | issue (x : Insn)
  -- scalar arithmetic (class 1)
  | scalarAlu (fn : BitVec 4) (x : Insn)
  | scalarAluImm (fn : BitVec 4) (x : Insn)
  | scalarMulDiv (fn : BitVec 4) (x : Insn)
  | cmp (fn : BitVec 4) (x : Insn)
  | cmpi (fn : BitVec 4) (x : Insn)
  | li (x : Insn)
  | lih (x : Insn)
  | scalarFp (fn : BitVec 4) (x : Insn)
  | fma (x : Insn)
  | fcmp (fn : BitVec 4) (x : Insn)
  -- scratchpad (class 2)
  | ld (fn : BitVec 4) (x : Insn) (ecc : Ecc)
  | st (fn : BitVec 4) (x : Insn) (ecc : Ecc)
  | atom (fn : BitVec 4) (x : Insn) (ecc : Ecc)
  -- movement (class 3)
  | movd (x : Insn)
  | movr (fn : BitVec 4) (x : Insn)
  | movementRequestIssue (core : Nat) (t : StreamId) (desc : Nat) (ecc : Ecc)
  | movementRequestDone (core : Nat) (req : Nat) (a : Answer)
  -- milestone and synchronisation (class 7)
  | waitMs (x : Insn)
  | ctrInc (x : Insn)
  | ctrWait (x : Insn)
  | ctrWaitR (x : Insn)
  | layerBegin (x : Insn)
  | layerEnd (x : Insn)
  | rdms (fn : BitVec 4) (x : Insn)
  -- cache maintenance (class 8)
  | pfCch (x : Insn) (drops : List Nat)
  | pfVrg (x : Insn) (drops : List Nat)
  | flush (x : Insn)
  | flushInv (x : Insn)
  | invCch (x : Insn)
  | dead (x : Insn)
  | pin (x : Insn)
  | unpin (x : Insn)
  | roinv (x : Insn)
  | maintenanceComplete (core op : Nat)
  -- matrix unit (class 4)
  | mma (x : Insn) (ecc : Ecc)
  | mmaComplete (core op : Nat)
  | accZero (x : Insn)
  | accLdF32 (x : Insn)
  | accLdF32s (x : Insn)
  | drainF32 (x : Insn)
  | drainF32s (x : Insn)
  | drainBf16 (x : Insn)
  | drainBf16Sr (x : Insn)
  | rdacc (x : Insn)
  | mxuStatClear (core : Nat)
  -- conversion and random (class 9), logbook, audit
  | cvt (x : Insn)
  | cvtSr (x : Insn)
  | cvtSat (x : Insn)
  | cvtSrSat (x : Insn)
  | scale (x : Insn)
  | rndK (x : Insn)
  | rndF (x : Insn)
  | provisionalWaitTimeout (req : Nat)
  | logEnable
  | logTailWrite (tail : BitVec 32)
  | auditClear
  -- vector engine (class 5)
  | vectorArith (fn : BitVec 4) (x : Insn) (ecc : Ecc)
  | vfma (fn : BitVec 4) (x : Insn)
  | vectorUnary (fn : BitVec 4) (x : Insn)
  | activation (fn : BitVec 4) (x : Insn)
  | activationBackward (fn : BitVec 4) (x : Insn)
  | rowReduction (fn : BitVec 4) (x : Insn)
  | scan (fn : BitVec 4) (x : Insn)
  | smaxF (x : Insn)
  | smaxB (x : Insn)
  | lnF (rms : Bool) (x : Insn)
  | lnB (rms : Bool) (x : Insn)
  | lnBsum (rms : Bool) (x : Insn)
  | vdrop (x : Insn)
  | rdvf (x : Insn)
  | vecStatClear (core : Nat)
  | vecFlagsClear (core : Nat) (t : StreamId) (data : Word)
  -- memory hierarchy (chapter 08)
  | cchFill (req : Nat) (bad : Bool)
  | vergeRequest (req : Nat) (ecc : Ecc)
  | vergeFill (sector : Nat) (errs : List (List Nat)) (wbOk astray : Bool)
  | windowWaysWrite (slice : Nat) (ways : BitVec 4)
  | windowChangeDone (slice : Nat)
  | cchStatClear
  | vrgStatClear
  | coreStallClear (core : Nat)
  -- Kerb engines (chapter 09)
  | kcmd (x : Insn)
  | shardOpen (engine cmd : Nat)
  | shardClose (engine cmd : Nat)
  | lease (engine cmd : Nat)
  | kerbRelease (engine cmd : Nat)
  | gradClose (engine cmd : Nat)
  | update (engine cmd : Nat)
  | regen (engine cmd : Nat)
  | kerbUnpark (engine cmd : Nat)
  | kerbCommandComplete (engine cmd : Nat)
  | keeperPush (stack : Nat)
  | contributionBlock (p : KerbPayload)
  | krbStatClear
  -- training step (chapter 10)
  | stepCtrlLoad
  | stepRun
  | stepPause
  | stepStop
  | phaseEnable
  | epochRequest (epoch : BitVec 16) (step : BitVec 32)
  | epochDrained
  | epochCommitWrite (stage : BitVec 48)
  -- attention (chapter 11)
  | atnRegister (ring : Nat)
  | atnUnregister (ring : Nat)
  | atnRead (ring : Nat)
  | atnWrite (ring : Nat)
  | atnRelease (ring : Nat)
  | atnCommit (ring : Nat)
  | atnResync (table : Nat)
  | atnPrefetch (ring : Nat)
  | atnSpill (ring : Nat)
  | atnRingPoll (ring : Nat)
  | atnUnpark (ring : Nat)
  | pageTransferDone (id : Nat) (ok : Bool) (data : List Byte)
  | atnEnable (en : Bool)
  | atnRingEnable (ring : Nat)
  | atnStatClear
  -- causeway fabric (chapter 12)
  | codeword (port seq ack : Nat) (nak : Bool) (rx : RxWord) (corrected : List Nat)
  | readFrame (port : Nat) (h : FrameHdr)
  | writeFrame (port : Nat) (h : FrameHdr) (data : List Byte)
  | kerbFrame (port : Nat) (h : FrameHdr) (p : KerbPayload)
  | responseFrame (port : Nat) (h : FrameHdr) (data : List Byte)
  | collectiveFrame (port : Nat) (h : FrameHdr) (p : PieceId) (k : CollKey) (data : PieceBytes)
  | collectiveAck (port : Nat) (h : FrameHdr) (p : PieceId)
  | creditFrame (port cls vc n : Nat)
  | bringupFrame (port : Nat) (b : BringupInfo)
  | resendMarker (port failedPort seq : Nat)
  | nakFrame (port code : Nat) (word0 : Word)
  | requestTimeout (tag : Nat)
  | portEnable (port : Nat)
  | portDisable (port : Nat)
  | portRetrain (port : Nat)
  | partnerDetected (port : Nat) (lanes : BitVec 5)
  | detectTimeout (port : Nat)
  | trainDone (port : Nat) (lanes : BitVec 5)
  | alignLock (port : Nat)
  | alignTimeout (port : Nat)
  | exchange (port partnerRings partnerPort partnerId : Nat)
  | retrainDone (port ack : Nat) (lanes : BitVec 5)
  | retrainTimeout (port : Nat)
  | fabricStart
  | bringupPortsSettled
  | originSettled
  | bringupComplete (lateFlood clearRelease : Nat) (cands : List Candidate)
  | collectiveRecord (queue : Nat)
  | collectiveStepStart (id : Nat)
  | collectiveTimeout (id : Nat)
  | cwyStatClear
  -- host interface (chapter 13)
  | hostReset (k : HostResetKind)
  | dataLinkDown
  | dataLinkUp (speed width : Nat) (flit : Bool)
  | linkRetrainExpiry
  | busMasterDisable
  | busMasterEnable
  | bar2Write (off : Nat) (data : List Byte) (poisoned : Bool)
  | bar2Read (off len : Nat)
  | commandDoorbell (index : Nat) (b : BellWrite)
  | completionDoorbell (index : Nat) (b : BellWrite)
  | create
  | destroy
  | channelFreed (index : Nat)
  | resume
  | adopt
  | confirm
  | entryFetch (index : Nat) (bytes : List Byte)
  | entryReread (index : Nat) (bytes : List Byte)
  | cmdNop (index n : Nat)
  | copy (index n : Nat) (hostData : List Byte)
  | writeInline (index n : Nat)
  | start (index n : Nat)
  | cmdHalt (index n : Nat)
  | cmdKerb (index n : Nat)
  | regionReg (index n : Nat)
  | regionDereg (index n : Nat)
  | placeReg (index n : Nat)
  | placeDereg (index n : Nat)
  | stepLoad (index n : Nat)
  | fillerUnit (index n : Nat)
  | entryComplete (index n : Nat) (written : Bool)
  | holdExpiry
  | keepEnter
  | keepRelease
  | keepReclaim (token : Word)
  | hstStatClear
  -- integrity and repair (chapter 14)
  | waybillReread (sector : Nat) (ok : Bool)
  | repairDone (sector : Nat)
  | replicaRefetch (sector : Nat) (data : List Byte)
  | coreRetire (cluster phys : Nat)
  | repLogEnable
  | repStatClear
  -- power, clocks, reset (chapter 15)
  | powerLoss
  | powerGood (straps : BitVec 5)
  | bootStepDone (b : BootIn)
  | bootStepTimeout (cause : Nat)
  | bootBackoffExpiry
  | pwrResetDevice (key : BitVec 8)
  | pwrResetRoadbed (key : BitVec 8)
  | culvertHold (pastVerge : List Nat)
  | culvertRelease
  | roadbedAuthDone (b : BootIn)
  | sysReset
  | sysResetRelease
  | watchdogKick
  | watchdogExpiry
  | vrAlertAssert
  | vrAlertRelease
  | lowestStateEnd
  | railRiseDone (cluster : Nat)
  | clusterPllUnlock (cluster : Nat)
  | clusterPllRelock (cluster : Nat)
  | roadbedPllUnlock
  | pwrStatClear
  -- thermal (chapter 16)
  | thermalSample (readings : List (Nat × Int)) (badCode : List Nat)
  | throttleEnd
  | bandPendingTimeout
  | restartCountExpiry
  | thmStatClear
  -- management and security (chapter 17)
  | fwInstall
  | fwInstallDone (storeOk : Bool)
  | commitSvn
  | debugUnlock (src : Path)
  | getVersion (version : Nat)
  | getCapabilities (version : Nat)
  | negotiateAlgorithms (version : Nat) (offersP384 offersSha384 offersDmtf : Bool)
  | getDigests (version : Nat)
  | getCertificate (version slot off len : Nat)
  | challenge (version slot : Nat) (nonce : BitVec 256)
  | getMeasurements (version index : Nat) (sign : Bool) (nonce : BitVec 256)
  | doeAbort
  | icuClaim (core : Nat)
  | icuEoi (core : Nat) (source : BitVec 10)
  | icuSwi (source : BitVec 10)
  | icuSrcWrite (n : Nat) (data : Word)
  | icuCountClear (n : Nat)
  | resourceClaim (r code : Nat)
  | resourceRelease (r path : Nat)
  | monId (len : LineLen)
  | monRd (len : LineLen) (addr : Word)
  | monWr (len : LineLen) (addr value : Word)
  | monSt (len : LineLen)
  | monTemp (len : LineLen)
  | monToken (len : LineLen)
  | monBaud (len : LineLen) (n : Nat)
  | monHalt (len : LineLen) (core m : Nat)
  | monResetRoadbed (len : LineLen)
  | monResetDevice (len : LineLen)
  | monStatClear
  | telExpEnable
  | smbusIdentRead
  | smbusBootRead
  | smbusThermalRead
  | smbusPowerRead
  -- steps added at the end of the table
  | vectorInstructionComplete (core op : Nat)
  | drainComplete (core op : Nat)
  | illegalInstruction (core : Nat) (stream : StreamId) (word : Word)
  | keepReleaseComplete
  | collectiveQueueEnable (i : Nat)
  | configurationWrite (off : Nat) (data : BitVec 32)
  | unsupportedRequest (k : UrKind)
  | msixHoldoffExpiry (vector : Nat)
  | doeDiscovery (index : Nat)
  | spdmUnsupportedRequest (version code : Nat)
  | monitorUnknownCommand (len : LineLen)
  | codewordLockLoss (port : Nat)
  | perstRelease
  | boundaryScanClock (tms tdi : Bool)
deriving DecidableEq, Repr

end Sys2Proof
end

