-- ==== Sys2Proof/Decode.lean ====
section
/-! DEFINITION. Decoding. spec/opcode_table.json gives no row any bits, so no table word spells a command. The instruction
words of the streams have an encoding of their own (R124, R125, the opcode tables of chapters 04 to 09): which command a
stream's word stands for, and the word of a command, follow. -/

namespace Sys2Proof

/-- The command that a word spells by the table's bits: none, since the table gives its rows no bits.
DEDUCED: notes/assumptions/10. -/
def decodeTableWord (_nbits _w : Nat) : Option Instr := none

/-! ### Instruction words -/

/-- What issuing an instruction word brings besides the word: the core, the stream, its rivals, and what the scratchpad's decoder
and the slices observe (for an instruction with an operand of its own for it, and for every other), and whether a sibling's fault
halts the stream in this cycle. -/
structure Site where
  core   : Nat
  stream : StreamId
  rivals : List StreamId
  ecc    : Ecc := .clean
  drops  : List Nat := []
  own    : Ecc := .clean
  tied   : Bool := false
deriving DecidableEq, Repr

/-- How many functions an opcode has, numbered from 0; 0 where no instruction has the opcode (R125). -/
def fnCount (op : BitVec 8) : Nat :=
  match op.toNat with
  | 0x00 => 1 | 0x01 => 2 | 0x02 => 6 | 0x03 => 2 | 0x04 => 1 | 0x05 => 1 | 0x06 => 1 | 0x07 => 1
  | 0x10 => 12 | 0x11 => 12 | 0x12 => 7 | 0x13 => 6 | 0x14 => 6 | 0x15 => 2 | 0x16 => 10 | 0x17 => 1 | 0x18 => 4
  | 0x20 => 7 | 0x21 => 4 | 0x22 => 3
  | 0x30 => 1 | 0x31 => 3
  | 0x40 => 1 | 0x41 => 3 | 0x42 => 4 | 0x43 => 1
  | 0x50 => 6 | 0x51 => 3 | 0x52 => 8 | 0x53 => 6 | 0x54 => 7 | 0x55 => 5 | 0x56 => 4 | 0x57 => 2 | 0x58 => 6 | 0x59 => 1
  | 0x5A => 1
  | 0x60 => 1
  | 0x70 => 1 | 0x71 => 1 | 0x72 => 2 | 0x73 => 1 | 0x74 => 1 | 0x75 => 7
  | 0x80 => 8 | 0x81 => 1
  | 0x90 => 4 | 0x91 => 1 | 0x92 => 2
  | _ => 0

/-- The command of an opcode and a function that the opcode has, with its operands. -/
def commandOf (c : Site) (op : BitVec 8) (fn : BitVec 4) (x : Insn) : Option Instr :=
  match op.toNat, fn.toNat with
  | 0x00, _ => some (.nop x)
  | 0x01, 0 => some (.br x)
  | 0x01, _ => some (.jal x)
  | 0x02, _ => some (.branchCompare fn x)
  | 0x03, 0 => some (.jr x)
  | 0x03, _ => some (.jalr x)
  | 0x04, _ => some (.loop x)
  | 0x05, _ => some (.halt x)
  | 0x06, _ => some (.brk x)
  | 0x07, _ => some (.issue x)
  | 0x10, _ => some (.scalarAlu fn x)
  | 0x11, _ => some (.scalarAluImm fn x)
  | 0x12, _ => some (.scalarMulDiv fn x)
  | 0x13, _ => some (.cmp fn x)
  | 0x14, _ => some (.cmpi fn x)
  | 0x15, 0 => some (.li x)
  | 0x15, _ => some (.lih x)
  | 0x16, _ => some (.scalarFp fn x)
  | 0x17, _ => some (.fma x)
  | 0x18, _ => some (.fcmp fn x)
  | 0x20, _ => some (.ld fn x c.ecc)
  | 0x21, _ => some (.st fn x c.ecc)
  | 0x22, _ => some (.atom fn x c.ecc)
  | 0x30, _ => some (.movd x)
  | 0x31, _ => some (.movr fn x)
  | 0x40, _ => some (.mma x c.ecc)
  | 0x41, 0 => some (.accZero x)
  | 0x41, 1 => some (.accLdF32 x)
  | 0x41, _ => some (.accLdF32s x)
  | 0x42, 0 => some (.drainF32 x)
  | 0x42, 1 => some (.drainF32s x)
  | 0x42, 2 => some (.drainBf16 x)
  | 0x42, _ => some (.drainBf16Sr x)
  | 0x43, _ => some (.rdacc x)
  | 0x50, _ => some (.vectorArith fn x c.ecc)
  | 0x51, _ => some (.vfma fn x)
  | 0x52, _ => some (.vectorUnary fn x)
  | 0x53, _ => some (.activation fn x)
  | 0x54, _ => some (.activationBackward fn x)
  | 0x55, _ => some (.rowReduction fn x)
  | 0x56, _ => some (.scan fn x)
  | 0x57, 0 => some (.smaxF x)
  | 0x57, _ => some (.smaxB x)
  | 0x58, 0 => some (.lnF false x)
  | 0x58, 1 => some (.lnF true x)
  | 0x58, 2 => some (.lnB false x)
  | 0x58, 3 => some (.lnB true x)
  | 0x58, 4 => some (.lnBsum false x)
  | 0x58, _ => some (.lnBsum true x)
  | 0x59, _ => some (.vdrop x)
  | 0x5A, _ => some (.rdvf x)
  | 0x60, _ => some (.kcmd x)
  | 0x70, _ => some (.waitMs x)
  | 0x71, _ => some (.ctrInc x)
  | 0x72, 0 => some (.ctrWait x)
  | 0x72, _ => some (.ctrWaitR x)
  | 0x73, _ => some (.layerBegin x)
  | 0x74, _ => some (.layerEnd x)
  | 0x75, _ => some (.rdms fn x)
  | 0x80, 0 => some (.pfCch x c.drops)
  | 0x80, 1 => some (.pfVrg x c.drops)
  | 0x80, 2 => some (.flush x)
  | 0x80, 3 => some (.flushInv x)
  | 0x80, 4 => some (.invCch x)
  | 0x80, 5 => some (.dead x)
  | 0x80, 6 => some (.pin x)
  | 0x80, _ => some (.unpin x)
  | 0x81, _ => some (.roinv x)
  | 0x90, 0 => some (.cvt x)
  | 0x90, 1 => some (.cvtSr x)
  | 0x90, 2 => some (.cvtSat x)
  | 0x90, _ => some (.cvtSrSat x)
  | 0x91, _ => some (.scale x)
  | 0x92, 0 => some (.rndK x)
  | 0x92, _ => some (.rndF x)
  | _, _ => none

/-- The operands of a word issued at a site (Table 04-1). -/
def insnOf (c : Site) (w : Word) : Insn :=
  { core := c.core, stream := c.stream, rivals := c.rivals, pred := BitVec.ofNat 3 (w.toNat / 2 ^ 53)
    pneg := w.toNat / 2 ^ 52 % 2 == 1, body := BitVec.ofNat 48 w.toNat, ecc := c.own, tied := c.tied }

/-- The command that a word is, issued at a site (R124, R125); none where no table defines its opcode or its function: such a word
is an illegal instruction. DESIGN CHOICE: notes/assumptions/6. -/
def decodeWord (c : Site) (w : Word) : Option Instr :=
  let op := BitVec.ofNat 8 (w.toNat / 2 ^ 56)
  let fn := BitVec.ofNat 4 (w.toNat / 2 ^ 48)
  if fn.toNat < fnCount op then commandOf c op fn (insnOf c w) else none

/-- The opcode, the function and the operands of a command that is an instruction. -/
def opcodeOf : Instr → Option (BitVec 8 × BitVec 4 × Insn)
  | .nop x => some (0x00, 0, x)
  | .br x => some (0x01, 0, x)
  | .jal x => some (0x01, 1, x)
  | .branchCompare fn x => some (0x02, fn, x)
  | .jr x => some (0x03, 0, x)
  | .jalr x => some (0x03, 1, x)
  | .loop x => some (0x04, 0, x)
  | .halt x => some (0x05, 0, x)
  | .brk x => some (0x06, 0, x)
  | .issue x => some (0x07, 0, x)
  | .scalarAlu fn x => some (0x10, fn, x)
  | .scalarAluImm fn x => some (0x11, fn, x)
  | .scalarMulDiv fn x => some (0x12, fn, x)
  | .cmp fn x => some (0x13, fn, x)
  | .cmpi fn x => some (0x14, fn, x)
  | .li x => some (0x15, 0, x)
  | .lih x => some (0x15, 1, x)
  | .scalarFp fn x => some (0x16, fn, x)
  | .fma x => some (0x17, 0, x)
  | .fcmp fn x => some (0x18, fn, x)
  | .ld fn x _ => some (0x20, fn, x)
  | .st fn x _ => some (0x21, fn, x)
  | .atom fn x _ => some (0x22, fn, x)
  | .movd x => some (0x30, 0, x)
  | .movr fn x => some (0x31, fn, x)
  | .mma x _ => some (0x40, 0, x)
  | .accZero x => some (0x41, 0, x)
  | .accLdF32 x => some (0x41, 1, x)
  | .accLdF32s x => some (0x41, 2, x)
  | .drainF32 x => some (0x42, 0, x)
  | .drainF32s x => some (0x42, 1, x)
  | .drainBf16 x => some (0x42, 2, x)
  | .drainBf16Sr x => some (0x42, 3, x)
  | .rdacc x => some (0x43, 0, x)
  | .vectorArith fn x _ => some (0x50, fn, x)
  | .vfma fn x => some (0x51, fn, x)
  | .vectorUnary fn x => some (0x52, fn, x)
  | .activation fn x => some (0x53, fn, x)
  | .activationBackward fn x => some (0x54, fn, x)
  | .rowReduction fn x => some (0x55, fn, x)
  | .scan fn x => some (0x56, fn, x)
  | .smaxF x => some (0x57, 0, x)
  | .smaxB x => some (0x57, 1, x)
  | .lnF rms x => some (0x58, if rms then 1 else 0, x)
  | .lnB rms x => some (0x58, if rms then 3 else 2, x)
  | .lnBsum rms x => some (0x58, if rms then 5 else 4, x)
  | .vdrop x => some (0x59, 0, x)
  | .rdvf x => some (0x5A, 0, x)
  | .kcmd x => some (0x60, 0, x)
  | .waitMs x => some (0x70, 0, x)
  | .ctrInc x => some (0x71, 0, x)
  | .ctrWait x => some (0x72, 0, x)
  | .ctrWaitR x => some (0x72, 1, x)
  | .layerBegin x => some (0x73, 0, x)
  | .layerEnd x => some (0x74, 0, x)
  | .rdms fn x => some (0x75, fn, x)
  | .pfCch x _ => some (0x80, 0, x)
  | .pfVrg x _ => some (0x80, 1, x)
  | .flush x => some (0x80, 2, x)
  | .flushInv x => some (0x80, 3, x)
  | .invCch x => some (0x80, 4, x)
  | .dead x => some (0x80, 5, x)
  | .pin x => some (0x80, 6, x)
  | .unpin x => some (0x80, 7, x)
  | .roinv x => some (0x81, 0, x)
  | .cvt x => some (0x90, 0, x)
  | .cvtSr x => some (0x90, 1, x)
  | .cvtSat x => some (0x90, 2, x)
  | .cvtSrSat x => some (0x90, 3, x)
  | .scale x => some (0x91, 0, x)
  | .rndK x => some (0x92, 0, x)
  | .rndF x => some (0x92, 1, x)
  | _ => none

/-- What issuing a command observes besides its word. -/
def siteOf : Instr → Site
  | .ld _ x e => ⟨x.core, x.stream, x.rivals, e, [], x.ecc, x.tied⟩
  | .st _ x e => ⟨x.core, x.stream, x.rivals, e, [], x.ecc, x.tied⟩
  | .atom _ x e => ⟨x.core, x.stream, x.rivals, e, [], x.ecc, x.tied⟩
  | .mma x e => ⟨x.core, x.stream, x.rivals, e, [], x.ecc, x.tied⟩
  | .vectorArith _ x e => ⟨x.core, x.stream, x.rivals, e, [], x.ecc, x.tied⟩
  | .pfCch x d => ⟨x.core, x.stream, x.rivals, .clean, d, x.ecc, x.tied⟩
  | .pfVrg x d => ⟨x.core, x.stream, x.rivals, .clean, d, x.ecc, x.tied⟩
  | i => match opcodeOf i with
    | some (_, _, x) => ⟨x.core, x.stream, x.rivals, .clean, [], x.ecc, x.tied⟩
    | none => ⟨0, .F, [], .clean, [], .clean, false⟩

/-- The word of an opcode, a function and operands (Table 04-1). -/
def wordOfFields (op : BitVec 8) (fn : BitVec 4) (x : Insn) : Word :=
  BitVec.ofNat 64 (op.toNat * 2 ^ 56 + x.pred.toNat * 2 ^ 53 + x.pneg.toNat * 2 ^ 52 + fn.toNat * 2 ^ 48 + x.body.toNat)

/-- The word of a command that is an instruction. DESIGN CHOICE: notes/assumptions/6. -/
def encodeWord (i : Instr) : Option Word := (opcodeOf i).map (fun f => wordOfFields f.1 f.2.1 f.2.2)

/-- Whether a command is an instruction whose function its opcode has. -/
def encodable (i : Instr) : Bool :=
  match opcodeOf i with
  | some (op, fn, _) => decide (fn.toNat < fnCount op)
  | none => false

end Sys2Proof
end

