-- ==== Sys2Proof/Config.lean ====
section
/-! DEFINITION. What the spec leaves open. Each constant below has no body: nothing in Lean can evaluate it or prove a value
of it, so a claim about the model holds whatever the device does there. Where a free value has a bound in the spec, the
machine uses the constant only within that bound. -/

namespace Sys2Proof

/-- A byte that the spec leaves unspecified, named by the number of the free value (State.free) and its place.
DESIGN CHOICE: notes/assumptions/11, 29. -/
opaque Config.freeByte : Nat → Nat → Byte

/-- A 64-bit word that the spec leaves unspecified, named by the number of the free value and its place.
DESIGN CHOICE: notes/assumptions/29. -/
opaque Config.freeWord : Nat → Nat → BitVec 64

/-- A bounded rounding freedom: for the free value of a number, an operation and its operand, some integer. The machine
takes it only when it lies within the bound that the spec states. DEDUCED: notes/assumptions/33, 36, 51. -/
opaque Config.freeRound : Nat → Nat → Int

/-- A number that the spec leaves open, named by the number of the free value. DEDUCED: notes/assumptions/27. -/
opaque Config.freeNat : Nat → Nat

/-- The hash that selects an MMA for the precision audit (R217): stage, logical core, position of the MMA in the stage.
DESIGN CHOICE: notes/assumptions/39. -/
opaque Config.auditHash : Nat → Nat → Nat → Nat

/-- The SHA-384 digest of signing key k that the fuses hold (R530). DEDUCED: notes/assumptions/90. -/
opaque Config.keyDigest : Nat → Nat

/-- Whether an ECDSA P-384 signature is valid: public key bytes, hash, signature bytes (R530). DEDUCED: notes/assumptions/90. -/
opaque Config.verify : List Byte → Nat → List Byte → Bool

/-- The value of measurement i of Table 17-5 where the model does not hold what is measured: the boot ROM (1), the digest and
header bytes of an image that the model has not seen installed (2, 3, by slot). -/
opaque Config.measurement : Nat → Nat → Nat

/-- SHA-384 of a list of bytes (R534, R535). PRESUMED: notes/assumptions/89. -/
opaque Config.sha384 : List Byte → Nat

/-- The first byte and the others of the certificate chain of an alias key's digest (R534, R535). PRESUMED: notes/assumptions/89. -/
opaque Config.certificate : Nat → Byte × List Byte

/-- The ECDSA P-384 signature of the alias key of a digest over a hash (R534, R535). PRESUMED: notes/assumptions/89. -/
opaque Config.sign : Nat → Nat → Nat

/-- The frames, beyond the first, that a port's receive buffer for a pair of class and channel (2 × class + vc) holds (R393).
DESIGN CHOICE: notes/assumptions/100. -/
opaque Config.bufferFrames : Nat → Nat

/-- The byte at a place of the frame stream that a port fills the rest of a codeword with when a nak or a signal is to go and no
frame is ready: by port, sequence number and place (R387). DESIGN CHOICE: notes/assumptions/108. -/
opaque Config.idleByte : Nat → Nat → Nat → Byte

/-- The lane groups of the bonds, the culverts and the cores that the self-test covers (R475, R476), which the spec does not number.
DESIGN CHOICE: notes/assumptions/56. -/
opaque Config.laneGroups : Nat

end Sys2Proof
end

