-- ==== Sys2Proof/Machine/Fields.lean ====
section
/-! DEFINITION. Bit fields of 64-bit words (R8), the access types of register fields (R12) and the counters of registers. -/

namespace Sys2Proof.Machine

/-- A field of a 64-bit word: its lowest bit and its width. -/
structure Fld where
  lo    : Nat
  width : Nat
deriving DecidableEq, Repr

/-- The access types of Table 00-5; reserved fields are those in no layout. -/
inductive Acc where
  | rw | ro | wo | w1c
deriving DecidableEq, Repr

/-- One row of a register table. -/
structure FieldDef where
  fld   : Fld
  acc   : Acc
  reset : Nat
deriving DecidableEq, Repr

/-- A register or an array of registers: first offset, counts and strides of its instances, layout. -/
structure RegDef where
  base   : Nat
  dims   : List (Nat × Nat)
  fields : List FieldDef
deriving DecidableEq, Repr

/-- The value of a field. -/
def getf (w : Word) (f : Fld) : Nat := w.toNat / 2 ^ f.lo % 2 ^ f.width

/-- A word of all zeros but for a field holding `v` (its low bits). -/
def putf (f : Fld) (v : Nat) : Nat := (v % 2 ^ f.width) * 2 ^ f.lo

/-- The word with a field set to the low bits of `v`. -/
def setf (w : Word) (f : Fld) (v : Nat) : Word :=
  BitVec.ofNat 64 (w.toNat - getf w f * 2 ^ f.lo + putf f v)

/-- A one-bit field as a Bool. -/
def getb (w : Word) (f : Fld) : Bool := getf w f == 1

/-- Set a one-bit field. -/
def setb (w : Word) (f : Fld) (b : Bool) : Word := setf w f (if b then 1 else 0)

/-- A wrapping counter field (R288): advance by `n` modulo 2^width. -/
def addf (w : Word) (f : Fld) (n : Nat) : Word := setf w f (getf w f + n)

/-- A saturating counter field: advance by `n`, stopping at all ones. -/
def satf (w : Word) (f : Fld) (n : Nat) : Word := setf w f (min (getf w f + n) (2 ^ f.width - 1))

/-- Bits [hi:lo] of a natural number. -/
def bitsN (n hi lo : Nat) : Nat := n / 2 ^ lo % 2 ^ (hi + 1 - lo)

/-- Bits [hi:lo] of a word. -/
def bits (w : Word) (hi lo : Nat) : Nat := bitsN w.toNat hi lo

/-- Bit `i` of a word. -/
def bit (w : Word) (i : Nat) : Bool := bits w i i == 1

/-- `v` as a two's complement number of `n` bits. -/
def sextN (n v : Nat) : Int := let u := v % 2 ^ n; if u < 2 ^ (n - 1) then (u : Int) else (u : Int) - 2 ^ n

/-- An integer as an `n`-bit two's complement number. -/
def wrapN (n : Nat) (i : Int) : Nat := (i % (2 ^ n : Int)).toNat

/-- The signed value of a 64-bit word. -/
def sgn (w : Word) : Int := sextN 64 w.toNat

/-- A 64-bit word from an integer, modulo 2^64. -/
def wordOf (i : Int) : Word := BitVec.ofNat 64 (wrapN 64 i)

/-- The numbers 0 to n − 1. -/
def upto (n : Nat) : List Nat := List.range n

/-- The `n` bytes of a number, least significant first (R9). -/
def bytesOf : Nat → Nat → List Byte
  | 0, _ => []
  | n + 1, v => BitVec.ofNat 8 v :: bytesOf n (v / 256)

/-- The number whose little-endian bytes are given (R9). -/
def leNat : List Byte → Nat
  | [] => 0
  | b :: r => b.toNat + 256 * leNat r

/-- The index of an access or region instance: whether `off` names an instance of a register and which (R42). -/
def dimsHit : Nat → List (Nat × Nat) → Bool
  | d, [] => d == 0
  | d, (n, st) :: r => decide (d / st < n) && dimsHit (d % st) r

end Sys2Proof.Machine
end

