-- ==== Sys2Proof/Machine/Float.lean ====
section
/-! DEFINITION. Numbers: the element formats of Table 06-1, exact arithmetic on their values, and every rounding the spec
names (nearest even, stochastic, upward, to odd, ties away). A finite value is a sign, a magnitude m and an exponent e,
standing for ± m × 2^e. -/

namespace Sys2Proof.Machine

/-- A value of a floating-point format, exact. -/
inductive Fp where
  | nan
  | inf (neg : Bool)
  | fin (neg : Bool) (m : Nat) (e : Int)
deriving DecidableEq, Repr

/-- A dyadic rational m × 2^e. -/
structure Dy where
  m : Int
  e : Int
deriving DecidableEq, Repr

/-- An element format: exponent and fraction bits, bias, whether it has infinities, the NaN it writes (Table 06-1). -/
structure Fmt where
  eb   : Nat
  mb   : Nat
  bias : Int
  infs : Bool
  nan  : Nat
deriving DecidableEq, Repr

/-- E4M3 (Table 06-1). -/
def fE4M3 : Fmt := ⟨4, 3, 7, false, 0x7F⟩
/-- E5M2 (Table 06-1). -/
def fE5M2 : Fmt := ⟨5, 2, 15, true, 0x7E⟩
/-- BF16 (Table 06-1). -/
def fBF16 : Fmt := ⟨8, 7, 127, true, 0x7FC0⟩
/-- FP16 (Table 06-1). -/
def fFP16 : Fmt := ⟨5, 10, 15, true, 0x7E00⟩
/-- FP32 (Table 06-1). -/
def fFP32 : Fmt := ⟨8, 23, 127, true, 0x7FC00000⟩
/-- IEEE 754 binary64, used by survey records. -/
def fFP64 : Fmt := ⟨11, 52, 1023, true, 0x7FF8000000000000⟩

/-- The element format of a code of Table 06-1. -/
def fmtOf : Nat → Fmt
  | 0 => fE4M3
  | 1 => fE5M2
  | 2 => fE4M3
  | 3 => fE5M2
  | 4 => fBF16
  | 5 => fFP16
  | _ => fFP32

/-- The rung format code of a rung (Table 06-2). -/
def rungCode : Nat → Nat
  | 0 => 0
  | 1 => 1
  | 2 => 4
  | _ => 6

/-- The bytes of an element of a format code. -/
def fmtBytes (c : Nat) : Nat := if c = 6 then 4 else if c = 4 ∨ c = 5 then 2 else 1

/-- The exact value of an encoding. -/
def decodeFp (f : Fmt) (code : Nat) : Fp :=
  let fr := code % 2 ^ f.mb
  let ex := code / 2 ^ f.mb % 2 ^ f.eb
  let neg := code / 2 ^ (f.mb + f.eb) % 2 == 1
  if f.infs then
    if ex = 2 ^ f.eb - 1 then (if fr = 0 then .inf neg else .nan)
    else if ex = 0 then .fin neg fr (1 - f.bias - f.mb)
    else .fin neg (2 ^ f.mb + fr) (ex - f.bias - f.mb)
  else if ex = 2 ^ f.eb - 1 ∧ fr = 2 ^ f.mb - 1 then .nan
  else if ex = 0 then .fin neg fr (1 - f.bias - f.mb)
  else .fin neg (2 ^ f.mb + fr) (ex - f.bias - f.mb)

/-- The roundings: to nearest with ties to even, to nearest with ties away, upward in magnitude, to odd, and stochastic
with a 16-bit random value (R205). -/
inductive Rmode where
  | rne | away | up | odd | sr (rnd : Nat)
deriving DecidableEq, Repr

/-- m / 2^sh rounded to an integer. -/
def roundShift (mode : Rmode) (m sh : Nat) : Nat :=
  let n := m / 2 ^ sh
  let r := m % 2 ^ sh
  match mode with
  | .rne => if r * 2 > 2 ^ sh ∨ (r * 2 = 2 ^ sh ∧ n % 2 = 1) then n + 1 else n
  | .away => if r * 2 ≥ 2 ^ sh ∧ r ≠ 0 then n + 1 else n
  | .up => if r = 0 then n else n + 1
  | .odd => if r ≠ 0 ∧ n % 2 = 0 then n + 1 else n
  | .sr rnd => if r * 65536 / 2 ^ sh + rnd ≥ 65536 then n + 1 else n

/-- m × 2^e (m > 0) rounded to a multiple n × 2^q of the spacing of a format at its magnitude, exponent range unbounded
above. -/
def quantize (f : Fmt) (mode : Rmode) (m : Nat) (e : Int) : Nat × Int :=
  let top : Int := Nat.log2 m + e
  let q := max top (1 - f.bias) - f.mb
  if q ≤ e then (m * 2 ^ (e - q).toNat, q) else (roundShift mode m (q - e).toNat, q)

/-- The largest finite magnitude of a format as (m, e). -/
def maxFinite (f : Fmt) : Nat × Int :=
  if f.infs then (2 ^ (f.mb + 1) - 1, 2 ^ f.eb - 2 - f.bias - f.mb)
  else (2 ^ (f.mb + 1) - 2, 2 ^ f.eb - 1 - f.bias - f.mb)

/-- Compare two magnitudes m × 2^e: whether the first is above the second. -/
def magGt (a : Nat × Int) (b : Nat × Int) : Bool :=
  let e := min a.2 b.2
  decide (a.1 * 2 ^ (a.2 - e).toNat > b.1 * 2 ^ (b.2 - e).toNat)

/-- The encoding, without sign, of a magnitude n × 2^q that a format holds. -/
def packMag (f : Fmt) (n : Nat) (q : Int) : Nat :=
  if n < 2 ^ f.mb then n
  else
    let p := if n = 2 ^ (f.mb + 1) then (2 ^ f.mb, q + 1) else (n, q)
    (p.2 + f.mb + f.bias).toNat * 2 ^ f.mb + (p.1 - 2 ^ f.mb)

/-- The sign bit of a format. -/
def signBit (f : Fmt) (neg : Bool) : Nat := if neg then 2 ^ (f.mb + f.eb) else 0

/-- Encode an exact value with one rounding (R204 to R206, Table 06-7): the encoding and whether it saturated. -/
def encodeFp (f : Fmt) (mode : Rmode) (sat : Bool) (x : Fp) : Nat × Bool :=
  let big := packMag f (maxFinite f).1 (maxFinite f).2
  let ovfl (neg : Bool) : Nat × Bool :=
    if sat then (signBit f neg + big, true)
    else if f.infs then (signBit f neg + (2 ^ f.eb - 1) * 2 ^ f.mb, false) else (f.nan, false)
  match x with
  | .nan => (f.nan, false)
  | .inf neg => ovfl neg
  | .fin neg m e =>
    if m = 0 then (signBit f neg, false)
    else
      let nq := quantize f mode m e
      if magGt nq (maxFinite f) then ovfl neg else (signBit f neg + packMag f nq.1 nq.2, false)

/-- Round an exact value to a format, non-saturating. -/
def roundTo (f : Fmt) (mode : Rmode) (x : Fp) : Fp := decodeFp f (encodeFp f mode false x).1

/-- Round to FP32, to nearest even. -/
def rnd32 (x : Fp) : Fp := roundTo fFP32 .rne x

/-- The FP32 value of 32 bits. -/
def f32 (n : Nat) : Fp := decodeFp fFP32 (n % 2 ^ 32)

/-- The FP32 encoding, rounded to nearest even. -/
def to32 (x : Fp) : Nat := (encodeFp fFP32 .rne false x).1

/-- Negate. -/
def fneg : Fp → Fp
  | .nan => .nan
  | .inf n => .inf (!n)
  | .fin n m e => .fin (!n) m e

/-- Magnitude. -/
def fabs : Fp → Fp
  | .nan => .nan
  | .inf _ => .inf false
  | .fin _ m e => .fin false m e

/-- Whether a value is a NaN. -/
def isNan : Fp → Bool
  | .nan => true
  | _ => false

/-- Whether a value is infinite. -/
def isInf : Fp → Bool
  | .inf _ => true
  | _ => false

/-- Whether a value is finite. -/
def isFin : Fp → Bool
  | .fin _ _ _ => true
  | _ => false

/-- Whether a value is a zero. -/
def isZero : Fp → Bool
  | .fin _ m _ => m == 0
  | _ => false

/-- Whether the sign is set. -/
def isNeg : Fp → Bool
  | .nan => false
  | .inf n => n
  | .fin n _ _ => n

/-- The dyadic value of a finite number, 0 for the others. -/
def dyOf : Fp → Dy
  | .fin n m e => ⟨if n then -(m : Int) else m, e⟩
  | _ => ⟨0, 0⟩

/-- A dyadic as a number, +0 for 0. -/
def ofDy (d : Dy) : Fp := .fin (decide (d.m < 0)) d.m.natAbs d.e

/-- An integer as a number. -/
def ofInt (i : Int) : Fp := ofDy ⟨i, 0⟩

/-- Exact sum of dyadics. -/
def dyAdd (a b : Dy) : Dy :=
  let e := min a.e b.e
  ⟨a.m * 2 ^ (a.e - e).toNat + b.m * 2 ^ (b.e - e).toNat, e⟩

/-- Negation of a dyadic. -/
def dyNeg (a : Dy) : Dy := ⟨-a.m, a.e⟩

/-- Exact product of dyadics. -/
def dyMul (a b : Dy) : Dy := ⟨a.m * b.m, a.e + b.e⟩

/-- Compare dyadics: a < b. -/
def dyLt (a b : Dy) : Bool := decide ((dyAdd a (dyNeg b)).m < 0)

/-- Magnitude of a dyadic. -/
def dyAbs (a : Dy) : Dy := ⟨a.m.natAbs, a.e⟩

/-- a ≤ b. -/
def dyLe (a b : Dy) : Bool := !dyLt b a

/-- a / b (b ≠ 0), truncated to at least 100 significant bits below with the last bit sticky: rounding it once to a
narrower format gives the correctly rounded quotient. -/
def dyDiv (a b : Dy) : Dy :=
  let k := 128 + Nat.log2 b.m.natAbs
  let n := a.m.natAbs * 2 ^ k
  let q := n / b.m.natAbs
  let st := if n % b.m.natAbs = 0 then 0 else 1
  let r : Int := 2 * q + st
  ⟨if decide (a.m < 0) != decide (b.m < 0) then -r else r, a.e - b.e - k - 1⟩

/-- The integer square root, bit by bit from bit `i − 1` down. -/
def isqrtFrom : Nat → Nat → Nat → Nat
  | 0, _, r => r
  | i + 1, n, r => let t := r + 2 ^ i; isqrtFrom i n (if t * t ≤ n then t else r)

/-- √a (a ≥ 0) with the last bit sticky, as `dyDiv`. -/
def dySqrt (a : Dy) : Dy :=
  let a' : Dy := if a.e % 2 = 0 then a else ⟨a.m * 2, a.e - 1⟩
  let n := a'.m.natAbs * 2 ^ 256
  let r := isqrtFrom (Nat.log2 n / 2 + 1) n 0
  let st := if r * r = n then 0 else 1
  ⟨2 * r + st, a'.e / 2 - 128 - 1⟩

/-- Exact sum, with the IEEE 754 rules for infinities and zeros. -/
def fadd (a b : Fp) : Fp :=
  match a, b with
  | .nan, _ => .nan
  | _, .nan => .nan
  | .inf n, .inf m => if n = m then .inf n else .nan
  | .inf n, _ => .inf n
  | _, .inf n => .inf n
  | .fin n m e, .fin n' m' e' =>
    let d := dyAdd (dyOf (.fin n m e)) (dyOf (.fin n' m' e'))
    if d.m = 0 then .fin (n && n') 0 0 else ofDy d

/-- Exact difference. -/
def fsub (a b : Fp) : Fp := fadd a (fneg b)

/-- Exact product. -/
def fmul (a b : Fp) : Fp :=
  match a, b with
  | .nan, _ => .nan
  | _, .nan => .nan
  | .inf n, y => if isZero y then .nan else .inf (n != isNeg y)
  | x, .inf n => if isZero x then .nan else .inf (n != isNeg x)
  | .fin n m e, .fin n' m' e' => .fin (n != n') (m * m') (e + e')

/-- Quotient, to be rounded once. -/
def fdiv (a b : Fp) : Fp :=
  match a, b with
  | .nan, _ => .nan
  | _, .nan => .nan
  | .inf _, .inf _ => .nan
  | .inf n, y => .inf (n != isNeg y)
  | .fin n _ _, .inf n' => .fin (n != n') 0 0
  | .fin n m e, .fin n' m' e' =>
    if m' = 0 then (if m = 0 then .nan else .inf (n != n'))
    else if m = 0 then .fin (n != n') 0 0
    else
      let d := dyDiv ⟨m, e⟩ ⟨m', e'⟩
      .fin (n != n') d.m.natAbs d.e

/-- Square root, to be rounded once. -/
def fsqrt (a : Fp) : Fp :=
  match a with
  | .nan => .nan
  | .inf n => if n then .nan else .inf false
  | .fin n m e => if m = 0 then a else if n then .nan else let d := dySqrt ⟨m, e⟩; .fin false d.m.natAbs d.e

/-- a < b, false when either is a NaN. -/
def flt (a b : Fp) : Bool :=
  match a, b with
  | .nan, _ => false
  | _, .nan => false
  | .inf n, .inf n' => n && !n'
  | .inf n, _ => n
  | _, .inf n => !n
  | x, y => dyLt (dyOf x) (dyOf y)

/-- a = b, with +0 = −0, false when either is a NaN. -/
def feq (a b : Fp) : Bool := !isNan a && !isNan b && !flt a b && !flt b a

/-- The smaller operand, −0 below +0; the other one when exactly one is a NaN (R137, R236). -/
def fmin (a b : Fp) : Fp :=
  if isNan a then b else if isNan b then a
  else if flt a b then a else if flt b a then b else if isNeg a then a else b

/-- The larger operand, −0 below +0; the other one when exactly one is a NaN. -/
def fmax (a b : Fp) : Fp :=
  if isNan a then b else if isNan b then a
  else if flt a b then b else if flt b a then a else if isNeg a then b else a

/-- The nearest integer, ties to even. -/
def roundInt (d : Dy) : Int :=
  if d.e ≥ 0 then d.m * 2 ^ d.e.toNat
  else
    let n : Int := roundShift .rne d.m.natAbs (-d.e).toNat
    if d.m < 0 then -n else n

/-- The magnitude of a dyadic rounded to an integer under a mode. -/
def roundNat (mode : Rmode) (m : Nat) (e : Int) : Nat :=
  if e ≥ 0 then m * 2 ^ e.toNat else roundShift mode m (-e).toNat

/-- ⌊log2 of a positive dyadic⌋. -/
def dyLog2 (d : Dy) : Int := Nat.log2 d.m.natAbs + d.e

/-- One unit in the last place of a format at the magnitude of a value. -/
def ulpExp (f : Fmt) (d : Dy) : Int :=
  if d.m = 0 then 1 - f.bias - f.mb else max (dyLog2 d) (1 - f.bias) - f.mb

/-- An FP32 result within `k` units in the last place of the exact value `x` (given to far more bits): the free choice of the
device where it lies within the bound, the nearest value otherwise (R237). -/
def pick32 (free tag k : Nat) (x : Dy) : Fp :=
  let near := rnd32 (ofDy x)
  match near with
  | .fin n m e =>
    let d := dyOf (.fin n m e)
    let u := ulpExp fFP32 d
    let c := dyAdd d ⟨Config.freeRound free tag, u⟩
    if dyLe (dyAbs (dyAdd c (dyNeg x))) ⟨k, u⟩ then
      (if c.m = 0 then .fin n 0 0 else rnd32 (ofDy c))
    else near
  | o => o

end Sys2Proof.Machine
end

