-- ==== Sys2Proof/Machine/Elem.lean ====
section
/-! DEFINITION. Elementary functions to far more bits than any bound of the spec needs (R237): e^x, ln, the logistic function,
tanh, softplus, the normal distribution, in fixed-point arithmetic on natural numbers; and the checksum and random
generator of the device (CRC-32C of R456, Philox-4×32 of R105). -/

namespace Sys2Proof.Machine

/-- The fraction bits of the fixed-point arithmetic below. -/
def fxBits : Nat := 288

/-- One, in fixed point. -/
def fxOne : Int := 2 ^ fxBits

/-- A dyadic in fixed point, rounded down. -/
def toFx (d : Dy) : Int :=
  let e := d.e + fxBits
  if e ≥ 0 then d.m * 2 ^ e.toNat else d.m / 2 ^ (-e).toNat

/-- A fixed-point number as a dyadic. -/
def ofFx (i : Int) : Dy := ⟨i, -(fxBits : Int)⟩

/-- Product of fixed-point numbers. -/
def fxMul (a b : Int) : Int := a * b / fxOne

/-- Quotient of fixed-point numbers. -/
def fxDiv (a b : Int) : Int := a * fxOne / b

/-- The sum of the series t + t·y/(2i+3) … with t the i-th power term: atanh y = Σ y^(2i+1)/(2i+1). -/
def atanhSum : Nat → Nat → Int → Int → Int → Int
  | 0, _, _, _, acc => acc
  | n + 1, i, y2, t, acc => atanhSum n (i + 1) y2 (fxMul t y2) (acc + t / (2 * i + 1))

/-- atanh of a fixed-point number of magnitude at most 1/3. -/
def fxAtanh (y : Int) : Int := atanhSum 96 0 (fxMul y y) y 0

/-- ln 2 = 2 atanh (1/3), in fixed point. -/
def fxLn2 : Int := 2 * fxAtanh (fxOne / 3)

/-- The exponential series Σ r^i / i!. -/
def expSum : Nat → Nat → Int → Int → Int → Int
  | 0, _, _, _, acc => acc
  | n + 1, i, r, t, acc => expSum n (i + 1) r (fxMul t r / (i + 1)) (acc + t)

/-- e^x of a dyadic: 2^k × e^r with k = ⌊x / ln 2⌋. -/
def dyExp (x : Dy) : Dy :=
  let fx := toFx x
  let k := fx / fxLn2
  let r := fx - k * fxLn2
  let m := expSum 72 0 r fxOne 0
  ⟨m, k - fxBits⟩

/-- ln of a positive dyadic. -/
def dyLn (x : Dy) : Dy :=
  let k := dyLog2 x
  let m := toFx ⟨x.m, x.e - k⟩
  let y := fxDiv (m - fxOne) (m + fxOne)
  ofFx (2 * fxAtanh y + k * fxLn2)

/-- 1. -/
def dyOne : Dy := ⟨1, 0⟩

/-- a − b. -/
def dySub (a b : Dy) : Dy := dyAdd a (dyNeg b)

/-- The logistic function 1 / (1 + e^−x). -/
def dySigmoid (x : Dy) : Dy :=
  if x.m < 0 then let t := dyExp x; dyDiv t (dyAdd dyOne t)
  else dyDiv dyOne (dyAdd dyOne (dyExp (dyNeg x)))

/-- tanh x, by its series where |x| < 2^−24. -/
def dyTanh (x : Dy) : Dy :=
  if x.m = 0 then x
  else if dyLog2 x < -24 then
    let x2 := dyMul x x
    dyMul x (dySub dyOne (dyDiv x2 ⟨3, 0⟩))
  else
    let a := dyAbs x
    let t := dyExp (dyMul ⟨-2, 0⟩ a)
    let r := dyDiv (dySub dyOne t) (dyAdd dyOne t)
    if x.m < 0 then dyNeg r else r

/-- softplus x = ln (1 + e^x), by the series of ln where e^x < 2^−40. -/
def dySoftplus (x : Dy) : Dy :=
  let t := dyExp x
  if dyLog2 t < -40 then dyMul t (dySub dyOne (dyMul t ⟨1, -1⟩))
  else dyLn (dyAdd dyOne t)

/-- The series Σ x^(2i+1) / (1·3·5…(2i+1)). -/
def phiSum : Nat → Nat → Int → Int → Int → Int
  | 0, _, _, _, acc => acc
  | n + 1, i, x2, t, acc => phiSum n (i + 1) x2 (fxMul t x2 / (2 * i + 3)) (acc + t)

/-- π by Machin's formula, in fixed point: the alternating arctangent series. -/
def atanSum : Nat → Nat → Int → Int → Int → Int
  | 0, _, _, _, acc => acc
  | n + 1, i, y2, t, acc => atanSum n (i + 1) y2 (-(fxMul t y2)) (acc + t / (2 * i + 1))

/-- π, in fixed point. -/
def fxPi : Int :=
  let a (n : Int) : Int := let y := fxOne / n; atanSum 130 0 (fxMul y y) y 0
  4 * (4 * a 5 - a 239)

/-- The normal density φ(x) = e^(−x²/2) / √(2π). -/
def dyPhi (x : Dy) : Dy :=
  dyDiv (dyExp (dyMul ⟨-1, -1⟩ (dyMul x x))) (dySqrt (ofFx (2 * fxPi)))

/-- The normal distribution Φ(x) = ½ + φ(x) Σ x^(2i+1)/(2i+1)!!, for |x| ≤ 14. -/
def dyCdf (x : Dy) : Dy :=
  let fx := toFx x
  let s := phiSum 420 0 (fxMul fx fx) fx 0
  dyAdd ⟨1, -1⟩ (dyMul (dyPhi x) (ofFx s))

/-- One step of the reflected CRC-32C register. -/
def crcStep : Nat → Nat → Nat
  | 0, c => c
  | n + 1, c => crcStep n (if c % 2 = 1 then (c / 2) ^^^ 0x82F63B78 else c / 2)

/-- CRC-32C over bytes, from a register value. -/
def crcFrom (c : Nat) : List Byte → Nat
  | [] => c
  | b :: r => crcFrom (crcStep 8 (c ^^^ b.toNat)) r

/-- The CRC-32C of a list of bytes: the waybill of a sector (R456). DEDUCED: notes/assumptions/93. -/
def crc32c (d : List Byte) : Nat := crcFrom 0xFFFFFFFF d ^^^ 0xFFFFFFFF

/-- A counter or an output of the random generator: four 32-bit words. -/
structure Quad where
  w0 : Nat
  w1 : Nat
  w2 : Nat
  w3 : Nat
deriving DecidableEq, Repr

/-- The rounds of Philox-4×32 (R105). -/
def philoxRounds : Nat → Nat → Nat → Quad → Quad
  | 0, _, _, c => c
  | n + 1, k0, k1, c =>
    let p0 := 0xD2511F53 * c.w0
    let p1 := 0xCD9E8D57 * c.w2
    let c' : Quad := ⟨(p1 / 2 ^ 32) ^^^ c.w1 ^^^ k0, p1 % 2 ^ 32, (p0 / 2 ^ 32) ^^^ c.w3 ^^^ k1, p0 % 2 ^ 32⟩
    philoxRounds n ((k0 + 0x9E3779B9) % 2 ^ 32) ((k1 + 0xBB67AE85) % 2 ^ 32) c'

/-- Philox-4×32 with 10 rounds (R105). -/
def philox (k0 k1 : Nat) (c : Quad) : Quad := philoxRounds 10 k0 k1 c

/-- Word i of a quad. -/
def Quad.word (q : Quad) : Nat → Nat
  | 0 => q.w0
  | 1 => q.w1
  | 2 => q.w2
  | _ => q.w3

/-- The 16-bit value of element j of a block (R106). -/
def blockElem (q : Quad) (j : Nat) : Nat := q.word (j / 2) / 2 ^ (16 * (j % 2)) % 65536

/-- The keyed value of element index e (R107). -/
def keyedValue (seed : Word) (step tag layer e : Nat) : Nat :=
  let b := e / 8
  blockElem (philox (bits seed 31 0) (bits seed 63 32)
    ⟨b % 2 ^ 32, b / 2 ^ 32 % 2 ^ 32, tag % 65536 * 65536 + layer % 65536, step % 2 ^ 32⟩) (e % 8)

/-- Free-running value `e` of an instruction (R108): seed, device ID, stream number, core index, draw counter. -/
def freeValue (seed : Word) (dev strm core : Nat) (draw : Word) (e : Nat) : Nat :=
  let c := (draw.toNat + e / 8) % 2 ^ 64
  blockElem (philox (bits seed 31 0) (bits seed 63 32 ^^^ dev % 2 ^ 32)
    ⟨c % 2 ^ 32, c / 2 ^ 32, 0xFFFF0000, strm * 65536 + core % 32768⟩) (e % 8)

end Sys2Proof.Machine
end

