-- ==== Sys2Proof/Machine/Functions.lean ====
section
/-! DEFINITION. The function unit of the vector engine (R236 to R239): the elementary functions and activations with their
special inputs (Table 07-5) and bounds (Table 07-6), and sums held with a 48-bit significand (R240). Each takes the number
and tag of a free value for the rounding that the spec bounds but does not fix. DEDUCED: notes/assumptions/36. -/

namespace Sys2Proof.Machine

/-- +0. -/
def fZero : Fp := .fin false 0 0

/-- A result within `k` units of the exact value (R237). -/
def approx (free tag k : Nat) (x : Dy) : Fp := pick32 free tag k x

/-- Whether a finite value exceeds p / 100000 (the decimal limits of Table 07-6). -/
def aboveDec (x : Fp) (p : Int) : Bool :=
  match x with
  | .fin _ _ _ => dyLt ⟨p, 0⟩ (dyMul (dyOf x) ⟨100000, 0⟩)
  | .inf n => !n
  | .nan => false

/-- VEXP. -/
def fnExp (free tag : Nat) (x : Fp) : Fp :=
  match x with
  | .nan => .nan
  | .inf n => if n then fZero else .inf false
  | .fin _ _ _ =>
    if isZero x then ofInt 1
    else if aboveDec x 8872284 then .inf false
    else if aboveDec (fneg x) 10397208 then fZero
    else approx free tag 2 (dyExp (dyOf x))

/-- VLOG. -/
def fnLog (free tag : Nat) (x : Fp) : Fp :=
  match x with
  | .nan => .nan
  | .inf n => if n then .nan else .inf false
  | .fin n m _ => if m = 0 then .inf true else if n then .nan else approx free tag 2 (dyLn (dyOf x))

/-- VRCP; the reciprocal of 1 is exact, as R359 has it. DEDUCED: notes/assumptions/36. -/
def fnRcp (free tag : Nat) (x : Fp) : Fp :=
  match x with
  | .nan => .nan
  | .inf n => .fin n 0 0
  | .fin n m _ => if m = 0 then .inf n else if feq x (ofInt 1) then x else approx free tag 1 (dyDiv ⟨1, 0⟩ (dyOf x))

/-- VRSQRT. -/
def fnRsqrt (free tag : Nat) (x : Fp) : Fp :=
  match x with
  | .nan => .nan
  | .inf n => if n then .nan else fZero
  | .fin n m _ =>
    if m = 0 then .inf n else if n then .nan else approx free tag 1 (dyDiv ⟨1, 0⟩ (dySqrt (dyOf x)))

/-- A value limited to [−400, 400], beyond which the functions below no longer change in FP32. -/
def clampArg (x : Dy) : Dy := if dyLt ⟨400, 0⟩ x then ⟨400, 0⟩ else if dyLt x ⟨-400, 0⟩ then ⟨-400, 0⟩ else x

/-- SIGMOID. -/
def fnSigmoid (free tag : Nat) (x : Fp) : Fp :=
  match x with
  | .nan => .nan
  | .inf n => if n then fZero else ofInt 1
  | .fin _ _ _ => if aboveDec (fneg x) 10397208 then fZero else approx free tag 3 (dySigmoid (clampArg (dyOf x)))

/-- TANH. -/
def fnTanh (free tag : Nat) (x : Fp) : Fp :=
  match x with
  | .nan => .nan
  | .inf n => .fin n 1 0
  | .fin _ m _ => if m = 0 then x else approx free tag 3 (dyTanh (clampArg (dyOf x)))

/-- SOFTPLUS. -/
def fnSoftplus (free tag : Nat) (x : Fp) : Fp :=
  match x with
  | .nan => .nan
  | .inf n => if n then fZero else .inf false
  | .fin _ _ _ => if aboveDec x 2000000 then x else approx free tag 3 (dySoftplus (clampArg (dyOf x)))

/-- GELU, x × Φ(x). -/
def fnGelu (free tag : Nat) (x : Fp) : Fp :=
  match x with
  | .nan => .nan
  | .inf n => if n then fZero else .inf false
  | .fin _ m _ =>
    if m = 0 then x
    else if aboveDec (fneg x) 1350000 then fZero
    else if aboveDec x 1350000 then approx free tag 4 (dyOf x)
    else approx free tag 4 (dyMul (dyOf x) (dyCdf (dyOf x)))

/-- SILU, x × σ(x). -/
def fnSilu (free tag : Nat) (x : Fp) : Fp :=
  match x with
  | .nan => .nan
  | .inf n => if n then .fin true 0 0 else .inf false
  | .fin _ m _ =>
    if m = 0 then x
    else if aboveDec (fneg x) 20000000 then .fin true 0 0
    else approx free tag 4 (dyMul (dyOf x) (dySigmoid (clampArg (dyOf x))))

/-- The slope byte of an exact slope s (R239): s is computed within 2^−12 in FP32, then 32 + 192 s to nearest even, clamped. -/
def slopeByte (free tag : Nat) (s : Dy) : Nat :=
  let near := rnd32 (ofDy s)
  let c := rnd32 (ofDy (dyAdd s ⟨Config.freeRound free tag, -36⟩))
  let v := if dyLe (dyAbs (dySub (dyOf c) s)) ⟨1, -12⟩ then c else near
  (max 0 (min 255 (roundInt (dyAdd ⟨32, 0⟩ (dyMul ⟨192, 0⟩ (dyOf v)))))).toNat

/-- The slope byte that GELU and SILU write (R239): silu selects the function. -/
def slopeOf (free tag : Nat) (silu : Bool) (x : Fp) : Nat :=
  match x with
  | .nan => 0xFF
  | .inf n => if n then 32 else 224
  | .fin _ _ _ =>
    if silu then
      let d := clampArg (dyOf x)
      let g := dySigmoid d
      slopeByte free tag (dyMul g (dyAdd dyOne (dyMul d (dySub dyOne g))))
    else if aboveDec x 1350000 then slopeByte free tag ⟨1, 0⟩
    else if aboveDec (fneg x) 1350000 then slopeByte free tag ⟨0, 0⟩
    else slopeByte free tag (dyAdd (dyCdf (dyOf x)) (dyMul (dyOf x) (dyPhi (dyOf x))))

/-- 1 − e^−y, the factor of SOFTPLUS.B (Table 07-7). -/
def oneMinusExpNeg (y : Fp) : Fp :=
  match y with
  | .nan => .nan
  | .inf n => if n then .inf true else ofInt 1
  | .fin _ m _ => if m = 0 then fZero else ofDy (dySub dyOne (dyExp (dyNeg (clampArg (dyOf y)))))

/-- The exponent of the lowest set bit of a dyadic, given at least as many steps as it has bits. -/
def lowExp : Nat → Nat → Int → Int
  | 0, _, e => e
  | n + 1, m, e => if m = 0 then e else if m % 2 = 0 then lowExp n (m / 2) (e + 1) else e

/-- A sum of finite values held with a 48-bit significand (R240): exact where every partial sum fits in it, otherwise within
w × 2^−47 × Σ|x|. The sign of the zero that a sum of −0 alone gives is free: the spec states no first addend. -/
def heldSum (free tag : Nat) (xs : List Fp) : Fp :=
  let sum := xs.foldl fadd fZero
  if !isFin sum then sum
  else if xs ≠ [] ∧ xs.all (fun v => isZero v && isNeg v) = true then
    (if Config.freeRound free tag % 2 = 0 then fneg fZero else fZero)
  else
    let mag := xs.foldl (fun a x => dyAdd a (dyAbs (dyOf x))) ⟨0, 0⟩
    if mag.m = 0 then sum
    else
      let nz := xs.filter (fun x => !isZero x)
      let low := nz.foldl (fun (a : Option Int) x =>
        let e := lowExp 64 (dyOf x).m.natAbs (dyOf x).e
        match a with
        | none => some e
        | some b => some (min b e)) none
      if dyLog2 mag < low.getD 0 + 48 then sum
      else
        let d : Dy := ⟨Config.freeRound free tag, dyLog2 mag - 80⟩
        if dyLe (dyAbs d) (dyMul mag ⟨(xs.length : Int), -47⟩) then fadd sum (ofDy d) else sum

end Sys2Proof.Machine
end

