-- ==== Sys2Proof/Machine/Blocks.lean ====
section
/-! DEFINITION. The block formats (R199 to R201): MXFP8, G8 and the two Q8 formats, encoding and decoding. -/

namespace Sys2Proof.Machine

/-- The block length of a format code; 0 for the element formats (Table 06-3). -/
def blockLen (c : Nat) : Nat := if c = 2 ∨ c = 3 then 32 else if c = 8 ∨ c = 9 ∨ c = 10 then 64 else 0

/-- The bytes of a block's scale (R203). -/
def scaleBytes (c : Nat) : Nat := if c = 2 ∨ c = 3 then 1 else 2

/-- The largest magnitude of a block; NaN or an infinity if the block holds one. -/
def blockMax (xs : List Fp) : Fp :=
  if xs.any isNan then .nan else xs.foldl (fun a x => if flt a (fabs x) then fabs x else a) (.fin false 0 0)

/-- m × 2^e rounded up to FP16, at most 65,504 (R199): the encoding. -/
def fp16Up (x : Fp) : Nat :=
  let c := (encodeFp fFP16 .up true x).1
  if c = 0x7C00 then 0x7BFF else c

/-- The scale of a block, chosen from its largest magnitude (R199, R201). -/
def blockScale (c : Nat) (amax : Fp) : Nat :=
  let e8 (top : Int) : Nat := (max 0 (min 254 (dyLog2 (dyOf amax) - top + 127))).toNat
  if !isFin amax then (if c = 2 ∨ c = 3 then 0xFF else 0x7E00)
  else if isZero amax then 0
  else if c = 2 then e8 8
  else if c = 3 then e8 15
  else if c = 10 then fp16Up (fsqrt amax)
  else fp16Up amax

/-- The value of a scale: 2^(s − 127) for E8M0, the FP16 value otherwise; NaN for a NaN scale (R199). -/
def scaleVal (c s : Nat) : Fp :=
  if c = 2 ∨ c = 3 then (if s = 0xFF then .nan else .fin false 1 ((s : Int) - 127)) else decodeFp fFP16 s

/-- An integer code: a magnitude rounded and limited to `top`, and whether it was limited. -/
def intCode (mode : Rmode) (top : Nat) (x : Fp) : Nat × Bool :=
  match x with
  | .fin _ m e => let n := roundNat mode m e; if n > top then (top, true) else (n, false)
  | .inf _ => (top, true)
  | .nan => (0, false)

/-- Encode one element of a block with a finite nonzero scale (R200): the code and whether it saturated. -/
def blockElemCode (c s : Nat) (mode : Rmode) (x : Fp) : Nat × Bool :=
  let sv := scaleVal c s
  if c = 2 ∨ c = 3 then encodeFp (fmtOf c) mode true (fmul x (.fin false 1 (127 - (s : Int))))
  else if c = 8 then encodeFp fE5M2 mode true (fdiv (fmul x (ofInt 32768)) sv)
  else if c = 9 then
    let r := intCode mode 127 (fdiv (fmul x (ofInt 127)) sv)
    (if isNeg x ∧ r.1 ≠ 0 then 256 - r.1 else r.1, r.2)
  else if isNeg x ∧ !isZero x then (0, true)
  else intCode mode 255 (fdiv (fmul (fsqrt (fabs x)) (ofInt 255)) sv)

/-- The element that a block with a NaN scale holds (R201). -/
def nanElem (c : Nat) : Nat := if c = 3 ∨ c = 8 then 0x7E else 0

/-- Encode a block (R199 to R201): the scale, and each element's code and whether it saturated. -/
def encodeBlock (c : Nat) (xs : List (Fp × Rmode)) : Nat × List (Nat × Bool) :=
  let amax := blockMax (xs.map (·.1))
  let s := blockScale c amax
  if !isFin amax then (s, xs.map (fun _ => (nanElem c, false)))
  else if isZero amax then (s, xs.map (fun _ => (0, false)))
  else (s, xs.map (fun p => blockElemCode c s p.2 p.1))

/-- Decode an element code of a block with a scale (Table 06-3). -/
def decodeBlockElem (c s q : Nat) : Fp :=
  let sv := scaleVal c s
  if isNan sv then .nan
  else if c = 2 ∨ c = 3 then fmul (decodeFp (fmtOf c) q) sv
  else if c = 8 then fmul (fmul (decodeFp fE5M2 q) sv) (.fin false 1 (-15))
  else if c = 9 then fdiv (fmul (ofInt (sextN 8 q)) sv) (ofInt 127)
  else let t := fmul (ofInt (q % 256)) sv; fdiv (fmul t t) (ofInt 65025)

/-- Split a list into pieces of n (the last may be shorter); `fuel` bounds the number of pieces. -/
def chunksOf {α : Type} (n : Nat) : Nat → List α → List (List α)
  | 0, _ => []
  | _ + 1, [] => []
  | fuel + 1, x :: r => (x :: r).take n :: chunksOf n fuel ((x :: r).drop n)

/-- An element encoding of `n` bytes as bytes. -/
def elemBytes (n v : Nat) : List Byte := bytesOf n v

/-- The values of a list of bytes taken `n` at a time. -/
def elemsOf (n : Nat) (d : List Byte) : List Nat := (chunksOf n d.length d).map leNat

end Sys2Proof.Machine
end

