-- ==== Sys2Proof/Machine/Address.lean ====
section
/-! DEFINITION. The geometry of the device and its address map: clusters, stacks and slices (R20 to R23), the local address
map (R39 to R45), and the place of a line of user stack memory (R264, R473). -/

namespace Sys2Proof.Machine

/-- The number of logical cores (R5). -/
def numCores : Nat := 18432

/-- The cluster of logical core L (R10, R33): L = c × 128 + core. -/
def clusterOf (core : Nat) : Nat := core / 128

/-- Column of a cluster (R20). -/
def clX (c : Nat) : Nat := c % 12

/-- Row of a cluster (R20). -/
def clY (c : Nat) : Nat := c / 12

/-- The stack under a cluster or slice (R21). -/
def stackOfCluster (c : Nat) : Nat := clY c / 2 * 6 + clX c / 2

/-- The position of a slice over its stack (R22). -/
def slicePos (s : Nat) : Nat := 2 * (clY s % 2) + clX s % 2

/-- The slice at position `j` over stack `k` (R21, R22). -/
def sliceAt (k j : Nat) : Nat := (2 * (k / 6) + j / 2) * 12 + 2 * (k % 6) + j % 2

/-- First address above user stack memory (Table 01-6). -/
def userEnd : Nat := 0x022E00000000

/-- Base of the stack reserve (Table 01-6). -/
def reserveBase : Nat := 0x0C0000000000

/-- First address above the stack reserve. -/
def reserveEnd : Nat := 0x0C1200000000

/-- Base of the scratchpad window (R40). -/
def scratchBase : Nat := 0x100000000000

/-- Base of the pinned Verge window (R41). -/
def windowBase : Nat := 0x180000000000

/-- First address above the pinned Verge window. -/
def windowEnd : Nat := 0x180090000000

/-- Base of configuration space (R42). -/
def configBase : Nat := 0x1F0000000000

/-- First offset of configuration space that is unmapped (Table 01-7). -/
def configMapped : Nat := 0x2200000

/-- Base of the host windows. -/
def hostBase : Nat := 0x200000000000

/-- First address above the host windows. -/
def hostEnd : Nat := 0x400000000000

/-- A region of the local space (Table 01-6): where an address leads. -/
inductive Region where
  | user | reserve
  | scratch (core off : Nat)
  | window (slice off : Nat)
  | config (off : Nat)
  | host
  | unmapped
deriving DecidableEq, Repr

/-- The region of a local address (R39, R40, R41, R43). -/
def regionOf (a : Nat) : Region :=
  if a < userEnd then .user
  else if reserveBase ≤ a ∧ a < reserveEnd then .reserve
  else if scratchBase ≤ a ∧ a < scratchBase + numCores * 0x40000 then
    let o := a - scratchBase
    if o % 0x40000 < 0x20000 then .scratch (o / 0x40000) (o % 0x40000) else .unmapped
  else if windowBase ≤ a ∧ a < windowEnd then .window ((a - windowBase) / 0x1000000) ((a - windowBase) % 0x1000000)
  else if configBase ≤ a ∧ a < configBase + configMapped then .config (a - configBase)
  else if hostBase ≤ a ∧ a < hostEnd then .host
  else .unmapped

/-- The kinds of region, for access rights. -/
inductive RegionKind where
  | user | reserve | scratch | window | config | host | unmapped
deriving DecidableEq, Repr

/-- The kind of a region. -/
def Region.kind : Region → RegionKind
  | .user => .user
  | .reserve => .reserve
  | .scratch _ _ => .scratch
  | .window _ _ => .window
  | .config _ => .config
  | .host => .host
  | .unmapped => .unmapped

/-- The requesters of Table 01-6. -/
inductive Requester where
  | core | kerb | engine | mgmt | host | peer | peerMgmt
deriving DecidableEq, Repr

/-- Who may reach which region (Table 01-6, R44). `kerb` are the Kerb engines, `engine` the other engines of the device that
read and write memory on a command's behalf; the stack reserve is the Kerb engines' and the management cores' alone. -/
def mayReach (r : Requester) (k : RegionKind) : Bool :=
  match k with
  | .user => true
  | .reserve => r == .kerb || r == .mgmt
  | .scratch => r == .core || r == .mgmt || r == .host || r == .peer || r == .peerMgmt
  | .window => r == .core || r == .mgmt || r == .host || r == .peer || r == .peerMgmt
  | .config => r == .mgmt || r == .host || r == .peerMgmt
  | .host => r == .core || r == .engine || r == .kerb
  | .unmapped => false

/-- Whether all of the bytes [a, a + len) lie in one mapped region instance that the requester may reach (R43, R44). -/
def rangeOk (r : Requester) (a len : Nat) : Bool :=
  mayReach r (regionOf a).kind &&
  (len ≤ 1 || (match regionOf a, regionOf (a + len - 1) with
    | .scratch c _, .scratch c' _ => c == c'
    | x, y => x.kind == y.kind))

/-- A global address (R11): whether bit 63 is set, the device and the local part. -/
def isGlobal (a : Nat) : Bool := a / 2 ^ 63 % 2 == 1

/-- The target device of a global address. -/
def globalDev (a : Nat) : Nat := bitsN a 62 45

/-- The local part of a global address. -/
def globalLocal (a : Nat) : Nat := a % 2 ^ 45

/-- The global form of a local address on a device (R11). -/
def toGlobal (dev a : Nat) : Nat := 2 ^ 63 + dev * 2 ^ 45 + a % 2 ^ 45

/-- The line number of an address (R264). -/
def lineOf (a : Nat) : Nat := a / 2048

/-- The XOR-fold of the quotient (R264). -/
def hashFold (q : Nat) : Nat := (q % 256) ^^^ (q / 256 % 256) ^^^ (q / 65536 % 256)

/-- The slice of a line of user stack memory (R264). -/
def sliceOfLine (l : Nat) : Nat := (l % 144 + hashFold (l / 144)) % 144

/-- The stack that holds a line (R264). -/
def stackOfLine (l : Nat) : Nat := sliceOfLine l / 24 * 6 + sliceOfLine l % 12 / 2

/-- The pseudo-channel of a line within its stack (R264). -/
def pcOfLine (l : Nat) : Nat := 8 * slicePos (sliceOfLine l) + l / 144 % 8

/-- The 2 KiB location of a line within its pseudo-channel (R264). -/
def locOfLine (l : Nat) : Nat := l / 144 / 8

/-- The bank of a line (R264). -/
def bankOfLine (l : Nat) : Nat := locOfLine l % 64

/-- The set of a line in its slice (R265). -/
def setOfLine (l : Nat) : Nat := l / 144 % 512

/-- The quotient of the line that slice `s` holds at (pc, loc), and its number: the inverse of R264. -/
def lineAt (k pc loc : Nat) : Nat :=
  let q := loc * 8 + pc % 8
  let sl := sliceAt k (pc / 8)
  q * 144 + (sl + 2 * 144 - hashFold q % 144) % 144

/-- The number of 2 KiB locations of a pseudo-channel that hold user lines (R264). -/
def pcLines : Nat := 1015808

/-- The reserve address of the line relocated from pseudo-channel `p` of stack `k` (R473). -/
def relocated (k p loc : Nat) : Nat :=
  let i := loc / 32768
  let t := if i < p then i else i + 1
  reserveBase + k * 0x80000000 + t * 0x4000000 + loc % 32768 * 2048

/-- The address of offset `o` of logical core L's scratchpad (R40). -/
def scratchAddr (core o : Nat) : Nat := scratchBase + core * 0x40000 + o

/-- The sector that holds an address. -/
def sectorOf (a : Nat) : Nat := a / 256

end Sys2Proof.Machine
end

