-- ==== Sys2Proof/Machine/Layout.lean ====
section
/-! DEFINITION. The configuration registers of the device: the offset of each in configuration space (R42), its fields,
their access types (R12) and their reset values (R15), copied from the register tables of the spec. A field that a table
marks RSV is left out: it reads as zero and ignores writes (R12). Where a table says "Fuse" or "Strap", the value stands
in `resetWord` below. DESIGN CHOICE: notes/assumptions/14. -/

namespace Sys2Proof.Machine

/-- R78, Table 02-6. -/
def MST_CTRL : Nat := 0x0
def MST_CTRL_elect_priority : Fld := ⟨12, 4⟩
def MST_CTRL_root_candidate : Fld := ⟨1, 1⟩
def MST_CTRL_enable : Fld := ⟨0, 1⟩
def MST_CTRL_layout : List FieldDef :=
  [⟨MST_CTRL_elect_priority, .rw, 0⟩,
   ⟨MST_CTRL_root_candidate, .rw, 1⟩,
   ⟨MST_CTRL_enable, .rw, 0⟩]
/-- R79, Table 02-7. -/
def MST_PERIOD : Nat := 0x8
def MST_PERIOD_active_ns : Fld := ⟨32, 25⟩
def MST_PERIOD_request_ns : Fld := ⟨0, 25⟩
def MST_PERIOD_layout : List FieldDef :=
  [⟨MST_PERIOD_active_ns, .ro, 0x3D090⟩,
   ⟨MST_PERIOD_request_ns, .rw, 0x3D090⟩]
/-- R79, Table 02-8. -/
def MST_SLOT : Nat := 0x10
def MST_SLOT_active_permille : Fld := ⟨32, 7⟩
def MST_SLOT_request_permille : Fld := ⟨0, 7⟩
def MST_SLOT_layout : List FieldDef :=
  [⟨MST_SLOT_active_permille, .ro, 20⟩,
   ⟨MST_SLOT_request_permille, .rw, 20⟩]
/-- R79, Table 02-9. -/
def MST_LEAD : Nat := 0x18
def MST_LEAD_active_ns : Fld := ⟨32, 16⟩
def MST_LEAD_request_ns : Fld := ⟨0, 16⟩
def MST_LEAD_layout : List FieldDef :=
  [⟨MST_LEAD_active_ns, .ro, 200⟩,
   ⟨MST_LEAD_request_ns, .rw, 200⟩]
/-- R80, Table 02-10. -/
def MST_STRETCH_LIMIT : Nat := 0x20
def MST_STRETCH_LIMIT_limit_us : Fld := ⟨0, 32⟩
def MST_STRETCH_LIMIT_layout : List FieldDef :=
  [⟨MST_STRETCH_LIMIT_limit_us, .rw, 0x186A0⟩]
/-- R80, Table 02-11. -/
def MST_STAGE : Nat := 0x28
def MST_STAGE_stage : Fld := ⟨0, 48⟩
def MST_STAGE_layout : List FieldDef :=
  [⟨MST_STAGE_stage, .ro, 0⟩]
/-- R80, Table 02-12. -/
def MST_TIME : Nat := 0x30
def MST_TIME_time_ns : Fld := ⟨0, 64⟩
def MST_TIME_layout : List FieldDef :=
  [⟨MST_TIME_time_ns, .ro, 0⟩]
/-- R81, Table 02-13. -/
def MST_STATUS : Nat := 0x38
def MST_STATUS_no_root : Fld := ⟨15, 1⟩
def MST_STATUS_stage_wrap : Fld := ⟨14, 1⟩
def MST_STATUS_root_change : Fld := ⟨13, 1⟩
def MST_STATUS_stage_resync : Fld := ⟨12, 1⟩
def MST_STATUS_overrun_halt : Fld := ⟨11, 1⟩
def MST_STATUS_tick_ignored : Fld := ⟨10, 1⟩
def MST_STATUS_tick_missed : Fld := ⟨9, 1⟩
def MST_STATUS_bad_request : Fld := ⟨8, 1⟩
def MST_STATUS_late_local : Fld := ⟨3, 1⟩
def MST_STATUS_stretched : Fld := ⟨2, 1⟩
def MST_STATUS_tick_external : Fld := ⟨1, 1⟩
def MST_STATUS_is_root : Fld := ⟨0, 1⟩
def MST_STATUS_layout : List FieldDef :=
  [⟨MST_STATUS_no_root, .w1c, 0⟩,
   ⟨MST_STATUS_stage_wrap, .w1c, 0⟩,
   ⟨MST_STATUS_root_change, .w1c, 0⟩,
   ⟨MST_STATUS_stage_resync, .w1c, 0⟩,
   ⟨MST_STATUS_overrun_halt, .w1c, 0⟩,
   ⟨MST_STATUS_tick_ignored, .w1c, 0⟩,
   ⟨MST_STATUS_tick_missed, .w1c, 0⟩,
   ⟨MST_STATUS_bad_request, .w1c, 0⟩,
   ⟨MST_STATUS_late_local, .ro, 0⟩,
   ⟨MST_STATUS_stretched, .ro, 0⟩,
   ⟨MST_STATUS_tick_external, .ro, 0⟩,
   ⟨MST_STATUS_is_root, .ro, 0⟩]
/-- R82, Table 02-14. -/
def MST_LAST_STRETCH : Nat := 0x40
def MST_LAST_STRETCH_stage : Fld := ⟨0, 48⟩
def MST_LAST_STRETCH_layout : List FieldDef :=
  [⟨MST_LAST_STRETCH_stage, .ro, 0⟩]
/-- R82, Table 02-15. -/
def MST_LAST_LATE : Nat := 0x48
def MST_LAST_LATE_member_class : Fld := ⟨61, 3⟩
def MST_LAST_LATE_cause : Fld := ⟨58, 3⟩
def MST_LAST_LATE_member_index : Fld := ⟨32, 18⟩
def MST_LAST_LATE_stretch_ns : Fld := ⟨0, 32⟩
def MST_LAST_LATE_layout : List FieldDef :=
  [⟨MST_LAST_LATE_member_class, .ro, 0⟩,
   ⟨MST_LAST_LATE_cause, .ro, 0⟩,
   ⟨MST_LAST_LATE_member_index, .ro, 0⟩,
   ⟨MST_LAST_LATE_stretch_ns, .ro, 0⟩]
/-- R82, Table 02-16. -/
def MST_STRETCH_COUNT : Nat := 0x50
def MST_STRETCH_COUNT_late_stages : Fld := ⟨32, 32⟩
def MST_STRETCH_COUNT_total_us : Fld := ⟨0, 32⟩
def MST_STRETCH_COUNT_layout : List FieldDef :=
  [⟨MST_STRETCH_COUNT_late_stages, .ro, 0⟩,
   ⟨MST_STRETCH_COUNT_total_us, .ro, 0⟩]
/-- R83, Table 02-17. -/
def MST_SERVICE : Nat := 0x58
def MST_SERVICE_guaranteed_count : Fld := ⟨40, 24⟩
def MST_SERVICE_guarantee_active : Fld := ⟨32, 1⟩
def MST_SERVICE_max_starved : Fld := ⟨0, 7⟩
def MST_SERVICE_layout : List FieldDef :=
  [⟨MST_SERVICE_guaranteed_count, .ro, 0⟩,
   ⟨MST_SERVICE_guarantee_active, .ro, 0⟩,
   ⟨MST_SERVICE_max_starved, .ro, 0⟩]
/-- R83, Table 02-18. -/
def MST_TICK_PIN : Nat := 0x60
def MST_TICK_PIN_conflict : Fld := ⟨9, 1⟩
def MST_TICK_PIN_claimed : Fld := ⟨8, 1⟩
def MST_TICK_PIN_mode : Fld := ⟨0, 2⟩
def MST_TICK_PIN_layout : List FieldDef :=
  [⟨MST_TICK_PIN_conflict, .ro, 0⟩,
   ⟨MST_TICK_PIN_claimed, .ro, 0⟩,
   ⟨MST_TICK_PIN_mode, .rw, 0⟩]
/-- R33, Table 01-4. -/
def CORE_IDENT (i : Nat) : Nat := 0x1000000 + i * 0x400
def CORE_IDENT_doubled : Fld := ⟨40, 1⟩
def CORE_IDENT_phys_core : Fld := ⟨32, 8⟩
def CORE_IDENT_core : Fld := ⟨16, 7⟩
def CORE_IDENT_cluster_y : Fld := ⟨8, 4⟩
def CORE_IDENT_cluster_x : Fld := ⟨0, 4⟩
def CORE_IDENT_layout : List FieldDef :=
  [⟨CORE_IDENT_doubled, .ro, 0⟩,
   ⟨CORE_IDENT_phys_core, .ro, 0⟩,
   ⟨CORE_IDENT_core, .ro, 0⟩,
   ⟨CORE_IDENT_cluster_y, .ro, 0⟩,
   ⟨CORE_IDENT_cluster_x, .ro, 0⟩]
/-- R118, Table 03-8. -/
def CORE_CTRL (i : Nat) : Nat := 0x1000008 + i * 0x400
def CORE_CTRL_ro_inv : Fld := ⟨11, 1⟩
def CORE_CTRL_halt_req : Fld := ⟨8, 3⟩
def CORE_CTRL_start_pending : Fld := ⟨4, 3⟩
def CORE_CTRL_start_req : Fld := ⟨0, 3⟩
def CORE_CTRL_layout : List FieldDef :=
  [⟨CORE_CTRL_ro_inv, .wo, 0⟩,
   ⟨CORE_CTRL_halt_req, .wo, 0⟩,
   ⟨CORE_CTRL_start_pending, .ro, 0⟩,
   ⟨CORE_CTRL_start_req, .wo, 0⟩]
/-- R118, Table 03-9. -/
def CORE_ISSUE (i : Nat) : Nat := 0x1000010 + i * 0x400
def CORE_ISSUE_rotate : Fld := ⟨8, 2⟩
def CORE_ISSUE_order_active : Fld := ⟨4, 3⟩
def CORE_ISSUE_order : Fld := ⟨0, 3⟩
def CORE_ISSUE_layout : List FieldDef :=
  [⟨CORE_ISSUE_rotate, .rw, 0⟩,
   ⟨CORE_ISSUE_order_active, .ro, 0⟩,
   ⟨CORE_ISSUE_order, .rw, 0⟩]
/-- R119, Table 03-10. -/
def CORE_STREAM_F (i : Nat) : Nat := 0x1000018 + i * 0x400
def CORE_STREAM_F_fault_code : Fld := ⟨56, 8⟩
def CORE_STREAM_F_halt_cause : Fld := ⟨52, 4⟩
def CORE_STREAM_F_state : Fld := ⟨49, 3⟩
def CORE_STREAM_F_wait_counter : Fld := ⟨48, 1⟩
def CORE_STREAM_F_pc : Fld := ⟨3, 45⟩
def CORE_STREAM_F_layout : List FieldDef :=
  [⟨CORE_STREAM_F_fault_code, .ro, 0⟩,
   ⟨CORE_STREAM_F_halt_cause, .ro, 0⟩,
   ⟨CORE_STREAM_F_state, .ro, 0⟩,
   ⟨CORE_STREAM_F_wait_counter, .ro, 0⟩,
   ⟨CORE_STREAM_F_pc, .rw, 0⟩]
/-- R119, Table 03-10. -/
def CORE_STREAM_B (i : Nat) : Nat := 0x1000020 + i * 0x400
/-- R119, Table 03-10. -/
def CORE_STREAM_U (i : Nat) : Nat := 0x1000028 + i * 0x400
/-- R120, Table 03-11. -/
def CORE_RNG_SEED (i : Nat) : Nat := 0x1000030 + i * 0x400
def CORE_RNG_SEED_seed : Fld := ⟨0, 64⟩
def CORE_RNG_SEED_layout : List FieldDef :=
  [⟨CORE_RNG_SEED_seed, .rw, 0⟩]
/-- R120, Table 03-12. -/
def CORE_DRAW_F (i : Nat) : Nat := 0x1000038 + i * 0x400
def CORE_DRAW_F_draw : Fld := ⟨0, 64⟩
def CORE_DRAW_F_layout : List FieldDef :=
  [⟨CORE_DRAW_F_draw, .rw, 0⟩]
/-- R120, Table 03-12. -/
def CORE_DRAW_B (i : Nat) : Nat := 0x1000040 + i * 0x400
/-- R120, Table 03-12. -/
def CORE_DRAW_U (i : Nat) : Nat := 0x1000048 + i * 0x400
/-- R121, Table 03-13. -/
def CORE_SCTR_LO (i : Nat) : Nat := 0x1000050 + i * 0x400
def CORE_SCTR_LO_e3 : Fld := ⟨48, 16⟩
def CORE_SCTR_LO_e2 : Fld := ⟨32, 16⟩
def CORE_SCTR_LO_e1 : Fld := ⟨16, 16⟩
def CORE_SCTR_LO_e0 : Fld := ⟨0, 16⟩
def CORE_SCTR_LO_layout : List FieldDef :=
  [⟨CORE_SCTR_LO_e3, .ro, 0⟩,
   ⟨CORE_SCTR_LO_e2, .ro, 0⟩,
   ⟨CORE_SCTR_LO_e1, .ro, 0⟩,
   ⟨CORE_SCTR_LO_e0, .ro, 0⟩]
/-- R121, Table 03-14. -/
def CORE_SCTR_HI (i : Nat) : Nat := 0x1000058 + i * 0x400
def CORE_SCTR_HI_e7 : Fld := ⟨48, 16⟩
def CORE_SCTR_HI_e6 : Fld := ⟨32, 16⟩
def CORE_SCTR_HI_e5 : Fld := ⟨16, 16⟩
def CORE_SCTR_HI_e4 : Fld := ⟨0, 16⟩
def CORE_SCTR_HI_layout : List FieldDef :=
  [⟨CORE_SCTR_HI_e7, .ro, 0⟩,
   ⟨CORE_SCTR_HI_e6, .ro, 0⟩,
   ⟨CORE_SCTR_HI_e5, .ro, 0⟩,
   ⟨CORE_SCTR_HI_e4, .ro, 0⟩]
/-- R121, Table 03-15. -/
def CORE_STATUS (i : Nat) : Nat := 0x1000060 + i * 0x400
def CORE_STATUS_ctr_sat : Fld := ⟨56, 8⟩
def CORE_STATUS_slots_u : Fld := ⟨10, 5⟩
def CORE_STATUS_slots_b : Fld := ⟨5, 5⟩
def CORE_STATUS_slots_f : Fld := ⟨0, 5⟩
def CORE_STATUS_layout : List FieldDef :=
  [⟨CORE_STATUS_ctr_sat, .w1c, 0⟩,
   ⟨CORE_STATUS_slots_u, .ro, 0⟩,
   ⟨CORE_STATUS_slots_b, .ro, 0⟩,
   ⟨CORE_STATUS_slots_f, .ro, 0⟩]
/-- R122, Table 03-16. -/
def CORE_FAULT_ADDR (i : Nat) : Nat := 0x1000068 + i * 0x400
def CORE_FAULT_ADDR_addr : Fld := ⟨0, 64⟩
def CORE_FAULT_ADDR_layout : List FieldDef :=
  [⟨CORE_FAULT_ADDR_addr, .ro, 0⟩]
/-- R122, Table 03-17. -/
def CORE_ECC (i : Nat) : Nat := 0x1000070 + i * 0x400
def CORE_ECC_corrected : Fld := ⟨48, 16⟩
def CORE_ECC_uncorrectable : Fld := ⟨31, 1⟩
def CORE_ECC_uc_offset : Fld := ⟨0, 17⟩
def CORE_ECC_layout : List FieldDef :=
  [⟨CORE_ECC_corrected, .ro, 0⟩,
   ⟨CORE_ECC_uncorrectable, .w1c, 0⟩,
   ⟨CORE_ECC_uc_offset, .ro, 0⟩]
/-- R123, Table 03-18. -/
def CORE_DBG_SEL (i : Nat) : Nat := 0x1000078 + i * 0x400
def CORE_DBG_SEL_stream : Fld := ⟨8, 2⟩
def CORE_DBG_SEL_index : Fld := ⟨0, 8⟩
def CORE_DBG_SEL_layout : List FieldDef :=
  [⟨CORE_DBG_SEL_stream, .rw, 0⟩,
   ⟨CORE_DBG_SEL_index, .rw, 0⟩]
/-- R123, Table 03-19. -/
def CORE_DBG_DATA (i : Nat) : Nat := 0x1000080 + i * 0x400
def CORE_DBG_DATA_data : Fld := ⟨0, 64⟩
def CORE_DBG_DATA_layout : List FieldDef :=
  [⟨CORE_DBG_DATA_data, .rw, 0⟩]
/-- R196, Table 05-9. -/
def CORE_MXU_TILE (i : Nat) (j : Nat) : Nat := 0x1000200 + i * 0x400 + j * 0x8
def CORE_MXU_TILE_nonfinite : Fld := ⟨63, 1⟩
def CORE_MXU_TILE_nan : Fld := ⟨62, 1⟩
def CORE_MXU_TILE_inf : Fld := ⟨61, 1⟩
def CORE_MXU_TILE_first_col : Fld := ⟨8, 6⟩
def CORE_MXU_TILE_first_row : Fld := ⟨0, 6⟩
def CORE_MXU_TILE_layout : List FieldDef :=
  [⟨CORE_MXU_TILE_nonfinite, .ro, 0⟩,
   ⟨CORE_MXU_TILE_nan, .ro, 0⟩,
   ⟨CORE_MXU_TILE_inf, .ro, 0⟩,
   ⟨CORE_MXU_TILE_first_col, .ro, 0⟩,
   ⟨CORE_MXU_TILE_first_row, .ro, 0⟩]
/-- R196, Table 05-10. -/
def CORE_MXU_STAT (i : Nat) : Nat := 0x1000220 + i * 0x400
def CORE_MXU_STAT_nf_events : Fld := ⟨32, 32⟩
def CORE_MXU_STAT_shoulder_sat : Fld := ⟨0, 32⟩
def CORE_MXU_STAT_layout : List FieldDef :=
  [⟨CORE_MXU_STAT_nf_events, .ro, 0⟩,
   ⟨CORE_MXU_STAT_shoulder_sat, .ro, 0⟩]
/-- R195, Table 05-8. -/
def CORE_MXU_CFG (i : Nat) : Nat := 0x1000228 + i * 0x400
def CORE_MXU_CFG_stat_clr : Fld := ⟨8, 1⟩
def CORE_MXU_CFG_shoulder_off : Fld := ⟨1, 1⟩
def CORE_MXU_CFG_nf_fault : Fld := ⟨0, 1⟩
def CORE_MXU_CFG_layout : List FieldDef :=
  [⟨CORE_MXU_CFG_stat_clr, .wo, 0⟩,
   ⟨CORE_MXU_CFG_shoulder_off, .rw, 0⟩,
   ⟨CORE_MXU_CFG_nf_fault, .rw, 0⟩]
/-- R255, Table 07-13. -/
def CORE_VEC_FLAGS (i : Nat) (j : Nat) : Nat := 0x1000300 + i * 0x400 + j * 0x8
def CORE_VEC_FLAGS_nonfinite : Fld := ⟨63, 1⟩
def CORE_VEC_FLAGS_nan : Fld := ⟨62, 1⟩
def CORE_VEC_FLAGS_inf : Fld := ⟨61, 1⟩
def CORE_VEC_FLAGS_empty : Fld := ⟨60, 1⟩
def CORE_VEC_FLAGS_first_nf : Fld := ⟨32, 13⟩
def CORE_VEC_FLAGS_empty_count : Fld := ⟨16, 16⟩
def CORE_VEC_FLAGS_first_empty_row : Fld := ⟨0, 13⟩
def CORE_VEC_FLAGS_layout : List FieldDef :=
  [⟨CORE_VEC_FLAGS_nonfinite, .w1c, 0⟩,
   ⟨CORE_VEC_FLAGS_nan, .w1c, 0⟩,
   ⟨CORE_VEC_FLAGS_inf, .w1c, 0⟩,
   ⟨CORE_VEC_FLAGS_empty, .w1c, 0⟩,
   ⟨CORE_VEC_FLAGS_first_nf, .ro, 0⟩,
   ⟨CORE_VEC_FLAGS_empty_count, .ro, 0⟩,
   ⟨CORE_VEC_FLAGS_first_empty_row, .ro, 0⟩]
/-- R255, Table 07-12. -/
def CORE_VEC_STAT (i : Nat) : Nat := 0x1000318 + i * 0x400
def CORE_VEC_STAT_nf_events : Fld := ⟨32, 32⟩
def CORE_VEC_STAT_empty_rows : Fld := ⟨0, 32⟩
def CORE_VEC_STAT_layout : List FieldDef :=
  [⟨CORE_VEC_STAT_nf_events, .ro, 0⟩,
   ⟨CORE_VEC_STAT_empty_rows, .ro, 0⟩]
/-- R254, Table 07-11. -/
def CORE_VEC_CFG (i : Nat) : Nat := 0x1000320 + i * 0x400
def CORE_VEC_CFG_stat_clr : Fld := ⟨8, 1⟩
def CORE_VEC_CFG_nf_fault : Fld := ⟨0, 1⟩
def CORE_VEC_CFG_layout : List FieldDef :=
  [⟨CORE_VEC_CFG_stat_clr, .wo, 0⟩,
   ⟨CORE_VEC_CFG_nf_fault, .rw, 0⟩]
/-- R293, Table 08-20. -/
def CORE_STALL (i : Nat) (j : Nat) : Nat := 0x1000100 + i * 0x400 + j * 0x8
def CORE_STALL_cause_odd : Fld := ⟨32, 32⟩
def CORE_STALL_cause_even : Fld := ⟨0, 32⟩
def CORE_STALL_layout : List FieldDef :=
  [⟨CORE_STALL_cause_odd, .ro, 0⟩,
   ⟨CORE_STALL_cause_even, .ro, 0⟩]
/-- R293, Table 08-21. -/
def CORE_BANKC_0 (i : Nat) : Nat := 0x1000190 + i * 0x400
def CORE_BANKC_0_vector : Fld := ⟨32, 32⟩
def CORE_BANKC_0_matrix : Fld := ⟨0, 32⟩
def CORE_BANKC_0_layout : List FieldDef :=
  [⟨CORE_BANKC_0_vector, .ro, 0⟩,
   ⟨CORE_BANKC_0_matrix, .ro, 0⟩]
/-- R293, Table 08-22. -/
def CORE_BANKC_1 (i : Nat) : Nat := 0x1000198 + i * 0x400
def CORE_BANKC_1_scalar : Fld := ⟨32, 32⟩
def CORE_BANKC_1_movement : Fld := ⟨0, 32⟩
def CORE_BANKC_1_layout : List FieldDef :=
  [⟨CORE_BANKC_1_scalar, .ro, 0⟩,
   ⟨CORE_BANKC_1_movement, .ro, 0⟩]
/-- R293, Table 08-23. -/
def CORE_STALL_CTRL (i : Nat) : Nat := 0x10001a0 + i * 0x400
def CORE_STALL_CTRL_stat_clr : Fld := ⟨0, 1⟩
def CORE_STALL_CTRL_layout : List FieldDef :=
  [⟨CORE_STALL_CTRL_stat_clr, .wo, 0⟩]
/-- R553, Table 17-26. -/
def TEL_EXP : Nat := 0x900000
def TEL_EXP_interval : Fld := ⟨56, 8⟩
def TEL_EXP_base : Fld := ⟨12, 36⟩
def TEL_EXP_size_log2 : Fld := ⟨4, 5⟩
def TEL_EXP_enable : Fld := ⟨0, 1⟩
def TEL_EXP_layout : List FieldDef :=
  [⟨TEL_EXP_interval, .rw, 64⟩,
   ⟨TEL_EXP_base, .rw, 0⟩,
   ⟨TEL_EXP_size_log2, .rw, 8⟩,
   ⟨TEL_EXP_enable, .rw, 0⟩]
/-- R553, Table 17-27. -/
def TEL_EXP_HEAD : Nat := 0x900008
def TEL_EXP_HEAD_head : Fld := ⟨0, 32⟩
def TEL_EXP_HEAD_layout : List FieldDef :=
  [⟨TEL_EXP_HEAD_head, .ro, 0⟩]
/-- R222, Table 06-14. -/
def TEL_LOG_BASE : Nat := 0x908000
def TEL_LOG_BASE_base : Fld := ⟨12, 36⟩
def TEL_LOG_BASE_layout : List FieldDef :=
  [⟨TEL_LOG_BASE_base, .rw, 0⟩]
/-- R222, Table 06-15. -/
def TEL_LOG_CTRL : Nat := 0x908008
def TEL_LOG_CTRL_size_log2 : Fld := ⟨8, 5⟩
def TEL_LOG_CTRL_enable : Fld := ⟨0, 1⟩
def TEL_LOG_CTRL_layout : List FieldDef :=
  [⟨TEL_LOG_CTRL_size_log2, .rw, 6⟩,
   ⟨TEL_LOG_CTRL_enable, .rw, 0⟩]
/-- R223, Table 06-16. -/
def TEL_LOG_HEAD : Nat := 0x908010
def TEL_LOG_HEAD_head : Fld := ⟨0, 32⟩
def TEL_LOG_HEAD_layout : List FieldDef :=
  [⟨TEL_LOG_HEAD_head, .ro, 0⟩]
/-- R223, Table 06-17. -/
def TEL_LOG_TAIL : Nat := 0x908018
def TEL_LOG_TAIL_tail : Fld := ⟨0, 32⟩
def TEL_LOG_TAIL_layout : List FieldDef :=
  [⟨TEL_LOG_TAIL_tail, .rw, 0⟩]
/-- R223, Table 06-18. -/
def TEL_LOG_STATUS : Nat := 0x908020
def TEL_LOG_STATUS_lost : Fld := ⟨32, 32⟩
def TEL_LOG_STATUS_overflow : Fld := ⟨0, 1⟩
def TEL_LOG_STATUS_layout : List FieldDef :=
  [⟨TEL_LOG_STATUS_lost, .ro, 0⟩,
   ⟨TEL_LOG_STATUS_overflow, .w1c, 0⟩]
/-- R224, Table 06-19. -/
def TEL_LADDER_COUNT : Nat := 0x908028
def TEL_LADDER_COUNT_forced : Fld := ⟨48, 16⟩
def TEL_LADDER_COUNT_to_rung3 : Fld := ⟨32, 16⟩
def TEL_LADDER_COUNT_to_rung2 : Fld := ⟨16, 16⟩
def TEL_LADDER_COUNT_to_rung1 : Fld := ⟨0, 16⟩
def TEL_LADDER_COUNT_layout : List FieldDef :=
  [⟨TEL_LADDER_COUNT_forced, .ro, 0⟩,
   ⟨TEL_LADDER_COUNT_to_rung3, .ro, 0⟩,
   ⟨TEL_LADDER_COUNT_to_rung2, .ro, 0⟩,
   ⟨TEL_LADDER_COUNT_to_rung1, .ro, 0⟩]
/-- R224, Table 06-20. -/
def TEL_AUDIT_CTRL : Nat := 0x908030
def TEL_AUDIT_CTRL_clear : Fld := ⟨8, 1⟩
def TEL_AUDIT_CTRL_rate_shift : Fld := ⟨0, 5⟩
def TEL_AUDIT_CTRL_layout : List FieldDef :=
  [⟨TEL_AUDIT_CTRL_clear, .wo, 0⟩,
   ⟨TEL_AUDIT_CTRL_rate_shift, .rw, 12⟩]
/-- R224, Table 06-21. -/
def TEL_AUDIT_COUNT : Nat := 0x908038
def TEL_AUDIT_COUNT_taken : Fld := ⟨40, 24⟩
def TEL_AUDIT_COUNT_skipped : Fld := ⟨16, 24⟩
def TEL_AUDIT_COUNT_exceed : Fld := ⟨0, 16⟩
def TEL_AUDIT_COUNT_layout : List FieldDef :=
  [⟨TEL_AUDIT_COUNT_taken, .ro, 0⟩,
   ⟨TEL_AUDIT_COUNT_skipped, .ro, 0⟩,
   ⟨TEL_AUDIT_COUNT_exceed, .ro, 0⟩]
/-- R225, Table 06-22. -/
def TEL_AUDIT_HIST (i : Nat) : Nat := 0x908800 + i * 0x8
def TEL_AUDIT_HIST_count : Fld := ⟨0, 64⟩
def TEL_AUDIT_HIST_layout : List FieldDef :=
  [⟨TEL_AUDIT_HIST_count, .ro, 0⟩]
/-- R289, Table 08-9. -/
def CCH_CTRL : Nat := 0xd00000
def CCH_CTRL_stat_clr : Fld := ⟨8, 1⟩
def CCH_CTRL_rap_depth : Fld := ⟨4, 4⟩
def CCH_CTRL_ms_inv : Fld := ⟨0, 1⟩
def CCH_CTRL_layout : List FieldDef :=
  [⟨CCH_CTRL_stat_clr, .wo, 0⟩,
   ⟨CCH_CTRL_rap_depth, .rw, 8⟩,
   ⟨CCH_CTRL_ms_inv, .rw, 1⟩]
/-- R289, Table 08-10. -/
def CCH_NOPF (i : Nat) : Nat := 0xd00040 + i * 0x8
def CCH_NOPF_enable : Fld := ⟨63, 1⟩
def CCH_NOPF_limit_page : Fld := ⟨32, 25⟩
def CCH_NOPF_base_page : Fld := ⟨0, 25⟩
def CCH_NOPF_layout : List FieldDef :=
  [⟨CCH_NOPF_enable, .rw, 0⟩,
   ⟨CCH_NOPF_limit_page, .rw, 0⟩,
   ⟨CCH_NOPF_base_page, .rw, 0⟩]
/-- R290, Table 08-11. -/
def CCH_HIT (i : Nat) : Nat := 0xd10000 + i * 0x1000
def CCH_HIT_half1 : Fld := ⟨32, 32⟩
def CCH_HIT_half0 : Fld := ⟨0, 32⟩
def CCH_HIT_layout : List FieldDef :=
  [⟨CCH_HIT_half1, .ro, 0⟩,
   ⟨CCH_HIT_half0, .ro, 0⟩]
/-- R290, Table 08-11. -/
def CCH_MISS (i : Nat) : Nat := 0xd10008 + i * 0x1000
def CCH_MISS_half1 : Fld := ⟨32, 32⟩
def CCH_MISS_half0 : Fld := ⟨0, 32⟩
def CCH_MISS_layout : List FieldDef :=
  [⟨CCH_MISS_half1, .ro, 0⟩,
   ⟨CCH_MISS_half0, .ro, 0⟩]
/-- R290, Table 08-11. -/
def CCH_PF (i : Nat) : Nat := 0xd10010 + i * 0x1000
def CCH_PF_dropped : Fld := ⟨32, 32⟩
def CCH_PF_issued : Fld := ⟨0, 32⟩
def CCH_PF_layout : List FieldDef :=
  [⟨CCH_PF_dropped, .ro, 0⟩,
   ⟨CCH_PF_issued, .ro, 0⟩]
/-- R291, Table 08-12. -/
def VRG_CTRL : Nat := 0xe00000
def VRG_CTRL_stat_clr : Fld := ⟨8, 1⟩
def VRG_CTRL_dead_fault : Fld := ⟨0, 1⟩
def VRG_CTRL_layout : List FieldDef :=
  [⟨VRG_CTRL_stat_clr, .wo, 0⟩,
   ⟨VRG_CTRL_dead_fault, .rw, 0⟩]
/-- R291, Table 08-13. -/
def VRG_SLICE_CFG (i : Nat) : Nat := 0xe10000 + i * 0x1000
def VRG_SLICE_CFG_busy : Fld := ⟨16, 1⟩
def VRG_SLICE_CFG_window_active : Fld := ⟨8, 4⟩
def VRG_SLICE_CFG_window_ways : Fld := ⟨0, 4⟩
def VRG_SLICE_CFG_layout : List FieldDef :=
  [⟨VRG_SLICE_CFG_busy, .ro, 0⟩,
   ⟨VRG_SLICE_CFG_window_active, .ro, 0⟩,
   ⟨VRG_SLICE_CFG_window_ways, .rw, 0⟩]
/-- R292, Table 08-14. -/
def VRG_OCCUPANCY (i : Nat) : Nat := 0xe10008 + i * 0x1000
def VRG_OCCUPANCY_provisional_sectors : Fld := ⟨48, 16⟩
def VRG_OCCUPANCY_reduction_lines : Fld := ⟨32, 14⟩
def VRG_OCCUPANCY_pinned_lines : Fld := ⟨16, 14⟩
def VRG_OCCUPANCY_slots_busy : Fld := ⟨0, 9⟩
def VRG_OCCUPANCY_layout : List FieldDef :=
  [⟨VRG_OCCUPANCY_provisional_sectors, .ro, 0⟩,
   ⟨VRG_OCCUPANCY_reduction_lines, .ro, 0⟩,
   ⟨VRG_OCCUPANCY_pinned_lines, .ro, 0⟩,
   ⟨VRG_OCCUPANCY_slots_busy, .ro, 0⟩]
/-- R292, Table 08-15. -/
def VRG_EVENTS_0 (i : Nat) : Nat := 0xe10010 + i * 0x1000
def VRG_EVENTS_0_dead_reads : Fld := ⟨32, 32⟩
def VRG_EVENTS_0_dead_refused : Fld := ⟨0, 32⟩
def VRG_EVENTS_0_layout : List FieldDef :=
  [⟨VRG_EVENTS_0_dead_reads, .ro, 0⟩,
   ⟨VRG_EVENTS_0_dead_refused, .ro, 0⟩]
/-- R292, Table 08-16. -/
def VRG_EVENTS_1 (i : Nat) : Nat := 0xe10018 + i * 0x1000
def VRG_EVENTS_1_pin_refused : Fld := ⟨32, 32⟩
def VRG_EVENTS_1_reduce_through : Fld := ⟨0, 32⟩
def VRG_EVENTS_1_layout : List FieldDef :=
  [⟨VRG_EVENTS_1_pin_refused, .ro, 0⟩,
   ⟨VRG_EVENTS_1_reduce_through, .ro, 0⟩]
/-- R292, Table 08-17. -/
def VRG_HOTSPOT (i : Nat) : Nat := 0xe10020 + i * 0x1000
def VRG_HOTSPOT_events : Fld := ⟨32, 32⟩
def VRG_HOTSPOT_active : Fld := ⟨15, 1⟩
def VRG_HOTSPOT_last_bank : Fld := ⟨8, 6⟩
def VRG_HOTSPOT_last_pc : Fld := ⟨0, 5⟩
def VRG_HOTSPOT_layout : List FieldDef :=
  [⟨VRG_HOTSPOT_events, .ro, 0⟩,
   ⟨VRG_HOTSPOT_active, .ro, 0⟩,
   ⟨VRG_HOTSPOT_last_bank, .ro, 0⟩,
   ⟨VRG_HOTSPOT_last_pc, .ro, 0⟩]
/-- R292, Table 08-18. -/
def VRG_STALL_0 (i : Nat) : Nat := 0xe10028 + i * 0x1000
def VRG_STALL_0_bank_busy : Fld := ⟨32, 32⟩
def VRG_STALL_0_slots_full : Fld := ⟨0, 32⟩
def VRG_STALL_0_layout : List FieldDef :=
  [⟨VRG_STALL_0_bank_busy, .ro, 0⟩,
   ⟨VRG_STALL_0_slots_full, .ro, 0⟩]
/-- R292, Table 08-19. -/
def VRG_STALL_1 (i : Nat) : Nat := 0xe10030 + i * 0x1000
def VRG_STALL_1_peer_wait : Fld := ⟨32, 32⟩
def VRG_STALL_1_junction : Fld := ⟨0, 32⟩
def VRG_STALL_1_layout : List FieldDef :=
  [⟨VRG_STALL_1_peer_wait, .ro, 0⟩,
   ⟨VRG_STALL_1_junction, .ro, 0⟩]
/-- R324, Table 09-9. -/
def KRB_CTRL : Nat := 0xf00000
def KRB_CTRL_lease_limit : Fld := ⟨48, 16⟩
def KRB_CTRL_scrub_hours : Fld := ⟨32, 8⟩
def KRB_CTRL_pc_share : Fld := ⟨8, 6⟩
def KRB_CTRL_stat_clr : Fld := ⟨0, 1⟩
def KRB_CTRL_layout : List FieldDef :=
  [⟨KRB_CTRL_lease_limit, .rw, 0x0400⟩,
   ⟨KRB_CTRL_scrub_hours, .rw, 24⟩,
   ⟨KRB_CTRL_pc_share, .rw, 27⟩,
   ⟨KRB_CTRL_stat_clr, .wo, 0⟩]
/-- R324, Table 09-10. -/
def KRB_SEED : Nat := 0xf00008
def KRB_SEED_seed : Fld := ⟨0, 64⟩
def KRB_SEED_layout : List FieldDef :=
  [⟨KRB_SEED_seed, .rw, 0⟩]
/-- R325, Table 09-11. -/
def KRB_STATUS (i : Nat) : Nat := 0xf10000 + i * 0x4000
def KRB_STATUS_shards_open : Fld := ⟨32, 11⟩
def KRB_STATUS_leases : Fld := ⟨16, 13⟩
def KRB_STATUS_parked : Fld := ⟨8, 7⟩
def KRB_STATUS_queued : Fld := ⟨0, 7⟩
def KRB_STATUS_layout : List FieldDef :=
  [⟨KRB_STATUS_shards_open, .ro, 0⟩,
   ⟨KRB_STATUS_leases, .ro, 0⟩,
   ⟨KRB_STATUS_parked, .ro, 0⟩,
   ⟨KRB_STATUS_queued, .ro, 0⟩]
/-- R326, Table 09-12. -/
def KRB_COUNT_0 (i : Nat) : Nat := 0xf10008 + i * 0x4000
def KRB_COUNT_0_commands : Fld := ⟨32, 32⟩
def KRB_COUNT_0_pushes : Fld := ⟨0, 32⟩
def KRB_COUNT_0_layout : List FieldDef :=
  [⟨KRB_COUNT_0_commands, .ro, 0⟩,
   ⟨KRB_COUNT_0_pushes, .ro, 0⟩]
/-- R326, Table 09-13. -/
def KRB_COUNT_1 (i : Nat) : Nat := 0xf10010 + i * 0x4000
def KRB_COUNT_1_contributions : Fld := ⟨32, 32⟩
def KRB_COUNT_1_epoch_refused : Fld := ⟨16, 16⟩
def KRB_COUNT_1_skipped : Fld := ⟨0, 16⟩
def KRB_COUNT_1_layout : List FieldDef :=
  [⟨KRB_COUNT_1_contributions, .ro, 0⟩,
   ⟨KRB_COUNT_1_epoch_refused, .ro, 0⟩,
   ⟨KRB_COUNT_1_skipped, .ro, 0⟩]
/-- R326, Table 09-14. -/
def KRB_COUNT_2 (i : Nat) : Nat := 0xf10018 + i * 0x4000
def KRB_COUNT_2_revoked : Fld := ⟨48, 16⟩
def KRB_COUNT_2_stale : Fld := ⟨32, 16⟩
def KRB_COUNT_2_recomputed : Fld := ⟨16, 16⟩
def KRB_COUNT_2_refetched : Fld := ⟨0, 16⟩
def KRB_COUNT_2_layout : List FieldDef :=
  [⟨KRB_COUNT_2_revoked, .ro, 0⟩,
   ⟨KRB_COUNT_2_stale, .ro, 0⟩,
   ⟨KRB_COUNT_2_recomputed, .ro, 0⟩,
   ⟨KRB_COUNT_2_refetched, .ro, 0⟩]
/-- R326, Table 09-15. -/
def KRB_SCRUB (i : Nat) : Nat := 0xf10020 + i * 0x4000
def KRB_SCRUB_passes : Fld := ⟨48, 16⟩
def KRB_SCRUB_position : Fld := ⟨0, 28⟩
def KRB_SCRUB_layout : List FieldDef :=
  [⟨KRB_SCRUB_passes, .ro, 0⟩,
   ⟨KRB_SCRUB_position, .ro, 0⟩]
/-- R326, Table 08-20. -/
def KRB_STALL (i : Nat) (j : Nat) : Nat := 0xf10100 + i * 0x4000 + j * 0x8
/-- R353, Table 10-7. -/
def CMD_STEP_PLAN : Nat := 0x104000
def CMD_STEP_PLAN_plan : Fld := ⟨7, 41⟩
def CMD_STEP_PLAN_layout : List FieldDef :=
  [⟨CMD_STEP_PLAN_plan, .rw, 0⟩]
/-- R353, Table 10-8. -/
def CMD_STEP_CTRL : Nat := 0x104008
def CMD_STEP_CTRL_stop : Fld := ⟨2, 1⟩
def CMD_STEP_CTRL_run : Fld := ⟨1, 1⟩
def CMD_STEP_CTRL_load : Fld := ⟨0, 1⟩
def CMD_STEP_CTRL_layout : List FieldDef :=
  [⟨CMD_STEP_CTRL_stop, .wo, 0⟩,
   ⟨CMD_STEP_CTRL_run, .rw, 0⟩,
   ⟨CMD_STEP_CTRL_load, .wo, 0⟩]
/-- R354, Table 10-9. -/
def CMD_STEP_STATUS : Nat := 0x104010
def CMD_STEP_STATUS_state : Fld := ⟨60, 4⟩
def CMD_STEP_STATUS_reason : Fld := ⟨56, 4⟩
def CMD_STEP_STATUS_m : Fld := ⟨43, 13⟩
def CMD_STEP_STATUS_step : Fld := ⟨0, 32⟩
def CMD_STEP_STATUS_layout : List FieldDef :=
  [⟨CMD_STEP_STATUS_state, .ro, 0⟩,
   ⟨CMD_STEP_STATUS_reason, .ro, 0⟩,
   ⟨CMD_STEP_STATUS_m, .ro, 0⟩,
   ⟨CMD_STEP_STATUS_step, .ro, 0⟩]
/-- R354, Table 10-10. -/
def CMD_STEP_STOP : Nat := 0x104018
def CMD_STEP_STOP_core : Fld := ⟨32, 15⟩
def CMD_STEP_STOP_halt_cause : Fld := ⟨28, 4⟩
def CMD_STEP_STOP_kind : Fld := ⟨24, 2⟩
def CMD_STEP_STOP_j : Fld := ⟨0, 13⟩
def CMD_STEP_STOP_layout : List FieldDef :=
  [⟨CMD_STEP_STOP_core, .ro, 0⟩,
   ⟨CMD_STEP_STOP_halt_cause, .ro, 0⟩,
   ⟨CMD_STEP_STOP_kind, .ro, 0⟩,
   ⟨CMD_STEP_STOP_j, .ro, 0⟩]
/-- R354, Table 10-11. -/
def CMD_STEP_COUNT : Nat := 0x104020
def CMD_STEP_COUNT_filler_units : Fld := ⟨40, 24⟩
def CMD_STEP_COUNT_towpath : Fld := ⟨24, 16⟩
def CMD_STEP_COUNT_filler_overruns : Fld := ⟨8, 16⟩
def CMD_STEP_COUNT_layout : List FieldDef :=
  [⟨CMD_STEP_COUNT_filler_units, .ro, 0⟩,
   ⟨CMD_STEP_COUNT_towpath, .ro, 0⟩,
   ⟨CMD_STEP_COUNT_filler_overruns, .ro, 0⟩]
/-- R355, Table 10-12. -/
def CMD_SURVEY_EST : Nat := 0x104028
def CMD_SURVEY_EST_estimate : Fld := ⟨0, 64⟩
def CMD_SURVEY_EST_layout : List FieldDef :=
  [⟨CMD_SURVEY_EST_estimate, .ro, 0⟩]
/-- R355, Table 10-13. -/
def CMD_SURVEY_STAT : Nat := 0x104030
def CMD_SURVEY_STAT_invalid : Fld := ⟨48, 16⟩
def CMD_SURVEY_STAT_valid : Fld := ⟨32, 16⟩
def CMD_SURVEY_STAT_m_next : Fld := ⟨0, 13⟩
def CMD_SURVEY_STAT_layout : List FieldDef :=
  [⟨CMD_SURVEY_STAT_invalid, .ro, 0⟩,
   ⟨CMD_SURVEY_STAT_valid, .ro, 0⟩,
   ⟨CMD_SURVEY_STAT_m_next, .ro, 0⟩]
/-- R355, Table 10-14. -/
def CMD_PHASE : Nat := 0x104038
def CMD_PHASE_base : Fld := ⟨12, 36⟩
def CMD_PHASE_size_log2 : Fld := ⟨4, 5⟩
def CMD_PHASE_enable : Fld := ⟨0, 1⟩
def CMD_PHASE_layout : List FieldDef :=
  [⟨CMD_PHASE_base, .rw, 0⟩,
   ⟨CMD_PHASE_size_log2, .rw, 8⟩,
   ⟨CMD_PHASE_enable, .rw, 0⟩]
/-- R355, Table 10-15. -/
def CMD_PHASE_HEAD : Nat := 0x104040
def CMD_PHASE_HEAD_head : Fld := ⟨0, 32⟩
def CMD_PHASE_HEAD_layout : List FieldDef :=
  [⟨CMD_PHASE_HEAD_head, .ro, 0⟩]
/-- R356, Table 10-16. -/
def CMD_EPOCH_REQ : Nat := 0x104048
def CMD_EPOCH_REQ_epoch : Fld := ⟨48, 16⟩
def CMD_EPOCH_REQ_step : Fld := ⟨0, 32⟩
def CMD_EPOCH_REQ_layout : List FieldDef :=
  [⟨CMD_EPOCH_REQ_epoch, .rw, 0⟩,
   ⟨CMD_EPOCH_REQ_step, .rw, 0⟩]
/-- R356, Table 10-17. -/
def CMD_EPOCH_COMMIT : Nat := 0x104050
def CMD_EPOCH_COMMIT_stage : Fld := ⟨0, 48⟩
def CMD_EPOCH_COMMIT_layout : List FieldDef :=
  [⟨CMD_EPOCH_COMMIT_stage, .rw, 0⟩]
/-- R356, Table 10-18. -/
def CMD_EPOCH_STATUS : Nat := 0x104058
def CMD_EPOCH_STATUS_in_force : Fld := ⟨48, 16⟩
def CMD_EPOCH_STATUS_state : Fld := ⟨44, 4⟩
def CMD_EPOCH_STATUS_error : Fld := ⟨40, 4⟩
def CMD_EPOCH_STATUS_layout : List FieldDef :=
  [⟨CMD_EPOCH_STATUS_in_force, .ro, 0⟩,
   ⟨CMD_EPOCH_STATUS_state, .ro, 0⟩,
   ⟨CMD_EPOCH_STATUS_error, .ro, 0⟩]
/-- R356, Table 10-19. -/
def CMD_REMAP : Nat := 0x104060
def CMD_REMAP_count : Fld := ⟨48, 13⟩
def CMD_REMAP_base : Fld := ⟨8, 40⟩
def CMD_REMAP_layout : List FieldDef :=
  [⟨CMD_REMAP_count, .rw, 0⟩,
   ⟨CMD_REMAP_base, .rw, 0⟩]
/-- R356, Table 10-20. -/
def CMD_REMAP_COUNT : Nat := 0x104068
def CMD_REMAP_COUNT_remapped : Fld := ⟨32, 32⟩
def CMD_REMAP_COUNT_lost : Fld := ⟨0, 32⟩
def CMD_REMAP_COUNT_layout : List FieldDef :=
  [⟨CMD_REMAP_COUNT_remapped, .ro, 0⟩,
   ⟨CMD_REMAP_COUNT_lost, .ro, 0⟩]
/-- R454, Table 13-24. -/
def CMD_MBOX_ARG (i : Nat) : Nat := 0x100000 + i * 0x8
def CMD_MBOX_ARG_arg : Fld := ⟨0, 64⟩
def CMD_MBOX_ARG_layout : List FieldDef :=
  [⟨CMD_MBOX_ARG_arg, .rw, 0⟩]
/-- R454, Table 13-25. -/
def CMD_MBOX_OP : Nat := 0x100020
def CMD_MBOX_OP_op : Fld := ⟨0, 8⟩
def CMD_MBOX_OP_layout : List FieldDef :=
  [⟨CMD_MBOX_OP_op, .wo, 0⟩]
/-- R454, Table 13-26. -/
def CMD_MBOX_RESULT : Nat := 0x100028
def CMD_MBOX_RESULT_busy : Fld := ⟨63, 1⟩
def CMD_MBOX_RESULT_status : Fld := ⟨48, 8⟩
def CMD_MBOX_RESULT_value : Fld := ⟨0, 32⟩
def CMD_MBOX_RESULT_layout : List FieldDef :=
  [⟨CMD_MBOX_RESULT_busy, .ro, 0⟩,
   ⟨CMD_MBOX_RESULT_status, .ro, 0⟩,
   ⟨CMD_MBOX_RESULT_value, .ro, 0⟩]
/-- R455, Table 13-27. -/
def CMD_CHAN (i : Nat) : Nat := 0x110000 + i * 0x8
def CMD_CHAN_state : Fld := ⟨60, 4⟩
def CMD_CHAN_cause : Fld := ⟨56, 4⟩
def CMD_CHAN_host_lost : Fld := ⟨55, 1⟩
def CMD_CHAN_filler : Fld := ⟨54, 1⟩
def CMD_CHAN_rereads : Fld := ⟨32, 16⟩
def CMD_CHAN_ev_lost : Fld := ⟨16, 16⟩
def CMD_CHAN_running : Fld := ⟨0, 7⟩
def CMD_CHAN_layout : List FieldDef :=
  [⟨CMD_CHAN_state, .ro, 0⟩,
   ⟨CMD_CHAN_cause, .ro, 0⟩,
   ⟨CMD_CHAN_host_lost, .ro, 0⟩,
   ⟨CMD_CHAN_filler, .ro, 0⟩,
   ⟨CMD_CHAN_rereads, .ro, 0⟩,
   ⟨CMD_CHAN_ev_lost, .ro, 0⟩,
   ⟨CMD_CHAN_running, .ro, 0⟩]
/-- R382, Table 11-13. -/
def ATN_CTRL : Nat := 0x300000
def ATN_CTRL_list_limit : Fld := ⟨48, 16⟩
def ATN_CTRL_ra_blocks : Fld := ⟨8, 7⟩
def ATN_CTRL_stat_clr : Fld := ⟨1, 1⟩
def ATN_CTRL_enable : Fld := ⟨0, 1⟩
def ATN_CTRL_layout : List FieldDef :=
  [⟨ATN_CTRL_list_limit, .rw, 64⟩,
   ⟨ATN_CTRL_ra_blocks, .rw, 16⟩,
   ⟨ATN_CTRL_stat_clr, .wo, 0⟩,
   ⟨ATN_CTRL_enable, .rw, 0⟩]
/-- R382, Table 11-14. -/
def ATN_STATUS : Nat := 0x300008
def ATN_STATUS_tables : Fld := ⟨32, 13⟩
def ATN_STATUS_lists : Fld := ⟨16, 13⟩
def ATN_STATUS_transfers : Fld := ⟨8, 7⟩
def ATN_STATUS_parked : Fld := ⟨0, 7⟩
def ATN_STATUS_layout : List FieldDef :=
  [⟨ATN_STATUS_tables, .ro, 0⟩,
   ⟨ATN_STATUS_lists, .ro, 0⟩,
   ⟨ATN_STATUS_transfers, .ro, 0⟩,
   ⟨ATN_STATUS_parked, .ro, 0⟩]
/-- R383, Table 11-15. -/
def ATN_COUNT_0 : Nat := 0x300010
def ATN_COUNT_0_lists : Fld := ⟨32, 32⟩
def ATN_COUNT_0_commits : Fld := ⟨0, 32⟩
def ATN_COUNT_0_layout : List FieldDef :=
  [⟨ATN_COUNT_0_lists, .ro, 0⟩,
   ⟨ATN_COUNT_0_commits, .ro, 0⟩]
/-- R383, Table 11-16. -/
def ATN_COUNT_1 : Nat := 0x300018
def ATN_COUNT_1_spilled : Fld := ⟨32, 32⟩
def ATN_COUNT_1_fetched : Fld := ⟨0, 32⟩
def ATN_COUNT_1_layout : List FieldDef :=
  [⟨ATN_COUNT_1_spilled, .ro, 0⟩,
   ⟨ATN_COUNT_1_fetched, .ro, 0⟩]
/-- R383, Table 11-17. -/
def ATN_COUNT_2 : Nat := 0x300020
def ATN_COUNT_2_revoked : Fld := ⟨48, 16⟩
def ATN_COUNT_2_layby_errors : Fld := ⟨32, 16⟩
def ATN_COUNT_2_empty_lists : Fld := ⟨16, 16⟩
def ATN_COUNT_2_refused : Fld := ⟨0, 16⟩
def ATN_COUNT_2_layout : List FieldDef :=
  [⟨ATN_COUNT_2_revoked, .ro, 0⟩,
   ⟨ATN_COUNT_2_layby_errors, .ro, 0⟩,
   ⟨ATN_COUNT_2_empty_lists, .ro, 0⟩,
   ⟨ATN_COUNT_2_refused, .ro, 0⟩]
/-- R384, Table 11-18. -/
def ATN_RING_BASE (i : Nat) : Nat := 0x300100 + i * 0x10
def ATN_RING_BASE_base : Fld := ⟨6, 42⟩
def ATN_RING_BASE_layout : List FieldDef :=
  [⟨ATN_RING_BASE_base, .rw, 0⟩]
/-- R384, Table 11-19. -/
def ATN_RING_CTRL (i : Nat) : Nat := 0x300108 + i * 0x10
def ATN_RING_CTRL_channel : Fld := ⟨32, 32⟩
def ATN_RING_CTRL_error : Fld := ⟨16, 1⟩
def ATN_RING_CTRL_size_log2 : Fld := ⟨8, 4⟩
def ATN_RING_CTRL_enable : Fld := ⟨0, 1⟩
def ATN_RING_CTRL_layout : List FieldDef :=
  [⟨ATN_RING_CTRL_channel, .rw, 0⟩,
   ⟨ATN_RING_CTRL_error, .w1c, 0⟩,
   ⟨ATN_RING_CTRL_size_log2, .rw, 4⟩,
   ⟨ATN_RING_CTRL_enable, .rw, 0⟩]
/-- R47, Table 01-8. -/
def CWY_SELF_ID : Nat := 0xc00000
def CWY_SELF_ID_id_valid : Fld := ⟨63, 1⟩
def CWY_SELF_ID_device_id : Fld := ⟨0, 18⟩
def CWY_SELF_ID_layout : List FieldDef :=
  [⟨CWY_SELF_ID_id_valid, .ro, 0⟩,
   ⟨CWY_SELF_ID_device_id, .ro, 0⟩]
/-- R412, Table 12-10. -/
def CWY_CTRL : Nat := 0xc00008
def CWY_CTRL_coll_timeout_ms : Fld := ⟨48, 16⟩
def CWY_CTRL_req_timeout_us : Fld := ⟨32, 16⟩
def CWY_CTRL_stat_clr : Fld := ⟨0, 1⟩
def CWY_CTRL_layout : List FieldDef :=
  [⟨CWY_CTRL_coll_timeout_ms, .rw, 0x03E8⟩,
   ⟨CWY_CTRL_req_timeout_us, .rw, 0x03E8⟩,
   ⟨CWY_CTRL_stat_clr, .wo, 0⟩]
/-- R412, Table 12-11. -/
def CWY_FABRIC_CFG : Nat := 0xc00010
def CWY_FABRIC_CFG_start : Fld := ⟨63, 1⟩
def CWY_FABRIC_CFG_ring_m1 : Fld := ⟨0, 18⟩
def CWY_FABRIC_CFG_layout : List FieldDef :=
  [⟨CWY_FABRIC_CFG_start, .wo, 0⟩,
   ⟨CWY_FABRIC_CFG_ring_m1, .rw, 0⟩]
/-- R412, Table 12-12. -/
def CWY_FABRIC_STATUS : Nat := 0xc00018
def CWY_FABRIC_STATUS_state : Fld := ⟨60, 4⟩
def CWY_FABRIC_STATUS_error : Fld := ⟨56, 4⟩
def CWY_FABRIC_STATUS_incomplete : Fld := ⟨55, 1⟩
def CWY_FABRIC_STATUS_members : Fld := ⟨36, 19⟩
def CWY_FABRIC_STATUS_layout : List FieldDef :=
  [⟨CWY_FABRIC_STATUS_state, .ro, 0⟩,
   ⟨CWY_FABRIC_STATUS_error, .ro, 0⟩,
   ⟨CWY_FABRIC_STATUS_incomplete, .ro, 0⟩,
   ⟨CWY_FABRIC_STATUS_members, .ro, 0⟩]
/-- R413, Table 12-13. -/
def CWY_UID : Nat := 0xc00020
def CWY_UID_uid : Fld := ⟨0, 64⟩
def CWY_UID_layout : List FieldDef :=
  [⟨CWY_UID_uid, .ro, 0⟩]
/-- R413, Table 12-14. -/
def CWY_TIME : Nat := 0xc00028
def CWY_TIME_late_prop_ns : Fld := ⟨32, 16⟩
def CWY_TIME_sync_lost : Fld := ⟨31, 1⟩
def CWY_TIME_hops : Fld := ⟨24, 7⟩
def CWY_TIME_err_ps : Fld := ⟨0, 16⟩
def CWY_TIME_layout : List FieldDef :=
  [⟨CWY_TIME_late_prop_ns, .ro, 0⟩,
   ⟨CWY_TIME_sync_lost, .w1c, 0⟩,
   ⟨CWY_TIME_hops, .ro, 0⟩,
   ⟨CWY_TIME_err_ps, .ro, 0⟩]
/-- R413, Table 12-15. -/
def CWY_COUNT : Nat := 0xc00030
def CWY_COUNT_coll_done : Fld := ⟨32, 32⟩
def CWY_COUNT_coll_failed : Fld := ⟨16, 16⟩
def CWY_COUNT_dropped : Fld := ⟨0, 16⟩
def CWY_COUNT_layout : List FieldDef :=
  [⟨CWY_COUNT_coll_done, .ro, 0⟩,
   ⟨CWY_COUNT_coll_failed, .ro, 0⟩,
   ⟨CWY_COUNT_dropped, .ro, 0⟩]
/-- R414, Table 11-18. -/
def CWY_CQ_BASE (i : Nat) : Nat := 0xc00100 + i * 0x10
/-- R414, Table 11-19. -/
def CWY_CQ_CTRL (i : Nat) : Nat := 0xc00108 + i * 0x10
def CWY_CQ_CTRL_error : Fld := ⟨16, 1⟩
def CWY_CQ_CTRL_size_log2 : Fld := ⟨8, 4⟩
def CWY_CQ_CTRL_enable : Fld := ⟨0, 1⟩
def CWY_CQ_CTRL_layout : List FieldDef :=
  [⟨CWY_CQ_CTRL_error, .w1c, 0⟩,
   ⟨CWY_CQ_CTRL_size_log2, .rw, 4⟩,
   ⟨CWY_CQ_CTRL_enable, .rw, 0⟩]
/-- R415, Table 12-16. -/
def CWY_PORT_CTRL (i : Nat) : Nat := 0xc10000 + i * 0x4000
def CWY_PORT_CTRL_retrain : Fld := ⟨8, 1⟩
def CWY_PORT_CTRL_enable : Fld := ⟨0, 1⟩
def CWY_PORT_CTRL_layout : List FieldDef :=
  [⟨CWY_PORT_CTRL_retrain, .wo, 0⟩,
   ⟨CWY_PORT_CTRL_enable, .rw, 1⟩]
/-- R415, Table 12-17. -/
def CWY_PORT_STATUS (i : Nat) : Nat := 0xc10008 + i * 0x4000
def CWY_PORT_STATUS_state : Fld := ⟨60, 4⟩
def CWY_PORT_STATUS_reason : Fld := ⟨56, 4⟩
def CWY_PORT_STATUS_failed_lane : Fld := ⟨49, 3⟩
def CWY_PORT_STATUS_spare_used : Fld := ⟨48, 1⟩
def CWY_PORT_STATUS_layout : List FieldDef :=
  [⟨CWY_PORT_STATUS_state, .ro, 0⟩,
   ⟨CWY_PORT_STATUS_reason, .ro, 0⟩,
   ⟨CWY_PORT_STATUS_failed_lane, .ro, 7⟩,
   ⟨CWY_PORT_STATUS_spare_used, .ro, 0⟩]
/-- R415, Table 12-18. -/
def CWY_PORT_PARTNER (i : Nat) : Nat := 0xc10010 + i * 0x4000
def CWY_PORT_PARTNER_valid : Fld := ⟨63, 1⟩
def CWY_PORT_PARTNER_port : Fld := ⟨24, 6⟩
def CWY_PORT_PARTNER_device_id : Fld := ⟨0, 18⟩
def CWY_PORT_PARTNER_layout : List FieldDef :=
  [⟨CWY_PORT_PARTNER_valid, .ro, 0⟩,
   ⟨CWY_PORT_PARTNER_port, .ro, 0⟩,
   ⟨CWY_PORT_PARTNER_device_id, .ro, 0⟩]
/-- R416, Table 12-19. -/
def CWY_PORT_ERR (i : Nat) : Nat := 0xc10018 + i * 0x4000
def CWY_PORT_ERR_last_code : Fld := ⟨56, 8⟩
def CWY_PORT_ERR_stage : Fld := ⟨0, 48⟩
def CWY_PORT_ERR_layout : List FieldDef :=
  [⟨CWY_PORT_ERR_last_code, .ro, 0⟩,
   ⟨CWY_PORT_ERR_stage, .ro, 0⟩]
/-- R416, Table 12-20. -/
def CWY_PORT_COUNT (i : Nat) : Nat := 0xc10020 + i * 0x4000
def CWY_PORT_COUNT_retrains : Fld := ⟨48, 16⟩
def CWY_PORT_COUNT_violations : Fld := ⟨32, 16⟩
def CWY_PORT_COUNT_replays : Fld := ⟨0, 32⟩
def CWY_PORT_COUNT_layout : List FieldDef :=
  [⟨CWY_PORT_COUNT_retrains, .ro, 0⟩,
   ⟨CWY_PORT_COUNT_violations, .ro, 0⟩,
   ⟨CWY_PORT_COUNT_replays, .ro, 0⟩]
/-- R416, Table 08-20. -/
def CWY_STALL (i : Nat) (j : Nat) : Nat := 0xc10100 + i * 0x4000 + j * 0x8
/-- R451, Table 13-15. -/
def HST_CTRL : Nat := 0x200000
def HST_CTRL_hold_s : Fld := ⟨48, 16⟩
def HST_CTRL_retrain_ms : Fld := ⟨32, 16⟩
def HST_CTRL_stat_clr : Fld := ⟨0, 1⟩
def HST_CTRL_layout : List FieldDef :=
  [⟨HST_CTRL_hold_s, .rw, 0x0258⟩,
   ⟨HST_CTRL_retrain_ms, .rw, 0x03E8⟩,
   ⟨HST_CTRL_stat_clr, .wo, 0⟩]
/-- R451, Table 13-16. -/
def HST_LINK : Nat := 0x200008
def HST_LINK_speed : Fld := ⟨60, 4⟩
def HST_LINK_width : Fld := ⟨55, 5⟩
def HST_LINK_flit : Fld := ⟨54, 1⟩
def HST_LINK_bme : Fld := ⟨53, 1⟩
def HST_LINK_resets : Fld := ⟨16, 16⟩
def HST_LINK_interruptions : Fld := ⟨0, 16⟩
def HST_LINK_layout : List FieldDef :=
  [⟨HST_LINK_speed, .ro, 0⟩,
   ⟨HST_LINK_width, .ro, 0⟩,
   ⟨HST_LINK_flit, .ro, 0⟩,
   ⟨HST_LINK_bme, .ro, 0⟩,
   ⟨HST_LINK_resets, .ro, 0⟩,
   ⟨HST_LINK_interruptions, .ro, 0⟩]
/-- R452, Table 13-17. -/
def HST_ERR : Nat := 0x200010
def HST_ERR_bad_access : Fld := ⟨48, 16⟩
def HST_ERR_bad_doorbell : Fld := ⟨32, 16⟩
def HST_ERR_bar2_unmapped : Fld := ⟨16, 16⟩
def HST_ERR_ur : Fld := ⟨0, 16⟩
def HST_ERR_layout : List FieldDef :=
  [⟨HST_ERR_bad_access, .ro, 0⟩,
   ⟨HST_ERR_bad_doorbell, .ro, 0⟩,
   ⟨HST_ERR_bar2_unmapped, .ro, 0⟩,
   ⟨HST_ERR_ur, .ro, 0⟩]
/-- R452, Table 13-18. -/
def HST_HOLD : Nat := 0x200018
def HST_HOLD_held_bytes : Fld := ⟨32, 25⟩
def HST_HOLD_discarded : Fld := ⟨0, 32⟩
def HST_HOLD_layout : List FieldDef :=
  [⟨HST_HOLD_held_bytes, .ro, 0⟩,
   ⟨HST_HOLD_discarded, .ro, 0⟩]
/-- R453, Table 13-19. -/
def HST_KEEP_CTRL : Nat := 0x200020
def HST_KEEP_CTRL_salt : Fld := ⟨32, 32⟩
def HST_KEEP_CTRL_release : Fld := ⟨2, 1⟩
def HST_KEEP_CTRL_enter : Fld := ⟨1, 1⟩
def HST_KEEP_CTRL_layout : List FieldDef :=
  [⟨HST_KEEP_CTRL_salt, .rw, 0⟩,
   ⟨HST_KEEP_CTRL_release, .wo, 0⟩,
   ⟨HST_KEEP_CTRL_enter, .wo, 0⟩]
/-- R453, Table 13-20. -/
def HST_KEEP_STATUS : Nat := 0x200028
def HST_KEEP_STATUS_state : Fld := ⟨60, 4⟩
def HST_KEEP_STATUS_cause : Fld := ⟨56, 4⟩
def HST_KEEP_STATUS_refused : Fld := ⟨32, 8⟩
def HST_KEEP_STATUS_entries : Fld := ⟨0, 32⟩
def HST_KEEP_STATUS_layout : List FieldDef :=
  [⟨HST_KEEP_STATUS_state, .ro, 0⟩,
   ⟨HST_KEEP_STATUS_cause, .ro, 0⟩,
   ⟨HST_KEEP_STATUS_refused, .ro, 0⟩,
   ⟨HST_KEEP_STATUS_entries, .ro, 0⟩]
/-- R453, Table 13-21. -/
def HST_KEEP_TOKEN : Nat := 0x200030
def HST_KEEP_TOKEN_token : Fld := ⟨0, 64⟩
def HST_KEEP_TOKEN_layout : List FieldDef :=
  [⟨HST_KEEP_TOKEN_token, .ro, 0⟩]
/-- R453, Table 13-22. -/
def HST_KEEP_RECLAIM : Nat := 0x200038
def HST_KEEP_RECLAIM_token : Fld := ⟨0, 64⟩
def HST_KEEP_RECLAIM_layout : List FieldDef :=
  [⟨HST_KEEP_RECLAIM_token, .wo, 0⟩]
/-- R482, Table 14-9. -/
def REP_CTRL : Nat := 0xa00000
def REP_CTRL_audit_retire : Fld := ⟨56, 8⟩
def REP_CTRL_stat_clr : Fld := ⟨0, 1⟩
def REP_CTRL_layout : List FieldDef :=
  [⟨REP_CTRL_audit_retire, .rw, 2⟩,
   ⟨REP_CTRL_stat_clr, .wo, 0⟩]
/-- R482, Table 14-10. -/
def REP_STATUS : Nat := 0xa00008
def REP_STATUS_retired_pcs : Fld := ⟨56, 8⟩
def REP_STATUS_degraded_pcs : Fld := ⟨48, 8⟩
def REP_STATUS_refused : Fld := ⟨40, 8⟩
def REP_STATUS_service_stack : Fld := ⟨0, 6⟩
def REP_STATUS_layout : List FieldDef :=
  [⟨REP_STATUS_retired_pcs, .ro, 0⟩,
   ⟨REP_STATUS_degraded_pcs, .ro, 0⟩,
   ⟨REP_STATUS_refused, .ro, 0⟩,
   ⟨REP_STATUS_service_stack, .ro, 0⟩]
/-- R482, Table 14-11. -/
def REP_RETIRE : Nat := 0xa00010
def REP_RETIRE_go : Fld := ⟨63, 1⟩
def REP_RETIRE_cluster : Fld := ⟨8, 8⟩
def REP_RETIRE_phys_core : Fld := ⟨0, 8⟩
def REP_RETIRE_layout : List FieldDef :=
  [⟨REP_RETIRE_go, .wo, 0⟩,
   ⟨REP_RETIRE_cluster, .wo, 0⟩,
   ⟨REP_RETIRE_phys_core, .wo, 0⟩]
/-- R483, Table 14-12. -/
def REP_SELFTEST : Nat := 0xa00018
def REP_SELFTEST_passes : Fld := ⟨48, 16⟩
def REP_SELFTEST_period_h : Fld := ⟨40, 8⟩
def REP_SELFTEST_failures : Fld := ⟨0, 16⟩
def REP_SELFTEST_layout : List FieldDef :=
  [⟨REP_SELFTEST_passes, .ro, 0⟩,
   ⟨REP_SELFTEST_period_h, .rw, 24⟩,
   ⟨REP_SELFTEST_failures, .ro, 0⟩]
/-- R483, Table 14-13. -/
def REP_AUDIT : Nat := 0xa00020
def REP_AUDIT_sectors : Fld := ⟨0, 8⟩
def REP_AUDIT_layout : List FieldDef :=
  [⟨REP_AUDIT_sectors, .rw, 8⟩]
/-- R484, Table 14-14. -/
def REP_COUNT_0 : Nat := 0xa00028
def REP_COUNT_0_wb_mismatch : Fld := ⟨48, 16⟩
def REP_COUNT_0_wb_reread : Fld := ⟨32, 16⟩
def REP_COUNT_0_repaired : Fld := ⟨16, 16⟩
def REP_COUNT_0_poisoned : Fld := ⟨0, 16⟩
def REP_COUNT_0_layout : List FieldDef :=
  [⟨REP_COUNT_0_wb_mismatch, .ro, 0⟩,
   ⟨REP_COUNT_0_wb_reread, .ro, 0⟩,
   ⟨REP_COUNT_0_repaired, .ro, 0⟩,
   ⟨REP_COUNT_0_poisoned, .ro, 0⟩]
/-- R484, Table 14-15. -/
def REP_COUNT_1 : Nat := 0xa00030
def REP_COUNT_1_stack_corrected : Fld := ⟨32, 32⟩
def REP_COUNT_1_verge_corrected : Fld := ⟨16, 16⟩
def REP_COUNT_1_uncorrectable : Fld := ⟨0, 16⟩
def REP_COUNT_1_layout : List FieldDef :=
  [⟨REP_COUNT_1_stack_corrected, .ro, 0⟩,
   ⟨REP_COUNT_1_verge_corrected, .ro, 0⟩,
   ⟨REP_COUNT_1_uncorrectable, .ro, 0⟩]
/-- R484, Table 14-16. -/
def REP_COUNT_2 : Nat := 0xa00038
def REP_COUNT_2_audited : Fld := ⟨32, 32⟩
def REP_COUNT_2_drift : Fld := ⟨16, 16⟩
def REP_COUNT_2_bit_flip : Fld := ⟨8, 8⟩
def REP_COUNT_2_replica_diff : Fld := ⟨0, 8⟩
def REP_COUNT_2_layout : List FieldDef :=
  [⟨REP_COUNT_2_audited, .ro, 0⟩,
   ⟨REP_COUNT_2_drift, .ro, 0⟩,
   ⟨REP_COUNT_2_bit_flip, .ro, 0⟩,
   ⟨REP_COUNT_2_replica_diff, .ro, 0⟩]
/-- R481, Table 06-14. -/
def REP_LOG_BASE : Nat := 0xa00040
/-- R481, Table 06-15. -/
def REP_LOG_CTRL : Nat := 0xa00048
/-- R481, Table 06-16. -/
def REP_LOG_HEAD : Nat := 0xa00050
/-- R481, Table 06-17. -/
def REP_LOG_TAIL : Nat := 0xa00058
/-- R481, Table 06-18. -/
def REP_LOG_STATUS : Nat := 0xa00060
/-- R485, Table 14-17. -/
def REP_STACK (i : Nat) : Nat := 0xa00100 + i * 0x8
def REP_STACK_migrating : Fld := ⟨63, 1⟩
def REP_STACK_retired : Fld := ⟨62, 1⟩
def REP_STACK_lost : Fld := ⟨61, 1⟩
def REP_STACK_retired_pc : Fld := ⟨56, 5⟩
def REP_STACK_pointer : Fld := ⟨32, 20⟩
def REP_STACK_degraded : Fld := ⟨0, 32⟩
def REP_STACK_layout : List FieldDef :=
  [⟨REP_STACK_migrating, .ro, 0⟩,
   ⟨REP_STACK_retired, .ro, 0⟩,
   ⟨REP_STACK_lost, .ro, 0⟩,
   ⟨REP_STACK_retired_pc, .ro, 0⟩,
   ⟨REP_STACK_pointer, .ro, 0⟩,
   ⟨REP_STACK_degraded, .ro, 0⟩]
/-- R31, Table 01-2. -/
def REP_CORE_MAP (i : Nat) (j : Nat) : Nat := 0xa10000 + i * 0x100 + j * 0x8
def REP_CORE_MAP_lcore_7 : Fld := ⟨56, 8⟩
def REP_CORE_MAP_lcore_6 : Fld := ⟨48, 8⟩
def REP_CORE_MAP_lcore_5 : Fld := ⟨40, 8⟩
def REP_CORE_MAP_lcore_4 : Fld := ⟨32, 8⟩
def REP_CORE_MAP_lcore_3 : Fld := ⟨24, 8⟩
def REP_CORE_MAP_lcore_2 : Fld := ⟨16, 8⟩
def REP_CORE_MAP_lcore_1 : Fld := ⟨8, 8⟩
def REP_CORE_MAP_lcore_0 : Fld := ⟨0, 8⟩
def REP_CORE_MAP_layout : List FieldDef :=
  [⟨REP_CORE_MAP_lcore_7, .ro, 0⟩,
   ⟨REP_CORE_MAP_lcore_6, .ro, 0⟩,
   ⟨REP_CORE_MAP_lcore_5, .ro, 0⟩,
   ⟨REP_CORE_MAP_lcore_4, .ro, 0⟩,
   ⟨REP_CORE_MAP_lcore_3, .ro, 0⟩,
   ⟨REP_CORE_MAP_lcore_2, .ro, 0⟩,
   ⟨REP_CORE_MAP_lcore_1, .ro, 0⟩,
   ⟨REP_CORE_MAP_lcore_0, .ro, 0⟩]
/-- R32, Table 01-3. -/
def REP_CLUSTER_STATUS (i : Nat) : Nat := 0xa10080 + i * 0x100
def REP_CLUSTER_STATUS_doubled_count : Fld := ⟨16, 8⟩
def REP_CLUSTER_STATUS_retired_count : Fld := ⟨8, 8⟩
def REP_CLUSTER_STATUS_spares_free : Fld := ⟨0, 4⟩
def REP_CLUSTER_STATUS_layout : List FieldDef :=
  [⟨REP_CLUSTER_STATUS_doubled_count, .ro, 0⟩,
   ⟨REP_CLUSTER_STATUS_retired_count, .ro, 0⟩,
   ⟨REP_CLUSTER_STATUS_spares_free, .ro, 8⟩]
/-- R508, Table 15-8. -/
def PWR_CTRL : Nat := 0x400000
def PWR_CTRL_remeasure_h : Fld := ⟨40, 8⟩
def PWR_CTRL_watchdog_ms : Fld := ⟨16, 16⟩
def PWR_CTRL_wd_kick : Fld := ⟨1, 1⟩
def PWR_CTRL_stat_clr : Fld := ⟨0, 1⟩
def PWR_CTRL_layout : List FieldDef :=
  [⟨PWR_CTRL_remeasure_h, .rw, 24⟩,
   ⟨PWR_CTRL_watchdog_ms, .rw, 0x03E8⟩,
   ⟨PWR_CTRL_wd_kick, .wo, 0⟩,
   ⟨PWR_CTRL_stat_clr, .wo, 0⟩]
/-- R508, Table 15-9. -/
def PWR_TOLL : Nat := 0x400008
def PWR_TOLL_active_w : Fld := ⟨32, 16⟩
def PWR_TOLL_request_w : Fld := ⟨0, 16⟩
def PWR_TOLL_layout : List FieldDef :=
  [⟨PWR_TOLL_active_w, .ro, 0x1964⟩,
   ⟨PWR_TOLL_request_w, .rw, 0x1964⟩]
/-- R509, Table 15-10. -/
def PWR_STATUS : Nat := 0x400010
def PWR_STATUS_vr_alert : Fld := ⟨63, 1⟩
def PWR_STATUS_lowest_state : Fld := ⟨62, 1⟩
def PWR_STATUS_fmax_lowered : Fld := ⟨33, 1⟩
def PWR_STATUS_toll_unmet : Fld := ⟨32, 1⟩
def PWR_STATUS_stage_power_w : Fld := ⟨0, 16⟩
def PWR_STATUS_layout : List FieldDef :=
  [⟨PWR_STATUS_vr_alert, .ro, 0⟩,
   ⟨PWR_STATUS_lowest_state, .ro, 0⟩,
   ⟨PWR_STATUS_fmax_lowered, .w1c, 0⟩,
   ⟨PWR_STATUS_toll_unmet, .w1c, 0⟩,
   ⟨PWR_STATUS_stage_power_w, .ro, 0⟩]
/-- R509, Table 15-11. -/
def PWR_ENERGY : Nat := 0x400018
def PWR_ENERGY_energy_mj : Fld := ⟨0, 64⟩
def PWR_ENERGY_layout : List FieldDef :=
  [⟨PWR_ENERGY_energy_mj, .ro, 0⟩]
/-- R509, Table 15-12. -/
def PWR_COUNT : Nat := 0x400020
def PWR_COUNT_vr_alerts : Fld := ⟨48, 16⟩
def PWR_COUNT_toll_unmet : Fld := ⟨32, 16⟩
def PWR_COUNT_fmax_lowered : Fld := ⟨16, 16⟩
def PWR_COUNT_pll_relock : Fld := ⟨0, 16⟩
def PWR_COUNT_layout : List FieldDef :=
  [⟨PWR_COUNT_vr_alerts, .ro, 0⟩,
   ⟨PWR_COUNT_toll_unmet, .ro, 0⟩,
   ⟨PWR_COUNT_fmax_lowered, .ro, 0⟩,
   ⟨PWR_COUNT_pll_relock, .ro, 0⟩]
/-- R510, Table 15-13. -/
def PWR_RESET : Nat := 0x400028
def PWR_RESET_key : Fld := ⟨8, 8⟩
def PWR_RESET_roadbed : Fld := ⟨1, 1⟩
def PWR_RESET_device : Fld := ⟨0, 1⟩
def PWR_RESET_layout : List FieldDef :=
  [⟨PWR_RESET_key, .wo, 0⟩,
   ⟨PWR_RESET_roadbed, .wo, 0⟩,
   ⟨PWR_RESET_device, .wo, 0⟩]
/-- R510, Table 15-14. -/
def PWR_RESET_STATUS : Nat := 0x400030
def PWR_RESET_STATUS_roadbed_resets : Fld := ⟨48, 16⟩
def PWR_RESET_STATUS_aborted : Fld := ⟨32, 16⟩
def PWR_RESET_STATUS_lost_peer : Fld := ⟨16, 16⟩
def PWR_RESET_STATUS_last_cause : Fld := ⟨0, 4⟩
def PWR_RESET_STATUS_layout : List FieldDef :=
  [⟨PWR_RESET_STATUS_roadbed_resets, .ro, 0⟩,
   ⟨PWR_RESET_STATUS_aborted, .ro, 0⟩,
   ⟨PWR_RESET_STATUS_lost_peer, .ro, 0⟩,
   ⟨PWR_RESET_STATUS_last_cause, .ro, 0⟩]
/-- R511, Table 15-15. -/
def PWR_BOOT : Nat := 0x400038
def PWR_BOOT_attempt : Fld := ⟨32, 32⟩
def PWR_BOOT_state : Fld := ⟨28, 4⟩
def PWR_BOOT_last_step : Fld := ⟨24, 4⟩
def PWR_BOOT_cause : Fld := ⟨20, 4⟩
def PWR_BOOT_wait_s : Fld := ⟨0, 16⟩
def PWR_BOOT_layout : List FieldDef :=
  [⟨PWR_BOOT_attempt, .ro, 0⟩,
   ⟨PWR_BOOT_state, .ro, 0⟩,
   ⟨PWR_BOOT_last_step, .ro, 0⟩,
   ⟨PWR_BOOT_cause, .ro, 0⟩,
   ⟨PWR_BOOT_wait_s, .ro, 0⟩]
/-- R564, Table 18-4. -/
def PWR_STRAP : Nat := 0x400040
def PWR_STRAP_pcie_sep : Fld := ⟨4, 1⟩
def PWR_STRAP_smb_addr : Fld := ⟨0, 3⟩
def PWR_STRAP_layout : List FieldDef :=
  [⟨PWR_STRAP_pcie_sep, .ro, 0⟩,
   ⟨PWR_STRAP_smb_addr, .ro, 0⟩]
/-- R512, Table 15-16. -/
def PWR_CL_TOLL (i : Nat) : Nat := 0x410000 + i * 0x100
def PWR_CL_TOLL_active_w : Fld := ⟨32, 8⟩
def PWR_CL_TOLL_request_w : Fld := ⟨0, 8⟩
def PWR_CL_TOLL_layout : List FieldDef :=
  [⟨PWR_CL_TOLL_active_w, .ro, 0⟩,
   ⟨PWR_CL_TOLL_request_w, .rw, 0⟩]
/-- R512, Table 15-17. -/
def PWR_CL_STATUS (i : Nat) : Nat := 0x410008 + i * 0x100
def PWR_CL_STATUS_power_dw : Fld := ⟨32, 16⟩
def PWR_CL_STATUS_rail_mv : Fld := ⟨8, 12⟩
def PWR_CL_STATUS_allowance : Fld := ⟨0, 4⟩
def PWR_CL_STATUS_layout : List FieldDef :=
  [⟨PWR_CL_STATUS_power_dw, .ro, 0⟩,
   ⟨PWR_CL_STATUS_rail_mv, .ro, 600⟩,
   ⟨PWR_CL_STATUS_allowance, .ro, 0⟩]
/-- R513, Table 15-18. -/
def PWR_FMAX (i : Nat) (j : Nat) : Nat := 0x410010 + i * 0x100 + j * 0x8
def PWR_FMAX_pcore_7 : Fld := ⟨56, 8⟩
def PWR_FMAX_pcore_6 : Fld := ⟨48, 8⟩
def PWR_FMAX_pcore_5 : Fld := ⟨40, 8⟩
def PWR_FMAX_pcore_4 : Fld := ⟨32, 8⟩
def PWR_FMAX_pcore_3 : Fld := ⟨24, 8⟩
def PWR_FMAX_pcore_2 : Fld := ⟨16, 8⟩
def PWR_FMAX_pcore_1 : Fld := ⟨8, 8⟩
def PWR_FMAX_pcore_0 : Fld := ⟨0, 8⟩
def PWR_FMAX_layout : List FieldDef :=
  [⟨PWR_FMAX_pcore_7, .ro, 0⟩,
   ⟨PWR_FMAX_pcore_6, .ro, 0⟩,
   ⟨PWR_FMAX_pcore_5, .ro, 0⟩,
   ⟨PWR_FMAX_pcore_4, .ro, 0⟩,
   ⟨PWR_FMAX_pcore_3, .ro, 0⟩,
   ⟨PWR_FMAX_pcore_2, .ro, 0⟩,
   ⟨PWR_FMAX_pcore_1, .ro, 0⟩,
   ⟨PWR_FMAX_pcore_0, .ro, 0⟩]
/-- R525, Table 16-7. -/
def THM_CTRL : Nat := 0x500000
def THM_CTRL_alw_start : Fld := ⟨8, 8⟩
def THM_CTRL_stat_clr : Fld := ⟨0, 1⟩
def THM_CTRL_layout : List FieldDef :=
  [⟨THM_CTRL_alw_start, .rw, 88⟩,
   ⟨THM_CTRL_stat_clr, .wo, 0⟩]
/-- R525, Table 16-8. -/
def THM_STATUS : Nat := 0x500008
def THM_STATUS_throttle : Fld := ⟨63, 1⟩
def THM_STATUS_throttle_cause : Fld := ⟨60, 3⟩
def THM_STATUS_sensor_failed : Fld := ⟨59, 1⟩
def THM_STATUS_throttled : Fld := ⟨58, 1⟩
def THM_STATUS_hottest_t : Fld := ⟨32, 16⟩
def THM_STATUS_hottest_sensor : Fld := ⟨16, 11⟩
def THM_STATUS_failed_count : Fld := ⟨0, 11⟩
def THM_STATUS_layout : List FieldDef :=
  [⟨THM_STATUS_throttle, .ro, 0⟩,
   ⟨THM_STATUS_throttle_cause, .ro, 0⟩,
   ⟨THM_STATUS_sensor_failed, .w1c, 0⟩,
   ⟨THM_STATUS_throttled, .w1c, 0⟩,
   ⟨THM_STATUS_hottest_t, .ro, 0⟩,
   ⟨THM_STATUS_hottest_sensor, .ro, 0⟩,
   ⟨THM_STATUS_failed_count, .ro, 0⟩]
/-- R525, Table 16-9. -/
def THM_COUNT : Nat := 0x500010
def THM_COUNT_throttles : Fld := ⟨48, 16⟩
def THM_COUNT_band_changes : Fld := ⟨32, 16⟩
def THM_COUNT_sensor_failures : Fld := ⟨16, 16⟩
def THM_COUNT_band_late : Fld := ⟨0, 16⟩
def THM_COUNT_layout : List FieldDef :=
  [⟨THM_COUNT_throttles, .ro, 0⟩,
   ⟨THM_COUNT_band_changes, .ro, 0⟩,
   ⟨THM_COUNT_sensor_failures, .ro, 0⟩,
   ⟨THM_COUNT_band_late, .ro, 0⟩]
/-- R526, Table 16-10. -/
def THM_LAST_TRIP : Nat := 0x500018
def THM_LAST_TRIP_shutdowns : Fld := ⟨48, 16⟩
def THM_LAST_TRIP_cause : Fld := ⟨46, 2⟩
def THM_LAST_TRIP_sensor : Fld := ⟨32, 11⟩
def THM_LAST_TRIP_temp : Fld := ⟨16, 16⟩
def THM_LAST_TRIP_rate : Fld := ⟨0, 16⟩
def THM_LAST_TRIP_layout : List FieldDef :=
  [⟨THM_LAST_TRIP_shutdowns, .ro, 0⟩,
   ⟨THM_LAST_TRIP_cause, .ro, 0⟩,
   ⟨THM_LAST_TRIP_sensor, .ro, 0⟩,
   ⟨THM_LAST_TRIP_temp, .ro, 0⟩,
   ⟨THM_LAST_TRIP_rate, .ro, 0⟩]
/-- R527, Table 16-11. -/
def THM_ALLOW (i : Nat) : Nat := 0x500100 + i * 0x8
def THM_ALLOW_cl_7 : Fld := ⟨56, 8⟩
def THM_ALLOW_cl_6 : Fld := ⟨48, 8⟩
def THM_ALLOW_cl_5 : Fld := ⟨40, 8⟩
def THM_ALLOW_cl_4 : Fld := ⟨32, 8⟩
def THM_ALLOW_cl_3 : Fld := ⟨24, 8⟩
def THM_ALLOW_cl_2 : Fld := ⟨16, 8⟩
def THM_ALLOW_cl_1 : Fld := ⟨8, 8⟩
def THM_ALLOW_cl_0 : Fld := ⟨0, 8⟩
def THM_ALLOW_layout : List FieldDef :=
  [⟨THM_ALLOW_cl_7, .ro, 12⟩,
   ⟨THM_ALLOW_cl_6, .ro, 12⟩,
   ⟨THM_ALLOW_cl_5, .ro, 12⟩,
   ⟨THM_ALLOW_cl_4, .ro, 12⟩,
   ⟨THM_ALLOW_cl_3, .ro, 12⟩,
   ⟨THM_ALLOW_cl_2, .ro, 12⟩,
   ⟨THM_ALLOW_cl_1, .ro, 12⟩,
   ⟨THM_ALLOW_cl_0, .ro, 12⟩]
/-- R527, Table 16-12. -/
def THM_STACK (i : Nat) : Nat := 0x500200 + i * 0x8
def THM_STACK_band : Fld := ⟨62, 2⟩
def THM_STACK_pending : Fld := ⟨60, 2⟩
def THM_STACK_hottest_die : Fld := ⟨0, 16⟩
def THM_STACK_layout : List FieldDef :=
  [⟨THM_STACK_band, .ro, 0⟩,
   ⟨THM_STACK_pending, .ro, 0⟩,
   ⟨THM_STACK_hottest_die, .ro, 0⟩]
/-- R527, Table 16-13. -/
def THM_SENSOR (i : Nat) : Nat := 0x510000 + i * 0x8
def THM_SENSOR_failed : Fld := ⟨63, 1⟩
def THM_SENSOR_class : Fld := ⟨56, 3⟩
def THM_SENSOR_rate : Fld := ⟨16, 16⟩
def THM_SENSOR_temp : Fld := ⟨0, 16⟩
def THM_SENSOR_layout : List FieldDef :=
  [⟨THM_SENSOR_failed, .ro, 0⟩,
   ⟨THM_SENSOR_class, .ro, 0⟩,
   ⟨THM_SENSOR_rate, .ro, 0⟩,
   ⟨THM_SENSOR_temp, .ro, 0⟩]
/-- R549, Table 17-13. -/
def SEC_IDENT : Nat := 0x600000
def SEC_IDENT_serial : Fld := ⟨0, 64⟩
def SEC_IDENT_layout : List FieldDef :=
  [⟨SEC_IDENT_serial, .ro, 0⟩]
/-- R549, Table 17-14. -/
def SEC_FUSE : Nat := 0x600008
def SEC_FUSE_locked : Fld := ⟨63, 1⟩
def SEC_FUSE_min_svn : Fld := ⟨32, 8⟩
def SEC_FUSE_key_revoked : Fld := ⟨0, 4⟩
def SEC_FUSE_layout : List FieldDef :=
  [⟨SEC_FUSE_locked, .ro, 0⟩,
   ⟨SEC_FUSE_min_svn, .ro, 0⟩,
   ⟨SEC_FUSE_key_revoked, .ro, 0⟩]
/-- R549, Table 17-15. -/
def SEC_FW_ADDR : Nat := 0x600010
def SEC_FW_ADDR_addr : Fld := ⟨12, 36⟩
def SEC_FW_ADDR_layout : List FieldDef :=
  [⟨SEC_FW_ADDR_addr, .rw, 0⟩]
/-- R549, Table 17-16. -/
def SEC_CTRL : Nat := 0x600018
def SEC_CTRL_debug_unlock : Fld := ⟨2, 1⟩
def SEC_CTRL_commit_svn : Fld := ⟨1, 1⟩
def SEC_CTRL_install : Fld := ⟨0, 1⟩
def SEC_CTRL_layout : List FieldDef :=
  [⟨SEC_CTRL_debug_unlock, .wo, 0⟩,
   ⟨SEC_CTRL_commit_svn, .wo, 0⟩,
   ⟨SEC_CTRL_install, .wo, 0⟩]
/-- R549, Table 17-17. -/
def SEC_STATUS : Nat := 0x600020
def SEC_STATUS_fw_state : Fld := ⟨60, 4⟩
def SEC_STATUS_reason : Fld := ⟨56, 4⟩
def SEC_STATUS_fallback : Fld := ⟨55, 1⟩
def SEC_STATUS_debug_open : Fld := ⟨54, 1⟩
def SEC_STATUS_booted_slot : Fld := ⟨49, 1⟩
def SEC_STATUS_next_valid : Fld := ⟨48, 1⟩
def SEC_STATUS_running_svn : Fld := ⟨0, 32⟩
def SEC_STATUS_layout : List FieldDef :=
  [⟨SEC_STATUS_fw_state, .ro, 0⟩,
   ⟨SEC_STATUS_reason, .ro, 0⟩,
   ⟨SEC_STATUS_fallback, .ro, 0⟩,
   ⟨SEC_STATUS_debug_open, .ro, 0⟩,
   ⟨SEC_STATUS_booted_slot, .ro, 0⟩,
   ⟨SEC_STATUS_next_valid, .ro, 0⟩,
   ⟨SEC_STATUS_running_svn, .ro, 0⟩]
/-- R550, Table 17-18. -/
def SEC_OWN (i : Nat) : Nat := 0x600040 + i * 0x8
def SEC_OWN_owner : Fld := ⟨56, 8⟩
def SEC_OWN_last_refused : Fld := ⟨48, 8⟩
def SEC_OWN_conflicts : Fld := ⟨40, 8⟩
def SEC_OWN_conflict : Fld := ⟨16, 1⟩
def SEC_OWN_release : Fld := ⟨8, 1⟩
def SEC_OWN_claim : Fld := ⟨0, 8⟩
def SEC_OWN_layout : List FieldDef :=
  [⟨SEC_OWN_owner, .ro, 0⟩,
   ⟨SEC_OWN_last_refused, .ro, 0⟩,
   ⟨SEC_OWN_conflicts, .ro, 0⟩,
   ⟨SEC_OWN_conflict, .ro, 0⟩,
   ⟨SEC_OWN_release, .wo, 0⟩,
   ⟨SEC_OWN_claim, .wo, 0⟩]
/-- R551, Table 17-20. -/
def ICU_CLAIM (i : Nat) : Nat := 0x700000 + i * 0x20
def ICU_CLAIM_valid : Fld := ⟨63, 1⟩
def ICU_CLAIM_priority : Fld := ⟨16, 4⟩
def ICU_CLAIM_source : Fld := ⟨0, 10⟩
def ICU_CLAIM_layout : List FieldDef :=
  [⟨ICU_CLAIM_valid, .ro, 0⟩,
   ⟨ICU_CLAIM_priority, .ro, 0⟩,
   ⟨ICU_CLAIM_source, .ro, 0⟩]
/-- R551, Table 17-21. -/
def ICU_EOI (i : Nat) : Nat := 0x700008 + i * 0x20
def ICU_EOI_source : Fld := ⟨0, 10⟩
def ICU_EOI_layout : List FieldDef :=
  [⟨ICU_EOI_source, .wo, 0⟩]
/-- R551, Table 17-22. -/
def ICU_PRIO (i : Nat) : Nat := 0x700010 + i * 0x20
def ICU_PRIO_eoi_mismatch : Fld := ⟨48, 16⟩
def ICU_PRIO_depth : Fld := ⟨16, 5⟩
def ICU_PRIO_idle : Fld := ⟨4, 1⟩
def ICU_PRIO_running : Fld := ⟨0, 4⟩
def ICU_PRIO_layout : List FieldDef :=
  [⟨ICU_PRIO_eoi_mismatch, .ro, 0⟩,
   ⟨ICU_PRIO_depth, .ro, 0⟩,
   ⟨ICU_PRIO_idle, .ro, 1⟩,
   ⟨ICU_PRIO_running, .ro, 0⟩]
/-- R551, Table 17-23. -/
def ICU_SWI : Nat := 0x700080
def ICU_SWI_source : Fld := ⟨0, 10⟩
def ICU_SWI_layout : List FieldDef :=
  [⟨ICU_SWI_source, .wo, 0⟩]
/-- R551, Table 17-19. -/
def ICU_SRC (i : Nat) : Nat := 0x710000 + i * 0x8
def ICU_SRC_pending : Fld := ⟨63, 1⟩
def ICU_SRC_enable : Fld := ⟨61, 1⟩
def ICU_SRC_count : Fld := ⟨48, 8⟩
def ICU_SRC_count_clr : Fld := ⟨47, 1⟩
def ICU_SRC_to_vector : Fld := ⟨31, 1⟩
def ICU_SRC_priority : Fld := ⟨16, 4⟩
def ICU_SRC_target : Fld := ⟨0, 11⟩
def ICU_SRC_layout : List FieldDef :=
  [⟨ICU_SRC_pending, .w1c, 0⟩,
   ⟨ICU_SRC_enable, .rw, 0⟩,
   ⟨ICU_SRC_count, .ro, 0⟩,
   ⟨ICU_SRC_count_clr, .wo, 0⟩,
   ⟨ICU_SRC_to_vector, .rw, 0⟩,
   ⟨ICU_SRC_priority, .rw, 0⟩,
   ⟨ICU_SRC_target, .rw, 0⟩]
/-- R552, Table 17-24. -/
def MON_CTRL : Nat := 0x800000
def MON_CTRL_stat_clr : Fld := ⟨1, 1⟩
def MON_CTRL_enable : Fld := ⟨0, 1⟩
def MON_CTRL_layout : List FieldDef :=
  [⟨MON_CTRL_stat_clr, .wo, 0⟩,
   ⟨MON_CTRL_enable, .rw, 1⟩]
/-- R552, Table 17-25. -/
def MON_STATUS : Nat := 0x800008
def MON_STATUS_commands : Fld := ⟨48, 16⟩
def MON_STATUS_errors : Fld := ⟨32, 16⟩
def MON_STATUS_baud : Fld := ⟨0, 23⟩
def MON_STATUS_layout : List FieldDef :=
  [⟨MON_STATUS_commands, .ro, 0⟩,
   ⟨MON_STATUS_errors, .ro, 0⟩,
   ⟨MON_STATUS_baud, .ro, 0x1C200⟩]

/-- The registers of the MST block. -/
def MST_regs : List RegDef :=
  [⟨0x0, [], MST_CTRL_layout⟩,
   ⟨0x8, [], MST_PERIOD_layout⟩,
   ⟨0x10, [], MST_SLOT_layout⟩,
   ⟨0x18, [], MST_LEAD_layout⟩,
   ⟨0x20, [], MST_STRETCH_LIMIT_layout⟩,
   ⟨0x28, [], MST_STAGE_layout⟩,
   ⟨0x30, [], MST_TIME_layout⟩,
   ⟨0x38, [], MST_STATUS_layout⟩,
   ⟨0x40, [], MST_LAST_STRETCH_layout⟩,
   ⟨0x48, [], MST_LAST_LATE_layout⟩,
   ⟨0x50, [], MST_STRETCH_COUNT_layout⟩,
   ⟨0x58, [], MST_SERVICE_layout⟩,
   ⟨0x60, [], MST_TICK_PIN_layout⟩]

/-- The registers of the CORE block. -/
def CORE_regs : List RegDef :=
  [⟨0x1000000, [(18432, 0x400)], CORE_IDENT_layout⟩,
   ⟨0x1000008, [(18432, 0x400)], CORE_CTRL_layout⟩,
   ⟨0x1000010, [(18432, 0x400)], CORE_ISSUE_layout⟩,
   ⟨0x1000018, [(18432, 0x400)], CORE_STREAM_F_layout⟩,
   ⟨0x1000020, [(18432, 0x400)], CORE_STREAM_F_layout⟩,
   ⟨0x1000028, [(18432, 0x400)], CORE_STREAM_F_layout⟩,
   ⟨0x1000030, [(18432, 0x400)], CORE_RNG_SEED_layout⟩,
   ⟨0x1000038, [(18432, 0x400)], CORE_DRAW_F_layout⟩,
   ⟨0x1000040, [(18432, 0x400)], CORE_DRAW_F_layout⟩,
   ⟨0x1000048, [(18432, 0x400)], CORE_DRAW_F_layout⟩,
   ⟨0x1000050, [(18432, 0x400)], CORE_SCTR_LO_layout⟩,
   ⟨0x1000058, [(18432, 0x400)], CORE_SCTR_HI_layout⟩,
   ⟨0x1000060, [(18432, 0x400)], CORE_STATUS_layout⟩,
   ⟨0x1000068, [(18432, 0x400)], CORE_FAULT_ADDR_layout⟩,
   ⟨0x1000070, [(18432, 0x400)], CORE_ECC_layout⟩,
   ⟨0x1000078, [(18432, 0x400)], CORE_DBG_SEL_layout⟩,
   ⟨0x1000080, [(18432, 0x400)], CORE_DBG_DATA_layout⟩,
   ⟨0x1000200, [(18432, 0x400), (4, 0x8)], CORE_MXU_TILE_layout⟩,
   ⟨0x1000220, [(18432, 0x400)], CORE_MXU_STAT_layout⟩,
   ⟨0x1000228, [(18432, 0x400)], CORE_MXU_CFG_layout⟩,
   ⟨0x1000300, [(18432, 0x400), (3, 0x8)], CORE_VEC_FLAGS_layout⟩,
   ⟨0x1000318, [(18432, 0x400)], CORE_VEC_STAT_layout⟩,
   ⟨0x1000320, [(18432, 0x400)], CORE_VEC_CFG_layout⟩,
   ⟨0x1000100, [(18432, 0x400), (18, 0x8)], CORE_STALL_layout⟩,
   ⟨0x1000190, [(18432, 0x400)], CORE_BANKC_0_layout⟩,
   ⟨0x1000198, [(18432, 0x400)], CORE_BANKC_1_layout⟩,
   ⟨0x10001a0, [(18432, 0x400)], CORE_STALL_CTRL_layout⟩]

/-- The registers of the TEL block. -/
def TEL_regs : List RegDef :=
  [⟨0x900000, [], TEL_EXP_layout⟩,
   ⟨0x900008, [], TEL_EXP_HEAD_layout⟩,
   ⟨0x908000, [], TEL_LOG_BASE_layout⟩,
   ⟨0x908008, [], TEL_LOG_CTRL_layout⟩,
   ⟨0x908010, [], TEL_LOG_HEAD_layout⟩,
   ⟨0x908018, [], TEL_LOG_TAIL_layout⟩,
   ⟨0x908020, [], TEL_LOG_STATUS_layout⟩,
   ⟨0x908028, [], TEL_LADDER_COUNT_layout⟩,
   ⟨0x908030, [], TEL_AUDIT_CTRL_layout⟩,
   ⟨0x908038, [], TEL_AUDIT_COUNT_layout⟩,
   ⟨0x908800, [(384, 0x8)], TEL_AUDIT_HIST_layout⟩]

/-- The registers of the CCH block. -/
def CCH_regs : List RegDef :=
  [⟨0xd00000, [], CCH_CTRL_layout⟩,
   ⟨0xd00040, [(8, 0x8)], CCH_NOPF_layout⟩,
   ⟨0xd10000, [(144, 0x1000)], CCH_HIT_layout⟩,
   ⟨0xd10008, [(144, 0x1000)], CCH_MISS_layout⟩,
   ⟨0xd10010, [(144, 0x1000)], CCH_PF_layout⟩]

/-- The registers of the VRG block. -/
def VRG_regs : List RegDef :=
  [⟨0xe00000, [], VRG_CTRL_layout⟩,
   ⟨0xe10000, [(144, 0x1000)], VRG_SLICE_CFG_layout⟩,
   ⟨0xe10008, [(144, 0x1000)], VRG_OCCUPANCY_layout⟩,
   ⟨0xe10010, [(144, 0x1000)], VRG_EVENTS_0_layout⟩,
   ⟨0xe10018, [(144, 0x1000)], VRG_EVENTS_1_layout⟩,
   ⟨0xe10020, [(144, 0x1000)], VRG_HOTSPOT_layout⟩,
   ⟨0xe10028, [(144, 0x1000)], VRG_STALL_0_layout⟩,
   ⟨0xe10030, [(144, 0x1000)], VRG_STALL_1_layout⟩]

/-- The registers of the KRB block. -/
def KRB_regs : List RegDef :=
  [⟨0xf00000, [], KRB_CTRL_layout⟩,
   ⟨0xf00008, [], KRB_SEED_layout⟩,
   ⟨0xf10000, [(36, 0x4000)], KRB_STATUS_layout⟩,
   ⟨0xf10008, [(36, 0x4000)], KRB_COUNT_0_layout⟩,
   ⟨0xf10010, [(36, 0x4000)], KRB_COUNT_1_layout⟩,
   ⟨0xf10018, [(36, 0x4000)], KRB_COUNT_2_layout⟩,
   ⟨0xf10020, [(36, 0x4000)], KRB_SCRUB_layout⟩,
   ⟨0xf10100, [(36, 0x4000), (6, 0x8)], CORE_STALL_layout⟩]

/-- The registers of the CMD block. -/
def CMD_regs : List RegDef :=
  [⟨0x104000, [], CMD_STEP_PLAN_layout⟩,
   ⟨0x104008, [], CMD_STEP_CTRL_layout⟩,
   ⟨0x104010, [], CMD_STEP_STATUS_layout⟩,
   ⟨0x104018, [], CMD_STEP_STOP_layout⟩,
   ⟨0x104020, [], CMD_STEP_COUNT_layout⟩,
   ⟨0x104028, [], CMD_SURVEY_EST_layout⟩,
   ⟨0x104030, [], CMD_SURVEY_STAT_layout⟩,
   ⟨0x104038, [], CMD_PHASE_layout⟩,
   ⟨0x104040, [], CMD_PHASE_HEAD_layout⟩,
   ⟨0x104048, [], CMD_EPOCH_REQ_layout⟩,
   ⟨0x104050, [], CMD_EPOCH_COMMIT_layout⟩,
   ⟨0x104058, [], CMD_EPOCH_STATUS_layout⟩,
   ⟨0x104060, [], CMD_REMAP_layout⟩,
   ⟨0x104068, [], CMD_REMAP_COUNT_layout⟩,
   ⟨0x100000, [(4, 0x8)], CMD_MBOX_ARG_layout⟩,
   ⟨0x100020, [], CMD_MBOX_OP_layout⟩,
   ⟨0x100028, [], CMD_MBOX_RESULT_layout⟩,
   ⟨0x110000, [(4096, 0x8)], CMD_CHAN_layout⟩]

/-- The registers of the ATN block. -/
def ATN_regs : List RegDef :=
  [⟨0x300000, [], ATN_CTRL_layout⟩,
   ⟨0x300008, [], ATN_STATUS_layout⟩,
   ⟨0x300010, [], ATN_COUNT_0_layout⟩,
   ⟨0x300018, [], ATN_COUNT_1_layout⟩,
   ⟨0x300020, [], ATN_COUNT_2_layout⟩,
   ⟨0x300100, [(64, 0x10)], ATN_RING_BASE_layout⟩,
   ⟨0x300108, [(64, 0x10)], ATN_RING_CTRL_layout⟩]

/-- The registers of the CWY block. -/
def CWY_regs : List RegDef :=
  [⟨0xc00000, [], CWY_SELF_ID_layout⟩,
   ⟨0xc00008, [], CWY_CTRL_layout⟩,
   ⟨0xc00010, [], CWY_FABRIC_CFG_layout⟩,
   ⟨0xc00018, [], CWY_FABRIC_STATUS_layout⟩,
   ⟨0xc00020, [], CWY_UID_layout⟩,
   ⟨0xc00028, [], CWY_TIME_layout⟩,
   ⟨0xc00030, [], CWY_COUNT_layout⟩,
   ⟨0xc00100, [(16, 0x10)], ATN_RING_BASE_layout⟩,
   ⟨0xc00108, [(16, 0x10)], CWY_CQ_CTRL_layout⟩,
   ⟨0xc10000, [(36, 0x4000)], CWY_PORT_CTRL_layout⟩,
   ⟨0xc10008, [(36, 0x4000)], CWY_PORT_STATUS_layout⟩,
   ⟨0xc10010, [(36, 0x4000)], CWY_PORT_PARTNER_layout⟩,
   ⟨0xc10018, [(36, 0x4000)], CWY_PORT_ERR_layout⟩,
   ⟨0xc10020, [(36, 0x4000)], CWY_PORT_COUNT_layout⟩,
   ⟨0xc10100, [(36, 0x4000), (6, 0x8)], CORE_STALL_layout⟩]

/-- The registers of the HST block. -/
def HST_regs : List RegDef :=
  [⟨0x200000, [], HST_CTRL_layout⟩,
   ⟨0x200008, [], HST_LINK_layout⟩,
   ⟨0x200010, [], HST_ERR_layout⟩,
   ⟨0x200018, [], HST_HOLD_layout⟩,
   ⟨0x200020, [], HST_KEEP_CTRL_layout⟩,
   ⟨0x200028, [], HST_KEEP_STATUS_layout⟩,
   ⟨0x200030, [], HST_KEEP_TOKEN_layout⟩,
   ⟨0x200038, [], HST_KEEP_RECLAIM_layout⟩]

/-- The registers of the REP block. -/
def REP_regs : List RegDef :=
  [⟨0xa00000, [], REP_CTRL_layout⟩,
   ⟨0xa00008, [], REP_STATUS_layout⟩,
   ⟨0xa00010, [], REP_RETIRE_layout⟩,
   ⟨0xa00018, [], REP_SELFTEST_layout⟩,
   ⟨0xa00020, [], REP_AUDIT_layout⟩,
   ⟨0xa00028, [], REP_COUNT_0_layout⟩,
   ⟨0xa00030, [], REP_COUNT_1_layout⟩,
   ⟨0xa00038, [], REP_COUNT_2_layout⟩,
   ⟨0xa00040, [], TEL_LOG_BASE_layout⟩,
   ⟨0xa00048, [], TEL_LOG_CTRL_layout⟩,
   ⟨0xa00050, [], TEL_LOG_HEAD_layout⟩,
   ⟨0xa00058, [], TEL_LOG_TAIL_layout⟩,
   ⟨0xa00060, [], TEL_LOG_STATUS_layout⟩,
   ⟨0xa00100, [(36, 0x8)], REP_STACK_layout⟩,
   ⟨0xa10000, [(144, 0x100), (16, 0x8)], REP_CORE_MAP_layout⟩,
   ⟨0xa10080, [(144, 0x100)], REP_CLUSTER_STATUS_layout⟩]

/-- The registers of the PWR block. -/
def PWR_regs : List RegDef :=
  [⟨0x400000, [], PWR_CTRL_layout⟩,
   ⟨0x400008, [], PWR_TOLL_layout⟩,
   ⟨0x400010, [], PWR_STATUS_layout⟩,
   ⟨0x400018, [], PWR_ENERGY_layout⟩,
   ⟨0x400020, [], PWR_COUNT_layout⟩,
   ⟨0x400028, [], PWR_RESET_layout⟩,
   ⟨0x400030, [], PWR_RESET_STATUS_layout⟩,
   ⟨0x400038, [], PWR_BOOT_layout⟩,
   ⟨0x400040, [], PWR_STRAP_layout⟩,
   ⟨0x410000, [(144, 0x100)], PWR_CL_TOLL_layout⟩,
   ⟨0x410008, [(144, 0x100)], PWR_CL_STATUS_layout⟩,
   ⟨0x410010, [(144, 0x100), (17, 0x8)], PWR_FMAX_layout⟩]

/-- The registers of the THM block. -/
def THM_regs : List RegDef :=
  [⟨0x500000, [], THM_CTRL_layout⟩,
   ⟨0x500008, [], THM_STATUS_layout⟩,
   ⟨0x500010, [], THM_COUNT_layout⟩,
   ⟨0x500018, [], THM_LAST_TRIP_layout⟩,
   ⟨0x500100, [(18, 0x8)], THM_ALLOW_layout⟩,
   ⟨0x500200, [(36, 0x8)], THM_STACK_layout⟩,
   ⟨0x510000, [(1076, 0x8)], THM_SENSOR_layout⟩]

/-- The registers of the SEC block. -/
def SEC_regs : List RegDef :=
  [⟨0x600000, [], SEC_IDENT_layout⟩,
   ⟨0x600008, [], SEC_FUSE_layout⟩,
   ⟨0x600010, [], SEC_FW_ADDR_layout⟩,
   ⟨0x600018, [], SEC_CTRL_layout⟩,
   ⟨0x600020, [], SEC_STATUS_layout⟩,
   ⟨0x600040, [(3, 0x8)], SEC_OWN_layout⟩]

/-- The registers of the ICU block. -/
def ICU_regs : List RegDef :=
  [⟨0x700000, [(4, 0x20)], ICU_CLAIM_layout⟩,
   ⟨0x700008, [(4, 0x20)], ICU_EOI_layout⟩,
   ⟨0x700010, [(4, 0x20)], ICU_PRIO_layout⟩,
   ⟨0x700080, [], ICU_SWI_layout⟩,
   ⟨0x710000, [(1024, 0x8)], ICU_SRC_layout⟩]

/-- The registers of the MON block. -/
def MON_regs : List RegDef :=
  [⟨0x800000, [], MON_CTRL_layout⟩,
   ⟨0x800008, [], MON_STATUS_layout⟩]

/-- The register list of the block that holds a configuration-space offset (Table 01-7). -/
def blockRegs (off : Nat) : List RegDef :=
  match off / 0x100000 with
  | 0 => MST_regs
  | 9 => TEL_regs
  | 13 => CCH_regs
  | 14 => VRG_regs
  | 15 => KRB_regs
  | 1 => CMD_regs
  | 3 => ATN_regs
  | 12 => CWY_regs
  | 2 => HST_regs
  | 10 => REP_regs
  | 4 => PWR_regs
  | 5 => THM_regs
  | 6 => SEC_regs
  | 7 => ICU_regs
  | 8 => MON_regs
  | n => if n < 0x22 ∧ 0x10 ≤ n then CORE_regs else []

end Sys2Proof.Machine
end

