-- ==== Sys2Proof/Machine/Maps.lean ====
section
/-! DEFINITION. The operations on sparse tables (`SMap`): read with a default, write in canonical form, keys rising. -/

namespace Sys2Proof.Machine

variable {α : Type}

/-- The value at key `k`, `d` where `k` is not listed. -/
def smGet (d : α) : SMap α → Nat → α
  | [], _ => d
  | (k', v) :: r, k => if k' = k then v else smGet d r k

/-- The table without key `k`. -/
def smErase : SMap α → Nat → SMap α
  | [], _ => []
  | (k', v) :: r, k => if k' = k then smErase r k else (k', v) :: smErase r k

/-- The table with the pair (k, v) put before the first key above `k`. -/
def smInsert : SMap α → Nat → α → SMap α
  | [], k, v => [(k, v)]
  | (k', w) :: r, k, v => if k < k' then (k, v) :: (k', w) :: r else (k', w) :: smInsert r k v

/-- Write `v` at key `k` in canonical form: a value equal to the default `d` is not listed. -/
def smPut [DecidableEq α] (d : α) (m : SMap α) (k : Nat) (v : α) : SMap α :=
  if v = d then smErase m k else smInsert (smErase m k) k v

/-- Whether key `k` is listed. -/
def smHas (m : SMap α) (k : Nat) : Bool := m.any (fun p => p.1 == k)

/-- The value at key `k`, if it is listed. -/
def smFind? : SMap α → Nat → Option α
  | [], _ => none
  | (k', v) :: r, k => if k' = k then some v else smFind? r k

/-- Insert or replace the entry of key `k`, whatever the value. -/
def smSet (m : SMap α) (k : Nat) (v : α) : SMap α := smInsert (smErase m k) k v

/-- The keys listed. -/
def smKeys (m : SMap α) : List Nat := m.map (·.1)

/-- The values listed. -/
def smVals (m : SMap α) : List α := m.map (·.2)

/-- All keys of the table are above `lo` and strictly rising. -/
def smSorted : Option Nat → SMap α → Bool
  | _, [] => true
  | none, (k, _) :: r => smSorted (some k) r
  | some b, (k, _) :: r => decide (b < k) && smSorted (some k) r

/-- The canonical form: keys strictly rising, no value equal to what an unlisted key reads as. -/
def smWf [DecidableEq α] (d : α) (m : SMap α) : Bool :=
  smSorted none m && m.all (fun p => decide (p.2 ≠ d))

end Sys2Proof.Machine
end

