-- ==== Sys2Proof/Machine/State.lean ====
section
/-! DEFINITION. The state of the device: every register, memory, cache, buffer, queue, mode and pin the spec names, as plain
data. Configuration registers (R42) stand in one sparse table keyed by their offset; an unlisted offset reads as the
register's reset value (Machine/Layout.lean). Everything the spec gives the part beside its registers has a field of its
own below. Every default value is the value at power-up, before the rails are up; where the spec states none the
assumption log names it. -/

namespace Sys2Proof.Machine

/-- Why the model stops. -/
inductive Fault where
  /-- Raised by every command that names an instance the part does not have: a core of 18,432 or more, a channel of 4,096 or
  more, a port of 36 or more, an engine above 36, a slice or a cluster of 144 or more, a management core of 4 or more, an
  interrupt source of 1,024 or more. No such command exists. Safe. -/
  | noSuchInstance
deriving DecidableEq, Repr

/-- Why the model gives a command no meaning. -/
inductive Refusal where
  /-- Raised by the dispatch alone, for a command whose meaning is not written yet. Safe. -/
  | notModelled (mnemonic : String)
deriving DecidableEq, Repr

/-! ### The core (chapters 03 to 07) -/

/-- Stream states (Table 03-6). -/
inductive StrState where
  | idle | running | waiting | halting | halted | kept
deriving DecidableEq, Repr

/-- Halt causes (Table 03-10). -/
inductive HaltCause where
  | none | haltInsn | fault | sibling | external | overrun | deadlock
deriving DecidableEq, Repr

/-- The section record of a stream (R154): present while a section is open. `cause` and `pos` are the first overflow cause
(Table 06-9) and its tile, row and column (Table 06-11); `inits` the tiles initialised in the current pass (R189). -/
structure Section where
  sid     : Nat
  rung    : Nat
  retries : Nat := 0
  cause   : Nat := 0
  pos     : Nat := 0
  beginPc : Nat
  since   : Nat := 0
  cpRegs  : SMap Word
  cpPreds : BitVec 8
  cpDraw  : Word
  inits   : List Nat := []
deriving DecidableEq, Repr

/-- What started a stream last (R425): nothing, the START entry of a channel (its entry number), an item of the step plan (the number
of the STEP.LOAD entry that loaded the plan, if one did, and the item's kind), or a filler unit. -/
inductive Work where
  | none
  | start (entry : Nat)
  | item (entry i : Nat)
  | filler (unit : Nat)
deriving DecidableEq, Repr

/-- The state of one stream (Table 03-2, Table 03-10, R154). `regs` holds s0 to s31 at keys 0 to 31 and a0 to a15 at keys
32 to 47. `wait` is the counter and the value that a counter wait awaits; none while waiting at WAIT.MS. `owner` is the
index of the channel that owns the stream's program (R425). DESIGN CHOICE: notes/assumptions/2. -/
structure Stream where
  pc       : Nat := 0
  regs     : SMap Word := []
  preds    : BitVec 8 := 1
  draw     : Word := 0
  st       : StrState := .idle
  cause    : HaltCause := .none
  code     : Nat := 0
  wait     : Option (Nat × Nat) := none
  start    : Bool := false
  sect     : Option Section := none
  owner    : Option Nat := none
  work     : Work := .none
deriving DecidableEq, Repr

/-- The kinds of operation that a shared unit accepts and completes later. -/
inductive OpKind where
  | mma | drain | vector
deriving DecidableEq, Repr

/-- An operation that the matrix unit or the vector engine has accepted and not completed, with what its completion does.
Matrix: the tile's flag word after it (R187), whether the tile is non-finite and newly so (R188), shoulder adds clamped (R183).
Both: the section overflow cause it raises and its position (Table 06-9, Table 06-11). Vector: the fault it raises outside a
section, the first produced non-finite with its nan and inf bits (R249), the first empty row and their number (R243). The streams
whose ACC.ZERO or MMA of no products on the tile ends with it (R169, R193).
DEDUCED: notes/assumptions/32. -/
structure CoreOp where
  id     : Nat
  stream : StreamId
  kind   : OpKind
  addr   : Nat
  tile   : Option Nat := none
  flags  : Word := 0
  nf     : Bool := false
  newly  : Bool := false
  sat    : Nat := 0
  cause  : Nat := 0
  pos    : Nat := 0
  fault  : Bool := false
  vnf    : Option (Nat × Bool × Bool) := none
  vempty : Option (Nat × Nat) := none
  also   : List StreamId := []
deriving DecidableEq, Repr

/-- A movement descriptor in progress (Table 04-7, R101, R102): the row and the offset of the next request, whether it was
issued inside a section (and in which pass), whether it has been abandoned by a fault or a halt. -/
structure Desc where
  id       : Nat
  stream   : StreamId
  src      : Nat
  dst      : Nat
  rows     : Nat
  rowBytes : Nat
  srcPitch : Int
  dstPitch : Int
  op       : Nat
  epoch    : Nat
  noAlloc  : Bool
  deadSrc  : Bool
  ctr      : Option Nat
  row      : Nat := 0
  off      : Nat := 0
  prov     : Option Nat := none
  dead     : Bool := false
deriving DecidableEq, Repr

/-- A cache maintenance operation accepted and not complete (R159). DEDUCED: notes/assumptions/24. -/
structure Maint where
  id     : Nat
  stream : StreamId
  fn     : Nat
  ctr    : Option Nat
  done   : Bool := true
deriving DecidableEq, Repr

/-- A line of a read-only cache (Table 03-5): the sector it was filled from and the data at the fill. Lists of lines are
kept with the most recently used first. -/
structure RoLine where
  kind : RoKind
  line : Nat
  data : List Byte
deriving DecidableEq, Repr

/-- The state of a logical core (Table 03-3) beside its registers. `orders` are the per-unit issue orders of mode 2 (R89),
`seed` the seed in force (R120), `bad` the scratchpad words marked uncorrectable and `soft` those with one bit in error (R97), `incs` counter increments that wait for
scratchpad writes of accepted operations (R92: counter, amount, operations), `mmaPos` the MMAs accepted in the stage (R217),
`fills` the read-only-cache fills
requested, `roFailed` the lines whose last fill brought no data (R99, R277), `faultBy` the stream whose fault set CORE_FAULT_ADDR
and `faultAt` the time of that (R163), `held` whether the core's clocks are
gated in keep state (R114). DESIGN CHOICE: notes/assumptions/2. -/
structure CoreSt where
  f      : Stream := {}
  b      : Stream := {}
  u      : Stream := {}
  ctrs   : SMap Nat := []
  tiles  : SMap (BitVec 32 × BitVec 16) := []
  tflags : SMap Word := []
  seed   : Word := 0
  orders : SMap Nat := []
  ro     : List RoLine := []
  fills  : List (RoKind × Nat) := []
  roFailed : List (RoKind × Nat) := []
  faultBy : Option StreamId := none
  faultAt : Nat := 0
  ops    : List CoreOp := []
  descs  : List Desc := []
  maints : List Maint := []
  kcmds  : List (Nat × StreamId × Option Nat) := []
  incs   : List (Nat × Nat × List Nat) := []
  mmaPos : Nat := 0
  bad    : List Nat := []
  soft   : List Nat := []
  held   : Bool := false
deriving DecidableEq, Repr

/-! ### Requests and the memory hierarchy (chapters 08 and 14) -/

/-- What a sector request is for: a descriptor's copy or reduction, a run-ahead prefetch (R278), a fill of a read-only cache
(R98). -/
inductive ReqKind where
  | move | prefetch
  | fill (k : RoKind)
deriving DecidableEq, Repr

/-- Where a sector request stands. `rdV`/`wrV`: waiting for a slice to accept its read or write (R267); `rdD`/`wrD`: waiting
for the sector from DRAM (R266); `back`: read data on its way through the cluster cache (R259); `reread`: waiting for the second
read after a waybill mismatch (R458); `ext`: outside this part
of the device (a peer, the host); `ans`: answered by a peer (R398); `repair`: held by the repair path (R464); `fin`: ended. -/
inductive ReqPhase where
  | rdV | rdD | back | wrV | wrD | ext | ans | reread | repair | fin
deriving DecidableEq, Repr

/-- A sector request of a movement engine or of a cluster-cache half (R101, R278). `sent` is its place in the order in which the
packets of its cluster enter the mesh (R262) and, from the slice on, in the order in which its slice accepts requests (R267);
`here` tells whether it has reached its slice; `lead` names the request whose miss it shares while `waiting` (R259); `filled`
whether its sector came from DRAM; `tag` is the sticky tag of Table 08-7 and `hold` a temporary one, 0 none; `bad` whether the waybill
that came with its data is not theirs (R458). -/
structure Req where
  id      : Nat
  kind    : ReqKind
  core    : Nat
  stream  : StreamId
  desc    : Nat
  src     : Nat
  dst     : Nat
  len     : Nat
  op      : Nat
  epoch   : Nat := 0
  noAlloc : Bool := false
  prov    : Option Nat := none
  phase   : ReqPhase
  data    : List Byte := []
  code    : Nat := 0
  fresh   : Bool := true
  waiting : Bool := false
  lead    : Nat := 0
  sent    : Nat := 0
  here    : Bool := false
  filled  : Bool := false
  tag     : Nat := 11
  hold    : Nat := 0
  bad     : Bool := false
deriving DecidableEq, Repr

/-- The states of a Verge sector that holds something (Table 08-3); an unlisted sector is invalid. -/
inductive SecState where
  | clean | dirty | dead
deriving DecidableEq, Repr

/-- A sector of a Verge line. -/
structure Sector where
  st   : SecState
  data : List Byte := []
deriving DecidableEq, Repr

/-- The partial sums of a reduction-pending line (R269): element type (1 FP32, 2 BF16), layout epoch, age, and the partial
of each element touched. -/
structure Partials where
  op    : Nat
  epoch : Nat
  age   : Nat
  elems : SMap (BitVec 32) := []
deriving DecidableEq, Repr

/-- What is wrong with a stored sector (R458 to R460): the symbols in error of each of its codewords, whether it is read from a wrong
place, the waybill held where it is not that of the data, and whether only the next check of the waybill fails. A sector that none is
listed for is sound, and its waybill is that of its data (R457). DESIGN CHOICE: notes/assumptions/111. -/
structure Flaw where
  errs   : List (List Nat) := []
  astray : Bool := false
  bill   : Option (BitVec 32) := none
  once   : Bool := false
deriving DecidableEq, Repr

/-- A line of a Verge slice (R265): its line number, its sectors, its pin bit, its pending reduction, the flaws of its sectors. -/
structure VLine where
  line  : Nat
  secs  : SMap Sector := []
  pin   : Bool := false
  red   : Option Partials := none
  flaws : SMap Flaw := []
deriving DecidableEq, Repr

/-- One provisional write or reduction held until commit (R211). -/
structure ProvItem where
  op    : Nat
  epoch : Nat
  off   : Nat
  data  : List Byte
deriving DecidableEq, Repr

/-- A provisional sector (R211): whose it is, in which pass, and what it holds. DEDUCED: notes/assumptions/43. -/
structure Prov where
  core   : Nat
  stream : StreamId
  pass   : Nat
  sector : Nat
  items  : List ProvItem
deriving DecidableEq, Repr

/-- A reduce-through push in a keeper's push buffer or hold list (R309, R310). -/
structure Push where
  line  : Nat
  part  : Partials
  held  : Nat := 0
deriving DecidableEq, Repr

/-- A Verge slice: lines with the most recently used first, provisional sectors, the next reduction age, the repair slots
in use (slot and logical core, R469), the pseudo-channels in hotspot, each with its bank (R282). DESIGN CHOICE: notes/assumptions/2. -/
structure Slice where
  lines  : List VLine := []
  prov   : List Prov := []
  age    : Nat := 0
  repair : SMap Nat := []
  hot    : SMap Nat := []
deriving DecidableEq, Repr

/-- A line of a cluster-cache half: the sector, the data held, and whether the waybill held with them is not theirs (R458). -/
structure CchLine where
  sector : Nat
  data   : List Byte
  bad    : Bool := false
deriving DecidableEq, Repr

/-- A miss of a cluster-cache half that is outstanding (R259): its sector, the request that fetches it, whether an invalidation has
passed since (R261), and the bytes that the cluster has written to the sector since, by offset (R260). -/
structure Miss where
  sector : Nat
  req    : Nat
  stale  : Bool := false
  writes : List (Nat × List Byte) := []
deriving DecidableEq, Repr

/-- A half of a cluster cache: its lines, most recently used first, the misses outstanding, and the miss tracker (logical core
and last missed sector, R278).
DESIGN CHOICE: notes/assumptions/2. -/
structure Half where
  lines   : List CchLine := []
  misses  : List Miss := []
  tracker : List (Nat × Nat) := []
deriving DecidableEq, Repr

/-- The memory proper: the bytes of the stacks (keyed by local address, relocated lines by their reserve address), of the
scratchpads (scratchpad window addresses) and of the window storage (pinned window addresses), in one canonical list;
the poisoned sectors (R463), the lost pseudo-channels (global number k × 32 + p, R472) and the loss map
(R474), the pseudo-channels retired without migration and the sectors written or rebuilt since (R472). `base` names
the free value that the unlisted bytes of the stacks hold once their contents have been lost (R488, R489); none before that;
`zeroed` are the ranges of addresses zeroed since (R449). `flaws` holds what is wrong with sectors of the stacks and of the window
storage, and `broken` those that the keeper could not write back, or whose scrub failed: they wait for their repair (R458, R462). -/
structure Mem where
  cells  : List Host.Cell := []
  base   : Option Nat := none
  zeroed : List (Nat × Nat) := []
  poison : List Nat := []
  lostPcs : List Nat := []
  lossMap : List Nat := []
  gone    : List Nat := []
  rebuilt : List Nat := []
  flaws   : SMap Flaw := []
  broken  : List Nat := []
deriving DecidableEq, Repr

/-! ### What leaves the device -/

/-- A line that the monitor writes (R544, R545, R546, R492, Table 16-4), before its letters are laid out. -/
inductive MonLine where
  | ok
  | okId (serial : Word) (boot : Nat)
  | okRd (value : Word)
  | okSt (stage : Nat) (time mst : Word) (keep : Nat)
  | okTemp (sensor : Nat) (temp : Int) (throttle : Bool)
  | okToken (token : Word)
  | err (n : Nat)
  | bootFail (n step cause wait : Nat)
  | bootReady (n : Nat)
  | thermal (cause sensor : Nat) (temp : Int)
  | keep (token : Word)
deriving DecidableEq, Repr

/-- What a frame carries after its header (R388): nothing, data, a Kerb block, a collective piece, the name of a piece
acknowledged, or the words of a control frame. DESIGN CHOICE: notes/assumptions/52. -/
inductive Body where
  | empty
  | data (d : List Byte)
  | kerb (p : KerbPayload)
  | piece (p : PieceId) (k : CollKey) (off : Nat) (d : List Byte)
  | ack (p : PieceId)
  | ctl (args : List Nat)
deriving DecidableEq, Repr

/-- The link fields of a codeword (Table 12-1). -/
structure LinkFields where
  check  : Nat
  seq    : Nat
  ack    : Nat
  nak    : Bool := false
  first  : Nat
  marker : Bool
  signal : Nat := 0
  stage  : Nat := 0
deriving DecidableEq, Repr

/-- What the device sends outside, in order. The list is the model's own record of its outputs. -/
inductive Output where
  /-- An MSI-X message of a vector (R434, R540). -/
  | msix (vector : Nat)
  /-- A line on the monitor UART (R544). -/
  | uart (l : MonLine)
  /-- A write of bytes to a host address (R433, R438). -/
  | hostWrite (addr : Nat) (data : List Byte) (relaxed : Bool := false)
  /-- A completion to a host read of BAR0 or BAR2: status 0 data, 1 unsupported request, 2 poisoned. -/
  | hostRead (status : Nat) (data : List Byte)
  /-- A frame sent on a causeway port (R388). -/
  | frame (port : Nat) (h : FrameHdr) (b : Body)
  /-- A codeword sent on a port (R387): its 632 stream bytes and its link fields (Table 12-1), among them a nak (R390) or a late (1)
  or clear (2) signal of a stage (R400). -/
  | codeword (port : Nat) (stream : List Byte) (link : LinkFields)
  /-- A codeword sent again by a port (R390): its sequence number. -/
  | replay (port seq : Nat)
  /-- A pin driven to a level, or pulsed. -/
  | pin (name : Nat) (level : Bool)
  /-- The answer to a read of a register: its offset and its value. -/
  | regRead (off : Nat) (value : Word)
  /-- A response on the PCIe data object exchange or on SMBus: its code and its words. -/
  | response (code : Nat) (words : List Nat)
deriving DecidableEq, Repr

/-- The identifiers of Table 00-3 (R6): vendor and subsystem vendor ID, device and subsystem ID, revision ID, class code. -/
def vendorId : Nat := 0x1E5C
/-- The device ID and the subsystem ID. -/
def deviceId : Nat := 0x3200
/-- The revision ID: stepping B0. -/
def revisionId : Nat := 0x10
/-- The class code: a processing accelerator. -/
def classCode : Nat := 0x120000

/-- The identification dwords of the configuration header (R6), which nothing writes: device and vendor ID at 0x00, class code and
revision ID at 0x08, subsystem ID and subsystem vendor ID at 0x2C. PRESUMED: notes/assumptions/69. -/
def identHeader : SMap Nat :=
  [(0x00, deviceId * 65536 + vendorId), (0x08, classCode * 256 + revisionId), (0x2C, deviceId * 65536 + vendorId)]

/-- The header after a host reset: the identification dwords, Device Control as PCI Express resets it (relaxed ordering and no-snoop
enabled, read requests of 512 bytes), and what Advanced Error Reporting can do (ECRC generation and check). PRESUMED:
notes/assumptions/69. -/
def resetHeader : SMap Nat := identHeader ++ [(0x78, 0x2810), (0x118, 0xA0)]

/-- The PCI Express function (R417 to R419, R540): the command and MSI-X enables, the vectors whose messages are held back
(R540), the BAR2 size as a power of two of bytes (Table 13-2), the configuration header's dwords (those of R6, and those written),
the power state. -/
structure Pcie where
  bme      : Bool := false
  msixOn   : Bool := false
  msixMask : Bool := false
  heldMsi  : List Nat := []
  bar2Log2 : Nat := 36
  header   : SMap Nat := resetHeader
  d3hot    : Bool := false
deriving DecidableEq, Repr

/-! ### Kerb engines (chapter 09) -/

/-- A contribution in progress (R313, R314): its replica's device and step, its squares so far as FP64, the blocks that have come,
and the block flagged last, once it has come. -/
structure Contrib where
  replica : Nat
  step    : Nat
  sq      : Word := 0
  added   : List Nat := []
  last    : Option Nat := none
deriving DecidableEq, Repr

/-- An open shard or replica record (Table 09-1) with what the engine keeps for it: the version (R304), the contributions
accepted and their summed squares as FP64 (R313, R314), contributions in progress, whether the buffer is closed for the step
(R310), and by element what this device's own pushes have summed into the buffer since it was cleared (R314). -/
structure Shard where
  gen       : Nat
  rows      : Nat
  cols      : Nat
  master    : Nat
  moments   : Nat
  grad      : Nat
  set0      : Nat
  set1      : Nat
  residual  : Nat
  bitmap    : Nat
  survey    : Nat
  expected  : Nat
  epoch     : Nat
  salt      : Nat
  fp8       : Bool
  transp    : Bool
  twoSets   : Bool
  gradBf16  : Bool
  q8        : Bool
  opt       : Nat
  replica   : Bool
  ownerDev  : Nat
  ownerHdl  : Nat
  version   : Nat := 0
  accepted  : Nat := 0
  sumSq     : Word := 0
  partialsC : List Contrib := []
  closed    : Bool := false
  own       : SMap (BitVec 32) := []
deriving DecidableEq, Repr

/-- A lease (R305 to R308): the shard it is on, the version, the stage it was granted in, its end, the replica address and
the holder's device, whether it has been revoked; its owner's device, the shard's handle there, its ID there, the address of the
owner's set of the version and the bytes that the replica address covers. -/
structure Lease where
  shard   : Nat
  version : Nat
  granted : Nat
  until_  : Nat
  replica : Nat
  holder  : Nat
  revoked : Bool := false
  dev     : Nat := 0
  handle  : Nat := 0
  id      : Nat := 0
  set     : Nat := 0
  len     : Nat := 0
deriving DecidableEq, Repr

/-- Who submitted a Kerb command, and so who is told of its end (R300, R302): a core's stream with the counter it names, a
started entry of a channel, a peer device (its frame's tag), or a management core. -/
inductive KSource where
  | core (l : Nat) (t : StreamId) (ctr : Option Nat)
  | entry (chan n : Nat)
  | peer (dev tag : Nat)
  | mgmt
deriving DecidableEq, Repr

/-- How far a Kerb command has come: offered to an engine that has not accepted it, queued, parked (R303), sent to another
device or waiting for its contribution blocks to be acknowledged, finished and not yet completed. -/
inductive KPhase where
  | offered | queued | parked | sent | finished
deriving DecidableEq, Repr

/-- A Kerb command at an engine (Table 09-3): its block's fields, the stamp of R303, its phase, and what it returns. `acks`
counts the blocks a replica's GRAD.CLOSE has sent that the owner has not acknowledged (R312); `dev` is the device of the shard. -/
structure KCmd where
  id     : Nat
  src    : KSource
  op     : Nat
  handle : Nat
  status : Nat
  arg0   : Word
  arg1   : Word
  arg2   : Word
  span   : Nat
  stamp  : Nat := 0
  seed   : Word := 0
  phase  : KPhase := .queued
  acks   : Nat := 0
  code   : Nat := 0
  lease  : Nat := 0
  value  : Nat := 0
  addr   : Nat := 0
  dev    : Nat := 0
deriving DecidableEq, Repr

/-- A Kerb engine: generations and open shards by index, leases by ID, commands in order of acceptance, pushes waiting. Engine 36
stands for the engines of other devices: the commands sent there, and the leases held there with a replica address here (R308),
under the number of the command that asked for them. -/
structure Engine where
  gens   : SMap Nat := []
  shards : SMap Shard := []
  leases : SMap Lease := []
  cmds   : List KCmd := []
  pushes : List Push := []
deriving DecidableEq, Repr

/-! ### Milestones (chapter 02) -/

/-- What the milestone unit keeps beside its registers: the timebase value at which the current stage opened (R72), KRB_SEED
and the stretch limit as they stood at the last milestone (R324, R80), the scheduled time S of the next milestone, once set
(R64, R61), whether members have been sampled for this stage, the service slot has begun, and an early tick has ended it (R61), the
members that had background work pending in the stage and those for which some ran (R67), the members that now hold late
with their causes (class, index, cause: Table 02-15), whether late has been seen in the stage, the last member to clear
(R70), the release time once announced, timing requests with the stage they were written in (R62), members' counts
of starved slots and those with a guaranteed slot (R67), the pieces cut short that resume in a later slot (R66), the sectors audited in this service
slot by keeper and kind of audit (R477, R478), whether the
device has fired a milestone since it was enabled and when it was enabled (R74), the root's stage number where it has been
told, whether the tick has been missed since the last edge (R59), whether an election holds the milestone and the remote device
that its stretch is recorded with (R56), whether Roadbed's reset holds it (R53), and when the last clear reached the root
(R70). -/
structure Mst where
  opened  : Nat := 0
  seed    : Word := 0
  limit   : Nat := 100000
  due     : Option Nat := none
  sampled : Bool := false
  slotOn  : Bool := false
  slotOver : Bool := false
  hungry  : List Nat := []
  fed     : List Nat := []
  paused  : List Piece := []
  audits  : SMap Nat := []
  late    : List (Nat × Nat × Nat) := []
  seen    : Bool := false
  cleared : Option (Nat × Nat × Nat) := none
  release : Option Nat := none
  reqs    : List (TimingParam × Nat × Nat) := []
  starved : SMap Nat := []
  guar    : List Nat := []
  joined  : Bool := false
  enabledAt : Nat := 0
  changed : Option Nat := none
  clearAt : Option Nat := none
  told    : Option Nat := none
  tickLost : Bool := false
  hold    : Bool := false
  roadbed : Bool := false
  limitHit : Bool := false
deriving DecidableEq, Repr

/-! ### Integrity and repair (chapter 14) -/

/-- What the repair unit keeps beside its registers: retired physical cores (136 × cluster + core), retirements awaiting the
next milestone (R466), physical cores marked suspect (R470), TSV lanes failed and not replaced, as
(pseudo-channel's global number, die, lane), and replaced, with the lane that stands in (R471), codewords corrected in the stage by symbol
(key ((pseudo-channel × 16) + die) × 256 + symbol), pseudo-channels lost and not yet retired (R472), the failed lanes of each bond, culvert
or core group in the order of failing, how many of them have been replaced, and groups at half width
(R475), the self-test period and audit count in force (R483), entries discarded since the last one written in each log (R215),
audit exceedances of each physical core (R220), the pseudo-channels and, from 1,152 on, the lane groups that the self-test's pass under way
has covered (R476), and where each keeper's cycles over its shards and over the leases stand (R477, R478). -/
structure Rep where
  retired   : List Nat := []
  pendRet   : List Nat := []
  suspect   : List Nat := []
  tsvFailed : List (Nat × Nat × Nat) := []
  tsvSpared : List (Nat × Nat × Nat × Nat) := []
  laneCorr  : SMap Nat := []
  lost      : List Nat := []
  groups    : SMap (List Nat) := []
  replaced  : SMap Nat := []
  halfWidth : List Nat := []
  period    : Nat := 24
  auditN    : Nat := 8
  lostSince : SMap Nat := []
  auditHits : SMap Nat := []
  tested    : List Nat := []
  shardCur  : SMap Nat := []
  leaseCur  : SMap Nat := []
deriving DecidableEq, Repr

/-! ### Channels (chapter 13) -/

/-- The states of a channel (Table 13-5). -/
inductive ChanSt where
  | free | opened | stopped | destroying | kept | orphaned
deriving DecidableEq, Repr

/-- A host region of a channel (R438, R441 to R445): window address, permissions, epoch, extents (bus address and length),
whether it is active, and the time of the host reset that suspended it. -/
structure HRegion where
  w       : Nat
  read    : Bool
  write   : Bool
  epoch   : Nat
  extents : List (Nat × Nat)
  active  : Bool := true
  since   : Nat := 0
deriving DecidableEq, Repr

/-- How far a command entry has come: accepted, started, under way, carried out, completed. -/
inductive EPhase where
  | accepted | started | running | carried | ended
deriving DecidableEq, Repr

/-- A command entry accepted by a channel (Table 13-6): its number, fields and payload (with the payload of its chain), its
phase, its completion status and value, and the streams a START waits for; of a copy, its number in the order of starting (R569), how
many of its reads of other devices have gone out, how many of its pieces are done, the requests not yet answered, what the reads have
brought by source address (nothing for one that failed), the bytes whose writes failed. -/
structure Entry where
  n       : Nat
  op      : Nat
  tag     : Word
  args    : List Word
  payload : List Byte
  fence   : Bool
  irq     : Bool
  cmpl    : Bool
  phase   : EPhase := .accepted
  code    : Nat := 0
  value   : Nat := 0
  bad     : Nat := 0
  event   : Bool := false
  unit    : Nat := 0
  reads   : Nat := 0
  pos     : Nat := 0
  asked   : Nat := 0
  got     : SMap (List Byte) := []
  lost    : Nat := 0
deriving DecidableEq, Repr

/-- A record not yet written to a completion ring (R424, R443): its first three words without the phase, and whether it
signals. -/
structure Record where
  w0     : Nat
  w1     : Word
  w2     : Word
  signal : Bool
deriving DecidableEq, Repr

/-- A channel (R421 to R437): its state and configuration (Table 13-4), rings, counts (entries consumed, highest producer
count, records written, records consumed, re-reads of the present slot), a chain being read, entries not yet complete,
regions, and records held. -/
structure Chan where
  st       : ChanSt := .free
  kind     : Nat := 0
  ringDev  : Bool := false
  vector   : Nat := 0
  irq      : Bool := false
  cqLog2   : Nat := 0
  ringLog2 : Nat := 0
  ring     : Nat := 0
  cq       : Nat := 0
  consumer : Nat := 0
  producer : Nat := 0
  written  : Nat := 0
  cqCons   : Nat := 0
  reread   : Nat := 0
  fetching : Bool := true
  chain    : List Entry := []
  entries  : List Entry := []
  regions  : List HRegion := []
  held     : List Record := []
deriving DecidableEq, Repr

/-- A placement slot (R439): its channel, the local range it maps, its permissions. -/
structure PlaceSlot where
  chan  : Nat
  addr  : Nat
  len   : Nat
  read  : Bool
  write : Bool
deriving DecidableEq, Repr

/-- A write to a host window held back (R442, R444): its channel, its region, its bus address and its data. -/
structure HeldWrite where
  chan : Nat
  w    : Nat
  bus  : Nat
  data : List Byte
deriving DecidableEq, Repr

/-- The host side of the device beside its registers: generations and channels by index, placement slots, writes held, the
link, whether a link interruption is in progress and since when, vectors signalled within the last microsecond and those due
again (R434), whether a host reset still keeps the command engine from accepting entries (R443), the channel whose DESTROY is
in progress, the host requests that wait for the end of a Roadbed partial reset (R505). -/
structure HostSt where
  gens     : SMap Nat := []
  chans    : SMap Chan := []
  slots    : SMap PlaceSlot := []
  holdQ    : List HeldWrite := []
  linkUp   : Bool := false
  linkLoss : Bool := false
  lossAt   : Nat := 0
  msiSent  : List Nat := []
  msiDue   : List Nat := []
  inReset  : Bool := false
  destroy  : Option Nat := none
  hostHeld : List Instr := []
  outQ     : List HeldWrite := []
deriving DecidableEq, Repr

/-! ### The precision audit (chapter 06) -/

/-- What the audit captures of an MMA (R217): the logical core and the physical core that served it, the formats, row m of A and column n of B as codes, their MXFP8 scales,
and the element before and after. -/
structure Capture where
  core   : Nat
  phys   : Nat
  fa     : Nat
  fb     : Nat
  a      : List Nat
  b      : List Nat
  sa     : List Nat
  sb     : List Nat
  before : BitVec 32 × BitVec 16
  after  : BitVec 32 × BitVec 16
deriving DecidableEq, Repr

/-- The audit: the sampling shift in force (R224) and the captures each home slice holds. -/
structure Audit where
  rate : Nat := 12
  bufs : SMap (List Capture) := []
deriving DecidableEq, Repr

/-! ### The causeway fabric (chapter 12) -/

/-- A frame in the replay buffer of a port: the sequence number of its codeword and itself (R390). -/
structure SentFrame where
  seq  : Nat
  h    : FrameHdr
  b    : Body
deriving DecidableEq, Repr

/-- A frame that waits at a port for a credit, or while the port retrains; `from_` is the port and the class and channel
pair whose receive buffer it still fills (R393); `mark` the failed port and the codeword sequence that its resend marker names
(R397). -/
structure WaitFrame where
  h     : FrameHdr
  b     : Body
  from_ : Option (Nat × Nat) := none
  mark  : Option (Nat × Nat) := none
deriving DecidableEq, Repr

/-- A port beside its registers (R385 to R393): attempts that ended without lock, the sequence number of the next codeword it
sends, the last one it accepted, whether it has refused one since, replays in a row, the replay buffer, credits to send and
buffers filled by the partner (key: 2 × class + vc), frames waiting, violations and corrected symbols per lane in the stage,
lanes that cannot be used, whether the next frame is a resent one already accepted (R397), the stream bytes of the codeword under way
and the offset of the first frame that starts in it (R387), the class served next, the class 0 credits owed to the partner for its
credit frames (R393). -/
structure Port where
  attempts : Nat := 0
  seq      : Nat := 0
  ack      : Nat := 4095
  refusing : Bool := false
  replays  : Nat := 0
  sent     : List SentFrame := []
  credits  : SMap Nat := []
  filled   : SMap Nat := []
  wait     : List WaitFrame := []
  viol     : Nat := 0
  corr     : SMap Nat := []
  badLanes : List Nat := []
  dropNext : Bool := false
  buf      : List Byte := []
  first    : Nat := 1023
  turn     : Nat := 1
  owed     : Nat := 0
deriving DecidableEq, Repr

/-- Why a request was sent to another device (R398): a core's sector request, a Kerb command, a block of a replica's
GRAD.CLOSE (`acked`: its response has come, its status record has not), a status record, a damaged sector of which that device
has a copy (R319, R320), the waybill of an owner's sector (R478), a piece of a channel entry's copy, of which the source address or the length stands here (R427), a sector
of a page transfer with its place in the page (R373). -/
inductive Asked where
  | move (req : Nat)
  | kerb (cmd : Nat)
  | contrib (eng cmd : Nat)
  | acked (eng cmd : Nat)
  | status
  | refetch (sec : Nat)
  | copyRead (chan n src : Nat)
  | copyWrite (chan n len : Nat)
  | page (move off : Nat)
  | bill (sec : Nat)
deriving DecidableEq, Repr

/-- A request for another device that waits for a tag. -/
structure Ask where
  who  : Asked
  dst  : Nat
  type : Nat
  op   : Nat
  len  : Nat
  addr : Nat
  body : Body
  why  : FrameWhy := .plain
deriving DecidableEq, Repr

/-- A collective open on this device (R404 to R411): its record, its place in its list of steps, the step in progress (the
stage it belongs to), the pieces of the steps started that are not yet acknowledged, the frames taken of pieces not yet whole (piece,
place, bytes), the pieces received, whether its own data stands in place (R408). -/
structure Coll where
  id      : Nat
  key     : CollKey
  src     : Nat
  dst     : Nat
  start   : Nat
  status  : Nat
  pos     : Nat := 0
  running : Bool := false
  stage   : Nat := 0
  unacked : List PieceId := []
  parts   : List (PieceId × Nat × Nat) := []
  got     : List PieceId := []
  copied  : Bool := false
deriving DecidableEq, Repr

/-- A frame of a piece that came before its record or before the caller's own data stood in place (R408): its port, its header, the
piece, the record it was sent under, its place in the piece and its bytes. -/
structure EarlyFrame where
  port : Nat
  h    : FrameHdr
  q    : PieceId
  k    : CollKey
  off  : Nat
  d    : List Byte
deriving DecidableEq, Repr

/-- A contribution block that has reached this device (R311): the device and tag it came under, or the command of this device
that sent it, and its contents. DESIGN CHOICE: notes/assumptions/52. -/
structure KBlock where
  dev   : Nat
  tag   : Nat
  local_ : Option (Nat × Nat)
  p     : KerbPayload
deriving DecidableEq, Repr

/-- The fabric of this device: ports, the lowest UID seen and the coordinates taken in bring-up (Table 12-5) with the coordinates
received by port and the members heard of, the root and whether an election has found none (R55), requests by tag,
tags whose request timed out, requests waiting for a tag, the last stage late was seen or sent for, the ports from which clear
has come and whether this device has sent it, open and ended collectives, contribution
blocks not yet added, pieces that came before their record; `kept` is the request last sent under each tag, `resend` those that a
Roadbed partial reset aborted and that go out again (R506);
`taken` names the contribution blocks added (shard handle, replica, step, block), so that a second copy is discarded (R506);
`bills` holds, by sector, what an owner answered to a question for its waybill, `ownerBill` the waybill with which a refetched sector is
to be compared (R478, R479); `fetched` holds, by sector, what another device answered to a keeper's read of its copy, none where it gave no data (R319). -/
structure Fab where
  ports    : SMap Port := []
  lowUid   : Option Word := none
  coords   : Option Nat := none
  coordsBy : List (Nat × Nat) := []
  members  : List Nat := []
  root     : Nat := 0
  noRoot   : Bool := false
  sent     : SMap Asked := []
  kept     : SMap Ask := []
  resend   : List Ask := []
  timedOut : List Nat := []
  asks     : List Ask := []
  lateFor  : Option Nat := none
  clears   : List Nat := []
  sentClr  : Bool := false
  colls    : List Coll := []
  ended    : List Nat := []
  blocks   : List KBlock := []
  taken    : List (Nat × Nat × Nat × Nat) := []
  early    : List EarlyFrame := []
  fetched  : SMap (Option (List Byte)) := []
  bills    : SMap (Option (List Byte)) := []
  ownerBill : SMap Nat := []
deriving DecidableEq, Repr

/-! ### The training step (chapter 10) -/

/-- A step plan as loaded (Table 10-2). -/
structure Plan where
  addr       : Nat
  legs       : Nat
  leg        : Nat
  m0         : Nat
  mMin       : Nat
  mMax       : Nat
  survey     : Nat
  towpath    : Bool
  actBf16    : Bool
  tokens     : Nat
  surveyN    : Nat
  firstStep  : Nat
  fPc        : Nat
  bPc        : Nat
  uPc        : Nat
  fwdArrival : Nat
  bwdArrival : Nat
  actBudget  : Nat
  actPerMb   : Nat
  surveyList : Nat
  pfTable    : Nat
  filler     : Nat
  epoch      : Nat
  bwdN       : Nat
  fwdN       : Nat
deriving DecidableEq, Repr

/-- An item of the plan (R328): its kind (Table 10-1), step and micro-batch. -/
structure Item where
  kind : Nat
  s    : Nat
  j    : Nat
deriving DecidableEq, Repr

/-- The plan engine: the plan, the channel and entry that loaded it, the item on each stream, the filler unit running (channel,
entry) and whether it has been told to halt (R338), the next forward item (step, j), the next backward item (step, items of it
started), the next update step, forward items ended, backward items ended of each step, micro-batch counts by step, whether
the F and B streams have had their prefetch since their last item (R335), the F draw counters saved before filler (R337), the
survey: whether E is valid, the stages read last (R346), items started at the last evaluation, sectors
prefetched in the stage, the streams whose item is of a plan loaded before, and those whose item has had an abnormal halt reported (R431). -/
structure Train where
  plan       : Option Plan := none
  by_        : Option (Nat × Nat) := none
  onF        : Option Item := none
  onB        : Option Item := none
  onU        : Option Item := none
  filler     : Option (Nat × Nat) := none
  fillerOver : Bool := false
  fNext      : Nat × Nat := (0, 0)
  bNext      : Nat × Nat := (0, 0)
  uNext      : Nat := 0
  fDone      : List (Nat × Nat) := []
  bDone      : SMap Nat := []
  ms         : SMap Nat := []
  pfF        : Bool := false
  pfB        : Bool := false
  draws      : Option (SMap Word) := none
  estValid   : Bool := false
  lastStages : List Nat := []
  started    : Nat := 0
  opened     : Nat := 0
  prefetched : Nat := 0
  foreign    : List Nat := []
  reported   : List Nat := []
deriving DecidableEq, Repr

/-! ### Power, boot and temperature (chapters 15, 16 and 18) -/

/-- What the power controller keeps beside its registers: whether every rail is up, the step each physical core runs at (key
136 × cluster + core), the steps and rails (in mV) chosen for the coming milestone, the clusters whose rail is still rising to
them (R495), those of them whose cores stay at 275 MHz until then (R500), the allowances decided with them, the Vmin that the
critical-path monitors last gave (R494; key 32 × (136 × cluster + core) + step), the time VR_ALERT_N last
returned high (R500), the clusters whose PLL is out of lock (R502), when the watchdog was last kicked, the
re-measurement period in force (R508). DESIGN CHOICE: notes/assumptions/101. -/
structure Pow where
  on      : Bool := false
  steps   : SMap Nat := []
  next    : SMap Nat := []
  rails   : SMap Nat := []
  rising  : List Nat := []
  slow    : List Nat := []
  allow   : SMap Nat := []
  vmin    : SMap Nat := []
  highAt  : Option Nat := none
  pllDown : List Nat := []
  kicked  : Nat := 0
  hours   : Nat := 24
deriving DecidableEq, Repr

/-- What the boot sequencer and the pins hold (R488 to R492, R505, R561 to R568): CARRIER_PG high, SYS_RESET_N low, PERST# low,
the straps on the pins and whether they have been sampled since power-up, the step of Table 15-2 under way (0 none), an attempt
that waits for SYS_RESET_N, the nanoseconds counted before the last device reset and the beginning of the last attempt on that
count (R491), the point a Roadbed partial reset has reached (0 none, 1 requested, 2 on hold), the ports that were Active when it
began, whether its authentication is still due, THERM_TRIP_N driven low, the restart count under way, whether step 3 has released the
PCI Express controller (R490), the level of VR_ALERT_N (R499), the time at which the wait or the restart count ends (R491, Table 16-4),
THM_LAST_TRIP as the non-volatile store holds it (R526). DESIGN CHOICE: notes/assumptions/101. -/
structure Boot where
  pg      : Bool := false
  rstLow  : Bool := false
  perst   : Bool := true
  straps  : Nat := 0
  sampled : Bool := false
  step    : Nat := 0
  waits   : Bool := false
  wall    : Nat := 0
  began   : Option Nat := none
  rb      : Nat := 0
  rbPorts : List Nat := []
  authDue : Bool := false
  trip    : Bool := false
  cooling : Bool := false
  released : Bool := false
  vrLow   : Bool := false
  until_  : Nat := 0
  tripNv  : Word := 0
deriving DecidableEq, Repr

/-- What the thermal logic keeps: the readings of the last samples, the latest first, up to ten (R515). -/
structure Thermal where
  hist : List (SMap Int) := []
deriving DecidableEq, Repr

/-! ### Management and security (chapter 17) -/

/-- What the management complex keeps beside its registers: the priority stacks of the four management cores, top first, as
(source, priority) (R539); whether the management firmware runs (R531); the firmware slot being booted or run, the slot marked
next (0 A, 1 B), security versions of the images in the slots (R532), the body digest and header bytes 0x008 to 0x017 of an
image installed in a slot; the verdict of an installation under way with the image's version, digest and header bytes; the response
that waits in the mailbox (R535); the state of the boundary-scan controller (R565); the digest that the alias key and its certificate
carry since the last boot of the firmware (R534). DESIGN CHOICE: notes/assumptions/101. -/
structure Sec where
  claims  : SMap (List (Nat × Nat)) := []
  running : Bool := false
  active  : Nat := 0
  marked  : Option Nat := none
  svn     : SMap Nat := []
  image   : SMap (Nat × Nat) := []
  install : Option (Nat × Nat × Nat × Nat) := none
  doe     : Option Output := none
  tap     : Nat := 0
  aliasOf : Nat := 0
deriving DecidableEq, Repr

/-! ### Attention and paging (chapter 11) -/

/-- A registered table (R364, R367): its record, the ring it was registered through, its version, the status addresses of the
COMMITs waiting for the milestone, the version and status addresses of a commit not yet synced (with the stage of the version),
the query block of the last READ. -/
structure RouteTable where
  imageA    : Nat
  imageB    : Nat
  frames    : Nat
  work      : Nat
  layby     : Nat
  signposts : Nat
  pagesMax  : Nat
  kb        : Nat
  vb        : Nat
  kind      : Nat
  homes     : Nat
  ring      : Nat
  version   : Nat := 1
  marked    : List Nat := []
  unsynced  : Option (Nat × Nat × List Nat) := none
  lastQ     : Option Nat := none
deriving DecidableEq, Repr

/-- A request of a ring that is not complete (R376, R377): its record, whether it is a bad request, the version it was accepted
under, the pages still to deal with, the frames it has pinned, the pages done, whether a transfer of it has failed, whether it is
parked, and the pages it was accepted for. -/
structure AtnReq where
  op      : Nat
  handle  : Nat
  addr    : Nat
  args    : Nat
  status  : Nat
  until_  : Nat
  bad     : Bool
  version : Option Nat := none
  todo    : List Nat := []
  held    : List Nat := []
  done    : Nat := 0
  failed  : Bool := false
  parked  : Bool := false
  pages   : List Nat := []
deriving DecidableEq, Repr

/-- An open walk list (R379): its address, table, frames, end and the stage it was written in. -/
structure WalkList where
  addr   : Nat
  table  : Nat
  frames : List Nat
  until_ : Nat
  stage  : Nat
deriving DecidableEq, Repr

/-- A page transfer in flight (R373): its table, page, frame and slot, whether it goes out, the ring whose request caused it, the
page to bring home after a spill made for run-ahead, the requests to another device not yet answered, what those have brought by
place in the page, whether it has failed. -/
structure Transfer where
  id    : Nat
  table : Nat
  page  : Nat
  frame : Nat
  slot  : Nat
  out   : Bool
  ring  : Option Nat
  next  : Option Nat := none
  left  : Nat := 0
  got   : SMap (List Byte) := []
  bad   : Bool := false
deriving DecidableEq, Repr

/-- The route walker beside its registers: generations and tables by index, the requests of each ring in order, open lists,
addresses of revoked lists not yet released, transfers. -/
structure Atn where
  gens    : SMap Nat := []
  tables  : SMap RouteTable := []
  rings   : SMap (List AtnReq) := []
  lists   : List WalkList := []
  revoked : List Nat := []
  moves   : List Transfer := []
deriving DecidableEq, Repr

/-! ### The whole device -/

/-- The state of the device, with the queue of waiting commands. `remap` is the base and the entry count of the remap table that
the last layout-epoch commit put in force (R352). `nextId` numbers requests and operations, `free` the free values
taken, `out` is what has been sent outside, `pending` the queue: the model's own (DESIGN CHOICE: notes/assumptions/30, 31). -/
structure State where
  cfg     : SMap Word := []
  cores   : SMap CoreSt := []
  slices  : SMap Slice := []
  halves  : SMap Half := []
  mem     : Mem := {}
  reqs    : List Req := []
  engines : SMap Engine := []
  mst     : Mst := {}
  rep     : Rep := {}
  audit   : Audit := {}
  fab     : Fab := {}
  remap   : Option (Nat × Nat) := none
  train   : Train := {}
  atn     : Atn := {}
  pow     : Pow := {}
  boot    : Boot := {}
  thermal : Thermal := {}
  sec     : Sec := {}
  nextId  : Nat := 0
  pcie    : Pcie := {}
  host    : HostSt := {}
  free    : Nat := 0
  out     : List Output := []
  pending : List Instr := []
deriving DecidableEq, Repr

/-- The device before its rails are up (R3): nothing powered, every register at its reset value, no command waiting.
DESIGN CHOICE: notes/assumptions/2, 7. -/
def State.reset : State := {}

end Sys2Proof.Machine
end

