-- ==== Sys2Proof/Machine/Ops.lean ====
section
/-! DEFINITION. The named operations over the registers, the cores, the memory, the outputs and the free values of the
device. Every read or write of a register, a byte of memory or a core goes through one of these. -/

namespace Sys2Proof.Machine

/-! ### Configuration registers -/

/-- The fields of the register at an offset; none where the offset is reserved or unmapped. DESIGN CHOICE: notes/assumptions/14. -/
def layoutAt (off : Nat) : List FieldDef :=
  match (blockRegs off).find? (fun r => decide (r.base ≤ off) && dimsHit (off - r.base) r.dims) with
  | some r => r.fields
  | none => []

/-- The word whose fields hold their reset values. -/
def resetOf (fs : List FieldDef) : Word :=
  BitVec.ofNat 64 (fs.foldl (fun a f => a + putf f.fld f.reset) 0)

/-- The class of thermal sensor i (Table 16-1 order: clusters, DRAM dies, Kerb dies, Verge slices, Roadbed). -/
def sensorClass (i : Nat) : Nat :=
  if i < 288 then 0 else if i < 864 then 1 else if i < 900 then 2 else if i < 1044 then 3 else 4

/-- The value a register holds after a device reset: its table's Reset column, with the fuse values that the assumption log
names (the identity core map with no core doubled up and eight free spares, which R30 allows; sensor classes); SMBus belongs to the telemetry responder (Table 17-8).
PRESUMED: notes/assumptions/12, 13. -/
def resetWord (off : Nat) : Word :=
  if 0xA10000 ≤ off ∧ off < 0xA19000 ∧ (off - 0xA10000) % 0x100 < 0x80 then
    let k := (off - 0xA10000) % 0x100 / 8
    BitVec.ofNat 64 ((upto 8).foldl (fun a i => a + (8 * k + i) * 256 ^ i) 0)
  else if 0x510000 ≤ off ∧ off < 0x5121A0 ∧ off % 8 = 0 then
    setf (resetOf (layoutAt off)) THM_SENSOR_class (sensorClass ((off - 0x510000) / 8))
  else if off = SEC_OWN 1 then setf (resetOf (layoutAt off)) SEC_OWN_owner 1
  else resetOf (layoutAt off)

/-- The word a register holds (R12). DESIGN CHOICE: notes/assumptions/14. -/
def rd (s : State) (off : Nat) : Word := smGet (resetWord off) s.cfg off

/-- Put a word into a register. DESIGN CHOICE: notes/assumptions/14. -/
def wr (s : State) (off : Nat) (w : Word) : State := { s with cfg := smPut (resetWord off) s.cfg off w }

/-- The value of a field of a register. -/
def rdf (s : State) (off : Nat) (f : Fld) : Nat := getf (rd s off) f

/-- Whether a one-bit field of a register is set. -/
def rdb (s : State) (off : Nat) (f : Fld) : Bool := getb (rd s off) f

/-- Set a field of a register. -/
def wrf (s : State) (off : Nat) (f : Fld) (v : Nat) : State := wr s off (setf (rd s off) f v)

/-- Set a one-bit field of a register. -/
def wrb (s : State) (off : Nat) (f : Fld) (b : Bool) : State := wr s off (setb (rd s off) f b)

/-- Advance a wrapping counter field (R288). -/
def count (s : State) (off : Nat) (f : Fld) (n : Nat := 1) : State := wr s off (addf (rd s off) f n)

/-- Advance a saturating counter field. -/
def countSat (s : State) (off : Nat) (f : Fld) (n : Nat := 1) : State := wr s off (satf (rd s off) f n)

/-- Registers whose offsets satisfy a test go back to their reset values. -/
def clearIf (s : State) (p : Nat → Bool) : State := { s with cfg := s.cfg.filter (fun e => !p e.1) }

/-! ### Addresses -/

/-- This device's ID (R47). -/
def selfId (s : State) : Nat := rdf s CWY_SELF_ID CWY_SELF_ID_device_id

/-- The address that an access uses: a global address that names this device is served as its local part (R45); every other
address stands as it is. -/
def localForm (s : State) (a : Nat) : Nat := if isGlobal a && globalDev a == selfId s then globalLocal a else a

/-! ### Outputs and free values -/

/-- Send something out. -/
def emit (s : State) (o : Output) : State := { s with out := s.out ++ [o] }

/-- Use up one free value: the number that names it, and the state without it. DESIGN CHOICE: notes/assumptions/29, 30. -/
def takeFree (s : State) : Nat × State := (s.free, { s with free := s.free + 1 })

/-! ### Interrupts (R536 to R540) -/

/-- The vector control word of an MSI-X table entry holds the mask in bit 32 of its second word (PCI Express); it is 1 after
a reset of the table. PRESUMED: notes/assumptions/70. -/
def msixMasked (s : State) (v : Nat) : Bool :=
  s.pcie.msixMask || bit (smGet 0x100000000 s.cfg (0x280000 + 16 * v + 8)) 32

/-- Signal an MSI-X vector: held while the function may not send (R540), left pending in the array while masked. -/
def signalVector (s : State) (v : Nat) : State :=
  if s.pcie.bme && s.pcie.msixOn then
    if msixMasked s v then
      let off := 0x288000 + v / 64 * 8
      let w := smGet 0 s.cfg off
      { s with cfg := smPut 0 s.cfg off (w ||| BitVec.ofNat 64 (2 ^ (v % 64))) }
    else emit s (.msix v)
  else if s.pcie.heldMsi.contains v then s
  else { s with pcie := { s.pcie with heldMsi := s.pcie.heldMsi ++ [v] } }

/-- The state bit of each level source (Table 17-7). -/
def levelBit (s : State) (n : Nat) : Bool :=
  if n < 8 then bit (rd s MST_STATUS) (n + 8)
  else match n with
  | 8 => rdb s TEL_LOG_STATUS TEL_LOG_STATUS_overflow
  | 9 => rdb s REP_LOG_STATUS TEL_LOG_STATUS_overflow
  | 10 => rdb s PWR_STATUS PWR_STATUS_toll_unmet
  | 11 => rdb s PWR_STATUS PWR_STATUS_fmax_lowered
  | 13 => rdb s THM_STATUS THM_STATUS_sensor_failed
  | 14 => rdb s THM_STATUS THM_STATUS_throttled
  | 18 => rdb s CWY_TIME CWY_TIME_sync_lost
  | _ => false

/-- Whether source n is a level source (Table 17-7). -/
def isLevel (n : Nat) : Bool := n ≤ 11 || n == 13 || n == 14 || n == 18

/-- Whether source n is an event source (Table 17-7). -/
def isEventSource (n : Nat) : Bool :=
  n == 12 || (15 ≤ n && n ≤ 17) || n == 19 || n == 20 || (32 ≤ n && n < 248) || (992 ≤ n && n < 1024)

/-- Whether source n is pending: its register bit for an event source, its cause's bit for a level source (R536). -/
def srcPending (s : State) (n : Nat) : Bool :=
  if isLevel n then levelBit s n else rdb s (ICU_SRC n) ICU_SRC_pending

/-- Send the message of source n, if it goes to a vector (R540). -/
def signalSource (s : State) (n : Nat) : State :=
  if rdb s (ICU_SRC n) ICU_SRC_to_vector then signalVector s (rdf s (ICU_SRC n) ICU_SRC_target) else s

/-- An event of an event source: counted, and pending (R537, R540). -/
def raiseEvent (s : State) (n : Nat) : State :=
  let s1 := countSat s (ICU_SRC n) ICU_SRC_count
  let s2 := wrb s1 (ICU_SRC n) ICU_SRC_pending true
  if !srcPending s n && rdb s (ICU_SRC n) ICU_SRC_enable then signalSource s2 n else s2

/-- Hardware sets a status bit that is the cause of level source n (R537). -/
def raiseLevel (s : State) (n off : Nat) (f : Fld) : State :=
  let s1 := countSat s (ICU_SRC n) ICU_SRC_count
  let s2 := wrb s1 off f true
  if !srcPending s n && rdb s (ICU_SRC n) ICU_SRC_enable then signalSource s2 n else s2

/-! ### Cores and streams -/

/-- The state of logical core L. -/
def coreOf (s : State) (l : Nat) : CoreSt := smGet {} s.cores l

/-- Put the state of logical core L. -/
def setCore (s : State) (l : Nat) (c : CoreSt) : State := { s with cores := smPut {} s.cores l c }

/-- Change the state of logical core L. -/
def modCore (s : State) (l : Nat) (f : CoreSt → CoreSt) : State := setCore s l (f (coreOf s l))

/-- The stream of a core. -/
def CoreSt.str (c : CoreSt) : StreamId → Stream
  | .F => c.f
  | .B => c.b
  | .U => c.u

/-- Put a stream of a core. -/
def CoreSt.setStr (c : CoreSt) (t : StreamId) (x : Stream) : CoreSt :=
  match t with
  | .F => { c with f := x }
  | .B => { c with b := x }
  | .U => { c with u := x }

/-- A stream of the device. -/
def strOf (s : State) (l : Nat) (t : StreamId) : Stream := (coreOf s l).str t

/-- Put a stream of the device. -/
def setStr (s : State) (l : Nat) (t : StreamId) (x : Stream) : State := modCore s l (·.setStr t x)

/-- Change a stream of the device. -/
def modStr (s : State) (l : Nat) (t : StreamId) (f : Stream → Stream) : State := setStr s l t (f (strOf s l t))

/-- The number of a stream: 0 F, 1 B, 2 U (R108). -/
def strNum : StreamId → Nat
  | .F => 0
  | .B => 1
  | .U => 2

/-- The three streams in order. -/
def allStreams : List StreamId := [.F, .B, .U]

/-- The stream of a number. -/
def strOfNum : Nat → StreamId
  | 0 => .F
  | 1 => .B
  | _ => .U

/-- The number of a stream state (Table 03-10). -/
def stNum : StrState → Nat
  | .idle => 0
  | .running => 1
  | .waiting => 2
  | .halting => 3
  | .halted => 4
  | .kept => 5

/-- The number of a halt cause (Table 03-10). -/
def causeNum : HaltCause → Nat
  | .none => 0
  | .haltInsn => 1
  | .fault => 2
  | .sibling => 3
  | .external => 4
  | .overrun => 5
  | .deadlock => 6

/-- Whether a stream may be started, and its registers changed from outside (R112, R113). -/
def Stream.atRest (x : Stream) : Bool := x.st == .idle || x.st == .halted || x.st == .kept

/-- Whether a stream is running or waiting. -/
def Stream.live (x : Stream) : Bool := x.st == .running || x.st == .waiting

/-- A live stream starts to halt, with a cause and a fault code; any other keeps what it has (R110). -/
def Stream.halting (x : Stream) (cause : HaltCause) (code : Nat) : Stream :=
  if x.live then { x with st := .halting, cause := cause, code := code, wait := none } else x

/-- The descriptors of a stream issue no further request (R111): one with requests still to issue is abandoned; one whose
requests have all been issued completes as it would have. -/
def CoreSt.abandon (c : CoreSt) (t : StreamId) : CoreSt :=
  { c with descs := c.descs.map (fun d => if d.stream = t ∧ d.row < d.rows then { d with dead := true } else d) }

/-- Stop a stream's issue, with a cause and a code (Table 03-6, R111). -/
def haltStream (s : State) (l : Nat) (t : StreamId) (cause : HaltCause) (code : Nat) : State :=
  let c := coreOf s l
  if (c.str t).live then setCore s l ((c.setStr t ((c.str t).halting cause code)).abandon t) else s

/-- A fault of a stream (R110, R162, R164): the stream records cause fault and the code, its siblings sibling fault, the
fault address is recorded, and the core-fault source is raised. A fault that reaches a stream that is not live changes
neither its record nor CORE_FAULT_ADDR. -/
def coreFault (s : State) (l : Nat) (t : StreamId) (code : Nat) (addr : Word) : State :=
  let was := (strOf s l t).live
  let s1 := haltStream s l t .fault code
  let s2 := (allStreams.filter (· ≠ t)).foldl (fun s u => haltStream s l u .sibling 0) s1
  let s3 := if was then modCore (wr s2 (CORE_FAULT_ADDR l) addr) l (fun c => { c with faultBy := some t, faultAt := (rd s MST_TIME).toNat }) else s2
  raiseEvent s3 (32 + clusterOf l)

/-- A fault of a stream in the very cycle in which a sibling's fault halts it (R163): it records its own code with cause fault, and
the fault address is that of the first of the faulting streams in the order F, B, U. -/
def tiedFault (s : State) (l : Nat) (t : StreamId) (code : Nat) (addr : Word) : State :=
  let s1 := modStr s l t (fun x => { x with cause := .fault, code := code })
  let first := match (coreOf s l).faultBy with
    | some u => decide (strNum t < strNum u)
    | none => false
  let s2 := if first then modCore (wr s1 (CORE_FAULT_ADDR l) addr) l (fun c => { c with faultBy := some t }) else s1
  raiseEvent s2 (32 + clusterOf l)

/-- An imprecise fault, which an outstanding operation or request raises (R110, R162, R163). Where it reaches a stream that a sibling's
fault has halted, and the timebase has not moved on since, the two may have come in one cycle, which no command tells: a free value
decides. DESIGN CHOICE: notes/assumptions/115. -/
def lateFault (s : State) (l : Nat) (t : StreamId) (code : Nat) (addr : Word) : State :=
  let st := strOf s l t
  if st.st = .halting ∧ st.cause = .sibling ∧ (coreOf s l).faultAt = (rd s MST_TIME).toNat then
    let (n, s1) := takeFree s
    if Config.freeNat n % 2 = 1 then tiedFault s1 l t code addr else coreFault s1 l t code addr
  else coreFault s l t code addr

/-! ### What the device is doing -/

/-- The boot state shown in PWR_BOOT (Table 15-15). -/
def bootState (s : State) : Nat := rdf s PWR_BOOT PWR_BOOT_state

/-- What a command does to a device whose rails may be down: then nothing runs (R3). -/
def powered (s t : State) : State := if s.boot.pg then t else s

/-- Whether the clocks of a logical core's cluster have stopped, its PLL being out of lock (R502). -/
def clockStopped (s : State) (l : Nat) : Bool := s.pow.pllDown.contains (clusterOf l)

/-- What happens in a core whose clocks may have stopped: then nothing does (R502). -/
def clocked (s : State) (l : Nat) (t : State) : State := if clockStopped s l then s else t

/-- Whether the device has booted: every rail up and PWR_BOOT.state ready. -/
def deviceReady (s : State) : Bool := s.pow.on && bootState s == 2

/-- The keep state shown in HST_KEEP_STATUS (Table 13-20): 0 running, 1 entry pending, 2 keep, 3 releasing. -/
def keepState (s : State) : Nat := rdf s HST_KEEP_STATUS HST_KEEP_STATUS_state

/-! ### Time -/

/-- The timebase (R80). -/
def now (s : State) : Nat := (rd s MST_TIME).toNat

/-- The current stage number (R72). -/
def stageNow (s : State) : Nat := rdf s MST_STAGE MST_STAGE_stage

/-- Change the milestone unit. -/
def modMst (s : State) (f : Mst → Mst) : State := { s with mst := f s.mst }

/-- The period in force (R64, R79). -/
def periodNs (s : State) : Nat := rdf s MST_PERIOD MST_PERIOD_active_ns

/-- The lead in force. -/
def leadNs (s : State) : Nat := rdf s MST_LEAD MST_LEAD_active_ns

/-- The slot fraction in force, in 0.1 %. -/
def slotPermille (s : State) : Nat := rdf s MST_SLOT MST_SLOT_active_permille

/-- The nominal time of the next milestone (R61, R64). -/
def nominal (s : State) : Nat := s.mst.opened + periodNs s

/-- Whether a member's foreground work waits for the end of its guaranteed slot (R67). Members are numbered cores first, then
Kerb engines from 18,432, slices from 18,468, ports from 18,612 (R48). -/
def heldBySlot (s : State) (m : Nat) : Bool :=
  s.mst.guar.contains m && s.mst.slotOn && !s.mst.slotOver && decide (now s < nominal s)

/-! ### Memory -/

/-- What a byte that nothing has written reads as: 0, and in the stacks, once their contents have been
lost, an unspecified byte (R488, R489) until it is zeroed (R449). DESIGN CHOICE: notes/assumptions/11. -/
def unlisted (m : Mem) (a : Nat) : Byte :=
  match m.base with
  | none => 0
  | some n => if a < scratchBase ∧ ¬ m.zeroed.any (fun r => decide (r.1 ≤ a) && decide (a < r.2)) then Config.freeByte n a else 0

/-- The byte at an address of the memory proper. -/
def memByte (m : Mem) (a : Nat) : Byte := smGet (unlisted m a) m.cells a

/-- Write a byte of the memory proper. -/
def memSetByte (m : Mem) (a : Nat) (b : Byte) : Mem := { m with cells := smPut (unlisted m a) m.cells a b }

/-- Read `n` bytes. -/
def memRead (m : Mem) (a n : Nat) : List Byte := (upto n).map (fun i => memByte m (a + i))

/-- Write bytes from an address up. -/
def memWrite (m : Mem) : Nat → List Byte → Mem
  | _, [] => m
  | a, b :: r => memWrite (memSetByte m a b) (a + 1) r

/-- The canonical form of the memory: addresses strictly rising, no listed byte equal to what an unlisted one reads as. -/
def memWf (m : Mem) : Bool := smSorted none m.cells && m.cells.all (fun p => decide (p.2 ≠ unlisted m p.1))

/-- Change the memory of the device. -/
def modMem (s : State) (f : Mem → Mem) : State := { s with mem := f s.mem }

/-- Where the bytes of a sector of user stack memory lie in the stacks: at their own address, or in the reserve once their
line has been relocated (R473, Table 14-5). -/
def dramAddr (s : State) (a : Nat) : Nat :=
  let l := lineOf a
  let k := stackOfLine l
  let w := rd s (REP_STACK k)
  if userEnd ≤ a then a
  else if getf w REP_STACK_retired_pc = pcOfLine l ∧
      (getb w REP_STACK_retired = true ∨ (getb w REP_STACK_migrating = true ∧ locOfLine l < getf w REP_STACK_pointer)) then
    relocated k (pcOfLine l) (locOfLine l) + a % 2048
  else a

/-- The bytes of a sector in DRAM. -/
def dramRead (s : State) (sec : Nat) : List Byte := memRead s.mem (dramAddr s (sec * 256)) 256

/-- The place of a sector's bytes for the poison marks: its own number. -/
def poisoned (s : State) (sec : Nat) : Bool := s.mem.poison.contains sec

/-- Write a whole sector to DRAM: it is no longer poisoned, and nothing is wrong with it (R457, R463). -/
def dramWrite (s : State) (sec : Nat) (d : List Byte) : State :=
  { s with mem := { memWrite s.mem (dramAddr s (sec * 256)) d with
    poison := s.mem.poison.filter (· ≠ sec), flaws := smErase s.mem.flaws sec, broken := s.mem.broken.filter (· ≠ sec) } }

/-- The scratchpad bytes [o, o + n) of logical core L. -/
def scrRead (s : State) (l o n : Nat) : List Byte := memRead s.mem (scratchAddr l o) n

/-- Write scratchpad bytes of logical core L; a word written whole is no longer marked uncorrectable (R97).
DEDUCED: notes/assumptions/23. -/
def scrWrite (s : State) (l o : Nat) (d : List Byte) : State :=
  let s1 := modMem s (fun m => memWrite m (scratchAddr l o) d)
  let keep (w : Nat) : Bool := !(decide (o ≤ w) && decide (w + 8 ≤ o + d.length))
  if (coreOf s l).bad = [] ∧ (coreOf s l).soft = [] then s1
  else modCore s1 l (fun c => { c with bad := c.bad.filter keep, soft := c.soft.filter keep })

/-- Merge bytes into a list at an offset. -/
def merge (base : List Byte) (off : Nat) (d : List Byte) : List Byte :=
  base.take off ++ d ++ base.drop (off + d.length)

end Sys2Proof.Machine
end

