-- ==== Sys2Proof/Machine/Operands.lean ====
section
/-! DEFINITION. The operand fields of instruction words (Table 04-2), register specifiers (R126, R127), the jump rule (R132)
and what every instruction does before its own effect: fetch check, illegal-instruction check, predicate, arbitration. -/

namespace Sys2Proof

/-- Bits [47:0] of an instruction word as a number. -/
def Insn.b (x : Insn) : Nat := x.body.toNat
/-- Field [47:42]. -/
def Insn.r0 (x : Insn) : Nat := Machine.bitsN x.b 47 42
/-- Field [41:36]. -/
def Insn.r1 (x : Insn) : Nat := Machine.bitsN x.b 41 36
/-- Field [35:30]. -/
def Insn.r2 (x : Insn) : Nat := Machine.bitsN x.b 35 30
/-- Field [29:24]. -/
def Insn.r3 (x : Insn) : Nat := Machine.bitsN x.b 29 24
/-- imm36, signed (formats I and C) and off36 (format B). -/
def Insn.imm (x : Insn) : Int := Machine.sextN 36 (Machine.bitsN x.b 35 0)
/-- e of format C. -/
def Insn.e (x : Insn) : Nat := Machine.bitsN x.b 41 39
/-- ctr_en of format C. -/
def Insn.ctrEn (x : Insn) : Bool := Machine.bitsN x.b 38 38 == 1

end Sys2Proof

namespace Sys2Proof.Machine

/-- What a command answers. -/
abbrev Out := Host.Outcome State Fault Refusal

/-- Answer a next state, or the fault of a command that names no instance. DESIGN CHOICE: notes/assumptions/94. -/
def onlyIf (ok : Bool) (s : State) : Out := if ok then .next s else .fault .noSuchInstance

/-- A register of a stream: s and a registers and predicates as 0 or 1 (R86, R126, R127). -/
def Stream.reg (x : Stream) (r : Nat) : Word :=
  if r = 0 then 0 else if r < 48 then smGet 0 x.regs r
  else if r = 48 then 1 else if r < 56 then (if x.preds.getLsbD (r - 48) then 1 else 0) else 0

/-- Write a register of a stream; writes to s0 and p0 are discarded (R86). -/
def Stream.setReg (x : Stream) (r : Nat) (w : Word) : Stream :=
  if r = 0 then x else if r < 48 then { x with regs := smPut 0 x.regs r w }
  else if r = 48 then x
  else if r < 56 then
    let old := if x.preds.getLsbD (r - 48) then 2 ^ (r - 48) else 0
    let new := if w = 0 then 0 else 2 ^ (r - 48)
    { x with preds := BitVec.ofNat 8 (x.preds.toNat - old + new) }
  else x

/-- An s or a register specifier. -/
def isSA (r : Nat) : Bool := r < 48
/-- An s, a or p register specifier. -/
def isSAP (r : Nat) : Bool := r < 56
/-- A predicate specifier. -/
def isP (r : Nat) : Bool := 48 ≤ r && r < 56

/-- How the body of an instruction ends: it goes on to the next address, jumps, cannot issue yet, or raises a precise fault
with a code and an address (R162). -/
inductive Done where
  | go (s : State)
  | jump (s : State) (pc : Nat)
  | stall
  | fault (code addr : Nat)
deriving DecidableEq, Repr

/-- The issue orders of Table 03-4. -/
def orderOf : Nat → List StreamId
  | 0 => [.F, .B, .U]
  | 1 => [.F, .U, .B]
  | 2 => [.B, .U, .F]
  | 3 => [.B, .F, .U]
  | 4 => [.U, .B, .F]
  | _ => [.U, .F, .B]

/-- The number of an issue order. -/
def orderNum (l : List StreamId) : Nat := ((upto 6).find? (fun n => orderOf n == l)).getD 0

/-- The issue order in force for a shared unit of a core (R89). -/
def unitOrder (s : State) (l unit : Nat) : Nat :=
  let w := rd s (CORE_ISSUE l)
  if getf w CORE_ISSUE_rotate = 2 then smGet (getf w CORE_ISSUE_order) (coreOf s l).orders unit
  else getf w CORE_ISSUE_order_active

/-- Which of the contending streams a unit accepts (R88). -/
def winner (order : Nat) (cs : List StreamId) : Option StreamId := (orderOf order).find? (fun t => cs.contains t)

/-- In mode 2 the winner of a contended cycle moves to the end of its unit's order (R89). -/
def afterContention (s : State) (l unit : Nat) (t : StreamId) : State :=
  if rdf s (CORE_ISSUE l) CORE_ISSUE_rotate = 2 then
    let o := orderOf (unitOrder s l unit)
    let n := orderNum (o.filter (· ≠ t) ++ [t])
    modCore s l (fun c => { c with orders := smSet c.orders unit n })
  else s

/-- The number of ways of a slice that serve as window storage. -/
def windowWays (s : State) (sl : Nat) : Nat := rdf s (VRG_SLICE_CFG sl) VRG_SLICE_CFG_window_active

/-- The ways that a window change has in transition answer as ways beyond the window (R272). -/
def windowOk (s : State) (sl off : Nat) : Bool :=
  let n := windowWays s sl
  let w := rd s (VRG_SLICE_CFG sl)
  let n' := if getb w VRG_SLICE_CFG_busy then min n (getf w VRG_SLICE_CFG_window_ways) else n
  decide (off / 2 ^ 20 < n')

/-- Whether instructions, constants and descriptors may be read at [a, a + n): user stack memory, or pinned window storage
(R99, R271); the address of a global form that names this device is its local part (R45). -/
def roReadable (s : State) (a0 n : Nat) : Bool :=
  let a := localForm s a0
  rangeOk .core a n &&
  (match regionOf a with
   | .user => true
   | .window sl o => windowOk s sl o && windowOk s sl (o + n - 1)
   | _ => false)

/-- The next pc (48 bits, R86). DEDUCED: notes/assumptions/20. -/
def pcAfter (pc : Nat) : Nat := (pc + 8) % 2 ^ 48

/-- The stream's predicate, inverted under pneg (R128). -/
def predHolds (st : Stream) (x : Insn) : Bool := (st.reg (48 + x.pred.toNat) == 1) != x.pneg

/-- The streams that contend with `x` for its unit in this cycle: those named, other than its own, that are running. -/
def contenders (s : State) (x : Insn) : List StreamId :=
  x.rivals.filter (fun t => t ≠ x.stream && (strOf s x.core t).st == .running)

/-- Whether the last fill of the instruction line at an address brought no data (R99, R277). -/
def fetchFails (s : State) (l pc : Nat) : Bool := (coreOf s l).roFailed.contains (.instr, pc / 256)

/-- The record of a fill that brought no data is used up: the read that met it has faulted. -/
def clearFailed (s : State) (l : Nat) (k : RoKind) (line : Nat) : State :=
  modCore s l (fun c => { c with roFailed := c.roFailed.filter (· ≠ (k, line)) })

/-- What issuing does for a stream that runs (R87 to R89, R124 to R130, R163). -/
def issueRun (s : State) (x : Insn) (unit : Option Nat) (legal : Bool) (body : State → Stream → Done) : State :=
  let l := x.core
  let t := x.stream
  let st := strOf s l t
  if fetchFails s l st.pc then coreFault (clearFailed s l .instr (st.pc / 256)) l t 0x04 (BitVec.ofNat 64 st.pc)
  else if !roReadable s st.pc 8 then coreFault s l t 0x04 (BitVec.ofNat 64 st.pc)
  else if !legal then coreFault s l t 0x01 (BitVec.ofNat 64 st.pc)
  else if !predHolds st x then setStr s l t { st with pc := pcAfter st.pc }
  else
    let cs := contenders s x
    let won := match unit with
      | none => true
      | some n => winner (unitOrder s l n) (t :: cs) == some t
    if !won then s
    else
      let next (s1 : State) (pc : Nat) : State :=
        let s2 := modStr s1 l t (fun z => { z with pc := pc })
        match unit with
        | some n => if cs = [] then s2 else afterContention s2 l n t
        | none => s2
      match body s st with
      | .go s1 => next s1 (pcAfter st.pc)
      | .jump s1 pc => next s1 pc
      | .stall => s
      | .fault code addr => coreFault s l t code (BitVec.ofNat 64 addr)

/-- An instruction of a stream that a sibling's fault halts in the very cycle in which it is offered (R163): where it would fault, it
does, and the fault address is that of the first faulting stream in the order F, B, U; where it would not, the stream halts without
issuing it. -/
def issueTied (s : State) (x : Insn) (unit : Option Nat) (legal : Bool) (body : State → Stream → Done) : State :=
  let l := x.core
  let t := x.stream
  let s1 := issueRun (modStr s l t (fun z => { z with st := .running, cause := .none })) x unit legal body
  if (strOf s1 l t).cause ≠ .fault then s
  else match (coreOf s l).faultBy with
    | some u =>
      if strNum t < strNum u then s1
      else modCore (wr s1 (CORE_FAULT_ADDR l) (rd s (CORE_FAULT_ADDR l))) l (fun c => { c with faultBy := some u })
    | none => s1

/-- An instruction offered by a stream (R87, R88, R124 to R130, R163): nothing happens unless the stream runs, its core's
clock does (R114, R502) and no guaranteed slot holds its foreground work (R67); a stream that a sibling's fault halts in this
very cycle still meets its own (R163); a pc outside the fetchable regions, or in a line whose fill brought no data, faults; an undefined or malformed word faults; a suppressed instruction only advances the pc; a
stream that loses the arbitration of its shared unit stalls; then the body.
DEDUCED: notes/assumptions/5, 26; DESIGN CHOICE: notes/assumptions/6. -/
def issueInsn (s : State) (x : Insn) (unit : Option Nat) (legal : Bool) (body : State → Stream → Done) : State :=
  let l := x.core
  let t := x.stream
  let st := strOf s l t
  if x.tied ∧ st.st = .halting ∧ st.cause = .sibling then issueTied s x unit legal body
  else if st.st ≠ .running ∨ (coreOf s l).held ∨ clockStopped s l = true ∨ heldBySlot s l = true then s
  else issueRun s x unit legal body

/-- The illegal-operand fault (0x02): its address is the instruction's. -/
def badOperand (st : Stream) : Done := .fault 0x02 st.pc

/-- Write a register and go on. -/
def goReg (s : State) (x : Insn) (r : Nat) (w : Word) : Done := .go (modStr s x.core x.stream (·.setReg r w))

/-- A jump to a 64-bit address (R132): a misaligned target and one beyond 48 bits fault at the jump. A target that is both faults
as misaligned, the model's choice, since R163 does not place that fault in its order. DESIGN CHOICE: notes/assumptions/103;
DEDUCED: notes/assumptions/20. -/
def jumpTo (s : State) (target : Nat) : Done :=
  if target % 8 ≠ 0 then .fault 0x03 target
  else if target ≥ 2 ^ 48 then .fault 0x04 target
  else .jump s target

/-- A branch target: pc + 8 × off36, within the 48-bit pc (R131). -/
def branchTarget (st : Stream) (x : Insn) : Nat := wrapN 48 ((st.pc : Int) + 8 * x.imm)

/-! ### Stream counters -/

/-- Whether a stream's counter wait is satisfied. -/
def waitDone (c : CoreSt) (x : Stream) : Bool :=
  match x.wait with
  | some (e, v) => decide (smGet 0 c.ctrs e ≥ v)
  | none => false

/-- Streams whose counter wait is satisfied run again (Table 03-6). -/
def wakeStreams (c : CoreSt) : CoreSt :=
  let f (x : Stream) : Stream := if x.st = .waiting ∧ waitDone c x = true then { x with st := .running, wait := none } else x
  { c with f := f c.f, b := f c.b, u := f c.u }

/-- Raise a stream counter (R90): it saturates at 0xFFFF, and one that would pass it sets its bit. -/
def raiseCtr (s : State) (l e n : Nat) : State :=
  let v := smGet 0 (coreOf s l).ctrs e + n
  let s1 := modCore s l (fun c => wakeStreams { c with ctrs := smPut 0 c.ctrs e (min v 0xFFFF) })
  if v > 0xFFFF then
    let w := rd s1 (CORE_STATUS l)
    wr s1 (CORE_STATUS l) (w ||| BitVec.ofNat 64 (2 ^ (56 + e)))
  else s1

/-- Whether the streams of a core are deadlocked (R93): none runs, and nothing outstanding can raise a counter. -/
def deadlocked (s : State) (l : Nat) : Bool :=
  let c := coreOf s l
  allStreams.all (fun t => (c.str t).st != .running) &&
  c.descs.all (fun d => d.dead || d.ctr.isNone) && c.maints.all (fun m => m.ctr.isNone) &&
  c.kcmds.all (fun k => k.2.2.isNone) && c.incs.isEmpty

/-- Streams that wait on a counter that nothing can raise halt with cause deadlock (R93, Table 04-11). Of several deadlocked
streams the first in the order F, B, U gives CORE_FAULT_ADDR, and each raises the core-fault source once: the model's choices.
DEDUCED: notes/assumptions/25; DESIGN CHOICE: notes/assumptions/103. -/
def deadlockCheck (s : State) (l : Nat) : State :=
  if deadlocked s l then
    let stuck := allStreams.filter (fun t => (strOf s l t).st == .waiting && (strOf s l t).wait.isSome)
    match stuck with
    | [] => s
    | t :: _ =>
      let a := BitVec.ofNat 64 (((strOf s l t).pc + 2 ^ 48 - 8) % 2 ^ 48)
      let s1 := wr s (CORE_FAULT_ADDR l) a
      stuck.foldl (fun s t => raiseEvent (haltStream s l t .deadlock 0x21) (32 + clusterOf l)) s1
  else s

/-- A command that names a logical core. -/
def onCore (l : Nat) (s : State) : Out := onlyIf (decide (l < numCores)) s

end Sys2Proof.Machine
end

