-- ==== Sys2Proof/Machine/Verge.lean ====
section
/-! DEFINITION. The Verge slices (R264 to R277): lines, sectors, replacement, reductions and their way through the keepers
(R269, R309, R352), what the ECC and the waybills of stored sectors give (R458 to R462), and the raw reads and writes of a sector.
DEDUCED: notes/assumptions/42. -/

namespace Sys2Proof.Machine

/-- A slice. -/
def sliceOf (s : State) (i : Nat) : Slice := smGet {} s.slices i
/-- Put a slice. -/
def setSlice (s : State) (i : Nat) (x : Slice) : State := { s with slices := smPut {} s.slices i x }
/-- An engine. -/
def engOf (s : State) (k : Nat) : Engine := smGet {} s.engines k
/-- Put an engine. -/
def setEng (s : State) (k : Nat) (e : Engine) : State := { s with engines := smPut {} s.engines k e }
/-- Change an engine. -/
def modEng (s : State) (k : Nat) (f : Engine → Engine) : State := setEng s k (f (engOf s k))

/-- The line of a slice, if present. -/
def findLine (s : State) (l : Nat) : Option VLine := (sliceOf s (sliceOfLine l)).lines.find? (fun v => v.line == l)

/-- Put a line of a slice in place of the one of its number. -/
def putLine (s : State) (v : VLine) : State :=
  let i := sliceOfLine v.line
  let sl := sliceOf s i
  setSlice s i { sl with lines := sl.lines.map (fun w => if w.line = v.line then v else w) }

/-- Take a line out of its slice. -/
def dropLine (s : State) (l : Nat) : State :=
  let i := sliceOfLine l
  let sl := sliceOf s i
  setSlice s i { sl with lines := sl.lines.filter (fun w => w.line ≠ l) }

/-- A line becomes the most recently used of its slice. -/
def touchLine (s : State) (l : Nat) : State :=
  let i := sliceOfLine l
  let sl := sliceOf s i
  setSlice s i { sl with lines := sl.lines.filter (fun w => w.line == l) ++ sl.lines.filter (fun w => w.line != l) }

/-- A sector of a line in Verge, if it holds something (R265). -/
def findSector (s : State) (sec : Nat) : Option Sector :=
  match findLine s (sec / 8) with
  | some v => smFind? v.secs (sec % 8)
  | none => none

/-- Set a sector of a present line; what is put is sound. -/
def putSector (s : State) (sec : Nat) (x : Sector) : State :=
  match findLine s (sec / 8) with
  | some v => putLine s { v with secs := smSet v.secs (sec % 8) x, flaws := smErase v.flaws (sec % 8) }
  | none => s

/-- A sector of a present line becomes invalid. -/
def invSector (s : State) (sec : Nat) : State :=
  match findLine s (sec / 8) with
  | some v => putLine s { v with secs := smErase v.secs (sec % 8), flaws := smErase v.flaws (sec % 8) }
  | none => s

/-- The global number of the pseudo-channel of a sector (R34). -/
def gpcOf (sec : Nat) : Nat := stackOfLine (sec / 8) * 32 + pcOfLine (sec / 8)

/-! ### What stands in the stacks -/

/-- Where a sector of the stacks stands: the global number of its pseudo-channel and the byte within that (R34, R36, R264, R473). -/
def placeOf (s : State) (sec : Nat) : Nat × Nat :=
  let a := if sec * 256 < userEnd then dramAddr s (sec * 256) else sec * 256
  if a < userEnd then (gpcOf sec, locOfLine (sec / 8) * 2048 + sec % 8 * 256)
  else
    let o := a - reserveBase
    (o / 0x80000000 * 32 + o / 0x4000000 % 32, 0x7C000000 + o % 0x4000000)

/-- The die of a byte of a pseudo-channel (R34): the four dies of its group hold 512 MiB of it each, in ascending order.
DESIGN CHOICE: notes/assumptions/111. -/
def dieOf (gpc byte : Nat) : Nat := gpc % 32 / 8 + 4 * (byte / 0x20000000)

/-- Whether a sector's bytes are on a lost pseudo-channel (R472, R474), a relocated line's where it stands now. -/
def onLostPc (s : State) (sec : Nat) : Bool :=
  (s.mem.lostPcs != [] && s.mem.lostPcs.contains (placeOf s sec).1) ||
  (s.mem.gone.contains (gpcOf sec) && decide (sec * 256 < userEnd) && !s.mem.rebuilt.contains sec)

/-- The flaw of a sector of the stacks or of the window storage. -/
def flawOf (s : State) (sec : Nat) : Flaw := smGet {} s.mem.flaws sec

/-- Put the flaw of a sector of the stacks or of the window storage. -/
def setFlaw (s : State) (sec : Nat) (f : Flaw) : State := modMem s (fun m => { m with flaws := smPut {} m.flaws sec f })

/-- The flaw of a sector's copy in Verge. -/
def flawV (s : State) (sec : Nat) : Flaw :=
  match findLine s (sec / 8) with
  | some v => smGet {} v.flaws (sec % 8)
  | none => {}

/-- Put the flaw of a sector's copy in Verge. -/
def setFlawV (s : State) (sec : Nat) (f : Flaw) : State :=
  match findLine s (sec / 8) with
  | some v => putLine s { v with flaws := smPut {} v.flaws (sec % 8) f }
  | none => s

/-- The count of corrected errors in an ECC outcome. -/
def eccCorrected : Ecc → Nat
  | .corrected n => n
  | _ => 0

/-- The symbols of a codeword that a die's dead lanes leave as erasures (R460, R471): those of its failed data lanes, replaced by no
spare or by one that has failed. -/
def deadSymbols (s : State) (gpc die : Nat) : List Nat :=
  ((s.rep.tsvFailed.filter (fun l => l.1 == gpc && l.2.1 == die && decide (l.2.2 < 64))).map (fun l => l.2.2 / 2)).dedup

/-- The symbols in error of a codeword beyond the erasures. -/
def errsBeyond (dead errs : List Nat) : List Nat := (errs.filter (fun i => decide (i < 36) && !dead.contains i)).dedup

/-- What the stack ECC makes of a sector with these errors (R460): its four codewords are each good while e + 2t ≤ 4, and data from a
wrong place fail. A correction of erasures alone is none that is counted. -/
def stackEcc (s : State) (sec : Nat) (errs : List (List Nat)) (astray : Bool) : Ecc :=
  let (gpc, byte) := placeOf s sec
  let dead := deadSymbols s gpc (dieOf gpc byte)
  let ts := (errs.take 4).map (fun e => (errsBeyond dead e).length)
  if astray || decide (4 < dead.length) || ts.any (fun t => decide (4 < dead.length + 2 * t)) then .uncorrectable
  else
    let n := ts.countP (fun t => decide (0 < t))
    if n = 0 then .clean else .corrected n

/-- What Verge ECC makes of a sector with these errors (R461): its eight codewords are each good with one symbol in error. -/
def vergeEcc (errs : List (List Nat)) : Ecc :=
  let ts := (errs.take 8).map (fun e => e.dedup.length)
  if ts.any (fun t => decide (1 < t)) then .uncorrectable
  else
    let n := ts.countP (fun t => decide (0 < t))
    if n = 0 then .clean else .corrected n

/-- What the ECC of its storage makes of a sector in DRAM or in the window storage as it stands. -/
def eccOf (s : State) (sec : Nat) : Ecc :=
  let f := flawOf s sec
  match regionOf (sec * 256) with
  | .window _ _ => vergeEcc f.errs
  | _ => stackEcc s sec f.errs f.astray

/-- Whether the waybill held with some data is theirs (R457, R458). -/
def billOk (f : Flaw) (d : List Byte) : Bool := match f.bill with
  | none => true
  | some w => w.toNat == crc32c d

/-- The bytes that DRAM or the window storage holds for a sector. -/
def storedRead (s : State) (sec : Nat) : List Byte :=
  if sec * 256 < userEnd then dramRead s sec else memRead s.mem (sec * 256) 256

/-- Whether a sector waits for its repair, or would go there when it is read (R458, R460, R462). -/
def sectorFlawed (s : State) (sec : Nat) : Bool :=
  s.mem.broken.contains sec ||
  (smHas s.mem.flaws sec && (eccOf s sec == .uncorrectable || !billOk (flawOf s sec) (storedRead s sec)))

/-- Whether Verge holds the data of a sector. -/
def inVerge (s : State) (sec : Nat) : Bool :=
  match findSector s sec with
  | some x => x.st != .dead
  | none => false

/-- Whether no read of DRAM gives the bytes of a sector that Verge does not hold: poisoned, lost, or beyond its ECC or waybill. -/
def sectorGone (s : State) (sec : Nat) : Bool := !inVerge s sec && (poisoned s sec || onLostPc s sec || sectorFlawed s sec)

/-- The bytes held for a sector: those of Verge where it holds data, of DRAM otherwise. -/
def rawSector (s : State) (sec : Nat) : List Byte :=
  match findSector s sec with
  | some x => if x.st = .dead then dramRead s sec else x.data
  | none => dramRead s sec

/-- The bytes held for [a, a + n) of user stack memory, sector by sector. -/
def rawBytes (s : State) (a n : Nat) : List Byte :=
  if n = 0 then [] else
  let f := a / 256
  let l := (a + n - 1) / 256
  (((upto (l + 1 - f)).map (fun i => rawSector s (f + i))).flatten.drop (a % 256)).take n

/-- The number of elements of a shard. -/
def Shard.n (x : Shard) : Nat := x.rows * x.cols

/-- The bytes of a shard's gradient buffer (Table 09-2). -/
def Shard.gradLen (x : Shard) : Nat := if x.gradBf16 then 2 * x.n else 4 * x.n

/-- The class of data of Table 14-3 that holds a sector, with the engine, the shard and the lease concerned. -/
inductive SecClass where
  | workingSet (eng idx set : Nat)
  | replica (eng lease : Nat)
  | master (eng idx : Nat)
  | moments (eng idx : Nat)
  | gradient
  | reserve
  | other
deriving DecidableEq, Repr

/-- Round up to the next multiple of 256. -/
def up256 (n : Nat) : Nat := (n + 255) / 256 * 256

/-- The offsets of the parts of a working set and its end (Table 09-2): forward BF16, transposed BF16, forward MXFP8,
transposed MXFP8. -/
def Shard.setParts (x : Shard) : List Nat :=
  let o1 := up256 (2 * x.n)
  let o2 := o1 + (if x.transp then up256 (2 * x.n) else 0)
  let o3 := o2 + (if x.fp8 then up256 (x.n + x.rows * ((x.cols + 31) / 32)) else 0)
  let o4 := o3 + (if x.fp8 && x.transp then up256 (x.n + x.cols * ((x.rows + 31) / 32)) else 0)
  [0, o1, o2, o3, o4]

/-- The bytes of a working set. -/
def Shard.setLen (x : Shard) : Nat := x.setParts.getLast?.getD 0

/-- The bytes of the moment area (Table 09-2). -/
def Shard.momLen (x : Shard) : Nat := if x.q8 then 2 * x.n + 4 * ((x.n + 63) / 64) else 8 * x.n

/-- Whether an address lies in [base, base + len), base nonzero. -/
def within (a base len : Nat) : Bool := base != 0 && decide (base ≤ a) && decide (a < base + len)

/-- The class of a sector of user stack memory (R464). -/
def classOf (s : State) (a : Nat) : SecClass :=
  let shards := s.engines.flatMap (fun e => e.2.shards.map (fun p => (e.1, p.1, p.2)))
  let leases := s.engines.flatMap (fun e => e.2.leases.map (fun p => (e.1, p.1, p.2)))
  let hit (f : Shard → Bool) : Option (Nat × Nat × Shard) := shards.find? (fun t => f t.2.2)
  match hit (fun x => !x.replica && (within a x.set0 x.setLen || within a x.set1 x.setLen)) with
  | some (e, i, x) => .workingSet e i (if within a x.set0 x.setLen then 0 else 1)
  | none =>
  match leases.find? (fun t => t.2.2.holder == selfId s && !t.2.2.revoked &&
      within a t.2.2.replica t.2.2.len) with
  | some (e, i, _) => .replica e i
  | none =>
  match hit (fun x => !x.replica && within a x.master (4 * x.n)) with
  | some (e, i, _) => .master e i
  | none =>
  match hit (fun x => !x.replica && within a x.moments x.momLen) with
  | some (e, i, _) => .moments e i
  | none =>
  if shards.any (fun t => within a t.2.2.grad t.2.2.gradLen || within a t.2.2.residual (2 * t.2.2.n)) then .gradient
  else if (regionOf a).kind == .reserve then .reserve else .other

/-- The set that holds the current version of a shard (R299). -/
def Shard.curSet (x : Shard) : Nat := if x.twoSets ∧ x.version % 2 = 1 then x.set1 else x.set0

/-- Forward BF16 element i of the current version; none while there is no version, or where that copy fails too (Table 14-3). -/
def copyElem (s : State) (x : Shard) (i : Nat) : Option Fp :=
  let a := x.curSet + 2 * i
  if x.version = 0 ∨ sectorGone s (a / 256) then none else some (decodeFp fBF16 (leNat (rawBytes s a 2)))

/-- FP32 master element i of a shard: as stored, or, where its sector is lost, rebuilt from its forward BF16 copy (R474). -/
def masterElem (s : State) (x : Shard) (i : Nat) : Fp :=
  let a := x.master + 4 * i
  let stored := decodeFp fFP32 (leNat (rawBytes s a 4))
  if sectorGone s (a / 256) then (copyElem s x i).getD stored else stored

/-- Whether element i of a master can neither be read nor be rebuilt (R465, Table 14-3). -/
def masterFails (s : State) (x : Shard) (i : Nat) : Bool :=
  let sec := (x.master + 4 * i) / 256
  sectorGone s sec && (poisoned s sec || (copyElem s x i).isNone)

/-- The element that byte o of a working set belongs to (Table 09-2, R318); past the codes of an MXFP8 copy, the first of its scale's
run. -/
def Shard.setElem (x : Shard) (o : Nat) : Nat :=
  let p := x.setParts
  let (o1, o2, o3) := (p.getD 1 0, p.getD 2 0, p.getD 3 0)
  let el (t : Bool) (j0 : Nat) : Nat := let j := min j0 (x.n - 1); if t then j % x.rows * x.cols + j / x.rows else j
  let mx (t : Bool) (o : Nat) : Nat :=
    let c := if t then x.rows else x.cols
    let nb := (c + 31) / 32
    el t (if o < x.n then o else (o - x.n) / nb * c + 32 * ((o - x.n) % nb))
  if o < o1 then el false (o / 2)
  else if o < o2 then el true ((o - o1) / 2)
  else if o < o3 then mx false (o - o2)
  else mx true (o - o3)

/-- The byte at offset `o` of the working set that a master of elements `m` gives (R318, Table 09-2): BF16 copies to nearest even,
MXFP8 copies per run of 32 elements along their own rows, nearest even, saturating. -/
def setByteOf (m : Nat → Fp) (x : Shard) (o : Nat) : Byte :=
  let p := x.setParts
  let el (t : Bool) (j : Nat) : Fp := if t then m (j % x.rows * x.cols + j / x.rows) else m j
  let bf (t : Bool) (o : Nat) : Byte :=
    if o / 2 < x.n then
      BitVec.ofNat 8 ((encodeFp fBF16 .rne false (el t (o / 2))).1 / 256 ^ (o % 2))
    else 0
  let mx (t : Bool) (o : Nat) : Byte :=
    let c := if t then x.rows else x.cols
    let nb := (c + 31) / 32
    let blk (row b : Nat) : Nat × List (Nat × Bool) :=
      encodeBlock 2 ((upto (min 32 (c - 32 * b))).map (fun j => (el t (row * c + 32 * b + j), Rmode.rne)))
    if o < x.n then
      let row := o / c
      let col := o % c
      BitVec.ofNat 8 (((blk row (col / 32)).2.map (·.1)).getD (col % 32) 0)
    else if o - x.n < x.n / c * nb then BitVec.ofNat 8 (blk ((o - x.n) / nb) ((o - x.n) % nb)).1
    else 0
  let o1 := p.getD 1 0
  let o2 := p.getD 2 0
  let o3 := p.getD 3 0
  if o < o1 then bf false o
  else if o < o2 then bf true (o - o1)
  else if o < o3 then mx false (o - o2)
  else mx true (o - o3)

/-- The byte at offset `o` of the working set that the master gives. -/
def setByte (s : State) (x : Shard) (o : Nat) : Byte := setByteOf (masterElem s x) x o

/-- The repair of a sector by its class (Table 14-3): the restored bytes, or `none` where it is poisoned. The source copies
are read as they stand; `alt` is the data that another copy gave, where the class asks for it (R319, R320). A working set whose master
can be neither read nor rebuilt is poisoned with it. -/
def repairData (s : State) (sec : Nat) (alt : Option (List Byte)) : Option (List Byte) :=
  let a := sec * 256
  match classOf s a with
  | .workingSet e i set =>
    match smFind? (engOf s e).shards i with
    | some x =>
      let base := if set = 0 then x.set0 else x.set1
      let cur := if x.twoSets then x.version % 2 else 0
      if set ≠ cur ∧ alt ≠ none then alt
      else if (((upto 256).map (fun j => x.setElem (a - base + j))).dedup).any (masterFails s x) then none
      else some ((upto 256).map (fun j => setByte s x (a - base + j)))
    | none => none
  | .replica _ _ => alt
  | .master e i =>
    match smFind? (engOf s e).shards i with
    | some x =>
      let es := (upto 64).map (fun j => copyElem s x ((a - x.master) / 4 + j))
      if es.any (·.isNone) then none else some (es.flatMap (fun e => bytesOf 4 (to32 (e.getD (.fin false 0 0)))))
    | none => none
  | .moments e i =>
    match smFind? (engOf s e).shards i with
    | some x =>
      -- the blocks whose codes, values or scales lie in the sector are zeroed with it
      some (List.replicate 256 (0 : Byte))
    | none => none
  | .gradient => some (List.replicate 256 0)
  | .reserve => some (List.replicate 256 0)
  | .other => none

/-- The number of a class in row order from 1 (R481). -/
def SecClass.num : SecClass → Nat
  | .workingSet _ _ _ => 1
  | .replica _ _ => 2
  | .master _ _ => 3
  | .moments _ _ => 4
  | .gradient => 5
  | .reserve => 6
  | .other => 7

/-- A write-back or keeper write of a whole sector to DRAM: discarded and marked in the loss map on a lost pseudo-channel
(R474); on one retired without migration the sector is good again from then on (R472). DEDUCED: notes/assumptions/57. -/
def dramStore (s : State) (sec : Nat) (d : List Byte) : State :=
  if s.mem.gone.contains (gpcOf sec) && decide (sec * 256 < userEnd) && !s.mem.rebuilt.contains sec then
    let s1 := dramWrite s sec d
    { s1 with mem := { s1.mem with rebuilt := s1.mem.rebuilt ++ [sec] } }
  else if onLostPc s sec then
    { s with mem := { s.mem with lossMap := if s.mem.lossMap.contains sec then s.mem.lossMap else s.mem.lossMap ++ [sec] } }
  else dramWrite s sec d

/-- A sector waits for its repair. -/
def breakSector (s : State) (sec : Nat) : State :=
  modMem s (fun m => { m with broken := if m.broken.contains sec then m.broken else m.broken ++ [sec] })

/-- Whether a sector that leaves Verge for DRAM is good (R458, R461, R462), with what is counted: a waybill that fails once is read
again. -/
def writeBackOk (s : State) (sec : Nat) (d : List Byte) : Bool × State :=
  let f := flawV s sec
  if f = {} then (true, s)
  else match vergeEcc f.errs with
    | .uncorrectable => (false, count s REP_COUNT_1 REP_COUNT_1_uncorrectable)
    | e =>
      let s1 := count s REP_COUNT_1 REP_COUNT_1_verge_corrected (eccCorrected e)
      if f.once then (true, count (setFlawV s1 sec { f with once := false }) REP_COUNT_0 REP_COUNT_0_wb_reread)
      else if billOk f d then (true, s1) else (false, count s1 REP_COUNT_0 REP_COUNT_0_wb_mismatch)

/-- Write back a sector if it is dirty; it becomes clean. One that fails its check goes to the repair path (R458, R462). -/
def cleanSector (s : State) (sec : Nat) : State :=
  match findSector s sec with
  | some x =>
    if x.st = .dirty then
      let (ok, s1) := writeBackOk s sec x.data
      if !ok then invSector (breakSector s1 sec) sec
      else match findLine s1 (sec / 8) with
        | some v => putLine (dramStore s1 sec x.data) { v with secs := smSet v.secs (sec % 8) { x with st := .clean } }
        | none => s1
    else s
  | none => s

/-- Write back every dirty sector of a line. -/
def cleanLine (s : State) (l : Nat) : State := (upto 8).foldl (fun s i => cleanSector s (l * 8 + i)) s

/-- A sector as DRAM gives it: nothing when it is poisoned, rebuilt at each read on a lost pseudo-channel (R463, R474). -/
def dramGet (s : State) (sec : Nat) : Option (List Byte) :=
  if poisoned s sec then none
  else if onLostPc s sec then repairData s sec none
  else some (dramRead s sec)

/-- The contents a reader would find now: the Verge sector where it holds data, DRAM otherwise; a lost sector as its repair gives it. -/
def peekSector (s : State) (sec : Nat) : List Byte :=
  if !inVerge s sec && onLostPc s sec then (repairData s sec none).getD (rawSector s sec) else rawSector s sec

/-- The bytes [a, a + n) of user stack memory as a reader would find them now, sector by sector. -/
def peek (s : State) (a n : Nat) : List Byte :=
  if n = 0 then [] else
  let f := a / 256
  let l := (a + n - 1) / 256
  (((upto (l + 1 - f)).map (fun i => peekSector s (f + i))).flatten.drop (a % 256)).take n

/-- The 64-bit word at an address of user stack memory. -/
def peekWord (s : State) (a : Nat) : Word := BitVec.ofNat 64 (leNat (peek s a 8))

/-! ### Reductions on their way to the keepers -/

/-- Pieces of a byte list that each lie within one 256-byte sector: (address, bytes). -/
def sectorPieces : Nat → Nat → List Byte → List (Nat × List Byte)
  | 0, _, _ => []
  | _ + 1, _, [] => []
  | fuel + 1, a, d =>
    let n := 256 - a % 256
    (a, d.take n) :: sectorPieces fuel (a + n) (d.drop n)

/-- The open shard or replica record whose gradient buffer holds an address: its engine, its index and itself (R309). -/
def shardOfGrad (s : State) (a : Nat) : Option (Nat × Nat × Shard) :=
  (s.engines.flatMap (fun e => e.2.shards.map (fun p => (e.1, p.1, p.2)))).find?
    (fun t => decide (t.2.2.grad ≤ a) && decide (a < t.2.2.grad + t.2.2.gradLen))

/-- The element size of a reduction type in bytes (R269). -/
def opBytes (op : Nat) : Nat := if op = 1 then 4 else 2

/-- The GRAD.CLOSEs of a shard that its engine has accepted and not yet run. -/
def closesQueued (e : Engine) (i : Nat) (x : Shard) : Nat :=
  e.cmds.countP (fun c => c.op == 5 && c.phase == .queued && bitsN c.handle 9 0 == i && bitsN c.handle 31 16 == x.gen)

/-- The clears that sums accepted now for a sector wait for, with the gradient buffer concerned (R310): one for the buffer closed for a
step, and one for every GRAD.CLOSE accepted and not yet run. -/
def sectorClosed (s : State) (sec : Nat) : Nat × Nat :=
  match shardOfGrad s (sec * 256) with
  | some (k, i, sh) =>
    let n := (if sh.closed then 1 else 0) + closesQueued (engOf s k) i sh
    if n = 0 then (0, 0) else (n, sh.grad)
  | none => (0, 0)

/-- The pushes that a reduction-pending line makes (R309, R310): the partials of its open sectors for the push buffer, those of
sectors of each closed buffer for the hold list. -/
def pushesOf (s : State) (l : Nat) (r : Partials) : List Push :=
  let shut := (upto 8).map (fun i => sectorClosed s (l * 8 + i))
  let part (b : Nat × Nat) : List Push :=
    let es := r.elems.filter (fun e => shut.getD (e.1 * opBytes r.op / 256) (0, 0) == b)
    if es = [] ∧ (b ≠ (0, 0) ∨ r.elems ≠ []) then [] else [⟨l, { r with elems := es }, b.1⟩]
  part (0, 0) ++ ((shut.filter (· ≠ (0, 0))).dedup.flatMap part)

/-- Whether a keeper has room for some pushes (R309, R310): 64 lines in its push buffer, 256 in its hold list. -/
def pushRoom (s : State) (k : Nat) (ps : List Push) : Bool :=
  let n (b : Bool) (l : List Push) : Nat := (l.filter (fun p => (p.held != 0) == b)).length
  let e := engOf s k
  decide (n false e.pushes + n false ps ≤ 64) && (n true ps == 0 || decide (n true e.pushes + n true ps ≤ 256))

/-- Push a reduction-pending line through to its keeper (R269): its dirty sectors are written back, its data given up, the
partials go to the keeper's buffer, in order of age. None while the keeper has no room: the line stays as it is. -/
def pushThrough (s : State) (l : Nat) : Option State :=
  match findLine s l with
  | some v =>
    match v.red with
    | some r =>
      let ps := pushesOf s l r
      if pushRoom s (stackOfLine l) ps then
        let s2 := putLine (cleanLine s l) { v with secs := [], red := none, flaws := [] }
        some (count (modEng s2 (stackOfLine l) (fun e => { e with pushes := e.pushes ++ ps }))
          (VRG_EVENTS_1 (sliceOfLine l)) VRG_EVENTS_1_reduce_through)
      else none
    | none => some s
  | none => some s

/-! ### Allocation -/

/-- The set of its slice that a sector occupies (R265, R271): that of its line, or, for a sector of the pinned window, o[19:11]. -/
def setOfSector (sec : Nat) : Nat :=
  match regionOf (sec * 256) with
  | .window _ o => o / 2048 % 512
  | _ => setOfLine (sec / 8)

/-- The provisional sectors of a set of a slice (R270). -/
def provInSet (sl : Slice) (set : Nat) : Nat := (sl.prov.filter (fun p => setOfSector p.sector == set)).length

/-- The repair ways of a set of a slice (R469): slot r takes sets 64 × (r mod 8) up. -/
def repairInSet (sl : Slice) (set : Nat) : Nat := (sl.repair.filter (fun p => p.1 % 8 == set / 64)).length

/-- The ways of a set that user lines may use now (R268 to R271). -/
def userWays (s : State) (i set : Nat) : Nat :=
  let w := rd s (VRG_SLICE_CFG i)
  let n := max (getf w VRG_SLICE_CFG_window_active)
    (if getb w VRG_SLICE_CFG_busy then getf w VRG_SLICE_CFG_window_ways else 0)
  16 - (n + repairInSet (sliceOf s i) set + provInSet (sliceOf s i) set)

/-- Whether a line may be replaced (R268). -/
def replaceable (sl : Slice) (v : VLine) : Bool :=
  !v.pin && v.red.isNone && !sl.prov.any (fun p => p.sector / 8 == v.line)

/-- The oldest of some reduction-pending lines (R269). -/
def oldestRed (vs : List VLine) : Option VLine :=
  vs.foldl (fun (b : Option VLine) v =>
    match b with
    | none => some v
    | some w => if (v.red.map (·.age)).getD 0 < (w.red.map (·.age)).getD 0 then some v else some w) none

/-- Free a way of a set (R268, R269): the least recently used replaceable line gives way, or the oldest reduction-pending line once
its keeper has accepted its push. None where every line is held. -/
def freeWay (s : State) (i set : Nat) : Option State :=
  let mine := (sliceOf s i).lines.filter (fun v => setOfLine v.line == set)
  match (mine.filter (replaceable (sliceOf s i))).getLast? with
  | some v => some (dropLine (cleanLine s v.line) v.line)
  | none =>
    match oldestRed (mine.filter (fun v => v.red.isSome && !v.pin)) with
    | some v => (pushThrough s v.line).map (dropLine · v.line)
    | none => none

/-- Find or make room for a line (R265, R268, R269): present, in a free way, in place of the least recently used replaceable
line, or in place of the oldest reduction-pending line, which is pushed through. `none` where the set is held or the push
waits. -/
def allocLine (s : State) (l : Nat) : Option State :=
  let i := sliceOfLine l
  let sl := sliceOf s i
  if (findLine s l).isSome then some (touchLine s l)
  else
    let set := setOfLine l
    let mine := sl.lines.filter (fun v => setOfLine v.line == set)
    let add (s : State) : State := let x := sliceOf s i; setSlice s i { x with lines := { line := l } :: x.lines }
    if mine.length < userWays s i set then some (add s) else (freeWay s i set).map add

/-! ### Reads and writes through the slices -/

/-- What a read of a sector gives. -/
inductive VRes where
  | data (d : List Byte)
  | fault
  | poisoned
deriving DecidableEq, Repr

/-- Which kind of agent reads: a requester, a Kerb engine for its own commands, or a slice or keeper completing a write
(R277). -/
inductive Reader where
  | requester | kerb | merger
deriving DecidableEq, Repr

/-- What a keeper's read of a sector gives, without what its checks find. -/
def rawGet (s : State) (sec : Nat) : Option (List Byte) × State := (dramGet s sec, s)

/-- A read of a sector whose line holds no reductions (R265 to R277), with `get` as the read of DRAM: a hit answers; a dead sector is
answered from DRAM and becomes clean, or faults under dead_fault; a miss fills. -/
def readWith (get : State → Nat → Option (List Byte) × State) (s : State) (who : Reader) (noAlloc : Bool) (sec : Nat) : VRes × State :=
  let i := sliceOfLine (sec / 8)
  match findSector s sec with
  | some x =>
    if x.st = .dead then
      let s1 := if who = .merger then s else count s (VRG_EVENTS_0 i) VRG_EVENTS_0_dead_reads
      if who = .requester && rdb s VRG_CTRL VRG_CTRL_dead_fault then (.fault, s1)
      else match get s1 sec with
        | (some d, s2) => (.data d, putSector s2 sec ⟨.clean, d⟩)
        | (none, s2) => (.poisoned, s2)
    else (.data x.data, touchLine s (sec / 8))
  | none =>
    match get s sec with
    | (none, s1) => (.poisoned, s1)
    | (some d, s1) =>
      if noAlloc && (findLine s1 (sec / 8)).isNone then (.data d, s1)
      else match allocLine s1 (sec / 8) with
        | some s2 => (.data d, putSector s2 sec ⟨.clean, d⟩)
        | none => (.data d, s1)

/-- A write of bytes inside one sector whose line holds no reductions (R266), with `get` as the read of DRAM: a whole sector becomes
dirty without a read; a part is merged over what the sector holds. With no line to hold it, it goes to DRAM. -/
def writeWith (get : State → Nat → Option (List Byte) × State) (s : State) (noAlloc : Bool) (a : Nat) (d : List Byte) : State :=
  let sec := a / 256
  let (old, s1) : VRes × State :=
    if d.length = 256 then (.data [], s)
    else match findSector s sec with
      | some x => if x.st = .dead then readWith get s .merger true sec else (.data x.data, s)
      | none => match get s sec with
        | (some o, s1) => (.data o, s1)
        | (none, s1) => (.poisoned, s1)
  match old with
  | .data o =>
    let whole := if d.length = 256 then d else merge o (a % 256) d
    if noAlloc && (findLine s1 (sec / 8)).isNone then dramStore s1 sec whole
    else match allocLine s1 (sec / 8) with
      | some s2 => putSector s2 sec ⟨.dirty, whole⟩
      | none => dramStore s1 sec whole
  | _ => s1

/-! ### Keepers -/

/-- A keeper's write of bytes inside one sector of its own stack: the slice writes back and gives up its copy, the bytes are merged
in DRAM with a fresh waybill (R295, R311). Partials of a reduction-pending line stay as they are. -/
def keeperWriteSector (s : State) (a : Nat) (d : List Byte) : State :=
  let sec := a / 256
  let whole := merge (peekSector s sec) (a % 256) d
  let s1 := invSector (cleanSector s sec) sec
  if poisoned s1 sec && decide (d.length < 256) then s1 else dramStore s1 sec whole

/-- The write of the keeper of stack k inside one sector (R295): its own stack's past the slice, every other through its slice. -/
def keeperPut (s : State) (k a : Nat) (d : List Byte) : State :=
  if stackOfLine (a / 2048) = k then keeperWriteSector s a d else writeWith rawGet s false a d

/-- The live remap table (R352), the one that the last commit put in force: the entry that covers an address, as the new
address. -/
def remapLookup (s : State) (a : Nat) : Option Nat :=
  match s.remap with
  | none => none
  | some (base, n) =>
    ((upto n).map (fun i =>
        let e := base + 32 * i
        ((peekWord s e).toNat, (peekWord s (e + 8)).toNat, (peekWord s (e + 16)).toNat))).findSome?
      (fun t => if t.1 ≤ a ∧ a < t.1 + t.2.1 then some (t.2.2 + (a - t.1)) else none)

/-- The keeper of stack k adds one element of a partial sum into memory with one nearest-even rounding in its own format (R309). -/
def addElemBy (s : State) (k op a : Nat) (v : BitVec 32) : State :=
  let w := if op = 1 then 4 else 2
  let f := if op = 1 then fFP32 else fBF16
  let old := decodeFp f (leNat (peek s a w))
  keeperPut s k a (bytesOf w (encodeFp f .rne false (fadd old (decodeFp f v.toNat))).1)

/-- This device's own share of an owner's FP32 buffer (R314): what its pushes have summed into an element, one nearest-even rounding
per add. -/
def noteOwn (s : State) (op a : Nat) (v : BitVec 32) : State :=
  match shardOfGrad s a with
  | some (k, i, x) =>
    if op != 1 || x.gradBf16 || x.replica then s
    else
      let j := (a - x.grad) / 4
      let new := match smFind? x.own j with
        | some o => BitVec.ofNat 32 (encodeFp fFP32 .rne false (fadd (decodeFp fFP32 o.toNat) (decodeFp fFP32 v.toNat))).1
        | none => v
      modEng s k (fun e => { e with shards := smSet e.shards i { x with own := smSet x.own j new } })
  | none => s

/-- Keeper k applies the partial sums of the elements of one sector of a line to the sector at `to_`. -/
def applySector (s : State) (p : Push) (sec : Nat) (to_ : Nat) : State :=
  let w := opBytes p.part.op
  (p.part.elems.filter (fun e => (p.line * 2048 + e.1 * w) / 256 == sec)).foldl
    (fun s e =>
      let a := to_ + (p.line * 2048 + e.1 * w) % 256
      noteOwn (addElemBy s (stackOfLine p.line) p.part.op a e.2) p.part.op a e.2) s

/-- The sectors of a line that a push touches. -/
def pushSectors (p : Push) : List Nat :=
  (upto 8).map (fun i => p.line * 8 + i) |>.filter
    (fun sec => p.part.elems.any (fun e => (p.line * 2048 + e.1 * opBytes p.part.op) / 256 == sec))

/-- A sector of reduced or contributed data whose epoch is not its shard's (R352): through the live remap table when older,
discarded and counted as lost otherwise. `apply_` adds it at an address. -/
def remapSector (s : State) (older : Bool) (a : Nat) (apply_ : State → Nat → State) : State :=
  match (if older then remapLookup s a else none) with
  | some a' => count (apply_ s a') CMD_REMAP_COUNT CMD_REMAP_COUNT_remapped
  | none => count s CMD_REMAP_COUNT CMD_REMAP_COUNT_lost

/-- A keeper applies a push (R309, R352): with no check outside gradient buffers; with the epoch of the shard whose buffer
holds the line; through the remap path otherwise. -/
def applyPush (s : State) (p : Push) : State :=
  let s1 := count s (KRB_COUNT_0 (stackOfLine p.line)) KRB_COUNT_0_pushes
  (pushSectors p).foldl (fun s sec =>
    match shardOfGrad s (sec * 256) with
    | some (_, _, sh) =>
      if sh.epoch = p.part.epoch then applySector s p sec (sec * 256)
      else remapSector s (decide (p.part.epoch < sh.epoch)) (sec * 256) (fun s a => applySector s p sec a)
    | none => applySector s p sec (sec * 256)) s1

/-- Whether a keeper cannot apply sums to a line before a sector of it is repaired (R458, R462). -/
def lineFlawed (s : State) (l : Nat) : Bool :=
  (s.mem.flaws != [] || s.mem.broken != []) && (upto 8).any (fun i => sectorFlawed s (l * 8 + i) && !inVerge s (l * 8 + i))

/-- Keeper `k` frees the pushes of a gradient buffer that it holds back for one clear more than `lo` (R310). -/
def freeHeld (s : State) (x : Shard) (lo : Nat) : State :=
  let mine (p : Push) : Bool := match p.part.elems with
    | e :: _ => within (p.line * 2048 + e.1 * opBytes p.part.op) x.grad x.gradLen
    | [] => false
  { s with engines := s.engines.map (fun e => (e.1, { e.2 with
      pushes := e.2.pushes.map (fun p => if mine p && decide (lo < p.held) then { p with held := p.held - 1 } else p) })) }

/-- Apply every push of a line that its keeper holds and that is not held back for a closed buffer, in order (R309). -/
def drainPushes (s : State) (l : Nat) : State :=
  let k := stackOfLine l
  let mine := (engOf s k).pushes.filter (fun p => p.line == l && p.held == 0)
  let s1 := modEng s k (fun e => { e with pushes := e.pushes.filter (fun p => !(p.line == l && p.held == 0)) })
  mine.foldl applyPush s1

/-- Whether sums for a line are yet to reach memory. -/
def owesSums (s : State) (l : Nat) : Bool :=
  ((findLine s l).bind (·.red)).isSome || (engOf s (stackOfLine l)).pushes.any (fun p => p.line == l && p.held == 0)

/-- Bring a line's reductions to memory: push it through and apply (R269: an ordinary read or write of a reduction-pending
line). None while the keeper has no room for the push. -/
def settleOnce (s : State) (l : Nat) : Option State := (pushThrough s l).map (drainPushes · l)

/-- The same for a request that can wait: it waits while a sector of the line is to be repaired, and while the keeper's guaranteed slot
is under way (R67). -/
def trySettle (s : State) (l : Nat) : Option State :=
  if owesSums s l && (lineFlawed s l || heldBySlot s (18432 + stackOfLine l)) then none else settleOnce s l

/-- A keeper whose push buffer is full applies the pushes of the line it accepted first. -/
def keeperRoom (s : State) (k : Nat) : State :=
  match (engOf s k).pushes.find? (fun p => p.held == 0) with
  | some p => drainPushes s p.line
  | none => s

/-- Bring a line's reductions to memory for an access that does not wait in the slice: where the push buffer is full, the keeper
first applies what it accepted first. DESIGN CHOICE: notes/assumptions/104. -/
def settleLine (s : State) (l : Nat) : State :=
  match settleOnce s l with
  | some s1 => s1
  | none => (settleOnce (keeperRoom s (stackOfLine l)) l).getD s

/-- A write of bytes of user stack memory whose checks are left to the next read: the logs' own. DESIGN CHOICE: notes/assumptions/104. -/
def rawWrite (s : State) (a : Nat) (d : List Byte) : State :=
  (sectorPieces (d.length + 1) a d).foldl (fun s p => writeWith rawGet (settleLine s (p.1 / 2048)) false p.1 p.2) s

/-- A reduction of elements into a line (R269): pushed through first when the epoch or the type differs; the partials are
summed with one nearest-even rounding per add. None while no way is free or a push finds no room. -/
def vReduce (s : State) (op epoch a : Nat) (d : List Byte) : Option State :=
  let l := lineOf a
  let pushed := match findLine s l with
    | some v => (match v.red with
      | some r => if r.op = op ∧ r.epoch = epoch then some s else pushThrough s l
      | none => some s)
    | none => some s
  match pushed.bind (allocLine · l) with
  | none => none
  | some s2 =>
    match findLine s2 l with
    | none => some s2
    | some v =>
      let i := sliceOfLine l
      let sl := sliceOf s2 i
      let (r, s3) : Partials × State := match v.red with
        | some r => (r, s2)
        | none => (⟨op, epoch, sl.age, []⟩, setSlice s2 i { sl with age := sl.age + 1 })
      let w := if op = 1 then 4 else 2
      let f := if op = 1 then fFP32 else fBF16
      let elems := (elemsOf w d).zipIdx.foldl (fun m (e : Nat × Nat) =>
        let j := a % 2048 / w + e.2
        let new := match smFind? m j with
          | some o => (encodeFp f .rne false (fadd (decodeFp f o.toNat) (decodeFp f e.1))).1
          | none => e.1
        smSet m j (BitVec.ofNat 32 new)) r.elems
      some (putLine s3 { v with red := some { r with elems := elems } })

/-! ### Cluster caches (R257 to R261) -/

/-- The key of a half: 2 × cluster + half. -/
def halfKey (c h : Nat) : Nat := 2 * c + h

/-- A half of a cluster cache. -/
def halfOf (s : State) (k : Nat) : Half := smGet {} s.halves k
/-- Put a half. -/
def setHalf (s : State) (k : Nat) (h : Half) : State := { s with halves := smPut {} s.halves k h }

/-- The physical core that serves a logical core (R25). -/
def physOf (s : State) (l : Nat) : Nat :=
  bits (rd s (REP_CORE_MAP (l / 128) (l % 128 / 8))) (8 * (l % 8) + 7) (8 * (l % 8))

/-- The cluster-cache half of a logical core (R26, R258). -/
def halfOfCore (s : State) (l : Nat) : Nat := if physOf s l < 68 then 0 else 1

/-- Whether the cluster caches hold sectors at this address: user stack memory and the pinned window (R257). -/
def cacheable (a : Nat) : Bool :=
  match regionOf a with
  | .user => true
  | .window _ _ => true
  | _ => false

/-- Install a sector in a half: the least recently used line of a full set gives way (R258). Its waybill comes with it (R38). -/
def cchInstall (s : State) (k sec : Nat) (d : List Byte) (bad : Bool := false) : State :=
  let h := halfOf s k
  let rest := h.lines.filter (fun x => x.sector ≠ sec)
  let same := rest.filter (fun x => x.sector % 256 == sec % 256)
  let rest' := if same.length < 8 then rest
    else match same.getLast? with
      | some v => rest.filter (fun x => x.sector ≠ v.sector)
      | none => rest
  setHalf s k { h with lines := { sector := sec, data := d, bad := bad } :: rest' }

/-- Look a sector up in a half; a hit makes it the most recently used. -/
def cchHit (s : State) (k sec : Nat) : Option (CchLine × State) :=
  let h := halfOf s k
  match h.lines.find? (fun x => x.sector == sec) with
  | some x => some (x, setHalf s k { h with lines := x :: h.lines.filter (fun y => y.sector ≠ sec) })
  | none => none

/-- A write of the cluster updates any copy in either half, and the copy that an outstanding fill will make (R260). -/
def cchUpdate (s : State) (c a : Nat) (d : List Byte) : State :=
  [0, 1].foldl (fun s h =>
    let k := halfKey c h
    let x := halfOf s k
    if x.lines.any (fun y => y.sector == a / 256) || x.misses.any (fun m => m.sector == a / 256) then
      setHalf s k { x with
        lines := x.lines.map (fun y => if y.sector = a / 256 then { y with data := merge y.data (a % 256) d } else y)
        misses := x.misses.map (fun m => if m.sector = a / 256 then { m with writes := m.writes ++ [(a % 256, d)] } else m) }
    else s) s

/-- Invalidate a cluster's copies of a sector in both halves; fills requested before are not installed (R261). -/
def cchInvalidate (s : State) (c sec : Nat) : State :=
  [0, 1].foldl (fun s h =>
    let k := halfKey c h
    let x := halfOf s k
    setHalf s k { x with
      lines := x.lines.filter (fun y => y.sector ≠ sec)
      misses := x.misses.map (fun m => if m.sector = sec then { m with stale := true } else m) }) s

/-- Invalidate a cluster's copies of every sector that satisfies a test, in both halves (R261). -/
def cchInvalidateIf (s : State) (c : Nat) (p : Nat → Bool) : State :=
  [0, 1].foldl (fun s h =>
    let k := halfKey c h
    let x := halfOf s k
    setHalf s k { x with
      lines := x.lines.filter (fun y => !p y.sector)
      misses := x.misses.map (fun m => { m with stale := m.stale || p m.sector }) }) s

/-- Invalidate every line of every cluster cache (R261). -/
def cchInvalidateAll (s : State) : State :=
  { s with halves := (s.halves.map (fun p => (p.1,
      { p.2 with lines := [], misses := p.2.misses.map (fun m => { m with stale := true }) }))).filter (fun p => p.2 ≠ ({} : Half)) }

/-- Invalidate read-only caches of a core by kind (R100); fills requested are discarded, and what they bring only reaches the
cluster cache. -/
def roInvalidateKinds (s : State) (l : Nat) (ks : List RoKind) : State :=
  let drop (r : Req) : Bool := match r.kind with
    | .fill k => r.core == l && ks.contains k
    | _ => false
  modCore { s with reqs := (s.reqs.filter (fun r => !(drop r && r.phase == .fin))).map (fun r =>
      if drop r then { r with kind := .prefetch } else r) } l (fun c => { c with
    ro := c.ro.filter (fun x => !ks.contains x.kind)
    roFailed := c.roFailed.filter (fun x => !ks.contains x.1)
    fills := c.fills.filter (fun x => !ks.contains x.1) })

end Sys2Proof.Machine
end

