-- ==== Sys2Proof/Machine/Logs.lean ====
section
/-! DEFINITION. The log rings of the device: the logbook of chapter 06 (R215, R216) and the repair log of chapter 14 (R481),
and the retirement of physical cores (R466, R470), which writes there. -/

namespace Sys2Proof.Machine

/-- The offset of an event from the stage's milestone, in ns, in 32 bits saturating (R75, Table 06-10). -/
def stageOffset (s : State) : Nat := min (now s - s.mst.opened) 0xFFFFFFFF

/-- A log: the offset of its BASE register; CTRL, HEAD, TAIL and STATUS follow at steps of 8 (R222, R223, R481). -/
structure LogId where
  base  : Nat
  lostT : Nat
  src   : Nat
deriving DecidableEq, Repr

/-- The logbook (Table 06-13). -/
def logbook : LogId := ⟨TEL_LOG_BASE, 4, 8⟩
/-- The repair log (Table 14-8). -/
def repairLog : LogId := ⟨REP_LOG_BASE, 15, 9⟩

/-- The entries a log holds and has not been told are consumed (R215). -/
def logFill (s : State) (g : LogId) : Nat :=
  (rdf s (g.base + 16) TEL_LOG_HEAD_head + 2 ^ 32 - rdf s (g.base + 24) TEL_LOG_TAIL_tail) % 2 ^ 32

/-- Whether a log can take an entry: enabled, room, ring wholly in user stack memory (R215, R222). -/
def logRoom (s : State) (g : LogId) : Bool :=
  let n := 2 ^ rdf s (g.base + 8) TEL_LOG_CTRL_size_log2
  let b := rdf s g.base TEL_LOG_BASE_base * 4096
  rdb s (g.base + 8) TEL_LOG_CTRL_enable && decide (logFill s g ≠ n) && decide (b + n * 32 ≤ userEnd)

/-- Write one entry at the head, then advance the head (R215). -/
def logPut (s : State) (g : LogId) (words : List Word) : State :=
  let n := 2 ^ rdf s (g.base + 8) TEL_LOG_CTRL_size_log2
  let h := rdf s (g.base + 16) TEL_LOG_HEAD_head
  let a := rdf s g.base TEL_LOG_BASE_base * 4096 + h % n * 32
  let s1 := rawWrite s a ((words.map (fun w => bytesOf 8 w.toNat)).flatten)
  count s1 (g.base + 16) TEL_LOG_HEAD_head

/-- Discard an entry: counted as lost, overflow set (R215). -/
def logLose (s : State) (g : LogId) : State :=
  let s1 := countSat s (g.base + 32) TEL_LOG_STATUS_lost
  let s2 := raiseLevel s1 g.src (g.base + 32) TEL_LOG_STATUS_overflow
  let n := min (smGet 0 s2.rep.lostSince g.base + 1) (2 ^ 64 - 1)
  { s2 with rep := { s2.rep with lostSince := smPut 0 s2.rep.lostSince g.base n } }

/-- The first two words of an entry (Table 06-10): type, stage; offset and the low half that names the stream and core, or
the site. -/
def logHead (s : State) (ty low : Nat) : List Word :=
  [BitVec.ofNat 64 (ty * 2 ^ 56 + stageNow s), BitVec.ofNat 64 (stageOffset s * 2 ^ 32 + low)]

/-- Append an entry to a log; after discarded entries, a lost-entries entry comes first (R215). -/
def logAppend (s : State) (g : LogId) (ty low : Nat) (a b : Word) : State :=
  if !logRoom s g then logLose s g
  else
    let lost := smGet 0 s.rep.lostSince g.base
    let s1 := if lost = 0 then s
      else
        let s2 := logPut s g (logHead s g.lostT 0 ++
          (if g.lostT = 4 then [BitVec.ofNat 64 lost, 0] else [0, BitVec.ofNat 64 lost]))
        { s2 with rep := { s2.rep with lostSince := smErase s2.rep.lostSince g.base } }
    if logRoom s1 g then logPut s1 g (logHead s1 ty low ++ [a, b]) else logLose s1 g

/-- Enable a log: head and tail to 0, lost and overflow cleared (R222, R481). Entries discarded while it was off are still told by
a lost-entries entry (R215). -/
def logOpen (s : State) (g : LogId) : State :=
  let s1 := wr (wr (wr s (g.base + 16) 0) (g.base + 24) 0) (g.base + 32) 0
  wrb s1 (g.base + 8) TEL_LOG_CTRL_enable true

/-- Whether one free-running 32-bit count is ahead of another, compared modulo 2^32 (R215). DEDUCED: notes/assumptions/106. -/
def aheadOf (t h : Nat) : Bool :=
  let d := (t + 2 ^ 32 - h) % 2 ^ 32
  decide (0 < d) && decide (d < 2 ^ 31)

/-- A write of the tail; one ahead of the head is set equal to it (R223). -/
def logTail (s : State) (g : LogId) (tail : Nat) : State :=
  let h := rdf s (g.base + 16) TEL_LOG_HEAD_head
  let t := tail % 2 ^ 32
  wrf s (g.base + 24) TEL_LOG_TAIL_tail (if aheadOf t h then h else t)

/-- A site of the repair log (Table 14-7). -/
def repSite (a b c d : Nat) : Nat := a % 256 * 2 ^ 24 + b % 256 * 2 ^ 16 + c % 256 * 256 + d % 256

/-- The logical cores of a cluster that a physical core serves. -/
def servedBy (s : State) (c p : Nat) : List Nat :=
  ((upto 128).map (fun i => c * 128 + i)).filter (fun l => physOf s l == p)

/-- The free spares of a cluster: physical cores that are not retired and serve no logical core (R27, R32). -/
def freeSpares (s : State) (c : Nat) : List Nat :=
  (upto 136).filter (fun p => !s.rep.retired.contains (136 * c + p) && (servedBy s c p).isEmpty)

/-- A retirement is refused (R470): the physical core stays in service, marked suspect; logged, with the repair source raised. -/
def refuseRetire (s : State) (c p : Nat) : State :=
  let id := 136 * c + p
  let s1 := countSat s REP_STATUS REP_STATUS_refused
  let l := (servedBy s c p).headD 0
  let s2 := logAppend s1 repairLog 3 (repSite c p 0 0) (BitVec.ofNat 64 l) 0
  let s3 := { s2 with rep := { s2.rep with suspect := if s2.rep.suspect.contains id then s2.rep.suspect else s2.rep.suspect ++ [id] } }
  raiseEvent s3 17

/-- Ask for the retirement of a physical core at the next milestone (R466): ignored if it is retired already or asked for;
refused when its cluster, with the retirements that are pending there, would have no free spare left for it and more than 32 doubled
pairs (R470). -/
def requestRetire (s : State) (c p : Nat) : State :=
  let id := 136 * c + p
  if s.rep.retired.contains id || s.rep.pendRet.contains id then s
  else
    let cores (q : Nat) : Nat := (servedBy s c q).length
    let moves := ((s.rep.pendRet.filter (fun q => q / 136 == c)).map (fun q => cores (q % 136))).sum + cores p
    let pairs := ((upto 136).filter (fun q => cores q == 2 && q != p && !s.rep.pendRet.contains (136 * c + q))).length
    let free := ((freeSpares s c).filter (fun q => !s.rep.pendRet.contains (136 * c + q) && q != p)).length
    if 0 < cores p ∧ 32 < pairs + (moves - free) then refuseRetire s c p
    else { s with rep := { s.rep with pendRet := s.rep.pendRet ++ [id] } }

end Sys2Proof.Machine
end

