-- ==== Sys2Proof/Machine/HostOps.lean ====
section
/-! DEFINITION. The shared operations of the host side: channels, host-window translation (R438), writes to the host and the
hold area (R442 to R445), completion records, events and their signals (R430 to R434). -/

namespace Sys2Proof.Machine

/-- A channel. -/
def chanOf (s : State) (i : Nat) : Chan := smGet {} s.host.chans i
/-- Put a channel. -/
def setChan (s : State) (i : Nat) (c : Chan) : State := { s with host := { s.host with chans := smPut {} s.host.chans i c } }
/-- Change a channel. -/
def modChan (s : State) (i : Nat) (f : Chan → Chan) : State := setChan s i (f (chanOf s i))
/-- Change the host side. -/
def modHost (s : State) (f : HostSt → HostSt) : State := { s with host := f s.host }

/-- The generation of a channel index (R421). -/
def genOf (s : State) (i : Nat) : Nat := smGet 0 s.host.gens i

/-- The handle of a channel index (R421). -/
def handleOf (s : State) (i : Nat) : Nat := genOf s i * 4096 + i

/-- The channel that a 32-bit handle names, if its generation is the index's own (R421). -/
def chanOfHandle (s : State) (h : Nat) : Option Nat :=
  if h / 4096 = genOf s (h % 4096) ∧ (chanOf s (h % 4096)).st ≠ .free then some (h % 4096) else none

/-- The number of a channel state (CMD_CHAN_i). -/
def chanStNum : ChanSt → Nat
  | .free => 0
  | .opened => 1
  | .stopped => 2
  | .kept => 3
  | .orphaned => 4
  | .destroying => 5

/-- The bytes of a region's window. -/
def HRegion.len (r : HRegion) : Nat := (r.extents.map (·.2)).sum

/-- The bus address at an offset of a region's extents, in list order (R438). -/
def extentAt : List (Nat × Nat) → Nat → Option Nat
  | [], _ => none
  | (b, n) :: r, o => if o < n then some (b + o) else extentAt r (o - n)

/-- What a host-window access finds (R148, R438, R443). -/
inductive HostXlat where
  | ok (w bus : Nat)
  | refused
  | suspended (w bus : Nat)
deriving DecidableEq, Repr

/-- Translate a host-window address through a channel's regions (R438). -/
def hostXlat (s : State) (chan : Option Nat) (a : Nat) (write : Bool) : HostXlat :=
  match chan with
  | none => .refused
  | some i =>
    match (chanOf s i).regions.find? (fun r => decide (r.w ≤ a) && decide (a < r.w + r.len)) with
    | none => .refused
    | some r =>
      if !(if write then r.write else r.read) then .refused
      else match extentAt r.extents (a - r.w) with
        | some b => if r.active then .ok r.w b else .suspended r.w b
        | none => .refused

/-- Whether the function may send requests now (R417, R441): link up, no interruption, Bus Master Enable set, in D0. -/
def hostReady (s : State) : Bool := s.host.linkUp && !s.host.linkLoss && s.pcie.bme && !s.pcie.d3hot

/-- Whether requests to the host go out now: the function may send them, and no Roadbed partial reset holds its culvert (R505). -/
def hostOpen (s : State) : Bool := hostReady s && s.boot.rb == 0

/-- Signal a vector for a channel, at most once per microsecond (R434). -/
def signalHeldOff (s : State) (v : Nat) : State :=
  if s.host.msiSent.contains v then
    modHost s (fun h => { h with msiDue := if h.msiDue.contains v then h.msiDue else h.msiDue ++ [v] })
  else signalVector (modHost s (fun h => { h with msiSent := h.msiSent ++ [v] })) v

/-- The completion records of a channel that are free (R432). -/
def freeRecords (s : State) (i : Nat) : Nat :=
  let c := chanOf s i
  2 ^ c.cqLog2 - (c.written + 2 ^ 32 - c.cqCons) % 2 ^ 32 - c.entries.length - c.held.length

/-- Write a completion record (R430, R433, R434), or keep it with the channel while it cannot be written (R424, R443).
DEDUCED: notes/assumptions/72. -/
def putRecord (s : State) (i : Nat) (r : Record) : State :=
  let c := chanOf s i
  if (c.st = .opened ∨ c.st = .stopped ∨ c.st = .destroying) ∧ hostOpen s = true ∧ s.host.inReset = false ∧ c.held = [] then
    let ph := if c.written / 2 ^ c.cqLog2 % 2 = 0 then 1 else 0
    let d := bytesOf 8 (r.w0 + ph) ++ bytesOf 8 r.w1.toNat ++ bytesOf 8 r.w2.toNat ++ bytesOf 8 (stageNow s)
    let s1 := emit s (.hostWrite (c.cq + c.written % 2 ^ c.cqLog2 * 32) d)
    let s2 := setChan s1 i { c with written := c.written + 1 }
    if r.signal && c.irq then signalHeldOff s2 c.vector else s2
  else setChan s i { c with held := c.held ++ [r] }

/-- Write out the records a channel holds, in order, as far as they can be written. -/
def flushRecords (s : State) (i : Nat) : State :=
  let rs := (chanOf s i).held
  rs.foldl (fun s r => putRecord s i r) (modChan s i (fun c => { c with held := [] }))

/-- Write an event to a channel (R431, R432); one that finds no record free is counted. -/
def putEvent (s : State) (i code : Nat) (seq : Nat) (value : Word) : State :=
  if (chanOf s i).st = .free then s
  else if freeRecords s i = 0 then countSat s (CMD_CHAN i) CMD_CHAN_ev_lost
  else putRecord s i ⟨seq % 2 ^ 32 * 2 ^ 32 + code * 2 ^ 24 + 0xFF * 2 ^ 16, 0, value, true⟩

/-- A started entry has been carried out: its status and value (R427). DEDUCED: notes/assumptions/96. -/
def carryEntry (s : State) (i n code : Nat) (value : Nat) : State :=
  modChan s i (fun c => { c with entries := c.entries.map (fun e =>
    if e.n = n ∧ e.phase ≠ .ended then { e with phase := .carried, code := code, value := value } else e) })

/-- The started entry of a number, if the channel has it. -/
def startedEntry (s : State) (i n : Nat) : Option Entry :=
  (chanOf s i).entries.find? (fun e => e.n == n && e.phase == .started)

/-- Writes that were held, or were to be, are discarded (R445): counted, the owning channels marked, an event for the bytes each
lost. -/
def writesLost (s : State) (gone : List HeldWrite) : State :=
  ((gone.map (·.chan)).dedup).foldl (fun s i =>
    let n := ((gone.filter (fun x => x.chan == i)).map (fun x => x.data.length)).sum
    putEvent (wrb s (CMD_CHAN i) CMD_CHAN_host_lost true) i 0x83 0xFFFFFFFF (BitVec.ofNat 64 n))
    (count s HST_HOLD HST_HOLD_discarded gone.length)

/-- Discard held writes (R445). -/
def discardHeld (s : State) (p : HeldWrite → Bool) : State :=
  writesLost (modHost s (fun h => { h with holdQ := h.holdQ.filter (fun x => !p x) })) (s.host.holdQ.filter p)

/-- The bytes in the hold area (R444). -/
def heldBytes (s : State) : Nat := (s.host.holdQ.map (fun x => x.data.length)).sum

/-- Whether data writes to the host carry relaxed ordering (Table 13-1): Enable Relaxed Ordering of Device Control. PRESUMED:
notes/assumptions/69. -/
def relaxedOn (s : State) : Bool := bitsN (smGet 0 s.pcie.header 0x78) 4 4 == 1

/-- A write to a host window (R441 to R444): sent, or held while the link or the region does not allow it; a full hold area
discards it. While Roadbed's partial reset holds the culvert, no transfer to the host starts (Table 15-6 step 2): the write waits at
the Verge end. -/
def hostWrite (s : State) (chan w bus : Nat) (d : List Byte) (active : Bool) : State :=
  if active && s.boot.rb != 0 then modHost s (fun h => { h with outQ := h.outQ ++ [⟨chan, w, bus, d⟩] })
  else if active && hostReady s && !s.host.holdQ.any (fun x => x.chan == chan && x.w == w) then emit s (.hostWrite bus d (relaxedOn s))
  else if heldBytes s + d.length > 16 * 2 ^ 20 then writesLost s [⟨chan, w, bus, d⟩]
  else modHost s (fun h => { h with holdQ := h.holdQ ++ [⟨chan, w, bus, d⟩] })

/-- Send the held writes of active regions, in order (R442, R445). -/
def replayHeld (s : State) : State :=
  if !hostOpen s then s
  else
    let act (x : HeldWrite) : Bool := (chanOf s x.chan).regions.any (fun r => r.w == x.w && r.active)
    let s1 := (s.host.holdQ.filter act).foldl (fun s x => emit s (.hostWrite x.bus x.data (relaxedOn s))) s
    modHost s1 (fun h => { h with holdQ := h.holdQ.filter (fun x => !act x) })

/-- The writes to the host that waited at the Verge end of their culvert go, in order (R506). -/
def sendWaiting (s : State) : State :=
  s.host.outQ.foldl (fun s x =>
    hostWrite s x.chan x.w x.bus x.data ((chanOf s x.chan).regions.any (fun r => r.w == x.w && r.active)))
    (modHost s (fun h => { h with outQ := [] }))

end Sys2Proof.Machine
end

