-- ==== Sys2Proof/Machine/Lanes.lean ====
section
/-! DEFINITION. Vertical lanes, pseudo-channels and bonded groups (R471 to R475): failures, spares, degraded and lost
pseudo-channels, retirement, half width. A TSV lane of a pseudo-channel on a die is numbered 0 to 63 for data, 64 to 67 for the
spares, and from 68 in pairs for a command or address lane and its duplicate. DESIGN CHOICE: notes/assumptions/56. -/

namespace Sys2Proof.Machine

/-- Change the repair unit. -/
def modRep (s : State) (f : Rep → Rep) : State := { s with rep := f s.rep }

/-- Whether a stack has a retired or migrating pseudo-channel. -/
def hasRetired (s : State) (k : Nat) : Bool :=
  rdb s (REP_STACK k) REP_STACK_retired || rdb s (REP_STACK k) REP_STACK_migrating

/-- The number shown in REP_STATUS.degraded_pcs: degraded pseudo-channels that are not retiring. -/
def countDegraded (s : State) : State :=
  let bits (k : Nat) : Nat := ((upto 32).filter (fun p => bitsN (rdf s (REP_STACK k) REP_STACK_degraded) p p == 1 &&
    !(hasRetired s k && rdf s (REP_STACK k) REP_STACK_retired_pc == p))).length
  wrf s REP_STATUS REP_STATUS_degraded_pcs ((upto 36).map bits).sum

/-- Mark a pseudo-channel degraded, or no longer so. -/
def setDegraded (s : State) (gpc : Nat) (on : Bool) : State :=
  let k := gpc / 32
  countDegraded (wrb s (REP_STACK k) ⟨gpc % 32, 1⟩ on)

/-- A pseudo-channel is lost (R472, R474): every read of it is uncorrectable from now on. -/
def loseChannel (s : State) (gpc : Nat) : State :=
  if s.mem.lostPcs.contains gpc then s
  else
    let s1 := modRep { s with mem := { s.mem with lostPcs := s.mem.lostPcs ++ [gpc] } } (fun r => { r with lost := r.lost ++ [gpc] })
    let s2 := wrb s1 (REP_STACK (gpc / 32)) REP_STACK_lost true
    raiseEvent (logAppend s2 repairLog 8 (repSite (gpc / 32) (gpc % 32) 0 0) 0 0) 17

/-- Whether a TSV lane has failed before. -/
def knownLane (s : State) (gpc die l : Nat) : Bool :=
  s.rep.tsvFailed.contains (gpc, die, l) || s.rep.tsvSpared.any (fun q => q.1 == gpc && q.2.1 == die && q.2.2.1 == l)

/-- The free spares of a pseudo-channel on a die (R35): spare lanes that have not failed and stand in for none. -/
def sparesOf (s : State) (gpc die : Nat) : List Nat :=
  ((upto 4).map (64 + ·)).filter (fun x => !s.rep.tsvFailed.contains (gpc, die, x) &&
    !s.rep.tsvSpared.any (fun q => q.1 == gpc && q.2.1 == die && q.2.2.2 == x))

/-- The failed data lanes of a pseudo-channel on a die that no spare replaces yet. -/
def lanesOpen (s : State) (gpc die : Nat) : Nat :=
  (s.rep.tsvFailed.filter (fun l => l.1 == gpc && l.2.1 == die && decide (l.2.2 < 64))).length

/-- A TSV lane fails (R471, R472): decoded as an erasure from now on, as is the lane that a spare stood in for; where its die has no free
spare left for it the pseudo-channel is degraded; more than four dead symbols, or both copies of a command or address lane, lose it. -/
def failLane (s : State) (gpc die lane : Nat) : State :=
  if knownLane s gpc die lane then s
  else
    let again (q : Nat × Nat × Nat × Nat) : Bool := q.1 == gpc && q.2.1 == die && q.2.2.2 == lane && decide (lane < 68)
    let s1 := modRep s (fun r => { r with
      tsvFailed := r.tsvFailed ++ [(gpc, die, lane)] ++ (r.tsvSpared.filter again).map (fun q => (q.1, q.2.1, q.2.2.1))
      tsvSpared := r.tsvSpared.filter (fun q => !again q) })
    if 68 ≤ lane then (if knownLane s gpc die (if lane % 2 = 0 then lane + 1 else lane - 1) then loseChannel s1 gpc else s1)
    else
      let s2 := if (sparesOf s1 gpc die).length < lanesOpen s1 gpc die ∧
          bitsN (rdf s (REP_STACK (gpc / 32)) REP_STACK_degraded) (gpc % 32) (gpc % 32) = 0 then
          setDegraded (logAppend s1 repairLog 5 (repSite (gpc / 32) (gpc % 32) lane 0) 0 0) gpc true
        else s1
      if 4 < (deadSymbols s2 gpc die).length then loseChannel s2 gpc else s2

/-- A codeword was corrected in a symbol (R471): more than 1,024 of them in one stage fail both lanes of the symbol. -/
def symbolCorrected (s : State) (gpc die sym : Nat) : State :=
  let key := (gpc * 16 + die) * 256 + sym
  let c := smGet 0 s.rep.laneCorr key + 1
  let s1 := modRep s (fun r => { r with laneCorr := smPut 0 r.laneCorr key c })
  if 1024 < c then failLane (failLane s1 gpc die (2 * sym)) gpc die (2 * sym + 1) else s1

/-- A sector of DRAM was read with these errors, which the ECC corrected (R461, R471). -/
def noteCorrected (s : State) (sec : Nat) (errs : List (List Nat)) : State :=
  if errs = [] then s
  else
    let (gpc, byte) := placeOf s sec
    let die := dieOf gpc byte
    let dead := deadSymbols s gpc die
    (errs.take 4).foldl (fun s e => ((errsBeyond dead e).filter (· < 32)).foldl (fun s i => symbolCorrected s gpc die i) s)
      (count s REP_COUNT_1 REP_COUNT_1_stack_corrected (eccCorrected (stackEcc s sec errs false)))

/-- A lane of a bond, culvert or core group fails (R475, R476). -/
def failGroupLane (s : State) (g lane : Nat) : State :=
  modRep s (fun r =>
    let ls := smGet [] r.groups g
    { r with groups := smPut [] r.groups g (if ls.contains lane then ls else ls ++ [lane]) })

/-- Order 4 of Table 02-4, TSVs (R471): each failed data lane takes the first free spare of its pseudo-channel on its die; a command or
address lane its duplicate. -/
def spareLanes (s : State) : State :=
  s.rep.tsvFailed.foldl (fun s l =>
    let by_ : Option Nat := if 68 ≤ l.2.2 then some (if l.2.2 % 2 = 0 then l.2.2 + 1 else l.2.2 - 1)
      else if l.2.2 < 64 then (sparesOf s l.1 l.2.1).head? else none
    match by_ with
    | some x => logAppend (modRep s (fun r => { r with
        tsvFailed := r.tsvFailed.erase l, tsvSpared := r.tsvSpared ++ [(l.1, l.2.1, l.2.2, x)] })) repairLog 4
        (repSite (l.1 / 32) l.2.1 l.2.2 0) 0 0
    | none => s) s

/-- A pseudo-channel is retired (Table 14-5 step 6, R472). -/
def retirePc (s : State) (gpc : Nat) : State :=
  let k := gpc / 32
  let s1 := wrf (wrb (wrb s (REP_STACK k) REP_STACK_migrating false) (REP_STACK k) REP_STACK_retired true) (REP_STACK k)
    REP_STACK_retired_pc (gpc % 32)
  let s2 := wrf s1 REP_STATUS REP_STATUS_retired_pcs (rdf s1 REP_STATUS REP_STATUS_retired_pcs + 1)
  logAppend (setDegraded s2 gpc false) repairLog 7 (repSite k (gpc % 32) 0 0) 0 0

/-- Order 4 of Table 02-4 for one stack (R472): a migration that has reached its end retires; a lost pseudo-channel retires
without migration, or the first degraded one begins, where the stack has none retired or migrating. -/
def pcAtMilestone (s : State) (k : Nat) : State :=
  let w := rd s (REP_STACK k)
  if getb w REP_STACK_migrating then
    (if getf w REP_STACK_pointer = pcLines then retirePc s (32 * k + getf w REP_STACK_retired_pc) else s)
  else if getb w REP_STACK_retired then s
  else
    match s.rep.lost.find? (fun g => g / 32 == k) with
    | some g =>
      let s1 := modRep { s with mem := { s.mem with lostPcs := s.mem.lostPcs.erase g, gone := s.mem.gone ++ [g] } }
        (fun r => { r with lost := r.lost.erase g })
      let s2 := retirePc s1 g
      if s2.rep.lost.any (fun q => q / 32 == k) then s2 else wrb s2 (REP_STACK k) REP_STACK_lost false
    | none =>
      match (upto 32).find? (fun p => bitsN (getf w REP_STACK_degraded) p p == 1) with
      | some p =>
        let s1 := wrf (wrf (wrb s (REP_STACK k) REP_STACK_migrating true) (REP_STACK k) REP_STACK_retired_pc p) (REP_STACK k)
          REP_STACK_pointer 0
        logAppend (countDegraded s1) repairLog 6 (repSite k p 0 0) 0 0
      | none => s

/-- The site of a lane group in the repair log (Table 14-7): stack or culvert, or, from 1,000 on, cluster and physical core, and the lane.
DESIGN CHOICE: notes/assumptions/56. -/
def groupSite (g lane : Nat) : Nat :=
  if 1000 ≤ g then repSite ((g - 1000) / 136) ((g - 1000) % 136) lane 0 else repSite g 0 lane 0

/-- A group with more failed lanes than spares runs at half width (R475): counted and logged. -/
def halveGroup (s : State) (g lane : Nat) : State :=
  if s.rep.halfWidth.contains g then s
  else raiseEvent (logAppend (modRep s (fun r => { r with halfWidth := r.halfWidth ++ [g] })) repairLog 9 (groupSite g lane) 0 0) 17

/-- Order 4 of Table 02-4, bonds and culverts (R475): each failed lane takes one of the four spares; beyond them, half width. -/
def groupAtMilestone (s : State) (g : Nat) (failed : List Nat) : State :=
  let done := smGet 0 s.rep.replaced g
  let s1 := ((failed.take 4).drop done).foldl (fun s lane => logAppend s repairLog 4 (groupSite g lane) 0 0)
    (modRep s (fun r => { r with replaced := smPut 0 r.replaced g (min 4 failed.length) }))
  if 4 < failed.length then halveGroup s1 g (failed.getD 4 0) else s1

/-- Order 4 of Table 02-4: lanes, groups and pseudo-channels. -/
def lanesAtMilestone (s : State) : State :=
  let s1 := spareLanes s
  let s2 := s1.rep.groups.foldl (fun s g => groupAtMilestone s g.1 g.2) s1
  let s3 := (upto 36).foldl pcAtMilestone s2
  modRep s3 (fun r => { r with laneCorr := [] })

end Sys2Proof.Machine
end

