-- ==== Sys2Proof/Machine/Route.lean ====
section
/-! DEFINITION. How frames leave this device (R385, R388, R393, R396 to R398): coordinates and rings, the choice of a port,
credits, the replay buffer, request tags and their answers. -/

namespace Sys2Proof.Machine

/-! ### Coordinates -/

/-- The ring size of a dimension (R412). -/
def ringOf (s : State) (d : Nat) : Nat := rdf s CWY_FABRIC_CFG CWY_FABRIC_CFG_ring_m1 / 8 ^ d % 8 + 1

/-- The coordinate of a device in a dimension (R46). -/
def coordOf (dev d : Nat) : Nat := dev / 8 ^ d % 8

/-- The device with one coordinate replaced. -/
def withCoord (dev d c : Nat) : Nat := dev - coordOf dev d * 8 ^ d + c * 8 ^ d

/-- The next device along a dimension. -/
def neighbour (s : State) (dev d : Nat) (plus : Bool) : Nat :=
  let n := ringOf s d
  withCoord dev d ((coordOf dev d + (if plus then 1 else n - 1)) % n)

/-- The fabric of this device. -/
def modFab (s : State) (f : Fab → Fab) : State := { s with fab := f s.fab }
/-- A port. -/
def portOf (s : State) (p : Nat) : Port := smGet {} s.fab.ports p
/-- Put a port. -/
def setPort (s : State) (p : Nat) (x : Port) : State := modFab s (fun f => { f with ports := smPut {} f.ports p x })
/-- Change a port. -/
def modPort (s : State) (p : Nat) (f : Port → Port) : State := setPort s p (f (portOf s p))

/-- The state number of a port (Table 12-17). -/
def portState (s : State) (p : Nat) : Nat := rdf s (CWY_PORT_STATUS p) CWY_PORT_STATUS_state
/-- Whether a port is Active. -/
def portActive (s : State) (p : Nat) : Bool := portState s p == 5

/-- The first port of a port group (R385). -/
def groupBase (d : Nat) (plus : Bool) : Nat := 6 * d + (if plus then 0 else 3)
/-- The dimension along which a port leads. -/
def portDim (p : Nat) : Nat := p / 6
/-- Whether a port leads in the plus direction. -/
def portPlus (p : Nat) : Bool := p % 6 < 3

/-! ### Choosing a port -/

/-- The direction R396 gives a frame in a dimension: from coordinate a to coordinate b, with bit d of the source ID. -/
def dirOf (n a b : Nat) (srcBit : Bool) : Bool :=
  let δ := (b + n - a) % n
  if 2 * δ < n then true else if 2 * δ > n then false else !srcBit

/-- The dimension a frame takes next: the first in which this device is not at the destination's coordinate.
DEDUCED: notes/assumptions/60. -/
def nextDim (s : State) (dst : Nat) : Option Nat := (upto 6).find? (fun d => coordOf (selfId s) d ≠ coordOf dst d)

/-- The direction of a frame in a dimension: that of R396 from where it entered the dimension, turned once the detour bit is
set (R397). DEDUCED: notes/assumptions/60. -/
def frameDir (s : State) (h : FrameHdr) (d : Nat) : Bool :=
  let a := if coordOf h.src d = coordOf h.dst d then coordOf (selfId s) d else coordOf h.src d
  dirOf (ringOf s d) a (coordOf h.dst d) (bitsN h.src d d == 1) != (bitsN h.detour d d == 1)

/-- The credits of a port for a frame's class and channel. -/
def creditsFor (s : State) (p cls vc : Nat) : Nat := smGet 0 (portOf s p).credits (2 * cls + vc)

/-- The Active port of a group with the most credits for a frame; ties go to the lowest i (R397). Where none is Active, one that comes back
from a Roadbed partial reset: the frame waits there, for that delay is all that its sender sees (R506). -/
def pickPort (s : State) (d : Nat) (plus : Bool) (cls vc : Nat) : Option Nat :=
  let ps := (upto 3).map (fun i => groupBase d plus + i)
  match ps.foldl (fun (b : Option Nat) p =>
    if !portActive s p then b
    else match b with
      | none => some p
      | some q => if creditsFor s q cls vc < creditsFor s p cls vc then some p else b) none with
  | some p => some p
  | none => if s.mst.roadbed then ps.find? (fun p => s.boot.rbPorts.contains p) else none

/-- The virtual channel of a frame on its next hop (R393): 0 at the start of a dimension, 1 from the dateline on. -/
def hopVc (s : State) (h : FrameHdr) (arrived : Option Nat) (d : Nat) (plus : Bool) : Nat :=
  let c := coordOf (selfId s) d
  let n := ringOf s d
  let crosses := if plus then c + 1 == n else c == 0
  if crosses then 1 else if arrived.map portDim = some d then h.vc else 0

/-- The port and the header with which a frame goes on (R396, R397); none where it cannot be delivered. -/
def routeOf (s : State) (h : FrameHdr) (arrived : Option Nat) : Option (Nat × FrameHdr) :=
  match nextDim s h.dst with
  | none => none
  | some d =>
    let dir := frameDir s h d
    let go (dir : Bool) (det : Nat) : Option (Nat × FrameHdr) :=
      let vc := hopVc s h arrived d dir
      (pickPort s d dir h.cls vc).map (fun p => (p, { h with vc := vc, detour := det }))
    match go dir h.detour with
    | some r => some r
    | none =>
      if ringOf s d ≥ 3 ∧ bitsN h.detour d d = 0 then go (!dir) (h.detour + 2 ^ d) else none

/-! ### Sending -/

/-- Header word 0 (Table 12-2). -/
def hdrWord0 (h : FrameHdr) : Nat :=
  h.type % 16 * 2 ^ 60 + h.cls % 4 * 2 ^ 58 + h.vc % 2 * 2 ^ 57 + h.length % 1024 * 2 ^ 47 + h.dst % 2 ^ 18 * 2 ^ 29 +
  h.src % 2 ^ 18 * 2 ^ 11 + h.tag % 2048

/-- Header word 1 (Table 12-2). -/
def hdrWord1 (h : FrameHdr) : Nat :=
  h.op % 256 * 2 ^ 56 + h.status % 16 * 2 ^ 52 + h.detour % 64 * 2 ^ 46 + h.rsv % 2 * 2 ^ 45 + h.addr % 2 ^ 45

/-- The data bytes of a Kerb frame: the words of a command block, the two words of a status record, a contribution block's codes, scale
and places in the model's own order, in 96 bytes. DESIGN CHOICE: notes/assumptions/108. -/
def kerbBytes : KerbPayload → List Byte
  | .command ws _ => ws.flatMap (fun w => bytesOf 8 w.toNat)
  | .status _ w0 w1 => bytesOf 8 w0.toNat ++ bytesOf 8 w1.toNat
  | .contribution sh b st ep rep codes scale last =>
    ((codes ++ List.replicate 64 0).take 64) ++ bytesOf 2 scale.toNat ++ bytesOf 2 ep ++ bytesOf 4 sh ++ bytesOf 8 b ++ bytesOf 8 st ++
      bytesOf 7 rep ++ [if last then 1 else 0]

/-- The bytes of a frame in the stream (R9, R388): its header, then its data; the words of a control frame in order. -/
def frameStream (h : FrameHdr) (b : Body) : List Byte :=
  bytesOf 8 (hdrWord0 h) ++ bytesOf 8 (hdrWord1 h) ++ (match b with
    | .empty => []
    | .data d => d
    | .kerb p => kerbBytes p
    | .piece _ _ _ d => d
    | .ack _ => []
    | .ctl args => args.flatMap (bytesOf 8))

/-- Bits [51:0] of the link fields of a codeword (Table 12-1). -/
def linkLow (l : LinkFields) : Nat :=
  l.seq % 4096 * 2 ^ 40 + l.ack % 4096 * 2 ^ 28 + (if l.nak then 2 ^ 27 else 0) + l.first % 1024 * 2 ^ 17 +
  (if l.marker then 2 ^ 16 else 0) + l.signal % 16 * 2 ^ 12 + l.stage % 4096

/-- The check of a codeword (Table 12-1): CRC-32C over its stream bytes and the 52 bits, from bit 0 up.
DESIGN CHOICE: notes/assumptions/108. -/
def linkCheck (stream : List Byte) (low : Nat) : Nat :=
  crcStep 4 (crcFrom 0xFFFFFFFF (stream ++ bytesOf 6 low) ^^^ low / 2 ^ 48 % 16) ^^^ 0xFFFFFFFF

/-- Send a codeword with its check; the marker is on sequence number 0, every 4,096th. -/
def emitWord (s : State) (p : Nat) (stream : List Byte) (l : LinkFields) : State :=
  let l1 := { l with marker := l.seq % 4096 == 0 }
  emit s (.codeword p stream { l1 with check := linkCheck stream (linkLow l1) })

/-- The offset of the first frame that starts in the codeword under way, once another has been put behind what it holds. -/
def Port.firstNow (x : Port) : Nat := if x.first = 1023 then x.buf.length else x.first

/-- The codewords that the bytes `all` complete from a port's codeword under way (R387, Table 12-1): sequence number, stream bytes,
offset of the first frame that starts there. -/
def codewordsDone (x : Port) (all : List Byte) : List (Nat × List Byte × Nat) :=
  (upto (all.length / 632)).map (fun j =>
    ((x.seq + j) % 4096, (all.drop (632 * j)).take 632, if j = 0 then x.firstNow else 1023))

/-- The codeword under way goes out as it stands, with a nak or a signal (R390, R400). -/
def closeWord (s : State) (p : Nat) (nak : Bool) (signal stage : Nat) : State :=
  let x := portOf s p
  let stream := x.buf ++ (upto (632 - x.buf.length)).map (fun i => Config.idleByte p x.seq (x.buf.length + i))
  emitWord (setPort s p { x with seq := (x.seq + 1) % 4096, buf := [], first := 1023 }) p stream
    { check := 0, seq := x.seq, ack := x.ack, nak := nak, first := x.first, marker := false, signal := signal, stage := stage }

/-- Put a frame into the frame stream of a port (R387, R390): it follows the last one, into as many codewords as it takes, and the
replay buffer keeps the frames of the last 1,024 codewords. DESIGN CHOICE: notes/assumptions/62. -/
def transmit (s : State) (p : Nat) (h : FrameHdr) (b : Body) : State :=
  let x := portOf s p
  let all := x.buf ++ frameStream h b
  let done := codewordsDone x all
  let seq := (x.seq + all.length / 632) % 4096
  let sent := x.sent ++ [⟨(x.seq + (all.length - 1) / 632) % 4096, h, b⟩]
  let x1 := { x with seq := seq, buf := all.drop (632 * (all.length / 632))
                     sent := sent.filter (fun f => decide ((seq + 4096 - f.seq) % 4096 ≤ 1024))
                     first := if done = [] then x.firstNow else 1023 }
  done.foldl (fun s c => emitWord s p c.2.1 { check := 0, seq := c.1, ack := x.ack, first := c.2.2, marker := false })
    (emit (setPort s p x1) (.frame p h b))

/-- The header of a control frame with `n` words. -/
def ctlHdr (s : State) (op n : Nat) : FrameHdr :=
  { type := 7, cls := 0, vc := 0, length := 8 * n, dst := 0, src := selfId s, tag := 0, op := op, status := 0, detour := 0,
    rsv := 0, addr := 0 }

/-- A control frame with its words, as it waits for a port. -/
def ctlFrame (s : State) (op : Nat) (args : List Nat) : WaitFrame := ⟨ctlHdr s op args.length, .ctl args, none, none⟩

/-- Whether a frame is a control frame that returns credits. -/
def isCredit (h : FrameHdr) : Bool := h.type == 7 && h.op == 1

/-- Whether a port can send a frame now (R393): it is Active and holds a credit for the frame's pair, and one of class 0 for its
resend marker. -/
def canSend (s : State) (p : Nat) (w : WaitFrame) : Bool :=
  let c (k : Nat) : Nat := smGet 0 (portOf s p).credits k
  let k := 2 * w.h.cls + w.h.vc
  portActive s p && (decide (0 < c k) && (w.mark.isNone || decide ((if k = 0 then 1 else 0) < c 0)))

/-- Take a credit of a pair. -/
def useCredit (s : State) (p k : Nat) : State := modPort s p (fun x => { x with credits := smPut 0 x.credits k (smGet 0 x.credits k - 1) })

/-- Send a frame that frees no buffer here, or keep it waiting at its port (R391, R393). A resend marker goes before it (R397). -/
def sendOrWait (s : State) (p : Nat) (w : WaitFrame) : State :=
  if canSend s p w then
    let s1 := useCredit s p (2 * w.h.cls + w.h.vc)
    let s2 := match w.mark with
      | some (q, n) => transmit (useCredit s1 p 0) p (ctlHdr s 5 2) (.ctl [q, n])
      | none => s1
    transmit s2 p w.h w.b
  else modPort s p (fun x => { x with wait := x.wait ++ [w] })

/-- Credits of a pair go back to the partner of a port in a control frame, with those of class 0 owed for its credit frames (R393).
DESIGN CHOICE: notes/assumptions/62. -/
def sendCredit (s : State) (p k n : Nat) : State :=
  let s1 := if k = 0 then modPort s p (fun x => { x with owed := 0 }) else s
  sendOrWait s1 p (ctlFrame s 1 [k / 2, k % 2, n + (if k = 0 then (portOf s p).owed else 0)])

/-- A receive buffer of a port is free again: its credit goes back to the partner (R393); not while a Roadbed partial reset is under
way (Table 15-6 step 2). -/
def creditBack (s : State) (q : Option (Nat × Nat)) : State :=
  match q with
  | none => s
  | some (p, k) =>
    let x := portOf s p
    let s1 := setPort s p { x with filled := smPut 0 x.filled k (smGet 0 x.filled k - 1) }
    if s.boot.rb ≠ 0 then s1 else sendCredit s1 p k 1

/-- Send a frame on a port if that can be now; otherwise the frame waits there (R391, R393). The buffer it fills is free once it has
gone. -/
def putOnPort (s : State) (p : Nat) (w : WaitFrame) : State :=
  if canSend s p w then creditBack (sendOrWait s p w) w.from_ else sendOrWait s p w

/-- Send a control frame on a port. -/
def sendControl (s : State) (p op : Nat) (args : List Nat) : State := putOnPort s p (ctlFrame s op args)

/-- The frames that the receive buffer of a pair holds: one at least (R393). DESIGN CHOICE: notes/assumptions/100. -/
def bufferHolds (k : Nat) : Nat := Config.bufferFrames k + 1

/-- A credit frame's own buffer is free again: its credit is owed, and goes back with the next of class 0, at the latest once half of
the buffers are owed (R393). DESIGN CHOICE: notes/assumptions/62. -/
def creditOwed (s : State) (p : Nat) : State :=
  let s1 := modPort s p (fun x => { x with owed := x.owed + 1 })
  if bufferHolds 0 ≤ 2 * (portOf s1 p).owed ∧ s.boot.rb = 0 then sendCredit s1 p 0 0 else s1

/-- The frame that a port sends next of those that wait (R393): of class 0 first, then of classes 1 to 3 in turn. -/
def nextWait (s : State) (p : Nat) : Option WaitFrame :=
  let x := portOf s p
  ([0] ++ (upto 3).map (fun i => (x.turn + i - 1) % 3 + 1)).findSome? (fun c =>
    x.wait.find? (fun w => w.h.cls == c && canSend s p w))

/-- Send the frames that wait at a port, as far as its credits go, one of each class in turn (R393). -/
def flushLoop : Nat → State → Nat → State
  | 0, s, _ => s
  | n + 1, s, p =>
    match nextWait s p with
    | some w => flushLoop n (putOnPort (modPort s p (fun x => { x with
        wait := x.wait.erase w, turn := if w.h.cls = 0 then x.turn else w.h.cls % 3 + 1 })) p w) p
    | none => s

/-- Offer every frame that waits at a port again. -/
def flushPort (s : State) (p : Nat) : State := flushLoop (portOf s p).wait.length s p

/-- A frame is dropped (R397, R411). -/
def countDropped (s : State) : State := count s CWY_COUNT CWY_COUNT_dropped

/-- The Kerb status of an unreachable owner (Table 09-5). -/
def kerbUnreachable : Nat := 0x0A

/-- What a core's request that another device answered with a status ends with: the fault code (R398). -/
def statusFault (status : Nat) : Nat := if status = 0 then 0 else 0x04

/-- Change the commands of an engine that have an ID. -/
def modCmd (s : State) (k id : Nat) (f : KCmd → KCmd) : State :=
  modEng s k (fun e => { e with cmds := e.cmds.map (fun c => if c.id = id then f c else c) })

/-- The engine number under which this device keeps the Kerb commands it has sent to other devices. -/
def remoteEng : Nat := 36

/-- One block of a replica's GRAD.CLOSE has been answered (R312, R313): a refusal or a failure is remembered; after the last
the command is finished. -/
def blockAnswered (c : KCmd) (code value : Nat) : KCmd :=
  { c with acks := c.acks - 1, code := if c.code = 0 then code else c.code, value := if code = 0 then value else c.value
           phase := if c.acks ≤ 1 then .finished else c.phase }

/-- Change a channel's entry. -/
def modChanEntry (s : State) (i n : Nat) (f : Entry → Entry) : State :=
  modChan s i (fun c => { c with entries := c.entries.map (fun e => if e.n = n then f e else e) })

/-- Another device has answered a write of a copy (R427): the entry is carried out once every write is acknowledged; a write that
failed leaves its bytes uncopied. -/
def entryAnswered (len status : Nat) (e : Entry) : Entry :=
  let e1 := { e with asked := e.asked - 1
                     code := if status ≠ 0 ∧ e.code = 0 then 0x03 else e.code
                     lost := if status ≠ 0 then e.lost + len else e.lost }
  if e.phase = .running ∧ e.asked ≤ 1 then { e1 with phase := .carried, value := e.value - e1.lost } else e1

/-- A request ends with the status and data of its response (R398). -/
def answerAsked (s : State) (tag : Nat) (who : Asked) (status : Nat) (d : List Byte) : State :=
  let free (s : State) : State := modFab s (fun f => { f with sent := smErase f.sent tag })
  match who with
  | .move r => free { s with reqs := s.reqs.map (fun q =>
      if q.id = r then { q with phase := .ans, data := if q.fresh then d else q.data, code := statusFault status } else q) }
  | .kerb c => free (modCmd s remoteEng c (fun x =>
      if status = 0 then (if x.phase = .offered then { x with phase := .sent } else x)
      else { x with phase := .finished, code := kerbUnreachable }))
  | .contrib e c =>
    if status = 0 then modFab s (fun f => { f with sent := smSet f.sent tag (.acked e c) })
    else free (modCmd s e c (fun x => blockAnswered x kerbUnreachable 0))
  | .acked _ _ => s
  | .status => free s
  | .copyRead i n src => free (modChanEntry s i n (fun e => { e with
      asked := e.asked - 1, got := smSet e.got src (if status = 0 then d else []) }))
  | .copyWrite i n len => free (modChanEntry s i n (entryAnswered len status))
  | .page m off => free { s with atn := { s.atn with moves := s.atn.moves.map (fun x =>
      if x.id = m then { x with left := x.left - 1, bad := x.bad || decide (status ≠ 0)
                                got := if x.out ∨ status ≠ 0 then x.got else smSet x.got off d } else x) } }
  | .bill sec => free (modFab s (fun f => { f with bills := smSet f.bills sec (if status = 0 then some d else none) }))
  | .refetch sec => free (modFab s (fun f => { f with fetched := smSet f.fetched sec (if status = 0 then some d else none) }))

/-- The header of a request or a response. -/
def mkHdr (s : State) (type cls len dst tag op status addr : Nat) : FrameHdr :=
  { type := type, cls := cls, vc := 0, length := len, dst := dst, src := selfId s, tag := tag, op := op, status := status
    detour := 0, rsv := 0, addr := addr }

/-- Send a frame that is not a request, or drop it where it cannot be delivered (R397). -/
def sendPlain (s : State) (h : FrameHdr) (b : Body) (arrived : Option Nat) (from_ : Option (Nat × Nat)) : State :=
  match routeOf s h arrived with
  | some (p, h1) => putOnPort s p ⟨h1, b, from_, none⟩
  | none => countDropped (creditBack s from_)

/-- Answer a request with a status and its data (R398, Table 12-6). -/
def respond (s : State) (h : FrameHdr) (status : Nat) (d : List Byte) : State :=
  sendPlain s (mkHdr s 4 2 d.length h.src h.tag 0 status 0) (if d = [] then .empty else .data d) none none

/-- Send a frame on: one that cannot be delivered is answered with unreachable if it is a request, dropped and counted
otherwise (R397). -/
def sendOn (s : State) (h : FrameHdr) (b : Body) (arrived : Option Nat) (from_ : Option (Nat × Nat)) : State :=
  match routeOf s h arrived with
  | some (p, h1) => putOnPort s p ⟨h1, b, from_, none⟩
  | none =>
    let s1 := creditBack s from_
    if h.cls ≠ 1 then countDropped s1
    else if h.src ≠ selfId s then respond s1 h 2 []
    else match smFind? s1.fab.sent h.tag with
      | some who => answerAsked s1 h.tag who 2 []
      | none => s1

/-- A tag that names no request and no late response, of the 2,048 (Table 12-2). -/
def freeTag (s : State) : Option Nat :=
  (upto 2048).find? (fun t => !smHas s.fab.sent t && !s.fab.timedOut.contains t)

/-- A tag may be given out again: one whose late response may still come gives way when no other is left.
DESIGN CHOICE: notes/assumptions/61. -/
def someTag (s : State) : Option Nat :=
  match freeTag s with
  | some t => some t
  | none => s.fab.timedOut.head?

/-- The tag under which a request can go out now; none while a Roadbed partial reset is under way (Table 15-6 step 2). -/
def tagNow (s : State) : Option Nat := if s.boot.rb = 0 then someTag s else none

/-- Send a request under a tag, or keep it until it can go out (R398). -/
def ask (s : State) (a : Ask) : State :=
  match tagNow s with
  | none => modFab s (fun f => { f with asks := f.asks ++ [a] })
  | some t =>
    let s1 := modFab s (fun f => { f with
      sent := smSet f.sent t a.who, kept := smSet f.kept t a, timedOut := f.timedOut.filter (· ≠ t) })
    sendOn s1 { mkHdr s a.type 1 a.len a.dst t a.op 0 a.addr with why := a.why } a.body none none

/-- Requests that waited for a tag go out while there is one. -/
def askWaiting : Nat → State → State
  | 0, s => s
  | n + 1, s =>
    match s.fab.asks, tagNow s with
    | a :: r, some _ => askWaiting n (ask (modFab s (fun f => { f with asks := r })) a)
    | _, _ => s

/-- A request's tag is answered: its request ends, and one that waited for a tag may go (R398). -/
def answerTag (s : State) (tag status : Nat) (d : List Byte) : State :=
  match smFind? s.fab.sent tag with
  | some who =>
    let s1 := answerAsked s tag who status d
    askWaiting (s1.fab.asks.length) s1
  | none => s

/-- The request of a movement engine to another device: a Read, or a Write with the epoch in front of a reduction's data
(Table 12-3). -/
def askMove (s : State) (r : Req) (write : Bool) : State :=
  let a := if write then r.dst else r.src
  let d := if r.op = 0 then r.data else bytesOf 16 r.epoch ++ r.data
  ask s { who := .move r.id, dst := globalDev a, type := if write then 2 else 1, op := if write then r.op else 0
          len := if write then d.length else r.len, addr := globalLocal a, body := if write then .data d else .empty }

end Sys2Proof.Machine
end

