-- ==== Sys2Proof/Machine/Flags.lean ====
section
/-! DEFINITION. The comparisons and the flag computations of the cores: integer and FP32 comparisons (R131, R135), the tile
flag word (R187, Table 05-9), the stream flag word (R249, R250, Table 07-13), maximum registers (R208) and the overflow
flag of a layer section (R210). -/

namespace Sys2Proof.Machine

/-- Comparisons of BR.cc, CMP and CMPI by fn: EQ, NE, LT, GE, LTU, GEU (Tables 04-3, 04-4). -/
def intCmp (fn : Nat) (a b : Word) : Bool :=
  match fn with
  | 0 => a == b
  | 1 => a != b
  | 2 => decide (sgn a < sgn b)
  | 3 => !decide (sgn a < sgn b)
  | 4 => decide (a.toNat < b.toNat)
  | _ => !decide (a.toNat < b.toNat)

/-- FCMP by fn: EQ, LT, LE, UN (R135). -/
def fpCmp (fn : Nat) (a b : Fp) : Bool :=
  match fn with
  | 0 => feq a b
  | 1 => flt a b
  | 2 => flt a b || feq a b
  | _ => isNan a || isNan b

/-- The tile flag word after a non-finite element at (row, col) has been left in it (R187). -/
def tileFlag (w : Word) (row col : Nat) (v : Fp) : Word :=
  let first := row * 64 + col
  let old := getf w CORE_MXU_TILE_first_row * 64 + getf w CORE_MXU_TILE_first_col
  let w1 := if isNan v then setb w CORE_MXU_TILE_nan true else setb w CORE_MXU_TILE_inf true
  if !getb w CORE_MXU_TILE_nonfinite || decide (first < old) then
    setf (setf (setb w1 CORE_MXU_TILE_nonfinite true) CORE_MXU_TILE_first_row row) CORE_MXU_TILE_first_col col
  else w1

/-- The position detail of a logbook entry: tile, first row, first column (Table 06-11). -/
def tilePos (tile : Nat) (w : Word) : Nat :=
  tile * 4096 + getf w CORE_MXU_TILE_first_row * 64 + getf w CORE_MXU_TILE_first_col

/-- A maximum register (Table 06-8) after an instruction: the NaN bit, the saturated count and the largest magnitude. -/
def maxUpdate (old : Word) (nan : Bool) (sat : Nat) (amax : Nat) : Word :=
  let n := if nan || bit old 63 then 2 ^ 63 else 0
  let c := min (bits old 62 32 + sat) 0x7FFFFFFF
  let a := max (bits old 30 0) (amax % 2 ^ 31)
  BitVec.ofNat 64 (n + c * 2 ^ 32 + a)

/-- |x| as FP32 rounded upward, for a maximum register: +infinity for an infinity, 0 for a NaN (R208). -/
def amaxBits (x : Fp) : Nat :=
  match x with
  | .nan => 0
  | .inf _ => 0x7F800000
  | .fin _ m e => (encodeFp fFP32 .up false (.fin false m e)).1

/-- The stream flag word after a produced non-finite at index i (R249). -/
def vecNonfinite (w : Word) (i : Nat) (nan inf : Bool) : Word :=
  let w1 := if nan then setb w CORE_VEC_FLAGS_nan true else w
  let w2 := if inf then setb w1 CORE_VEC_FLAGS_inf true else w1
  if getb w CORE_VEC_FLAGS_nonfinite then w2
  else setf (setb w2 CORE_VEC_FLAGS_nonfinite true) CORE_VEC_FLAGS_first_nf i

/-- The stream flag word after `n` empty rows, the first of them `row` (R243). -/
def vecEmpty (w : Word) (row n : Nat) : Word :=
  let w1 := satf w CORE_VEC_FLAGS_empty_count n
  if getb w CORE_VEC_FLAGS_empty then w1
  else setf (setb w1 CORE_VEC_FLAGS_empty true) CORE_VEC_FLAGS_first_empty_row row

/-- Set the overflow flag of a section with its first cause and position (R210). -/
def sectOverflow (x : Section) (cause pos : Nat) : Section :=
  if x.cause = 0 then { x with cause := cause, pos := pos } else x

/-- Set the overflow flag of a stream's open section; nothing when none is open (R210). -/
def strOverflow (x : Stream) (cause pos : Nat) : Stream :=
  { x with sect := x.sect.map (fun k => sectOverflow k cause pos) }

end Sys2Proof.Machine
end

