-- ==== Sys2Proof/Machine/Scratch.lean ====
section
/-! DEFINITION. Scratchpad loads, stores and atomics (class 0x2_, R138 to R141) and the scratchpad's ECC (R97). -/

namespace Sys2Proof.Machine

/-- A corrected scratchpad error is counted (R97). -/
def scrCorrected (s : State) (l n : Nat) : State := countSat s (CORE_ECC l) CORE_ECC_corrected n

/-- An uncorrectable scratchpad word (R97, R466): the error bit and the first word's offset are recorded, the core halts with
fault 0x07 at that offset, and its physical core is to retire. DEDUCED: notes/assumptions/23. -/
def scrUncorrectable (s : State) (l : Nat) (t : StreamId) (o : Nat) : State :=
  let w := o / 8 * 8
  let e := rd s (CORE_ECC l)
  let e1 := if getb e CORE_ECC_uncorrectable then e else setf (setb e CORE_ECC_uncorrectable true) CORE_ECC_uc_offset w
  let s1 := modCore (wr s (CORE_ECC l) e1) l (fun c => { c with bad := if c.bad.contains w then c.bad else c.bad ++ [w] })
  let s2 := lateFault s1 l t 0x07 (BitVec.ofNat 64 w)
  requestRetire s2 (clusterOf l) (physOf s2 l)

/-- The first word marked uncorrectable that the bytes [o, o + n) touch, or the first word of the access where the decoder
finds one now. -/
def scrBad (s : State) (l o n : Nat) (ecc : Ecc) : Option Nat :=
  match (coreOf s l).bad.find? (fun w => decide (w < o + n) && decide (o < w + 8)) with
  | some w => some w
  | none => if ecc = .uncorrectable then some (o / 8 * 8) else none

/-- The word that a write of the bytes [o, o + n) fills only in part and cannot merge (R97): a marked word at either end, or the
first such word where the decoder finds one now. -/
def scrEdge (s : State) (l o n : Nat) (ecc : Ecc) : Option Nat :=
  let part := ([o / 8 * 8, (o + n - 1) / 8 * 8].filter (fun w => decide (0 < n) && !(decide (o ≤ w) && decide (w + 8 ≤ o + n)))).dedup
  match part.find? ((coreOf s l).bad.contains ·) with
  | some w => some w
  | none => if ecc = .uncorrectable then part.head? else none

/-- The words with one bit in error that the bytes [o, o + n) touch (R97). -/
def scrSoft (s : State) (l o n : Nat) : Nat :=
  ((coreOf s l).soft.filter (fun w => decide (w < o + n) && decide (o < w + 8))).length

/-- A write of bytes that may fill words only in part: they are read, corrected, merged and encoded again (R97). -/
def scrMerge (s : State) (l o : Nat) (d : List Byte) (ecc : Ecc) : State :=
  let edge (w : Nat) : Bool := decide (w < o + d.length) && decide (o < w + 8) && !(decide (o ≤ w) && decide (w + 8 ≤ o + d.length))
  let n := ((coreOf s l).soft.filter edge).length
  let s1 := scrWrite (scrCorrected s l (eccCorrected ecc + n)) l o d
  if n = 0 then s1 else modCore s1 l (fun c => { c with soft := c.soft.filter (fun w => !edge w) })

/-- The stream that records fault 0x07 where another agent meets the bad word (R97): the first that is live in the order F, B, U; the
spec names none. DESIGN CHOICE: notes/assumptions/103. -/
def firstLive (s : State) (l : Nat) : StreamId := (allStreams.find? (fun t => (strOf s l t).live)).getD .F

/-- The checks of a scalar scratchpad access (R140, R163): range first, then alignment. -/
def scrCheck (o n : Nat) : Option Done :=
  if o ≥ 0x20000 then some (.fault 0x06 o) else if o % n ≠ 0 then some (.fault 0x05 o) else none

/-- The size of LD by fn (Table 04-5). -/
def ldSize : Nat → Nat
  | 0 => 1
  | 1 => 1
  | 2 => 2
  | 3 => 2
  | 4 => 4
  | 5 => 4
  | _ => 8

/-- The value LD loads (R139): sign-extended under .B, .H and .W. -/
def ldValue (fn v : Nat) : Word :=
  if fn = 0 ∨ fn = 2 ∨ fn = 4 then wordOf (sextN (8 * ldSize fn) v) else BitVec.ofNat 64 v

/-- The scratchpad offset of LD and ST: ra + imm36, 64 bits, unsigned (R138). -/
def scrOffset (st : Stream) (x : Insn) : Nat := (st.reg x.r1 + wordOf x.imm).toNat

/-- The size of ST by fn. -/
def stSize (fn : Nat) : Nat := 2 ^ fn

/-- LD (R138 to R141). DEDUCED: notes/assumptions/23. -/
def execLd (fn : BitVec 4) (x : Insn) (ecc : Ecc) (s : State) : Out :=
  onCore x.core (issueInsn s x (some 0) (decide (fn.toNat < 7)) (fun s st =>
    if !isSA x.r0 || !isSA x.r1 then badOperand st
    else
      let n := ldSize fn.toNat
      let o := scrOffset st x
      match scrCheck o n with
      | some d => d
      | none =>
        match scrBad s x.core o n ecc with
        | some w => .go (scrUncorrectable s x.core x.stream w)
        | none => goReg (scrCorrected s x.core (eccCorrected ecc + scrSoft s x.core o n)) x x.r0
            (ldValue fn.toNat (leNat (scrRead s x.core o n)))))

/-- ST (R138 to R141): a narrower write reads and merges its word (R97). DEDUCED: notes/assumptions/23. -/
def execSt (fn : BitVec 4) (x : Insn) (ecc : Ecc) (s : State) : Out :=
  onCore x.core (issueInsn s x (some 0) (decide (fn.toNat < 4)) (fun s st =>
    if !isSA x.r0 || !isSA x.r1 then badOperand st
    else
      let n := stSize fn.toNat
      let o := scrOffset st x
      match scrCheck o n with
      | some d => d
      | none =>
        let d := bytesOf n (st.reg x.r0).toNat
        if n = 8 then .go (scrWrite s x.core o d)
        else match scrBad s x.core o n ecc with
          | some w => .go (scrUncorrectable s x.core x.stream w)
          | none => .go (scrMerge s x.core o d ecc)))

/-- ATOM.ADD, ATOM.SWAP, ATOM.CAS (R138, R139): the old word to rd; rc zero except in ATOM.CAS. DEDUCED: notes/assumptions/23. -/
def execAtom (fn : BitVec 4) (x : Insn) (ecc : Ecc) (s : State) : Out :=
  onCore x.core (issueInsn s x (some 0)
    (decide (fn.toNat < 3) && bitsN x.b 23 0 == 0 && (fn.toNat == 2 || x.r3 == 0)) (fun s st =>
    if !isSA x.r0 || !isSA x.r1 || !isSA x.r2 || !isSA x.r3 then badOperand st
    else
      let o := (st.reg x.r1).toNat
      match scrCheck o 8 with
      | some d => d
      | none =>
        match scrBad s x.core o 8 ecc with
        | some w => .go (scrUncorrectable s x.core x.stream w)
        | none =>
          let s1 := scrCorrected s x.core (eccCorrected ecc + scrSoft s x.core o 8)
          let old := BitVec.ofNat 64 (leNat (scrRead s x.core o 8))
          let b := st.reg x.r2
          let new := match fn.toNat with
            | 0 => some (old + b)
            | 1 => some b
            | _ => if old = st.reg x.r3 then some b else none
          let s2 := match new with
            | some w => scrWrite s1 x.core o (bytesOf 8 w.toNat)
            | none => s1
          goReg s2 x x.r0 old))

end Sys2Proof.Machine
end

