-- ==== Sys2Proof/Machine/Integrity.lean ====
section
/-! DEFINITION. Integrity of stored sectors (R457 to R465): what a read of DRAM or of Verge finds, the repair of a sector by its class
(Table 14-3), and the reads and writes that every agent outside the cores makes through the slices.
DESIGN CHOICE: notes/assumptions/104, 111. -/

namespace Sys2Proof.Machine

/-! ### Requests that wait for DRAM -/

/-- Put a request in place of the one of its number. -/
def putReq (s : State) (r : Req) : State := { s with reqs := s.reqs.map (fun q => if q.id = r.id then r else q) }
/-- The request of a number. -/
def reqOf (s : State) (id : Nat) : Option Req := s.reqs.find? (fun q => q.id == id)
/-- Take a request away. -/
def dropReq (s : State) (id : Nat) : State := { s with reqs := s.reqs.filter (fun q => q.id ≠ id) }

/-- The slice that a request of user stack memory or of the pinned window goes to (R264, R271). -/
def sliceOfAddr (a : Nat) : Nat :=
  match regionOf a with
  | .window sl _ => sl
  | _ => sliceOfLine (a / 2048)

/-- The address that a request brings to its slice: its source while it reads, and while it is read once more for a place that holds no
waybills; its destination while it writes. -/
def Req.target (r : Req) : Nat :=
  if r.phase = .rdV ∨ r.phase = .rdD ∨ r.phase = .back ∨ r.fresh ∨ ((r.phase = .reread ∨ r.phase = .repair) ∧ cacheable r.dst = false)
  then r.src else r.dst

/-- Whether a request is at its slice and has not been accepted there. -/
def Req.stands (r : Req) : Bool := r.here && (r.phase == .rdV || r.phase == .wrV)

/-- The requests that wait for a sector from DRAM, in the order in which their slice accepted them (R267). -/
def waitingFor (s : State) (sec : Nat) : List Req :=
  (s.reqs.filter (fun r => (r.phase == .rdD && r.src / 256 == sec) || (r.phase == .wrD && r.dst / 256 == sec))).insertionSort
    (fun a b => a.sent ≤ b.sent)

/-- Sector data goes back towards the cluster (R259): it is on its way through the cluster-cache half, with its waybill (R38). -/
def sendBack (s : State) (r : Req) (d : List Byte) (bad : Bool := false) : State :=
  putReq { s with nextId := s.nextId + 1 }
    { r with phase := .back, data := d, waiting := false, hold := 0, sent := s.nextId, bad := bad }

/-- The hotspots of a slice whose bank no request waits for any more end (R282). -/
def endHotspot (s : State) (i : Nat) : State :=
  let x := sliceOf s i
  if x.hot = [] then s
  else
    let waits (h : Nat × Nat) : Bool := s.reqs.any (fun r => r.stands && sliceOfAddr r.target == i &&
      pcOfLine (r.target / 2048) == h.1 && bankOfLine (r.target / 2048) == h.2)
    let hot := x.hot.filter waits
    wrb (setSlice s i { x with hot := hot }) (VRG_HOTSPOT i) VRG_HOTSPOT_active (hot != [])

/-! ### Repair by class (Table 14-3) -/

/-- The leases on a shard that have not been revoked. -/
def liveLeases (s : State) (k i : Nat) : List (Nat × Lease) :=
  (engOf s k).leases.filter (fun p => p.2.shard == i && !p.2.revoked)

/-- The number of blocks of a shard (R298). -/
def Shard.blocks (x : Shard) : Nat := (x.n + 63) / 64

/-- The element numbers of a block. -/
def Shard.blockElems (x : Shard) (b : Nat) : List Nat := (upto (min 64 (x.n - 64 * b))).map (fun j => 64 * b + j)

/-- A keeper's write of bytes whose checks are left to the next read: a repair's own. -/
def keeperRaw (s : State) (k a : Nat) (d : List Byte) : State :=
  (sectorPieces (d.length + 1) a d).foldl (fun s p => keeperPut s k p.1 p.2) s

/-- The block of 64 elements that byte o of a moment area belongs to (Table 09-2). -/
def momentBlock (x : Shard) (o : Nat) : Nat :=
  if x.q8 then
    (if o < x.n then o / 64 else if o < 2 * x.n then (o - x.n) / 64
     else if o < 2 * x.n + 2 * x.blocks then (o - 2 * x.n) / 2 else (o - 2 * x.n - 2 * x.blocks) / 2)
  else if o < 4 * x.n then o / 256 else (o - 4 * x.n) / 256

/-- Both moments of a block are zero, with a Q8 scale of +0 (Table 14-3): the keeper of stack k writes them. -/
def zeroMoments (s : State) (k : Nat) (x : Shard) (b : Nat) : State :=
  let len := (x.blockElems b).length
  [0, 1].foldl (fun s w =>
    if x.q8 then
      keeperRaw (keeperRaw s k (x.moments + w * x.n + 64 * b) (List.replicate len 0))
        k (x.moments + 2 * x.n + 2 * (w * x.blocks + b)) [0, 0]
    else keeperRaw s k (x.moments + 4 * (w * x.n + 64 * b)) (List.replicate (4 * len) 0)) s

/-- The moments of every block in a sector of a moment area are zeroed. -/
def zeroMomentSector (s : State) (sec : Nat) : State :=
  match classOf s (sec * 256) with
  | .moments e i =>
    (match smFind? (engOf s e).shards i with
     | some x => (((upto 256).map (fun j => momentBlock x (sec * 256 + j - x.moments))).dedup).foldl (fun s b => zeroMoments s (stackOfLine (sec / 8)) x b) s
     | none => s)
  | _ => s

/-- The site of a sector in the repair log (Table 14-7): stack and pseudo-channel where it stands, class; of a window sector its slice. -/
def sectorSite (s : State) (sec cls : Nat) : Nat :=
  match regionOf (sec * 256) with
  | .window sl _ => repSite sl 0 0 cls
  | _ => let g := (placeOf s sec).1; repSite (g / 32) (g % 32) 0 cls

/-- A sector is poisoned (R463): marked, counted, logged. -/
def poisonSector (s : State) (sec : Nat) : State :=
  let s1 := modMem (invSector s sec) (fun m => { m with
    poison := if m.poison.contains sec then m.poison else m.poison ++ [sec]
    flaws := smErase m.flaws sec, broken := m.broken.filter (· ≠ sec) })
  let a := sec * 256
  logAppend (count s1 REP_COUNT_0 REP_COUNT_0_poisoned) repairLog 11
    (sectorSite s sec (classOf s a).num) (BitVec.ofNat 64 a) 0

/-- A sector is restored with data (R464): written with a fresh waybill, counted, logged; on a lost pseudo-channel the data go
into the line, clean (R474). DEDUCED: notes/assumptions/57. -/
def restoreSector (s : State) (sec : Nat) (d : List Byte) : State :=
  let a := sec * 256
  let s1 := invSector (modMem s (fun m => { m with
    poison := m.poison.filter (· ≠ sec), flaws := smErase m.flaws sec, broken := m.broken.filter (· ≠ sec) })) sec
  let s2 := if s.mem.lostPcs.contains (placeOf s sec).1 then s1 else dramStore s1 sec d
  logAppend (count s2 REP_COUNT_0 REP_COUNT_0_repaired) repairLog 10
    (sectorSite s sec (classOf s a).num) (BitVec.ofNat 64 a) 0

/-- The held writes whose bytes stand in [lo, hi) of the hold area, which holds them in order (R444): what the model takes as its layout.
DESIGN CHOICE: notes/assumptions/111. -/
def heldIn : Nat → List HeldWrite → Nat → Nat → List HeldWrite
  | _, [], _, _ => []
  | at_, w :: r, lo, hi =>
    (if at_ < hi ∧ lo < at_ + w.data.length then [w] else []) ++ heldIn (at_ + w.data.length) r lo hi

/-- The writes that a sector of the hold area holds are discarded (Table 14-3, R445): the area starts at the service stack's reserve.
DESIGN CHOICE: notes/assumptions/111. -/
def discardSector (s : State) (sec : Nat) : State :=
  let base := reserveBase + rdf s REP_STATUS REP_STATUS_service_stack * 0x80000000
  if sec * 256 < base ∨ base + 16 * 2 ^ 20 ≤ sec * 256 then s
  else
    let gone := heldIn 0 s.host.holdQ (sec * 256 - base) (sec * 256 - base + 256)
    if gone = [] then s
    else writesLost (modHost s (fun h => { h with holdQ := h.holdQ.filter (fun w => !gone.contains w) })) gone

/-- A sector that does not hold the current version is recomputed from the current master (R320 item 3): counted, with the
lease source raised. -/
def recomputed (s : State) (sec : Nat) : State :=
  match classOf s (sec * 256) with
  | .workingSet e i set =>
    match smFind? (engOf s e).shards i with
    | some x =>
      let k := stackOfLine (sec / 8)
      if x.twoSets && set != x.version % 2 then raiseEvent (count s (KRB_COUNT_2 k) KRB_COUNT_2_recomputed) (176 + k) else s
    | none => s
  | _ => s

/-- Where another copy of a sector stands (R319, R320 item 2): for a replica address, the owner's set of the leased version; for a
working set that does not hold the current version, the replica address of a lease on the version it holds. -/
def otherCopy (s : State) (sec : Nat) : Option (Nat × Nat) :=
  let a := sec * 256
  match classOf s a with
  | .replica e j => (smFind? (engOf s e).leases j).map (fun l => (l.dev, l.set + (a - l.replica)))
  | .workingSet e i set =>
    match smFind? (engOf s e).shards i with
    | some x =>
      if !x.twoSets || set == x.version % 2 then none
      else ((liveLeases s e i).find? (fun p => p.2.replica != 0 && p.2.version + 1 == x.version)).map (fun p =>
        (p.2.holder, p.2.replica + (a - (if set = 0 then x.set0 else x.set1))))
    | none => none
  | _ => none

/-- The repair of a sector from what this device holds (Table 14-3): the restored data, or none where it is poisoned. -/
def repairLocal (s : State) (sec : Nat) : Option (List Byte) × State :=
  match repairData s sec none with
  | some d => (some d, recomputed (restoreSector (zeroMomentSector (discardSector s sec) sec) sec d) sec)
  | none => (none, poisonSector s sec)

/-- A refetched sector is written with a fresh waybill and counted (R319, R320). -/
def refetchedAs (s : State) (sec : Nat) (d : List Byte) : State :=
  count (restoreSector s sec d) (KRB_COUNT_2 (stackOfLine (sec / 8))) KRB_COUNT_2_refetched

/-- The bytes of another copy that stands on this device: in user stack memory, and whole (R43). -/
def copyHere (s : State) (a0 : Nat) : Option (List Byte) :=
  let a := localForm s a0
  if rangeOk .kerb a 256 && decide (a < userEnd) && !(sectorGone s (a / 256)) then some (peek s a 256) else none

/-- Free bytes: what the spec leaves unspecified (R147). -/
def freeBytes (s : State) (n : Nat) : List Byte × State :=
  let (k, s1) := takeFree s
  ((upto n).map (fun i => Config.freeByte k i), s1)

/-- The repair of a sector for an access that completes within its command: a copy that another device holds brings bytes that the model
does not hold, while this device has an ID (R47). DESIGN CHOICE: notes/assumptions/104. -/
def repairNow (s : State) (sec : Nat) : Option (List Byte) × State :=
  match otherCopy s sec with
  | none => repairLocal s sec
  | some (dev, a) =>
    if dev = selfId s then
      (match copyHere s a with
       | some d => (some d, refetchedAs s sec d)
       | none => repairLocal s sec)
    else if rdb s CWY_SELF_ID CWY_SELF_ID_id_valid then
      let (d, s1) := freeBytes s 256
      (some d, refetchedAs s1 sec d)
    else repairLocal s sec

/-! ### Checks (R458 to R462) -/

/-- A correction by the ECC of a stored sector is counted (R461). -/
def noteStored (s : State) (sec : Nat) (f : Flaw) : State :=
  match regionOf (sec * 256) with
  | .window _ _ => count s REP_COUNT_1 REP_COUNT_1_verge_corrected (eccCorrected (vergeEcc f.errs))
  | _ => noteCorrected s sec f.errs

/-- A read of a sector that has a flaw, in DRAM or in the window storage: corrected, read once more, or repaired. -/
def meetFlaw (s : State) (sec : Nat) : Option (List Byte) × State :=
  let f := flawOf s sec
  if s.mem.broken.contains sec then repairNow s sec
  else if onLostPc s sec || eccOf s sec == .uncorrectable then repairNow (count s REP_COUNT_1 REP_COUNT_1_uncorrectable) sec
  else
    let s1 := noteStored s sec f
    if f.once then (some (storedRead s sec), count (setFlaw s1 sec { f with once := false }) REP_COUNT_0 REP_COUNT_0_wb_reread)
    else if billOk f (storedRead s sec) then (some (storedRead s sec), s1)
    else repairNow (count s1 REP_COUNT_0 REP_COUNT_0_wb_mismatch) sec

/-- What a read of DRAM or of the window storage gives for a sector, with its checks and its repair (R458 to R464). -/
def meet (s : State) (sec : Nat) : Option (List Byte) × State :=
  if poisoned s sec then (none, s)
  else if smHas s.mem.flaws sec || s.mem.broken.contains sec || onLostPc s sec then meetFlaw s sec
  else (some (storedRead s sec), s)

/-- The checks of a sector's copy in Verge (R458, R461, R462): a clean one that fails its ECC is given up for DRAM's, counted as corrected;
any other failure goes to repair. -/
def vergeMeet (s : State) (sec : Nat) : State :=
  let f := flawV s sec
  if f = {} then s
  else match findSector s sec with
    | none => s
    | some x =>
      match vergeEcc f.errs with
      | .uncorrectable =>
        if x.st = .clean then count (invSector s sec) REP_COUNT_1 REP_COUNT_1_verge_corrected
        else (repairNow (invSector (count s REP_COUNT_1 REP_COUNT_1_uncorrectable) sec) sec).2
      | e =>
        let s1 := count s REP_COUNT_1 REP_COUNT_1_verge_corrected (eccCorrected e)
        if f.once then count (setFlawV s1 sec { f with once := false }) REP_COUNT_0 REP_COUNT_0_wb_reread
        else if billOk f x.data then s1
        else (repairNow (invSector (count s1 REP_COUNT_0 REP_COUNT_0_wb_mismatch) sec) sec).2

/-- A keeper reads a sector for its own work (R458): its checks, and, on a lost pseudo-channel, the restored data in the Verge line
(R474). -/
def keeperMeet (s : State) (sec : Nat) : State :=
  if inVerge s sec then vergeMeet s sec
  else match meet s sec with
    | (some d, s1) =>
      if s.mem.lostPcs.contains (placeOf s sec).1 then
        (match allocLine s1 (sec / 8) with
         | some s2 => putSector s2 sec ⟨.clean, d⟩
         | none => s1)
      else s1
    | (none, s1) => s1

/-- Whether some stored sector is not sound. -/
def anyFlaw (s : State) : Bool :=
  s.mem.flaws != [] || s.mem.broken != [] || s.mem.lostPcs != [] || s.mem.gone != [] ||
  s.slices.any (fun p => p.2.lines.any (fun v => v.flaws != []))

/-- A keeper reads the bytes [a, a + n) of user stack memory for its own work. -/
def meetBytes (s : State) (a n : Nat) : State :=
  if n = 0 ∨ anyFlaw s = false then s
  else (upto ((a + n - 1) / 256 + 1 - a / 256)).foldl (fun s i => keeperMeet s (a / 256 + i)) s

/-- The sectors of a line that its sums wait for are repaired first. -/
def soundLine (s : State) (l : Nat) : State :=
  if owesSums s l && lineFlawed s l then (upto 8).foldl (fun s i => keeperMeet s (l * 8 + i)) s else s

/-! ### Reads and writes through the slices -/

/-- A reduction that does not wait in the slice (R269, R309): where no way is free or its push finds no room, the keeper first applies
what it accepted first; where that does not help either, the keeper takes the sums as a push of their own, with the checks of one.
DESIGN CHOICE: notes/assumptions/104. -/
def reduceNow (s : State) (op epoch a : Nat) (d : List Byte) : State :=
  let l := lineOf a
  let s0 := soundLine s l
  match vReduce s0 op epoch a d with
  | some s1 => s1
  | none =>
    let s1 := keeperRoom s0 (stackOfLine l)
    match vReduce s1 op epoch a d with
    | some s2 => s2
    | none =>
      let w := opBytes op
      let es := (elemsOf w d).zipIdx.map (fun e => (a % 2048 / w + e.2, BitVec.ofNat 32 e.1))
      (pushesOf s1 l { op := op, epoch := epoch, age := 0, elems := es }).foldl (fun s p =>
        if p.held = 0 then applyPush s p
        else modEng s (stackOfLine l) (fun e => { e with pushes := e.pushes ++ [p] })) s1

/-- A read of a sector whose line holds no reductions (R265 to R277, R458 to R464). -/
def readHere (s : State) (who : Reader) (noAlloc : Bool) (sec : Nat) : VRes × State := readWith meet (vergeMeet s sec) who noAlloc sec

/-- A write of bytes inside one sector whose line holds no reductions (R266). -/
def writeHere (s : State) (noAlloc : Bool) (a : Nat) (d : List Byte) : State :=
  writeWith meet (if d.length < 256 then vergeMeet s (a / 256) else s) noAlloc a d

/-- A sector is in its slice with good data: every request that waits for it is answered in the order of acceptance (R267),
readers in one multicast (R263), writes merged in turn (R266). -/
def fillSector (s : State) (sec : Nat) (d : List Byte) : State :=
  let rs := waitingFor s sec
  let keep := rs.any (fun r => !r.noAlloc || r.phase == .rdD)
  let s1 := if keep then
      match allocLine s (sec / 8) with
      | some s2 => (match findSector s2 sec with
        | some x => if x.st = .dead then putSector s2 sec ⟨.clean, d⟩ else s2
        | none => putSector s2 sec ⟨.clean, d⟩)
      | none => s
    else s
  let s3 := rs.foldl (fun s r =>
    if r.phase = .rdD then sendBack s r (peekSector s sec)
    else putReq (writeHere s r.noAlloc r.dst r.data) { r with phase := .fin }) s1
  endHotspot s3 (sliceOfLine (sec / 8))

/-- A sector that requests wait for is brought from DRAM for an access that comes after them and does not wait in the slice
(R267). DESIGN CHOICE: notes/assumptions/104. -/
def fillNow (s : State) (sec : Nat) : State :=
  if waitingFor s sec = [] then s
  else match meet s sec with
    | (some d, s1) => fillSector s1 sec d
    | (none, s1) => s1

/-- A read of a sector through its slice by an agent whose accesses do not wait there (R265 to R277): reductions first reach
memory, and requests accepted before are answered first. -/
def vReadSector (s : State) (who : Reader) (noAlloc : Bool) (sec : Nat) : VRes × State :=
  readHere (fillNow (settleLine (soundLine s (sec / 8)) (sec / 8)) sec) who noAlloc sec

/-- A write of bytes inside one sector of user stack memory through its slice by such an agent (R266). -/
def vWriteSector (s : State) (noAlloc : Bool) (a : Nat) (d : List Byte) : State :=
  writeHere (fillNow (settleLine (soundLine s (a / 2048)) (a / 2048)) (a / 256)) noAlloc a d

/-- The write of a keeper, that of stack k, of bytes to user stack memory (R295): its own stack's sectors past the slice, every other
through the slice that holds it, as any requester's write. -/
def keeperWrite (s : State) (k a : Nat) (d : List Byte) : State :=
  (sectorPieces (d.length + 1) a d).foldl (fun s p =>
    if stackOfLine (p.1 / 2048) = k then keeperWriteSector (if p.2.length < 256 then keeperMeet s (p.1 / 256) else s) p.1 p.2
    else vWriteSector s false p.1 p.2) s

/-- A read of bytes inside one sector of the window storage or of the reserve, as the sector's checks leave it. -/
def storedPart (s : State) (a n : Nat) : VRes × State :=
  match meet s (a / 256) with
  | (some d, s1) => (.data ((d.drop (a % 256)).take n), s1)
  | (none, s1) => (.poisoned, s1)

/-- A read of bytes inside one sector, of any memory of this device, by an agent outside the cores. A scratchpad word that proves
uncorrectable gives no data, and halts its core (R97). DESIGN CHOICE: notes/assumptions/104. -/
def sysReadSector (s : State) (who : Reader) (a n : Nat) : VRes × State :=
  match regionOf a with
  | .window sl o =>
    if windowOk s sl o then
      storedPart s a n
    else (.fault, s)
  | .scratch l o =>
    match scrBad s l o n .clean with
    | some w => (.poisoned, scrUncorrectable s l (firstLive s l) w)
    | none => (.data (memRead s.mem a n), scrCorrected s l (scrSoft s l o n))
  | .reserve => storedPart s a n
  | .user =>
    match vReadSector s who false (a / 256) with
    | (.data d, s1) => (.data ((d.drop (a % 256)).take n), s1)
    | r => r
  | _ => (.fault, s)

/-- A read of bytes, sector by sector; the first sector that gives no data ends it. -/
def sysReadFrom : Nat → State → Reader → Nat → Nat → VRes × State
  | 0, s, _, _, _ => (.data [], s)
  | fuel + 1, s, who, a, n =>
    if n = 0 then (.data [], s)
    else
      let k := min n (256 - a % 256)
      match sysReadSector s who a k with
      | (.data d, s1) =>
        match sysReadFrom fuel s1 who (a + k) (n - k) with
        | (.data e, s2) => (.data (d ++ e), s2)
        | r => r
      | r => r

/-- A read of the bytes [a, a + n) of this device by an agent outside the cores: checked as a whole against the address map
(R43, R44), then made through the slices. -/
def sysRead (s : State) (req : Requester) (who : Reader) (a n : Nat) : VRes × State :=
  if n = 0 then (.data [], s)
  else if rangeOk req a n then sysReadFrom (n / 256 + 2) s who a n else (.fault, s)

/-- A write of bytes inside one sector of the window storage or of the reserve: a part is merged over what the sector's checks leave, with
a fresh waybill (R457); a poisoned sector stays so until all of it is written (R463). -/
def storedWrite (s : State) (a : Nat) (d : List Byte) : State :=
  let sec := a / 256
  let s1 := if d.length < 256 ∧ smHas s.mem.flaws sec = true then (meet s sec).2 else s
  modMem s1 (fun m => { memWrite m a d with
    poison := if d.length = 256 then m.poison.filter (· ≠ sec) else m.poison
    flaws := smErase m.flaws sec, broken := if d.length = 256 then m.broken.filter (· ≠ sec) else m.broken })

/-- A write of bytes inside one sector of this device. -/
def sysWriteSector (s : State) (a : Nat) (d : List Byte) : VRes × State :=
  match regionOf a with
  | .window sl o =>
    if windowOk s sl o then
      (.data [], storedWrite s a d)
    else (.fault, s)
  | .scratch l o =>
    (match scrEdge s l o d.length .clean with
     | some w => (.poisoned, scrUncorrectable s l (firstLive s l) w)
     | none => (.data [], scrMerge s l o d .clean))
  | .reserve => (.data [], storedWrite s a d)
  | .user => (.data [], vWriteSector s false a d)
  | _ => (.fault, s)

/-- A write of bytes to this device by an agent outside the cores (R43, R44). -/
def sysWrite (s : State) (req : Requester) (a : Nat) (d : List Byte) : VRes × State :=
  if d = [] then (.data [], s)
  else if rangeOk req a d.length then
    (sectorPieces (d.length + 1) a d).foldl (fun (r : VRes × State) p =>
      match r.1 with
      | .data _ => sysWriteSector r.2 p.1 p.2
      | _ => r) (.data [], s)
  else (.fault, s)

/-- The data of a read, where it gave data. -/
def VRes.get? : VRes → Option (List Byte)
  | .data d => some d
  | _ => none

end Sys2Proof.Machine
end

