-- ==== Sys2Proof/Machine/Movement.lean ====
section
/-! DEFINITION. The movement engine (R101 to R104, R141 to R148): descriptors, sector requests from issue to completion,
their way through the cluster cache and the slices (R256 to R270, R278 to R282), stream counters (R90 to R93) and the
deadlock rule. -/

namespace Sys2Proof.Machine

/-! ### Descriptors -/

/-- Whether some row of a descriptor side touches the bytes [lo, hi): base + r × pitch, 0 ≤ r < rows, row_bytes each. -/
def rowsTouch (base : Int) (pitch : Int) (rows rb : Nat) (lo hi : Int) : Bool :=
  if rows = 0 ∨ rb = 0 then false
  else
    -- r × pitch must lie strictly between lo − rb − base and hi − base
    let a := lo - rb - base
    let b := hi - base
    if pitch = 0 then decide (a < 0) && decide (0 < b)
    else
      let p : Int := if pitch > 0 then pitch else -pitch
      let (x, y) : Int × Int := if pitch > 0 then (a, b) else (-b, -a)
      let r := max 0 (x / p + 1)
      decide (r * p < y) && decide (r < rows)

/-- The first byte and the byte past the last of the rows of a descriptor side, over all rows. -/
def rowsSpan (base : Nat) (pitch : Int) (rows rb : Nat) : Int × Int :=
  let last := (base : Int) + pitch * (rows - 1)
  (min (base : Int) last, max (base : Int) last + rb)

/-- Whether every row of a side lies in [lo, hi). -/
def rowsIn (base : Nat) (pitch : Int) (rows rb lo hi : Nat) : Bool :=
  rows = 0 || rb = 0 ||
  (decide ((lo : Int) ≤ (rowsSpan base pitch rows rb).1) && decide ((rowsSpan base pitch rows rb).2 ≤ hi))

/-- The even rows of a descriptor side, or the odd ones, as a side of its own: where a pitch steps between an address and its other form
(R45), every second row has the same form. -/
def halfSide (base : Nat) (pitch : Int) (rows : Nat) (odd : Bool) : Nat × Int × Nat :=
  (if odd then wrapN 64 ((base : Int) + pitch) else base, sextN 64 (wrapN 64 (2 * pitch)), if odd then rows / 2 else (rows + 1) / 2)

/-- Whether every row of a side lies in [lo, hi) of this device, under its local or its own global address (R45). -/
def sideIn (s : State) (base : Nat) (pitch : Int) (rows rb lo hi : Nat) : Bool :=
  [false, true].all (fun odd =>
    let (b, p, n) := halfSide base pitch rows odd
    rowsIn (localForm s b) p n rb lo hi)

/-- Whether some row of a side touches the bytes [lo, hi) of this device, under their local or their own global address (R45). -/
def sideTouch (s : State) (base : Nat) (pitch : Int) (rows rb lo hi : Nat) : Bool :=
  let g : Int := toGlobal (selfId s) 0
  [false, true].any (fun odd =>
    let (b, p, n) := halfSide base pitch rows odd
    [0, g, g - 2 ^ 64, 2 ^ 64].any (fun o => rowsTouch b p n rb (lo + o) (hi + o)))

/-- The checks on a descriptor's contents (R145), beside the zero fields of its layout. The user stack memory that a reduction may
reach is this device's own, under its local or its own global address (R45): a reduction into a peer's faults, the model's
choice. DESIGN CHOICE: notes/assumptions/103. -/
def descOk (s : State) (l : Nat) (d : Desc) : Bool :=
  if d.op = 0 then true
  else
    let w : Nat := if d.op = 1 then 4 else 2
    decide (d.op < 3) &&
    sideIn s d.dst d.dstPitch d.rows d.rowBytes 0 userEnd &&
    sideIn s d.src d.srcPitch d.rows d.rowBytes (scratchAddr l 0) (scratchAddr l 0x20000) &&
    d.src % w == 0 && d.dst % w == 0 && d.rowBytes % w == 0 && d.srcPitch % w == 0 && d.dstPitch % w == 0

/-- A descriptor read from its 64 bytes (Table 04-7); none if a zero field or the op is not as defined (R145). -/
def descOfBytes (d : List Byte) (id : Nat) (t : StreamId) (ctr prov : Option Nat) : Option Desc :=
  let w (i : Nat) : Nat := leNat ((d.drop (8 * i)).take 8)
  let c := w 5
  if bitsN c 63 48 ≠ 0 ∨ bitsN c 31 10 ≠ 0 ∨ bitsN c 7 4 ≠ 0 ∨ bitsN c 3 0 > 2 ∨ w 6 ≠ 0 ∨ w 7 ≠ 0 then none
  else some { id := id, stream := t, src := w 0, dst := w 1, rows := w 2 / 2 ^ 32, rowBytes := w 2 % 2 ^ 32
              srcPitch := sextN 64 (w 3), dstPitch := sextN 64 (w 4), op := bitsN c 3 0, epoch := bitsN c 47 32
              noAlloc := bitsN c 9 9 == 1, deadSrc := bitsN c 8 8 == 1, ctr := ctr, prov := prov }

/-- The descriptors and maintenance operations of a stream not yet complete (R142). -/
def accepted (c : CoreSt) (t : StreamId) : Nat :=
  (c.descs.filter (fun d => d.stream == t)).length + (c.maints.filter (fun m => m.stream == t)).length

/-- The requests of a descriptor that are outstanding. -/
def outstanding (s : State) (l id : Nat) : List Req := s.reqs.filter (fun r => r.core == l && r.desc == id && r.kind == .move)

/-- The pass of the open section of a stream, if any: what tags provisional sectors (R211). -/
def passOf (x : Stream) : Option Nat := x.sect.map (·.retries)

/-- Accept a descriptor (R142, R146): one that moves nothing completes at once. -/
def acceptDesc (s : State) (l : Nat) (d : Desc) : State :=
  if d.rows = 0 ∨ d.rowBytes = 0 then
    match d.ctr with
    | some e => raiseCtr s l e 1
    | none => s
  else modCore { s with nextId := s.nextId + 1 } l (fun c => { c with descs := c.descs ++ [d] })

/-- The line of a read-only cache that holds an address, now the most recently used. -/
def roHit (s : State) (l : Nat) (k : RoKind) (a : Nat) : Option (List Byte × State) :=
  let c := coreOf s l
  match c.ro.find? (fun x => x.kind == k && x.line == a / 256) with
  | some x => some (x.data, setCore s l { c with ro := x :: c.ro.filter (fun y => !(y.kind == k && y.line == a / 256)) })
  | none => none

/-- A read through the descriptor cache (R98, R99, R143): the bytes, a wait for the fill, or an address fault: outside the
readable regions, and where the fill brought no data (R277). -/
def roRead (s : State) (l : Nat) (k : RoKind) (a n : Nat) (got : State → List Byte → Done) : Done :=
  if !roReadable s a n then .fault 0x04 a
  else match roHit s l k (localForm s a) with
    | some (d, s1) => got s1 ((d.drop (a % 256)).take n)
    | none => if (coreOf s l).roFailed.contains (k, localForm s a / 256) then .fault 0x04 a else .stall

/-- Ask for a read-only-cache fill that an issuing instruction waits for (R98). -/
def askFill (s : State) (l : Nat) (k : RoKind) (line : Nat) : State :=
  modCore s l (fun c => { c with fills := if c.fills.contains (k, line) then c.fills else c.fills ++ [(k, line)] })

/-- MOVD (R142 to R146): read the descriptor at ra + imm36 and start it. -/
def movdBody (x : Insn) (s : State) (st : Stream) : Done :=
  if !isSA x.r0 then badOperand st
  else
    let a := (st.reg x.r0 + wordOf x.imm).toNat
    if a % 64 ≠ 0 then .fault 0x09 a
    else if accepted (coreOf s x.core) x.stream ≥ 8 then .stall
    else roRead s x.core .desc a 64 (fun s1 d =>
      match descOfBytes d s1.nextId x.stream (if x.ctrEn then some x.e else none) (passOf st) with
      | some dd => if descOk s1 x.core dd then .go (acceptDesc s1 x.core dd) else .fault 0x09 a
      | none => .fault 0x09 a)

/-- The address of the descriptor or command block that MOVD or KCMD would read, when its cache holds it not. -/
def missesDesc (x : Insn) (s : State) : Bool :=
  let st := strOf s x.core x.stream
  let a := (st.reg x.r0 + wordOf x.imm).toNat
  st.st == .running && isSA x.r0 && a % 64 == 0 && roReadable s a 64 && predHolds st x &&
  !(coreOf s x.core).ro.any (fun y => y.kind == .desc && y.line == localForm s a / 256)

/-- The descriptor line of an instruction that reads one through the descriptor cache. -/
def descLine (x : Insn) (s : State) : Nat :=
  localForm s ((strOf s x.core x.stream).reg x.r0 + wordOf x.imm).toNat / 256

/-- Before an instruction reads its descriptor line: a line not in the cache is asked for (R98); the record of a fill that brought
no data is used up by the fault of the instruction that meets it. -/
def askDesc (x : Insn) (s : State) : State :=
  if missesDesc x s then
    if (coreOf s x.core).roFailed.contains (.desc, descLine x s) then s else askFill s x.core .desc (descLine x s)
  else s

/-- After it: the record is used up. -/
def usedDesc (x : Insn) (s t : State) : State :=
  if (coreOf s x.core).roFailed.contains (.desc, descLine x s) ∧ (strOf t x.core x.stream).live = false then
    clearFailed t x.core .desc (descLine x s)
  else t

/-- MOVD; a descriptor not in the descriptor cache asks for its fill and waits at issue (R98, R143). -/
def execMovd (x : Insn) (s : State) : Out :=
  let legal := bitsN x.b 37 36 == 0
  let s1 := if legal then askDesc x s else s
  onCore x.core (usedDesc x s1 (issueInsn s1 x (some 1) legal (movdBody x)))

/-- MOVR, MOVR.RED.F32, MOVR.RED.BF16 (R142, R145): one row; rc holds the length and a reduction's epoch. -/
def execMovr (fn : BitVec 4) (x : Insn) (s : State) : Out :=
  let ctrEn := bitsN x.b 20 20 == 1
  let e := bitsN x.b 23 21
  onCore x.core (issueInsn s x (some 1) (decide (fn.toNat < 3) && bitsN x.b 19 0 == 0 && x.r0 == 0)
    (fun s st =>
      if !isSA x.r1 || !isSA x.r2 || !isSA x.r3 then badOperand st
      else
        let rc := st.reg x.r3
        if bits rc 63 48 ≠ 0 ∨ (fn.toNat = 0 ∧ bits rc 47 32 ≠ 0) then badOperand st
        else if accepted (coreOf s x.core) x.stream ≥ 8 then .stall
        else
          let d : Desc := { id := s.nextId, stream := x.stream, src := (st.reg x.r2).toNat, dst := (st.reg x.r1).toNat
                            rows := 1, rowBytes := bits rc 31 0, srcPitch := 0, dstPitch := 0, op := fn.toNat
                            epoch := bits rc 47 32, noAlloc := false, deadSrc := false
                            ctr := if ctrEn then some e else none, prov := passOf st }
          if descOk s x.core d then .go (acceptDesc s x.core d) else .fault 0x09 st.pc))

/-! ### Where a request's addresses lead -/

/-- Where one side of a sector request leads. -/
inductive Side where
  | own (off : Nat)
  | scratch (core off : Nat)
  | verge (a : Nat)
  | peer (a : Nat)
  | host (x : HostXlat)
  | bad
deriving DecidableEq, Repr

/-- The side of a request of a core at a device address (R39, R43 to R45, R47, R148, R271). -/
def sideOf (s : State) (l : Nat) (t : StreamId) (a n : Nat) (write : Bool) : Side :=
  let local_ (a : Nat) (glob : Bool) : Side :=
    if !rangeOk .core a n then .bad
    else match regionOf a with
      | .user => .verge a
      | .window sl o => if windowOk s sl o then .verge a else .bad
      | .scratch c o => if c = l then .own o else .scratch c o
      | .host => if glob then .bad else .host (hostXlat s (strOf s l t).owner a write)
      | _ => .bad
  if isGlobal a then
    if globalDev a = selfId s then local_ (globalLocal a) true
    else if rdb s CWY_SELF_ID CWY_SELF_ID_id_valid then .peer a else .bad
  else local_ a false

/-! ### Read-only caches (Table 03-5) -/

/-- The sets of a read-only cache. -/
def roSets : RoKind → Nat
  | .instr => 32
  | .const => 16
  | .desc => 1

/-- The ways of a set that a core uses (R116). -/
def roWays (k : RoKind) (half : Bool) : Nat :=
  let w := match k with
    | .instr => 4
    | .const => 2
    | .desc => 16
  if half then w / 2 else w

/-- A core that becomes doubled up keeps the most recently used lines that its half of the ways holds (R116). -/
def roHalve (s : State) (l : Nat) : State :=
  modCore s l (fun c => { c with ro := c.ro.zipIdx.filterMap (fun p =>
    let before := (c.ro.take p.2).filter (fun x => x.kind == p.1.kind && x.line % roSets x.kind == p.1.line % roSets x.kind)
    if before.length < roWays p.1.kind true then some p.1 else none) })

/-! ### Slots -/

/-- Whether a logical core is doubled up (R115): its physical core serves two. -/
def doubled (s : State) (l : Nat) : Bool := decide ((servedBy s (clusterOf l) (physOf s l)).length > 1)

/-- The movement slots a stream holds: sector requests, maintenance operations, Kerb commands not yet accepted (R101, R159, R300). -/
def slotsHeld (s : State) (l : Nat) (t : StreamId) : Nat :=
  (s.reqs.filter (fun r => r.core == l && r.stream == t && r.kind == .move)).length +
  ((coreOf s l).maints.filter (fun m => m.stream == t)).length +
  ((s.engines.flatMap (fun e => e.2.cmds)).filter (fun c => c.phase == .offered &&
    (match c.src with | .core l' t' _ => l' == l && t' == t | _ => false))).length

/-- Whether a stream may take another slot (R101, R116): two reserved each, the others shared. -/
def slotFree (s : State) (l : Nat) (t : StreamId) : Bool :=
  let h := slotsHeld s l t
  let shared := (allStreams.map (fun u => slotsHeld s l u - 2)).sum
  let (pool, most) := if doubled s l then (2, 4) else (10, 12)
  h < 2 || (decide (h < most) && decide (shared < pool))

/-! ### Requests -/

/-- The size of the next request of a descriptor (R101): it crosses no 256-byte boundary of an address outside the core's
own scratchpad. -/
def nextLen (d : Desc) (ownSrc ownDst : Bool) (src dst : Nat) : Nat :=
  let n := d.rowBytes - d.off
  let n1 := if ownSrc then min n 256 else min n (256 - src % 256)
  if ownDst then n1 else min n1 (256 - dst % 256)

/-- Whether an address lies in a core's own scratchpad window. -/
def isOwn (s : State) (l a : Nat) : Bool :=
  !isGlobal (localForm s a) &&
  (match regionOf (localForm s a) with
   | .scratch c _ => c == l
   | _ => false)

/-- The provisional sectors that a core holds or has asked for (R213), each as (stream, pass, sector). -/
def provKeys (s : State) (l : Nat) : List (Nat × Nat × Nat) :=
  (((s.slices.flatMap (fun p => p.2.prov)).filter (fun p => p.core == l)).map (fun p => (strNum p.stream, p.pass, p.sector)) ++
    s.reqs.filterMap (fun r => match r.prov with
      | some pass => if r.core = l ∧ (r.phase = .wrV ∨ r.fresh = true) then some (strNum r.stream, pass, localForm s r.dst / 256) else none
      | none => none)).dedup

/-- Whether one more request would take a core past its 2,048 provisional sectors (R213). -/
def provFull (s : State) (l : Nat) (t : StreamId) (pass dst : Nat) : Bool :=
  let ks := provKeys s l
  decide (2048 ≤ ks.length) && !ks.contains (strNum t, pass, localForm s dst / 256)

/-- The data a request writes: bytes whose destination lies among the descriptor's own source bytes are unspecified (R147). -/
def movedData (s : State) (l : Nat) (r : Req) (d : List Byte) : List Byte × State :=
  match (coreOf s l).descs.find? (fun x => x.id == r.desc) with
  | none => (d, s)
  | some x =>
    let dst := localForm s r.dst
    if sideTouch s x.src x.srcPitch x.rows x.rowBytes dst (dst + r.len) then
      let (k, s1) := takeFree s
      (d.zipIdx.map (fun p =>
        if sideTouch s x.src x.srcPitch x.rows x.rowBytes (dst + p.2) (dst + p.2 + 1) then Config.freeByte k p.2 else p.1), s1)
    else (d, s)

/-- A sticky tag (Table 08-7): once a request has entered a causeway later ones are ignored (R284). -/
def Req.stick (r : Req) (t : Nat) : Req := if r.tag = 6 then r else { r with tag := t }

/-- A request enters the mesh towards its slice (R262). -/
def enterMesh (s : State) (r : Req) (p : ReqPhase) : State :=
  putReq { s with nextId := s.nextId + 1 } { r with phase := p, sent := s.nextId, here := false, hold := 0 }

/-- Whether a side is outside the waybilled domain, or the device (R459). -/
def Side.leaves : Side → Bool
  | .peer _ => true
  | .host (.ok _ _) => true
  | .host (.suspended _ _) => true
  | _ => false

/-- A request has its source bytes and turns to its destination: a slice, another scratchpad, a peer or the host; a write of
the cluster updates its cluster-cache copies as it leaves (R260). A sector whose waybill does not match does not leave: it is read once
more (R459). -/
def toDest (s : State) (r : Req) (d0 : List Byte) : State :=
  let (d, s) := if r.op = 0 then movedData s r.core r d0 else (d0, s)
  let r1 := { r with data := d, fresh := false }
  if r.bad && (sideOf s r.core r.stream r.dst r.len true).leaves then putReq s { r1 with phase := .reread }
  else match sideOf s r.core r.stream r.dst r.len true with
  | .verge a =>
    let s1 := if r.prov.isNone && r.op == 0 then cchUpdate s (clusterOf r.core) a d else s
    enterMesh s1 { r1 with dst := a } .wrV
  | .peer _ => let r2 := { r1.stick 6 with phase := .ext }; askMove (putReq s r2) r2 true
  | .host (.ok _ _) => putReq s { r1 with phase := .ext }
  | .host (.suspended _ _) => putReq s { r1 with phase := .ext }
  | .host .refused => putReq s { r1 with phase := .fin, code := 0x0A }
  | .bad => putReq s { r1 with phase := .fin, code := 0x04 }
  | _ => putReq { s with nextId := s.nextId + 1 } { r1 with phase := .fin, sent := s.nextId }

/-- Count a cluster-cache hit or miss of a core's half (R290). -/
def countHit (s : State) (l : Nat) (hit : Bool) : State :=
  let c := clusterOf l
  let f := if halfOfCore s l = 0 then CCH_HIT_half0 else CCH_HIT_half1
  count s (if hit then CCH_HIT c else CCH_MISS c) f

/-- Whether an address lies in an enabled no-prefetch range (R279, R289). -/
def inNopf (s : State) (a : Nat) : Bool :=
  (upto 8).any (fun i =>
    let w := rd s (CCH_NOPF i)
    getb w CCH_NOPF_enable && decide (getf w CCH_NOPF_base_page ≤ a / 65536 % 2 ^ 25) &&
      decide (a / 65536 % 2 ^ 25 ≤ getf w CCH_NOPF_limit_page))

/-- Run-ahead prefetch (R278, R279): a sector miss next to the one that the core's tracker entry holds makes the half fetch the next
sectors in that direction, within the prefetch page, outside NOPF ranges, keeping the last 64 miss slots free. -/
def runAhead (s : State) (l sec : Nat) : State :=
  let k := halfKey (clusterOf l) (halfOfCore s l)
  let h := halfOf s k
  let mine := (h.tracker.filter (fun p => p.1 == l)).map (·.2)
  let s1 := setHalf s k { h with tracker := ((l, sec) :: h.tracker.filter (fun p => p.1 ≠ l)).take 16 }
  let d := rdf s CCH_CTRL CCH_CTRL_rap_depth
  let up := decide (sec > 0) && mine.contains (sec - 1)
  let down := mine.contains (sec + 1)
  let targets : List Nat :=
    if up then (upto d).map (fun i => sec + 1 + i)
    else if down then ((upto d).filter (fun i => decide (i + 1 ≤ sec))).map (fun i => sec - 1 - i) else []
  targets.foldl (fun s x =>
    let a := x * 256
    let h := halfOf s k
    if a / 65536 ≠ sec * 256 / 65536 ∨ inNopf s a ∨ !cacheable a ∨ !rangeOk .core a 256 ∨ h.misses.length + 64 ≥ 256
      ∨ h.lines.any (fun y => y.sector == x) ∨ h.misses.any (fun m => m.sector == x) then s
    else
      let s2 := setHalf s k { h with misses := h.misses ++ [{ sector := x, req := s.nextId }] }
      let r : Req := { id := s2.nextId, kind := .prefetch, core := l, stream := .F, desc := 0, src := a, dst := a
                       len := 256, op := 0, phase := .rdV, sent := s2.nextId }
      count { s2 with reqs := s2.reqs ++ [r], nextId := s2.nextId + 1 } (CCH_PF (clusterOf l)) CCH_PF_issued) s1

/-- A miss of a half (R259, R261): it shares the miss of its sector that is outstanding, unless an invalidation has passed since
that one was requested; otherwise it takes a miss slot and goes to Verge. -/
def cchMiss (s : State) (k : Nat) (r : Req) : State :=
  let h := halfOf s k
  match h.misses.find? (fun m => m.sector == r.src / 256 && !m.stale) with
  | some m => putReq s { r.stick 1 with phase := .rdV, waiting := true, lead := m.req }
  | none => enterMesh (setHalf s k { h with misses := h.misses ++ [{ sector := r.src / 256, req := r.id }] })
      { r.stick 1 with waiting := false } .rdV

/-- Look a sector up in a core's own half, then in the partner half. -/
def cchLookup (s : State) (l sec : Nat) : Option (CchLine × State) :=
  let c := clusterOf l
  let own := halfOfCore s l
  match cchHit s (halfKey c own) sec with
  | some r => some r
  | none => cchHit s (halfKey c (1 - own)) sec

/-- A read of a sector by a movement engine looks in its own half, then in the partner half, then misses (R259). The request
is already listed. -/
def cchRead (s : State) (r : Req) : State :=
  match cchLookup s r.core (r.src / 256) with
  | some (x, s1) => toDest (countHit s1 r.core true) { r with bad := x.bad } ((x.data.drop (r.src % 256)).take r.len)
  | none => runAhead (cchMiss (countHit s r.core false) (halfKey (clusterOf r.core) (halfOfCore s r.core)) r) r.core (r.src / 256)

/-- Whether a miss of this sector would find no miss slot in the core's half (R281). -/
def missSlotsFull (s : State) (l sec : Nat) : Bool :=
  let c := clusterOf l
  let own := halfOfCore s l
  let hit (k : Nat) : Bool := (halfOf s k).lines.any (fun x => x.sector == sec)
  let h := halfOf s (halfKey c own)
  !hit (halfKey c own) && !hit (halfKey c (1 - own)) && !h.misses.any (fun m => m.sector == sec && !m.stale) &&
    decide (h.misses.length ≥ 256)

/-- A descriptor ends early: no further request of it is issued (R147). -/
def killDesc (s : State) (l id : Nat) : State :=
  modCore s l (fun c => { c with descs := c.descs.map (fun d => if d.id = id then { d with dead := true } else d) })

/-- A descriptor whose requests have all ended: dead-line hints go to the sectors of user stack memory that it read (R277). -/
def deadHint (s : State) (l : Nat) (d : Desc) : State :=
  let hit (sec : Nat) : Bool := decide (sec < userEnd / 256) &&
    sideTouch s d.src d.srcPitch d.rows d.rowBytes (sec * 256) (sec * 256 + 256)
  let secs := s.slices.flatMap (fun p => p.2.lines.flatMap (fun v =>
    if v.red.isSome then [] else (v.secs.filter (fun x => hit (v.line * 8 + x.1))).map (fun x => v.line * 8 + x.1)))
  let s1 := secs.foldl (fun s sec =>
    match findSector s sec with
    | some x => if x.st = .dead then s else putSector s sec ⟨.dead, []⟩
    | none => s) s
  let red := s.slices.foldl (fun s p => p.2.lines.foldl (fun s v =>
    if v.red.isSome then
      count s (VRG_EVENTS_0 p.1) VRG_EVENTS_0_dead_refused (((upto 8).filter (fun i => hit (v.line * 8 + i))).length)
    else s) s) s1
  cchInvalidateIf red (clusterOf l) hit

/-- Complete a descriptor when nothing of it is outstanding and nothing is left to issue (R102): its counter rises. One that was
ended early raises nothing (R111, R147). -/
def finishDesc (s : State) (l id : Nat) : State :=
  match (coreOf s l).descs.find? (fun d => d.id == id) with
  | none => s
  | some d =>
    if !(outstanding s l id).isEmpty then s
    else if d.dead then
      deadlockCheck (modCore s l (fun c => { c with descs := c.descs.filter (fun x => x.id ≠ id) })) l
    else if d.row < d.rows then s
    else
      let s1 := if d.deadSrc && d.op == 0 then deadHint s l d else s
      let s2 := modCore s1 l (fun c => { c with descs := c.descs.filter (fun x => x.id ≠ id) })
      let s3 := match d.ctr with
        | some e => raiseCtr s2 l e 1
        | none => s2
      deadlockCheck s3 l

/-- A request's fault is its stream's (R147): imprecise; the descriptor ends. -/
def reqFault (s : State) (l : Nat) (t : StreamId) (desc code addr : Nat) : State :=
  finishDesc (lateFault (killDesc s l desc) l t code (BitVec.ofNat 64 addr)) l desc

/-- Take the next request of a descriptor and advance the descriptor past it. -/
def stepDesc (d : Desc) (n : Nat) : Desc :=
  if d.off + n ≥ d.rowBytes then { d with row := d.row + 1, off := 0 } else { d with off := d.off + n }

/-- A destination that no request inside a section may have (R212): another core's scratchpad window, a host window, the
configuration space, another device. -/
def barredDest (s : State) (dst : Nat) : Bool :=
  let a := localForm s dst
  isGlobal a || (match regionOf a with
    | .scratch _ _ => true
    | .host => true
    | .config _ => true
    | _ => false)

/-- MOVEMENT_REQUEST_ISSUE (R101, R147, R211 to R213): the next sector request of a descriptor takes a slot of its stream,
is checked as a whole, and goes its way. Nothing happens while no slot, or no miss slot, is free. -/
def requestIssue (s : State) (l : Nat) (t : StreamId) (id : Nat) (ecc : Ecc) : State :=
  match (coreOf s l).descs.find? (fun d => d.id == id && d.stream == t) with
  | none => s
  | some d =>
    if d.dead ∨ d.row ≥ d.rows ∨ (coreOf s l).held ∨ clockStopped s l ∨ heldBySlot s l ∨ !slotFree s l t then s
    else
      let at_ (base : Nat) (pitch : Int) : Nat := wrapN 64 ((base : Int) + pitch * d.row + d.off)
      let src := at_ d.src d.srcPitch
      let dst := at_ d.dst d.dstPitch
      let n := nextLen d (isOwn s l src) (isOwn s l dst) src dst
      let ss := sideOf s l t src n false
      let ds := sideOf s l t dst n true
      let prov := if isOwn s l dst then none else d.prov
      if ss = .bad then reqFault s l t id 0x04 src
      else if ss = .host .refused then reqFault s l t id 0x0A src
      else if prov.isSome && barredDest s dst then reqFault s l t id 0x71 dst
      else if ds = .bad then reqFault s l t id 0x04 dst
      else if ds = .host .refused then reqFault s l t id 0x0A dst
      else if (match prov with | some p => provFull s l t p dst | none => false) then reqFault s l t id 0x70 dst
      else
        let src' := match ss with | .verge a => a | _ => src
        if (match ss with | .verge a => missSlotsFull s l (a / 256) | _ => false) then s
        else
          let r : Req := { id := s.nextId, kind := .move, core := l, stream := t, desc := id, src := src', dst := dst
                           len := n, op := d.op, epoch := d.epoch, noAlloc := d.noAlloc, prov := prov, phase := .rdV }
          let s1 := modCore { s with nextId := s.nextId + 1, reqs := s.reqs ++ [r] } l
            (fun c => { c with descs := c.descs.map (fun x => if x.id = id then stepDesc x n else x) })
          match ss with
          | .own o =>
            match scrBad s1 l o n ecc with
            | some w => finishDesc (killDesc (scrUncorrectable (dropReq s1 r.id) l t w) l id) l id
            | none => toDest (scrCorrected s1 l (eccCorrected ecc + scrSoft s1 l o n)) r (scrRead s1 l o n)
          | .verge _ => cchRead s1 r
          | .scratch c o =>
            match scrBad s1 c o n ecc with
            | some w => reqFault (scrUncorrectable (dropReq s1 r.id) c (firstLive s1 c) w) l t id 0x04 src
            | none => toDest (scrCorrected s1 c (eccCorrected ecc + scrSoft s1 c o n)) r (scrRead s1 c o n)
          | .peer _ => let r2 := { r.stick 6 with phase := .ext }; askMove (putReq s1 r2) r2 false
          | .host _ => putReq s1 { r with phase := .ext }
          | .bad => s1

/-- MOVEMENT_REQUEST_ISSUE. DEDUCED: notes/assumptions/28. -/
def execMovementRequestIssue (l : Nat) (t : StreamId) (desc : Nat) (ecc : Ecc) (s : State) : Out :=
  onCore l (requestIssue s l t desc ecc)

/-! ### The slices' side of a request -/

/-- Whether a request is on its way to its slice. -/
def Req.onWay (r : Req) : Bool := !r.here && !r.waiting && (r.phase == .rdV || r.phase == .wrV)

/-- The source router and the destination router of the packet that a request has on the mesh now (R262): its own on its way to its
slice, its slice's answer on its way back, its write on its way to another core's scratchpad; none while it has none there. -/
def packetOf (s : State) (r : Req) : Option (Nat × Nat) :=
  if r.onWay then some (clusterOf r.core, sliceOfAddr r.target)
  else if r.phase = .back then some (sliceOfAddr r.src, clusterOf r.core)
  else if r.phase = .fin ∧ r.kind = .move ∧ r.code = 0 ∧ r.fresh = false then
    (match sideOf s r.core r.stream r.dst r.len true with
     | .scratch c _ => some (clusterOf r.core, clusterOf c)
     | _ => none)
  else none

/-- Whether a packet that took the same route before this one has not arrived yet (R262): every route is fixed, so packets between one
source router and one destination router keep their order. -/
def behind (s : State) (r : Req) : Bool :=
  match packetOf s r with
  | none => false
  | some p => s.reqs.any (fun q => decide (q.sent < r.sent) && packetOf s q == some p)

/-- Requests that hold a slot of a slice (R281): those accepted there and waiting for DRAM, for a second read or for a repair. -/
def sliceBusy (s : State) (i : Nat) : Nat :=
  (s.reqs.filter (fun r => (r.phase == .rdD || r.phase == .wrD || r.phase == .reread || r.phase == .repair) &&
    sliceOfAddr r.target == i)).length

/-- The sectors that requests wait for on a pseudo-channel, and those of them on a bank (R282). -/
def pcBusy (s : State) (gpc bank : Nat) : Nat × Nat :=
  let on := ((s.reqs.filter (fun r => r.phase == .rdD || r.phase == .wrD)).map (fun r => r.target / 256)).dedup
  let here := on.filter (fun sec => gpcOf sec == gpc)
  (here.length, (here.filter (fun sec => bankOfLine (sec / 8) == bank)).length)

/-- A sector request goes to DRAM (R266); the 55th of a pseudo-channel that all go to one bank opens a hotspot (R282), and one
that had waited may end it. -/
def toDram (s : State) (r : Req) (sec : Nat) (p : ReqPhase) : State :=
  let i := sliceOfLine (sec / 8)
  let s1 := putReq { s with nextId := s.nextId + 1 }
    { r.stick 2 with phase := p, waiting := false, filled := true, hold := 0, sent := s.nextId }
  let b := bankOfLine (sec / 8)
  let (n, m) := pcBusy s1 (gpcOf sec) b
  let pc := pcOfLine (sec / 8)
  if n = 55 ∧ m = 55 ∧ smFind? (sliceOf s1 i).hot pc = none then
    let w := rd s1 (VRG_HOTSPOT i)
    let w1 := setb (addf (setf (setf w VRG_HOTSPOT_last_bank b) VRG_HOTSPOT_last_pc pc) VRG_HOTSPOT_events 1) VRG_HOTSPOT_active true
    let x := sliceOf s1 i
    wr (setSlice s1 i { x with hot := smSet x.hot pc b }) (VRG_HOTSPOT i) w1
  else if r.hold = 3 then endHotspot s1 i
  else s1

/-- Whether a request that has waited at its slice waits there for another bank of a pseudo-channel in hotspot (R282). -/
def otherBankWaits (s : State) (i pc b : Nat) : Bool :=
  s.reqs.any (fun q => q.stands && sliceOfAddr q.target == i && pcOfLine (q.target / 2048) == pc && bankOfLine (q.target / 2048) != b)

/-- Whether a request must wait in its slice (R281, R282): all slots of the slice in use, the pseudo-channel full, or its bank in
hotspot, unless it has waited, a slot is free, and no request for another bank waits. -/
def sliceFull (s : State) (r : Req) (sec : Nat) : Bool :=
  let i := sliceOfLine (sec / 8)
  let b := bankOfLine (sec / 8)
  let pc := pcOfLine (sec / 8)
  decide (sliceBusy s i ≥ 300) || decide ((pcBusy s (gpcOf sec) 0).1 ≥ 55) ||
  (smFind? (sliceOf s i).hot pc == some b && (r.hold != 3 || otherBankWaits s i pc b))

/-- A request waits at its slice: for a stack slot, a bank or a hotspot (3), or for a slice slot or a push (2), under Table 08-6. -/
def waitThere (s : State) (r : Req) (why : Nat) : State :=
  putReq s (if why = 3 then { r with hold := 3 } else { r.stick 2 with hold := 2 })

/-- A sector request goes to DRAM, or waits for room (R281, R282). -/
def toDramOr (s : State) (r : Req) (sec : Nat) (p : ReqPhase) : State :=
  if sliceFull s r sec then waitThere s r (if sliceBusy s (sliceOfLine (sec / 8)) ≥ 300 then 2 else 3) else toDram s r sec p

/-- A request that comes while its sector is being brought from DRAM waits for that fill (R263, R267); it takes a slot of the
slice. -/
def joinFill (s : State) (r : Req) (sec : Nat) (p : ReqPhase) : State :=
  if sliceBusy s (sliceOfLine (sec / 8)) ≥ 300 then waitThere s r 2
  else putReq { s with nextId := s.nextId + 1 }
    { r.stick 2 with phase := p, waiting := false, filled := true, hold := 0, sent := s.nextId }

/-- Whether a request that its slice had before this one still acts on its sector: one read once more or under repair, or a write that
waits there (R260, R267). -/
def sectorTaken (s : State) (r : Req) (sec : Nat) : Bool :=
  s.reqs.any (fun q => q.id != r.id && decide (q.target / 256 = sec) && decide (q.sent < r.sent) &&
    (((q.phase == .reread || q.phase == .repair) && (q.fresh || cacheable q.dst)) ||
      (q.phase == .wrV && q.here && q.prov.isNone)))

/-- The half that holds the miss of a request. -/
def missHalf (s : State) (r : Req) : Nat :=
  let k := halfKey (clusterOf r.core) 0
  if (halfOf s k).misses.any (fun m => m.req == r.id) then k else halfKey (clusterOf r.core) 1

/-- The miss of a request ends without data: the first of the reads that shared it takes it over, the others share that one. -/
def endMiss (s : State) (r : Req) : State :=
  let k := missHalf s r
  let h := halfOf s k
  let s1 := setHalf s k { h with misses := h.misses.filter (fun m => m.req ≠ r.id) }
  match s1.reqs.filter (fun q => q.waiting && q.phase == .rdV && q.lead == r.id) with
  | [] => s1
  | q :: rest =>
    let s2 := cchMiss s1 k { q with waiting := false }
    let lead := match reqOf s2 q.id with
      | some x => if x.waiting then x.lead else q.id
      | none => q.id
    rest.foldl (fun s x => putReq s { x with lead := lead }) s2

/-- A prefetch ends without installing (R280, R276). -/
def dropPrefetch (s : State) (r : Req) (counted : Bool) : State :=
  let s2 := endMiss (dropReq s r.id) r
  if counted then count s2 (CCH_PF (clusterOf r.core)) CCH_PF_dropped else s2

/-- A read request that ends with a fault code: a core's request, or a fill of its read-only caches, ends so; a prefetch is
dropped (R280). Reads that shared its miss go on by themselves. -/
def failRead (s : State) (r : Req) (code : Nat) : State :=
  if r.kind = .prefetch then dropPrefetch s r true else putReq (endMiss s r) { r with phase := .fin, code := code, hold := 0 }

/-- The line of a sector holds a pending reduction (R268). -/
def redPending (s : State) (sec : Nat) : Bool := match findLine s (sec / 8) with
  | some v => v.red.isSome
  | none => false

/-- A read of a poisoned sector ends with the address fault of that sector (R463). -/
def failPoisoned (s : State) (r : Req) : State := failRead s { r with src := r.src / 256 * 256 } 0x04

/-- What Verge ECC finds as a sector is read there: what the decoder meets now, with the flaw that the sector has. -/
def worseEcc (a b : Ecc) : Ecc :=
  if a = .uncorrectable ∨ b = .uncorrectable then .uncorrectable
  else if eccCorrected a + eccCorrected b = 0 then .clean else .corrected (eccCorrected a + eccCorrected b)

/-- A read of window storage (R271): its ECC is Verge's; an uncorrectable codeword goes to the repair path (R462). -/
def windowRead (s : State) (r : Req) (ecc : Ecc) : State :=
  let sec := r.src / 256
  let f := flawOf s sec
  match worseEcc ecc (vergeEcc f.errs) with
  | .uncorrectable =>
    if r.kind = .prefetch then dropPrefetch s r true
    else putReq (count s REP_COUNT_1 REP_COUNT_1_uncorrectable) { r with phase := .repair, hold := 0 }
  | e =>
    let d := storedRead s sec
    let s1 := if f.once then setFlaw s sec { f with once := false } else s
    sendBack (count s1 REP_COUNT_1 REP_COUNT_1_verge_corrected (eccCorrected e)) r d (f.once || !billOk f d)

/-- A read request at its slice (R265 to R277). -/
def vergeRead (s : State) (r : Req) (ecc : Ecc) : State :=
  let sec := r.src / 256
  match regionOf r.src with
  | .window sl o =>
    if !windowOk s sl o then failRead s r 0x04
    else if poisoned s sec then failPoisoned s r
    else if sectorTaken s r sec then waitThere s r 2
    else windowRead s r ecc
  | _ =>
    if r.kind = .prefetch ∧ redPending s sec = true then dropPrefetch s r false
    else if sectorTaken s r sec then waitThere s r 2
    else
      let r1 := if redPending s sec = true then r.stick 2 else r
      match trySettle s (sec / 8) with
      | none => waitThere s r1 2
      | some s1 =>
      if waitingFor s1 sec ≠ [] then joinFill s1 r1 sec .rdD
      else
      let i := sliceOfLine (sec / 8)
      match findSector s1 sec with
      | some x =>
        if x.st = .dead then
          if r.kind = .prefetch then dropPrefetch s1 r false
          else
            let s2 := count s1 (VRG_EVENTS_0 i) VRG_EVENTS_0_dead_reads
            if rdb s VRG_CTRL VRG_CTRL_dead_fault then failRead s2 r1 0x04
            else if sliceFull s1 r1 sec then toDramOr s1 r1 sec .rdD
            else toDram s2 r1 sec .rdD
        else
          let f := flawV s1 sec
          match worseEcc ecc (vergeEcc f.errs) with
          | .uncorrectable =>
            if r.kind = .prefetch then dropPrefetch s1 r true
            else if x.st = .clean then
              toDramOr (count (invSector s1 sec) REP_COUNT_1 REP_COUNT_1_verge_corrected) r1 sec .rdD
            else if sliceBusy s1 i ≥ 300 then waitThere s1 r1 2
            else putReq (count s1 REP_COUNT_1 REP_COUNT_1_uncorrectable) { r1 with phase := .repair, hold := 0 }
          | e =>
            let s2 := if f.once then setFlawV s1 sec { f with once := false } else s1
            sendBack (count (touchLine s2 (sec / 8)) REP_COUNT_1 REP_COUNT_1_verge_corrected (eccCorrected e)) r1 x.data
              (f.once || !billOk f x.data)
      | none => toDramOr s1 r1 sec .rdD

/-- Put a provisional item with the sector of its stream and pass (R211); `none` where the slice has no room (R270). -/
def holdProv (s : State) (r : Req) (pass : Nat) : Option State :=
  let sec := r.dst / 256
  let item : ProvItem := ⟨r.op, r.epoch, r.dst % 256, r.data⟩
  let i := sliceOfAddr r.dst
  let x := sliceOf s i
  let same (p : Prov) : Bool := p.core == r.core && p.stream == r.stream && p.pass == pass && p.sector == sec
  if x.prov.any same then
    some (setSlice s i { x with prov := x.prov.map (fun p => if same p then { p with items := p.items ++ [item] } else p) })
  else if x.prov.length ≥ 32768 then none
  else
    let set := setOfSector sec
    let used := (x.lines.filter (fun v => setOfLine v.line == set)).length
    let add (s : State) : State :=
      let y := sliceOf s i
      setSlice s i { y with prov := y.prov ++ [⟨r.core, r.stream, pass, sec, [item]⟩] }
    if used < userWays s i set then some (add s) else (freeWay s i set).map add

/-- Whether a reduction misses in Verge, or forces its line through (R269, R284). -/
def reduceMisses (s : State) (r : Req) : Bool := match findLine s (lineOf r.dst) with
  | none => true
  | some v => (match v.red with
    | some x => decide (x.op ≠ r.op) || decide (x.epoch ≠ r.epoch)
    | none => false)

/-- A write request at its slice (R266, R269, R270, R271). -/
def vergeWrite (s : State) (r : Req) : State :=
  let sec := r.dst / 256
  let done (s : State) (r : Req) : State := putReq s { r with phase := .fin, waiting := false, hold := 0 }
  match r.prov with
  | some pass =>
    match holdProv s r pass with
    | some s1 => done s1 r
    | none => putReq s { r with waiting := true }
  | none =>
    match regionOf r.dst with
    | .window sl o =>
      if !windowOk s sl o then putReq s { r with phase := .fin, code := 0x04 }
      else if sectorTaken s r sec then waitThere s r 2
      else done ((sysWriteSector s r.dst r.data).2) r
    | _ =>
      if sectorTaken s r sec then waitThere s r 2
      else if r.op ≠ 0 then
        let r1 := if reduceMisses s r then r.stick 2 else r
        match vReduce s r.op r.epoch r.dst r.data with
        | some s1 => done s1 r1
        | none => putReq s { r1.stick 2 with waiting := true }
      else
        let r1 := if redPending s sec = true ∨ (findSector s sec).isNone = true then r.stick 2 else r
        match trySettle s (sec / 8) with
        | none => waitThere s r1 2
        | some s1 =>
        if waitingFor s1 sec ≠ [] then joinFill s1 r1 sec .wrD
        else
        let have_ : Bool := match findSector s1 sec with
          | some x => x.st != .dead
          | none => false
        if r.data.length = 256 ∨ have_ = true then done (writeHere s1 r.noAlloc r.dst r.data) r1
        else toDramOr s1 r1 sec .wrD

/-- What VERGE_REQUEST does (R262, R267): a request that no packet of its route precedes reaches its slice, which accepts and serves
it, or holds it. One that is still behind another waits at a router output (Table 08-7). -/
def vergeRequest (s : State) (id : Nat) (ecc : Ecc) : State :=
  match reqOf s id with
  | some r =>
    if (r.phase = .rdV ∧ r.waiting = false) ∨ r.phase = .wrV then
      if heldBySlot s (18468 + sliceOfAddr r.target) then s
      else if !r.here && behind s r then putReq s { r with hold := 4 }
      else
        let r1 := if r.here then r else { r with here := true, sent := s.nextId, hold := 0 }
        let s1 := if r.here then s else putReq { s with nextId := s.nextId + 1 } r1
        if r.phase = .wrV then vergeWrite s1 r1 else vergeRead s1 r1 ecc
    else s
  | none => s

/-- Requests waiting for a sector that no fill can give are answered as poisoned (R463): a core's request ends with an
address fault that names the sector, a prefetch is dropped, a partial write is lost. -/
def failSector (s : State) (rs : List Req) : State :=
  rs.foldl (fun s r => if r.fresh then failPoisoned s r
    else putReq s { r with phase := .fin, code := 0x04, fresh := !cacheable r.dst, src := r.src / 256 * 256, dst := r.dst / 256 * 256 }) s

/-- The errors of two readings of one sector, codeword by codeword. -/
def joinErrs (a b : List (List Nat)) : List (List Nat) :=
  if b = [] then a else (upto 8).map (fun i => a.getD i [] ++ b.getD i [])

/-- What VERGE_FILL does (R266, R458, R460 to R463): a sector arrives from DRAM, with errors in the given symbols of its codewords,
perhaps from a wrong place, beyond what is wrong with it there. DEDUCED: notes/assumptions/57, 93. -/
def vergeFill (s : State) (sec : Nat) (errs : List (List Nat)) (wbOk astray : Bool) : State :=
  let rs := waitingFor s sec
  if rs.isEmpty then s
  else if poisoned s sec then failSector s rs
  else
    let f := flawOf s sec
    let all_ := joinErrs errs f.errs
    let bad := stackEcc s sec all_ (astray || f.astray) == .uncorrectable || onLostPc s sec || s.mem.broken.contains sec
    let again := !wbOk || f.once || !billOk f (dramRead s sec)
    let (pf, mv) := (rs.filter (fun r => r.kind == .prefetch), rs.filter (fun r => r.kind != .prefetch))
    let s0 := if bad || again then pf.foldl (fun s r => dropPrefetch s r true) s else s
    if bad then
      mv.foldl (fun s r => putReq s { r with phase := .repair }) (count s0 REP_COUNT_1 REP_COUNT_1_uncorrectable)
    else
      let s1 := noteCorrected s0 sec all_
      if again then mv.foldl (fun s r => putReq s { r with phase := .reread }) (if f.once then setFlaw s1 sec { f with once := false } else s1)
      else fillSector s1 sec (dramRead s sec)


/-- Bytes with the writes made to them since (R260). -/
def withWrites (d : List Byte) (ws : List (Nat × List Byte)) : List Byte := ws.foldl (fun d w => merge d w.1 w.2) d

/-- CCH_FILL (R259, R260, R261, R280): a sector comes back to the half of its requester and is installed, unless its copies were
invalidated since the request; reads that share the miss are answered with it. A prefetch with a waybill mismatch is installed
neither here nor in Verge. -/
def execCchFill (id : Nat) (bad : Bool) (s : State) : Out :=
  .next (match reqOf s id with
    | none => s
    | some r =>
      if r.phase ≠ .back ∨ clockStopped s r.core = true then s
      else if behind s r then putReq s { r with hold := 4 }
      else
        let k := missHalf s r
        let sec := r.src / 256
        let h := halfOf s k
        if r.kind = .prefetch ∧ (bad || r.bad) = true then
          let s1 := match findSector s sec with
            | some x => if r.filled ∧ x.st = .clean then invSector s sec else s
            | none => s
          dropPrefetch s1 r true
        else
          let m := (h.misses.find? (fun m => m.req == id)).getD { sector := sec, req := id, stale := true }
          let d := withWrites r.data m.writes
          let s1 := setHalf s k { h with misses := h.misses.filter (fun m => m.req ≠ id) }
          let s2 := if m.stale then s1 else cchInstall s1 k sec d r.bad
          let share := s2.reqs.filter (fun q => q.waiting && q.phase == .rdV && q.lead == id)
          let deliver (s : State) (q : Req) (d : List Byte) : State := match q.kind with
            | .prefetch => dropReq s q.id
            | .fill _ => putReq s { q with phase := .fin, data := d, waiting := false, hold := 0, bad := r.bad }
            | .move => toDest s { q with waiting := false, hold := 0, bad := r.bad } ((d.drop (q.src % 256)).take q.len)
          share.foldl (fun s q => deliver s q d) (deliver s2 r (if r.kind = .move then r.data else d)))

/-- The fault code of an answer from outside (R148, R398, R443). -/
def answerCode : Status → Nat
  | .ok => 0
  | .addrFault => 0x04
  | .unreachable => 0x04
  | .refused => 0x04
  | .timeout => 0x04
  | .hostLost => 0x0A
  | .windowFault => 0x0A

/-- A request has done all it does: its slot is free, its descriptor may be complete. -/
def retireReq (s : State) (r : Req) : State := finishDesc (dropReq s r.id) r.core r.desc

/-- The bytes of a request are written to a scratchpad: a word that they fill only in part is read and merged, and may prove
uncorrectable (R97). -/
def brought (s : State) (r : Req) (l c o : Nat) (ecc : Ecc) : State :=
  match scrEdge s c o r.data.length ecc with
  | some w => finishDesc (killDesc (scrUncorrectable (dropReq s r.id) c (if c = l then r.stream else firstLive s c) w) l r.desc) l r.desc
  | none => retireReq (scrMerge s c o r.data ecc) r

/-- What MOVEMENT_REQUEST_DONE does (R102, R103, R147, R148): a request ends. One that brought a sector into the scratchpad with a bad
waybill is read again; one answered by the host or by a peer (R398) either turns to its destination or ends; one that failed
faults. -/
def movementDone (s : State) (l id : Nat) (a : Answer) : State :=
  match reqOf s id with
    | none => s
    | some r =>
      if r.core ≠ l ∨ r.kind ≠ .move ∨ clockStopped s l = true then s
      else match r.phase with
        | .fin =>
          if r.code ≠ 0 then
            reqFault (dropReq s id) l r.stream r.desc r.code (if r.fresh then r.src else r.dst)
          else match sideOf s l r.stream r.dst r.len true with
            | .own o => if (r.bad || !a.wbOk) && (cacheable r.src || isGlobal r.src) then putReq s { r with phase := .reread }
                        else brought s r l l o a.ecc
            | .scratch c o =>
              if clockStopped s c then s
              else if behind s r then putReq s { r with hold := 4 }
              else if (r.bad || !a.wbOk) && (cacheable r.src || isGlobal r.src) then putReq s { r with phase := .reread, hold := 0 }
              else brought s { r with hold := 0 } l c o a.ecc
            | _ => retireReq s r
        | .ext =>
          if r.fresh then
            let side := sideOf s l r.stream r.src r.len false
            let gone : Bool := match side with
              | .host (.suspended _ _) => true
              | _ => false
            if (match side with | .host _ => false | _ => true) then s
            else if !gone && !hostOpen s then s
            else if gone then reqFault (dropReq s id) l r.stream r.desc 0x0A r.src
            else if answerCode a.status ≠ 0 then reqFault (dropReq s id) l r.stream r.desc (answerCode a.status) r.src
            else if !a.wbOk then s
            else toDest s r ((a.data ++ List.replicate r.len 0).take r.len)
          else match sideOf s l r.stream r.dst r.len true with
            | .host (.ok w bus) => retireReq (hostWrite s ((strOf s l r.stream).owner.getD 0) w bus r.data true) r
            | .host (.suspended w bus) => retireReq (hostWrite s ((strOf s l r.stream).owner.getD 0) w bus r.data false) r
            | _ => s
        | .ans =>
          if r.code ≠ 0 then reqFault (dropReq s id) l r.stream r.desc r.code (if r.fresh then r.src else r.dst)
          else if r.fresh then toDest s r ((r.data ++ List.replicate r.len 0).take r.len) else retireReq s r
        | _ => s

/-- What PROVISIONAL_WAIT_TIMEOUT does (R270): a provisional request that has waited 4 µs at its slice faults with 0x70. -/
def provTimeout (s : State) (id : Nat) : State :=
  match reqOf s id with
  | some r =>
    if r.phase = .wrV ∧ r.waiting = true ∧ r.prov.isSome = true then
      reqFault (dropReq s id) r.core r.stream r.desc 0x70 r.dst
    else s
  | none => s

/-- A line arrives in a read-only cache (Table 03-5, R116): the least recently used line of a full set gives way; while doubled up a
core has half of the ways. -/
def roInstall (s : State) (l : Nat) (k : RoKind) (line : Nat) (d : List Byte) : State :=
  modCore s l (fun c =>
    let rest := c.ro.filter (fun x => !(x.kind == k && x.line == line))
    let same := rest.filter (fun x => x.kind == k && x.line % roSets k == line % roSets k)
    let rest' := if same.length < roWays k (doubled s l) then rest
      else match same.getLast? with
        | some v => rest.filter (fun x => !(x.kind == k && x.line == v.line))
        | none => rest
    { c with ro := ⟨k, line, d⟩ :: rest', fills := c.fills.filter (fun x => x ≠ (k, line)) })

/-- What RO_CACHE_FILL does (R98 to R100, R143, R259, R278, R458): the first time for a line it looks in the cluster cache, and a miss
takes a miss slot and goes to Verge as any read does; once the line is there it enters the read-only cache, and a fill that brings no
data is noted for the instruction that waits. A mismatching waybill makes the fill wait for its second read, and one that mismatches again
for its repair. -/
def roFill (s : State) (l : Nat) (k : RoKind) (line : Nat) (wbOk : Bool) : State :=
  let c := coreOf s l
  let asked := k == .instr || c.fills.contains (k, line)
  let a := line * 256
  if !asked ∨ !roReadable s a 256 ∨ c.held ∨ clockStopped s l then s
  else
    match s.reqs.find? (fun r => r.core == l && r.kind == .fill k && r.src == a) with
    | some r =>
      if r.phase ≠ .fin then s
      else if r.code ≠ 0 then modCore (dropReq s r.id) l (fun c => { c with
        fills := c.fills.filter (fun x => x ≠ (k, line))
        roFailed := if c.roFailed.contains (k, line) then c.roFailed else c.roFailed ++ [(k, line)] })
      else if wbOk && !r.bad then roInstall (dropReq s r.id) l k line r.data else putReq s { r with phase := .reread }
    | none =>
      let r : Req := { id := s.nextId, kind := .fill k, core := l, stream := .F, desc := 0, src := a, dst := a
                       len := 256, op := 0, phase := .rdV }
      match cchLookup s l line with
      | some (x, s1) =>
        if wbOk && !x.bad then roInstall (countHit s1 l true) l k line x.data
        else countHit { s1 with reqs := s1.reqs ++ [{ r with phase := .reread, data := x.data }], nextId := s1.nextId + 1 } l true
      | none =>
        if missSlotsFull s l line then s
        else
          let s1 := countHit { s with reqs := s.reqs ++ [r], nextId := s.nextId + 1 } l false
          runAhead (cchMiss s1 (halfKey (clusterOf l) (halfOfCore s l)) r) l line

/-- RO_CACHE_FILL. -/
def execRoCacheFill (l : Nat) (k : RoKind) (line : Nat) (wbOk : Bool) (s : State) : Out :=
  onCore l (powered s (roFill s l k line wbOk))

end Sys2Proof.Machine
end

