-- ==== Sys2Proof/Machine/Engines.lean ====
section
/-! DEFINITION. What the engines of the device share (Kerb, walker, collectives, channels, logs): their reads and writes of
addresses of every kind, and exact sums held in FP64. -/

namespace Sys2Proof.Machine

/-- The local form of an address that names this device (R11, R45). -/
def ownLocal (s : State) (a : Nat) : Option Nat :=
  if isGlobal a then (if globalDev a = selfId s then some (globalLocal a) else none) else some a

/-- A write of bytes inside one sector to a host window, through a channel's regions (R438, R442 to R444); refused on a
translation miss or without permission. -/
def hostPiece (s : State) (chan : Option Nat) (l : Nat) (d : List Byte) : Bool × State :=
  match hostXlat s chan l true with
  | .ok w bus => (true, hostWrite s (chan.getD 0) w bus d true)
  | .suspended w bus => (true, hostWrite s (chan.getD 0) w bus d false)
  | .refused => (false, s)

/-- A write of an engine on behalf of a channel (R43 to R45, R438): to this device, to another device as a Write frame for
each 256-byte sector, or to a host window. The flag tells whether the address was accepted. -/
def engineWrite (s : State) (chan : Option Nat) (a : Nat) (d : List Byte) (who : Requester := .engine) : Bool × State :=
  match ownLocal s a with
  | none =>
    if rdb s CWY_SELF_ID CWY_SELF_ID_id_valid then
      (true, (sectorPieces (d.length + 1) a d).foldl (fun s p =>
        ask s { who := .status, dst := globalDev p.1, type := 2, op := 0, len := p.2.length, addr := globalLocal p.1
                body := .data p.2 }) s)
    else (false, s)
  | some l =>
    match regionOf l with
    | .host => (sectorPieces (d.length + 1) l d).foldl (fun r p => if r.1 then hostPiece r.2 chan p.1 p.2 else r) (true, s)
    | _ => match sysWrite s who l d with
      | (.data _, s1) => (true, s1)
      | (_, s1) => (false, s1)

/-- A read by an engine of bytes of user stack memory of this device, under their local or this device's global address (R45). -/
def engineRead (s : State) (who : Reader) (a0 n : Nat) : Option (List Byte) × State :=
  let a := localForm s a0
  if a + n ≤ userEnd then
    match sysRead s .engine who a n with
    | (.data d, s1) => (some d, s1)
    | (_, s1) => (none, s1)
  else (none, s)

/-- What an engine finds in a sector of user stack memory, read through its slice (R277, R333, R369); where the slice gives no data, the
engine goes on with free bytes. DESIGN CHOICE: notes/assumptions/105. -/
def seenSector (s : State) (sec : Nat) : List Byte :=
  match vReadSector s .requester false sec with
  | (.data d, _) => d
  | _ => (upto 256).map (fun i => Config.freeByte s.free (256 * sec + i))

/-- What an engine finds in [a, a + n) of user stack memory, sector by sector. -/
def seen (s : State) (a n : Nat) : List Byte :=
  if n = 0 then [] else
  let f := a / 256
  (((upto ((a + n - 1) / 256 + 1 - f)).map (fun i => seenSector s (f + i))).flatten.drop (a % 256)).take n

/-- The 8 bytes at an address as an engine finds them. -/
def seenWord (s : State) (a : Nat) : Word := BitVec.ofNat 64 (leNat (seen s a 8))

/-- What reading [a, a + n) of user stack memory through the slices leaves: lines filled, reductions pushed through, counts (R265 to R277). -/
def afterRead (s : State) (a n : Nat) : State :=
  if n = 0 ∨ userEnd < a + n then s
  else (upto ((a + n - 1) / 256 + 1 - a / 256)).foldl (fun s i => (vReadSector s .requester false (a / 256 + i)).2) s

/-- Word i of a list of bytes. -/
def wordAt (d : List Byte) (i : Nat) : Word := BitVec.ofNat 64 (leNat ((d.drop (8 * i)).take 8))

/-- Bytes of a list of words. -/
def wordBytes (ws : List Word) : List Byte := (ws.map (fun w => bytesOf 8 w.toNat)).flatten

/-- A sum of values accumulated in FP64 (R314, R316), whose order the spec leaves open: exact where it fits, otherwise within
one FP64 unit of the total magnitude per term. -/
def sum64 (free tag : Nat) (xs : List Fp) : Fp :=
  let sum := xs.foldl fadd (.fin false 0 0)
  if !isFin sum then sum
  else
    let near := roundTo fFP64 .rne sum
    if feq near sum then near
    else
      let mag := xs.foldl (fun a x => dyAdd a (dyAbs (dyOf x))) ⟨0, 0⟩
      let c := roundTo fFP64 .rne (fadd near (ofDy ⟨Config.freeRound free tag, ulpExp fFP64 (dyOf near)⟩))
      if dyLe (dyAbs (dyOf (fsub c sum))) (dyMul mag ⟨xs.length + 1, -52⟩) then c else near

/-- An FP64 encoding. -/
def to64 (x : Fp) : Word := BitVec.ofNat 64 (encodeFp fFP64 .rne false x).1

/-- An FP64 word's value. -/
def of64 (w : Word) : Fp := decodeFp fFP64 w.toNat

end Sys2Proof.Machine
end

