-- ==== Sys2Proof/Machine/Kerb.lean ====
section
/-! DEFINITION. The Kerb engines (chapter 09): commands from acceptance to completion, shards, leases, gradients and
contributions, the fused update, regeneration. DEDUCED: notes/assumptions/50, 51, 53. -/

namespace Sys2Proof.Machine

/-! ### Commands -/

/-- The fields of a command block (Table 09-3). -/
structure KBlockF where
  op     : Nat
  dev    : Nat
  handle : Nat
  status : Nat
  arg0   : Word
  arg1   : Word
  arg2   : Word
  arg3   : Word
  span   : Nat
deriving DecidableEq, Repr

/-- A command block from its words; none where it raises Kerb command fault 0x80 (R301). -/
def kblockOf (ws : List Word) : Option KBlockF :=
  let w (i : Nat) : Word := ws.getD i 0
  let op := bits (w 0) 63 56
  let h := bits (w 0) 31 0
  if op = 0 ∨ op > 7 ∨ bits (w 0) 55 50 ≠ 0 ∨ (w 1).toNat % 16 ≠ 0 ∨ bits (w 6) 63 16 ≠ 0 ∨ w 7 ≠ 0 ∨
      (op = 1 ∧ (bitsN h 31 16 ≠ 0 ∨ bitsN h 9 0 ≠ 0)) then none
  else some ⟨op, bits (w 0) 49 32, h, (w 1).toNat, w 2, w 3, w 4, w 5, bits (w 6) 15 0⟩

/-- The engine number of a handle. -/
def handleEngine (h : Nat) : Nat := bitsN h 15 10
/-- The index of a handle. -/
def handleIndex (h : Nat) : Nat := bitsN h 9 0
/-- The generation of a handle. -/
def handleGen (h : Nat) : Nat := bitsN h 31 16

/-- The generation of an index of an engine. -/
def shardGen (e : Engine) (i : Nat) : Nat := smGet 0 e.gens i

/-- The handle of an open index of engine k. -/
def handleOfShard (e : Engine) (k i : Nat) : Nat := shardGen e i * 65536 + k * 1024 + i

/-- The command of an ID at an engine. -/
def findCmd (s : State) (k id : Nat) : Option KCmd := (engOf s k).cmds.find? (fun c => c.id == id)

/-- The commands of an engine in a phase. -/
def cmdsIn (s : State) (k : Nat) (p : KPhase) : Nat := ((engOf s k).cmds.filter (fun c => c.phase == p)).length

/-- Whether an engine runs a command now: it has been started and is not complete. -/
def KCmd.runs (c : KCmd) : Bool := c.phase == .sent || c.phase == .finished

/-- The version that a running UPDATE or REGEN of a shard makes: its leases are granted for the one before (R306). -/
def versionInMaking (s : State) (k : Nat) (c : KCmd) : Nat :=
  ((((engOf s k).cmds.find? (fun q => q.runs && decide (6 ≤ q.op) && q.code == 0 && handleIndex q.handle == handleIndex c.handle)).map
    (·.value))).getD 0

/-- A command that has found room is queued and stamped (R296, R303); a current LEASE remembers an update that runs (R306). -/
def queueCmd (s : State) (k : Nat) (c : KCmd) : KCmd :=
  { c with phase := .queued, stamp := stageNow s + c.span, seed := s.mst.seed
           value := if c.op = 3 ∧ bits c.arg0 31 0 = 0xFFFFFFFF then versionInMaking s k c else c.value }

/-- The reduction-pending lines of a gradient buffer that the slices hold now (R310 step 1). -/
def pendingLines (s : State) (x : Shard) : List Nat :=
  s.slices.flatMap (fun p => (p.2.lines.filter (fun v => v.red.isSome &&
    decide (x.grad < (v.line + 1) * 2048) && decide (v.line * 2048 < x.grad + x.gradLen))).map (·.line))

/-- Push through every reduction-pending line of a buffer and apply what the keepers hold of it (R310 step 1). -/
def pushBuffer (s : State) (x : Shard) : State := (pendingLines s x).foldl (fun s l => settleLine (soundLine s l) l) s

/-- What the acceptance of a command does at once: that of a GRAD.CLOSE brings the sums that its buffer's lines hold to memory; what the
slices accept from then on belongs to the next step (R310). -/
def onAccept (s : State) (k : Nat) (c : KCmd) : State :=
  if c.op ≠ 5 then s
  else match smFind? (engOf s k).shards (handleIndex c.handle) with
  | some x => if x.gen = handleGen c.handle then pushBuffer s x else s
  | none => s

/-- Offer a command to an engine of this device: accepted at once while fewer than 64 are queued and none is offered before it
(R296). -/
def offerCmd (s : State) (k : Nat) (c : KCmd) : State :=
  if cmdsIn s k .queued < 64 ∧ cmdsIn s k .offered = 0 then
    modEng (onAccept s k c) k (fun e => { e with cmds := e.cmds ++ [queueCmd s k c] })
  else modEng s k (fun e => { e with cmds := e.cmds ++ [{ c with phase := .offered }] })

/-- An engine with room accepts the oldest command offered to it. -/
def admitCmd (s : State) (k : Nat) : State :=
  if cmdsIn s k .queued < 64 then
    match (engOf s k).cmds.find? (fun c => c.phase == .offered) with
    | some c => modCmd (onAccept s k c) k c.id (queueCmd s k)
    | none => s
  else s

/-- Whether a device ID names a member of the fabric's coordinate space. -/
def knownDevice (s : State) (dev : Nat) : Bool := (upto 6).all (fun d => decide (coordOf dev d < ringOf s d))

/-- The words of a command block. -/
def kblockWords (b : KBlockF) : List Word :=
  [BitVec.ofNat 64 (b.op * 2 ^ 56 + b.dev * 2 ^ 32 + b.handle), BitVec.ofNat 64 b.status, b.arg0, b.arg1, b.arg2, b.arg3,
   BitVec.ofNat 64 b.span, 0]

/-- Submit a command (R301, Table 09-5): to an engine of this device, to another device as a Kerb frame, or to an end with
status unreachable or bad handle. -/
def submitKerb (s : State) (src : KSource) (b : KBlockF) : State :=
  let id := s.nextId
  let s1 := { s with nextId := id + 1 }
  let c : KCmd := { id := id, src := src, op := b.op, handle := b.handle, status := b.status, arg0 := b.arg0
                    arg1 := b.arg1, arg2 := b.arg2, span := b.span, dev := b.dev }
  let ended (code : Nat) : State :=
    modEng s1 remoteEng (fun e => { e with cmds := e.cmds ++ [{ c with phase := .finished, code := code }] })
  if !rdb s CWY_SELF_ID CWY_SELF_ID_id_valid ∨ !knownDevice s b.dev then ended kerbUnreachable
  else if b.dev ≠ selfId s then
    ask (modEng s1 remoteEng (fun e => { e with cmds := e.cmds ++ [{ c with phase := .offered }] }))
      { who := .kerb id, dst := b.dev, type := 3, op := 0, len := 64, addr := 0
        body := .kerb (.command (kblockWords b) (2 * id)) }
  else if handleEngine b.handle ≥ 36 then ended 0x01
  else offerCmd s1 (handleEngine b.handle) c

/-- The Kerb commands of a stream accepted and not complete (R300). -/
def kerbOpen (s : State) (l : Nat) (t : StreamId) : Nat := ((coreOf s l).kcmds.filter (fun k => k.2.1 == t)).length

/-- A lease that a filler unit asks for ends with its stage (R339). -/
def fillerLease (s : State) (st : Stream) (b : KBlockF) : KBlockF :=
  match st.work with
  | .filler _ =>
    let u := bits b.arg1 47 0
    let n := stageNow s + 1
    if b.op = 3 ∧ (u = 0 ∨ u > n) then { b with arg1 := BitVec.ofNat 64 (b.arg1.toNat - u + n % 2 ^ 48) } else b
  | _ => b

/-- KCMD (R300, R301). -/
def kcmdBody (x : Insn) (s : State) (st : Stream) : Done :=
  if !isSA x.r0 then badOperand st
  else
    let a := (st.reg x.r0 + wordOf x.imm).toNat
    if st.sect.isSome then .fault 0x08 st.pc
    else if a % 64 ≠ 0 then .fault 0x80 a
    else if kerbOpen s x.core x.stream ≥ 8 ∨ slotFree s x.core x.stream = false then .stall
    else roRead s x.core .desc a 64 (fun s1 d =>
      match kblockOf ((upto 8).map (wordAt d)) with
      | none => .fault 0x80 a
      | some b =>
        let ctr := if x.ctrEn then some x.e else none
        let s2 := modCore s1 x.core (fun c => { c with kcmds := c.kcmds ++ [(s1.nextId, x.stream, ctr)] })
        .go (submitKerb s2 (.core x.core x.stream ctr) (fillerLease s st b)))

/-- KCMD. -/
def execKcmd (x : Insn) (s : State) : Out :=
  let legal := bitsN x.b 37 36 == 0
  let s1 := if legal && (strOf s x.core x.stream).sect.isNone then askDesc x s else s
  onCore x.core (usedDesc x s1 (issueInsn s1 x (some 1) legal (kcmdBody x)))

/-- A command that names no engine of the device. -/
def onEngine (k : Nat) (s : State) : Out := onlyIf (decide (k ≤ remoteEng)) s

/-- A command ends with a status code (Table 09-5). DEDUCED: notes/assumptions/96. -/
def endCmd (s : State) (k id code : Nat) : State := modCmd s k id (fun c => { c with phase := .finished, code := code })

/-- A command ends with status done and what it returns (Table 09-4). -/
def doneCmd (s : State) (k id value : Nat) (lease addr : Nat := 0) : State :=
  modCmd s k id (fun c => { c with phase := .finished, code := 0, value := value, lease := lease, addr := addr })

/-- Park a command; a full park table answers full (R296, R303). -/
def parkCmd (s : State) (k id value : Nat) : State :=
  if cmdsIn s k .parked ≥ 64 then endCmd s k id 0x02
  else modCmd s k id (fun c => { c with phase := .parked, value := value })

/-- Whether a command must wait for its turn (R296, R67): four commands run already, another command on its shard runs or was
accepted before it, or the engine is in a guaranteed slot. -/
def cmdWaits (s : State) (k : Nat) (c : KCmd) : Bool :=
  let cs := (engOf s k).cmds
  let same (q : KCmd) : Bool := q.op != 1 && handleIndex q.handle == handleIndex c.handle
  decide ((cs.filter KCmd.runs).length ≥ 4) || heldBySlot s (18432 + k) ||
  (c.op != 1 && (cs.any (fun q => q.runs && same q) ||
    (cs.takeWhile (fun q => q.id != c.id)).any (fun q => q.phase == .queued && same q)))

/-- The line work of a command waits while a keeper of the device has a push to apply or a contribution block to add, or is in a
guaranteed slot (R295, R321). -/
def lineWorkWaits (s : State) : Bool :=
  s.engines.any (fun e => decide (e.1 < 36) && e.2.pushes.any (fun p => p.held == 0)) || !s.fab.blocks.isEmpty ||
  (upto 36).any (fun k => heldBySlot s (18432 + k))

/-- Run the queued command `id` of engine `k` if it has operation `op` and its turn has come (R296, R321); the place it leaves in the queue
goes to the oldest command offered. -/
def runCmd (s : State) (k id op : Nat) (body : State → KCmd → State) : State :=
  match findCmd s k id with
  | none => s
  | some c =>
    if c.op ≠ op ∨ c.phase ≠ .queued ∨ k ≥ 36 ∨ cmdWaits s k c = true ∨ (5 ≤ op ∧ lineWorkWaits s = true) then s else admitCmd (body s c) k

/-- Run a command on an open shard; one whose handle does not match ends with bad handle (Table 09-5). -/
def onShard (s : State) (k : Nat) (c : KCmd) (body : State → Nat → Shard → State) : State :=
  let i := handleIndex c.handle
  match smFind? (engOf s k).shards i with
  | some sh => if sh.gen = handleGen c.handle then body s i sh else endCmd s k c.id 0x01
  | none => endCmd s k c.id 0x01

/-- Put a shard of an engine. -/
def putShard (s : State) (k i : Nat) (x : Shard) : State := modEng s k (fun e => { e with shards := smSet e.shards i x })

/-! ### Shards -/

/-- A shard record's 128 bytes as a shard (R297, R299, Table 09-1); none where the record is invalid. An address that names this device
counts as its local part (R45). -/
def shardOfRecord (s : State) (d : List Byte) (gen : Nat) : Option Shard :=
  let w (i : Nat) : Word := wordAt d i
  let at_ (i : Nat) : Nat := localForm s (w i).toNat
  let o := w 9
  let x : Shard :=
    { gen := gen, rows := bits (w 0) 63 32, cols := bits (w 0) 31 0, master := at_ 1, moments := at_ 2
      grad := at_ 3, set0 := at_ 4, set1 := at_ 5, residual := at_ 6, bitmap := at_ 7
      survey := at_ 8, expected := bits o 63 48, epoch := bits o 47 32, salt := bits o 26 12
      fp8 := bits o 11 10 == 1, transp := bit o 9, twoSets := bit o 8, gradBf16 := bit o 7, q8 := bit o 6
      opt := bits o 5 4, replica := bit o 0, ownerDev := bits (w 10) 49 32, ownerHdl := bits (w 10) 31 0 }
  let max_ := 2 ^ 28
  let fits (a len : Nat) : Bool := a == 0 || (a % 256 == 0 && decide (a + len ≤ userEnd))
  let zero := bits o 31 27 == 0 && bits o 3 1 == 0 && bits (w 10) 63 50 == 0 && (upto 5).all (fun i => w (11 + i) == 0)
  let counts := decide (1 ≤ x.rows) && decide (x.rows ≤ max_) && decide (1 ≤ x.cols) && decide (x.cols ≤ max_) &&
    decide (x.rows * x.cols ≤ max_) && decide (bits o 11 10 ≤ 1) && x.opt != 3
  let arrays := if x.replica then
      x.grad != 0 && x.residual != 0 && x.master == 0 && x.moments == 0 && x.set0 == 0 && x.set1 == 0 && x.survey == 0
    else
      x.master != 0 && x.moments != 0 && x.grad != 0 && x.set0 != 0 && ((x.set1 != 0) == x.twoSets) && x.residual == 0 &&
      decide (1 ≤ x.expected) && x.ownerHdl == 0 && !(decide (1 < x.expected) && x.gradBf16)
  let places := fits x.master (4 * x.n) && fits x.moments x.momLen && fits x.grad x.gradLen && fits x.set0 x.setLen &&
    fits x.set1 x.setLen && fits x.residual (2 * x.n) && fits x.bitmap ((x.n + 511) / 512) && fits x.survey 32
  if zero && counts && arrays && places then some x else none

/-- SHARD.OPEN (R299): the record is read and checked, and the lowest free index taken. -/
def shardOpen (s : State) (k : Nat) (c : KCmd) : State :=
  let a := c.arg0.toNat
  match (upto 1024).find? (fun i => !smHas (engOf s k).shards i) with
  | none => endCmd s k c.id 0x02
  | some i =>
    if a % 128 ≠ 0 then endCmd s k c.id 0x06
    else match engineRead s .kerb a 128 with
      | (none, s1) => endCmd s1 k c.id 0x06
      | (some d, s1) =>
        match shardOfRecord s1 d (shardGen (engOf s1 k) i) with
        | none => endCmd s1 k c.id 0x06
        | some x => let s2 := putShard s1 k i x; doneCmd s2 k c.id (handleOfShard (engOf s2 k) k i)

/-- SHARD.CLOSE (Table 09-4): busy while leases or contributions are outstanding; the handle's generation ends. -/
def shardClose (s : State) (k : Nat) (c : KCmd) : State :=
  onShard s k c (fun s i x =>
    if !(liveLeases s k i).isEmpty ∨ x.accepted > 0 ∨ !x.partialsC.isEmpty then endCmd s k c.id 0x03
    else
      doneCmd (modEng (freeHeld s x 0) k (fun e => { e with
        shards := smErase e.shards i
        leases := e.leases.filter (fun p => p.2.shard != i)
        gens := smPut 0 e.gens i ((x.gen + 1) % 65536) })) k c.id 0)

/-! ### Leases -/

/-- The working set that holds a version (R304). -/
def setOfVersion (x : Shard) (v : Nat) : Nat := if x.twoSets && v % 2 == 1 then x.set1 else x.set0

/-- The device that holds what a command asks for. -/
def holderOf (s : State) : KSource → Nat
  | .peer d _ => d
  | _ => selfId s

/-- Grant a lease on a version of a shard (R305, R308): under the lowest free ID, or in place of the first revoked one. -/
def grantLease (s : State) (k i : Nat) (x : Shard) (c : KCmd) (v : Nat) : State :=
  let ls := (engOf s k).leases
  let slot := match (upto 4096).find? (fun j => !smHas ls j) with
    | some j => some j
    | none => (ls.find? (fun p => p.2.revoked)).map (·.1)
  match slot with
  | none => endCmd s k c.id 0x02
  | some j =>
    let le : Lease := { shard := i, version := v, granted := stageNow s, until_ := bits c.arg1 47 0
                        replica := if holderOf s c.src = selfId s then localForm s c.arg2.toNat else c.arg2.toNat
                        holder := holderOf s c.src, dev := selfId s, handle := c.handle, id := j
                        set := setOfVersion x v, len := x.setLen }
    doneCmd (modEng s k (fun e => { e with leases := smSet e.leases j le })) k c.id v j (setOfVersion x v)

/-- LEASE (R305): current, next or an exact version. A next request parks, remembering the version it waits for. -/
def leaseCmd (s : State) (k : Nat) (c : KCmd) : State :=
  onShard s k c (fun s i x =>
    let want := bits c.arg0 31 0
    let stale : State := count (endCmd s k c.id 0x04) (KRB_COUNT_2 k) KRB_COUNT_2_stale
    if x.replica then endCmd s k c.id 0x01
    else if want = 0xFFFFFFFE then
      (if c.value ≠ 0 ∧ c.value ≤ x.version then grantLease s k i x c x.version else parkCmd s k c.id (x.version + 1))
    else if x.version = 0 then stale
    else if want = 0xFFFFFFFF ∧ c.value ≠ 0 then
      (if c.value = 1 then stale else grantLease s k i x c (c.value - 1))
    else if want = 0xFFFFFFFF ∨ want = x.version then grantLease s k i x c x.version
    else if x.twoSets ∧ want + 1 = x.version ∧ 1 ≤ want then grantLease s k i x c want
    else stale)

/-- RELEASE (R307): ends a lease; one that was revoked answers so and is forgotten. -/
def releaseCmd (s : State) (k : Nat) (c : KCmd) : State :=
  onShard s k c (fun s i _ =>
    let j := bits c.arg0 11 0
    match smFind? (engOf s k).leases j with
    | none => endCmd s k c.id 0x07
    | some le =>
      if le.shard ≠ i then endCmd s k c.id 0x07
      else
        let s1 := modEng s k (fun e => { e with leases := smErase e.leases j })
        if le.revoked then endCmd s1 k c.id 0x08 else doneCmd s1 k c.id 0)

/-- Leases end at a milestone that opens stage `n` (R307): at until_stage, or after lease_limit stages. -/
def revokeLeases (s : State) (n : Nat) : State :=
  let lim := rdf s KRB_CTRL KRB_CTRL_lease_limit
  s.engines.foldl (fun s ke => ke.2.leases.foldl (fun s jl =>
    let le := jl.2
    let over_ := (le.until_ != 0 && decide (le.until_ ≤ n)) || (lim != 0 && decide (le.granted + lim ≤ n))
    if 36 ≤ ke.1 then
      (if over_ then modEng s ke.1 (fun e => { e with leases := smErase e.leases jl.1 }) else s)
    else if !le.revoked && over_ then
      let s1 := modEng s ke.1 (fun e => { e with leases := smSet e.leases jl.1 { le with revoked := true } })
      raiseEvent (count s1 (KRB_COUNT_2 ke.1) KRB_COUNT_2_revoked) (176 + ke.1)
    else s) s) s

/-! ### Gradients -/

/-- Whether block b of a shard is trained (Table 09-2). -/
def trained (s : State) (x : Shard) (b : Nat) : Bool :=
  x.bitmap == 0 || bitsN (leNat (peek s (x.bitmap + b / 8) 1)) (b % 8) (b % 8) == 1

/-- Element i of a shard's gradient buffer, as memory holds it. -/
def gradElem (s : State) (x : Shard) (i : Nat) : Fp :=
  if x.gradBf16 then decodeFp fBF16 (leNat (peek s (x.grad + 2 * i) 2)) else decodeFp fFP32 (leNat (peek s (x.grad + 4 * i) 4))

/-- The address of a block of the gradient buffer. -/
def Shard.gradAt (x : Shard) (b : Nat) : Nat := x.grad + (if x.gradBf16 then 2 else 4) * 64 * b

/-- The keeper that works on a block: that of the gradient buffer's sector that holds it (R295, R311). DEDUCED:
notes/assumptions/51. -/
def Shard.keeper (x : Shard) (b : Nat) : Nat := stackOfLine (x.gradAt b / 2048)

/-- Clear the bytes of a block of the gradient buffer. -/
def clearBlock (s : State) (x : Shard) (b : Nat) : State :=
  keeperWrite s (x.keeper b) (x.gradAt b) (List.replicate ((if x.gradBf16 then 2 else 4) * (x.blockElems b).length) 0)

/-- A keeper meets what it is to read of some arrays of a shard (R458). -/
def meetArrays (s : State) (parts : List (Nat × Nat)) : State :=
  parts.foldl (fun s p => if p.1 = 0 then s else meetBytes s p.1 p.2) s

/-- The bitmap of a shard as its address and its bytes. -/
def Shard.bitmapArea (x : Shard) : Nat × Nat := (x.bitmap, (x.blocks + 7) / 8)

/-- Squares of values. -/
def squares (xs : List Fp) : List Fp := xs.map (fun x => fmul x x)

/-- The trained elements of a shard's gradient buffer. -/
def trainedGrad (s : State) (x : Shard) : List Fp :=
  ((upto x.blocks).filter (trained s x)).flatMap (fun b => (x.blockElems b).map (gradElem s x))

/-- This device's own contribution to an owner's buffer (R314): the buffer, where nothing else has been added; else what its own
pushes have summed into the trained blocks. -/
def ownGrad (s : State) (x : Shard) : List Fp :=
  if x.accepted = 0 ∧ x.partialsC.isEmpty then trainedGrad s x
  else (x.own.filter (fun e => trained s x (e.1 / 64))).map (fun e => decodeFp fFP32 e.2.toNat)

/-- GRAD.CLOSE on an owner record (R310, R314): the buffer counts as one contribution and is closed until the clear of its step; a second
one of a step waits for no clear of its own. -/
def closeOwner (s : State) (k i : Nat) (x : Shard) (c : KCmd) : State :=
  let s0 := meetArrays s [(x.grad, x.gradLen), x.bitmapArea]
  let s1 := if x.closed then freeHeld s0 x 1 else s0
  let (n, s2) := takeFree s1
  let own := sum64 n 0 (squares (ownGrad s2 x))
  let x1 := { x with accepted := x.accepted + 1, closed := true, own := []
                     sumSq := to64 (roundTo fFP64 .rne (fadd (of64 x.sumSq) (of64 (to64 own)))) }
  doneCmd (count (putShard s2 k i x1) (KRB_COUNT_1 k) KRB_COUNT_1_contributions) k c.id x1.accepted

/-- Encode one trained block of a replica's closed buffer (R312): its codes and scale, with the residual written and the
block cleared. -/
def encodeReplicaBlock (s0 : State) (x : Shard) (b : Nat) : (Nat × List Nat) × State :=
  let s := meetArrays s0 [(x.gradAt b, (if x.gradBf16 then 2 else 4) * (x.blockElems b).length), (x.residual + 128 * b, 2 * (x.blockElems b).length)]
  let es := x.blockElems b
  let cs := es.map (fun i => rnd32 (fadd (gradElem s x i) (decodeFp fBF16 (leNat (peek s (x.residual + 2 * i) 2)))))
  let (scale, codes) := encodeBlock 8 (cs.map (fun v => (v, Rmode.rne)))
  let bad := cs.any (fun v => !isFin v)
  let res := (cs.zip codes).flatMap (fun p =>
    bytesOf 2 (if bad then 0 else (encodeFp fBF16 .rne false (fsub p.1 (decodeBlockElem 8 scale p.2.1))).1))
  ((scale, codes.map (·.1)), clearBlock (keeperWrite s (x.keeper b) (x.residual + 128 * b) res) x b)

/-- GRAD.CLOSE on a replica record (R310, R312): every trained block goes to the owner; the rest are cleared. What the keepers held back
for this clear is free to go. -/
def closeReplica (s : State) (k : Nat) (x : Shard) (c : KCmd) : State :=
  let s1 := freeHeld (meetArrays s [x.bitmapArea]) x 0
  let tr := (upto x.blocks).filter (trained s1 x)
  let rest := (upto x.blocks).filter (fun b => !trained s1 x b)
  let s2 := rest.foldl (fun s b => clearBlock s x b) s1
  let step := c.arg0.toNat
  let ep := bits c.arg1 15 0
  if tr = [] then doneCmd s2 k c.id 0
  else
    let s3 := modCmd s2 k c.id (fun q => { q with phase := .sent, acks := tr.length, code := 0, value := 0 })
    tr.foldl (fun s b =>
      let ((scale, codes), s') := encodeReplicaBlock s x b
      let p := KerbPayload.contribution x.ownerHdl b step ep (selfId s) (codes.map (BitVec.ofNat 8)) (BitVec.ofNat 16 scale)
        (b == tr.getLast?.getD 0)
      if x.ownerDev = selfId s then modFab s' (fun f => { f with blocks := f.blocks ++ [⟨selfId s, 0, some (k, c.id), p⟩] })
      else ask s' { who := .contrib k c.id, dst := x.ownerDev, type := 3, op := 0, len := 96, addr := 0, body := .kerb p }) s3

/-- A GRAD.CLOSE that counts no contribution closes nothing: what was held back for it is free to go. -/
def notClosed (s : State) (x : Shard) : State := freeHeld s x (if x.closed then 1 else 0)

/-- GRAD.CLOSE of an owner record whose epoch is older than the shard's (R313, R352): what the device has pushed under it has gone, or
goes, through the remap path by its own epoch; the buffer's lines were pushed through at acceptance, and nothing is counted as accepted.
DESIGN CHOICE: notes/assumptions/105. -/
def closeOlder (s : State) (k : Nat) (x : Shard) (c : KCmd) : State := doneCmd (notClosed s x) k c.id x.accepted

/-- GRAD.CLOSE (R310, R313): on a replica record the owner judges the epoch of each block; on an owner record a newer epoch is
refused. -/
def gradClose (s : State) (k : Nat) (c : KCmd) : State :=
  onShard s k c (fun s i x =>
    let ep := bits c.arg1 15 0
    if x.replica then
      (if !rdb s CWY_SELF_ID CWY_SELF_ID_id_valid ∨ !knownDevice s x.ownerDev then endCmd (notClosed s x) k c.id kerbUnreachable
       else closeReplica s k x c)
    else if ep > x.epoch then count (endCmd (notClosed s x) k c.id 0x05) (KRB_COUNT_1 k) KRB_COUNT_1_epoch_refused
    else if ep < x.epoch then closeOlder s k x c
    else closeOwner s k i x c)

/-- The decoded elements of a contribution block. -/
def blockValues (codes : List Byte) (scale : BitVec 16) : List Fp :=
  codes.map (fun q => decodeBlockElem 8 scale.toNat q.toNat)

/-- The keeper of stack k adds a decoded block into memory at an address, one FP32 rounding per element (R311). -/
def addBlock (s : State) (k a : Nat) (vs : List Fp) : State :=
  vs.zipIdx.foldl (fun s p => addElemBy s k 1 (a + 4 * p.2) (BitVec.ofNat 32 (to32 p.1))) (meetBytes s a (4 * vs.length))

/-- Whether the last block of a contribution has been added (R313), in whatever order they came (R397): the flagged one, and every
trained block of the owner's bitmap below it. DEDUCED: notes/assumptions/51. -/
def contribWhole (s : State) (x : Shard) (q : Contrib) : Bool :=
  match q.last with
  | some b => (upto b).all (fun i => !trained s x i || q.added.contains i)
  | none => false

/-- The keeper to which a contribution block goes (R311): that of the owner's buffer sector that holds the same elements. -/
def keeperOfContribution (s : State) (hdl b : Nat) : Nat :=
  match smFind? (engOf s (handleEngine hdl)).shards (handleIndex hdl) with
  | some x => x.keeper b
  | none => handleEngine hdl

/-- A block of a contribution at its owner (R311, R313, R314, R352): the status and the count of contributions accepted that
go back, and the state. -/
def contributionIn (s : State) (hdl b step ep replica : Nat) (codes : List Byte) (scale : BitVec 16) (last : Bool) :
    (Nat × Nat) × State :=
  let k := handleEngine hdl
  let i := handleIndex hdl
  match smFind? (engOf s k).shards i with
  | none => ((0x01, 0), s)
  | some x =>
    if x.gen ≠ handleGen hdl ∨ x.replica ∨ x.gradBf16 ∨ b ≥ x.blocks then ((0x01, 0), s)
    else if ep > x.epoch then
      ((0x05, 0), if last then count s (KRB_COUNT_1 k) KRB_COUNT_1_epoch_refused else s)
    else
      let vs := (blockValues codes scale).take (x.blockElems b).length
      if ep < x.epoch then
        ((0, x.accepted), remapSector s true (x.grad + 256 * b) (fun s a => addBlock s (x.keeper b) a vs))
      else
        let tr := trained s x b
        let s1 := if tr then addBlock s (x.keeper b) (x.grad + 256 * b) vs else s
        let (n, s2) := takeFree s1
        let mine (p : Contrib) : Bool := p.replica == replica && p.step == step
        let old := (x.partialsC.find? mine).getD { replica := replica, step := step }
        let now_ : Contrib := { old with
          sq := if tr then to64 (sum64 n 0 (of64 old.sq :: squares vs)) else old.sq
          added := old.added ++ [b]
          last := if last then some b else old.last }
        let others := x.partialsC.filter (fun p => !mine p)
        if contribWhole s x now_ then
          let x1 := { x with accepted := x.accepted + 1, partialsC := others
                             sumSq := to64 (roundTo fFP64 .rne (fadd (of64 x.sumSq) (of64 now_.sq))) }
          ((0, x1.accepted), count (putShard s2 k i x1) (KRB_COUNT_1 k) KRB_COUNT_1_contributions)
        else ((0, x.accepted), putShard s2 k i { x with partialsC := others ++ [now_] })

/-- A status word of Table 09-5's record (R302). -/
def statusWord (code lease value : Nat) : Word := BitVec.ofNat 64 (code * 2 ^ 56 + lease % 4096 * 2 ^ 32 + value % 2 ^ 32)

/-- Tell another device a Kerb status (R302, R312). -/
def tellStatus (s : State) (dev id : Nat) (w0 w1 : Word) : State :=
  ask s { who := .status, dst := dev, type := 3, op := 0, len := 16, addr := 0, body := .kerb (.status id w0 w1) }

/-- What CONTRIBUTION_BLOCK does (R311, R321): a block that has reached this device is added by its keeper, after the pushes that the
keeper holds and not in its guaranteed slot; its sender is told. A second copy of a block of a step and replica is discarded
(R506). -/
def contributionBlock (p : KerbPayload) (s : State) : State :=
  match s.fab.blocks.find? (fun b => b.p == p), p with
  | some b, .contribution hdl blk step ep replica codes scale last =>
    let kp := keeperOfContribution s hdl blk
    if (engOf s kp).pushes.any (fun p => p.held == 0) || heldBySlot s (18432 + kp) then s
    else
      let s1 := modFab s (fun f => { f with blocks := f.blocks.erase b })
      let ((code, value), s2) := if s.fab.taken.contains (hdl, replica, step, blk) then
          ((0, ((smFind? (engOf s (handleEngine hdl)).shards (handleIndex hdl)).map (·.accepted)).getD 0), s1)
        else contributionIn (modFab s1 (fun f => { f with
          taken := f.taken.filter (fun t => t.1 != hdl || t.2.1 != replica || t.2.2.1 == step) ++ [(hdl, replica, step, blk)] }))
          hdl blk step ep replica codes scale last
      match b.local_ with
      | some (k, c) => modCmd s2 k c (fun q => blockAnswered q code value)
      | none => tellStatus s2 b.dev (2 * b.tag + 1) (statusWord code 0 value) 0
  | _, _ => s

/-! ### The fused update -/

/-- The constants of an update (Table 09-7, R316). -/
structure UpdK where
  lr    : Fp
  wd    : Fp
  b1    : Fp
  b2    : Fp
  eps   : Fp
  gs    : Fp
  clamp : Fp
  omb1  : Fp
  omb2  : Fp
  c1    : Fp
  c2    : Fp
deriving DecidableEq, Repr

/-- A dyadic limited to 256 significant bits. -/
def dyTrim (d : Dy) : Dy :=
  let k := Nat.log2 d.m.natAbs
  if k < 256 then d
  else ⟨(if d.m < 0 then -1 else 1) * ((d.m.natAbs / 2 ^ (k - 255) : Nat) : Int), d.e + ((k - 255 : Nat) : Int)⟩

/-- b^t by squaring over the low `n` bits of t, to 256 significant bits. -/
def dyPow : Nat → Dy → Nat → Dy
  | 0, _, _ => dyOne
  | n + 1, b, t =>
    let r := dyPow n (dyTrim (dyMul b b)) (t / 2)
    if t % 2 = 1 then dyTrim (dyMul b r) else r

/-- 1 − β^t within 1 ulp (R316). -/
def oneMinusPow (free tag : Nat) (b : Fp) (t : Nat) : Fp :=
  if isFin b then approx free tag 1 (dySub dyOne (dyPow 32 (dyOf b) t)) else rnd32 (fsub (ofInt 1) b)

/-- The constants of an update block; none where a zero field is set or the step count is 0. -/
def updOf (free : Nat) (opt : Nat) (d : List Byte) : Option UpdK :=
  let w (i : Nat) : Word := wordAt d i
  let lo (i : Nat) : Fp := f32 (bits (w i) 31 0)
  let hi (i : Nat) : Fp := f32 (bits (w i) 63 32)
  let t := bits (w 3) 31 0
  if (upto 4).any (fun i => w (4 + i) != 0) || (opt != 0 && t == 0) then none
  else some { lr := lo 0, wd := hi 0, b1 := lo 1, b2 := hi 1, eps := lo 2, gs := hi 2, clamp := hi 3
              omb1 := oneMinusPow free 0 (lo 1) 1, omb2 := oneMinusPow free 1 (hi 1) 1
              c1 := oneMinusPow free 2 (lo 1) t, c2 := oneMinusPow free 3 (hi 1) t }

/-- One FP32 operation. -/
def add32 (a b : Fp) : Fp := rnd32 (fadd a b)
/-- One FP32 operation. -/
def sub32 (a b : Fp) : Fp := rnd32 (fsub a b)
/-- One FP32 operation. -/
def mul32 (a b : Fp) : Fp := rnd32 (fmul a b)
/-- One FP32 operation. -/
def div32 (a b : Fp) : Fp := rnd32 (fdiv a b)
/-- One FP32 operation. -/
def sqrt32 (a : Fp) : Fp := rnd32 (fsqrt a)

/-- The new moments of an element from its combined gradient (R316). -/
def newMoments (k : UpdK) (opt : Nat) (m v gr : Fp) : Fp × Fp :=
  let g := mul32 k.gs gr
  if opt = 0 then (add32 (mul32 k.b1 m) g, v)
  else (add32 (mul32 k.b1 m) (mul32 k.omb1 g), add32 (mul32 k.b2 v) (mul32 k.omb2 (mul32 g g)))

/-- The step u of AdamW and the trust-ratio optimiser (R316). -/
def stepU (k : UpdK) (m v w : Fp) : Fp :=
  add32 (div32 (div32 m k.c1) (add32 (sqrt32 (div32 v k.c2)) k.eps)) (mul32 k.wd w)

/-- The new master element (R316). -/
def newMaster (k : UpdK) (opt : Nat) (ratio m v w : Fp) : Fp :=
  if opt = 0 then sub32 w (mul32 k.lr (add32 m (mul32 k.wd w)))
  else sub32 w (mul32 (mul32 k.lr ratio) (stepU k m v w))

/-- A stored moment: which 0 first, 1 second (Table 09-2). -/
def momentElem (s : State) (x : Shard) (which i : Nat) : Fp :=
  if x.q8 then
    let code := leNat (peek s (x.moments + which * x.n + i) 1)
    let scale := leNat (peek s (x.moments + 2 * x.n + 2 * (which * x.blocks + i / 64)) 2)
    rnd32 (decodeBlockElem (9 + which) scale code)
  else decodeFp fFP32 (leNat (peek s (x.moments + 4 * (which * x.n + i)) 4))

/-- The random value of a moment element (R316). -/
def momentRandom (seed : Word) (x : Shard) (which i : Nat) : Nat :=
  let b := i / 8
  blockElem (philox (bits seed 31 0) (bits seed 63 32)
    ⟨b % 2 ^ 32, b / 2 ^ 32, (0xFFFE0000 + which * 2 ^ 15 + x.salt) % 2 ^ 32, (x.version + 1) % 2 ^ 32⟩) (i % 8)

/-- Write the moments of a block (Table 09-2, R316). -/
def putMoments (s : State) (x : Shard) (seed : Word) (which b : Nat) (vs : List Fp) : State :=
  if x.q8 then
    let es := x.blockElems b
    let (scale, codes) := encodeBlock (9 + which) ((vs.zip es).map (fun p => (p.1, Rmode.sr (momentRandom seed x which p.2))))
    keeperWrite (keeperWrite s (x.keeper b) (x.moments + which * x.n + 64 * b) (codes.map (fun q => BitVec.ofNat 8 q.1)))
      (x.keeper b) (x.moments + 2 * x.n + 2 * (which * x.blocks + b)) (bytesOf 2 scale)
  else keeperWrite s (x.keeper b) (x.moments + 4 * (which * x.n + 64 * b)) (vs.flatMap (fun v => bytesOf 4 (to32 v)))

/-- Write the master of a block. -/
def putMaster (s : State) (x : Shard) (b : Nat) (vs : List Fp) : State :=
  keeperWrite s (x.keeper b) (x.master + 256 * b) (vs.flatMap (fun v => bytesOf 4 (to32 v)))

/-- Whether a block of the master can neither be read nor be rebuilt: such a block is updated like an untrained one (R465). -/
def masterLost (s : State) (x : Shard) (b : Nat) : Bool := (x.blockElems b).any (masterFails s x)

/-- The moments of a block as the first pass computes them. -/
def blockMoments (s : State) (x : Shard) (k : UpdK) (b : Nat) : List (Fp × Fp) :=
  (x.blockElems b).map (fun i => newMoments k x.opt (momentElem s x 0 i) (momentElem s x 1 i) (gradElem s x i))

/-- Write the moments of a block: the first, and where the optimiser keeps it the second. -/
def putBlockMoments (s : State) (x : Shard) (seed : Word) (b : Nat) (ms : List (Fp × Fp)) : State :=
  let s1 := putMoments s x seed 0 b (ms.map (·.1))
  if x.opt = 0 then s1 else putMoments s1 x seed 1 b (ms.map (·.2))

/-- The moments pass of a block. -/
def momentPass (s : State) (x : Shard) (k : UpdK) (seed : Word) (b : Nat) : State :=
  putBlockMoments s x seed b (blockMoments s x k b)

/-- What an update has made so far: the machine, and the new elements of the master whose stored sectors are lost, for the working set
alone (R315, R474). -/
structure Updated where
  st   : State
  news : SMap Fp := []
deriving DecidableEq, Repr

/-- The master pass of a block, from moments `ms` as the optimiser uses them. -/
def masterPass (u : Updated) (x : Shard) (k : UpdK) (ratio : Fp) (b : Nat) (ms : List (Fp × Fp)) : Updated :=
  let vs := ((x.blockElems b).zip ms).map (fun p => (p.1, newMaster k x.opt ratio p.2.1 p.2.2 (masterElem u.st x p.1)))
  let s1 := putMaster u.st x b (vs.map (·.2))
  ⟨s1, if onLostPc s1 ((x.master + 256 * b) / 256) then vs.foldl (fun m p => smSet m p.1 p.2) u.news else u.news⟩

/-- The updated blocks of a shard (R316): under optimisers 0 and 1 one pass, with the new moments as computed; under optimiser
2 a first pass that sums the squares of the master and of u, with the moments as computed, and a second pass with the stored moments
and the shard-wide ratio. A trained block whose master is poisoned stays as it is and is counted (R465). -/
def applyUpdate (s0 : State) (x : Shard) (k : UpdK) (seed : Word) (free : Nat) : Updated :=
  let bs := (upto x.blocks).filter (fun b => trained s0 x b && !masterLost s0 x b)
  let s := count s0 REP_COUNT_0 REP_COUNT_0_poisoned ((upto x.blocks).filter (fun b => trained s0 x b && masterLost s0 x b)).length
  if x.opt = 2 then
    let s1 := bs.foldl (fun s b => momentPass s x k seed b) s
    let stored (s : State) (b : Nat) : List (Fp × Fp) := (x.blockElems b).map (fun i => (momentElem s x 0 i, momentElem s x 1 i))
    let ws := bs.flatMap (fun b => (x.blockElems b).map (masterElem s1 x))
    let us := bs.flatMap (fun b => ((x.blockElems b).zip (blockMoments s x k b)).map (fun p =>
      stepU k p.2.1 p.2.2 (masterElem s x p.1)))
    let sw := sum64 free 4 (squares ws)
    let su := sum64 free 5 (squares us)
    let raw := if isZero sw || isZero su then ofInt 1
      else fdiv (roundTo fFP64 .rne (fsqrt sw)) (roundTo fFP64 .rne (fsqrt su))
    let lim := if isZero k.clamp then raw else fmin raw k.clamp
    bs.foldl (fun u b => masterPass u x k (rnd32 lim) b (stored u.st b)) ⟨s1, []⟩
  else
    bs.foldl (fun u b =>
      let ms := blockMoments u.st x k b
      let u1 := masterPass u x k (ofInt 1) b ms
      { u1 with st := putBlockMoments u1.st x seed b ms }) ⟨s, []⟩

/-- Write the working set of the next version from the master, with elements `news` in place of what memory holds, and advance the
version (R304, R318). -/
def regenerate (s : State) (k i : Nat) (x : Shard) (news : SMap Fp := []) : State :=
  let v := (x.version + 1) % 2 ^ 32
  let base := setOfVersion x v
  let d := (upto x.setLen).map (setByteOf (fun j => (smFind? news j).getD (masterElem s x j)) x)
  let s1 := (sectorPieces (d.length + 1) base d).foldl (fun s p =>
    keeperWrite s (x.keeper (x.setElem (p.1 - base) / 64)) p.1 p.2) s
  putShard s1 k i { x with version := v }

/-- Whether leases hold the set that the next version overwrites (R306). -/
def targetLeased (s : State) (k i : Nat) (x : Shard) : Bool :=
  let held := if x.twoSets then x.version - 1 else x.version
  (!x.twoSets || decide (1 ≤ x.version)) && (liveLeases s k i).any (fun p => p.2.version == held)

/-- The blocks of the combined gradient that hold a NaN or an infinity, among the trained ones (R317). -/
def badGradBlocks (s : State) (x : Shard) : List Nat :=
  (upto x.blocks).filter (fun b => trained s x b && (x.blockElems b).any (fun i => !isFin (gradElem s x i)))

/-- The end of a step's gradients (R315, R317): the buffer and the count are cleared, and pushes held back are free to go. -/
def clearGrad (s : State) (k i : Nat) (x : Shard) : State :=
  let s1 := (upto x.blocks).foldl (fun s b => clearBlock s x b) s
  freeHeld (putShard s1 k i { x with accepted := 0, sumSq := 0, closed := false, own := [] }) x 0

/-- UPDATE (R315 to R317). -/
def updateCmd (s : State) (k : Nat) (c : KCmd) : State :=
  onShard s k c (fun s i x =>
    let a := c.arg0.toNat
    if x.replica then endCmd s k c.id 0x01
    else if x.accepted < x.expected ∨ targetLeased s k i x then parkCmd s k c.id 0
    else match engineRead s .kerb a 64 with
      | (none, s1) => endCmd s1 k c.id 0x06
      | (some d, s0) =>
        let (n, s1) := takeFree (meetArrays s0 [(x.grad, x.gradLen), (x.master, 4 * x.n), (x.moments, x.momLen), x.bitmapArea])
        match updOf n x.opt d with
        | none => endCmd s1 k c.id 0x06
        | some u =>
          let bad := badGradBlocks s1 x
          let g2 := sum64 n 6 (squares (trainedGrad s1 x))
          let survey (s : State) : State :=
            if x.survey = 0 then s
            else keeperWrite s k x.survey (wordBytes [BitVec.ofNat 64 (x.accepted * 2 ^ 32 + bad.length), x.sumSq, to64 g2,
              BitVec.ofNat 64 (stageNow s)])
          if bad ≠ [] then
            let s2 := survey (clearGrad s1 k i x)
            count (endCmd s2 k c.id 0x09) (KRB_COUNT_1 k) KRB_COUNT_1_skipped
          else
            let r := applyUpdate s1 x u c.seed n
            let s3 := clearGrad r.st k i x
            match smFind? (engOf s3 k).shards i with
            | some y => let s4 := survey (regenerate s3 k i y r.news); doneCmd s4 k c.id ((x.version + 1) % 2 ^ 32)
            | none => s3)

/-- REGEN (R304, R306, R318). -/
def regenCmd (s : State) (k : Nat) (c : KCmd) : State :=
  onShard s k c (fun s i x =>
    if x.replica then endCmd s k c.id 0x01
    else if targetLeased s k i x then parkCmd s k c.id 0
    else doneCmd (regenerate (meetArrays s [(x.master, 4 * x.n)]) k i x) k c.id ((x.version + 1) % 2 ^ 32))

/-- Whether a parked command may go on (R303, R305, R306, R315). -/
def mayUnpark (s : State) (k : Nat) (c : KCmd) : Bool :=
  let i := handleIndex c.handle
  match smFind? (engOf s k).shards i with
  | none => true
  | some x =>
    if x.gen ≠ handleGen c.handle then true
    else if c.op = 3 then decide (c.value ≤ x.version)
    else if c.op = 6 then decide (x.expected ≤ x.accepted) && !targetLeased s k i x
    else !targetLeased s k i x

/-! ### Completion -/

/-- The channel on whose behalf a command's status is written. -/
def kerbChan (s : State) : KSource → Option Nat
  | .core l t _ => (strOf s l t).owner
  | .entry i _ => some i
  | _ => none

/-- The bytes of the working set of a shard owned elsewhere: by this device's replica record of that shard, else a number that the
model leaves open, since nothing tells the holder the layout. DESIGN CHOICE: notes/assumptions/105. -/
def replicaLen (s : State) (dev handle : Nat) : Nat × State :=
  match (s.engines.flatMap (fun e => smVals e.2.shards)).find? (fun x => x.replica && x.ownerDev == dev && x.ownerHdl == handle) with
  | some x => (x.setLen, s)
  | none => let (n, s1) := takeFree s; (Config.freeNat n, s1)

/-- The holder's record of a lease with a replica address (R308): made when a LEASE sent to another device succeeds, with the lease's
ID, the leased version and the address of the owner's set, and ended by RELEASE. -/
def holdReplica (s : State) (c : KCmd) : State :=
  if c.op = 3 ∧ c.code = 0 ∧ c.arg2 ≠ 0 then
    let (n, s1) := replicaLen s c.dev c.handle
    let le : Lease := { shard := handleIndex c.handle, version := c.value, granted := stageNow s, until_ := bits c.arg1 47 0
                        replica := localForm s c.arg2.toNat, holder := selfId s, dev := c.dev, handle := c.handle, id := c.lease
                        set := c.addr, len := n }
    modEng s1 remoteEng (fun e => { e with leases := smSet e.leases c.id le })
  else if c.op = 4 then
    modEng s remoteEng (fun e => { e with leases := e.leases.filter (fun l =>
      !(l.2.dev == c.dev && l.2.handle == c.handle && l.2.id == bits c.arg0 11 0)) })
  else s

/-- KERB_COMMAND_COMPLETE (R302): the status record, then the counter, the entry or the frame that tells of the end. -/
def completeKerb (s0 : State) (k : Nat) (c : KCmd) : State :=
  let s := if k = remoteEng then holdReplica s0 c else s0
  let w0 := statusWord c.code c.lease c.value
  let w1 := BitVec.ofNat 64 c.addr
  let s1 := modEng s k (fun e => { e with cmds := e.cmds.filter (fun q => q.id != c.id) })
  let s2 := admitCmd (if k < 36 then count s1 (KRB_COUNT_0 k) KRB_COUNT_0_commands else s1) k
  match c.src with
  | .peer dev tag => tellStatus s2 dev tag w0 w1
  | _ =>
    let (ok, s3) := if c.status = 0 then (true, s2) else engineWrite s2 (kerbChan s2 c.src) c.status (wordBytes [w0, w1]) .kerb
    match c.src with
    | .core l t ctr =>
      let s4 := modCore s3 l (fun z => { z with kcmds := z.kcmds.filter (fun q => q.1 != c.id) })
      let s5 := if ok then s4 else lateFault s4 l t 0x81 (BitVec.ofNat 64 c.status)
      let s6 := match ctr with
        | some e => raiseCtr s5 l e 1
        | none => s5
      deadlockCheck s6 l
    | .entry i n =>
      let code := if ok then 0 else if (regionOf c.status).kind == .host then 0x04 else 0x03
      carryEntry s3 i n code (c.code * 2 ^ 56 + c.lease % 4096 * 2 ^ 32 + c.value % 2 ^ 32)
    | _ => s3

/-- A status record from another device (R302, R312): under an even ID a command sent there is finished, under an odd one a
contribution block, named by its tag, has been acknowledged. -/
def kerbStatusIn (s : State) (id : Nat) (w0 w1 : Word) : State :=
  if id % 2 = 0 then
    modCmd s remoteEng (id / 2) (fun q => { q with
      phase := .finished, code := bits w0 63 56, lease := bits w0 43 32, value := bits w0 31 0, addr := w1.toNat })
  else
    let answered (s : State) (e c : Nat) : State := modCmd s e c (fun q => blockAnswered q (bits w0 63 56) (bits w0 31 0))
    match smFind? s.fab.sent (id / 2) with
    | some (.contrib e c) => answered (modFab s (fun f => { f with sent := smSet f.sent (id / 2) .status })) e c
    | some (.acked e c) =>
      let s1 := answered (modFab s (fun f => { f with sent := smErase f.sent (id / 2) })) e c
      askWaiting s1.fab.asks.length s1
    | _ => s

/-- The keeper of a stack applies the first push that is not held back (R309, R310), but not in its guaranteed slot (R321). -/
def keeperPush (s : State) (stack : Nat) : State :=
  if heldBySlot s (18432 + stack) then s
  else match (engOf s stack).pushes.find? (fun p => p.held == 0) with
  | some p =>
    let s1 := soundLine s p.line
    applyPush (modEng s1 stack (fun e => { e with pushes := e.pushes.erase p })) p
  | none => s

/-- KRB_STAT_CLEAR (R324): every KRB counter of every engine, the scrub passes among them (R326). -/
def kerbStatClear (s : State) : State :=
  (upto 36).foldl (fun s k => wrf s (KRB_SCRUB k) KRB_SCRUB_passes 0)
    (clearIf s (fun o => decide (KRB_STATUS 0 ≤ o) && decide (o < KRB_STATUS 36) &&
      (let r := (o - KRB_STATUS 0) % 0x4000
       r == 8 || r == 0x10 || r == 0x18 || (decide (0x100 ≤ r) && decide (r < 0x130)))))

/-- KRB_STAT_CLEAR. -/
def execKrbStatClear (s : State) : Out := .next (powered s (kerbStatClear s))

end Sys2Proof.Machine
end

