-- ==== Sys2Proof/Machine/Maint.lean ====
section
/-! DEFINITION. Cache maintenance (class 0x8_, R159 to R161, R271 to R277): the range operations, ROINV, the pinned window's
size, and the counters of the two caches. A range operation does its sector work when the movement engine accepts it and
is complete at MAINTENANCE_COMPLETE. DESIGN CHOICE: notes/assumptions/40. -/

namespace Sys2Proof.Machine

/-- The lines of Verge that are present and satisfy a test, by line number. -/
def linesWhere (s : State) (p : VLine → Bool) : List Nat :=
  s.slices.flatMap (fun x => (x.2.lines.filter p).map (·.line))

/-- The sectors of a line that lie in the range [a, b) of sector numbers. -/
def sectorsIn (l a b : Nat) : List Nat := ((upto 8).map (fun i => l * 8 + i)).filter (fun x => decide (a ≤ x) && decide (x < b))

/-- Whether a line has a sector in the range [a, b) of sector numbers. -/
def lineTouches (v : VLine) (a b : Nat) : Bool := decide (v.line * 8 < b) && decide (a < v.line * 8 + 8)

/-- Whether a prefetch skips a sector: dead, or of a reduction-pending line (R275, R276). -/
def pfSkips (s : State) (sec : Nat) : Bool :=
  (match findLine s (sec / 8) with
   | some v => v.red.isSome
   | none => false) ||
  (match findSector s sec with
   | some x => x.st == .dead
   | none => false)

/-- Whether a prefetch of a sector meets an error: its data uncorrectable, or not those of its waybill at the first reading
(R280). -/
def pfFails (s : State) (sec : Nat) : Bool :=
  if inVerge s sec then vergeEcc (flawV s sec).errs == .uncorrectable else sectorGone s sec || (flawOf s sec).once

/-- The writes of a cluster to a sector that are still on their way to its slice or wait there (R260), in the order in which they
left. -/
def writesUnderWay (s : State) (c sec : Nat) : List (Nat × List Byte) :=
  ((s.reqs.filter (fun r => clusterOf r.core == c && r.op == 0 && r.prov.isNone && cacheable r.dst && r.dst / 256 == sec &&
    !r.fresh && (r.phase == .wrV || r.phase == .reread || r.phase == .repair))).insertionSort (fun a b => a.sent ≤ b.sent)).map
    (fun r => (r.dst % 256, r.data))

/-- PF.CCH and PF.VRG of one sector (Table 08-4): filled into Verge and, for PF.CCH, the own half, there with the writes of the cluster
that have not arrived yet (R260); one that meets an error is dropped and counted (R280). -/
def pfSector (s : State) (l : Nat) (cch dropped : Bool) (sec : Nat) : State :=
  if pfSkips s sec then s
  else if dropped || pfFails s sec then count s (CCH_PF (clusterOf l)) CCH_PF_dropped
  else match vReadSector s .requester false sec with
    | (.data d, s1) =>
      if cch then cchInstall s1 (halfKey (clusterOf l) (halfOfCore s l)) sec (withWrites d (writesUnderWay s (clusterOf l) sec))
        (!billOk (flawV s1 sec) d)
      else s1
    | _ => count s (CCH_PF (clusterOf l)) CCH_PF_dropped

/-- Write back dirty sectors of a range after pushing reductions through; FLUSH.INV gives up the data, but keeps a pinned
line (Table 08-4, R275). -/
def flushLine (s : State) (inv : Bool) (a b l : Nat) : State :=
  let s1 := (sectorsIn l a b).foldl cleanSector (settleLine (soundLine s l) l)
  if !inv then s1
  else match findLine s1 l with
    | none => s1
    | some v =>
      if v.pin then s1
      else
        let secs := v.secs.filter (fun x => !(sectorsIn l a b).contains (l * 8 + x.1))
        if secs.isEmpty then dropLine s1 l else putLine s1 { v with secs := secs }

/-- DEAD on the sectors of one line (Table 08-4, R275): the data is dropped, clean or dirty; a reduction-pending line is left
and counted once per sector. -/
def deadLine (s : State) (a b l : Nat) : State :=
  match findLine s l with
  | none => s
  | some v =>
    if v.red.isSome then count s (VRG_EVENTS_0 (sliceOfLine l)) VRG_EVENTS_0_dead_refused (sectorsIn l a b).length
    else putLine s { v with
      secs := v.secs.map (fun x => if (sectorsIn l a b).contains (l * 8 + x.1) then (x.1, ⟨.dead, []⟩) else x)
      flaws := v.flaws.filter (fun x => !(sectorsIn l a b).contains (l * 8 + x.1)) }

/-- The window ways of a slice counted against pins, those in transition included (R272, R273). -/
def windowHeld (s : State) (i : Nat) : Nat :=
  let w := rd s (VRG_SLICE_CFG i)
  max (getf w VRG_SLICE_CFG_window_active) (if getb w VRG_SLICE_CFG_busy then getf w VRG_SLICE_CFG_window_ways else 0)

/-- The most window ways and pinned lines that a set of a slice may hold (R268, R469): 14, or what the slice's repair ways leave of 16. -/
def pinLimit (sl : Slice) : Nat := min 14 (16 - ((sl.repair.map (fun p => p.1 / 8)).dedup).length)

/-- PIN of one line (R273): allocated and pinned, or counted in pin_refused where window ways and pinned lines would exceed
the limit in its set, or the set holds every way. -/
def pinLine (s : State) (l : Nat) : State :=
  let i := sliceOfLine l
  let refuse : State := count s (VRG_EVENTS_1 i) VRG_EVENTS_1_pin_refused
  if ((findLine s l).map (·.pin)).getD false then s
  else
    let pins := ((sliceOf s i).lines.filter (fun v => v.pin && setOfLine v.line == setOfLine l)).length
    if windowHeld s i + pins + 1 > pinLimit (sliceOf s i) then refuse
    else match allocLine s l with
      | none => refuse
      | some s1 => match findLine s1 l with
        | some v => putLine s1 { v with pin := true }
        | none => s1

/-- The sector work of a range operation on the bytes [a, a + n) (Table 08-4). `drops` are the sectors whose prefetch meets an
error in DRAM or in its waybill. -/
def rangeOp (s : State) (l fn a n : Nat) (drops : List Nat) : State :=
  let lo := a / 256
  let hi := (a + n + 255) / 256
  let touched := linesWhere s (fun v => lineTouches v lo hi)
  match fn with
  | 0 => (upto (hi - lo)).foldl (fun s i => pfSector s l true (drops.contains (lo + i)) (lo + i)) s
  | 1 => (upto (hi - lo)).foldl (fun s i =>
      if (findSector s (lo + i)).isSome then s else pfSector s l false (drops.contains (lo + i)) (lo + i)) s
  | 2 => touched.foldl (fun s x => flushLine s false lo hi x) s
  | 3 => touched.foldl (fun s x => flushLine s true lo hi x) s
  | 4 => cchInvalidateIf s (clusterOf l) (fun sec => decide (lo ≤ sec) && decide (sec < hi))
  | 5 => cchInvalidateIf (touched.foldl (fun s x => deadLine s lo hi x) s) (clusterOf l)
      (fun sec => decide (lo ≤ sec) && decide (sec < hi))
  | 6 => (upto ((hi + 7) / 8 - lo / 8)).foldl (fun s i => pinLine s (lo / 8 + i)) s
  | _ => touched.foldl (fun s x => match findLine s x with
      | some v => putLine s { v with pin := false }
      | none => s) s

/-- Whether the range of a maintenance operation lies where R160 demands: user stack memory, or the pinned window for PIN
and UNPIN, under its local address or under this device's global one (R45). -/
def rangeRegion (s : State) (fn a n : Nat) : Bool :=
  !isGlobal (localForm s a) && rangeOk .core (localForm s a) n &&
  (match regionOf (localForm s a) with
   | .user => true
   | .window _ _ => decide (fn ≥ 6)
   | _ => false)

/-- Whether some sector that PF.CCH or PF.VRG would fetch finds no free slot in its slice, or, for PF.CCH, in its half of the
cluster cache: the operation then waits (R281). -/
def pfWaits (s : State) (l fn a n : Nat) : Bool :=
  decide (fn < 2) && (upto ((a + n + 255) / 256 - a / 256)).any (fun i =>
    let sec := a / 256 + i
    (fn == 0 && missSlotsFull s l sec) ||
    ((findSector s sec).isNone && (decide (sliceBusy s (sliceOfLine (sec / 8)) ≥ 300) || decide ((pcBusy s (gpcOf sec) 0).1 ≥ 55))))

/-- Whether FLUSH or FLUSH.INV must wait: the sums of a line of the range have found no room at their keeper (R269, R275), or its
guaranteed slot is under way (R67). -/
def flushWaits (before after : State) (fn a n : Nat) : Bool :=
  (fn == 2 || fn == 3) &&
  (let hit (v : VLine) : Bool := v.red.isSome && lineTouches v (a / 256) ((a + n + 255) / 256)
   !(linesWhere after hit).isEmpty || (linesWhere before hit).any (fun l => heldBySlot before (18432 + stackOfLine l)))

/-- A range operation of opcode 0x80 (R159, R160): checks, then acceptance with a movement slot; a length of 0 completes at
once. -/
def maintBody (x : Insn) (fn : Nat) (drops : List Nat) (s : State) (st : Stream) : Done :=
  if !isSA x.r1 || !isSA x.r2 then badOperand st
  else
    let a := (st.reg x.r1).toNat
    let n := (st.reg x.r2).toNat
    let ctr := if bitsN x.b 20 20 = 1 then some (bitsN x.b 23 21) else none
    if fn ≥ 2 ∧ (a % 256 ≠ 0 ∨ n % 256 ≠ 0) then badOperand st
    else if n = 0 then
      .go (match ctr with
        | some e => raiseCtr s x.core e 1
        | none => s)
    else if !rangeRegion s fn a n then .fault 0x04 a
    else if accepted (coreOf s x.core) x.stream ≥ 8 ∨ slotFree s x.core x.stream = false then .stall
    else if pfWaits s x.core fn (localForm s a) n then .stall
    else
      let s1 := match regionOf (localForm s a) with
        | .user => rangeOp s x.core fn (localForm s a) n drops
        | _ => s
      if flushWaits s s1 fn (localForm s a) n then .stall
      else .go (modCore { s1 with nextId := s1.nextId + 1 } x.core (fun c =>
        { c with maints := c.maints ++ [{ id := s1.nextId, stream := x.stream, fn := fn, ctr := ctr }] }))

/-- A range operation as an instruction: rd and rc zero, [19:0] zero. -/
def maintInsn (fn : Nat) (x : Insn) (drops : List Nat) (s : State) : State :=
  issueInsn s x (some 1) (x.r0 == 0 && x.r3 == 0 && bitsN x.b 19 0 == 0) (maintBody x fn drops)

/-- PF.CCH. -/
def execPfCch (x : Insn) (drops : List Nat) (s : State) : Out := onCore x.core (maintInsn 0 x drops s)
/-- PF.VRG. -/
def execPfVrg (x : Insn) (drops : List Nat) (s : State) : Out := onCore x.core (maintInsn 1 x drops s)
/-- INV.CCH. -/
def execInvCch (x : Insn) (s : State) : Out := onCore x.core (maintInsn 4 x [] s)
/-- DEAD. -/
def execDead (x : Insn) (s : State) : Out := onCore x.core (maintInsn 5 x [] s)
/-- PIN. DEDUCED: notes/assumptions/41. -/
def execPin (x : Insn) (s : State) : Out := onCore x.core (maintInsn 6 x [] s)
/-- UNPIN. -/
def execUnpin (x : Insn) (s : State) : Out := onCore x.core (maintInsn 7 x [] s)

/-- The read-only caches that the bits of ROINV name (Table 04-10). -/
def roKindsOf (b : Nat) : List RoKind :=
  (if bitsN b 0 0 = 1 then [.instr] else []) ++ (if bitsN b 1 1 = 1 then [.const] else []) ++
  (if bitsN b 2 2 = 1 then [.desc] else [])

/-- ROINV (R159, R161): the selected read-only caches are invalidated when the movement engine accepts it. -/
def execRoinv (x : Insn) (s : State) : Out :=
  onCore x.core (issueInsn s x (some 1) (x.b / 8 == 0) (fun s _ => .go (roInvalidateKinds s x.core (roKindsOf x.b))))

/-- An accepted range operation is complete (R159, R274): its counter rises. -/
def maintDone (s : State) (l op : Nat) : State :=
  match (coreOf s l).maints.find? (fun m => m.id == op) with
  | none => s
  | some m =>
    let s1 := modCore s l (fun c => { c with maints := c.maints.filter (fun x => x.id ≠ op) })
    deadlockCheck (match m.ctr with
      | some e => raiseCtr s1 l e 1
      | none => s1) l

/-! ### The pinned window's size -/

/-- A line is given up for a window way once its sums have reached memory or their keeper (R272); until then it stays. -/
def giveUp (s : State) (i : Nat) (v : VLine) : State :=
  let s1 := settleLine (soundLine s v.line) v.line
  if ((findLine s1 v.line).bind (·.red)).isSome then s
  else
    let s2 := dropLine (cleanLine s1 v.line) v.line
    if v.pin then count s2 (VRG_EVENTS_1 i) VRG_EVENTS_1_pin_refused else s2

/-- Make room for window ways in one set of a slice (R272): unpin pinned lines beyond what the limit leaves, then give up lines
from the least recently used until the set fits. DEDUCED: notes/assumptions/41. -/
def shrinkSet (s : State) (i n set : Nat) : State :=
  let mine (s : State) : List VLine := (sliceOf s i).lines.filter (fun v => setOfLine v.line == set)
  let pins := (mine s).filter (·.pin)
  let s1 := (pins.drop (pinLimit (sliceOf s i) - n)).foldl (fun s v =>
    count (putLine s { v with pin := false }) (VRG_EVENTS_1 i) VRG_EVENTS_1_pin_refused) s
  let room := userWays s1 i set
  let excess := (mine s1).length - room
  let order := ((mine s1).filter (fun v => !v.pin)).reverse ++ ((mine s1).filter (·.pin)).reverse
  (order.take excess).foldl (fun s v => giveUp s i v) s1

/-- Every set of a slice makes room for window ways. -/
def shrinkSets (s : State) (i n : Nat) : State :=
  (((sliceOf s i).lines.map (fun v => setOfLine v.line)).dedup).foldl (fun s set => shrinkSet s i n set) s

/-- Whether every set of a slice fits the ways left to it. -/
def setsFit (s : State) (i : Nat) : Bool :=
  (((sliceOf s i).lines.map (fun v => setOfLine v.line)).dedup).all (fun set =>
    decide (((sliceOf s i).lines.filter (fun v => setOfLine v.line == set)).length ≤ userWays s i set))

/-- WINDOW_WAYS_WRITE (R271, R272, R291): ignored while busy or above 12; otherwise the slice is busy and cleans every way
that the change moves. -/
def windowWaysWrite (s : State) (i n : Nat) : State :=
  let w := rd s (VRG_SLICE_CFG i)
  if n > 12 ∨ getb w VRG_SLICE_CFG_busy = true ∨ getf w VRG_SLICE_CFG_window_active = n then s
  else
    shrinkSets (wr s (VRG_SLICE_CFG i) (setb (setf w VRG_SLICE_CFG_window_ways n) VRG_SLICE_CFG_busy true)) i n

/-- What WINDOW_CHANGE_DONE does (R272): busy clears, the new size is in force; ways that left lose their contents, and newly granted
ways read as zero. The slice stays busy while a line whose sums find no room at their keeper is in the way. -/
def windowChangeDone (s0 : State) (slice : Nat) : State :=
    let w := rd s0 (VRG_SLICE_CFG slice)
    let s := shrinkSets s0 slice (getf w VRG_SLICE_CFG_window_ways)
    if !getb w VRG_SLICE_CFG_busy then s0
    else if !setsFit s slice then s
    else
      let n := getf w VRG_SLICE_CFG_window_ways
      let keep := min n (getf w VRG_SLICE_CFG_window_active)
      let lo := windowBase + slice * 0x1000000 + keep * 2 ^ 20
      let hi := windowBase + (slice + 1) * 0x1000000
      let s1 := modMem s (fun m => { m with
        cells := m.cells.filter (fun c => !(decide (lo ≤ c.1) && decide (c.1 < hi)))
        poison := m.poison.filter (fun c => !(decide (lo ≤ c * 256) && decide (c * 256 < hi)))
        flaws := m.flaws.filter (fun c => !(decide (lo ≤ c.1 * 256) && decide (c.1 * 256 < hi)))
        broken := m.broken.filter (fun c => !(decide (lo ≤ c * 256) && decide (c * 256 < hi))) })
      wr s1 (VRG_SLICE_CFG slice) (setf (setb w VRG_SLICE_CFG_busy false) VRG_SLICE_CFG_window_active n)

/-- CCH_STAT_CLEAR (R288). -/
def cchStatClear (s : State) : State := clearIf s (fun o => decide (0xD10000 ≤ o) && decide (o < 0xD10000 + 144 * 0x1000))

/-- CCH_STAT_CLEAR. -/
def execCchStatClear (s : State) : Out := .next (powered s (cchStatClear s))

/-- VRG_STAT_CLEAR (R288): the counters of every slice; what VRG_HOTSPOT records of the last entry stays. -/
def vrgStatClear (s : State) : State :=
  let s1 := clearIf s (fun o => decide (0xE10000 ≤ o) && decide (o < 0xE10000 + 144 * 0x1000) &&
    (let r := (o - 0xE10000) % 0x1000; r == 0x10 || r == 0x18 || r == 0x28 || r == 0x30))
  (upto 144).foldl (fun s i => wrf s (VRG_HOTSPOT i) VRG_HOTSPOT_events 0) s1

/-- VRG_STAT_CLEAR. -/
def execVrgStatClear (s : State) : Out := .next (powered s (vrgStatClear s))

/-- CORE_STALL_CLEAR (R293). -/
def coreStallClear (s : State) (l : Nat) : State :=
  clearIf s (fun o => decide (CORE_STALL l 0 ≤ o) && decide (o < CORE_STALL_CTRL l))

/-- CORE_STALL_CLEAR. -/
def execCoreStallClear (l : Nat) (s : State) : Out := onCore l (powered s (coreStallClear s l))

end Sys2Proof.Machine
end

