-- ==== Sys2Proof/Machine/Control.lean ====
section
/-! DEFINITION. Control instructions (class 0x0_, R131 to R133). -/

namespace Sys2Proof.Machine

/-- NOP (R131). -/
def execNop (x : Insn) (s : State) : Out :=
  onCore x.core (issueInsn s x none (x.b == 0) (fun s _ => .go s))

/-- BR (R131): go to the target; ra and rb zero. -/
def execBr (x : Insn) (s : State) : Out :=
  onCore x.core (issueInsn s x none (x.r0 == 0 && x.r1 == 0) (fun s st => .jump s (branchTarget st x)))

/-- JAL (R131): ra ← pc + 8, go to the target; rb zero. -/
def execJal (x : Insn) (s : State) : Out :=
  onCore x.core (issueInsn s x none (x.r1 == 0) (fun s st =>
    if !isSA x.r0 then badOperand st
    else .jump (modStr s x.core x.stream (·.setReg x.r0 (BitVec.ofNat 64 (pcAfter st.pc)))) (branchTarget st x)))

/-- BR.EQ to BR.GEU (R131). -/
def execBranchCompare (fn : BitVec 4) (x : Insn) (s : State) : Out :=
  onCore x.core (issueInsn s x none (decide (fn.toNat < 6)) (fun s st =>
    if !isSAP x.r0 || !isSAP x.r1 then badOperand st
    else if intCmp fn.toNat (st.reg x.r0) (st.reg x.r1) then .jump s (branchTarget st x) else .go s))

/-- JR (R131, R132): go to the address in ra; rd, rb and rc zero. -/
def execJr (x : Insn) (s : State) : Out :=
  onCore x.core (issueInsn s x none (x.r0 == 0 && x.r2 == 0 && bitsN x.b 29 0 == 0) (fun s st =>
    if !isSAP x.r1 then badOperand st else jumpTo s (st.reg x.r1).toNat))

/-- JALR (R131, R132): rd ← pc + 8, go to the address ra held before the write. -/
def execJalr (x : Insn) (s : State) : Out :=
  onCore x.core (issueInsn s x none (x.r2 == 0 && bitsN x.b 29 0 == 0) (fun s st =>
    if !isSA x.r0 || !isSAP x.r1 then badOperand st
    else jumpTo (modStr s x.core x.stream (·.setReg x.r0 (BitVec.ofNat 64 (pcAfter st.pc)))) (st.reg x.r1).toNat))

/-- LOOP (R131, R133): ra ← ra − 1 modulo 2^64; branch while the new ra is not 0. ra counts as a destination (R126). -/
def execLoop (x : Insn) (s : State) : Out :=
  onCore x.core (issueInsn s x none (x.r1 == 0) (fun s st =>
    if !isSA x.r0 then badOperand st
    else
      let st1 := st.setReg x.r0 (st.reg x.r0 - 1)
      let s1 := setStr s x.core x.stream st1
      if st.reg x.r0 - 1 ≠ 0 then .jump s1 (branchTarget st x) else .go s1))

/-- HALT (R131, R133, Table 03-6): the stream halts with pc past the HALT; its siblings go on, but for those that
nothing can wake then (R93). -/
def execHalt (x : Insn) (s : State) : Out :=
  onCore x.core (issueInsn s x none (x.b == 0) (fun s _ => .go (deadlockCheck (haltStream s x.core x.stream .haltInsn 0) x.core)))

/-- BRK (R131, R133): the breakpoint fault 0x0B. -/
def execBrk (x : Insn) (s : State) : Out :=
  onCore x.core (issueInsn s x none (x.b == 0) (fun _ st => .fault 0x0B st.pc))

/-- Write the issue order and the rotation mode of a core (R89, R118): 6 and 7 leave the order as it is; the per-unit
orders of mode 2 go back to the written order. -/
def writeIssue (s : State) (l order rotate : Nat) : State :=
  let w := rd s (CORE_ISSUE l)
  let w1 := setf w CORE_ISSUE_rotate rotate
  let w2 := if order < 6 then setf (setf w1 CORE_ISSUE_order order) CORE_ISSUE_order_active order
    else if rotate = 2 then setf w1 CORE_ISSUE_order_active (getf w1 CORE_ISSUE_order) else w1
  modCore (wr s (CORE_ISSUE l) w2) l (fun c => { c with orders := [] })

/-- ISSUE (R131, R89): order in [2:0], rotate in [5:4]. DEDUCED: notes/assumptions/22. -/
def execIssue (x : Insn) (s : State) : Out :=
  onCore x.core (issueInsn s x none (x.b / 64 == 0 && bitsN x.b 3 3 == 0) (fun s _ =>
    .go (writeIssue s x.core (bitsN x.b 2 0) (bitsN x.b 5 4))))

/-- A word that no instruction encoding defines raises an illegal-instruction fault at its pc (R125). -/
def execIllegalInstruction (core : Nat) (t : StreamId) (_word : Word) (s : State) : Out :=
  onCore core (issueInsn s { core := core, stream := t, rivals := [], pred := 0, pneg := false, body := 0 } none false (fun s _ => .go s))

end Sys2Proof.Machine
end

