-- ==== Sys2Proof/Machine/Streams.lean ====
section
/-! DEFINITION. Starting and halting streams from outside their program (R112, R113, R331, R427), the read-only-cache and
issue-order controls of a core (R89, R100, R118), and the debug window on its registers (R123). -/

namespace Sys2Proof.Machine

/-- Registers that hold unspecified values but for those given, and the predicates likewise (R331, R427): `n` names the free
value, `place` the stream. DEDUCED: notes/assumptions/48. -/
def openRegs (n place : Nat) (given : List (Nat × Word)) : SMap Word × BitVec 8 :=
  ((upto 47).foldl (fun m i =>
      let r := i + 1
      let v := match given.find? (fun g => g.1 == r) with
        | some g => g.2
        | none => Config.freeWord n (64 * place + r)
      smPut 0 m r v) [],
   (Config.freeWord n (64 * place)).setWidth 8 ||| 1)

/-- A start request for a stream (R112): accepted only at rest. Its owner is who asked (R425). -/
def requestStart (s : State) (l : Nat) (t : StreamId) (owner : Option Nat) (w : Work) : State :=
  modStr s l t (fun x => if x.atRest then { x with start := true, owner := owner, work := w } else x)

/-- Write the pc and the registers of a stream at rest and request its start (R331, R427). -/
def loadStream (s : State) (n l : Nat) (t : StreamId) (pc : Nat) (given : List (Nat × Word)) (owner : Option Nat)
    (w : Work) : State :=
  let (rs, ps) := openRegs n (3 * l + strNum t) given
  requestStart (modStr s l t (fun x => if x.atRest then { x with pc := pc, regs := rs, preds := ps } else x)) l t owner w

/-- A halt request for a stream (R112): only a running or waiting stream starts to halt. -/
def requestHalt (s : State) (l : Nat) (t : StreamId) : State := haltStream s l t .external 0

/-- The streams named by a three-bit mask (bit 0 F, 1 B, 2 U). -/
def streamsOf (m : Nat) : List StreamId := allStreams.filter (fun t => bitsN m (strNum t) (strNum t) == 1)

/-- Halt requests for several streams; where one of them was the last of its core to run, those that wait for it on a counter are
deadlocked then (R93). -/
def haltAll (s : State) (ts : List (Nat × StreamId)) : State :=
  ((ts.map (·.1)).dedup).foldl deadlockCheck (ts.foldl (fun s t => requestHalt s t.1 t.2) s)

/-- The effect of the request bits of CORE_CTRL (R112): a stream asked to halt and to start is only asked to halt. -/
def ctrlRequests (s : State) (l startM haltM : Nat) : State :=
  let s1 := haltAll s ((streamsOf haltM).map (fun t => (l, t)))
  ((streamsOf startM).filter (fun t => !(streamsOf haltM).contains t)).foldl
    (fun s t => requestStart s l t none .none) s1

/-- STREAM_START_REQUEST (R112). -/
def execStreamStartRequest (l : Nat) (m : BitVec 3) (s : State) : Out := onCore l (powered s (ctrlRequests s l m.toNat 0))

/-- STREAM_HALT_REQUEST (R112). -/
def execStreamHaltRequest (l : Nat) (m : BitVec 3) (s : State) : Out := onCore l (powered s (ctrlRequests s l 0 m.toNat))

/-- All three read-only caches of a core are invalidated (R100). -/
def roInvalidateAll (s : State) (l : Nat) : State := roInvalidateKinds s l [.instr, .const, .desc]

/-- RO_INVALIDATE (R100, R118). -/
def execRoInvalidate (l : Nat) (s : State) : Out := onCore l (powered s (roInvalidateAll s l))

/-- CORE_ISSUE_WRITE (R89). -/
def execCoreIssueWrite (l : Nat) (order : BitVec 3) (rotate : BitVec 2) (s : State) : Out :=
  onCore l (powered s (writeIssue s l order.toNat rotate.toNat))

/-- The value that CORE_DBG_DATA shows (R113, R123): zero unless the selected stream is at rest. -/
def dbgRead (s : State) (l : Nat) : Word :=
  let w := rd s (CORE_DBG_SEL l)
  let x := strOf s l (strOfNum (getf w CORE_DBG_SEL_stream))
  let i := getf w CORE_DBG_SEL_index
  if !x.atRest ∨ getf w CORE_DBG_SEL_stream = 3 then 0
  else if i < 48 then x.reg i
  else if i = 48 then x.preds.setWidth 64 else 0

/-- A write of CORE_DBG_DATA (R113, R123): to a stream at rest; writes to s0 and p0 have no effect. -/
def dbgWrite (s : State) (l : Nat) (d : Word) : State :=
  let w := rd s (CORE_DBG_SEL l)
  let i := getf w CORE_DBG_SEL_index
  if getf w CORE_DBG_SEL_stream = 3 then s
  else modStr s l (strOfNum (getf w CORE_DBG_SEL_stream)) (fun x =>
    if !x.atRest then x
    else if i < 48 then x.setReg i d
    else if i = 48 then { x with preds := d.setWidth 8 ||| 1 } else x)

/-- DBG_DATA_WRITE (R113). -/
def execDbgDataWrite (l : Nat) (d : Word) (s : State) : Out := onCore l (powered s (dbgWrite s l d))

end Sys2Proof.Machine
end

