-- ==== Sys2Proof/Machine/Train.lean ====
section
/-! DEFINITION. The training step (chapter 10): loading and checking a plan, its evaluation, items, filler units, the
gradient survey, phase records, layout epochs. DEDUCED: notes/assumptions/49. -/

namespace Sys2Proof.Machine

/-- Change the plan engine. -/
def modTrain (s : State) (f : Train → Train) : State := { s with train := f s.train }

/-- The state of the step (Table 10-9). -/
def stepState (s : State) : Nat := rdf s CMD_STEP_STATUS CMD_STEP_STATUS_state
/-- Set the state of the step. -/
def setStepState (s : State) (n : Nat) : State := wrf s CMD_STEP_STATUS CMD_STEP_STATUS_state n

/-! ### Loading -/

/-- A step plan's 128 bytes as a plan (Table 10-2). -/
def planOfBytes (a : Nat) (d : List Byte) : Plan :=
  let w (i : Nat) : Word := wordAt d i
  { addr := a, legs := bits (w 0) 63 48, leg := bits (w 0) 47 32, m0 := bits (w 0) 31 16
    mMin := bits (w 1) 63 48, mMax := bits (w 1) 47 32, survey := bits (w 1) 7 6, towpath := bit (w 1) 5, actBf16 := bit (w 1) 4
    tokens := bits (w 2) 63 32, surveyN := bits (w 2) 12 0, firstStep := bits (w 3) 31 0
    fPc := (w 4).toNat, bPc := (w 5).toNat, uPc := (w 6).toNat, fwdArrival := (w 7).toNat, bwdArrival := (w 8).toNat
    actBudget := (w 9).toNat, actPerMb := (w 10).toNat, surveyList := (w 11).toNat, pfTable := (w 12).toNat
    filler := bits (w 13) 31 0, epoch := bits (w 14) 63 48, bwdN := bits (w 14) 15 8, fwdN := bits (w 14) 7 0 }

/-- The fields of a plan marked zero. -/
def planZero (d : List Byte) : Bool :=
  let w (i : Nat) : Word := wordAt d i
  bits (w 0) 15 0 == 0 && bits (w 1) 31 8 == 0 && bits (w 1) 3 0 == 0 && bits (w 2) 31 13 == 0 && bits (w 3) 63 32 == 0 &&
  bits (w 13) 63 32 == 0 && bits (w 14) 47 16 == 0 && w 15 == 0

/-- Whether n bytes at an address of a plan's arrays lie in user stack memory, the address a multiple of 8. -/
def planArray (s : State) (a0 n : Nat) : Bool :=
  let a := localForm s a0
  a % 8 == 0 && decide (a < userEnd) && decide (a + n ≤ userEnd)

/-- The reason a plan is refused (R329, Table 10-9); 0 where it is accepted. -/
def planRefusal (s : State) (d : List Byte) (p : Plan) : Nat :=
  let last := p.leg + 1 == p.legs
  let entry (a : Nat) : Bool := a % 8 == 0 && roReadable s a 8
  if !planZero d || p.survey == 3 || p.legs == 0 || decide (p.legs > 1024) || decide (p.legs ≤ p.leg) ||
      p.mMin == 0 || decide (p.mMin > 4096) || decide (p.mMax < p.mMin) || decide (p.mMax > 4096) ||
      p.m0 == 0 || decide (p.m0 > 4096) || decide (p.m0 < p.mMin) || decide (p.mMax < p.m0) ||
      p.tokens == 0 || decide (p.surveyN > 4096) then 1
  else if p.actBudget < p.mMax * p.actPerMb then 2
  else if !(entry p.fPc && entry p.bPc && entry p.uPc) || !planArray s p.fwdArrival (8 * p.fwdN) ||
      !planArray s p.bwdArrival (8 * p.bwdN) || !planArray s p.surveyList (8 * p.surveyN) || !planArray s p.pfTable 32 then 3
  else if ((p.fwdArrival == 0) != (p.leg == 0)) || ((p.bwdArrival == 0) != last) ||
      (if p.leg = 0 then p.fwdN != 0 else p.fwdN == 0 || decide (p.fwdN > 64)) ||
      (if last then p.bwdN != 0 else p.bwdN == 0 || decide (p.bwdN > 64)) then 4
  else 0

/-- Load the plan at CMD_STEP_PLAN (R329, R353, R356), for a channel and its entry if one asked. What the plan before has left running
stays as it is: its items, whose ends are not the new plan's, a filler unit and the draw counters to restore after it (R337, R338), and
the streams whose halt is reported (R431); so does what the record of the stage counts (R348). -/
def loadPlan (s : State) (by_ : Option (Nat × Nat)) : State :=
  let st := stepState s
  if st = 2 ∨ st = 3 then s
  else
    let a := rdf s CMD_STEP_PLAN CMD_STEP_PLAN_plan * 128
    let s1 := wr (wr (wr s CMD_STEP_COUNT 0) CMD_SURVEY_STAT 0) CMD_SURVEY_EST 0
    let x := s.train
    let old : Train := { draws := x.draws, filler := x.filler, fillerOver := x.fillerOver, reported := x.reported
                         onF := x.onF, onB := x.onB, onU := x.onU, started := x.started, opened := x.opened, prefetched := x.prefetched
                         foreign := (allStreams.filter (fun u => match u with
                           | .F => x.onF.isSome
                           | .B => x.onB.isSome
                           | .U => x.onU.isSome)).map strNum }
    let refuse (s : State) (r : Nat) : State :=
      wrf (setStepState { s with train := { old with by_ := by_ } } 5) CMD_STEP_STATUS CMD_STEP_STATUS_reason r
    match engineRead s1 .requester a 128 with
    | (none, s2) => refuse s2 3
    | (some d, s2) =>
      let p := planOfBytes a d
      let r := planRefusal s2 d p
      if r ≠ 0 then refuse s2 r
      else
        let t : Train := { old with plan := some p, by_ := by_, fNext := (p.firstStep, 0), bNext := (p.firstStep, 0), uNext := p.firstStep }
        let s3 := wrf (setStepState { s2 with train := t } 1) CMD_STEP_STATUS CMD_STEP_STATUS_reason 0
        wr s3 CMD_EPOCH_STATUS (BitVec.ofNat 64 (putf CMD_EPOCH_STATUS_in_force p.epoch))

/-- STEP_CTRL_LOAD (R329). -/
def execStepCtrlLoad (s : State) : Out := .next (powered s (loadPlan s none))

/-- Set CMD_STEP_CTRL.run (R353); set in keep state it starts nothing, and it must be set again afterwards (R334). -/
def stepRun (s : State) : State :=
  let s1 := wrb s CMD_STEP_CTRL CMD_STEP_CTRL_run true
  if keepState s < 2 ∧ (stepState s = 1 ∨ stepState s = 3) then setStepState s1 2 else s1

/-- STEP_RUN. -/
def execStepRun (s : State) : Out := .next (powered s (stepRun s))

/-- Clear CMD_STEP_CTRL.run (R353). -/
def stepPause (s : State) : State :=
  let s1 := wrb s CMD_STEP_CTRL CMD_STEP_CTRL_run false
  if stepState s = 2 then setStepState s1 3 else s1

/-- STEP_PAUSE. -/
def execStepPause (s : State) : Out := .next (powered s (stepPause s))

/-- Stop the step by software (R353). -/
def stepStop (s : State) : State := wr (setStepState s 4) CMD_STEP_STOP 0

/-- STEP_STOP. -/
def execStepStop (s : State) : Out := .next (powered s (stepStop s))

/-! ### Items -/

/-- The micro-batch count of a step (R347). -/
def stepM (t : Train) (p : Plan) (st : Nat) : Nat := smGet p.m0 t.ms st

/-- Whether a stream is idle or halted, with no start pending, on every logical core (R331). -/
def streamFree (s : State) (t : StreamId) : Bool :=
  s.cores.all (fun c => let x := c.2.str t; (x.st == .idle || x.st == .halted) && !x.start)

/-- The item on a stream. -/
def Train.on (t : Train) : StreamId → Option Item
  | .F => t.onF
  | .B => t.onB
  | .U => t.onU

/-- Put the item of a stream. -/
def Train.setOn (t : Train) (u : StreamId) (i : Option Item) : Train :=
  match u with
  | .F => { t with onF := i }
  | .B => { t with onB := i }
  | .U => { t with onU := i }

/-- An item has ended: what later items wait for (R332, R345). -/
def itemDone (t : Train) (i : Item) : Train :=
  match i.kind with
  | 0 => { t with fDone := (i.s, i.j) :: t.fDone.filter (fun q => decide (t.bNext.1 ≤ q.1)) }
  | 1 => { t with bDone := smPut 0 t.bDone i.s (smGet 0 t.bDone i.s + 1) }
  | _ => t

/-- Items whose stream has halted on every core have ended (R328, R331); one of an earlier plan does nothing for the plan loaded. -/
def endItems (s : State) : State :=
  allStreams.foldl (fun s u =>
    match s.train.on u with
    | some i =>
      if streamFree s u then modTrain s (fun t =>
        let t1 := (if t.foreign.contains (strNum u) then t else itemDone t i).setOn u none
        let t2 := { t1 with reported := t1.reported.filter (· ≠ strNum u), foreign := t1.foreign.filter (· ≠ strNum u) }
        match u with
        | .F => { t2 with pfF := false }
        | .B => { t2 with pfB := false }
        | .U => t2)
      else s
    | none => s) s

/-- Whether an item is ready, or only an arrival word is short. -/
inductive Ready where
  | yes | short | no
deriving DecidableEq, Repr

/-- Whether every arrival word is at least a key (R332, R333). -/
def arrived (s : State) (base n key : Nat) : Bool × State :=
  match engineRead s .requester base (8 * n) with
  | (some d, s1) => ((upto n).all (fun i => decide (key ≤ (wordAt d i).toNat)), s1)
  | (none, s1) => (false, s1)

/-- The state of a reshard (Table 10-18). -/
def epochState (s : State) : Nat := rdf s CMD_EPOCH_STATUS CMD_EPOCH_STATUS_state

/-- Whether a reshard holds a forward or backward item (Table 10-5 step 3): once the device holds, every one of the requested step;
before that, the forward item (s, 0), whose turn makes it hold. -/
def epochHolds (s : State) (i : Item) : Bool :=
  let e := epochState s
  decide (i.s = rdf s CMD_EPOCH_REQ CMD_EPOCH_REQ_step) && (decide (e = 2) || decide (e = 3) || (decide (e = 1) && i.kind == 0 && i.j == 0))

/-- The next forward item, and whether it is ready (R332). -/
def nextForward (s : State) (p : Plan) : Item × Ready × State :=
  let t := s.train
  let (st, j) := t.fNext
  let i : Item := ⟨0, st, j⟩
  if j = 0 ∧ st ≠ p.firstStep ∧ t.uNext < st then (i, .no, s)
  else
    let (ok, s1) := if p.leg = 0 then (true, s) else arrived s p.fwdArrival p.fwdN (st * 65536 + j + 1)
    if !ok then (i, .short, s1)
    else if epochHolds s1 i then
      -- the held item: the state moves from requested to held
      (i, .no, if epochState s1 = 1 then wrf s1 CMD_EPOCH_STATUS CMD_EPOCH_STATUS_state 2 else s1)
    else (i, .yes, s1)

/-- The next backward item, and whether it is ready (R332). -/
def nextBackward (s : State) (p : Plan) : Item × Ready × State :=
  let t := s.train
  let (st, k) := t.bNext
  let m := stepM t p st
  let j := m - 1 - k
  let i : Item := ⟨1, st, j⟩
  if epochHolds s i then (i, .no, s)
  else if p.leg + 1 = p.legs then (i, if t.fDone.contains (st, j) then .yes else .no, s)
  else
    let (ok, s1) := arrived s p.bwdArrival p.bwdN (st * 65536 + m - j)
    (i, if ok then .yes else .short, s1)

/-- Whether the next update item is ready (R332). -/
def nextUpdate (s : State) (p : Plan) : Item × Ready :=
  let t := s.train
  (⟨2, t.uNext, 0⟩, if smGet 0 t.bDone t.uNext = stepM t p t.uNext then .yes else .no)

/-! ### The gradient survey -/

/-- One FP64 operation. -/
def r64 (x : Fp) : Fp := roundTo fFP64 .rne x

/-- The words of a survey record at a local or global address (R346): of this device as read; of another device as free words, since
no command brings them, and a free word decides whether that read fails. DEDUCED: notes/assumptions/49. -/
def surveyRecord (s : State) (a : Nat) : Option (List Word) × State :=
  match ownLocal s a with
  | some l => match engineRead s .requester l 32 with
    | (some d, s1) => (some ((upto 4).map (wordAt d)), s1)
    | (none, s1) => (none, s1)
  | none =>
    if rdb s CWY_SELF_ID CWY_SELF_ID_id_valid then
      let (n, s1) := takeFree s
      (if Config.freeWord n 4 = 0 then none else some ((upto 4).map (Config.freeWord n)), s1)
    else (none, s)

/-- Every record of the survey list, in order; none where a read fails. -/
def surveyRecords (s : State) (p : Plan) : Option (List (List Word)) × State :=
  match engineRead s .requester p.surveyList (8 * p.surveyN) with
  | (none, s1) => (none, s1)
  | (some d, s1) =>
    (upto p.surveyN).foldl (fun (acc : Option (List (List Word)) × State) i =>
      match surveyRecord acc.2 (wordAt d i).toNat with
      | (some r, s2) => (acc.1.map (fun l => l ++ [r]), s2)
      | (none, s2) => (none, s2)) (some [], s1)

/-- The estimate B from the records, in FP64 (R346); none where it is invalid. `prev` are the stages of the last read. -/
def surveyB (p : Plan) (m : Nat) (prev : List Nat) (rs : List (List Word)) : Option (Nat × Fp) :=
  let w (r : List Word) (i : Nat) : Word := r.getD i 0
  match rs with
  | [] => none
  | r0 :: _ =>
    let c := bits (w r0 0) 63 32
    let sum (i : Nat) : Fp := rs.foldl (fun a r => r64 (fadd a (of64 (w r i)))) (.fin false 0 0)
    let sS := sum 1
    let sQ := sum 2
    let stages := rs.map (fun r => bits (w r 3) 47 0)
    let cs := r64 (fmul (r64 (ofInt c)) sS)
    let b := r64 (ofInt (m * p.tokens : Nat))
    let bigB := r64 (fdiv (r64 (fmul b (r64 (fsub cs sQ)))) (r64 (fsub sQ sS)))
    if rs.any (fun r => bits (w r 0) 63 32 != c || bits (w r 0) 31 0 != 0) ∨ c < 2 ∨
        (prev.zip stages).any (fun q => decide (q.2 ≤ q.1)) ∨ !flt sS sQ ∨ !flt sQ cs ∨ !isFin bigB then none
    else some (c, bigB)

/-- The micro-batch count that the estimate asks for, within its bounds (R347). -/
def steerM (p : Plan) (m1 c : Nat) (e : Fp) : Nat :=
  let q := match r64 (fdiv e (r64 (ofInt (c * p.tokens : Nat)))) with
    | .fin n a b => (roundInt (dyOf (.fin n a b))).toNat
    | _ => 0
  max (max p.mMin ((m1 + 1) / 2)) (min (min p.mMax (2 * m1)) q)

/-- The survey at the start of the first backward item of step s1 (R346, R347). -/
def survey (s : State) (p : Plan) (s1 : Nat) : State :=
  if p.survey = 0 ∨ s1 ≤ p.firstStep then s
  else
    let t := s.train
    let m1 := stepM t p s1
    let decide_ (s : State) (m : Nat) : State :=
      wrf (modTrain s (fun t => { t with ms := smSet t.ms (s1 + 1) m })) CMD_SURVEY_STAT CMD_SURVEY_STAT_m_next m
    let (rs, s2) := surveyRecords s p
    let stages := ((rs.getD []).map (fun r => bits (r.getD 3 0) 47 0))
    match rs.bind (surveyB p (stepM t p (s1 - 1)) t.lastStages) with
    | none =>
      let s3 := modTrain s2 (fun t => { t with lastStages := if rs.isSome then stages else t.lastStages })
      decide_ (count s3 CMD_SURVEY_STAT CMD_SURVEY_STAT_invalid) m1
    | some (c, b) =>
      let old := of64 (rd s2 CMD_SURVEY_EST)
      let e := if t.estValid then r64 (fadd old (r64 (fdiv (r64 (fsub b old)) (ofInt 8)))) else b
      let s3 := wr (modTrain s2 (fun t => { t with lastStages := stages, estValid := true })) CMD_SURVEY_EST (to64 e)
      decide_ (count s3 CMD_SURVEY_STAT CMD_SURVEY_STAT_valid) (if p.survey = 2 then steerM p m1 c e else m1)

/-! ### Starting items -/

/-- Load one program on a stream of every logical core and request its start (R328, R331). -/
def startAll (s : State) (t : StreamId) (pc : Nat) (given : List (Nat × Word)) (owner : Option Nat) (w : Work) : State :=
  let (n, s1) := takeFree s
  (upto numCores).foldl (fun s l => loadStream s n l t pc given owner w) s1

/-- The registers of Table 10-3. -/
def itemRegs (s : State) (p : Plan) (i : Item) (arg : Word) : List (Nat × Word) :=
  [(1, arg), (2, BitVec.ofNat 64 i.s), (3, BitVec.ofNat 64 i.j), (4, BitVec.ofNat 64 (stepM s.train p i.s)),
   (5, if p.actBf16 then 4 else 3), (6, BitVec.ofNat 64 (rdf s CMD_EPOCH_STATUS CMD_EPOCH_STATUS_in_force)),
   (7, BitVec.ofNat 64 i.kind)]

/-- The draw counters of the F streams go back to what they were before filler work (R337). -/
def restoreDraws (s : State) : State :=
  match s.train.draws with
  | none => s
  | some m => modTrain { s with cores := s.cores.map (fun c => (c.1, { c.2 with f := { c.2.f with draw := smGet 0 m c.1 } })) }
      (fun t => { t with draws := none })

/-- The order of a pass moves past an item that starts. -/
def advance (t : Train) (p : Plan) (i : Item) : Train :=
  match i.kind with
  | 0 => { t with fNext := if i.j + 1 < stepM t p i.s then (i.s, i.j + 1) else (i.s + 1, 0) }
  | 1 => { t with bNext := if t.bNext.2 + 1 < stepM t p i.s then (i.s, t.bNext.2 + 1) else (i.s + 1, 0) }
  | _ => { t with uNext := i.s + 1 }

/-- Start an item on a stream (R331, R337, R346). -/
def startItem (s : State) (p : Plan) (u : StreamId) (i : Item) : State :=
  let s1 := if i.kind = 1 ∧ s.train.bNext.2 = 0 then survey s p i.s else s
  let s2 := if u = .F then restoreDraws s1 else s1
  let s3 := startAll s2 u (if i.kind = 0 then p.fPc else if i.kind = 1 then p.bPc else p.uPc)
    (itemRegs s2 p i (BitVec.ofNat 64 p.addr)) (s2.train.by_.map (·.1)) (.item ((s2.train.by_.map (·.2)).getD 0) i.kind)
  let s4 := modTrain s3 (fun t => { advance (t.setOn u (some i)) p i with started := t.started + 1, reported := t.reported.filter (· ≠ strNum u) })
  if i.kind = 0 then
    wrf (wrf s4 CMD_STEP_STATUS CMD_STEP_STATUS_step i.s) CMD_STEP_STATUS CMD_STEP_STATUS_m (stepM s4.train p i.s)
  else s4

/-- The Verge prefetch of a stream that waits for its arrival words (R335). -/
def waitPrefetch (s : State) (p : Plan) (entry : Nat) : State :=
  match engineRead s .requester (p.pfTable + 16 * entry) 16 with
  | (none, s1) => s1
  | (some d, s1) =>
    let a := localForm s1 (wordAt d 0).toNat
    let n := (wordAt d 1).toNat
    if n = 0 then s1
    else if a % 256 ≠ 0 ∨ n % 256 ≠ 0 ∨ a + n > userEnd then count s1 (CCH_PF 0) CCH_PF_dropped
    else modTrain (rangeOp s1 0 1 a n []) (fun t => { t with prefetched := t.prefetched + n / 256 })

/-- Choose for the F or B stream (R332, R335, R336): its own next item; in Towpath mode the other pass's next item if that is
ready and its own stream is busy; in native mode the first wait for an arrival word prefetches. -/
def choose (s : State) (p : Plan) (u : StreamId) : State :=
  if (s.train.on u).isSome || !streamFree s u then s
  else
    let next (s : State) (v : StreamId) : Item × Ready × State := if v = .F then nextForward s p else nextBackward s p
    let other : StreamId := if u = .F then .B else .F
    let (i, r, s1) := next s u
    if r = .yes then startItem s1 p u i
    else if p.towpath then
      let (i2, r2, s2) := next s1 other
      if r2 = .yes ∧ ((s2.train.on other).isSome ∨ !streamFree s2 other) then
        count (startItem s2 p u i2) CMD_STEP_COUNT CMD_STEP_COUNT_towpath
      else s2
    else if r = .short then
      let t := s1.train
      if u = .F ∧ t.pfF = false then modTrain (waitPrefetch s1 p 0) (fun t => { t with pfF := true })
      else if u = .B ∧ t.pfB = false then modTrain (waitPrefetch s1 p 1) (fun t => { t with pfB := true })
      else s1
    else s1

/-- The first queued unit of the plan's filler channel (R337). -/
def fillerUnit (s : State) (p : Plan) : Option (Nat × Entry) :=
  let i := p.filler % 4096
  let c := chanOf s i
  if p.filler = 0 ∨ p.filler / 4096 ≠ genOf s i ∨ c.kind ≠ 1 ∨ c.st = .free then none
  else (c.entries.find? (fun e => e.op == 0x0B && e.phase == .running)).map (fun e => (i, e))

/-- In a bubble a unit of the filler channel starts on the F stream (R337). -/
def startFiller (s : State) (p : Plan) : State :=
  match fillerUnit s p with
  | none => s
  | some (i, e) =>
    if s.train.filler.isSome || !streamFree s .F then s
    else
      let s1 := if s.train.draws.isSome then s
        else modTrain s (fun t => { t with draws := some ((s.cores.map (fun c => (c.1, c.2.f.draw))).filter (fun c => c.2 ≠ 0)) })
      let it : Item := ⟨3, rdf s CMD_STEP_STATUS CMD_STEP_STATUS_step, 0⟩
      let s2 := startAll s1 .F (e.args.getD 0 0).toNat (itemRegs s1 p it (e.args.getD 1 0)) (some i) (.filler e.n)
      count (modTrain s2 (fun t => { t with filler := some (i, e.n), fillerOver := false, started := t.started + 1 }))
        CMD_STEP_COUNT CMD_STEP_COUNT_filler_units

/-- Evaluate the plan (R331 to R337). DEDUCED: notes/assumptions/48. -/
def planEvaluate (s0 : State) : State :=
  let s := endItems s0
  match s.train.plan with
  | none => s
  | some p =>
    if stepState s ≠ 2 then s
    else
      let (iu, ru) := nextUpdate s p
      let s1 := if s.train.onU.isNone && streamFree s .U && ru == .yes then startItem s p .U iu else s
      let s2 := choose (choose s1 p .F) p .B
      let t := s2.train
      let quiet := t.onF.isNone && t.onB.isNone && t.onU.isNone
      if quiet then startFiller s2 p else s2

/-! ### Abnormal halts -/

/-- The value of event 0x80 (Table 13-10). -/
def haltEvent (l : Nat) (t : StreamId) (x : Stream) : Word :=
  BitVec.ofNat 64 (x.code * 2 ^ 56 + causeNum x.cause * 2 ^ 52 + strNum t * 2 ^ 48 + l)

/-- The step stops at the first core whose stream halted abnormally during an item (R334): recorded and reported. -/
def stopStep (s : State) (l : Nat) (x : Stream) (i : Item) : State :=
  if stepState s = 4 then s
  else
    let w := BitVec.ofNat 64 (putf CMD_STEP_STOP_core l + putf CMD_STEP_STOP_halt_cause (causeNum x.cause) +
      putf CMD_STEP_STOP_kind i.kind + putf CMD_STEP_STOP_j i.j)
    let s1 := wr (setStepState s 4) CMD_STEP_STOP w
    match s.train.by_ with
    | some (c, n) => putEvent s1 c 0x81 n w
    | none => s1

/-- Change an entry of a channel. -/
def modEntry (s : State) (i n : Nat) (f : Entry → Entry) : State :=
  modChan s i (fun c => { c with entries := c.entries.map (fun e => if e.n = n then f e else e) })

/-- The entry of a channel by number. -/
def entryOf (s : State) (i n : Nat) : Option Entry := (chanOf s i).entries.find? (fun e => e.n == n)

/-- An abnormal halt of a stream that an entry started: counted there, the first reported (R164, R431). -/
def entryHalt (s : State) (i n l : Nat) (t : StreamId) (x : Stream) : State :=
  match entryOf s i n with
  | none => s
  | some e =>
    let s1 := modEntry s i n (fun e => { e with bad := e.bad + 1, event := true
                                                value := if e.bad = 0 then causeNum x.cause else e.value })
    if e.event then s1 else putEvent s1 i 0x80 n (haltEvent l t x)

/-- What a stream's halt means to what started it (R164, R334, R427, R431). The stream is already halted.
DEDUCED: notes/assumptions/98. -/
def reportHalt (s : State) (l : Nat) (t : StreamId) : State :=
  let x := strOf s l t
  let bad := x.cause != .haltInsn
  let atRest (s : State) (i n : Nat) : Bool := s.cores.all (fun c => allStreams.all (fun u =>
    let y := c.2.str u
    !(y.owner == some i && (y.work == .start n || y.work == .filler n) && (y.live || y.st == .halting || y.start))))
  match x.work, x.owner with
  | .start n, some i =>
    let s1 := if bad then entryHalt s i n l t x else s
    match entryOf s1 i n with
    | some e => if e.phase = .running ∧ atRest s1 i n = true then
        carryEntry s1 i n (if e.bad = 0 then 0 else 0x08) e.bad else s1
    | none => s1
  | .filler n, some i =>
    let over_ := s.train.fillerOver && x.cause == .external
    let s1 := if bad then entryHalt s i n l t x else s
    let s2 := if bad && !over_ && s.train.filler == some (i, n) then
      stopStep s1 l x ⟨3, 0, 0⟩ else s1
    if atRest s2 i n then
      let s3 := modTrain s2 (fun t => { t with filler := if t.filler = some (i, n) then none else t.filler, pfF := false })
      match entryOf s3 i n with
      | some e => carryEntry s3 i n (if e.bad = 0 then 0 else 0x08) e.value
      | none => s3
    else s2
  | .item n _, own =>
    if !bad then s
    else
      let s1 := match own with
        | some c =>
          if s.train.reported.contains (strNum t) then s
          else putEvent (modTrain s (fun q => { q with reported := strNum t :: q.reported })) c 0x80 n (haltEvent l t x)
        | none => s
      match s1.train.on t with
      | none => s1
      | some i => if s1.train.foreign.contains (strNum t) then s1 else stopStep s1 l x i
  | _, _ => s

/-- At the service slot of a bubble stage a filler unit still running is told to halt (R338). -/
def fillerOverrun (s : State) : State :=
  match s.train.filler with
  | none => s
  | some (i, n) =>
    let mine := s.cores.filter (fun c => c.2.f.work == .filler n && c.2.f.owner == some i && c.2.f.live)
    if mine = [] ∨ s.train.fillerOver = true then s
    else
      let s1 := haltAll s (mine.map (fun c => (c.1, .F)))
      let s2 := count (modTrain s1 (fun t => { t with fillerOver := true })) CMD_STEP_COUNT CMD_STEP_COUNT_filler_overruns
      putEvent s2 i 0x82 n (BitVec.ofNat 64 (stageNow s))

/-! ### Phase records -/

/-- Enable phase records (R348): head goes to 0. -/
def phaseEnable (s : State) : State :=
  if rdb s CMD_PHASE CMD_PHASE_enable then s else wr (wrb s CMD_PHASE CMD_PHASE_enable true) CMD_PHASE_HEAD 0

/-- PHASE_ENABLE. -/
def execPhaseEnable (s : State) : Out := .next (powered s (phaseEnable s))

/-- The phase record of a stage that has ended (R348, R349, Table 10-4): its length and stretch; `vals` are the times measured
in the stage, busy by kind 0 to 3, then waiting by cause 0 to 11. -/
def phaseRecord (s : State) (stage len stretch : Nat) (vals : List Nat) : State :=
  if !rdb s CMD_PHASE CMD_PHASE_enable then s
  else
    let h := rdf s CMD_PHASE_HEAD CMD_PHASE_HEAD_head
    let a := rdf s CMD_PHASE CMD_PHASE_base * 4096 + h % 2 ^ rdf s CMD_PHASE CMD_PHASE_size_log2 * 128
    let t := s.train
    let v (i : Nat) : Nat := min (vals.getD i 0) 0xFFFFFFFF
    let pair (i : Nat) : Word := BitVec.ofNat 64 (v (2 * i) * 2 ^ 32 + v (2 * i + 1))
    let wait (i : Nat) : Word := BitVec.ofNat 64 (v (4 + 2 * i) + v (5 + 2 * i) * 2 ^ 32)
    let ws : List Word :=
      [BitVec.ofNat 64 stage, BitVec.ofNat 64 (min len 0xFFFFFFFF * 2 ^ 32 + min stretch 0xFFFFFFFF)] ++
      [pair 0, pair 1] ++ (upto 6).map wait ++
      [BitVec.ofNat 64 (rdf s CMD_STEP_STATUS CMD_STEP_STATUS_step * 2 ^ 32 + t.opened % 65536 * 65536),
       BitVec.ofNat 64 (t.prefetched % 2 ^ 32 * 2 ^ 32), 0, 0, 0, 0]
    count (sysWrite s .engine a (wordBytes ws)).2 CMD_PHASE_HEAD CMD_PHASE_HEAD_head

/-! ### Layout epochs -/

/-- Whether the remap table is good (R352): values multiples of 256, sorted and disjoint, onto FP32 gradient buffers of the
new epoch. -/
def remapGood (s : State) (e : Nat) : Bool :=
  let base := rdf s CMD_REMAP CMD_REMAP_base * 256
  let n := rdf s CMD_REMAP CMD_REMAP_count
  let ent (i : Nat) : Nat × Nat × Nat × Nat :=
    ((seenWord s (base + 32 * i)).toNat, (seenWord s (base + 32 * i + 8)).toNat, (seenWord s (base + 32 * i + 16)).toNat,
     (seenWord s (base + 32 * i + 24)).toNat)
  let shards := s.engines.flatMap (fun k => smVals k.2.shards)
  decide (n ≤ 4096) && decide (base + 32 * n ≤ userEnd) && (upto n).all (fun i =>
    let (o, l, w, z) := ent i
    o % 256 == 0 && l % 256 == 0 && w % 256 == 0 && z == 0 &&
    (i + 1 == n || decide (o + l ≤ (ent (i + 1)).1)) &&
    shards.any (fun x => x.epoch == e && !x.gradBf16 && decide (x.grad ≤ w) && decide (w + l ≤ x.grad + x.gradLen)))

/-- Set the error of CMD_EPOCH_STATUS. -/
def epochError (s : State) (n : Nat) : State := wrf s CMD_EPOCH_STATUS CMD_EPOCH_STATUS_error n

/-- What reading the remap table leaves (R352). -/
def remapRead (s : State) : State :=
  afterRead s (rdf s CMD_REMAP CMD_REMAP_base * 256) (32 * min 4096 (rdf s CMD_REMAP CMD_REMAP_count))

/-- A write to CMD_EPOCH_REQ (R351, R356). -/
def epochRequest (s : State) (e st : Nat) : State :=
  let x := epochState s
  if 1 ≤ x ∧ x ≤ 3 then s
  else
    let put (s : State) : State := wr s CMD_EPOCH_REQ (BitVec.ofNat 64 (putf CMD_EPOCH_REQ_epoch e + putf CMD_EPOCH_REQ_step st))
    if e = rdf s CMD_EPOCH_STATUS CMD_EPOCH_STATUS_in_force then epochError (put s) 1
    else if !remapGood s e then epochError (put (remapRead s)) 2
    else wrf (epochError (put (remapRead s)) 0) CMD_EPOCH_STATUS CMD_EPOCH_STATUS_state 1

/-- EPOCH_REQUEST. -/
def execEpochRequest (e : BitVec 16) (st : BitVec 32) (s : State) : Out := .next (powered s (epochRequest s e.toNat st.toNat))

/-- Whether the device is drained of the epoch in force (R350). -/
def epochDrained (s : State) : Bool :=
  let e := rdf s CMD_EPOCH_STATUS CMD_EPOCH_STATUS_in_force
  let st := rdf s CMD_EPOCH_REQ CMD_EPOCH_REQ_step
  let t := s.train
  let before (o : Option Item) : Bool := match o with
    | some i => decide (i.s < st)
    | none => false
  s.slices.all (fun x => x.2.lines.all (fun v => match v.red with
    | some r => r.epoch != e
    | none => true)) &&
  s.engines.all (fun k => k.2.cmds.all (fun c => c.phase == .offered || (c.op != 5 && c.op != 6) ||
    (match smFind? k.2.shards (handleIndex c.handle) with
      | some x => x.epoch != e
      | none => true))) &&
  !before t.onF && !before t.onB && !before t.onU && decide (st ≤ t.uNext)

/-- EPOCH_DRAINED (Table 10-5 step 4). -/
def execEpochDrained (s : State) : Out :=
  .next (if epochState s = 2 ∧ epochDrained s = true then wrf s CMD_EPOCH_STATUS CMD_EPOCH_STATUS_state 3 else s)

/-- A write to CMD_EPOCH_COMMIT (R351): a stage that has passed is refused. -/
def epochCommitWrite (s : State) (n : Nat) : State :=
  if n ≤ stageNow s then epochError s 3 else epochError (wrf s CMD_EPOCH_COMMIT CMD_EPOCH_COMMIT_stage n) 0

/-- EPOCH_COMMIT_WRITE. -/
def execEpochCommitWrite (n : BitVec 48) (s : State) : Out := .next (powered s (epochCommitWrite s n.toNat))

/-- The milestone that opens stage N (Table 10-5 step 6): a ready device commits; one that is not stays held. -/
def epochCommit (s : State) (n : Nat) : State :=
  let x := epochState s
  if rdf s CMD_EPOCH_COMMIT CMD_EPOCH_COMMIT_stage ≠ n ∨ n = 0 then s
  else if x = 3 then
    wr { s with remap := some (rdf s CMD_REMAP CMD_REMAP_base * 256, rdf s CMD_REMAP CMD_REMAP_count) } CMD_EPOCH_STATUS
      (BitVec.ofNat 64 (putf CMD_EPOCH_STATUS_in_force (rdf s CMD_EPOCH_REQ CMD_EPOCH_REQ_epoch) + putf CMD_EPOCH_STATUS_state 4))
  else if x = 1 ∨ x = 2 then epochError s 4 else s

end Sys2Proof.Machine
end

