-- ==== Sys2Proof/Machine/Late.lean ====
section
/-! DEFINITION. Done-ness and late (R48, R49, R69, R70, R400): which members are not done with the stage, the tree over the
causeways, clears and the release. DEDUCED: notes/assumptions/46. -/

namespace Sys2Proof.Machine

/-- Whether this device has a fabric ID. -/
def inFabric (s : State) : Bool := rdb s CWY_SELF_ID CWY_SELF_ID_id_valid

/-- Whether this device has a causeway partner (R54): some port of it is Active, or retrains. -/
def hasPartner (s : State) : Bool :=
  s.cfg.any (fun e =>
    let p := (e.1 - 0xC10000) / 0x4000
    e.1 == CWY_PORT_STATUS p && decide (p < 36) && [5, 6].contains (getf e.2 CWY_PORT_STATUS_state))

/-- Whether this device is the root (R54): elected, or, before it has an ID, without a causeway partner. -/
def isRoot (s : State) : Bool := if inFabric s then rdb s MST_STATUS MST_STATUS_is_root else !hasPartner s

/-- Whether the system has a root (R54, R55): one has been elected, or this device is its own. -/
def hasRoot (s : State) : Bool := if inFabric s then !s.fab.noRoot else !hasPartner s

/-- The timebase moves on to a time, if it has not passed it. DESIGN CHOICE: notes/assumptions/8. -/
def advanceTo (s : State) (t : Nat) : State := wr s MST_TIME (BitVec.ofNat 64 (max (now s) t))

/-- Whether the root's milestones follow MS_TICK (R59, R83). -/
def tickInput (s : State) : Bool := rdf s MST_TICK_PIN MST_TICK_PIN_mode == 1

/-! ### Done-ness (Table 02-1) -/

/-- Whether a stream lets its core be done. -/
def streamDone (c : CoreSt) (t : StreamId) : Bool :=
  let x := c.str t
  x.atRest || (x.st == .waiting && x.wait.isNone && accepted c t == 0)

/-- The cause a late member records (Table 02-15): what applies to it now. Of several that apply at once the first in the order
service_guarantee, format retry, VR alert or throttle is taken; the spec gives no precedence. DESIGN CHOICE: notes/assumptions/103. -/
def lateCause (s : State) (member : Nat) (retry : Bool) : Nat :=
  if s.mst.guar.contains member then 1
  else if retry then 2
  else if rdb s PWR_STATUS PWR_STATUS_vr_alert || rdb s PWR_STATUS PWR_STATUS_lowest_state ||
      rdb s THM_STATUS THM_STATUS_throttle then 3 else 0

/-- The logical cores that are not done with the stage: one whose streams are not all at rest, and each of a cluster whose clocks have
stopped (R502). -/
def coresNotDone (s : State) : List Nat :=
  if s.pow.pllDown = [] then (s.cores.filter (fun c => !(allStreams.all (streamDone c.2)))).map (·.1)
  else (upto 18432).filter (fun l => clockStopped s l || !(allStreams.all (streamDone (coreOf s l))))

/-- Late logical cores. -/
def lateCores (s : State) : List (Nat × Nat × Nat) :=
  (coresNotDone s).map (fun l =>
    let retry := allStreams.any (fun t => match ((coreOf s l).str t).sect with
      | some x => decide (0 < x.retries)
      | none => false)
    (0, l, lateCause s l retry))

/-- Whether engine k is not done with the stage (Table 02-1, R303): a command stamped with this stage or an earlier one has not
completed, or a push waits at its slice for its acceptance. -/
def engineOwes (s : State) (k : Nat) : Bool :=
  (engOf s k).cmds.any (fun c => c.phase != .parked && c.phase != .offered && decide (c.stamp ≤ stageNow s)) ||
  s.reqs.any (fun r => r.stands && r.hold == 2 && redPending s (r.target / 256) && stackOfLine (r.target / 2048) == k)

/-- Whether an engine has foreground work (R321): a push to apply, a contribution block to add, or a command queued, whatever stage
it is stamped with. -/
def engineBusy (s : State) (k : Nat) : Bool :=
  (engOf s k).cmds.any (fun c => c.phase == .queued) || (engOf s k).pushes.any (fun p => !p.held) ||
  s.fab.blocks.any (fun b => match b.p with
    | .contribution hdl blk .. => keeperOfContribution s hdl blk == k
    | _ => false)

/-- Late Kerb engines. -/
def lateEngines (s : State) : List (Nat × Nat × Nat) :=
  ((upto 36).filter (engineOwes s)).map (fun k => (1, k, lateCause s (18432 + k) false))

/-- The slices at which a request waits with a reduction not yet applied, or with a reduce-through push that its keeper has not yet
accepted (Table 02-1). -/
def slicesOwing (s : State) : List Nat :=
  (upto 144).filter (fun i => s.reqs.any (fun r => r.stands && sliceOfAddr r.target == i &&
    ((r.phase == .wrV && r.op != 0) || redPending s (r.target / 256))))

/-- Late Verge slices. -/
def lateSlices (s : State) : List (Nat × Nat × Nat) := (slicesOwing s).map (fun i => (2, i, lateCause s (18468 + i) false))

/-- The dimensions of a collective's mask, in ascending order (R405). -/
def maskDims (mask : Nat) : List Nat := (upto 6).filter (fun d => bitsN mask d d == 1)

/-- The device of a rank in this device's group (R406): mixed radix, the lowest dimension least significant. -/
def devOfRank (s : State) (mask r : Nat) : Nat :=
  ((maskDims mask).foldl (fun (a : Nat × Nat) d => (withCoord a.1 d (a.2 % ringOf s d), a.2 / ringOf s d)) (selfId s, r)).1

/-- The port that sends a piece (R407): of a ring step, the port of its direction and number; of a direct step (phase 2), the
port of its number in the group its route begins with. -/
def portOfPiece (s : State) (k : CollKey) (q : PieceId) : Nat :=
  if q.phase < 2 then 6 * q.dim + 3 * q.dir + q.piece
  else
    let dev := devOfRank s k.mask q.dim
    match nextDim s dev with
    | some d => groupBase d (dirOf (ringOf s d) (coordOf (selfId s) d) (coordOf dev d) (bitsN (selfId s) d d == 1)) + q.piece
    | none => q.piece

/-- Late ports: with pieces of a step of this stage not yet acknowledged. -/
def latePorts (s : State) : List (Nat × Nat × Nat) :=
  ((upto 36).filter (fun p => s.fab.colls.any (fun c => decide (c.stage ≤ stageNow s) &&
    c.unacked.any (fun q => portOfPiece s c.key q == p)))).map (fun p => (3, p, lateCause s (18612 + p) false))

/-- The members that are not done, in order of class and index (R49, R69). -/
def lateMembers (s : State) : List (Nat × Nat × Nat) := lateCores s ++ lateEngines s ++ lateSlices s ++ latePorts s

/-- What holds this device's late signal: its members that are not done, and, while Roadbed is in reset on a device of a fabric, the
hold-over copy of the milestone root (R53), recorded as a remote device with cause 4. DESIGN CHOICE: notes/assumptions/103. -/
def lateHolds (s : State) : List (Nat × Nat × Nat) := lateMembers s ++ (if s.mst.roadbed then [(4, 0x3FFFF, 4)] else [])

/-! ### The tree (R399, R400) -/

/-- The next hop of R396 from a device towards another: dimension and direction. -/
def towards (s : State) (dev dst : Nat) : Option (Nat × Bool) :=
  ((upto 6).find? (fun d => coordOf dev d ≠ coordOf dst d)).map (fun d =>
    (d, dirOf (ringOf s d) (coordOf dev d) (coordOf dst d) (bitsN dev d d == 1)))

/-- The parent of a device in the tree to the root. -/
def parentOf (s : State) (dev : Nat) : Option Nat := (towards s dev s.fab.root).map (fun q => neighbour s dev q.1 q.2)

/-- The port groups of this device with the neighbour each leads to. -/
def groups (s : State) : List (Nat × Bool × Nat) :=
  (upto 6).flatMap (fun d => if ringOf s d ≤ 1 then [] else
    [(d, true, neighbour s (selfId s) d true), (d, false, neighbour s (selfId s) d false)])

/-- The first Active port of a group. -/
def activeIn (s : State) (d : Nat) (plus : Bool) : Option Nat :=
  ((upto 3).map (fun i => groupBase d plus + i)).find? (portActive s)

/-- A port that leads to a neighbour. -/
def portTo (s : State) (dev : Nat) : Option Nat :=
  ((groups s).filter (fun g => g.2.2 == dev)).findSome? (fun g => activeIn s g.1 g.2.1)

/-- The children of this device in the tree. -/
def children (s : State) : List Nat :=
  if inFabric s then
    (((groups s).map (fun g => g.2.2)).dedup).filter (fun m =>
      m != s.fab.root && parentOf s m == some (selfId s) && (portTo s m).isSome)
  else []

/-- Send a control frame to a device next to this one. -/
def controlTo (s : State) (dev op : Nat) (args : List Nat) : State :=
  match portTo s dev with
  | some p => sendControl s p op args
  | none => s

/-- Announce to every child (R61, R400): a release (time, stage) or, with stage 0 in the third place set to 1, a schedule. -/
def announce (s : State) (args : List Nat) : State := (children s).foldl (fun s m => controlTo s m 2 args) s

/-- The milestone of a stretched stage is announced and known here (Table 02-3 step 6). -/
def releaseAt (s : State) (r stage : Nat) : State :=
  announce (modMst s (fun m => { m with release := some r, told := some stage })) [r, stage, 0]

/-- This device's clear goes to its parent, or, at the root, the release is announced, once its own late is clear and every
child's clear has come (R70, R400). At the root that is the time T; while S is not set, the release waits for it (R61). -/
def tryClear (s : State) : State :=
  let f := s.fab
  let taking := rdb s MST_CTRL MST_CTRL_enable && s.mst.joined
  if !s.mst.seen || f.sentClr || !s.mst.late.isEmpty || (taking && !s.mst.sampled) ||
      !(children s).all (fun m => f.clears.contains m) then s
  else if isRoot s then
    let t := s.mst.clearAt.getD (now s)
    (match s.mst.due with
    | none => modMst s (fun m => { m with clearAt := some t })
    | some d => if s.mst.hold then s
        else releaseAt (modFab s (fun f => { f with sentClr := true })) (max d (t + leadNs s))
          (s.mst.told.getD ((stageNow s + 1) % 2 ^ 48)))
  else
    match (parentOf s (selfId s)).bind (portTo s) with
    | some p => closeWord (modFab s (fun f => { f with sentClr := true })) p false 2 (s.fab.lateFor.getD (stageNow s) % 4096)
    | none => s

/-- Late members that have become done clear their late, and the others record the cause that applies to them now; when the
device's late OR falls, the plan is evaluated again and the clear goes on its way (R70, R82, R331). -/
def lateSettle (s : State) : State :=
  if s.mst.late = [] then s
  else
    let held (m : Nat × Nat × Nat) : Bool := s.mst.late.any (fun q => q.1 == m.1 && q.2.1 == m.2.1)
    let still := (lateHolds s).filter held
    let gone := s.mst.late.filter (fun m => !still.any (fun q => q.1 == m.1 && q.2.1 == m.2.1))
    match gone.getLast? with
    | none => modMst s (fun m => { m with late := still })
    | some g =>
      let s1 := modMst s (fun m => { m with late := still, cleared := some g })
      if still ≠ [] then wrb s1 MST_STATUS MST_STATUS_late_local (still.any (fun q => q.1 != 4))
      else tryClear (planEvaluate (wrb s1 MST_STATUS MST_STATUS_late_local false))

/-- Whether this device takes part in the milestones (R74): enabled, ready, not in keep state, a root elected. -/
def takesPart (s : State) : Bool :=
  deviceReady s && rdb s MST_CTRL MST_CTRL_enable && decide (keepState s < 2) && hasRoot s

/-- Whether the device is a full member of the milestones (R74): it has fired one since it was enabled. -/
def member (s : State) : Bool := takesPart s && s.mst.joined

/-- The stage of a full member is stretched once late has been seen and S is set (R61, R69). -/
def stretchNow (s : State) : State :=
  if member s && s.mst.seen && s.mst.due.isSome then wrb s MST_STATUS MST_STATUS_stretched true else s

/-- Late is seen for the stage (R69, R400). -/
def seeLate (s : State) : State :=
  if s.mst.seen then s
  else stretchNow (modFab (modMst s (fun m => { m with seen := true, clearAt := none })) (fun f => { f with clears := [], sentClr := false }))

/-- Late is signalled on every Active port but one (R400). -/
def floodLate (s : State) (but : Option Nat) (stage : Nat) : State :=
  ((upto 36).filter (fun p => portActive s p && some p ≠ but)).foldl (fun s p => closeWord s p false 1 (stage % 4096)) s

/-- The late sample (R69, R400, Table 02-3 step 1): members that are not done raise late, which goes out on every Active port even where
late for the stage has been relayed before; the plan is evaluated (R331). -/
def sampleLate (s0 : State) : State :=
  let s := planEvaluate s0
  let s1 := modMst s (fun m => { m with sampled := true, late := lateHolds s })
  if lateHolds s = [] ∧ s.mst.hold = false then (if s1.mst.seen then tryClear s1 else s1)
  else
    let s2 := wrb (seeLate s1) MST_STATUS MST_STATUS_late_local (!(lateMembers s).isEmpty)
    let s3 := modFab s2 (fun f => { f with lateFor := some (stageNow s) })
    tryClear (if lateHolds s = [] then s3 else floodLate s3 none (stageNow s))

end Sys2Proof.Machine
end

