-- ==== Sys2Proof/Machine/Planes.lean ====
section
/-! DEFINITION. What the matrix unit and the vector engine share: planes of lines in the scratchpad and their checks (R174),
operand registers (R172, R203, R228), rung formats (R178, R198), free-running random values (R108) and accepted
operations. -/

namespace Sys2Proof.Machine

/-- A plane of an operand: `lines` lines of `len` bytes, line i at off + i × pitch; element size, 0 where no alignment is
asked. -/
structure Plane where
  off   : Nat
  pitch : Nat
  lines : Nat
  len   : Nat
  size  : Nat
deriving DecidableEq, Repr

/-- The first offset of a plane at or above the end of the scratchpad. -/
def Plane.beyond (p : Plane) : Option Nat :=
  if p.len = 0 then none
  else (upto p.lines).findSome? (fun i =>
    if p.off + i * p.pitch + p.len > 0x20000 then some (max (p.off + i * p.pitch) 0x20000) else none)

/-- The offending offset of a misaligned plane: its offset, or, where only the pitch is misaligned, the offset of line 1, even for a
plane of one line; the spec does not say which. DESIGN CHOICE: notes/assumptions/103. -/
def Plane.skew (p : Plane) : Option Nat :=
  if p.size = 0 then none
  else if p.off % p.size ≠ 0 then some p.off
  else if p.pitch % p.size ≠ 0 then some (p.off + p.pitch) else none

/-- The checks of R174 in the order of R163: scratchpad range, then alignment. Of several planes at fault the first in the order A,
B, scales of A, scales of B gives the offset; the spec does not say which. DESIGN CHOICE: notes/assumptions/103. -/
def planeCheck (ps : List Plane) : Option Done :=
  match ps.findSome? Plane.beyond with
  | some o => some (.fault 0x06 o)
  | none => (ps.findSome? Plane.skew).map (fun o => .fault 0x05 o)

/-- The first word that a read of these planes finds uncorrectable (R97). -/
def planesBad (s : State) (l : Nat) (ps : List Plane) (ecc : Ecc) : Option Nat :=
  ps.findSome? (fun p => (upto p.lines).findSome? (fun i =>
    if p.len = 0 then none else scrBad s l (p.off + i * p.pitch) p.len ecc))

/-- The first word that a write of these planes fills only in part and cannot merge (R97). -/
def planesEdge (s : State) (l : Nat) (ps : List Plane) (ecc : Ecc) : Option Nat :=
  ps.findSome? (fun p => (upto p.lines).findSome? (fun i => scrEdge s l (p.off + i * p.pitch) p.len ecc))

/-- The words that an operation finds uncorrectable (R97): on its reads, then on the partial words of its writes. -/
def wordsBad (s : State) (l : Nat) (srcs dsts : List Plane) (ecc : Ecc) : Option Nat :=
  match planesBad s l srcs ecc with
  | some o => some o
  | none => planesEdge s l dsts ecc

/-- The element of `n` bytes at a scratchpad offset. -/
def elemAt (s : State) (l o n : Nat) : Nat := leNat (scrRead s l o n)

/-- Whether the bits of a register outside the listed fields (hi, lo) are all zero. -/
def onlyBits (w : Word) (fs : List (Nat × Nat)) : Bool :=
  w.toNat == (fs.map (fun f => bits w f.1 f.2 * 2 ^ f.2)).sum

/-- An operand register in tile layout (Tables 05-3, 07-3): offset and pitch. -/
def tileOperand (w : Word) : Option (Nat × Nat) :=
  if onlyBits w [(47, 32), (16, 0)] then some (bits w 16 0, bits w 47 32) else none

/-- The rung of a stream's open section. -/
def rungOf (st : Stream) : Option Nat := st.sect.map (·.rung)

/-- The element format in force of a format code: itself, or the rung's under code 7 (R178, R198); none for code 7 outside a
section. -/
def formatOf (st : Stream) (c : Nat) : Option Nat := if c = 7 then (rungOf st).map rungCode else some c

/-- The seed, device and stream of a free-running value (R108): value e of an instruction of stream t of core l. -/
def randomOf (s : State) (l : Nat) (t : StreamId) (draw : Word) (e : Nat) : Nat :=
  freeValue (coreOf s l).seed (selfId s) (strNum t) l draw e

/-- Advance the draw counter past n free-running values (R108). -/
def advanceDraw (x : Stream) (n : Nat) : Stream := { x with draw := x.draw + BitVec.ofNat 64 ((n + 7) / 8) }

/-- Accept an operation of a shared unit. -/
def acceptOp (s : State) (l : Nat) (o : CoreOp) : State :=
  modCore { s with nextId := s.nextId + 1 } l (fun c => { c with ops := c.ops ++ [{ o with id := s.nextId }] })

/-- Write the lines of a plane: the bytes of each line in turn. -/
def writeLines (s : State) (l : Nat) (p : Plane) (rows : List (List Byte)) : State :=
  rows.zipIdx.foldl (fun s r => scrWrite s l (p.off + r.2 * p.pitch) r.1) s

/-- Whether a plane has the byte at a scratchpad offset. -/
def Plane.covers (p : Plane) (a : Nat) : Bool :=
  if p.lines = 0 ∨ p.len = 0 ∨ a < p.off then false
  else
    let i := if p.pitch = 0 then 0 else min (p.lines - 1) ((a - p.off) / p.pitch)
    decide (a < p.off + i * p.pitch + p.len)

/-- Write the lines of a plane where the bytes that also lie in one of the `clash` planes are left unspecified (R204,
R235). -/
def writePlane (s : State) (l : Nat) (p : Plane) (rows : List (List Byte)) (clash : List Plane) : State :=
  let at_ (i j : Nat) : Nat := p.off + i * p.pitch + j
  let hit (a : Nat) : Bool := clash.any (fun q => q.covers a)
  if rows.zipIdx.any (fun r => (upto r.1.length).any (fun j => hit (at_ r.2 j))) then
    let (k, s1) := takeFree s
    writeLines s1 l p (rows.zipIdx.map (fun r => r.1.zipIdx.map (fun b =>
      if hit (at_ r.2 b.2) then Config.freeByte k (at_ r.2 b.2) else b.1)))
  else writeLines s l p rows

/-- An element op of a core ends: it leaves the list, and counter increments that waited only for it become visible (R92); the
waiters that they leave behind may be deadlocked now (R93). -/
def endOp (s : State) (l id : Nat) : State :=
  let c := coreOf s l
  let incs := c.incs.map (fun i => (i.1, i.2.1, i.2.2.filter (fun o => o ≠ id)))
  let due := incs.filter (fun i => i.2.2 = [])
  let s1 := setCore s l { c with ops := c.ops.filter (fun o => o.id ≠ id), incs := incs.filter (fun i => i.2.2 ≠ []) }
  if due = [] then s1 else deadlockCheck (due.foldl (fun s i => raiseCtr s l i.1 i.2.1) s1) l

/-- The accepted operation of a number. -/
def opOf (s : State) (l id : Nat) : Option CoreOp := (coreOf s l).ops.find? (fun o => o.id == id)

/-- Set the overflow flag of the issuing stream's section, where one is open (R210). -/
def overflowOp (s : State) (l : Nat) (o : CoreOp) : State :=
  if o.cause = 0 then s else modStr s l o.stream (fun x => strOverflow x o.cause o.pos)

end Sys2Proof.Machine
end

