-- ==== Sys2Proof/Machine/Sync.lean ====
section
/-! DEFINITION. Milestone and synchronisation instructions (class 0x7_, R149 to R153), layer sections with their provisional
writes (R154 to R158, R211 to R214), and the steps by which outstanding work of a stream ends: the last request of a halting
stream, a movement request, a maintenance operation, a Kerb command, a keeper push. DEDUCED: notes/assumptions/43. -/

namespace Sys2Proof.Machine

/-- WAIT.MS, LAYER.BEGIN and LAYER.END admit no predicate (R129). -/
def unpredicated (x : Insn) : Bool := x.pred == 0 && !x.pneg

/-- WAIT.MS (R152, R155, R193, R253): with a section open, the section fault; it does not issue before every matrix, vector
and conversion operation of the stream has completed; then the stream waits for the next milestone. -/
def waitMsBody (x : Insn) (s : State) (st : Stream) : Done :=
  if st.sect.isSome then .fault 0x08 st.pc
  else if (coreOf s x.core).ops.any (fun o => o.stream == x.stream || o.also.contains x.stream) then .stall
  else .jump (modStr s x.core x.stream (fun z => { z with st := .waiting, wait := none })) (pcAfter st.pc)

/-- WAIT.MS: the stream that now waits can leave the others deadlocked (R93), and can make its core done (R70).
DEDUCED: notes/assumptions/26. -/
def execWaitMs (x : Insn) (s : State) : Out :=
  onCore x.core (lateSettle (deadlockCheck
    (issueInsn s x none (x.b == 0 && unpredicated x) (waitMsBody x)) x.core))

/-- CTR.INC (R90, R92, R150, R151): the increment becomes visible once the scratchpad writes of the stream's accepted vector
and drain operations have been made. -/
def ctrIncBody (x : Insn) (s : State) (st : Stream) : Done :=
  if bitsN x.b 35 16 ≠ 0 then badOperand st
  else
    let n := bitsN x.b 15 0
    let ops := ((coreOf s x.core).ops.filter (fun o => o.stream == x.stream && o.kind != .mma)).map (·.id)
    if n = 0 then .go s
    else if ops = [] then .go (raiseCtr s x.core x.e n)
    else .go (modCore s x.core (fun c => { c with incs := c.incs ++ [(x.e, n, ops)] }))

/-- CTR.INC. -/
def execCtrInc (x : Insn) (s : State) : Out :=
  onCore x.core (issueInsn s x none (x.r0 == 0 && !x.ctrEn && bitsN x.b 37 36 == 0) (ctrIncBody x))

/-- A wait until counter e reaches a value (R90, R150): no wait where it has. -/
def ctrWaitOn (x : Insn) (v : Nat) (s : State) (st : Stream) : Done :=
  if smGet 0 (coreOf s x.core).ctrs x.e ≥ v then .go s
  else .jump (modStr s x.core x.stream (fun z => { z with st := .waiting, wait := some (x.e, v) })) (pcAfter st.pc)

/-- CTR.WAIT (R149, R150). DEDUCED: notes/assumptions/25. -/
def execCtrWait (x : Insn) (s : State) : Out :=
  onCore x.core (deadlockCheck (issueInsn s x none (x.r0 == 0 && !x.ctrEn && bitsN x.b 37 36 == 0) (fun s st =>
    if bitsN x.b 35 16 ≠ 0 then badOperand st else ctrWaitOn x (bitsN x.b 15 0) s st)) x.core)

/-- CTR.WAIT.R (R149, R150): the value is bits [15:0] of ra. -/
def execCtrWaitR (x : Insn) (s : State) : Out :=
  onCore x.core (deadlockCheck (issueInsn s x none (!x.ctrEn && bitsN x.b 37 0 == 0) (fun s st =>
    if !isSA x.r0 then badOperand st else ctrWaitOn x ((st.reg x.r0).toNat % 65536) s st)) x.core)

/-! ### Sections -/

/-- LAYER.BEGIN (R155). -/
def layerBeginBody (x : Insn) (s : State) (st : Stream) : Done :=
  if st.sect.isSome then .fault 0x08 st.pc
  else
    let z : Section := { sid := bitsN x.b 15 0, rung := bitsN x.b 17 16, beginPc := st.pc, since := s.nextId, cpRegs := st.regs
                         cpPreds := st.preds, cpDraw := st.draw }
    .go (setStr s x.core x.stream { st with sect := some z })

/-- LAYER.BEGIN: bits [47:18] zero, no predicate. -/
def execLayerBegin (x : Insn) (s : State) : Out :=
  onCore x.core (issueInsn s x none (x.b / 2 ^ 18 == 0 && unpredicated x) (layerBeginBody x))

/-- The bytes that a provisional sector gives each of its 256 places: none, one, or, where two writes of one pass cover it, an
unspecified one (R214). -/
def provBytes (free : Nat) (items : List ProvItem) : List (Option Byte) :=
  (upto 256).map (fun o =>
    match items.filter (fun i => i.op == 0 && decide (i.off ≤ o) && decide (o < i.off + i.data.length)) with
    | [] => none
    | [i] => some (i.data.getD (o - i.off) 0)
    | _ => some (Config.freeByte free o))

/-- The runs of bytes present, each with its offset. -/
def byteRuns : Nat → List (Option Byte) → List (Nat × List Byte)
  | _, [] => []
  | o, none :: r => byteRuns (o + 1) r
  | o, some b :: r =>
    match byteRuns (o + 1) r with
    | (o', d) :: q => if o' = o + 1 then (o, b :: d) :: q else (o, [b]) :: (o', d) :: q
    | [] => [(o, [b])]

/-- Commit one provisional sector (R214): its writes first, in no order that matters beyond R214's, then its reductions in the order in
which they were accepted; the spec orders the two in no way. A reduction that finds no way or no room at its keeper does not wait.
DESIGN CHOICE: notes/assumptions/104. -/
def commitSector (s0 : State) (p : Prov) : State :=
  let (n, s) := takeFree s0
  let s1 := (byteRuns 0 (provBytes n p.items)).foldl (fun s r => (sysWriteSector s (p.sector * 256 + r.1) r.2).2) s
  let s2 := (p.items.filter (fun i => i.op != 0)).foldl (fun s i =>
    reduceNow s i.op i.epoch (p.sector * 256 + i.off) i.data) s1
  cchInvalidate s2 (clusterOf p.core) p.sector

/-- The provisional sectors of a stream, all passes or one. -/
def provOf (s : State) (l : Nat) (t : StreamId) (pass : Option Nat) : List Prov :=
  (s.slices.flatMap (fun x => x.2.prov)).filter (fun p => p.core == l && p.stream == t && (pass.isNone || pass == some p.pass))

/-- Take the provisional sectors of a stream out of the slices (R158, R214). -/
def dropProv (s : State) (l : Nat) (t : StreamId) : State :=
  s.slices.foldl (fun s x =>
    setSlice s x.1 { sliceOf s x.1 with prov := (sliceOf s x.1).prov.filter (fun p => !(p.core == l && p.stream == t)) }) s

/-- Commit a section's provisional writes (R214). -/
def commitProv (s : State) (l : Nat) (t : StreamId) (pass : Nat) : State :=
  (provOf s l t (some pass)).foldl commitSector (dropProv s l t)

/-- The logbook entry of a section that closes or retries with its flag set (R216, Table 06-11). -/
def sectionLog (s : State) (l : Nat) (t : StreamId) (z : Section) (ty next retries : Nat) : State :=
  let a := z.sid * 2 ^ 48 + z.rung * 2 ^ 40 + next * 2 ^ 32 + retries % 256 * 2 ^ 24 + z.cause * 2 ^ 16 +
    (if z.cause = 1 then z.pos else 0)
  logAppend s logbook ty (strNum t * 2 ^ 16 + l) (BitVec.ofNat 64 a) (BitVec.ofNat 64 z.beginPc)

/-- The counter of TEL_LADDER_COUNT that a retry to a rung advances. -/
def ladderField (rung : Nat) : Fld :=
  if rung = 1 then TEL_LADDER_COUNT_to_rung1 else if rung = 2 then TEL_LADDER_COUNT_to_rung2 else TEL_LADDER_COUNT_to_rung3

/-- Close a section: its provisional writes become part of memory (R156). -/
def closeSection (s : State) (l : Nat) (t : StreamId) (z : Section) : State :=
  modStr (commitProv s l t z.retries) l t (fun st => { st with sect := none })

/-- Run a section again one rung up from its checkpoint (R156, R214). -/
def retrySection (s : State) (l : Nat) (t : StreamId) (z : Section) : State :=
  let s1 := countSat (sectionLog s l t z 1 (z.rung + 1) (z.retries + 1)) TEL_LADDER_COUNT (ladderField (z.rung + 1))
  let z1 : Section := { z with rung := z.rung + 1, retries := z.retries + 1, cause := 0, pos := 0, inits := [] }
  modStr (dropProv s1 l t) l t (fun st =>
    { st with regs := z.cpRegs, preds := z.cpPreds, draw := z.cpDraw, sect := some z1 })

/-- Whether a stream still has matrix, conversion or movement work under way that it issued since the LAYER.BEGIN of its
section (R156), or any vector instruction (R253). -/
def sectionBusy (s : State) (l : Nat) (t : StreamId) (z : Section) : Bool :=
  let c := coreOf s l
  c.ops.any (fun o => (o.stream == t && (decide (z.since ≤ o.id) || o.kind == .vector)) || o.also.contains t) || c.descs.any (fun d => d.stream == t && decide (z.since ≤ d.id)) ||
  s.reqs.any (fun r => r.core == l && r.stream == t && r.kind == .move && decide (z.since ≤ r.desc))

/-- LAYER.END (R156). -/
def layerEndBody (x : Insn) (s : State) (st : Stream) : Done :=
  match st.sect with
  | none => .fault 0x08 st.pc
  | some z =>
    if sectionBusy s x.core x.stream z then .stall
    else if z.cause = 0 then .go (closeSection s x.core x.stream z)
    else if z.rung ≥ 3 then
      .go (closeSection (countSat (sectionLog s x.core x.stream z 2 3 z.retries) TEL_LADDER_COUNT
        TEL_LADDER_COUNT_forced) x.core x.stream z)
    else .jump (retrySection s x.core x.stream z) (pcAfter z.beginPc)

/-- LAYER.END. -/
def execLayerEnd (x : Insn) (s : State) : Out :=
  onCore x.core (issueInsn s x none (x.b == 0 && unpredicated x) (layerEndBody x))

/-! ### RDMS -/

/-- The steps of Table 15 in MHz, for a physical core (R481): 1,100 + 25 × step. -/
def stepMhz (step : Nat) : Nat := 1100 + 25 * step

/-- The step at which a physical core (136 × cluster + core) runs. -/
def coreStep (s : State) (id : Nat) : Nat := smGet 0 s.pow.steps id

/-- A logical core's frequency in MHz: its physical core's, 275 in the lowest state and until its rail has risen after it (R500), halved while doubled up; an odd half is
rounded down or up, the spec does not say which. -/
def coreMhz (s : State) (l free : Nat) : Nat :=
  let f := if rdb s PWR_STATUS PWR_STATUS_lowest_state || s.pow.slow.contains (clusterOf l) then 275
    else stepMhz (coreStep s (136 * clusterOf l + physOf s l))
  if doubled s l then f / 2 + f % 2 * (Config.freeNat free % 2) else f

/-- The quantity of Table 04-9. -/
def rdmsValue (s : State) (free l : Nat) (t : StreamId) : Nat → Nat
  | 0 => stageNow s
  | 1 => now s
  | 2 => s.mst.due.getD (nominal s)
  | 3 => coreMhz s l free
  | 4 => l
  | 5 => strNum t
  | _ => selfId s

/-- RDMS (R153). DEDUCED: notes/assumptions/27. -/
def execRdms (fn : BitVec 4) (x : Insn) (s : State) : Out :=
  onCore x.core (issueInsn s x none (decide (fn.toNat ≤ 6) && x.r1 == 0 && x.r2 == 0 && bitsN x.b 29 0 == 0) (fun s st =>
    if !isSA x.r0 then badOperand st
    else
      let (n, s1) := takeFree s
      goReg s1 x x.r0 (BitVec.ofNat 64 (rdmsValue s n x.core x.stream fn.toNat))))

/-! ### The ends of outstanding work -/

/-- A halting stream is halted (Table 03-6, R111, R158) once its operations, requests and range operations, which are issued as a
whole, have completed: its abandoned descriptors and its section go, and its halt is reported (R431). -/
def streamHalted (s : State) (l : Nat) (t : StreamId) : State :=
  let c := coreOf s l
  let quiet := !c.ops.any (fun o => o.stream == t || o.also.contains t) && !c.maints.any (fun m => m.stream == t) &&
    !s.reqs.any (fun r => r.core == l && r.stream == t && r.kind == .move)
  if (c.str t).st ≠ .halting || !quiet then s
  else
    let c1 := { c with descs := c.descs.filter (fun d => d.stream ≠ t) }
    let s1 := dropProv (setCore s l (c1.setStr t { c.str t with st := .halted, sect := none })) l t
    deadlockCheck (reportHalt s1 l t) l

/-- STREAM_HALTED. DEDUCED: notes/assumptions/98. -/
def execStreamHalted (l : Nat) (t : StreamId) (s : State) : Out :=
  onCore l (clocked s l (lateSettle (streamHalted s l t)))

/-- MOVEMENT_REQUEST_DONE (R102, R142). -/
def execMovementRequestDone (l id : Nat) (a : Answer) (s : State) : Out :=
  onCore l (lateSettle (deadlockCheck (movementDone s l id a) l))

/-- MAINTENANCE_COMPLETE (R159). -/
def execMaintenanceComplete (l op : Nat) (s : State) : Out :=
  onCore l (clocked s l (lateSettle (deadlockCheck (maintDone s l op) l)))

/-! ### Members that become done at their slices and keepers (R70) -/

/-- FLUSH. -/
def execFlush (x : Insn) (s : State) : Out := onCore x.core (lateSettle (maintInsn 2 x [] s))

/-- FLUSH.INV. -/
def execFlushInv (x : Insn) (s : State) : Out := onCore x.core (lateSettle (maintInsn 3 x [] s))

/-- WINDOW_WAYS_WRITE. -/
def execWindowWaysWrite (slice : Nat) (ways : BitVec 4) (s : State) : Out :=
  onlyIf (decide (slice < 144)) (powered s (lateSettle (windowWaysWrite s slice ways.toNat)))

/-- WINDOW_CHANGE_DONE. -/
def execWindowChangeDone (slice : Nat) (s : State) : Out :=
  onlyIf (decide (slice < 144)) (lateSettle (windowChangeDone s slice))

/-- VERGE_REQUEST. -/
def execVergeRequest (id : Nat) (ecc : Ecc) (s : State) : Out := .next (lateSettle (vergeRequest s id ecc))

/-- VERGE_FILL. -/
def execVergeFill (sec : Nat) (errs : List (List Nat)) (wbOk astray : Bool) (s : State) : Out :=
  .next (lateSettle (vergeFill s sec errs wbOk astray))

/-- PROVISIONAL_WAIT_TIMEOUT. -/
def execProvisionalWaitTimeout (id : Nat) (s : State) : Out := .next (lateSettle (provTimeout s id))

/-! ### Kerb commands run by their engine (R303): one whose command parks may be done (R70) -/

/-- SHARD_OPEN. -/
def execShardOpen (k id : Nat) (s : State) : Out := onEngine k (lateSettle (runCmd s k id 1 (fun s c => shardOpen s k c)))

/-- SHARD_CLOSE. -/
def execShardClose (k id : Nat) (s : State) : Out := onEngine k (lateSettle (runCmd s k id 2 (fun s c => shardClose s k c)))

/-- LEASE. -/
def execLease (k id : Nat) (s : State) : Out := onEngine k (lateSettle (runCmd s k id 3 (fun s c => leaseCmd s k c)))

/-- RELEASE. -/
def execKerbRelease (k id : Nat) (s : State) : Out := onEngine k (lateSettle (runCmd s k id 4 (fun s c => releaseCmd s k c)))

/-- GRAD_CLOSE. -/
def execGradClose (k id : Nat) (s : State) : Out := onEngine k (lateSettle (runCmd s k id 5 (fun s c => gradClose s k c)))

/-- UPDATE. -/
def execUpdate (k id : Nat) (s : State) : Out := onEngine k (lateSettle (runCmd s k id 6 (fun s c => updateCmd s k c)))

/-- REGEN. -/
def execRegen (k id : Nat) (s : State) : Out := onEngine k (lateSettle (runCmd s k id 7 (fun s c => regenCmd s k c)))

/-- KERB_UNPARK (R303): a parked command whose wait is over is queued again and stamped. -/
def execKerbUnpark (k id : Nat) (s : State) : Out :=
  onEngine k (lateSettle (match findCmd s k id with
    | some c =>
      if c.phase = .parked ∧ mayUnpark s k c = true ∧ cmdsIn s k .queued < 64 then
        modCmd s k id (fun q => { q with phase := .queued, stamp := stageNow s + q.span })
      else s
    | none => s))

/-- CONTRIBUTION_BLOCK (R311). -/
def execContributionBlock (p : KerbPayload) (s : State) : Out := .next (lateSettle (contributionBlock p s))

/-- KERB_COMMAND_COMPLETE (R300, R302). -/
def execKerbCommandComplete (k id : Nat) (s : State) : Out :=
  onEngine k (match findCmd s k id with
    | some c => if c.phase = .finished then lateSettle (completeKerb s k c) else s
    | none => s)

/-- KEEPER_PUSH (R309). -/
def execKeeperPush (stack : Nat) (s : State) : Out :=
  onlyIf (decide (stack < 36)) (lateSettle (keeperPush s stack))

end Sys2Proof.Machine
end

