-- ==== Sys2Proof/Machine/Power.lean ====
section
/-! DEFINITION. Power (chapter 15): frequency steps, rails and toll limits (R493 to R498), VR_ALERT_N and the lowest state
(R499, R500), the cluster PLLs (R502), the watchdog's kick (R504), the counters. -/

namespace Sys2Proof.Machine

/-- Change the power controller. -/
def modPow (s : State) (f : Pow → Pow) : State := { s with pow := f s.pow }

/-- Whether milestones are running (R500, R519): not in stage 0, with enable 0, in keep state, or during a boot attempt. -/
def milestonesRun (s : State) : Bool :=
  deviceReady s && rdb s MST_CTRL MST_CTRL_enable && stageNow s != 0 && decide (keepState s < 2)

/-- The entry of the core frequency table of a physical core of a cluster (R513). -/
def fmaxOf (s : State) (c p : Nat) : Nat := rdf s (PWR_FMAX c (p / 8)) ⟨8 * (p % 8), 8⟩

/-- Set an entry of the core frequency table. -/
def setFmax (s : State) (c p v : Nat) : State := wrf s (PWR_FMAX c (p / 8)) ⟨8 * (p % 8), 8⟩ v

/-- The physical cores of a cluster that serve logical cores. -/
def servingCores (s : State) (c : Nat) : List Nat := (((upto 128).map (fun i => physOf s (c * 128 + i))).dedup)

/-- The highest step of a cluster's serving cores under an allowance. -/
def topStep (s : State) (c a : Nat) : Nat := (servingCores s c).foldl (fun m p => max m (min (fmaxOf s c p) a)) 0

/-- The highest Vmin among a cluster's serving cores, each at the step it takes under an allowance, as the critical-path monitors last
gave it (R494). Free spares and retired cores serve no logical core. -/
def vminAt (s : State) (c a : Nat) : Nat :=
  (servingCores s c).foldl (fun m p => max m (smGet 0 s.pow.vmin (32 * (136 * c + p) + min (fmaxOf s c p) a))) 0

/-- The rail voltage in mV for an allowance (R494): the highest Vmin, plus 45 mV, rounded up to 5 mV. -/
def railFor (s : State) (c a : Nat) : Nat := (vminAt s c a + 45 + 4) / 5 * 5

/-- The highest core frequency of a cluster in MHz in the stage that is measured, f_c(N) of R497: 275 in the lowest state, and in a
cluster whose rail has not yet risen after it. -/
def clusterMhz (s : State) (c : Nat) : Nat :=
  if rdb s PWR_STATUS PWR_STATUS_lowest_state || s.pow.slow.contains c then 275
  else stepMhz ((servingCores s c).foldl (fun m q => max m (coreStep s (136 * c + q))) 0)

/-- The estimate P_c(s) of R497, in units of 0.1 W. -/
def powerAt (s : State) (c a : Nat) : ℚ :=
  let p : ℚ := rdf s (PWR_CL_STATUS c) PWR_CL_STATUS_power_dw
  let v : ℚ := rdf s (PWR_CL_STATUS c) PWR_CL_STATUS_rail_mv
  let f : ℚ := clusterMhz s c
  if v = 0 then p else p * ((railFor s c a : ℚ) / v) * ((railFor s c a : ℚ) / v) * ((stepMhz (topStep s c a) : ℚ) / f)

/-- The thermal allowance of a cluster (R517), as THM_ALLOW shows it. -/
def thermalStep (s : State) (c : Nat) : Nat := rdf s (THM_ALLOW (c / 8)) ⟨8 * (c % 8), 8⟩

/-- The requested toll limit of a cluster, in units of 0.1 W; 0: none. -/
def clToll (s : State) (c : Nat) : Nat := 10 * rdf s (PWR_CL_TOLL c) PWR_CL_TOLL_request_w

/-- The first loop of R497's pseudocode: an allowance down to its cluster's toll. -/
def clusterAllowance (s : State) (c : Nat) : Nat → Nat
  | 0 => 0
  | a + 1 => if clToll s c ≠ 0 ∧ (clToll s c : ℚ) < powerAt s c (a + 1) then clusterAllowance s c a else a + 1

/-- The second loop of R497's pseudocode: while the device's estimate is above its toll, the cluster with the highest estimate
and an allowance above 0 loses a step. -/
def deviceAllowance (s : State) (toll rest : ℚ) : Nat → List Nat → List Nat
  | 0, as => as
  | n + 1, as =>
    let ps := as.zipIdx.map (fun a => (a.2, a.1, powerAt s a.2 a.1))
    if toll = 0 ∨ (ps.map (fun p => p.2.2)).sum + rest ≤ toll then as
    else
      match (ps.filter (fun p => decide (0 < p.2.1))).foldl (fun (best : Option (Nat × Nat × ℚ)) p =>
          match best with
          | none => some p
          | some b => if b.2.2 < p.2.2 then some p else some b) none with
      | none => as
      | some p => deviceAllowance s toll rest n (as.set p.1 (p.2.1 - 1))

/-- What the controller does at the start of a service slot (R493 to R498): measure, set the allowances, choose the next
stage's steps and rails, and start the rises. DEDUCED: notes/assumptions/84. -/
def tollAllowance (s0 : State) (m : SlotIn) : State :=
  let s1 := wrf (wr s0 PWR_ENERGY (BitVec.ofNat 64 m.energyMj)) PWR_STATUS PWR_STATUS_stage_power_w m.devPowerW
  let s2 := modPow ((upto 144).foldl (fun s c =>
    wrf s (PWR_CL_STATUS c) PWR_CL_STATUS_power_dw (smGet 0 m.clPowerDw c)) s1) (fun p => { p with vmin := m.vminMv })
  let start := (upto 144).map (fun c => clusterAllowance s2 c (min 12 (thermalStep s2 c)))
  let rest : ℚ := (10 * m.devPowerW : ℚ) - ((upto 144).map (fun c => ((smGet 0 m.clPowerDw c : Nat) : ℚ))).sum
  let toll : ℚ := 10 * rdf s2 PWR_TOLL PWR_TOLL_request_w
  let as := deviceAllowance s2 toll rest 1728 start
  let sum := (as.zipIdx.map (fun a => powerAt s2 a.2 a.1)).sum + rest
  let unmet := (toll ≠ 0 ∧ toll < sum) ∨
    as.zipIdx.any (fun a => a.1 == 0 && clToll s2 a.2 != 0 && decide ((clToll s2 a.2 : ℚ) < powerAt s2 a.2 0)) = true
  let s3 := if unmet then raiseLevel (count s2 PWR_COUNT PWR_COUNT_toll_unmet) 10 PWR_STATUS PWR_STATUS_toll_unmet else s2
  let steps : SMap Nat := (upto 144).foldl (fun t c => (upto 136).foldl (fun t p =>
    smPut 0 t (136 * c + p) (min (fmaxOf s3 c p) (as.getD c 0))) t) []
  let rails : SMap Nat := as.zipIdx.foldl (fun t a => smSet t a.2 (railFor s3 a.2 a.1)) []
  let rising := (upto 144).filter (fun c =>
    decide (rdf s3 (PWR_CL_STATUS c) PWR_CL_STATUS_rail_mv < smGet 0 rails c))
  modPow s3 (fun p => { p with next := steps, rails := rails, rising := rising
                               allow := as.zipIdx.foldl (fun t a => smPut 0 t a.2 a.1) [] })

/-- Order 6 of Table 02-4 (R493, R495, R498): toll limits come into force, each physical core takes its chosen step, never
above its table entry; in a cluster whose rail is still rising a core does not rise; the rails fall after the edge. In the lowest
state the selection is made and waits for its end (R500). -/
def frequencySelect (s : State) : State :=
  let s1 := wrf s PWR_TOLL PWR_TOLL_active_w (rdf s PWR_TOLL PWR_TOLL_request_w)
  (upto 144).foldl (fun s c =>
    let low := rdb s PWR_STATUS PWR_STATUS_lowest_state
    let up := s.pow.rising.contains c && !low
    let s2 := wrf s (PWR_CL_TOLL c) PWR_CL_TOLL_active_w (rdf s (PWR_CL_TOLL c) PWR_CL_TOLL_request_w)
    let s3 := wrf s2 (PWR_CL_STATUS c) PWR_CL_STATUS_allowance (smGet 0 s.pow.allow c)
    let s4 := if up || low then s3
      else if smHas s.pow.rails c then wrf s3 (PWR_CL_STATUS c) PWR_CL_STATUS_rail_mv (smGet 600 s.pow.rails c) else s3
    modPow s4 (fun p => { p with steps := (upto 136).foldl (fun t q =>
      let id := 136 * c + q
      let new := min (smGet 0 p.next id) (fmaxOf s c q)
      smPut 0 t id (if up then min (smGet 0 p.steps id) new else new)) p.steps })) s1

/-- RAIL_RISE_DONE (R495, R500): the rail of a cluster has reached its new voltage; cores that waited for it to leave 275 MHz do. In the lowest state the core rails stay at 0.60 V
(R499); they rise again when it ends (R500). -/
def execRailRiseDone (c : Nat) (s : State) : Out :=
  onlyIf (decide (c < 144))
    (if s.pow.rising.contains c && !rdb s PWR_STATUS PWR_STATUS_lowest_state then
      wrf (modPow s (fun p => { p with rising := p.rising.filter (· ≠ c), slow := p.slow.filter (· ≠ c) })) (PWR_CL_STATUS c) PWR_CL_STATUS_rail_mv
        (smGet 600 s.pow.rails c)
    else s)

/-- A re-measurement piece (R496): an entry that needs more than 0.90 V goes down a step. -/
def remeasure (s : State) (c p vmin : Nat) : State :=
  if vmin + 45 > 900 ∧ 0 < fmaxOf s c p then
    raiseLevel (count (setFmax s c p (fmaxOf s c p - 1)) PWR_COUNT PWR_COUNT_fmax_lowered) 11 PWR_STATUS
      PWR_STATUS_fmax_lowered
  else s

/-! ### The lowest state -/

/-- The clocks go to the lowest state and the core rails to 0.60 V (R499, R520). -/
def lowestState (s : State) : State :=
  (upto 144).foldl (fun s c => wrf s (PWR_CL_STATUS c) PWR_CL_STATUS_rail_mv 600)
    (wrb s PWR_STATUS PWR_STATUS_lowest_state true)

/-- Normal clocks return (R500): every rail whose selected steps need more than 0.60 V begins to rise, and its cores stay at 275 MHz
until it has. -/
def normalClocks (s : State) : State :=
  let up := (upto 144).filter (fun c => decide (600 < smGet 600 s.pow.rails c))
  modPow (wrb s PWR_STATUS PWR_STATUS_lowest_state false) (fun p => { p with rising := up, slow := up })

/-- Whether nothing asks for the lowest state at a time: the line high for 100 µs, no throttle (R500, R520). -/
def lowestOver (s : State) (t : Nat) : Bool :=
  !rdb s PWR_STATUS PWR_STATUS_vr_alert && !rdb s THM_STATUS THM_STATUS_throttle &&
  (match s.pow.highAt with
   | none => true
   | some h => decide (h + 100000 ≤ t))

/-- The lowest state ends at a milestone (R500). -/
def lowestAtMilestone (s : State) : State :=
  if rdb s PWR_STATUS PWR_STATUS_lowest_state && lowestOver s (now s) then normalClocks s else s

/-- The level on VR_ALERT_N. -/
def vrPin (s : State) (low : Bool) : State := { s with boot := { s.boot with vrLow := low } }

/-- A device that comes out of reset with the line low is in the lowest state (R499, R500). -/
def vrLevel (s : State) : State :=
  if s.boot.vrLow && s.boot.pg && !s.boot.trip then lowestState (wrb s PWR_STATUS PWR_STATUS_vr_alert true) else s

/-- VR_ALERT_ASSERT (R499, R500, R568): ignored once a thermal shutdown has begun. DEDUCED: notes/assumptions/83. -/
def execVrAlertAssert (s : State) : Out :=
  .next (
    let s0 := vrPin s true
    if s.boot.trip ∨ rdb s PWR_STATUS PWR_STATUS_vr_alert = true ∨ ¬ s.boot.pg = true then s0
    else raiseEvent (count (modPow (lowestState (wrb s0 PWR_STATUS PWR_STATUS_vr_alert true))
      (fun p => { p with highAt := none })) PWR_COUNT PWR_COUNT_vr_alerts) 12)

/-- VR_ALERT_RELEASE (R500). -/
def execVrAlertRelease (s : State) : Out :=
  .next (
    let s0 := vrPin s false
    if rdb s PWR_STATUS PWR_STATUS_vr_alert then
      modPow (wrb s0 PWR_STATUS PWR_STATUS_vr_alert false) (fun p => { p with highAt := some (now s) })
    else s0)

/-- LOWEST_STATE_END (R500): with milestones not running, 100 µs after the line has returned high and no throttle holds. -/
def execLowestStateEnd (s : State) : Out :=
  .next (if rdb s PWR_STATUS PWR_STATUS_lowest_state ∧ milestonesRun s = false ∧
      rdb s PWR_STATUS PWR_STATUS_vr_alert = false ∧ rdb s THM_STATUS THM_STATUS_throttle = false then
      normalClocks (advanceTo s (s.pow.highAt.getD 0 + 100000))
    else s)

/-! ### PLLs, watchdog, counters -/

/-- CLUSTER_PLL_UNLOCK (R502): the cluster's clocks stop. -/
def execClusterPllUnlock (c : Nat) (s : State) : Out :=
  onlyIf (decide (c < 144)) (powered s (modPow s (fun p => { p with
    pllDown := if p.pllDown.contains c then p.pllDown else p.pllDown ++ [c] })))

/-- CLUSTER_PLL_RELOCK (R502): the clocks run again, and cores that had been done are (R70). -/
def execClusterPllRelock (c : Nat) (s : State) : Out :=
  onlyIf (decide (c < 144)) (powered s (if s.pow.pllDown.contains c then
    lateSettle (count (modPow s (fun p => { p with pllDown := p.pllDown.filter (· ≠ c) })) PWR_COUNT PWR_COUNT_pll_relock) else s))

/-- WATCHDOG_KICK (R504): the watchdog period begins again. -/
def watchdogKick (s : State) : State := modPow s (fun p => { p with kicked := now s })

/-- WATCHDOG_KICK. -/
def execWatchdogKick (s : State) : Out := .next (powered s (watchdogKick s))

/-- PWR_STAT_CLEAR (R508): PWR_COUNT and the counters of PWR_RESET_STATUS. -/
def pwrStatClear (s : State) : State :=
  let c := rdf s PWR_RESET_STATUS PWR_RESET_STATUS_last_cause
  wrf (wr (wr s PWR_COUNT 0) PWR_RESET_STATUS 0) PWR_RESET_STATUS PWR_RESET_STATUS_last_cause c

/-- PWR_STAT_CLEAR. -/
def execPwrStatClear (s : State) : Out := .next (powered s (pwrStatClear s))

end Sys2Proof.Machine
end

