-- ==== Sys2Proof/Machine/Link.lean ====
section
/-! DEFINITION. Causeway ports (R385 to R393, R397, R402, R403): codewords, retry, the port state machine, lanes, credits,
protocol violations, and the frames that arrive. DEDUCED: notes/assumptions/53, 63, 64; DESIGN CHOICE: notes/assumptions/62. -/

namespace Sys2Proof.Machine

/-- A command that names a port the device does not have. -/
def onPort (p : Nat) (s : State) : Out := onlyIf (decide (p < 36)) s

/-- Put a port into a state (Table 12-17), with a reason. -/
def setPortState (s : State) (p st : Nat) (reason : Nat := 0) : State :=
  wrf (wrf s (CWY_PORT_STATUS p) CWY_PORT_STATUS_state st) (CWY_PORT_STATUS p) CWY_PORT_STATUS_reason reason

/-- Sequence number a comes after b: fewer than half of the 4,096 numbers ahead of it (R390). -/
def seqAfter (a b : Nat) : Bool := let d := (a + 4096 - b) % 4096; decide (0 < d) && decide (d < 2048)

/-! ### Leaving Active -/

/-- Whether a frame that left or passed this device had crossed the dateline of a dimension before it got here (R393): it
travels in a direction from its source's coordinate. -/
def crossedTo (s : State) (h : FrameHdr) (d : Nat) (plus : Bool) : Bool :=
  let a := coordOf h.src d
  let c := coordOf (selfId s) d
  if plus then decide (c < a) else decide (a < c)

/-- A frame of a port that has left Active for good goes on (R397): over another Active port of the group after a resend
marker, else by the detour or to its end. -/
def resendFrame (s : State) (p : Nat) (f : SentFrame) : State :=
  if isCredit f.h then s
  else match pickPort s (portDim p) (portPlus p) f.h.cls f.h.vc with
    | some q => putOnPort s q ⟨f.h, f.b, none, some (p, f.seq)⟩
    | none =>
      if f.h.cls = 0 then countDropped s
      else
      let d := portDim p
      let on := coordOf f.h.src d ≠ coordOf (selfId s) d
      sendOn s { f.h with vc := if on ∧ crossedTo s f.h d (portPlus p) = true then 1 else 0 } f.b (if on then some p else none) none

/-- A port has left Active and does not return (R397): its unacknowledged frames are resent, the frames that wait at it are
routed again, its credit frames are gone. -/
def portGone (s : State) (p : Nat) : State :=
  let x := portOf s p
  let s1 := setPort s p { seq := x.seq, ack := x.ack, badLanes := x.badLanes, viol := x.viol, corr := x.corr }
  let back (w : WaitFrame) : Nat := match w.from_ with
    | some (_, k) => k % 2
    | none => 0
  let s2 := wrb s1 (CWY_PORT_PARTNER p) CWY_PORT_PARTNER_valid false
  let mine (w : WaitFrame) : WaitFrame := if w.from_.map (·.1) = some p then { w with from_ := none } else w
  let s3 := modFab s2 (fun f => { f with ports := f.ports.map (fun q => (q.1, { q.2 with wait := q.2.wait.map mine })) })
  let s4 := x.sent.foldl (fun s f => resendFrame s p f) s3
  (x.wait.filter (fun w => !isCredit w.h)).foldl (fun s w =>
    if w.h.cls = 0 then
      (match pickPort s (portDim p) (portPlus p) 0 0 with
       | some q => putOnPort s q w
       | none => countDropped s)
    else match w.mark with
    | some _ => (match pickPort s (portDim p) (portPlus p) w.h.cls w.h.vc with
      | some q => putOnPort s q w
      | none => sendOn s w.h w.b none w.from_)
    | none => sendOn s { w.h with vc := back w } w.b (w.from_.map (·.1)) (mine w).from_) s4

/-- A port fails (Table 12-4). -/
def failPort (s : State) (p reason : Nat) : State := portGone (setPortState s p 8 reason) p

/-- An Active port retrains (Table 12-4): traffic is held, the replay buffer kept. -/
def retrainPort (s : State) (p : Nat) : State :=
  if portActive s p then count (setPortState s p 6) (CWY_PORT_COUNT p) CWY_PORT_COUNT_retrains else s

/-- A port starts again from Detect (Table 12-4, Table 12-5 step 1). -/
def detectPort (s : State) (p : Nat) : State :=
  let s1 := setPortState s p 1
  wrb (setPort s1 p { badLanes := (portOf s p).badLanes, viol := (portOf s p).viol }) (CWY_PORT_PARTNER p) CWY_PORT_PARTNER_valid false

/-- Roadbed has returned from a partial reset (R53): it is out of reset and every port that was Active before it is Active again; the
hold of its hold-over copy on late ends. DESIGN CHOICE: notes/assumptions/103. -/
def roadbedBack (s : State) : State :=
  if s.mst.roadbed && s.boot.rb == 0 && s.boot.rbPorts.all (portActive s) then lateSettle (modMst s (fun m => { m with roadbed := false }))
  else s

/-- A port is Active (Table 12-4): the frames held go out. -/
def portUp (s : State) (p : Nat) : State :=
  roadbedBack (flushPort (modPort (setPortState s p 5) p (fun x => { x with attempts := 0, replays := 0 })) p)

/-! ### Codewords and retry -/

/-- The partner has accepted every codeword up to `ack` (R390); one under way among them has gone out as it stood. -/
def dropAcked (s : State) (p ack : Nat) : State :=
  modPort s p (fun x =>
    let left := x.sent.filter (fun f => seqAfter f.seq ack)
    let gone := x.buf != [] && !seqAfter x.seq ack
    { x with sent := left, replays := if left.length < x.sent.length then 0 else x.replays
             seq := if gone then (ack + 1) % 4096 else x.seq, buf := if gone then [] else x.buf
             first := if gone then 1023 else x.first })

/-- Replay every codeword kept after the partner's ack (R390). -/
def replayFrom (s : State) (p : Nat) : State :=
  let fs := ((portOf s p).sent.map (·.seq)).dedup
  let s1 := fs.foldl (fun s q => emit s (.replay p q)) s
  count s1 (CWY_PORT_COUNT p) CWY_PORT_COUNT_replays fs.length

/-- The symbols corrected on each active lane are added up; a lane above 2^20 in the stage fails (R392). -/
def addCorrected (s : State) (p : Nat) (ns : List Nat) : State :=
  let s1 := ns.zipIdx.foldl (fun s q =>
    modPort s p (fun x =>
      let n := smGet 0 x.corr q.2 + q.1
      { x with corr := smPut 0 x.corr q.2 n
               badLanes := if 2 ^ 20 < n ∧ ¬ x.badLanes.contains q.2 = true then x.badLanes ++ [q.2] else x.badLanes })) s
  if (portOf s p).badLanes.length < (portOf s1 p).badLanes.length then retrainPort s1 p else s1

/-- Whether a codeword that arrives is good (R387, R390): no more than 15 symbol errors in all, and its check is that of its stream
bytes and link fields. -/
def wordGood (seq ack : Nat) (nak : Bool) (rx : RxWord) (corrected : List Nat) : Bool :=
  decide (rx.errors + corrected.sum ≤ 15) &&
  rx.check.toNat == linkCheck rx.stream (linkLow { check := 0, seq := seq, ack := ack, nak := nak, first := rx.first, marker := rx.marker
                                                   signal := rx.signal, stage := rx.stage })

/-- CODEWORD (R390): accepted in sequence, or refused with nak once; its ack frees the replay buffer, its nak asks for a
replay, and the 8th replay in a row retrains the port. -/
def codewordIn (s : State) (p seq ack : Nat) (nak good : Bool) (corrected : List Nat) : State :=
  let s0 := addCorrected s p corrected
  if !portActive s0 p then s0
  else
    let x := portOf s0 p
    if !good ∨ seq ≠ (x.ack + 1) % 4096 then
      if x.refusing then s0 else closeWord (setPort s0 p { x with refusing := true }) p true 0 0
    else
      let s1 := dropAcked (setPort s0 p { x with ack := seq, refusing := false }) p ack
      if nak && !(portOf s1 p).sent.isEmpty then
        let s2 := modPort (replayFrom s1 p) p (fun x => { x with replays := x.replays + 1 })
        if (portOf s2 p).replays ≥ 8 then retrainPort s2 p else s2
      else s1

/-- CODEWORD. -/
def execCodeword (p seq ack : Nat) (nak : Bool) (rx : RxWord) (corrected : List Nat) (s : State) : Out :=
  onPort p (if portActive s p && decide (seq < 4096) && decide (ack < 4096) then
    codewordIn s p seq ack nak (wordGood seq ack nak rx corrected) corrected else s)

/-! ### The port state machine (Table 12-4) -/

/-- The lanes of a port that can be used: those found good that have not failed before (R392). -/
def usableLanes (s : State) (p : Nat) (lanes : Nat) : List Nat :=
  (upto 5).filter (fun i => bitsN lanes i i == 1 && !(portOf s p).badLanes.contains i)

/-- Record the lane that the spare replaces: the lowest active lane that cannot be used (R392, Table 12-17). -/
def useSpare (s : State) (p : Nat) (lanes : Nat) : State :=
  let us := usableLanes s p lanes
  match (upto 4).find? (fun i => !us.contains i) with
  | some i => wrf (wrb s (CWY_PORT_STATUS p) CWY_PORT_STATUS_spare_used true) (CWY_PORT_STATUS p) CWY_PORT_STATUS_failed_lane i
  | none => wrf (wrb s (CWY_PORT_STATUS p) CWY_PORT_STATUS_spare_used false) (CWY_PORT_STATUS p) CWY_PORT_STATUS_failed_lane 7

/-- The lanes that could not be equalised have failed (R392). -/
def noteLanes (s : State) (p : Nat) (lanes : Nat) : State :=
  modPort s p (fun x => { x with
    badLanes := x.badLanes ++ (upto 5).filter (fun i => bitsN lanes i i == 0 && !x.badLanes.contains i) })

/-- PORT_ENABLE (R391, R415). -/
def portEnable (s : State) (p : Nat) : State :=
  let s1 := wrb s (CWY_PORT_CTRL p) CWY_PORT_CTRL_enable true
  if portState s p = 0 then detectPort s1 p else s1

/-- PORT_DISABLE (R391, R397). -/
def portDisable (s : State) (p : Nat) : State :=
  portGone (setPortState (wrb s (CWY_PORT_CTRL p) CWY_PORT_CTRL_enable false) p 0) p

/-- PORT_ENABLE. -/
def execPortEnable (p : Nat) (s : State) : Out := onPort p (powered s (portEnable s p))
/-- PORT_DISABLE. -/
def execPortDisable (p : Nat) (s : State) : Out := onPort p (powered s (portDisable s p))
/-- PORT_RETRAIN (R391, R415). -/
def execPortRetrain (p : Nat) (s : State) : Out := onPort p (powered s (retrainPort s p))

/-- PARTNER_DETECTED (R391): a partner on at least 4 lanes. -/
def execPartnerDetected (p : Nat) (lanes : BitVec 5) (s : State) : Out :=
  onPort p (if portState s p = 1 ∧ 4 ≤ ((upto 5).filter (fun i => bitsN lanes.toNat i i == 1)).length then setPortState s p 2 else s)

/-- DETECT_TIMEOUT (R391): the port tries again. -/
def execDetectTimeout (p : Nat) (s : State) : Out := onPort p (if portState s p = 1 then setPortState s p 1 else s)

/-- TRAIN_DONE (R391, R392): the lanes that were equalised. -/
def execTrainDone (p : Nat) (lanes : BitVec 5) (s : State) : Out :=
  onPort p (
    if portState s p ≠ 2 then s
    else
      let s1 := noteLanes s p lanes.toNat
      if (usableLanes s1 p lanes.toNat).length < 4 then failPort s1 p 1 else useSpare (setPortState s1 p 3) p lanes.toNat)

/-- ALIGN_LOCK (R391). -/
def execAlignLock (p : Nat) (s : State) : Out := onPort p (if portState s p = 3 then setPortState s p 4 else s)

/-- An attempt that ended without lock (Table 12-4): back to Train, or after 3 to Failed. -/
def lostLock (s : State) (p : Nat) : State :=
  let s1 := modPort s p (fun x => { x with attempts := x.attempts + 1 })
  if (portOf s1 p).attempts ≥ 3 then failPort s1 p 2 else setPortState s1 p 2

/-- ALIGN_TIMEOUT (R391). -/
def execAlignTimeout (p : Nat) (s : State) : Out := onPort p (if portState s p = 3 then lostLock s p else s)

/-- RETRAIN_TIMEOUT (R391). -/
def execRetrainTimeout (p : Nat) (s : State) : Out := onPort p (if portState s p = 6 then lostLock s p else s)

/-- RETRAIN_DONE (R391, R392): the port is Active again and replays from the partner's ack; with fewer than four usable lanes
it fails. -/
def execRetrainDone (p ack : Nat) (lanes : BitVec 5) (s : State) : Out :=
  onPort p (
    if portState s p ≠ 6 then s
    else
      let s1 := noteLanes s p lanes.toNat
      if (usableLanes s1 p lanes.toNat).length < 4 then failPort s1 p 1
      else portUp (replayFrom (dropAcked (useSpare s1 p lanes.toNat) p ack) p) p)

/-- CODEWORD_LOCK_LOSS (R391): an Active port retrains. -/
def execCodewordLockLoss (p : Nat) (s : State) : Out := onPort p (retrainPort s p)

/-- The check of R395 on a partner: 0 accepted, else the reason. -/
def partnerCheck (s : State) (p rings port : Nat) (dev : Option Nat) : Nat :=
  if rings ≠ rdf s CWY_FABRIC_CFG CWY_FABRIC_CFG_ring_m1 then 3
  else if portDim port ≠ portDim p ∨ portPlus port = portPlus p then 4
  else match dev with
    | some c => if c ≠ neighbour s (selfId s) (portDim p) (portPlus p) then 5 else 0
    | none => 0

/-- EXCHANGE (R391, R395): the partner's ring sizes, port and device ID are seen; the port becomes Active or Refused. -/
def execExchange (p rings port dev : Nat) (s : State) : Out :=
  onPort p (
    if portState s p ≠ 4 then s
    else
      let known := rdb s (CWY_PORT_PARTNER p) CWY_PORT_PARTNER_valid
      let s1 := wr s (CWY_PORT_PARTNER p) (BitVec.ofNat 64 (2 ^ 63 + port % 64 * 2 ^ 24 + dev % 2 ^ 18))
      let r := partnerCheck s p rings port (if s.fab.coords.isSome then some dev else none)
      if r ≠ 0 then wrb (portGone (setPortState s1 p 7 r) p) (CWY_PORT_PARTNER p) CWY_PORT_PARTNER_valid true
      else
        let full : SMap Nat := (upto 8).map (fun k => (k, bufferHolds k))
        portUp (if known then s1 else setPort s1 p { credits := full, badLanes := (portOf s p).badLanes, viol := (portOf s p).viol }) p)

/-! ### Violations (R402, R403) -/

/-- A violation on a port (R402, R403): recorded, counted, its interrupt raised; the 65th in a stage retrains the port. -/
def violate (s : State) (p code : Nat) : State :=
  let s1 := wr s (CWY_PORT_ERR p) (BitVec.ofNat 64 (code * 2 ^ 56 + stageNow s % 2 ^ 48))
  let s2 := raiseEvent (count s1 (CWY_PORT_COUNT p) CWY_PORT_COUNT_violations) (212 + p)
  let s3 := modPort s2 p (fun x => { x with viol := x.viol + 1 })
  if (portOf s3 p).viol = 65 then retrainPort s3 p else s3

/-- A frame is dropped as a violation, with a NAK to the partner (R402). -/
def violateFrame (s : State) (p code word0 : Nat) : State := violate (sendControl s p 6 [code, word0]) p code

/-- The class of a type (Table 12-3). -/
def classOfType : Nat → Nat
  | 1 | 2 | 3 => 1
  | 4 | 6 => 2
  | 5 => 3
  | _ => 0

/-- Whether a type and its op are defined (Table 12-3). -/
def opDefined (h : FrameHdr) : Bool :=
  match h.type with
  | 1 | 3 | 4 | 5 | 6 => true
  | 2 => decide (h.op ≤ 2)
  | 7 => decide (1 ≤ h.op) && decide (h.op ≤ 6)
  | _ => false

/-- The ways by which a frame that was turned in the dimension of the receiving port can have come there (R397): for each place `j` hops
from its source where it can have turned, before it had reached its destination's coordinate, whether it had passed the dateline by the
time it arrived, on a way back that has not passed that coordinate. -/
def turnedWays (s : State) (p : Nat) (h : FrameHdr) : List Bool :=
  let d := portDim p
  let n := ringOf s d
  let went := !portPlus p
  let a := coordOf h.src d
  let b := coordOf h.dst d
  let c := coordOf (selfId s) d
  let far (x y : Nat) (plus : Bool) : Nat := if plus then (y + n - x) % n else (x + n - y) % n
  (upto (far a b (!went))).filterMap (fun j =>
    let t := if went then (a + n - j) % n else (a + j) % n
    let i := far t c went
    if 0 < i ∧ i ≤ far t b went then
      some ((if went then decide (a < j) else decide (n ≤ a + j)) || (if went then decide (n ≤ t + i) else decide (t < i)))
    else none)

/-- Whether a frame passes the receiving port on its route from its source (R396, R397, Table 12-7 code 7). In a ring of 2 both
directions lead to the same neighbour, and a collective piece takes that of its half (R407). -/
def onRoute (s : State) (p : Nat) (h : FrameHdr) : Bool :=
  let d := portDim p
  let here := selfId s
  let n := ringOf s d
  let went := !portPlus p
  let turned := bitsN h.detour d d == 1
  let a := coordOf h.src d
  let b := coordOf h.dst d
  let c := coordOf here d
  let dir := dirOf n a b (bitsN h.src d d == 1) != turned
  let far (x : Nat) : Nat := if went then (x + n - a) % n else (a + n - x) % n
  (upto d).all (fun k => coordOf here k == coordOf h.dst k) &&
  (upto 6).all (fun k => decide (k ≤ d) || coordOf here k == coordOf h.src k) &&
  decide (a ≠ b) && (dir == went || (h.type == 5 && n == 2)) && (if turned then turnedWays s p h != [] else decide (0 < far c) && decide (far c ≤ far b))

/-- The violation of a frame that arrives on a port (Table 12-7); 0 none. -/
def violationOf (s : State) (p : Nat) (h : FrameHdr) : Nat :=
  let data := if h.type = 2 ∧ h.op ≠ 0 then h.length - 16 else h.length
  let d := portDim p
  let went := !portPlus p
  let k := 2 * h.cls + h.vc
  if !opDefined h then 1
  else if h.length > 512 ∨ (h.type ≤ 2 ∧ h.addr % 512 + data > 512) then 2
  else if h.rsv ≠ 0 ∨ (h.cls = 1 ∧ h.status ≠ 0) ∨ ((h.type = 1 ∨ h.type = 4) ∧ h.op ≠ 0) then 3
  else if h.cls ≠ classOfType h.type ∨ 1 < h.vc ∨ (h.vc = 1 ∧
      ¬ (if bitsN h.detour d d = 1 then (turnedWays s p h).any id else crossedTo s h d went) = true) then 4
  else if bufferHolds k ≤ smGet 0 (portOf s p).filled k then 5
  else if h.type = 4 ∧ h.dst = selfId s ∧ ¬ s.fab.timedOut.contains h.tag = true ∧
      (match smFind? s.fab.sent h.tag with
       | some (.acked _ _) => true
       | some _ => false
       | none => true) = true then 6
  else if h.type ≠ 7 ∧ rdb s CWY_SELF_ID CWY_SELF_ID_id_valid = true ∧ ¬ onRoute s p h = true then 7
  else 0

/-- A frame arrives at an Active port (R388, R393, R396, R397, R402): dropped as a second copy or as a violation; otherwise it
fills a buffer, and goes on, or is served here by `serve`, which frees the buffer. -/
def frameIn (s : State) (p : Nat) (h : FrameHdr) (b : Body) (len : Nat) (serve : State → State) : State :=
  if !portActive s p ∨ len ≠ (if h.type = 1 then 0 else h.length) then s
  else
    let k := 2 * h.cls + h.vc
    let back (s : State) : State := creditBack (modPort s p (fun x => { x with filled := smPut 0 x.filled k (smGet 0 x.filled k + 1) })) (some (p, k))
    if (portOf s p).dropNext then back (modPort s p (fun x => { x with dropNext := false }))
    else
      let v := violationOf s p h
      if v ≠ 0 then
        let s1 := violateFrame s p v (hdrWord0 h)
        if v = 5 ∨ isCredit h = true ∨ 3 < h.cls ∨ 1 < h.vc then s1 else back s1
      else if h.type = 7 then s
      else
        let s1 := modPort s p (fun x => { x with filled := smPut 0 x.filled k (smGet 0 x.filled k + 1) })
        if !rdb s CWY_SELF_ID CWY_SELF_ID_id_valid then
          creditBack (if h.cls = 1 then respond s1 h 2 [] else countDropped s1) (some (p, k))
        else if h.dst ≠ selfId s then sendOn s1 h b (some p) (some (p, k))
        else creditBack (serve s1) (some (p, k))

/-! ### Frames (Table 12-3) -/

/-- A request from a peer is turned away in keep state (R447): status unreachable, counted. -/
def peerRefused (s : State) (h : FrameHdr) : Option State :=
  if keepState s ≥ 2 then some (respond (count s HST_ERR HST_ERR_ur) h 2 []) else none

/-- A reduction of elements into user stack memory at its slices (R269, R408). -/
def reduceAt (s : State) (op epoch a : Nat) (d : List Byte) : State :=
  if d = [] then s else reduceNow s op epoch a d

/-- Serve a Kerb frame (R301, R302, R311): a command for an engine here, a status record, a contribution block. -/
def serveKerb (s : State) (h : FrameHdr) (p : KerbPayload) : State :=
  (peerRefused s h).getD (
    match p with
    | .command ws id =>
      let s1 := respond s h 0 []
      (match kblockOf ws with
      | some b => submitKerb s1 (.peer h.src id) { b with dev := selfId s }
      | none => tellStatus s1 h.src id (statusWord 0x01 0 0) 0)
    | .status id w0 w1 => kerbStatusIn (respond s h 0 []) id w0 w1
    | .contribution .. =>
      modFab (respond s h 0 []) (fun f => { f with blocks := f.blocks ++ [⟨h.src, h.tag, none, p⟩] }))

/-- The bytes of a Kerb payload in its frame. -/
def kerbLen : KerbPayload → Nat
  | .command _ _ => 64
  | .status _ _ _ => 16
  | .contribution .. => 96

/-- A frame row admits the type it names, or one that is not defined, or a control frame that breaks a rule of its header; the last
two are violations. -/
def typeFits (h : FrameHdr) (t : Nat) : Bool := h.type == t || h.type == 7 || !opDefined { h with op := 0 }

/-- A control frame fills a receive buffer of class 0 of its port (R393). -/
def takeBuffer (s : State) (p k : Nat) : State := modPort s p (fun x => { x with filled := smPut 0 x.filled k (smGet 0 x.filled k + 1) })

/-- A control frame that is not a credit frame has been taken at a port: its buffer is free again (R393). -/
def tookControl (s : State) (p : Nat) : State := creditBack s (some (p, 0))

/-- A control frame arrives at an Active port (R393, R397, R402): one sent without a credit is a violation, a resent one that had been
accepted before is dropped; any other acts, and its buffer is free again. `h` is its header. -/
def controlIn (s : State) (p : Nat) (h : FrameHdr) (act : State → State) : State :=
  if !portActive s p then s
  else if bufferHolds 0 ≤ smGet 0 (portOf s p).filled 0 then violateFrame s p 5 (hdrWord0 h)
  else if (portOf s p).dropNext then tookControl (modPort (takeBuffer s p 0) p (fun x => { x with dropNext := false })) p
  else tookControl (act (takeBuffer s p 0)) p

/-- The header of a control frame of `n` words as the partner of a port sends it: from the neighbour that the port leads to, or, before
this device knows where it stands, from the partner seen in Exchange. -/
def partnerHdr (s : State) (p op n : Nat) : FrameHdr :=
  { ctlHdr s op n with src := rdf s (CWY_PORT_PARTNER p) CWY_PORT_PARTNER_device_id }

/-- KERB_FRAME (R388). -/
def execKerbFrame (p : Nat) (h : FrameHdr) (b : KerbPayload) (s : State) : Out :=
  onPort p (if typeFits h 3 then frameIn s p h (.kerb b) (kerbLen b) (fun s => serveKerb s h b) else s)

/-- A response completes its request, or is discarded where the request has timed out (R398). -/
def serveResponse (s : State) (h : FrameHdr) (d : List Byte) : State :=
  if s.fab.timedOut.contains h.tag && !smHas s.fab.sent h.tag then
    modFab s (fun f => { f with timedOut := f.timedOut.filter (· ≠ h.tag) })
  else answerTag s h.tag h.status d

/-- RESPONSE_FRAME (R398). -/
def execResponseFrame (p : Nat) (h : FrameHdr) (d : List Byte) (s : State) : Out :=
  onPort p (if typeFits h 4 then
    frameIn s p h (if d = [] then .empty else .data d) d.length (fun s => serveResponse s h d) else s)

/-- REQUEST_TIMEOUT (R398): a request without a response completes with status timeout; a later response to it is discarded. -/
def execRequestTimeout (tag : Nat) (s : State) : Out :=
  .next (match smFind? s.fab.sent tag with
    | none => s
    | some (.acked _ _) => s
    | some _ => answerTag (modFab s (fun f => { f with timedOut := f.timedOut ++ [tag] })) tag 4 [])

/-- A credit frame is taken (R393, R397): credits come back for a pair of class and channel, and frames that waited for them go; the
credit of its own buffer is owed to the partner. A resent one that had been accepted before is dropped. -/
def creditIn (s : State) (p k n : Nat) : State :=
  if bufferHolds 0 ≤ smGet 0 (portOf s p).filled 0 then violateFrame s p 5 (hdrWord0 (partnerHdr s p 1 3))
  else if (portOf s p).dropNext then creditOwed (modPort s p (fun x => { x with dropNext := false })) p
  else creditOwed (flushPort (modPort s p (fun x => { x with credits := smPut 0 x.credits k (smGet 0 x.credits k + n) })) p) p

/-- CREDIT_FRAME (R393). -/
def execCreditFrame (p cls vc n : Nat) (s : State) : Out :=
  onPort p (if portActive s p && decide (cls < 4) && decide (vc < 2) then creditIn s p (2 * cls + vc) n else s)

/-- RESEND_MARKER (R397): the next frame on this port is dropped if the codeword it was first sent in, on the port that failed,
had been accepted here. -/
def execResendMarker (p failed seq : Nat) (s : State) : Out :=
  onPort p (controlIn s p (partnerHdr s p 5 2) (fun s =>
    match (upto 3).find? (fun i =>
        rdf s (CWY_PORT_PARTNER (groupBase (portDim p) (portPlus p) + i)) CWY_PORT_PARTNER_port == failed) with
    | some i =>
      let q := groupBase (portDim p) (portPlus p) + i
      modPort s p (fun x => { x with dropNext := !seqAfter seq (portOf s q).ack })
    | none => s))

/-- A NAK is taken (R402): a request of this device's own completes with status refused. -/
def nakIn (s : State) (code : Nat) (word0 : Word) : State :=
  if bits word0 28 11 == selfId s && bits word0 59 58 == 1 && decide (0 < code) then
    (match smFind? s.fab.sent (bits word0 10 0) with
    | some (.acked _ _) => s
    | some _ => answerTag s (bits word0 10 0) 3 []
    | none => s)
  else s

/-- NAK_FRAME (R402). -/
def execNakFrame (p code : Nat) (word0 : Word) (s : State) : Out :=
  onPort p (controlIn s p (partnerHdr s p 6 2) (fun s => nakIn s code word0))

/-- Clear the counters of the causeways (R288, R412). -/
def cwyStatClear (s : State) : State :=
  let s1 := clearIf s (fun o => o == CWY_COUNT)
  (upto 36).foldl (fun s p => clearIf s (fun o => o == CWY_PORT_COUNT p || (upto 6).any (fun k => o == CWY_STALL p k))) s1

/-- CWY_STAT_CLEAR. -/
def execCwyStatClear (s : State) : Out := .next (powered s (cwyStatClear s))

end Sys2Proof.Machine
end

