-- ==== Sys2Proof/Machine/Repair.lean ====
section
/-! DEFINITION. The repair path (R458, R462 to R465), spare cores and doubling up (R466 to R470, R117), migration of a
pseudo-channel (R473, Table 14-5), scrub, self-test and the audits (R322, R476 to R479). -/

namespace Sys2Proof.Machine

/-! ### Sectors -/

/-- The requests in a phase that concern a sector. -/
def reqsAt (s : State) (p : ReqPhase) (sec : Nat) : List Req :=
  s.reqs.filter (fun r => r.phase == p && (r.src / 256 == sec || r.dst / 256 == sec))

/-- The bytes that a request's second read, or the repair, brings (R103): those that its sector `b` holds, or bytes that the model does
not hold where the sector is another device's. -/
def readAgain (s : State) (r : Req) (b : List Byte) : State :=
  let (d, s1) := if isGlobal r.src then freeBytes s r.len else ((b.drop (r.src % 256)).take r.len, s)
  putReq s1 { r with phase := .fin, data := d, bad := false }

/-- A request goes back to wait for its sector, whose bytes are `b`: as a read where it has not read yet, else as a write (R266), or,
where it brings them into the scratchpad or a read-only cache, to its end with the bytes read again (R103, R458), or out of the
waybilled domain (R459). A read of window storage is answered. -/
def backToFill (s : State) (r : Req) (b : List Byte) : State :=
  match r.kind with
  | .fill _ => if r.data ≠ [] then putReq s { r with phase := .fin, data := b, bad := false } else putReq s { r with phase := .rdD }
  | _ =>
    if r.fresh then (match regionOf r.src with
      | .window _ _ => sendBack s r b
      | _ => putReq s { r with phase := .rdD })
    else match sideOf s r.core r.stream r.dst r.len true with
      | .own _ => readAgain s r b
      | .scratch _ _ => readAgain s r b
      | .verge _ => putReq s { r with phase := .wrD }
      | _ => toDest s { r with bad := false, fresh := true } ((b.drop (r.src % 256)).take r.len)

/-- Whether the waybill that the level holds which supplied a sector is not that of its data, or the sector is beyond repair by a second
read (R458). -/
def storedBad (s : State) (sec : Nat) : Bool :=
  match findSector s sec with
  | some x => if x.st = .dead then sectorFlawed s sec else !billOk (flawV s sec) x.data
  | none => sectorFlawed s sec

/-- WAYBILL_REREAD (R458): a matching re-read is counted and the request goes on; a second mismatch goes to the repair path. -/
def execWaybillReread (sec : Nat) (ok : Bool) (s : State) : Out :=
  .next (
    let rs := reqsAt s .reread sec
    if rs.isEmpty then s
    else if ok && (isGlobal (sec * 256) || !storedBad s sec) then
      let b := if sec * 256 < userEnd then peekSector s sec else storedRead s sec
      let s1 := rs.foldl (backToFill · · b) (count s REP_COUNT_0 REP_COUNT_0_wb_reread)
      lateSettle (if (waitingFor s1 sec).isEmpty then s1 else fillSector s1 sec (dramRead s1 sec))
    else rs.foldl (fun s r => putReq s { r with phase := .repair }) (count s REP_COUNT_0 REP_COUNT_0_wb_mismatch))

/-- The requests that wait for the repair of a sector are answered: with the restored data, or as poisoned (R463). -/
def answerRepair (s : State) (sec : Nat) (d : Option (List Byte)) : State :=
  let rs := reqsAt s .repair sec
  match d with
  | some b =>
    let s1 := rs.foldl (backToFill · · b) s
    if (waitingFor s1 sec).isEmpty then s1 else fillSector s1 sec b
  | none => failSector s rs

/-- A refetched sector is written with a fresh waybill, counted, and the requests that wait for it are answered (R319, R320). -/
def refetched (s : State) (sec : Nat) (d : List Byte) : State :=
  answerRepair (refetchedAs s sec d) sec (some d)

/-- The repair of a sector from what this device holds (Table 14-3): restored, or poisoned. -/
def repairHere (s : State) (sec : Nat) : State :=
  let (d, s1) := repairLocal s sec
  answerRepair s1 sec d

/-- The keeper reads the other copy of a sector: here at once, where it is whole; from another device by a Read, while this device has an
ID (R47). -/
def refetchFrom (s : State) (sec dev a : Nat) (why : FrameWhy := .plain) : State :=
  if dev = selfId s then
    (match copyHere s a with
     | some d => refetched s sec d
     | none => repairHere s sec)
  else if !rdb s CWY_SELF_ID CWY_SELF_ID_id_valid then repairHere s sec
  else if s.fab.sent.any (fun q => q.2 == .refetch sec) || s.fab.asks.any (fun q => q.who == .refetch sec) then s
  else ask (modFab s (fun f => { f with fetched := smErase f.fetched sec }))
    { who := .refetch sec, dst := dev, type := 1, op := 0, len := 256, addr := a, body := .empty, why := why }

/-- REPAIR_DONE (R464, Table 14-3): the keeper restores or poisons the sector by its class; one of which another device has the copy
to take waits for it (REPLICA_REFETCH). A sector of another device is repaired there, and the read goes on. -/
def repairSector (s : State) (sec : Nat) : State :=
  if isGlobal (sec * 256) then (reqsAt s .repair sec).foldl (backToFill · · []) s
  else match otherCopy s sec with
  | some (dev, a) => refetchFrom s sec dev a
  | none => repairHere s sec

/-- Whether the repair path has a sector (R458, R462): a request waits for its repair, the keeper could not write it back or scrub it, or
sums wait for it. -/
def inRepair (s : State) (sec : Nat) : Bool :=
  !(reqsAt s .repair sec).isEmpty || s.mem.broken.contains sec ||
  (owesSums s (sec / 8) && sectorFlawed s sec && !inVerge s sec)

/-- REPAIR_DONE: nothing is repaired while the rails are down (R3). -/
def execRepairDone (sec : Nat) (s : State) : Out :=
  .next (if s.boot.pg && inRepair s sec then lateSettle (repairSector s sec) else s)

/-- The bit position at which two sectors differ, if it is exactly one. -/
def oneBit (a b : List Byte) : Option Nat :=
  match ((upto 2048).filter (fun i => ((a.getD (i / 8) 0).getLsbD (i % 8)) != ((b.getD (i / 8) 0).getLsbD (i % 8)))) with
  | [i] => some i
  | _ => none

/-- A one-bit difference (R479): counted and logged with both addresses and the bit position. -/
def bitFlip (s : State) (sec ref_ bitPos : Nat) : State :=
  logAppend (count s REP_COUNT_2 REP_COUNT_2_bit_flip) repairLog 14 (sectorSite s sec (classOf s (sec * 256)).num)
    (BitVec.ofNat 64 (sec * 256)) (BitVec.ofNat 64 (ref_ % 2 ^ 56 + bitPos % 256 * 2 ^ 56))

/-- An audited copy and its reference, each with its own waybill, are compared (R479): a difference in exactly one bit is a bit flip. -/
def compareBits (s : State) (sec : Nat) (mine ref_ : List Byte) (good : Bool) (refAt : Nat → Nat) : State :=
  match (if good then oneBit mine ref_ else none) with
  | some b => bitFlip s sec (refAt b) b
  | none => s

/-- The sector that an audit found different comes from its owner (R478, R479): compared with the replica as it stands. -/
def auditedBits (s : State) (sec : Nat) (d : List Byte) : State :=
  match smFind? s.fab.ownerBill sec with
  | none => s
  | some w =>
    let ref_ := match otherCopy s sec with
      | some (dev, a) => toGlobal dev a
      | none => 0
    compareBits (modFab s (fun f => { f with ownerBill := smErase f.ownerBill sec })) sec (rawSector s sec) d
      (!storedBad s sec && crc32c d == w) (fun _ => ref_)

/-- REPLICA_REFETCH (R319, R320): the copy of a sector comes back from the owner, or, for an older version of an owner's set, from a
holder: the bytes that the other device has answered to the keeper's read, else those of the command. A copy that gave no data leaves
a replica sector poisoned (R463) and an owner's to be recomputed (R320 item 3). -/
def refetchSector (s0 : State) (sec : Nat) (d : List Byte) : State :=
  match otherCopy s0 sec with
  | none => s0
  | some _ =>
    let s := modFab s0 (fun f => { f with fetched := smErase f.fetched sec })
    match smFind? s0.fab.fetched sec with
    | some (some b) => refetched (auditedBits s sec b) sec b
    | some none => repairHere s sec
    | none => refetched (auditedBits s sec d) sec d

/-- REPLICA_REFETCH. -/
def execReplicaRefetch (sec : Nat) (d : List Byte) (s : State) : Out :=
  .next (lateSettle (refetchSector s sec ((d ++ List.replicate 256 0).take 256)))

/-! ### Cores -/

/-- CORE_RETIRE (R466, R482): ignored for a retired core, a cluster above 143 or a core above 135. -/
def coreRetire (s : State) (c p : Nat) : State :=
  if c < 144 ∧ p < 136 then requestRetire s c p else s

/-- CORE_RETIRE. -/
def execCoreRetire (c p : Nat) (s : State) : Out := .next (powered s (coreRetire s c p))

/-- The half of the cluster cache beside a physical core (R26). -/
def halfOfPhys (p : Nat) : Nat := if p < 68 then 0 else 1

/-- Set the core map entry of a logical core (R31). -/
def setPhys (s : State) (l p : Nat) : State :=
  wrf s (REP_CORE_MAP (clusterOf l) (l % 128 / 8)) ⟨8 * (l % 8), 8⟩ p

/-- The state of a logical core moves with it (R117); the read-only caches of the core it leaves do not.
DEDUCED: notes/assumptions/41. -/
def moveCore (s : State) (l p : Nat) : State := roInvalidateKinds (setPhys s l p) l [.instr, .const, .desc]

/-- Take a logical core's scratchpad out of its repair slot. -/
def freeSlot (s : State) (l : Nat) : State :=
  let c := clusterOf l
  setSlice s c { sliceOf s c with repair := (sliceOf s c).repair.filter (fun p => p.2 ≠ l) }

/-- Put a logical core's scratchpad into the lowest free repair slot of its home slice (R469); pinned lines make room as R272
states. -/
def takeSlot (s : State) (l : Nat) : State :=
  let c := clusterOf l
  if (smVals (sliceOf s c).repair).contains l then s
  else
    match (upto 32).find? (fun r => !smHas (sliceOf s c).repair r) with
    | none => s
    | some r =>
      let s1 := setSlice s c { sliceOf s c with repair := smSet (sliceOf s c).repair r l }
      (upto 64).foldl (fun s j => shrinkSet s c (windowWays s c) (64 * (r % 8) + j)) s1

/-- The physical core that a logical core doubles up on (R468): in the same half, serving one logical core, with the highest
table entry, the lowest number among equals; else in the other half. -/
def partnerFor (s : State) (c p : Nat) : Option Nat :=
  let ok (q : Nat) : Bool := q != p && !s.rep.retired.contains (136 * c + q) && (servedBy s c q).length == 1
  let best (h : Nat) : Option Nat := ((upto 136).filter (fun q => ok q && halfOfPhys q == h)).foldl (fun b q =>
    match b with
    | none => some q
    | some x => if fmaxOf s c x < fmaxOf s c q then some q else some x) none
  match best (halfOfPhys p) with
  | some q => some q
  | none => best (1 - halfOfPhys p)

/-- The counts of a cluster as its map stands (R32). -/
def clusterCounts (s : State) (c : Nat) : State :=
  let doubled := ((upto 136).filter (fun p => (servedBy s c p).length == 2)).length
  let retired := ((upto 136).filter (fun p => s.rep.retired.contains (136 * c + p))).length
  wr s (REP_CLUSTER_STATUS c) (BitVec.ofNat 64 (putf REP_CLUSTER_STATUS_doubled_count doubled +
    putf REP_CLUSTER_STATUS_retired_count retired + putf REP_CLUSTER_STATUS_spares_free (freeSpares s c).length))

/-- A logical core leaves a retiring physical core (R467, R468). -/
def relocateCore (s : State) (c p l : Nat) : State :=
  let spare := match (freeSpares s c).find? (fun q => q ≠ p ∧ halfOfPhys q = halfOfPhys p) with
    | some q => some q
    | none => (freeSpares s c).find? (fun q => q ≠ p)
  match spare with
  | some q => logAppend (freeSlot (moveCore s l q) l) repairLog 1 (repSite c p 0 0) (BitVec.ofNat 64 l) 0
  | none =>
    match partnerFor s c p with
    | some q =>
      let s1 := (servedBy s c q).foldl roHalve (logAppend s repairLog 1 (repSite c p 0 0) (BitVec.ofNat 64 l) 0)
      logAppend (takeSlot (moveCore s1 l q) l) repairLog 2 (repSite c q 0 0) (BitVec.ofNat 64 l) 0
    | none => s

/-- The doubled pairs that a cluster would have once physical core p's logical cores have moved (R468, R470). -/
def pairsAfter (s : State) (c p : Nat) : Nat :=
  ((upto 136).filter (fun q => q != p && (servedBy s c q).length == 2)).length +
  ((servedBy s c p).length - ((freeSpares s c).filter (· ≠ p)).length)

/-- Order 3 of Table 02-4 for one retirement (R466 to R468): refused where it would make a 33rd doubled pair (R470). -/
def retireCore (s0 : State) (id : Nat) : State :=
  let c := id / 136
  let p := id % 136
  let s := modRep s0 (fun r => { r with pendRet := r.pendRet.erase id })
  let ls := servedBy s c p
  if ls ≠ [] ∧ 32 < pairsAfter s c p then refuseRetire s c p else
  let s1 := modRep s (fun r => { r with retired := r.retired ++ [id] })
  let s2 := if ls = [] then logAppend s1 repairLog 1 (repSite c p 0 0) 0 0 else ls.foldl (fun s l => relocateCore s c p l) s1
  clusterCounts s2 c

/-- Order 3 of Table 02-4: pending changes of the core maps (R28). -/
def coreMapsAtMilestone (s : State) : State := s.rep.pendRet.foldl retireCore s

/-! ### Background pieces -/

/-- The sector that stands at a position of a stack (R322, R473), pseudo-channel by pseudo-channel: none where a relocated line has left
its place. DESIGN CHOICE: notes/assumptions/55. -/
def sectorAt (s : State) (k pos : Nat) : Option Nat :=
  let pc := pos / 2 ^ 23
  let b := pos % 2 ^ 23 * 256
  if b < 0x7C000000 then
    let a := lineAt k pc (b / 2048) * 2048 + b % 2048
    if dramAddr s a = a then some (a / 256) else none
  else
    let a := reserveBase + k * 0x80000000 + pc * 0x4000000 + (b - 0x7C000000)
    let p := rdf s (REP_STACK k) REP_STACK_retired_pc
    let u := lineAt k p ((if pc < p then pc else pc - 1) * 32768 + (b - 0x7C000000) / 2048) * 2048 + b % 2048
    some ((if dramAddr s u = a then u else a) / 256)

/-- The keeper scrubs one sector (R322, R458, R461, R462): what the ECC corrected is written back; one beyond it, or with a waybill that
mismatches twice, goes to the repair path. -/
def scrubSector (s : State) (sec : Nat) (errs : List (List Nat)) (astray : Bool) : State :=
  let f := flawOf s sec
  let all_ := joinErrs errs f.errs
  if poisoned s sec || onLostPc s sec || (errs = [] && !astray && f = {}) then s
  else if stackEcc s sec all_ (astray || f.astray) = .uncorrectable then
    breakSector (count s REP_COUNT_1 REP_COUNT_1_uncorrectable) sec
  else
    let s1 := noteCorrected s sec all_
    if f.once then count (setFlaw s1 sec { bill := f.bill }) REP_COUNT_0 REP_COUNT_0_wb_reread
    else if billOk f (storedRead s sec) then setFlaw s1 sec {}
    else breakSector (count s1 REP_COUNT_0 REP_COUNT_0_wb_mismatch) sec

/-- Scrub (R322): the keeper reads the next sector of its stack and writes back what its ECC corrected.
DESIGN CHOICE: notes/assumptions/55. -/
def scrubPiece (s : State) (k : Nat) (errs : List (List Nat)) (astray : Bool) : State :=
  if rdf s KRB_CTRL KRB_CTRL_scrub_hours = 0 then s
  else
    let p := rdf s (KRB_SCRUB k) KRB_SCRUB_position
    let s1 := match sectorAt s k p with
      | some sec => scrubSector s sec errs astray
      | none => s
    let s2 := if p + 1 = 2 ^ 28 then count s1 (KRB_SCRUB k) KRB_SCRUB_passes else s1
    wrf s2 (KRB_SCRUB k) KRB_SCRUB_position (p + 1)

/-- Migration of the next line of a stack's retiring pseudo-channel (Table 14-5 steps 3 and 4): copy and advance are one. Each sector is
read with its checks and its repair (R458, R472); one that gives no data stays poisoned. -/
def migrateLine (s : State) (k : Nat) : State :=
  let w := rd s (REP_STACK k)
  let p := getf w REP_STACK_retired_pc
  let loc := getf w REP_STACK_pointer
  if pcLines ≤ loc then s
  else
    let line := lineAt k p loc
    let s1 := (upto 8).foldl (fun s i =>
      let sec := line * 8 + i
      match meet s sec with
      | (some d, s1) => modMem s1 (fun m => { memWrite m (relocated k p loc + 256 * i) d with flaws := smErase m.flaws sec })
      | (none, s1) => s1) s
    wrf s1 (REP_STACK k) REP_STACK_pointer (loc + 1)

/-- A migration piece: nothing moves while the stack's reserve holds the service area (Table 14-5 step 2). -/
def migratePiece (s : State) (k lines : Nat) : State :=
  if rdb s (REP_STACK k) REP_STACK_migrating && rdf s REP_STATUS REP_STATUS_service_stack != k then
    (upto lines).foldl (fun s _ => migrateLine s k) s
  else s

/-- The service area moves to the lowest-numbered stack with no retired or migrating pseudo-channel (Table 14-5 step 2). -/
def moveService (s : State) : State :=
  if rdb s (REP_STACK (rdf s REP_STATUS REP_STATUS_service_stack)) REP_STACK_migrating then
    match (upto 36).find? (fun k => !hasRetired s k) with
    | some k => wrf s REP_STATUS REP_STATUS_service_stack k
    | none => s
  else s

/-! ### Self-test (R476) -/

/-- A self-test failure is counted. -/
def selfTestFailure (s : State) : State := count s REP_SELFTEST REP_SELFTEST_failures

/-- A unit of the self-test is covered: a pseudo-channel, or, from 1,152 on, a lane group; once every one is, the pass is complete and the
next begins. -/
def selfTestCovers (s : State) (unit : Nat) : State :=
  let t := if s.rep.tested.contains unit then s.rep.tested else s.rep.tested ++ [unit]
  if 1152 ≤ t.length ∧ 1152 + Config.laneGroups ≤ t.length then
    modRep (count s REP_SELFTEST REP_SELFTEST_passes) (fun r => { r with tested := [] })
  else modRep s (fun r => { r with tested := t })

/-- A self-test of the lanes of a pseudo-channel (R471, R476): each lane that fails, and had not failed before, is counted and treated. -/
def selfTestPc (s : State) (gpc : Nat) (failed : List (Nat × Nat)) : State :=
  if s.rep.period = 0 ∨ s.rep.tested.contains gpc = true then s
  else selfTestCovers (failed.foldl (fun s l =>
    if knownLane s gpc l.1 l.2 then s else failLane (selfTestFailure s) gpc l.1 l.2) s) gpc

/-- A self-test of the lanes of a bond, culvert or core group (R475, R476); a core whose lanes fail beyond their spares is retired
(Table 14-4). Groups from 1,000 on are those of physical core (group − 1,000). DESIGN CHOICE: notes/assumptions/56. -/
def selfTestGroup (s : State) (g : Nat) (failed : List Nat) : State :=
  if s.rep.period = 0 ∨ s.rep.tested.contains (1152 + g) = true then s
  else
    let s1 := selfTestCovers (failed.foldl (fun s lane =>
      if (smGet [] s.rep.groups g).contains lane then s else failGroupLane (selfTestFailure s) g lane) s) (1152 + g)
    if 1000 ≤ g ∧ g < 1000 + 144 * 136 ∧ 4 < (smGet [] s1.rep.groups g).length then
      requestRetire s1 ((g - 1000) / 136) ((g - 1000) % 136)
    else s1

/-! ### What stored data suffer -/

/-- The flaw of stored bytes after damage (R457 to R460): the waybill held stays that of the bytes as they were made. -/
def struck (f : Flaw) (old : List Byte) (errs : List (List Nat)) (astray : Bool) (data : Option (List Byte)) (once : Bool) : Flaw :=
  { errs := joinErrs f.errs errs, astray := f.astray || astray, once := f.once || once
    bill := if data.isSome then some (f.bill.getD (BitVec.ofNat 32 (crc32c old))) else f.bill }

/-- The bytes of a sector, whatever length is given. -/
def sectorBytes (d : List Byte) : List Byte := (d ++ List.replicate 256 0).take 256

/-- Stored data take damage (R97, R458, R460). DESIGN CHOICE: notes/assumptions/111. -/
def strike (s : State) : Strike → State
  | .dram sec errs astray data once =>
    let held : Bool := match regionOf (sec * 256) with
      | .user => true
      | .reserve => true
      | .window _ _ => true
      | _ => false
    if !held then s
    else
      let s1 := setFlaw s sec (struck (flawOf s sec) (storedRead s sec) errs astray data once)
      match data with
      | none => s1
      | some d => modMem s1 (fun m => memWrite m (if sec * 256 < userEnd then dramAddr s (sec * 256) else sec * 256) (sectorBytes d))
  | .verge sec errs data once =>
    match findSector s sec with
    | none => s
    | some x =>
      if x.st = .dead then s
      else
        let f := struck (flawV s sec) x.data errs false data once
        setFlawV (match data with
          | some d => putSector s sec { x with data := sectorBytes d }
          | none => s) sec f
  | .scratch l o fatal =>
    let w := o / 8 * 8
    if ¬ (l < numCores ∧ o < 0x20000) then s
    else modCore s l (fun c =>
      if fatal then { c with bad := if c.bad.contains w then c.bad else c.bad ++ [w], soft := c.soft.filter (· ≠ w) }
      else if c.bad.contains w || c.soft.contains w then c else { c with soft := c.soft ++ [w] })

/-! ### Audits (R477 to R479) -/

/-- The next sector of a keeper's cycle over the working sets of the current versions of the open shards that it owns (R477): at or after
shard `i`, sector `j` of its set, else from the first again: shard, sector of its set. -/
def nextOwned (s : State) (k i j : Nat) : Option (Nat × Nat) :=
  let own := (engOf s k).shards.filter (fun p => !p.2.replica && decide (p.2.version ≠ 0) && decide (0 < p.2.setLen))
  match own.find? (fun p => decide (i < p.1) || (p.1 == i && decide (256 * j < p.2.setLen))) with
  | some p => some (p.1, if p.1 = i then j else 0)
  | none => own.head?.map (fun p => (p.1, 0))

/-- The audit of one sector of a working set of the current version of a shard (R477, R479). The reference of a difference in one bit is
the master element that it belongs to. DEDUCED: notes/assumptions/54. -/
def auditCopy (s : State) (x : Shard) (o : Nat) : State :=
  let sec := (x.curSet + o) / 256
  let s0 := keeperMeet s sec
  let es := ((upto 256).map (fun j => x.setElem (o + j))).dedup
  let s1 := count (es.foldl (fun s i => keeperMeet s ((x.master + 4 * i) / 256)) s0) REP_COUNT_2 REP_COUNT_2_audited
  if poisoned s1 sec || es.any (masterFails s1 x) then s1
  else
    let good := (upto 256).map (fun j => setByte s1 x (o + j))
    let have_ := rawSector s1 sec
    if have_ = good then s1
    else
      let s2 := logAppend (count s1 REP_COUNT_2 REP_COUNT_2_drift) repairLog 12 (sectorSite s1 sec 1) (BitVec.ofNat 64 (sec * 256)) 0
      let s3 := compareBits s2 sec have_ good (!storedBad s1 sec && es.all (fun i => !storedBad s1 ((x.master + 4 * i) / 256)))
        (fun b => x.master + 4 * x.setElem (o + b / 8))
      keeperWrite s3 (stackOfLine (sec / 8)) (sec * 256) good

/-- Copy audit by keeper k of the next sector of its cycle (R477). -/
def copyAudit (s : State) (k : Nat) : State :=
  let at_ := smGet 0 s.rep.shardCur k
  match nextOwned s k (at_ / 2 ^ 40) (at_ % 2 ^ 40) with
  | none => s
  | some (i, j) =>
    let s1 := modRep s (fun r => { r with shardCur := smPut 0 r.shardCur k (i * 2 ^ 40 + j + 1) })
    match smFind? (engOf s k).shards i with
    | some x => auditCopy s1 x (256 * j)
    | none => s1

/-- The owner checks its own sector, where it holds the current version, before its copy is fetched (R478). -/
def ownerChecks (s : State) (sec : Nat) : State :=
  match classOf s (sec * 256) with
  | .workingSet e i _ =>
    (match smFind? (engOf s e).shards i with
     | some x => if within (sec * 256) x.curSet x.setLen then auditCopy s x (sec * 256 - x.curSet) else s
     | none => s)
  | _ => s

/-- The waybill held with a sector of user stack memory (R457). -/
def heldBill (s : State) (sec : Nat) : Nat :=
  let f := if inVerge s sec then flawV s sec else flawOf s sec
  match f.bill with
  | some w => w.toNat
  | none => crc32c (rawSector s sec)

/-- The leases whose replica addresses stand in user stack memory of this device (R308, R478), under a number of their own. -/
def replicaLeases (s : State) : List (Nat × Lease) :=
  ((s.engines.flatMap (fun e => e.2.leases.map (fun p => (e.1 * 4096 + p.1, p.2)))).filter (fun p =>
    p.2.holder == selfId s && !p.2.revoked && p.2.replica != 0 && decide (0 < p.2.len) &&
    rangeOk .kerb p.2.replica p.2.len && decide (p.2.replica < userEnd)))

/-- The next sector of a keeper's cycle over the replica addresses (R478): lease, sector of its set. -/
def nextReplica (s : State) (i j : Nat) : Option (Nat × Nat × Lease) :=
  let ls := replicaLeases s
  match ls.find? (fun p => decide (i < p.1) || (p.1 == i && decide (256 * j < p.2.len))) with
  | some p => some (p.1, (if p.1 = i then j else 0), p.2)
  | none => ls.head?.map (fun p => (p.1, 0, p.2))

/-- A replica's waybill against its owner's (R478, R479): where they differ, logged and counted, and the sector is fetched from the owner,
which first checks its own. DEDUCED: notes/assumptions/93. -/
def replicaCompared (s : State) (sec : Nat) (owner : Nat) : State :=
  let s1 := count s REP_COUNT_2 REP_COUNT_2_audited
  if heldBill s sec = owner then s1
  else match otherCopy s1 sec with
    | none => s1
    | some (dev, a) =>
      let s2 := logAppend (count s1 REP_COUNT_2 REP_COUNT_2_replica_diff) repairLog 13 (sectorSite s sec 2)
        (BitVec.ofNat 64 (sec * 256)) (BitVec.ofNat 64 (toGlobal dev a))
      let s3 := if dev = selfId s then ownerChecks s2 (a / 256) else s2
      let s4 := modFab s3 (fun f => { f with ownerBill := smSet f.ownerBill sec owner })
      refetchFrom (if dev = selfId s then auditedBits s4 sec (peek s4 a 256) else s4) sec dev a .audit

/-- The answers of owners to questions for their waybills are taken (R478). -/
def billsIn (s : State) : State :=
  s.fab.bills.foldl (fun s b => match b.2 with
    | some d => replicaCompared s b.1 (leNat (d.take 4))
    | none => s) (modFab s (fun f => { f with bills := [] }))

/-- Replica audit by a keeper (R478): the answers that have come, then the next sector of its cycle, whose owner is asked for its waybill.
DESIGN CHOICE: notes/assumptions/102. -/
def replicaAudit (s0 : State) (k : Nat) : State :=
  let s := billsIn s0
  let at_ := smGet 0 s.rep.leaseCur k
  match nextReplica s (at_ / 2 ^ 40) (at_ % 2 ^ 40) with
  | none => s
  | some (i, j, le) =>
    let s1 := modRep s (fun r => { r with leaseCur := smPut 0 r.leaseCur k (i * 2 ^ 40 + j + 1) })
    let sec := le.replica / 256 + j
    let a := le.set + 256 * j
    if le.dev = selfId s then (if a < userEnd then replicaCompared s1 sec (heldBill s1 (a / 256)) else s1)
    else if rdb s CWY_SELF_ID CWY_SELF_ID_id_valid then
      ask s1 { who := .bill sec, dst := le.dev, type := 1, op := 0, len := 4, addr := a, body := .empty, why := .audit }
    else s1

/-- REP_STAT_CLEAR (R482). -/
def repStatClear (s : State) : State :=
  wrf (wr (wr (wr s REP_COUNT_0 0) REP_COUNT_1 0) REP_COUNT_2 0) REP_SELFTEST REP_SELFTEST_failures 0

/-- REP_STAT_CLEAR. -/
def execRepStatClear (s : State) : Out := .next (powered s (repStatClear s))

end Sys2Proof.Machine
end

