-- ==== Sys2Proof/Machine/Reset.lean ====
section
/-! DEFINITION. Losing power, resetting the device, and beginning a boot attempt (R488 to R492, R503, R563, R566 to R568). -/

namespace Sys2Proof.Machine

/-- Change the boot sequencer. -/
def modBoot (s : State) (f : Boot → Boot) : State := { s with boot := f s.boot }

/-- The contents of the stacks become unspecified, those of every other memory zero (R488, R489). -/
def memLost (s : State) : State :=
  let (n, s1) := takeFree s
  { s1 with mem := { base := some n, lostPcs := s.mem.lostPcs, gone := s.mem.gone } }

/-- Every rail but the 6 V bus, VDD_RB, VDD_IO and VDD_SERDES turns off (R489, Table 16-4): what the cores, Verge, the Kerb dies
and the stacks hold is gone, the hold area with it (R488). The management firmware has stopped: an attempt starts management core 0
from the boot ROM (Table 15-2 step 3). -/
def railsOff (s : State) : State :=
  let s1 := memLost s
  { s1 with cores := [], slices := [], halves := [], reqs := [], engines := [], train := {}, atn := {}, audit := {}, pow := {}
            host := { s1.host with holdQ := [], outQ := [] }, sec := { s1.sec with running := false } }

/-- The registers that a device reset keeps: those loaded again from fuses and the non-volatile store (R29, R488, R513,
R533), the straps, and PWR_BOOT, for the retry loop that may go on (Table 15-5, `attemptNow`). -/
def keptReg (off : Nat) : Bool :=
  (decide (0xA10000 ≤ off) && decide (off < 0xA19000)) ||
  (decide (REP_STACK 0 ≤ off) && decide (off < REP_STACK 36)) || off == REP_STATUS ||
  (decide (0x410000 ≤ off) && decide (off < 0x419000) && decide (0x10 ≤ off % 0x100)) ||
  off == PWR_STRAP || off == PWR_BOOT || off == SEC_FUSE || off == SEC_IDENT

/-- A device reset (Table 15-5): all logic and every register; the non-volatile record, the pins, and the boot sequencer's count
stay. An installation under way leaves its slot empty (R532). DEDUCED: notes/assumptions/82. -/
def deviceReset (s0 : State) : State :=
  let (n, s) := takeFree s0
  let b := s.boot
  let r := s.rep
  let x := s.sec
  let svn := match x.install with
    | some _ => smErase x.svn (1 - x.active)
    | none => x.svn
  let image := match x.install with
    | some _ => smErase x.image (1 - x.active)
    | none => x.image
  let s1 : State := { cfg := s.cfg.filter (fun e => keptReg e.1)
                      mem := { base := some n, lostPcs := s.mem.lostPcs, gone := s.mem.gone }
                      rep := { retired := r.retired, pendRet := r.pendRet, tsvFailed := r.tsvFailed, tsvSpared := r.tsvSpared
                               lost := r.lost, groups := r.groups, replaced := r.replaced, halfWidth := r.halfWidth }
                      boot := { pg := b.pg, rstLow := b.rstLow, perst := b.perst, straps := b.straps, sampled := b.sampled
                                wall := b.wall + now s, began := b.began, trip := b.trip, cooling := b.cooling
                                vrLow := b.vrLow, tripNv := b.tripNv }
                      thermal := s.thermal
                      sec := { active := x.active, marked := x.marked, svn := svn, image := image }
                      nextId := s.nextId, free := s.free, out := s.out, pending := s.pending }
  let s2 := (upto 36).foldl (fun s k => wrf s (REP_STACK k) REP_STACK_pointer 0) s1
  vrLevel (wrf s2 REP_STATUS REP_STATUS_refused 0)

/-- The wall clock of the boot sequencer in ns. DEDUCED: notes/assumptions/81. -/
def wallNow (s : State) : Nat := s.boot.wall + now s

/-- The wait before attempt n, in seconds (R491). -/
def backoffOf (n : Nat) : Nat := if n < 2 then 0 else min (2 ^ (n - 2)) 60

/-- The nanoseconds of the wait under way that are left. -/
def waitLeft (s : State) : Nat := s.boot.until_ - wallNow s

/-- PWR_BOOT as a read shows it (R491, Table 16-4 step 5): wait_s counts down once per second while the sequencer waits, and while the
restart count runs. DEDUCED: notes/assumptions/81. -/
def bootWord (s : State) : Word :=
  if bootState s = 1 ∨ (bootState s = 3 ∧ s.boot.cooling = true) then
    setf (rd s PWR_BOOT) PWR_BOOT_wait_s ((waitLeft s + 10 ^ 9 - 1) / 10 ^ 9)
  else rd s PWR_BOOT

/-- An attempt begins now (R489): step 1, or step 2 where the Roadbed rails are already up. Attempt 1 begins a retry loop, and PWR_BOOT
with it (R511). DEDUCED: notes/assumptions/81. -/
def attemptNow (s0 : State) (n : Nat) : State :=
  let s := if n = 1 then wr s0 PWR_BOOT 0 else s0
  let s1 := wrf (wrf (wrf s PWR_BOOT PWR_BOOT_attempt n) PWR_BOOT PWR_BOOT_state 0) PWR_BOOT PWR_BOOT_wait_s 0
  modBoot s1 (fun b => { b with step := if b.sampled then 2 else 1, began := some (wallNow s), waits := false })

/-- The sequencer waits before the attempt after the present one (R491). -/
def backoff (s : State) : State :=
  let n := rdf s PWR_BOOT PWR_BOOT_attempt + 1
  modBoot (wrf (wrf s PWR_BOOT PWR_BOOT_state 1) PWR_BOOT PWR_BOOT_wait_s (backoffOf n))
    (fun b => { b with step := 0, until_ := wallNow s + backoffOf n * 10 ^ 9 })

/-- An attempt is due (R491): it continues the count when the previous one began within 60 s, and then waits; otherwise it is
attempt 1. While SYS_RESET_N is low it waits for the rising edge (R563). DEDUCED: notes/assumptions/81. -/
def beginAttempt (s : State) : State :=
  if !s.boot.pg then s
  else if s.boot.rstLow then modBoot s (fun b => { b with waits := true })
  else
    match s.boot.began with
    | some t => if wallNow s ≤ t + 60 * 10 ^ 9 then backoff (modBoot s (fun b => { b with waits := false })) else attemptNow s 1
    | none => attemptNow s 1

/-- An attempt fails at its step with a cause (R489, R492). -/
def failAttempt (s : State) (cause : Nat) : State :=
  let s1 := wrf (wrf (railsOff s) PWR_BOOT PWR_BOOT_last_step s.boot.step) PWR_BOOT PWR_BOOT_cause cause
  let s2 := backoff s1
  emit s2 (.uart (.bootFail (rdf s2 PWR_BOOT PWR_BOOT_attempt) s.boot.step cause (rdf s2 PWR_BOOT PWR_BOOT_wait_s)))

/-- A loss of power (R488, R567): as a device reset, and nothing is powered until CARRIER_PG rises; the registers are those of
power-up. -/
def execPowerLoss (s : State) : Out :=
  let s1 := deviceReset (modBoot s (fun b => { b with pg := false }))
  let s2 := wr (wr s1 PWR_BOOT 0) PWR_STRAP 0
  .next { s2 with boot := { rstLow := s.boot.rstLow, perst := s.boot.perst, vrLow := s.boot.vrLow, tripNv := s.boot.tripNv }, thermal := {} }

/-- POWER_GOOD (R566): attempt 1 begins, or waits for SYS_RESET_N. DESIGN CHOICE: notes/assumptions/7. -/
def execPowerGood (straps : BitVec 5) (s : State) : Out :=
  .next (if s.boot.pg then s else beginAttempt (vrLevel (modBoot s (fun b => { b with pg := true, straps := straps.toNat }))))

/-- A device reset followed by a boot attempt (Table 15-5, R491). -/
def resetAndBoot (s : State) : State := beginAttempt (deviceReset s)

/-- PWR_RESET_DEVICE (R510, R492): the key must be 0xA5. While the device is waiting, in a thermal shutdown too (Table 16-4 step 4), it
ends the wait and attempt 1 starts at once. DEDUCED: notes/assumptions/81. -/
def pwrResetDevice (s : State) (key : Nat) : State :=
  if key ≠ 0xA5 ∨ !s.boot.pg then s
  else if bootState s = 2 then resetAndBoot s
  else
    let s1 := if s.boot.trip then modBoot (emit s (.pin 1 true)) (fun b => { b with trip := false, cooling := false }) else s
    attemptNow (modBoot (deviceReset s1) (fun b => { b with began := none })) 1

/-- PWR_RESET_DEVICE. -/
def execPwrResetDevice (key : BitVec 8) (s : State) : Out := .next (pwrResetDevice s key.toNat)

/-- SYS_RESET (R563, R568): a device reset; the device stays in reset while the pin is low. During a thermal shutdown the shutdown
proceeds. -/
def execSysReset (s : State) : Out :=
  .next (
    let s1 := modBoot s (fun b => { b with rstLow := true })
    if !s.boot.pg || bootState s == 3 then s1
    else modBoot (wrf (deviceReset s1) PWR_BOOT PWR_BOOT_state 0) (fun b => { b with waits := true }))

/-- SYS_RESET_RELEASE (R563): the rising edge begins a boot attempt. -/
def execSysResetRelease (s : State) : Out :=
  .next (
    let s1 := modBoot s (fun b => { b with rstLow := false })
    if s.boot.waits then beginAttempt s1 else s1)

/-- BOOT_BACKOFF_EXPIRY (R491). -/
def execBootBackoffExpiry (s : State) : Out :=
  .next (if bootState s = 1 then
      attemptNow (advanceTo s (now s + waitLeft s)) (rdf s PWR_BOOT PWR_BOOT_attempt + 1)
    else s)

/-- BOOT_STEP_TIMEOUT (R489): the step under way fails its check or its time bound. -/
def execBootStepTimeout (cause : Nat) (s : State) : Out := .next (if s.boot.step = 0 then s else failAttempt s cause)

end Sys2Proof.Machine
end

