-- ==== Sys2Proof/Machine/Thermal.lean ====
section
/-! DEFINITION. Thermal management (chapter 16): sampling, failed sensors, the thermal allowance, DRAM bands, throttling, shutdown
and restart. Temperatures are in units of 1/16 °C, rates in 1/16 °C per ms. -/

namespace Sys2Proof.Machine

/-- The number of sensors (R514). -/
def numSensors : Nat := 1076

/-- A temperature in °C in units of 1/16 °C. -/
def degC (t : Int) : Int := 16 * t

/-- The throttle ceiling of a class (Table 16-1). -/
def throttleCeiling : Nat → Int
  | 1 => degC 95
  | 2 => degC 100
  | _ => degC 105

/-- The shutdown ceiling of a class. -/
def shutdownCeiling (cls : Nat) : Int := throttleCeiling cls + degC 10

/-- The restart threshold of a class. -/
def restartBelow : Nat → Int
  | 1 => degC 55
  | 2 => degC 55
  | _ => degC 60

/-- The neighbours of a sensor (Table 16-2). -/
def neighbours (i : Nat) : List Nat :=
  match sensorClass i with
  | 0 => [if i % 2 = 0 then i + 1 else i - 1, 900 + i / 2]
  | 1 =>
    let d := (i - 288) % 16
    (if d = 0 then [] else [i - 1]) ++ (if d = 15 then [] else [i + 1])
  | 2 => [288 + 16 * (i - 864) + 15]
  | 3 => [2 * (i - 900), 2 * (i - 900) + 1]
  | _ =>
    let j := i - 1044
    [1044 + (j + 31) % 32, 1044 + (j + 1) % 32]

/-- Whether a sensor has failed. -/
def sensorFailed (s : State) (i : Nat) : Bool := rdb s (THM_SENSOR i) THM_SENSOR_failed

/-- The reading a sensor shows. -/
def sensorTemp (s : State) (i : Nat) : Int := sextN 16 (rdf s (THM_SENSOR i) THM_SENSOR_temp)

/-- The rate a sensor shows. -/
def sensorRate (s : State) (i : Nat) : Int := sextN 16 (rdf s (THM_SENSOR i) THM_SENSOR_rate)

/-- A sensor fails (R516). -/
def failSensor (s : State) (i : Nat) : State :=
  if sensorFailed s i then s
  else
    let s1 := wrb s (THM_SENSOR i) THM_SENSOR_failed true
    raiseLevel (count s1 THM_COUNT THM_COUNT_sensor_failures) 13 THM_STATUS THM_STATUS_sensor_failed

/-- Whether a sample fails its sensor (R516): the check code, the range, or a jump of more than 2 °C. -/
def badSample (r : Int) (prev : Option Int) (code : Bool) : Bool :=
  code || decide (r < degC (-40)) || decide (degC 150 < r) ||
  (match prev with
   | some p => decide (degC 2 < r - p) || decide (degC 2 < p - r)
   | none => false)

/-- The hottest of some sensors, the first among equals. -/
def hottestOf (rs : List (Nat × Int)) : Option (Nat × Int) :=
  rs.foldl (fun best r => match best with
    | none => some r
    | some b => if b.2 < r.2 then some r else some b) none

/-- What a failed sensor reads (R516): the hottest working neighbour, else the hottest working sensor of its class, plus 10 °C;
150 °C where none works. The rate is that of the sensor that supplies the reading. -/
def substitute (temps : List (Nat × Int × Int)) (i : Nat) : Int × Int :=
  let near := temps.filter (fun t => (neighbours i).contains t.1)
  let cls := temps.filter (fun t => sensorClass t.1 == sensorClass i)
  let pick (l : List (Nat × Int × Int)) : Option (Int × Int) :=
    (hottestOf (l.map (fun t => (t.1, t.2.1)))).bind (fun h => (l.find? (fun t => t.1 == h.1)).map (fun t => (t.2.1 + degC 10, t.2.2)))
  (pick near).getD ((pick cls).getD (degC 150, 0))

/-- The throttle begins (R520), with its cause. -/
def throttle (s : State) (cause : Nat) : State :=
  let s1 := if rdb s THM_STATUS THM_STATUS_throttle then s
    else raiseLevel (count (wrb s THM_STATUS THM_STATUS_throttle true) THM_COUNT THM_COUNT_throttles) 14 THM_STATUS
      THM_STATUS_throttled
  let s2 := if rdb s THM_STATUS THM_STATUS_throttle then s1 else wrf s1 THM_STATUS THM_STATUS_throttle_cause cause
  lowestState s2

/-- The lower bound of a DRAM band (Table 16-3). -/
def bandFloor : Nat → Int
  | 0 => degC (-1000)
  | 1 => degC 65
  | 2 => degC 80
  | _ => degC 90

/-- The band of a reading by Table 16-3. -/
def bandOf (t : Int) : Nat := if bandFloor 3 ≤ t then 3 else if bandFloor 2 ≤ t then 2 else if bandFloor 1 ≤ t then 1 else 0

/-- The band a stack is to be in (R518): up when the reading reaches a bound, down only 3 °C below the present band's bound. -/
def bandWanted (band : Nat) (t : Int) : Nat :=
  if band < bandOf t then bandOf t else if t ≤ bandFloor band - degC 3 then bandOf t else band

/-- A pending band takes effect (R519). -/
def bandApply (s : State) (k : Nat) : State :=
  let p := rdf s (THM_STACK k) THM_STACK_pending
  if p = rdf s (THM_STACK k) THM_STACK_band then s
  else count (wrf s (THM_STACK k) THM_STACK_band p) THM_COUNT THM_COUNT_band_changes

/-- Order 5 of Table 02-4: every pending band takes effect. -/
def bandsAtMilestone (s : State) : State := (upto 36).foldl bandApply s

/-- The reading of a stack's hottest DRAM die. -/
def hottestDie (s : State) (k : Nat) : Int :=
  ((upto 16).map (fun d => sensorTemp s (288 + 16 * k + d))).foldl max (degC (-2000))

/-- A sample's band decision for a stack (R518, R519): pending until the next milestone, or at once while milestones are not running. A
rise that a sample has decided is not taken back before it takes effect; a later sample may raise it. A pending fall gives way to what
the latest sample decides. DEDUCED: notes/assumptions/82. -/
def bandSample (s : State) (k : Nat) : State :=
  let t := hottestDie s k
  let b := rdf s (THM_STACK k) THM_STACK_band
  let p := rdf s (THM_STACK k) THM_STACK_pending
  let s1 := wrf s (THM_STACK k) THM_STACK_pending (if b < p then max p (bandWanted b t) else bandWanted b t)
  if milestonesRun s then s1 else bandApply s1 k

/-- A thermal shutdown (R522, R523, Table 16-4 steps 1 to 4): THERM_TRIP_N is driven low, the clocks go to the lowest state, then the
rails turn off, THM_LAST_TRIP is written to the non-volatile store, and the ports fail. Keep state does not survive it. -/
def shutdown (s : State) (cause i : Nat) : State :=
  let n := getf s.boot.tripNv THM_LAST_TRIP_shutdowns
  let t := sensorTemp s i
  let trip := putf THM_LAST_TRIP_shutdowns (min (n + 1) 0xFFFF) + putf THM_LAST_TRIP_cause cause + putf THM_LAST_TRIP_sensor i +
    putf THM_LAST_TRIP_temp (wrapN 16 t) + putf THM_LAST_TRIP_rate (wrapN 16 (sensorRate s i))
  let s1 := wr (railsOff (lowestState (emit s (.pin 1 false)))) THM_LAST_TRIP (BitVec.ofNat 64 trip)
  let s2 := wrf (wrf s1 PWR_BOOT PWR_BOOT_state 3) PWR_BOOT PWR_BOOT_wait_s 0xFFFF
  let s3 := wr (wrf s2 MON_STATUS MON_STATUS_baud 115200) HST_KEEP_STATUS 0
  let s4 := clearIf s3 (fun o => (upto 36).any (fun p => o == CWY_PORT_STATUS p))
  emit (modBoot { s4 with fab := {} } (fun b => { b with step := 0, trip := true, cooling := false, rb := 0, tripNv := BitVec.ofNat 64 trip }))
    (.uart (.thermal cause i t))

/-- While shut down: the 60 s count runs as long as every sensor is below its restart threshold (Table 16-4 step 5). -/
def coolingSample (s : State) : State :=
  if (upto numSensors).all (fun i => decide (sensorTemp s i < restartBelow (sensorClass i))) then
    if s.boot.cooling then s
    else modBoot (wrf s PWR_BOOT PWR_BOOT_wait_s 60)
      (fun b => { b with cooling := true, until_ := wallNow s + 60 * 10 ^ 9 })
  else modBoot (wrf s PWR_BOOT PWR_BOOT_wait_s 0xFFFF) (fun b => { b with cooling := false })

/-- The reading and the rate that a sensor shows. -/
def putSensor (s : State) (i : Nat) (t r : Int) : State :=
  wrf (wrf s (THM_SENSOR i) THM_SENSOR_temp (wrapN 16 t)) (THM_SENSOR i) THM_SENSOR_rate (wrapN 16 r)

/-- Every failed sensor shows its substitute (R516), and the fields that follow from the readings follow them (R525, R527). -/
def replaceFailed (s : State) : State :=
  let good := ((upto numSensors).filter (fun i => !sensorFailed s i)).map (fun i => (i, sensorTemp s i, sensorRate s i))
  let s1 := ((upto numSensors).filter (sensorFailed s)).foldl
    (fun s i => putSensor s i (substitute good i).1 (substitute good i).2) s
  let hot := (hottestOf ((upto numSensors).map (fun i => (i, sensorTemp s1 i)))).getD (0, 0)
  let s2 := wrf (wrf s1 THM_STATUS THM_STATUS_hottest_sensor hot.1) THM_STATUS THM_STATUS_hottest_t (wrapN 16 hot.2)
  let s3 := wrf s2 THM_STATUS THM_STATUS_failed_count ((upto numSensors).filter (sensorFailed s)).length
  (upto 36).foldl (fun s k => wrf s (THM_STACK k) THM_STACK_hottest_die (wrapN 16 (hottestDie s k))) s3

/-- The re-test of step 3 of an attempt (R516): the sensors it finds failed join those that have failed. -/
def retestSensors (s : State) (failed : List Nat) : State :=
  replaceFailed ((failed.filter (· < numSensors)).foldl failSensor s)

/-- The readings and rates of a sample are put into the sensor registers (R514 to R516). -/
def takeSample (s : State) (readings : List (Nat × Int)) (badCode : List Nat) : State :=
  let h := s.thermal.hist
  let prev := h.head?
  let raw : SMap Int := readings.foldl (fun m r => smPut 0 m r.1 r.2) (prev.getD [])
  let old := if 10 ≤ h.length then h.getLast? else none
  let s1 := (upto numSensors).foldl (fun s i =>
    if badSample (smGet 0 raw i) (prev.map (fun p => smGet 0 p i)) (badCode.contains i) then failSensor s i else s) s
  let s2 := ((upto numSensors).filter (fun i => !sensorFailed s1 i)).foldl (fun s i =>
    putSensor s i (smGet 0 raw i) (match old with
      | some o => smGet 0 raw i - smGet 0 o i
      | none => 0)) s1
  let s5 := replaceFailed s2
  { s5 with thermal := { s5.thermal with hist := (raw :: h).take 10 } }

/-- THERMAL_SAMPLE (R514 to R523): sample, then shutdown before throttle before bands. Sensors need VDD_RB.
DEDUCED: notes/assumptions/82. -/
def execThermalSample (readings : List (Nat × Int)) (badCode : List Nat) (s : State) : Out :=
  .next (
    if !s.boot.sampled then s
    else
      let s1 := takeSample s readings badCode
      if bootState s = 3 then coolingSample s1
      else
        let all := upto numSensors
        match all.find? (fun i => decide (degC 5 ≤ sensorRate s1 i)) with
        | some i => shutdown s1 1 i
        | none => match all.find? (fun i => decide (shutdownCeiling (sensorClass i) ≤ sensorTemp s1 i)) with
          | some i => shutdown s1 2 i
          | none =>
            let s2 := if all.any (fun i => decide (degC 2 ≤ sensorRate s1 i)) then throttle s1 1
              else if all.any (fun i => decide (throttleCeiling (sensorClass i) ≤ sensorTemp s1 i)) then throttle s1 2 else s1
            (upto 36).foldl bandSample s2)

/-- Whether the release conditions of R520 hold on the latest sample. -/
def mayRelease (s : State) : Bool :=
  (upto numSensors).all (fun i => decide (sensorRate s i < degC 1) &&
    decide (sensorTemp s i ≤ throttleCeiling (sensorClass i) - degC 3))

/-- THROTTLE_END (R520): the conditions have held for 1 ms; normal clocks return at the next milestone, or at once when
milestones are not running. -/
def execThrottleEnd (s : State) : Out :=
  .next (
    if rdb s THM_STATUS THM_STATUS_throttle && mayRelease s then
      let s1 := wrb s THM_STATUS THM_STATUS_throttle false
      if !milestonesRun s && lowestOver s1 (now s) then normalClocks s1 else s1
    else s)

/-- BAND_PENDING_TIMEOUT (R519): a rise has been pending for 2 ms. -/
def execBandPendingTimeout (s : State) : Out :=
  .next (
    if (upto 36).any (fun k => decide (rdf s (THM_STACK k) THM_STACK_band < rdf s (THM_STACK k) THM_STACK_pending)) then
      if rdb s THM_STATUS THM_STATUS_throttle then s
      else throttle (count s THM_COUNT THM_COUNT_band_late) 3
    else s)

/-- RESTART_COUNT_EXPIRY (Table 16-4 step 6): THERM_TRIP_N is released and a device reset begins an attempt. -/
def execRestartCountExpiry (s : State) : Out :=
  .next (
    if bootState s = 3 ∧ s.boot.cooling = true then
      resetAndBoot (modBoot (emit (advanceTo s (now s + waitLeft s)) (.pin 1 true)) (fun b => { b with trip := false, cooling := false }))
    else s)

/-- THM_STAT_CLEAR (R525). -/
def execThmStatClear (s : State) : Out := .next (powered s (wr s THM_COUNT 0))

/-- The thermal allowance at the start of a service slot (R517): T_c over the cluster's two sensors and its slice. -/
def thermalAllowance (s : State) : State :=
  let start : Int := degC (rdf s THM_CTRL THM_CTRL_alw_start)
  (upto 144).foldl (fun s c =>
    let t := max (max (sensorTemp s (2 * c)) (sensorTemp s (2 * c + 1))) (sensorTemp s (900 + c))
    let up := ((t - start + 15) / 16).toNat
    wrf s (THM_ALLOW (c / 8)) ⟨8 * (c % 8), 8⟩ (if t ≤ start then 12 else 12 - up)) s

end Sys2Proof.Machine
end

