-- ==== Sys2Proof/Machine/Boot.lean ====
section
/-! DEFINITION. The steps of a boot attempt (R489, Table 15-2) and the authentication of firmware (R531, Table 17-4). -/

namespace Sys2Proof.Machine

/-- Change the management complex. -/
def modSec (s : State) (f : Sec → Sec) : State := { s with sec := f s.sec }

/-- The verdict of R530 on a slot: none where it holds no image, 0 where the image passes. -/
def verdictOf (b : BootIn) (slot : Nat) : Option Nat := if slot = 0 then b.verdictA else b.verdictB

/-- The slot that Table 17-4 boots, and whether it is the fallback; none where no slot passes. -/
def chooseSlot (s : State) (b : BootIn) : Option (Nat × Bool) :=
  let first := s.sec.marked.getD s.sec.active
  if verdictOf b first = some 0 then some (first, false)
  else if verdictOf b (1 - first) = some 0 then some (1 - first, true) else none

/-- Measurements 1 to 4 of Table 17-5. DEDUCED: notes/assumptions/90. -/
def bootMeasurement (s : State) (i : Nat) : Nat :=
  match i with
  | 1 => Config.measurement 1 0
  | 2 => ((smFind? s.sec.image s.sec.active).map (·.1)).getD (Config.measurement 2 s.sec.active)
  | 3 => ((smFind? s.sec.image s.sec.active).map (·.2)).getD (Config.measurement 3 s.sec.active)
  | _ => Config.sha384 (bytesOf 8 (rd s SEC_FUSE).toNat ++ bytesOf 8 (rd s SEC_IDENT).toNat)

/-- The alias key is derived (R534): from the digest of measurements 1 to 4 as they are at this boot. -/
def deriveAlias (s : State) : State :=
  modSec s (fun x => { x with aliasOf := Config.sha384 ([1, 2, 3, 4].flatMap (fun i => bytesOf 48 (bootMeasurement s i))) })

/-- A slot has passed (Table 17-4 step 5): it becomes active, the alias key is derived and the firmware runs. Where it is the fallback, the check that the
slot tried first failed is reported (R530). DEDUCED: notes/assumptions/90. -/
def bootSlot (s : State) (b : BootIn) (slot : Nat) (fallback : Bool) : State :=
  let svn := if slot = 0 then b.svnA else b.svnB
  let s1 := modSec s (fun x => { x with
    active := slot, running := true, marked := if x.marked = some slot then none else x.marked
    svn := smSet (smSet x.svn 0 b.svnA) 1 b.svnB })
  let w := if fallback then setf (rd s1 SEC_STATUS) SEC_STATUS_reason ((verdictOf b (1 - slot)).getD 0) else rd s1 SEC_STATUS
  deriveAlias <| wr s1 SEC_STATUS (setf (setf (setb (setb w SEC_STATUS_fallback fallback) SEC_STATUS_next_valid s1.sec.marked.isSome)
    SEC_STATUS_booted_slot slot) SEC_STATUS_running_svn svn)

/-- Whether every sensor reads below its restart threshold (R523). -/
def coolEnough (s : State) : Bool :=
  (upto numSensors).all (fun i => decide (sensorTemp s i < restartBelow (sensorClass i)))

/-- The lanes that the test of step 8 found failed, group by group (R475, R476): spares replace the first four, and a group with more
goes to half width and is logged; none where a group has more than half width allows. -/
def bootLanes (s : State) (ls : List (Nat × List Nat)) : Option State :=
  if ls.any (fun l => decide (36 < l.2.length)) then none
  else some (ls.foldl (fun s l =>
    groupAtMilestone (modRep s (fun r => { r with groups := smPut [] r.groups l.1 l.2 })) l.1 l.2) s)

/-- The attempt goes on to its next step; before step 5 every sensor must be cool enough (R523). -/
def nextStep (s : State) : State :=
  let s1 := modBoot s (fun b => { b with step := b.step + 1 })
  if s1.boot.step = 5 ∧ ¬ coolEnough s1 = true then failAttempt s1 7 else s1

/-- Every enabled port goes to Detect (Table 12-4). DEDUCED: notes/assumptions/63. -/
def enabledPorts (s : State) : State :=
  (upto 36).foldl (fun s p => if rdb s (CWY_PORT_CTRL p) CWY_PORT_CTRL_enable then detectPort s p else s) s

/-- A step of the attempt completes (Table 15-2). A device that has not run fabric bring-up is its own root (R54, R73). -/
def bootStep (s : State) (b : BootIn) : State :=
  match s.boot.step with
  | 1 =>
    let s1 := modBoot s (fun x => { x with sampled := true })
    nextStep (if s.boot.sampled then s1
      else wrf (wrf s1 PWR_STRAP PWR_STRAP_pcie_sep (bitsN s.boot.straps 4 4)) PWR_STRAP PWR_STRAP_smb_addr (bitsN s.boot.straps 2 0))
  | 3 =>
    let s1 := wr (retestSensors s b.failedSens) THM_LAST_TRIP s.boot.tripNv
    nextStep (modBoot (modSec s1 (fun x => { x with running := false })) (fun x => { x with released := true }))
  | 4 =>
    match chooseSlot s b with
    | some (slot, fb) => nextStep (bootSlot s b slot fb)
    | none => failAttempt s 3
  | 7 => nextStep (coreMapsAtMilestone s)
  | 8 =>
    match bootLanes s b.lanes with
    | some s1 => nextStep s1
    | none => failAttempt s 5
  | 9 =>
    let s0 := modPow (wrf s PWR_BOOT PWR_BOOT_state 2) (fun p => { p with on := true })
    let s1 := wrb (enabledPorts s0) MST_STATUS MST_STATUS_is_root true
    emit (modBoot s1 (fun x => { x with step := 0 })) (.uart (.bootReady (rdf s PWR_BOOT PWR_BOOT_attempt)))
  | n => if 0 < n ∧ n < 9 then nextStep s else s

/-- BOOT_STEP_DONE (R489). DESIGN CHOICE: notes/assumptions/7. -/
def execBootStepDone (b : BootIn) (s : State) : Out := .next (bootStep s b)

/-- PERST_RELEASE (R566): PERST# is deasserted; the link may train once step 3 has been reached. -/
def execPerstRelease (s : State) : Out := .next (modBoot s (fun b => { b with perst := false }))

end Sys2Proof.Machine
end

