-- ==== Sys2Proof/Machine/Fabric.lean ====
section
/-! DEFINITION. Fabric bring-up (R394, Table 12-5) and the election of the root (R55, R56, R401). DEDUCED: notes/assumptions/65, 66. -/

namespace Sys2Proof.Machine

/-! ### The root -/

/-- Whether one candidate beats another (R55). -/
def beats (a b : Candidate) : Bool :=
  if a.tickInput ≠ b.tickInput then a.tickInput
  else if a.prio ≠ b.prio then decide (b.prio < a.prio)
  else decide (a.dev < b.dev)

/-- The candidates of an election: those announced, and this device if it takes part, which it does not in keep state (R446). -/
def candidates (s : State) (cands : List Candidate) : List Candidate :=
  let others := cands.filter (fun c => c.dev != selfId s)
  if rdb s MST_CTRL MST_CTRL_root_candidate && decide (keepState s < 2) then
    ⟨selfId s, tickInput s, rdf s MST_CTRL MST_CTRL_elect_priority, stageNow s⟩ :: others
  else others

/-- The winner of an election (R55). -/
def electionWinner (cs : List Candidate) : Option Candidate :=
  cs.foldl (fun (b : Option Candidate) c =>
    match b with
    | none => some c
    | some w => if beats c w then some c else b) none

/-- The highest stage any device has reached (R56). -/
def highestStage (s : State) (cands : List Candidate) : Nat := cands.foldl (fun a c => max a c.stage) (stageNow s)

/-- The hops from this device to the root on the route of R396. -/
def hopsToRoot (s : State) : Nat :=
  ((upto 6).map (fun d =>
    let n := ringOf s d
    let δ := (coordOf s.fab.root d + n - coordOf (selfId s) d) % n
    min δ (n - δ))).sum

/-- The outcome of an election is known (R55): the root and the hops to it (Table 12-14), none where no device is a candidate. -/
def elected (s : State) (w : Option Candidate) : State :=
  match w with
  | none => raiseLevel (wrf (wrb (modFab s (fun f => { f with noRoot := true })) MST_STATUS MST_STATUS_is_root false) CWY_TIME CWY_TIME_hops 0)
      7 MST_STATUS MST_STATUS_no_root
  | some c =>
    let s1 := wrb (modFab s (fun f => { f with root := c.dev, noRoot := false })) MST_STATUS MST_STATUS_is_root (c.dev == selfId s)
    wrb (wrf s1 CWY_TIME CWY_TIME_hops (hopsToRoot s1)) MST_STATUS MST_STATUS_tick_external (c.dev == selfId s && tickInput s)

/-- The milestones of a root begin (R73): stage 0 is timed from now, if milestones are enabled and none has fired; nothing of a former
timing of it stands. -/
def timeFirst (s : State) : State :=
  if rdb s MST_CTRL MST_CTRL_enable && stageNow s == 0 then
    modFab (modMst s (fun m => { m with
        joined := true, opened := now s, due := if tickInput s then none else some (now s + periodNs s), sampled := false
        slotOn := false, slotOver := false, late := [], seen := false, cleared := none, changed := none, clearAt := none
        release := none, told := none, hold := false, limitHit := false }))
      (fun f => { f with lateFor := none, clears := [], sentClr := false })
  else s

/-- The stage is held as if stretched by a late that every device has seen (R56): clears of it are taken, and late goes out on the Active
ports for those that have not. -/
def holdStage (s : State) : State :=
  let s1 := modFab (seeLate s) (fun f => { f with lateFor := some (stageNow s), clears := [], sentClr := false })
  floodLate s1 none (stageNow s)

/-- A new root goes on from the highest stage that any device has reached (R56, R73): one that has fired milestones holds the one that is
next, whose S, where the lost root had announced none and no MS_TICK times it, is its nominal time, or, once that is less than L away, L
from now, as when the mode leaves input (R61); one that has only been enabled, with no S of its own, takes the moment of its election for
S; one not enabled does so once it is enabled. DESIGN CHOICE: notes/assumptions/103. -/
def continueStages (s : State) (h : Nat) : State :=
  let n := some ((h + 1) % 2 ^ 48)
  let l := leadNs s
  if !rdb s MST_CTRL MST_CTRL_enable then modMst s (fun m => { m with told := n })
  else if s.mst.joined then
    let due := if s.mst.due.isSome || tickInput s then s.mst.due else some (if now s + l ≤ nominal s then nominal s else now s + l)
    tryClear (holdStage (modMst s (fun m => { m with due := due, told := n, hold := false })))
  else tryClear (holdStage (modMst s (fun m => { m with
    joined := true, opened := now s, due := some (now s), sampled := true, late := [], seen := false, told := n })))

/-- The election that ends bring-up (R55, R73): a new root times the first milestone, or continues the stages of the system. -/
def electAtBringup (s : State) (cands : List Candidate) : State :=
  let s1 := elected s (electionWinner (candidates s cands))
  if !rdb s1 MST_STATUS MST_STATUS_is_root then
    if s1.fab.noRoot then s1 else modMst s1 (fun m => { m with joined := m.joined && decide (0 < stageNow s1) })
  else
    let h := highestStage s1 cands
    if 0 < h ∧ h ≠ stageNow s1 then continueStages s1 h else timeFirst s1

/-- ROOT_LOST (R56, R401): the remaining candidates elect a new root. Until it announces, the next milestone is held as if
stretched, by a remote device; the new root goes on from the highest stage any device has reached. root_change is set also where no
candidate is left to elect, which the spec leaves open. DESIGN CHOICE: notes/assumptions/103. -/
def rootLost (s : State) (cands : List Candidate) : State :=
  if !inFabric s || isRoot s then s
  else
    let old := s.fab.root
    let s1 := raiseLevel (elected s (electionWinner (candidates s cands))) 5 MST_STATUS MST_STATUS_root_change
    let me := rdb s1 MST_STATUS MST_STATUS_is_root
    let s2 := modFab s1 (fun f => { f with clears := [], sentClr := false, lateFor := if member s then some (stageNow s) else f.lateFor })
    let h := highestStage s1 cands
    let s3 := if member s then modMst (seeLate s2) (fun m => { m with hold := !me, changed := some (if me then old else 0x3FFFF) })
      else s2
    if me then (if h = 0 then timeFirst s3 else continueStages s3 h)
    else if member s then tryClear s3 else s3

/-- ROOT_LOST. DEDUCED: notes/assumptions/67. -/
def execRootLost (cands : List Candidate) (s : State) : Out := .next (rootLost s cands)

/-! ### Bring-up (Table 12-5) -/

/-- The state of bring-up (Table 12-12). -/
def fabricState (s : State) : Nat := rdf s CWY_FABRIC_STATUS CWY_FABRIC_STATUS_state
/-- Put bring-up into a state. -/
def setFabricState (s : State) (n : Nat) : State := wrf s CWY_FABRIC_STATUS CWY_FABRIC_STATUS_state n

/-- Bring-up is in progress (R412). -/
def bringingUp (s : State) : Bool := decide (1 ≤ fabricState s) && decide (fabricState s ≤ 4)

/-- The Active ports. -/
def activePorts (s : State) : List Nat := (upto 36).filter (portActive s)

/-- FABRIC_START (R394, R412, R503): steps 1 and 2; ignored while bring-up is in progress. -/
def fabricStart (s : State) : State :=
  if bringingUp s then s
  else
    let s1 := wr (wrb s CWY_SELF_ID CWY_SELF_ID_id_valid false) CWY_FABRIC_STATUS 0
    let s2 := modFab (setFabricState s1 1) (fun f => { f with lowUid := none, coords := none, coordsBy := [], members := [] })
    enabledPorts s2

/-- FABRIC_START. -/
def execFabricStart (s : State) : Out := .next (powered s (fabricStart s))

/-- Send a bring-up frame on every Active port but one: kind 0 a UID, 1 a port and coordinates, 2 a member count. -/
def floodBringup (s : State) (but : Option Nat) (args : Nat → List Nat) : State :=
  ((activePorts s).filter (fun p => some p ≠ but)).foldl (fun s p => sendControl s p 4 (args p)) s

/-- BRINGUP_PORTS_SETTLED (steps 2 and 3): a device with no Active port takes ID 0; any other floods the lowest UID it knows. -/
def execBringupPortsSettled (s : State) : Out :=
  .next (
    let settled := (upto 36).all (fun p => !rdb s (CWY_PORT_CTRL p) CWY_PORT_CTRL_enable ||
      [1, 5, 7, 8].contains (portState s p))
    if fabricState s ≠ 1 ∨ settled = false ∨ s.fab.coords.isSome = true then s
    else if activePorts s = [] then
      modFab (wrf s CWY_SELF_ID CWY_SELF_ID_device_id 0) (fun f => { f with coords := some 0 })
    else
      let own := rd s CWY_UID
      let low := match s.fab.lowUid with
        | some u => if u.toNat < own.toNat then u else own
        | none => own
      floodBringup (modFab (setFabricState s 2) (fun f => { f with lowUid := some low })) none (fun _ => [0, low.toNat]))

/-- This device takes coordinates (steps 4 and 6): it sends them over every Active port, by which its partners derive theirs or check
this one, and tells the origin that it is a member. -/
def takeCoords (s : State) (c : Nat) : State :=
  let s1 := modFab (wrf s CWY_SELF_ID CWY_SELF_ID_device_id c) (fun f => { f with coords := some c, members := f.members ++ [c] })
  floodBringup (floodBringup s1 none (fun p => [1, p, c])) none (fun _ => [3, c])

/-- A member is heard of (step 6): new to this device, it is passed on towards the origin. The spec does not say how the members are
counted to the origin. DESIGN CHOICE: notes/assumptions/109. -/
def memberIn (s : State) (p dev : Nat) : State :=
  if (fabricState s = 2 ∨ fabricState s = 3) ∧ s.fab.members.contains dev = false then
    floodBringup (modFab s (fun f => { f with members := f.members ++ [dev] })) (some p) (fun _ => [3, dev])
  else s

/-- ORIGIN_SETTLED (steps 3 and 4): the device with the lowest UID is the origin and takes coordinates 0. -/
def execOriginSettled (s : State) : Out :=
  .next (
    if fabricState s ≠ 2 then s
    else
      let s1 := setFabricState s 3
      if s.fab.lowUid = some (rd s CWY_UID) ∧ s.fab.coords = none then takeCoords s1 0 else s1)

/-- The coordinates that a device derives from those its neighbour sends over a port (step 4, as Table 12-5 words it).
DEDUCED: notes/assumptions/66. -/
def derive_ (s : State) (p c : Nat) : Nat :=
  let n := ringOf s (portDim p)
  withCoord c (portDim p) ((coordOf c (portDim p) + (if portPlus p then 1 else n - 1)) % n)

/-- Coordinates arrive over a port (steps 4 and 5): taken, or compared with those held. -/
def coordsIn (s : State) (p c : Nat) : State :=
  let x := derive_ s p c
  let s1 := modFab s (fun f => { f with coordsBy := f.coordsBy.filter (fun q => q.1 != p) ++ [(p, c)] })
  match s.fab.coords with
  | none => takeCoords s1 x
  | some y =>
    if x = y then s1
    else
      let bad := p :: (s.fab.coordsBy.filter (fun q => q.1 != p && derive_ s q.1 q.2 == y)).map (·.1)
      let s2 := bad.foldl (fun s q => wr s (CWY_PORT_ERR q) (BitVec.ofNat 64 (0x80 * 2 ^ 56 + stageNow s % 2 ^ 48))) s1
      wrf (setFabricState s2 6) CWY_FABRIC_STATUS CWY_FABRIC_STATUS_error 1

/-- Every Active port checks its partner (step 6, R395). -/
def checkPartners (s : State) : State :=
  (activePorts s).foldl (fun s p =>
    match s.fab.coordsBy.find? (fun q => q.1 == p) with
    | some q =>
      let r := partnerCheck s p (rdf s CWY_FABRIC_CFG CWY_FABRIC_CFG_ring_m1) (rdf s (CWY_PORT_PARTNER p) CWY_PORT_PARTNER_port) (some q.2)
      if r = 0 then s else portGone (setPortState s p 7 r) p
    | none => s) s

/-- A member count arrives (step 6): kept and passed on once. -/
def countIn (s : State) (p m : Nat) : State :=
  if fabricState s = 3 ∧ s.fab.coords.isSome = true then
    floodBringup (checkPartners (wrf (setFabricState s 4) CWY_FABRIC_STATUS CWY_FABRIC_STATUS_members m)) (some p) (fun _ => [2, m])
  else s

/-- The words that a bring-up frame carries. -/
def bringupWords : BringupInfo → Nat
  | .coords _ _ => 3
  | _ => 2

/-- BRINGUP_FRAME (R394): after bring-up it is a violation (Table 12-7 code 8). -/
def bringupIn (s : State) (p : Nat) (b : BringupInfo) : State :=
  if !portActive s p then s
  else if fabricState s = 5 then
    violateFrame s p 8 (hdrWord0 (partnerHdr s p 4 (bringupWords b)))
  else match b with
    | .uid u =>
      if fabricState s = 1 ∨ fabricState s = 2 then
        let lower := match s.fab.lowUid with
          | some l => decide (u.toNat < l.toNat)
          | none => true
        if lower then
          let s1 := modFab s (fun f => { f with lowUid := some u })
          if fabricState s = 2 then floodBringup s1 (some p) (fun _ => [0, u.toNat]) else s1
        else s
      else s
    | .coords q c =>
      if (fabricState s = 2 ∨ fabricState s = 3 ∨ fabricState s = 4) ∧ portDim q = portDim p ∧ portPlus q ≠ portPlus p ∧
          knownDevice s c = true then coordsIn s p c
      else s
    | .member d => if knownDevice s d then memberIn s p d else s
    | .count m => countIn s p m

/-- BRINGUP_FRAME. -/
def execBringupFrame (p : Nat) (b : BringupInfo) (s : State) : Out := onPort p (controlIn s p (partnerHdr s p 4 (bringupWords b)) (fun s => bringupIn s p b))

/-- The product of the ring sizes. -/
def fabricSize (s : State) : Nat := (upto 6).foldl (fun a d => a * ringOf s d) 1

/-- The devices of this device's fabric (R412). -/
def fabricDevices (s : State) : Nat := if inFabric s then fabricSize s else 1

/-- BRINGUP_COMPLETE (steps 6 to 8), on a device alone, on the origin, and on another once the count has reached it: the origin's
count goes out, the ID becomes valid, the fabric is up, the root is elected,
and the root records the late-propagation time: the longest late flood, and the longest clear and release paths (R400). -/
def bringupComplete (s : State) (lateFlood clearRelease : Nat) (cands : List Candidate) : State :=
  let alone := fabricState s == 1
  let origin := s.fab.lowUid == some (rd s CWY_UID)
  if s.fab.coords = none ∨ ¬ (alone = true ∨ (fabricState s = 3 ∧ origin = true) ∨ fabricState s = 4) then s
  else
    let m := if alone then 1 else if origin then s.fab.members.length else rdf s CWY_FABRIC_STATUS CWY_FABRIC_STATUS_members
    let s1 := if fabricState s = 3 then checkPartners s else s
    let s2 := if fabricState s = 3 then floodBringup s1 none (fun _ => [2, m]) else s1
    let s3 := wrb s2 CWY_SELF_ID CWY_SELF_ID_id_valid true
    let s4 := wrf (setFabricState s3 5) CWY_FABRIC_STATUS CWY_FABRIC_STATUS_members m
    let s5 := wrb s4 CWY_FABRIC_STATUS CWY_FABRIC_STATUS_incomplete (decide (m < fabricSize s4))
    let s6 := if alone then wrb (modFab s5 (fun f => { f with root := selfId s5, noRoot := false })) MST_STATUS MST_STATUS_is_root true
      else electAtBringup s5 cands
    let s7 := wrf s6 CWY_TIME CWY_TIME_hops (if s6.fab.noRoot then 0 else hopsToRoot s6)
    if rdb s7 MST_STATUS MST_STATUS_is_root then wrf s7 CWY_TIME CWY_TIME_late_prop_ns ((lateFlood + clearRelease + 9) / 10 * 10) else s7

/-- BRINGUP_COMPLETE. -/
def execBringupComplete (lateFlood clearRelease : Nat) (cands : List Candidate) (s : State) : Out :=
  .next (bringupComplete s lateFlood clearRelease cands)

end Sys2Proof.Machine
end

