-- ==== Sys2Proof/Machine/Collective.lean ====
section
/-! DEFINITION. Collectives (R404 to R411): records and queues, ring steps and direct steps, pieces and their acknowledgements.
A piece travels in frames of at most 512 bytes of its data (R388), each with its place in the piece.
DEDUCED: notes/assumptions/68. -/

namespace Sys2Proof.Machine

/-! ### The group (R406) -/

/-- The size of a group. -/
def groupSize (s : State) (mask : Nat) : Nat := (maskDims mask).foldl (fun a d => a * ringOf s d) 1

/-- The rank of this device in its group. -/
def ownRank (s : State) (mask : Nat) : Nat :=
  ((maskDims mask).foldl (fun (a : Nat × Nat) d => (a.1 + coordOf (selfId s) d * a.2, a.2 * ringOf s d)) (0, 1)).1

/-- The coordinate of a rank in a dimension of the mask. -/
def rankCoord (s : State) (mask q d : Nat) : Nat :=
  q / ((maskDims mask).filter (fun e => decide (e < d))).foldl (fun a e => a * ringOf s e) 1 % ringOf s d

/-- Whether a reduce-scatter's chunks are summed where they stand (R406): dst is src, or the caller's own chunk of src. -/
def inPlace (s : State) (k : CollKey) (src dst : Nat) : Bool := dst == src || dst == src + ownRank s k.mask * k.c

/-- Where a collective keeps chunk q on this device (R406, R408): chunk q of dst, into which the caller's own chunk is copied before
anything is added, or, for a reduce-scatter in place, of src. DEDUCED: notes/assumptions/68. -/
def chunkHome (s : State) (c : Coll) (q : Nat) : Nat :=
  (if c.key.op = 1 && inPlace s c.key c.src c.dst then c.src else c.dst) + q * c.key.c

/-! ### Steps (R407) -/

/-- The steps of a collective on this device: (phase, dimension, step); phase 0 reduce-scatter, 1 all-gather, 2 direct. -/
def collSteps (s : State) (k : CollKey) : List (Nat × Nat × Nat) :=
  let ring (ph : Nat) (ds : List Nat) : List (Nat × Nat × Nat) :=
    ds.flatMap (fun d => (upto (ringOf s d - 1)).map (fun t => (ph, d, t + 1)))
  let up := maskDims k.mask
  match k.op with
  | 1 => ring 0 up
  | 2 => ring 1 up.reverse
  | 3 => ring 0 up ++ ring 1 up.reverse
  | 4 => if groupSize s k.mask ≤ 1 then [] else [(2, 0, 0)]
  | _ => (upto (groupSize s k.mask - 1)).map (fun t => (2, 0, t + 1))

/-- The chunks of a block: those whose coordinate in dimension d is v, with this device's coordinates in the lower ones. -/
def blockChunks (s : State) (mask d v : Nat) : List Nat :=
  (upto (groupSize s mask)).filter (fun q => rankCoord s mask q d == v &&
    ((maskDims mask).filter (fun e => decide (e < d))).all (fun e => rankCoord s mask q e == coordOf (selfId s) e))

/-- The sizes of three pieces of a half of u units of 256 bytes, the lower ones larger (R407). -/
def cut3 (u : Nat) : List Nat := [(u + 2) / 3, (u + 1) / 3, u / 3]

/-- The place of a piece in a chunk of U units: its first unit and its units. The first half of the chunk goes plus, the second
minus (R407); a direct chunk is cut whole. -/
def pieceUnits (U : Nat) (direct : Bool) (dir i : Nat) : Nat × Nat :=
  let first := if direct then U else (U + 1) / 2
  let u := if dir = 0 then first else U - first
  let base := if dir = 0 then 0 else first
  (base + ((cut3 u).take i).sum, (cut3 u).getD i 0)

/-- The block that a member at coordinate x of a ring of n sends in a step, by phase and direction. -/
def blockSent (n x ph dir t : Nat) : Nat :=
  let back := if ph = 0 then t else t - 1
  if dir = 0 then (x + n - back % n) % n else (x + back) % n

/-- The addresses and lengths of a range of bytes of a list of chunks. -/
def chunkRange (s : State) (c : Coll) (chunks : List Nat) (off len : Nat) : List (Nat × Nat) :=
  chunks.zipIdx.filterMap (fun p =>
    let lo := max off (p.2 * c.key.c)
    let hi := min (off + len) ((p.2 + 1) * c.key.c)
    if lo < hi then some (chunkHome s c p.1 + (lo - p.2 * c.key.c), hi - lo) else none)

/-- Where a piece lies on this device: read at its sender (`out`), written at its receiver. Empty where it has no bytes. -/
def pieceAt (s : State) (c : Coll) (q : PieceId) (out : Bool) : List (Nat × Nat) :=
  let k := c.key
  if q.phase < 2 then
    let n := ringOf s q.dim
    let me := coordOf (selfId s) q.dim
    let from_ := if out then me else if q.dir = 0 then (me + n - 1) % n else (me + 1) % n
    let cs := blockChunks s k.mask q.dim (blockSent n from_ q.phase q.dir q.step)
    let (o, u) := pieceUnits (cs.length * k.c / 256) false q.dir q.piece
    chunkRange s c cs (o * 256) (u * 256)
  else
    let (o, u) := pieceUnits (k.c / 256) true 0 q.piece
    let base := if k.op = 4 then (if out then c.src else c.dst)
      else if out then c.src + q.dim * k.c else c.dst + q.step * k.c
    if u = 0 then [] else [(base + o * 256, u * 256)]

/-- The pieces of a chunk that have bytes. -/
def withBytes (s : State) (c : Coll) (out : Bool) (qs : List PieceId) : List PieceId :=
  qs.filter (fun q => pieceAt s c q out != [])

/-- The names of the six pieces of a ring step. -/
def ringPieces (id ph d t : Nat) : List PieceId :=
  [0, 1].flatMap (fun dir => (upto 3).map (fun i => ⟨id, ph, d, t, dir, i⟩))

/-- The pieces that a step sends from this device. A direct piece names the receiver's rank as its dimension and the sender's
as its step. -/
def stepSends (s : State) (c : Coll) (st : Nat × Nat × Nat) : List PieceId :=
  let r := ownRank s c.key.mask
  let G := groupSize s c.key.mask
  let to_ (q : Nat) : List PieceId := (upto 3).map (fun i => ⟨c.id, 2, q, r, 0, i⟩)
  withBytes s c true (
    if st.1 < 2 then ringPieces c.id st.1 st.2.1 st.2.2
    else if c.key.op = 4 then (if c.key.root = r then ((upto G).filter (· ≠ r)).flatMap to_ else [])
    else to_ ((r + st.2.2) % G))

/-- The pieces that a step waits for. -/
def stepExpects (s : State) (c : Coll) (st : Nat × Nat × Nat) : List PieceId :=
  let r := ownRank s c.key.mask
  let G := groupSize s c.key.mask
  let by_ (q : Nat) : List PieceId := (upto 3).map (fun i => ⟨c.id, 2, r, q, 0, i⟩)
  withBytes s c false (
    if st.1 < 2 then ringPieces c.id st.1 st.2.1 st.2.2
    else if c.key.op = 4 then (if c.key.root = r then [] else by_ c.key.root)
    else by_ ((r + G - st.2.2 % G) % G))

/-- The device to which a piece goes. -/
def pieceDst (s : State) (c : Coll) (q : PieceId) : Nat :=
  if q.phase < 2 then neighbour s (selfId s) q.dim (q.dir == 0) else devOfRank s c.key.mask q.dim

/-! ### Opening and ending -/

/-- The collective of an ID. -/
def findColl (s : State) (id : Nat) : Option Coll := s.fab.colls.find? (fun c => c.id == id)

/-- Put a collective in place of the one of its ID. -/
def putColl (s : State) (c : Coll) : State :=
  modFab s (fun f => { f with colls := f.colls.map (fun x => if x.id = c.id then c else x) })

/-- Write the status record of a collective (R411). -/
def collStatus (s : State) (a id code : Nat) : State :=
  if a = 0 then s
  else (engineWrite s none a (wordBytes [BitVec.ofNat 64 (code * 2 ^ 56 + id % 2 ^ 32), BitVec.ofNat 64 (stageNow s)])).2

/-- A collective ends with a status (R411). -/
def endColl (s : State) (c : Coll) (code : Nat) : State :=
  let s1 := modFab s (fun f => { f with
    colls := f.colls.filter (fun x => x.id != c.id), ended := f.ended.filter (· ≠ c.id) ++ [c.id]
    early := f.early.filter (fun e => e.q.id != c.id) })
  let s2 := collStatus s1 c.status c.id code
  lateSettle (if code = 0 then count s2 CWY_COUNT CWY_COUNT_coll_done else count s2 CWY_COUNT CWY_COUNT_coll_failed)

/-- Every open collective ends with aborted (R411): at the milestone that enters keep state. -/
def abortColls (s : State) : State := s.fab.colls.foldl (fun s c => endColl s c 6) s

/-- A step whose pieces have come is over, and the inputs of the next are held (R409); after the last, once every own piece is
acknowledged, the collective is done. -/
def advanceColl (s : State) (id : Nat) : State :=
  match findColl s id with
  | none => s
  | some c =>
    match (collSteps s c.key)[c.pos]? with
    | none => if c.unacked.isEmpty then endColl s c 0 else s
    | some st =>
      if c.running && (stepExpects s c st).all (fun q => c.got.contains q) then
        let c1 := { c with pos := c.pos + 1, running := false }
        if c1.pos ≥ (collSteps s c.key).length ∧ c1.unacked.isEmpty = true then endColl (putColl s c1) c1 0 else putColl s c1
      else s

/-! ### Pieces -/

/-- The header of a frame of a piece or of its acknowledgement (Table 12-3). -/
def pieceHdr (s : State) (q : PieceId) (type cls len dst status : Nat) : FrameHdr :=
  mkHdr s type cls len dst 0 (q.id % 256) status
    (q.phase * 2 ^ 40 + q.dim * 2 ^ 22 + q.step * 2 ^ 4 + q.dir * 2 ^ 3 + q.piece)

/-- The bytes of a piece, read through Verge (R408). A sector that gives no data goes out as memory holds it.
DESIGN CHOICE: notes/assumptions/105. -/
def pieceBytes (s : State) (c : Coll) (q : PieceId) : List Byte × State :=
  (pieceAt s c q true).foldl (fun (r : List Byte × State) seg =>
    match engineRead r.2 .requester seg.1 seg.2 with
    | (some e, s2) => (r.1 ++ e, s2)
    | (none, s2) => let (d, s3) := freeBytes s2 seg.2; (r.1 ++ d, s3)) ([], s)

/-- Cut l bytes from address a on where a 512-byte-aligned block ends: places, from o on, and lengths. -/
def cutBlocks : Nat → Nat → Nat → Nat → List (Nat × Nat)
  | 0, _, _, _ => []
  | f + 1, a, l, o =>
    if l = 0 then []
    else
      let n := min l (512 - a % 512)
      (o, n) :: cutBlocks f (a + n) (l - n) (o + n)

/-- The frames of a piece that lies at these addresses here (R388): places in it and their bytes, each within one 512-byte-aligned
block. -/
def frameCuts (segs : List (Nat × Nat)) (d : List Byte) : List (Nat × List Byte) :=
  ((segs.foldl (fun (r : List (Nat × Nat) × Nat) g => (r.1 ++ cutBlocks (g.2 / 512 + 2) g.1 g.2 r.2, r.2 + g.2)) ([], 0)).1).map
    (fun c => (c.1, (d.drop c.1).take c.2))

/-- The port on which a frame of a piece leaves and its header there: that of the piece's direction and number (R407), or, where it is
not Active, any on its way (R397). -/
def pieceRoute (s : State) (k : CollKey) (q : PieceId) (h : FrameHdr) : Option (Nat × FrameHdr) :=
  let p := portOfPiece s k q
  if portActive s p then some (p, { h with vc := hopVc s h none (portDim p) (portPlus p) }) else routeOf s h none

/-- Send a piece in its frames. -/
def sendPiece (s : State) (c : Coll) (q : PieceId) : State :=
  let (d, s1) := pieceBytes s c q
  (frameCuts (pieceAt s c q true) d).foldl (fun s f =>
    let h := pieceHdr s q 5 3 f.2.length (pieceDst s c q) 0
    match pieceRoute s c.key q h with
    | some (p, h1) => putOnPort s p ⟨h1, .piece q c.key f.1 f.2, none, none⟩
    | none => countDropped s) s1

/-- Acknowledge a piece to its sender, with a status (R408, R411). -/
def ackPiece (s : State) (h : FrameHdr) (q : PieceId) (status : Nat) : State :=
  sendPlain s (pieceHdr s q 6 2 0 h.src status) (.ack q) none none

/-- The places on this device of the bytes [off, off + n) of a piece: addresses and lengths. -/
def placesOf : List (Nat × Nat) → Nat → Nat → List (Nat × Nat)
  | [], _, _ => []
  | (a, l) :: r, off, n =>
    if l ≤ off then placesOf r (off - l) n
    else if n ≤ l - off then (if n = 0 then [] else [(a + off, n)])
    else (a + off, l - off) :: placesOf r 0 (n - (l - off))

/-- Write or add the bytes of a frame of a piece at their places (R408). -/
def placePiece (s : State) (c : Coll) (q : PieceId) (off : Nat) (d : List Byte) : State :=
  ((placesOf (pieceAt s c q false) off d.length).foldl (fun (r : List Byte × State) seg =>
    let now_ := r.1.take seg.2
    let s1 := if q.phase = 0 then
        (sectorPieces (now_.length + 1) seg.1 now_).foldl (fun s p => reduceAt s c.key.dtype c.key.epoch p.1 p.2) r.2
      else (sysWrite r.2 .engine seg.1 now_).2
    (r.1.drop seg.2, s1)) (d, s)).2

/-- Whether every frame of a piece has been taken. -/
def pieceWhole (s : State) (c : Coll) (q : PieceId) : Bool :=
  ((pieceAt s c q false).map (·.2)).sum ≤ ((c.parts.filter (fun x => x.1 == q)).map (·.2.2)).sum

/-- A frame of a piece that has reached this device (R408, R411, R506): kept until its record is posted and the caller's own data is in
place; dropped for a collective that has ended; a mismatch ends the collective on both devices; a second copy is only acknowledged.
The piece is acknowledged once it is whole. -/
def pieceIn (s : State) (port : Nat) (h : FrameHdr) (q : PieceId) (k : CollKey) (off : Nat) (d : List Byte) : State :=
  match findColl s q.id with
  | none =>
    if s.fab.ended.contains q.id then countDropped s
    else modFab s (fun f => { f with early := f.early ++ [⟨port, h, q, k, off, d⟩] })
  | some c =>
    if k ≠ c.key then endColl (ackPiece s h q 3) c 2
    else if c.got.contains q then ackPiece s h q 0
    else if !c.copied then modFab s (fun f => { f with early := f.early ++ [⟨port, h, q, k, off, d⟩] })
    else if c.parts.any (fun x => x.1 == q && x.2.1 == off) then s
    else
      let c1 := { c with parts := c.parts ++ [(q, off, d.length)] }
      let s1 := placePiece s c q off d
      if pieceWhole s c1 q then
        advanceColl (ackPiece (putColl s1 { c1 with got := c.got ++ [q], parts := c1.parts.filter (fun x => x.1 != q) }) h q 0) q.id
      else putColl s1 c1

/-- The pieces that came early for a collective are taken now. -/
def takeEarly (s : State) (id : Nat) : State :=
  let mine := s.fab.early.filter (fun e => e.q.id == id)
  mine.foldl (fun s e => pieceIn s e.port e.h e.q e.k e.off e.d)
    (modFab s (fun f => { f with early := f.early.filter (fun e => e.q.id != id) }))

/-- COLLECTIVE_FRAME (R408). -/
def execCollectiveFrame (port : Nat) (h : FrameHdr) (q : PieceId) (k : CollKey) (x : PieceBytes) (s : State) : Out :=
  onPort port (if typeFits h 5 then
    lateSettle (frameIn s port h (.piece q k x.off x.data) x.data.length (fun s => pieceIn s port h q k x.off x.data)) else s)

/-- An acknowledgement has come: the piece is done; a refused one ends the collective with mismatch (R409, R411). -/
def ackIn (s : State) (h : FrameHdr) (q : PieceId) : State :=
  match findColl s q.id with
  | none => s
  | some c =>
    if !c.unacked.contains q then s
    else if h.status ≠ 0 then endColl s c 2
    else lateSettle (advanceColl (putColl s { c with unacked := c.unacked.filter (· ≠ q) }) q.id)

/-- COLLECTIVE_ACK (R409). -/
def execCollectiveAck (port : Nat) (h : FrameHdr) (q : PieceId) (s : State) : Out :=
  onPort port (if typeFits h 6 then frameIn s port h (.ack q) h.length (fun s => ackIn s h q) else s)

/-! ### Starting steps (R409) -/

/-- Whether the timing of R409 lets a step of these pieces start now. -/
def stepFits (s : State) (c : Coll) (qs : List PieceId) : Bool :=
  let longest := (qs.map (fun q => ((pieceAt s c q true).map (·.2)).sum)).foldl max 0
  let point := (s.mst.due.getD (nominal s)) - leadNs s
  if rdb s MST_CTRL MST_CTRL_enable && s.mst.joined then
    decide (c.start ≤ stageNow s) && !s.mst.sampled && decide (now s + (longest + 99) / 100 + 1000 ≤ point)
  else c.start == 0

/-- The caller's own data is put in place (R408): its chunk of an all-gather or an all-to-all, the root's of a
broadcast, all chunks of a reduce-scatter or an all-reduce. -/
def copyOwn (s : State) (c : Coll) : State :=
  let r := ownRank s c.key.mask
  let n := c.key.c
  let mv (s : State) (a b len : Nat) : State :=
    if a = b then s
    else match engineRead s .requester a len with
      | (some d, s1) => (sysWrite s1 .engine b d).2
      | (none, s1) => let (d, s2) := freeBytes s1 len; (sysWrite s2 .engine b d).2
  match c.key.op with
  | 1 => mv s c.src (chunkHome s c 0) (groupSize s c.key.mask * n)
  | 2 => mv s c.src (c.dst + r * n) n
  | 3 => mv s c.src c.dst (groupSize s c.key.mask * n)
  | 4 => if c.key.root = r then mv s c.src c.dst n else s
  | _ => mv s (c.src + r * n) (c.dst + r * n) n

/-- Whether a step's pieces wait at a port whose service slot is guaranteed and under way (R67). -/
def portHeld (s : State) (c : Coll) (qs : List PieceId) : Bool := qs.any (fun q => heldBySlot s (18612 + portOfPiece s c.key q))

/-- COLLECTIVE_STEP_START (R409): the step whose inputs are held starts, if its stage allows it; a piece with no route ends the
collective with unreachable. -/
def stepStart (s : State) (id : Nat) : State :=
  match findColl s id with
  | none => s
  | some c =>
    if c.running || decide (keepState s ≥ 2) || s.boot.rb != 0 then s
    else match (collSteps s c.key)[c.pos]? with
      | none =>
        if stepFits s c [] then advanceColl (putColl (if c.copied then s else copyOwn s c) { c with copied := true }) id else s
      | some st =>
        let qs := stepSends s c st
        if !stepFits s c qs || portHeld s c qs then s
        else if qs.any (fun q => (pieceRoute s c.key q (pieceHdr s q 5 3 0 (pieceDst s c q) 0)).isNone) then endColl s c 3
        else
          let s1 := if c.copied then s else copyOwn s c
          let c1 := { c with copied := true, running := true, stage := stageNow s, unacked := c.unacked ++ qs }
          let s2 := qs.foldl (fun s q => sendPiece s c1 q) (putColl s1 c1)
          advanceColl (takeEarly s2 id) id

/-- COLLECTIVE_STEP_START. -/
def execCollectiveStepStart (id : Nat) (s : State) : Out := .next (stepStart s id)

/-- COLLECTIVE_TIMEOUT (R411): a member that has waited too long for an expected piece. -/
def execCollectiveTimeout (id : Nat) (s : State) : Out :=
  .next (match findColl s id with
    | none => s
    | some c =>
      match (collSteps s c.key)[c.pos]? with
      | some st => if (stepExpects s c st).all (fun q => c.got.contains q) then s else endColl s c 4
      | none => s)

/-! ### Records and queues (R404, R405) -/

/-- A ring of records in user stack memory: its base, whether it is enabled, its size. -/
structure RingCfg where
  base   : Nat
  enable : Bool
  log2   : Nat
deriving DecidableEq, Repr

/-- A collective queue's ring. -/
def cqRing (s : State) (i : Nat) : RingCfg :=
  ⟨rdf s (CWY_CQ_BASE i) ATN_RING_BASE_base * 64, rdb s (CWY_CQ_CTRL i) CWY_CQ_CTRL_enable, rdf s (CWY_CQ_CTRL i) CWY_CQ_CTRL_size_log2⟩

/-- What a ring holds for its reader (R375): nothing new, more than it can hold, or the record at the consumer count. -/
inductive RingGet where
  | empty | overrun
  | record (consumer : Nat) (d : List Byte)
deriving DecidableEq, Repr

/-- Whether a ring's header and records lie in user stack memory (R43, R44, R375). -/
def RingCfg.placed (r : RingCfg) : Bool := rangeOk .engine r.base (64 + 2 ^ r.log2 * 64) && decide (r.base < userEnd)

/-- Read a ring's counts and its next record, through the Verge slices (R369, R375). A ring that does not lie in user stack memory is
refused as a whole and gives nothing. DESIGN CHOICE: notes/assumptions/105. -/
def ringNext (s : State) (r : RingCfg) : RingGet :=
  if !r.placed then .empty else
  let prod := (seenWord s r.base).toNat
  let cons := (seenWord s (r.base + 8)).toNat
  let ahead := (prod + 2 ^ 64 - cons) % 2 ^ 64
  if ahead = 0 then .empty
  else if ahead > 2 ^ r.log2 then .overrun
  else .record cons (seen s (r.base + 64 + cons % 2 ^ r.log2 * 64) 64)

/-- What reading a ring leaves (R369): its header, and the record that is next. -/
def ringRead (s : State) (r : RingCfg) : State :=
  if !r.placed then s
  else
    let s1 := afterRead s r.base 16
    match ringNext s r with
    | .record c _ => afterRead s1 (r.base + 64 + c % 2 ^ r.log2 * 64) 64
    | _ => s1

/-- Write a ring's consumer count. -/
def ringConsumed (s : State) (r : RingCfg) (n : Nat) : State :=
  if r.placed then (sysWrite s .engine (r.base + 8) (bytesOf 8 (n % 2 ^ 64))).2 else s

/-- A collective record (Table 12-8); none where R405 calls it bad. -/
def collOf (s : State) (d : List Byte) : Option Coll :=
  let w (i : Nat) : Word := wordAt d i
  let k : CollKey := { op := bits (w 0) 63 56, dtype := bits (w 0) 55 52, mask := bits (w 0) 51 46, c := (w 3).toNat
                       root := bits (w 0) 17 0, epoch := bits (w 6) 63 48 }
  let G := groupSize s k.mask
  let src := localForm s (w 1).toNat
  let dst := localForm s (w 2).toNat
  let many (b : Bool) : Nat := if b then G * k.c else k.c
  let zero := bits (w 0) 45 18 = 0 ∧ bits (w 4) 63 48 = 0 ∧ bits (w 6) 47 32 = 0 ∧ w 7 = 0
  if zero ∧ 1 ≤ k.op ∧ k.op ≤ 5 ∧ k.dtype ≤ 2 ∧ ¬ (k.dtype = 0 ∧ (k.op = 1 ∨ k.op = 3)) ∧ k.mask ≠ 0 ∧
      src % 256 = 0 ∧ dst % 256 = 0 ∧ k.c ≠ 0 ∧ k.c % 256 = 0 ∧
      src + many (k.op == 1 || k.op == 3 || k.op == 5) ≤ userEnd ∧
      dst + many (k.op == 2 || k.op == 3 || k.op == 5 || (k.op == 1 && !inPlace s k src dst)) ≤ userEnd ∧
      (if k.op = 4 then k.root < G else k.root = 0) then
    some { id := bits (w 6) 31 0, key := k, src := src, dst := dst, start := bits (w 4) 47 0
           status := localForm s (w 5).toNat }
  else none

/-- Open a collective (R404, R408): own data that is already in place needs no copy; a broadcast's other members only wait. -/
def openColl (s : State) (c : Coll) : State :=
  let r := ownRank s c.key.mask
  let waits := c.key.op == 4 && c.key.root != r
  let home := match c.key.op with
    | 1 => chunkHome s c 0 == c.src
    | 3 => c.src == c.dst
    | _ => false
  let c1 := { c with copied := home || waits, running := waits }
  takeEarly (modFab s (fun f => { f with colls := f.colls ++ [c1], ended := f.ended.filter (· ≠ c.id) })) c.id

/-- The pieces that came early for a collective that never opens are dropped and counted, as are those that come later (R411). -/
def dropEarly (s : State) (id : Nat) : State :=
  if (findColl s id).isSome then s
  else
    let s1 := modFab s (fun f => { f with ended := f.ended.filter (· ≠ id) ++ [id], early := f.early.filter (fun e => e.q.id != id) })
    (s.fab.early.filter (fun e => e.q.id == id)).foldl (fun s _ => countDropped s) s1

/-- COLLECTIVE_RECORD (R404, R405): the next record of an enabled queue is read, checked and opened. -/
def collRecord (s0 : State) (i : Nat) : State :=
  let r := cqRing s0 i
  let s := ringRead s0 r
  if i ≥ 16 ∨ !r.enable ∨ keepState s0 ≥ 2 then s0
  else match ringNext s0 r with
    | .empty => s
    | .overrun => wrb (wrb s (CWY_CQ_CTRL i) CWY_CQ_CTRL_error true) (CWY_CQ_CTRL i) CWY_CQ_CTRL_enable false
    | .record n d =>
      let s1 := ringConsumed s r (n + 1)
      let failed (code : Nat) : State :=
        let id := bits (wordAt d 6) 31 0
        dropEarly (count (collStatus s1 (localForm s1 (wordAt d 5).toNat) id code) CWY_COUNT CWY_COUNT_coll_failed) id
      match collOf s1 d with
      | none => failed 1
      | some c =>
        if (findColl s1 c.id).isSome then failed 1
        else if s1.fab.colls.length ≥ 64 then failed 5
        else if !rdb s1 CWY_SELF_ID CWY_SELF_ID_id_valid && decide (1 < groupSize s1 c.key.mask) then failed 3
        else openColl s1 c

/-- COLLECTIVE_RECORD. -/
def execCollectiveRecord (i : Nat) (s : State) : Out := .next (collRecord s i)

/-- COLLECTIVE_QUEUE_ENABLE (R404): a queue that is enabled gets a consumer count of 0. -/
def collQueueEnable (s : State) (i : Nat) : State :=
  if i ≥ 16 ∨ rdb s (CWY_CQ_CTRL i) CWY_CQ_CTRL_enable = true then s
  else
    let s1 := wrb s (CWY_CQ_CTRL i) CWY_CQ_CTRL_enable true
    ringConsumed s1 (cqRing s1 i) 0

/-- COLLECTIVE_QUEUE_ENABLE. -/
def execCollectiveQueueEnable (i : Nat) (s : State) : Out := .next (powered s (collQueueEnable s i))

end Sys2Proof.Machine
end

