-- ==== Sys2Proof/Machine/Attention.lean ====
section
/-! DEFINITION. The route walker (chapter 11): request rings, tables and their versions, walk lists, residency, page transfers,
run-ahead. DEDUCED: notes/assumptions/59. -/

namespace Sys2Proof.Machine

/-- Change the walker. -/
def modAtn (s : State) (f : Atn → Atn) : State := { s with atn := f s.atn }

/-- The requests of a ring. -/
def ringQueue (s : State) (i : Nat) : List AtnReq := smGet [] s.atn.rings i
/-- Put the requests of a ring. -/
def setQueue (s : State) (i : Nat) (q : List AtnReq) : State := modAtn s (fun a => { a with rings := smPut [] a.rings i q })
/-- Put the request at the front of a ring. -/
def setFront (s : State) (i : Nat) (r : AtnReq) : State := setQueue s i (r :: (ringQueue s i).drop 1)

/-- The table of an index. -/
def tableOf (s : State) (i : Nat) : Option RouteTable := smFind? s.atn.tables i
/-- Put a table. -/
def setTable (s : State) (i : Nat) (t : RouteTable) : State := modAtn s (fun a => { a with tables := smSet a.tables i t })

/-- The bytes of a page (R364). -/
def RouteTable.pageBytes (t : RouteTable) : Nat := 256 * (t.kb + t.vb)

/-- The image of a version (R367). -/
def RouteTable.image (t : RouteTable) (v : Nat) : Nat := if v % 2 = 1 then t.imageA else t.imageB

/-- A write of the walker to user stack memory, through the slices (R369). -/
def walkerWrite (s : State) (a : Nat) (d : List Byte) : State := (sysWrite s .engine a d).2

/-! ### Residency (R370) -/

/-- A residency record: state (0 empty, 1 clean, 2 dirty, 3 moving), pins, page, slot (Table 11-6). -/
structure Resid where
  st   : Nat
  pins : Nat
  page : Nat
  slot : Nat
deriving DecidableEq, Repr

/-- Read the residency record of a frame. -/
def residOf (s : State) (t : RouteTable) (f : Nat) : Resid :=
  let w := seenWord s (t.work + 16 * f)
  ⟨bits w 63 62, bits w 47 32, bits w 31 0, bits (seenWord s (t.work + 16 * f + 8)) 31 0⟩

/-- Write the residency record of a frame. -/
def putResid (s : State) (t : RouteTable) (f : Nat) (r : Resid) : State :=
  walkerWrite s (t.work + 16 * f)
    (bytesOf 8 (r.st % 4 * 2 ^ 62 + r.pins % 2 ^ 16 * 2 ^ 32 + r.page % 2 ^ 32) ++ bytesOf 8 (r.slot % 2 ^ 32))

/-- Whether a page is written (R370). -/
def pageWritten (s : State) (t : RouteTable) (p : Nat) : Bool :=
  bitsN (leNat (seen s (t.work + 16 * t.homes + p / 8) 1)) (p % 8) (p % 8) == 1

/-- Set or clear the written bit of a page. -/
def setWritten (s : State) (t : RouteTable) (p : Nat) (on : Bool) : State :=
  let a := t.work + 16 * t.homes + p / 8
  let b := leNat (seen s a 1)
  let cleared := b - bitsN b (p % 8) (p % 8) * 2 ^ (p % 8)
  walkerWrite s a [BitVec.ofNat 8 (cleared + if on then 2 ^ (p % 8) else 0)]

/-- Whether a page is at home. -/
def atHome (s : State) (t : RouteTable) (p : Nat) : Bool :=
  let r := residOf s t (p % t.homes)
  (r.st == 1 || r.st == 2) && r.page == p

/-- The address of a frame. -/
def RouteTable.frameAt (t : RouteTable) (f : Nat) : Nat := t.frames + f * t.pageBytes

/-- What reading the residency record of a frame leaves (R369). -/
def frameRead (s : State) (t : RouteTable) (f : Nat) : State := afterRead s (t.work + 16 * f) 16

/-- What reading the written bits of every page leaves. -/
def bitsRead (s : State) (t : RouteTable) : State := afterRead s (t.work + 16 * t.homes) ((t.pagesMax + 7) / 8)

/-- What reading an image leaves. -/
def imageRead (s : State) (a pagesMax : Nat) : State := afterRead s a (0x200 + 8 * pagesMax)

/-- What dealing with a page reads: the record of its frame, its written bit, its entry in the image of a version. -/
def pageRead (s : State) (t : RouteTable) (v p : Nat) : State :=
  afterRead (afterRead (frameRead s t (p % t.homes)) (t.work + 16 * t.homes + p / 8) 1) (t.image v + 0x200 + 8 * p) 8

/-! ### Images (R365, R366) -/

/-- The facts of an image's first word. -/
structure ImageHead where
  pattern : Nat
  w       : Nat
  count   : Nat
  length  : Nat
  zero    : Nat
deriving DecidableEq, Repr

/-- The first word of the image at an address. -/
def imageHead (s : State) (a : Nat) : ImageHead :=
  let w := seenWord s a
  ⟨bits w 63 56, bits w 55 48, bits w 47 40, bits w 23 0, bits w 39 24⟩

/-- The position of signpost slot j of an image. -/
def slotPos (s : State) (a j : Nat) : Nat := leNat (seen s (a + 0x40 + 4 * j) 4)

/-- The entry of page p of an image: its layby slot, its zero bits, whether it is present. -/
def pageEntry (s : State) (a p : Nat) : Nat × Nat × Bool :=
  let w := seenWord s (a + 0x200 + 8 * p)
  (bits w 63 32, bits w 31 1, bit w 0)

/-- Whether every byte of a range is zero. -/
def zeroBytes (s : State) (a n : Nat) : Bool := (seen s a n).all (· == 0)

/-- Whether an image is valid (R366). -/
def imageValid (s : State) (a pagesMax : Nat) : Bool :=
  let h := imageHead s a
  let ps := (upto h.count).map (slotPos s a)
  h.zero == 0 && zeroBytes s (a + 8) 0x38 && zeroBytes s (a + 0x140) 0xC0 &&
  (upto pagesMax).all (fun p => (pageEntry s a p).2.1 == 0) &&
  decide (h.pattern ≤ 3) && decide (h.count ≤ 64) && decide (h.length ≤ 256 * pagesMax) &&
  decide (h.length ≤ if h.pattern ≤ 1 then 65536 else 8388608) &&
  (if h.pattern ≤ 1 then h.count == 0 else decide (1 ≤ h.w) && decide (h.w ≤ 128) && (h.pattern == 2 || h.w % 2 == 0)) &&
  (ps.zip (ps.drop 1)).all (fun q => decide (q.1 < q.2)) && ps.all (fun p => decide (p < h.length))

/-! ### Statuses (R380) -/

/-- Write a status record; refusals are counted (Table 11-17). -/
def atnStatus (s : State) (a code value : Nat) (synced : Bool := false) (stage : Option Nat := none) : State :=
  let s1 := if a = 0 then s
    else walkerWrite s a (bytesOf 8 (code * 2 ^ 56 + (if synced then 2 ^ 32 else 0) + value % 2 ^ 32) ++
      bytesOf 8 ((stage.getD (stageNow s)) % 2 ^ 48))
  if (1 ≤ code ∧ code ≤ 8) ∨ code = 0x0A then count s1 ATN_COUNT_2 ATN_COUNT_2_refused else s1

/-- Bad requests that have reached the front of a ring are answered (R376, R377). -/
def answerBad : Nat → State → Nat → State
  | 0, s, _ => s
  | n + 1, s, i =>
    match ringQueue s i with
    | r :: q => if r.bad then answerBad n (atnStatus (setQueue s i q) r.status 4 0) i else s
    | [] => s

/-- The request at the front of a ring completes with a status and a value. -/
def endReq (s : State) (i code value : Nat) : State :=
  match ringQueue s i with
  | r :: q => answerBad (q.length + 1) (atnStatus (setQueue s i q) r.status code value) i
  | [] => s

/-! ### Rings (R375, R376) -/

/-- The ring of a number. -/
def atnRing (s : State) (i : Nat) : RingCfg :=
  ⟨rdf s (ATN_RING_BASE i) ATN_RING_BASE_base * 64, rdb s (ATN_RING_CTRL i) ATN_RING_CTRL_enable,
   rdf s (ATN_RING_CTRL i) ATN_RING_CTRL_size_log2⟩

/-- A request from its record (Table 11-7), with the check of R376 that needs no table. -/
def atnReqOf (s : State) (d : List Byte) : AtnReq :=
  let w (i : Nat) : Word := wordAt d i
  let op := bits (w 0) 63 56
  let h := bits (w 0) 31 0
  let addr := localForm s (w 1).toNat
  let args := (w 2).toNat
  let st := localForm s (w 3).toNat
  let placed (a n : Nat) : Bool := decide (a % 16 = 0) && decide (a + n ≤ userEnd)
  let zeros := bits (w 0) 55 32 = 0 ∧ bits (w 4) 63 48 = 0 ∧ w 5 = 0 ∧ w 6 = 0 ∧ w 7 = 0 ∧
    ((op = 1 ∨ op = 5) → h = 0) ∧ ((op = 2 ∨ op = 6 ∨ op = 7 ∨ op = 8) → addr = 0) ∧
    ((op = 1 ∨ op = 2 ∨ op = 5 ∨ op = 6) → args = 0)
  let range := (op = 4 → 1 ≤ args / 2 ^ 32 ∧ args / 2 ^ 32 ≤ 64) ∧
    ((op = 7 ∨ op = 8) → 1 ≤ bitsN args 62 32 ∧ bitsN args 62 32 ≤ 32768)
  let addrs := (st = 0 ∨ placed st 16 = true) ∧ ((op = 3 ∨ op = 4 ∨ op = 5) → placed addr 16 = true)
  { op := op, handle := h, addr := addr, args := args, status := st, until_ := bits (w 4) 47 0
    bad := !decide (1 ≤ op ∧ op ≤ 8 ∧ zeros ∧ range ∧ addrs) }

/-- Take the new records of a ring, one by one (R375). -/
def pollRing : Nat → State → Nat → State
  | 0, s, _ => s
  | n + 1, s, i =>
    let r := atnRing s i
    let s0 := ringRead s r
    match ringNext s r with
    | .empty => s0
    | .overrun =>
      raiseEvent (wrb (wrb s0 (ATN_RING_CTRL i) ATN_RING_CTRL_error true) (ATN_RING_CTRL i) ATN_RING_CTRL_enable false) 16
    | .record c d =>
      let s1 := setQueue (ringConsumed s0 r (c + 1)) i (ringQueue s i ++ [atnReqOf s d])
      pollRing n (answerBad 1 s1 i) i

/-- ATN_RING_POLL (R375): nothing is read while the walker or the ring is disabled, or in keep state. -/
def execAtnRingPoll (i : Nat) (s : State) : Out :=
  .next (if decide (i < 64) && rdb s ATN_CTRL ATN_CTRL_enable && (atnRing s i).enable && decide (keepState s < 2) then
      pollRing (2 ^ (atnRing s i).log2) s i else s)

/-- ATN_RING_ENABLE (R384): a ring that is enabled gets a consumer count of 0. -/
def atnRingEnable (s : State) (i : Nat) : State :=
  if i ≥ 64 ∨ rdb s (ATN_RING_CTRL i) ATN_RING_CTRL_enable = true then s
  else
    let s1 := wrb s (ATN_RING_CTRL i) ATN_RING_CTRL_enable true
    ringConsumed s1 (atnRing s1 i) 0

/-- ATN_RING_ENABLE. -/
def execAtnRingEnable (i : Nat) (s : State) : Out := .next (powered s (atnRingEnable s i))

/-- ATN_ENABLE (R382). -/
def execAtnEnable (en : Bool) (s : State) : Out := .next (powered s (wrb s ATN_CTRL ATN_CTRL_enable en))

/-- Clear the walker's counters (R382). -/
def atnStatClear (s : State) : State := clearIf s (fun o => o == ATN_COUNT_0 || o == ATN_COUNT_1 || o == ATN_COUNT_2)

/-- ATN_STAT_CLEAR. -/
def execAtnStatClear (s : State) : Out := .next (powered s (atnStatClear s))

/-! ### Transfers (R371, R373) -/

/-- Change a transfer. -/
def modMove (s : State) (id : Nat) (f : Transfer → Transfer) : State :=
  modAtn s (fun a => { a with moves := a.moves.map (fun x => if x.id = id then f x else x) })

/-- The channel through which a table's host window is translated (R375). -/
def laybyChan (s : State) (t : RouteTable) : Option Nat := chanOfHandle s (rdf s (ATN_RING_CTRL t.ring) ATN_RING_CTRL_channel)

/-- The requests of a transfer with another device (R373, R398): a Write or a Read for each sector. With no valid ID, or with no such
device, the peer is unreachable (R47). DEDUCED: notes/assumptions/80. -/
def peerMove (s : State) (id a n : Nat) (out : Option (List Byte)) : State :=
  if !rdb s CWY_SELF_ID CWY_SELF_ID_id_valid || !knownDevice s (globalDev a) then modMove s id (fun m => { m with bad := true })
  else
    let cuts := sectorPieces (n + 1) a (out.getD (List.replicate n 0))
    cuts.foldl (fun s p => ask s
      { who := .page id (p.1 - a), dst := globalDev p.1, type := if out.isSome then 2 else 1, op := 0, len := p.2.length
        addr := globalLocal p.1, body := if out.isSome then .data p.2 else .empty })
      (modMove s id (fun m => { m with left := cuts.length }))

/-- A transfer with a host window goes through the ring's channel, sector by sector (R375, R438); a refused or suspended one fails. -/
def hostMove (s : State) (id a n : Nat) (chan : Option Nat) : Option (List Byte) → State
  | some d =>
    let (ok, s1) := engineWrite s chan a d
    if ok then s1 else modMove s1 id (fun m => { m with bad := true })
  | none =>
    let fine := (sectorPieces (n + 1) a (List.replicate n 0)).all (fun p => match hostXlat s chan p.1 false with
      | .ok _ _ => true
      | _ => false)
    if fine then s else modMove s id (fun m => { m with bad := true })

/-- Start a transfer of a frame, if fewer than 64 are in flight and the device is not in keep state (R373, R374). A page of which a
sector gives no data is not sent: the transfer fails. DESIGN CHOICE: notes/assumptions/105. -/
def startMove (s : State) (ti : Nat) (t : RouteTable) (f page slot : Nat) (out : Bool) (ring next : Option Nat) : Option State :=
  if s.atn.moves.length ≥ 64 ∨ keepState s ≥ 2 then none
  else
    let r := residOf s t f
    let id := s.nextId
    let s1 := modAtn { putResid s t f { st := 3, pins := r.pins, page := page, slot := slot } with nextId := id + 1 } (fun a => { a with
      moves := a.moves ++ [{ id := id, table := ti, page := page, frame := f, slot := slot, out := out, ring := ring, next := next }] })
    let a := t.layby + slot * t.pageBytes
    let go (s : State) (d : Option (List Byte)) : State :=
      if t.kind = 0 then peerMove s id a t.pageBytes d else hostMove s id a t.pageBytes (laybyChan s t) d
    some (if out then
        (match engineRead s1 .requester (t.frameAt f) t.pageBytes with
         | (some d, s2) => go s2 (some d)
         | (none, s2) => modMove s2 id (fun m => { m with bad := true }))
      else go s1 none)

/-- What dealing with one page of a request came to. -/
inductive PageOut where
  | done (s : State)
  | wait (s : State)
  | park (s : State)

/-- Start a move and wait for it, or wait until one can start. -/
def moveOrWait (s : State) (ti : Nat) (t : RouteTable) (f page slot : Nat) (out : Bool) (ring : Nat) : PageOut :=
  .wait ((startMove s ti t f page slot out (some ring) none).getD s)

/-- READ or WRITE acquires a page (R371): pinned in its frame, displacing what stands there. -/
def acquirePage (s0 : State) (ti : Nat) (t : RouteTable) (v : Nat) (write : Bool) (ring p : Nat) : PageOut :=
  let f := p % t.homes
  let r := residOf s0 t f
  let (slot, _, _) := pageEntry s0 (t.image v) p
  let s := pageRead s0 t v p
  let fill : PageOut :=
    if write && !pageWritten s0 t p then .done (setWritten (putResid s t f ⟨2, r.pins + 1, p, slot⟩) t p true)
    else moveOrWait s ti t f p slot false ring
  match r.st with
  | 0 => fill
  | 3 => .wait s
  | _ =>
    if r.page = p then .done (putResid s t f { r with st := if write then 2 else r.st, pins := r.pins + 1 })
    else if 0 < r.pins then .park s
    else if r.st = 2 then moveOrWait s ti t f r.page r.slot true ring
    else fill

/-- PREFETCH deals with a page (R372): it skips one whose frame is pinned. -/
def prefetchPage (s0 : State) (ti : Nat) (t : RouteTable) (v ring p : Nat) : PageOut :=
  let f := p % t.homes
  let r := residOf s0 t f
  let s := pageRead s0 t v p
  if !pageWritten s0 t p || atHome s0 t p then .done s
  else if r.st = 3 then .wait s
  else if 0 < r.pins then .done s
  else if r.st = 2 then moveOrWait s ti t f r.page r.slot true ring
  else moveOrWait s ti t f p (pageEntry s0 (t.image v) p).1 false ring

/-- SPILL deals with a page (R372): the pages written or emptied grow by one where it empties a frame at once. The pins of the lists
that hold an emptied frame stay with it. -/
def spillPage (s0 : State) (ti : Nat) (t : RouteTable) (v : Nat) (drop : Bool) (ring p : Nat) : PageOut × Nat :=
  let f := p % t.homes
  let r := residOf s0 t f
  let s := pageRead s0 t v p
  if r.st = 3 ∧ r.page = p then (.wait s, 0)
  else if !atHome s0 t p then (.done (if drop && pageWritten s0 t p then setWritten s t p false else s), 0)
  else if drop then (.done (setWritten (putResid s t f ⟨0, r.pins, 0, 0⟩) t p false), 1)
  else if r.st = 2 then (moveOrWait s ti t f p r.slot true ring, 0)
  else (.done s, 0)

/-! ### Walk lists (R360 to R362, R378) -/

/-- The key blocks that query block Q sees (Table 11-2). -/
def seenBlocks (h : ImageHead) (Q : Nat) : List Nat :=
  let n := (h.length + 63) / 64
  match h.pattern with
  | 0 => upto (Q + 1)
  | 1 => upto n
  | 2 => (upto (Q + 1)).filter (fun i => decide (Q + 1 ≤ i + h.w))
  | _ => (upto n).filter (fun i => decide (Q ≤ i + h.w / 2) && decide (i + 1 ≤ Q + h.w / 2))

/-- Whether a signpost position is seen by query block Q (Table 11-2). -/
def slotSeen (h : ImageHead) (Q pos : Nat) : Bool :=
  match h.pattern with
  | 2 => decide (pos + 64 * h.w < 64 * (Q + 1))
  | 3 => decide (pos + 32 * h.w < 64 * Q) || decide (64 * Q + 32 * h.w ≤ pos)
  | _ => false

/-- The signpost slots that query block Q sees. -/
def seenSlots (s : State) (img : Nat) (h : ImageHead) (Q : Nat) : List Nat :=
  (upto h.count).filter (fun j => slotSeen h Q (slotPos s img j))

/-- The key blocks with a visit: seen, below length, of a present and written page (R361). -/
def visitBlocks (s : State) (t : RouteTable) (img : Nat) (h : ImageHead) (Q : Nat) : List Nat :=
  (seenBlocks h Q).filter (fun i => decide (64 * i < h.length) && (pageEntry s img (i / 4)).2.2 && pageWritten s t (i / 4))

/-- The pages a READ touches. -/
def readPages (s : State) (t : RouteTable) (img : Nat) (h : ImageHead) (Q : Nat) : List Nat :=
  ((visitBlocks s t img h Q).map (· / 4)).dedup

/-- An entry of a READ list for a key block (Table 11-10). -/
def readEntry (t : RouteTable) (h : ImageHead) (Q i : Nat) : List Byte :=
  let k := t.frameAt (i / 4 % t.homes) + i % 4 * 64 * t.kb
  let v := t.frameAt (i / 4 % t.homes) + 256 * t.kb + i % 4 * 64 * t.vb
  let nk := min 64 (h.length - 64 * i)
  let diag := if i = Q ∧ (h.pattern = 0 ∨ h.pattern = 2) then 1 else 0
  bytesOf 8 k ++ bytesOf 8 v ++ bytesOf 8 (64 * i * 2 ^ 32 + nk * 2 ^ 8 + diag) ++ bytesOf 8 0

/-- The bytes of a READ list (Table 11-9, Table 11-10) and whether it is empty (R359). Its visits are of the pages that the request
acquired (R377). -/
def readList (s : State) (t : RouteTable) (v Q : Nat) (pages : List Nat) : List Byte × Bool :=
  let img := t.image v
  let h := imageHead s img
  let slots := seenSlots s img h Q
  let blocks := (seenBlocks h Q).filter (fun i => decide (64 * i < h.length) && pages.contains (i / 4))
  let n := blocks.length + (if slots = [] then 0 else 1)
  let nq := min 64 (h.length - 64 * Q)
  let seen := if n = 0 then 0 else nq
  let empty := n == 0 && decide (0 < nq)
  let mask := 2 ^ 64 - 2 ^ seen
  let sign : List Byte := if slots = [] then [] else
    bytesOf 8 t.signposts ++ bytesOf 8 (t.signposts + 64 * t.kb) ++ bytesOf 8 (64 * 2 ^ 8 + 2) ++ bytesOf 8 0
  (bytesOf 8 (v % 2 ^ 32 * 2 ^ 32 + n) ++ bytesOf 8 (Q % 2 ^ 32 * 2 ^ 32 + (if empty then 128 else 0) + nq) ++ bytesOf 8 mask ++
     bytesOf 8 (stageNow s) ++ List.replicate 32 0 ++
     (upto 64).flatMap (fun j => bytesOf 4 (if slots.contains j then 0x7F800000 else 0xFF800000)) ++
     sign ++ blocks.flatMap (readEntry t h Q), empty)

/-- The bytes of a WRITE list (R378). The spec gives no value to the fields of its header that describe a query tile: they are
free. -/
def writeList (s : State) (t : RouteTable) (v p0 n free : Nat) : List Byte :=
  let unset (off len : Nat) : List Byte := (upto len).map (fun i => Config.freeByte free (off + i))
  bytesOf 8 (v % 2 ^ 32 * 2 ^ 32 + n) ++ unset 8 1 ++ [0, 0, 0] ++ bytesOf 4 p0 ++ unset 16 8 ++ bytesOf 8 (stageNow s) ++
    List.replicate 32 0 ++ unset 64 256 ++
    (upto n).flatMap (fun i =>
      let f := (p0 + i) % t.homes
      bytesOf 8 (t.frameAt f) ++ bytesOf 8 (t.frameAt f + 256 * t.kb) ++ bytesOf 8 (p0 + i) ++ bytesOf 8 0)

/-- Frames are unpinned (R379). -/
def unpin (s : State) (ti : Nat) (fs : List Nat) : State :=
  match tableOf s ti with
  | none => s
  | some t => fs.foldl (fun s f => let r := residOf s t f; putResid (frameRead s t f) t f { r with pins := r.pins - 1 }) s

/-- Run-ahead brings a page home, unpinned (R372): never waiting, never displacing a pinned frame. -/
def aheadPage (s0 : State) (ti : Nat) (t : RouteTable) (v p : Nat) : State :=
  let f := p % t.homes
  let r := residOf s0 t f
  let s := pageRead s0 t v p
  if p ≥ t.pagesMax then s0
  else if !pageWritten s0 t p ∨ atHome s0 t p = true ∨ r.st = 3 ∨ 0 < r.pins then s
  else if r.st = 2 then (startMove s ti t f r.page r.slot true none (some p)).getD s
  else (startMove s ti t f p (pageEntry s0 (t.image v) p).1 false none none).getD s

/-- Run-ahead after a READ on Q (R372). -/
def walkerAhead (s : State) (ti : Nat) (t : RouteTable) (v Q : Nat) : State :=
  let ra := rdf s ATN_CTRL ATN_CTRL_ra_blocks
  let w := (imageHead s (t.image v)).w
  let blocks := if t.lastQ = some (Q + 1) then
      (upto ra).filterMap (fun i => if Q + 1 + i < w + ra then none else some (Q + 1 + i - w - ra))
    else if Q ≠ 0 ∧ t.lastQ = some (Q - 1) then (upto ra).map (fun i => Q + 1 + i) else []
  ((blocks.map (· / 4)).dedup).foldl (fun s p => aheadPage s ti t v p) s

/-- The table of a handle, if the handle is good (R376). -/
def tableOfHandle (s : State) (h : Nat) : Option (Nat × RouteTable) :=
  match tableOf s (h % 4096) with
  | some t => if smGet 0 s.atn.gens (h % 4096) = h / 4096 then some (h % 4096, t) else none
  | none => none

/-- The request at the front of a ring has acquired its pages: its list is written (R380), or, for PREFETCH and SPILL, it ends
with the pages done. A list past the 4,096 that may be open is not written (R381). -/
def reqDone (s : State) (i : Nat) (r : AtnReq) (ti : Nat) (t : RouteTable) (v : Nat) : State :=
  let full := s.atn.lists.length ≥ 4096
  let opened (s : State) : State := count (modAtn s (fun a => { a with
    lists := a.lists ++ [{ addr := r.addr, table := ti, frames := r.held, until_ := r.until_, stage := stageNow s }] }))
    ATN_COUNT_0 ATN_COUNT_0_lists
  if r.op ≤ 4 ∧ full then endReq (unpin s ti r.held) i 2 0
  else match r.op with
  | 3 =>
    let Q := r.args % 2 ^ 32
    let (d, empty) := readList s t v Q r.pages
    let s1 := opened (walkerWrite (imageRead s (t.image v) t.pagesMax) r.addr d)
    let s2 := if empty then count s1 ATN_COUNT_2 ATN_COUNT_2_empty_lists else s1
    let s3 := endReq s2 i 0 v
    setTable (walkerAhead s3 ti t v Q) ti { t with lastQ := some Q }
  | 4 =>
    let (n, s1) := takeFree s
    endReq (opened (walkerWrite s1 r.addr (writeList s1 t v (r.args % 2 ^ 32) (r.args / 2 ^ 32) n))) i 0 v
  | _ => endReq s i (if r.failed then 9 else 0) r.done

/-- Go on with the request at the front of a ring, page by page. -/
def goOn : Nat → State → Nat → State
  | 0, s, _ => s
  | fuel + 1, s, i =>
    match ringQueue s i with
    | [] => s
    | r :: _ =>
      match tableOfHandle s r.handle, r.version with
      | some (ti, t), some v =>
        (match r.todo with
        | [] => reqDone s i r ti t v
        | p :: rest =>
          let next (r1 : AtnReq) : PageOut → State
            | .done s1 => goOn fuel (setFront s1 i { r1 with todo := rest, parked := false }) i
            | .wait s1 => setFront s1 i { r1 with parked := false }
            | .park s1 => setFront s1 i { r1 with parked := true }
          match r.op with
          | 3 => next { r with held := match acquirePage s ti t v false i p with
              | .done _ => r.held ++ [p % t.homes]
              | _ => r.held } (acquirePage s ti t v false i p)
          | 4 => next { r with held := match acquirePage s ti t v true i p with
              | .done _ => r.held ++ [p % t.homes]
              | _ => r.held } (acquirePage s ti t v true i p)
          | 7 => next r (prefetchPage s ti t v i p)
          | _ =>
            let (o, n) := spillPage s ti t v (bitsN r.args 63 63 == 1) i p
            next { r with done := r.done + n } o)
      | _, _ => endReq s i 1 0

/-- What accepting a walk request reads (R369, R377): the image of the version, and for READ the written bits. -/
def walkRead (s : State) (op : Nat) (t : RouteTable) : State :=
  let s1 := imageRead s (t.image t.version) t.pagesMax
  if op = 3 then bitsRead s1 t else s1

/-- Accept a walk request (R367, R377): the version, the checks that need the table, the pages in order. -/
def acceptWalk (s0 : State) (i : Nat) (r : AtnReq) : State :=
  match tableOfHandle s0 r.handle with
  | none => endReq s0 i 1 0
  | some (_, t) =>
    let img := t.image t.version
    let s := walkRead s0 r.op t
    let h := imageHead s0 img
    let p0 := r.args % 2 ^ 32
    let n := bitsN r.args 62 32
    let range := (upto n).map (fun j => p0 + j)
    let ok := if r.op = 3 then p0 = 0 ∨ p0 < (h.length + 63) / 64 else p0 + n ≤ t.pagesMax
    let ps := if r.op = 3 then readPages s0 t img h p0 else if r.op = 7 ∧ r.args ≥ 2 ^ 63 then range.reverse else range
    if ¬ ok then endReq s i 4 0
    else if r.op ≤ 4 ∧ s.atn.lists.length ≥ 4096 then endReq s i 2 0
    else if r.op ≤ 4 ∧ ¬ (ps.map (· % t.homes)).Nodup then endReq s i 5 0
    else goOn (ps.length + 1) (setFront s i { r with version := some t.version, todo := ps, pages := ps }) i

/-- Serve the request at the front of a ring, if it has an op (R377). -/
def serveWalk (s : State) (i op : Nat) : State :=
  match ringQueue s i with
  | r :: _ =>
    if r.op ≠ op ∨ r.bad ∨ keepState s ≥ 2 ∨ r.parked then s
    else if r.version.isSome then goOn (r.todo.length + 1) s i else acceptWalk s i r
  | [] => s

/-- ATN_READ (R378). -/
def execAtnRead (i : Nat) (s : State) : Out := .next (serveWalk s i 3)
/-- ATN_WRITE (R378). -/
def execAtnWrite (i : Nat) (s : State) : Out := .next (serveWalk s i 4)
/-- ATN_PREFETCH (R372). -/
def execAtnPrefetch (i : Nat) (s : State) : Out := .next (serveWalk s i 7)
/-- ATN_SPILL (R372). -/
def execAtnSpill (i : Nat) (s : State) : Out := .next (serveWalk s i 8)

/-- ATN_UNPARK (R377): the parked request of a ring tries again. -/
def execAtnUnpark (i : Nat) (s : State) : Out :=
  .next (match ringQueue s i with
    | r :: _ => if r.parked && decide (keepState s < 2) then goOn (r.todo.length + 1) s i else s
    | [] => s)

/-! ### Tables (R364 to R368) -/

/-- A table record (Table 11-4) read from memory, its addresses of this device in their local form (R45); none where R366 refuses it. -/
def tableRecord (s : State) (a ring : Nat) : Option RouteTable :=
  let w (i : Nat) : Word := seenWord s (a + 8 * i)
  let at_ (i : Nat) : Nat := localForm s (w i).toNat
  let t : RouteTable :=
    { imageA := at_ 0, imageB := at_ 1, frames := at_ 2, work := at_ 3, layby := at_ 4
      signposts := at_ 5, pagesMax := bits (w 6) 63 32, kb := bits (w 6) 31 16, vb := bits (w 6) 15 0
      kind := bits (w 7) 33 32, homes := bits (w 7) 15 0, ring := ring }
  let inUser (x n : Nat) : Bool := decide (x % 256 = 0) && decide (x + n ≤ userEnd)
  let img := 0x200 + 8 * t.pagesMax
  if a % 128 = 0 ∧ a + 128 ≤ userEnd ∧ bits (w 7) 63 34 = 0 ∧ bits (w 7) 31 16 = 0 ∧ zeroBytes s (a + 0x40) 0x40 = true ∧
      1 ≤ t.pagesMax ∧ t.pagesMax ≤ 32768 ∧ 64 ≤ t.kb ∧ t.kb ≤ 16384 ∧ t.kb % 64 = 0 ∧ 64 ≤ t.vb ∧ t.vb ≤ 16384 ∧
      t.vb % 64 = 0 ∧ t.kind ≤ 1 ∧ 1 ≤ t.homes ∧ t.homes ≤ t.pagesMax ∧ inUser t.imageA img = true ∧
      inUser t.imageB img = true ∧ inUser t.frames (t.homes * t.pageBytes) = true ∧
      inUser t.work ((16 * t.homes + (t.pagesMax + 7) / 8 + 255) / 256 * 256) = true ∧
      inUser t.signposts (64 * (t.kb + t.vb)) = true ∧ t.layby % 256 = 0 ∧
      (if t.kind = 0 then isGlobal t.layby = true ∧ globalDev t.layby ≠ selfId s
       else hostBase ≤ t.layby ∧ t.layby < hostEnd) ∧ imageValid s t.imageA t.pagesMax = true then some t
  else none

/-- Copy the image of a version over the other one. -/
def copyImage (s : State) (t : RouteTable) (v : Nat) : State :=
  walkerWrite (imageRead s (t.image v) t.pagesMax) (t.image (v + 1)) (seen s (t.image v) (0x200 + 8 * t.pagesMax))

/-- What REGISTER reads: the record, and the image that it names. -/
def recordRead (s : State) (a : Nat) : State :=
  imageRead (afterRead s a 128) (localForm s (seenWord s a).toNat) (min 32768 (bits (seenWord s (a + 0x30)) 63 32))

/-- ATN_REGISTER (R366, R367): version 1 is active in image_a, which is copied into image_b; the work area starts empty. -/
def atnRegister (s0 : State) (i : Nat) : State :=
  match ringQueue s0 i with
  | r :: _ =>
    let s := recordRead s0 r.addr
    if r.op ≠ 1 ∨ r.bad ∨ keepState s0 ≥ 2 then s0
    else match tableRecord s0 r.addr i with
      | none => endReq s i 3 0
      | some t =>
        (match (upto 4096).find? (fun k => !smHas s0.atn.tables k) with
        | none => endReq s i 2 0
        | some k =>
          let s1 := copyImage (walkerWrite s t.work (List.replicate (16 * t.homes + (t.pagesMax + 7) / 8) 0)) t 1
          endReq (setTable s1 k t) i 0 (smGet 0 s0.atn.gens k * 4096 + k))
  | [] => s0

/-- ATN_REGISTER. -/
def execAtnRegister (i : Nat) (s : State) : Out := .next (atnRegister s i)

/-- ATN_UNREGISTER (R377). -/
def atnUnregister (s : State) (i : Nat) : State :=
  match ringQueue s i with
  | r :: _ =>
    if r.op ≠ 2 ∨ r.bad ∨ keepState s ≥ 2 then s
    else match tableOfHandle s r.handle with
      | none => endReq s i 1 0
      | some (k, t) =>
        if s.atn.lists.any (fun l => l.table == k) || s.atn.moves.any (fun m => m.table == k) || t.unsynced.isSome ||
            !t.marked.isEmpty then endReq s i 8 0
        else endReq (modAtn s (fun a => { a with
          tables := smErase a.tables k, gens := smPut 0 a.gens k ((smGet 0 a.gens k + 1) % 2 ^ 20) })) i 0 0
  | [] => s

/-- ATN_UNREGISTER. -/
def execAtnUnregister (i : Nat) (s : State) : Out := .next (atnUnregister s i)

/-- ATN_COMMIT (R367, R368): the table is marked; the status comes at the milestone. -/
def atnCommit (s : State) (i : Nat) : State :=
  match ringQueue s i with
  | r :: q =>
    if r.op ≠ 6 ∨ r.bad ∨ keepState s ≥ 2 then s
    else match tableOfHandle s r.handle with
      | none => endReq s i 1 0
      | some (k, t) =>
        if t.unsynced.isSome then endReq s i 6 0
        else answerBad (q.length + 1) (setTable (setQueue s i q) k { t with marked := t.marked ++ [r.status] }) i
  | [] => s

/-- ATN_COMMIT. -/
def execAtnCommit (i : Nat) (s : State) : Out := .next (atnCommit s i)

/-- ATN_RELEASE (R377, R379): served as soon as it is read, ahead of a parked request. -/
def atnRelease (s : State) (i : Nat) : State :=
  let q := ringQueue s i
  match q.findIdx? (fun r => r.op == 5 && !r.bad), q.find? (fun r => r.op == 5 && !r.bad) with
  | some j, some r =>
    if keepState s ≥ 2 then s
    else
      let s1 := setQueue s i (q.eraseIdx j)
      let s2 := match s.atn.lists.find? (fun l => l.addr == r.addr) with
        | some l => atnStatus (unpin (modAtn s1 (fun a => { a with lists := a.lists.erase l })) l.table l.frames) r.status 0 0
        | none =>
          if s.atn.revoked.contains r.addr then
            atnStatus (modAtn s1 (fun a => { a with revoked := a.revoked.erase r.addr })) r.status 0x0B 0
          else atnStatus s1 r.status 0x0A 0
      answerBad (q.length + 1) s2 i
  | _, _ => s

/-- ATN_RELEASE. -/
def execAtnRelease (i : Nat) (s : State) : Out := .next (atnRelease s i)

/-- ATN_RESYNC (R368): once every request accepted under the old version has completed, the shadow becomes a copy of the active
image and the COMMITs' statuses are written again with the synced bit. -/
def atnResync (s : State) (k : Nat) : State :=
  match tableOf s k with
  | none => s
  | some t =>
    match t.unsynced with
    | none => s
    | some (v, stage, sts) =>
      let old := (smVals s.atn.rings).any (fun q => q.any (fun r =>
        r.handle % 4096 == k && (match r.version with
          | some x => decide (x ≤ v)
          | none => false)))
      if old then s
      else sts.foldl (fun s a => atnStatus s a 0 (v + 1) true (some stage))
        (setTable (copyImage s t (v + 1)) k { t with unsynced := none })

/-- ATN_RESYNC. -/
def execAtnResync (k : Nat) (s : State) : Out := .next (atnResync s k)

/-! ### The end of a transfer (R373) -/

/-- Requests that wait for a transfer go on. -/
def goOnAll (s : State) : State :=
  if keepState s ≥ 2 then s
  else (smKeys s.atn.rings).foldl (fun s i =>
    match ringQueue s i with
    | r :: _ => if r.version.isSome && !r.parked then goOn (r.todo.length + 1) s i else s
    | [] => s) s

/-- The request that caused a failed transfer (R373): READ and WRITE end with layby error and release their pins; PREFETCH and
SPILL go on past the page. -/
def transferFailed (s : State) (m : Transfer) : State :=
  let s1 := raiseEvent (count s ATN_COUNT_2 ATN_COUNT_2_layby_errors) 16
  match m.ring with
  | none => s1
  | some i =>
    match ringQueue s1 i with
    | [] => s1
    | r :: _ =>
      if r.op ≤ 4 then endReq (unpin s1 m.table r.held) i 9 0
      else setFront s1 i { r with failed := true, todo := r.todo.drop 1 }

/-- A transfer has moved its page: PREFETCH counts pages brought home, SPILL pages written. -/
def transferGood (s : State) (m : Transfer) : State :=
  match m.ring with
  | none => s
  | some i =>
    match ringQueue s i with
    | [] => s
    | r :: _ =>
      if (r.op = 7 ∧ ¬ m.out = true) ∨ (r.op = 8 ∧ m.out = true) then
        setFront s i { r with done := r.done + 1, todo := r.todo.drop 1 }
      else s

/-- What a fetch from another device has brought: its sectors in order. -/
def Transfer.bytes (m : Transfer) : List Byte := m.got.flatMap (·.2)

/-- PAGE_TRANSFER_DONE (R371, R373): not before another device has answered every sector, whose answers then decide; with a host
window the host's side does, as the command tells. -/
def transferDone (s : State) (id : Nat) (okHost : Bool) (dHost : List Byte) : State :=
  match s.atn.moves.find? (fun m => m.id == id) with
  | none => s
  | some m =>
    match tableOf s m.table with
    | none => s
    | some t =>
      let ok := !m.bad && (t.kind == 0 || okHost)
      let d := if t.kind = 0 then m.bytes else dHost
      if 0 < m.left || (ok && !m.out && d.length != t.pageBytes) then s
      else
        let s1 := modAtn (frameRead s t m.frame) (fun a => { a with moves := a.moves.filter (fun x => x.id != id) })
        let r := residOf s t m.frame
        let s2 :=
          if ok then
            (if m.out then transferGood (count (putResid s1 t m.frame { r with st := 1 }) ATN_COUNT_1 ATN_COUNT_1_spilled) m
             else transferGood (count (putResid (walkerWrite s1 (t.frameAt m.frame) d) t m.frame { r with st := 1 })
               ATN_COUNT_1 ATN_COUNT_1_fetched) m)
          else transferFailed (putResid s1 t m.frame (if m.out then { r with st := 2 } else ⟨0, r.pins, 0, 0⟩)) m
        let s3 := match m.next with
          | some p => if ok then aheadPage s2 m.table t t.version p else s2
          | none => s2
        goOnAll s3

/-- Whether a transfer waits for the host (R441, R442, R505): it reads a host window, and requests to the host do not go out now. -/
def transferWaits (s : State) (id : Nat) : Bool :=
  match s.atn.moves.find? (fun m => m.id == id) with
  | some m => !m.out && ((tableOf s m.table).map (·.kind)).getD 0 != 0 && !hostOpen s
  | none => false

/-- PAGE_TRANSFER_DONE. -/
def execPageTransferDone (id : Nat) (ok : Bool) (d : List Byte) (s : State) : Out :=
  .next (if transferWaits s id then s else lateSettle (transferDone s id ok d))

/-! ### At a milestone -/

/-- Order 7 (R367): each marked table's shadow, if valid, becomes active as the next version; its COMMITs are told. -/
def routeCommits (s : State) : State :=
  s.atn.tables.foldl (fun s0 kt =>
    match tableOf s0 kt.1 with
    | none => s0
    | some t =>
      let s := imageRead s0 (t.image (t.version + 1)) t.pagesMax
      if t.marked = [] then s0
      else if imageValid s0 (t.image (t.version + 1)) t.pagesMax then
        let v := (t.version + 1) % 2 ^ 32
        let s1 := setTable s kt.1 { t with version := v, marked := [], unsynced := some (t.version, stageNow s, t.marked) }
        count (t.marked.foldl (fun s a => atnStatus s a 0 v) s1) ATN_COUNT_0 ATN_COUNT_0_commits
      else t.marked.foldl (fun s a => atnStatus s a 7 0) (setTable s kt.1 { t with marked := [] })) s

/-- Lists that have reached their end are revoked (R379), by the list limit as it stands at the milestone (R382). -/
def listsAtMilestone (s : State) : State :=
  let n := stageNow s
  let limit := rdf s ATN_CTRL ATN_CTRL_list_limit
  let over_ (l : WalkList) : Bool := (l.until_ != 0 && decide (l.until_ ≤ n)) || (limit != 0 && decide (l.stage + limit < n))
  let gone := s.atn.lists.filter over_
  let s1 := gone.foldl (fun s l => unpin s l.table l.frames) s
  let s2 := modAtn s1 (fun a => { a with
    lists := a.lists.filter (fun l => !over_ l), revoked := a.revoked ++ gone.map (·.addr) })
  count s2 ATN_COUNT_2 ATN_COUNT_2_revoked gone.length

end Sys2Proof.Machine
end

