-- ==== Sys2Proof/Machine/Matrix.lean ====
section
/-! DEFINITION. The matrix unit (class 0x4_, R167 to R196): tiles and shoulders, MMA, loads, drains. An operation's result is
formed when it is accepted; the tile's flag word, the section's overflow flag and the faults follow at its completion.
DEDUCED: notes/assumptions/32. -/

namespace Sys2Proof.Machine

/-! ### Tile elements -/

/-- An element of a tile: a and its shoulder h (R167). -/
abbrev Acc2 := BitVec 32 × BitVec 16

/-- The exponent of the shoulder unit u(a) (R167). -/
def shoulderExp (a : Fp) : Int :=
  match a with
  | .fin _ m e => if m = 0 then -165 else max (dyLog2 ⟨m, e⟩) (-126) - 39
  | _ => 0

/-- The value V = a + h × u(a) (R167). -/
def accVal (x : Acc2) : Fp :=
  match f32 x.1.toNat with
  | .fin n m e =>
    let a : Fp := .fin n m e
    let h := sextN 16 x.2.toNat
    if h = 0 then a else ofDy (dyAdd (dyOf a) ⟨h, shoulderExp a⟩)
  | o => o

/-- 2^128 − 2^103, the limit of R183. -/
def accLimit : Dy := ⟨2 ^ 25 - 1, 103⟩

/-- The shoulder add of R183, or the plain add of R184; the second answer says whether h was clamped. A nonzero negative sum that
rounds to zero keeps its sign, since the rule fixes +0 only for a zero sum: the model's choice. DESIGN CHOICE:
notes/assumptions/103. -/
def shoulderAdd (plain : Bool) (x : Acc2) (chunk : Fp) : Acc2 × Bool :=
  match fadd (accVal x) chunk with
  | .nan => ((0x7FC00000, 0), false)
  | .inf n => ((if n then 0xFF800000 else 0x7F800000, 0), false)
  | .fin n m e =>
    let t := dyOf (.fin n m e)
    if t.m = 0 then ((0, 0), false)
    else if plain then ((BitVec.ofNat 32 (to32 (ofDy t)), 0), false)
    else if dyLe accLimit t then ((0x7F800000, 0), false)
    else if dyLt t (dyNeg accLimit) then ((0xFF800000, 0), false)
    else
      let a := (encodeFp fFP32 .away true (ofDy t)).1
      let r := dySub t (dyOf (f32 a))
      let h := roundInt ⟨r.m, r.e - shoulderExp (f32 a)⟩
      let h' := max (-32768) (min 32767 h)
      ((BitVec.ofNat 32 a, BitVec.ofNat 16 (wrapN 16 h')), h != h')

/-- A chunk sum (R181, R182): exact, or rounded to odd 60 bits below the largest product under BF16 and FP16. -/
def chunkSum (toOdd : Bool) (ps : List (Fp × Fp)) : Fp :=
  let prods := ps.map (fun p => fmul p.1 p.2)
  let sum := prods.foldl fadd (.fin false 0 0)
  match sum with
  | .fin n m e =>
    if !toOdd || m == 0 then sum
    else
      let big := prods.foldl (fun b p => match p with
        | .fin _ m' e' => if m' = 0 then b else max b (dyLog2 ⟨m', e'⟩)
        | _ => b) (-1000)
      let q := big - 60
      if q ≤ e then sum else .fin n (roundShift .odd m (q - e).toNat) q
  | o => o

/-- The scale of an MXFP8 chunk (R181, R182): 2^(sA + sB − 254), a NaN where a byte is 0xFF. -/
def chunkScale (sa sb : Nat) : Fp := if sa = 0xFF ∨ sb = 0xFF then .nan else .fin false 1 ((sa : Int) + sb - 254)

/-- The chunk length of a format (Table 05-4). -/
def chunkLen (c : Nat) : Nat := if c = 6 then 1 else if c = 4 ∨ c = 5 then 16 else 32

/-- The K limit of a format code (Table 05-4); 256 under code 7. -/
def kLimit (c : Nat) : Nat := if c = 7 ∨ c = 6 then 256 else if c = 4 ∨ c = 5 then 2048 else 4096

/-- The chunk sums of a dot product (R179, R181), in order: element formats fa, fb, the codes, the scale bytes. -/
def chunkSums (fa fb : Nat) (a b sa sb : List Nat) : List Fp :=
  let c := chunkLen fa
  let ps := List.zip (a.map (decodeFp (fmtOf fa))) (b.map (decodeFp (fmtOf fb)))
  let cs := (chunksOf c ps.length ps).map (chunkSum (c == 16))
  if fa = 2 ∨ fa = 3 then cs.zipIdx.map (fun p => fmul p.1 (chunkScale (sa.getD p.2 0) (sb.getD p.2 0))) else cs

/-- A tile of a core as accepted operations leave it. -/
def tileElem (c : CoreSt) (tile row col : Nat) : Acc2 := smGet (0, 0) c.tiles (tile * 4096 + row * 64 + col)

/-- The flag word of a tile after the accepted operations. -/
def tileWord (c : CoreSt) (tile : Nat) : Word := smGet 0 c.tflags tile

/-- Zero a tile and clear its flags (R171). -/
def zeroTile (c : CoreSt) (tile : Nat) : CoreSt :=
  { c with tiles := c.tiles.filter (fun p => p.1 / 4096 ≠ tile), tflags := smErase c.tflags tile }

/-- Write an element of a tile; one that is infinite or NaN sets the flag word (R187). -/
def setTile (c : CoreSt) (tile row col : Nat) (x : Acc2) : CoreSt :=
  let v := f32 x.1.toNat
  let c1 := { c with tiles := smPut (0, 0) c.tiles (tile * 4096 + row * 64 + col) x }
  if isFin v then c1 else { c1 with tflags := smPut 0 c1.tflags tile (tileFlag (tileWord c1 tile) row col v) }

/-- The operations outstanding on a tile. -/
def tileOps (c : CoreSt) (tile : Nat) : List CoreOp := c.ops.filter (fun o => o.tile == some tile)

/-- What completes at acceptance: the flag word appears in the register, or at the completion of the last operation
outstanding on the tile. -/
def showTile (s : State) (l : Nat) (t : StreamId) (tile : Nat) : State :=
  let c := coreOf s l
  match (tileOps c tile).getLast? with
  | none => wr s (CORE_MXU_TILE l tile) (tileWord c tile)
  | some o => setCore s l { c with ops := c.ops.map (fun x =>
      if x.id = o.id then { x with flags := tileWord c tile, also := if x.also.contains t then x.also else x.also ++ [t] } else x) }

/-- A stream has initialised a tile in the current pass of its section (R189). -/
def initTile (x : Stream) (tile : Nat) : Stream :=
  { x with sect := x.sect.map (fun k => { k with inits := if k.inits.contains tile then k.inits else k.inits ++ [tile] }) }

/-! ### Fields of format M (Table 05-1) -/

/-- The tile of a matrix instruction. -/
def mTile (x : Insn) : Nat := bitsN x.b 23 22
/-- The format of A. -/
def mFa (x : Insn) : Nat := bitsN x.b 21 19
/-- The format of B. -/
def mFb (x : Insn) : Nat := bitsN x.b 18 16
/-- The form of A. -/
def mLa (x : Insn) : Bool := bitsN x.b 15 15 == 1
/-- The form of B. -/
def mLb (x : Insn) : Bool := bitsN x.b 14 14 == 1
/-- The z bit. -/
def mZ (x : Insn) : Bool := bitsN x.b 13 13 == 1
/-- Whether fa, fb, la and lb are zero, as outside MMA. -/
def mPlain (x : Insn) : Bool := bitsN x.b 21 14 == 0

/-- The shape register (Table 05-3): M, N, K. -/
def shapeOf (w : Word) : Option (Nat × Nat × Nat) :=
  if onlyBits w [(28, 16), (14, 8), (6, 0)] then some (bits w 6 0, bits w 14 8, bits w 28 16) else none

/-- The pairings of R177: 0 FP8, 1 MXFP8, 2 BF16 and FP16, 3 FP32, 4 rung. -/
def pairClass (c : Nat) : Nat := if c < 2 then 0 else if c < 4 then 1 else if c < 6 then 2 else if c = 6 then 3 else 4

/-- The position detail of a section overflow by an MMA (Table 06-11). -/
def mmaPosOf (tile : Nat) (w : Word) : Nat := tilePos tile w

/-! ### MMA -/

/-- The elements of an operand in line order: `lines` vectors of `n` codes, in K-form or MN-form (R174). -/
def operandRows (s : State) (l off pitch size : Nat) (mn : Bool) (lines n : Nat) : List (List Nat) :=
  (upto lines).map (fun i => (upto n).map (fun k =>
    elemAt s l (if mn then off + k * pitch + i * size else off + i * pitch + k * size) size))

/-- The scale bytes of a line of an MXFP8 operand (R179). -/
def lineScales (s : State) (l base k line : Nat) : List Nat :=
  let nb := (k + 31) / 32
  (upto nb).map (fun b => elemAt s l (base + line * nb + b) 1)

/-- The precision audit's choice of an MMA (R217): it is captured into the cluster's home slice, or counted as skipped. -/
def auditMma (s : State) (l fa fb m n : Nat) (as bs sas sbs : List (List Nat)) (before after : CoreSt) (tile : Nat) : State :=
  if s.audit.rate = 0 then s
  else
    let h := Config.auditHash (stageNow s) l before.mmaPos
    if h % 2 ^ s.audit.rate ≠ 0 then s
    else
      let row := h / 2 ^ 32 % m
      let col := h / 2 ^ 40 % n
      let buf := smGet [] s.audit.bufs (clusterOf l)
      if buf.length ≥ 7 then countSat s TEL_AUDIT_COUNT TEL_AUDIT_COUNT_skipped
      else
        let c : Capture := ⟨l, physOf s l, fa, fb, as.getD row [], bs.getD col [], sas.getD row [], sbs.getD col [],
          tileElem before tile row col, tileElem after tile row col⟩
        { s with audit := { s.audit with bufs := smPut [] s.audit.bufs (clusterOf l) (buf ++ [c]) } }

/-- The sum of products of every element of the region (R181 to R184): the core after it and the number of clamps. -/
def mmaApply (plain : Bool) (c : CoreSt) (tile fa fb : Nat) (as bs sas sbs : List (List Nat)) : CoreSt × Nat :=
  as.zipIdx.foldl (fun r a => bs.zipIdx.foldl (fun (r : CoreSt × Nat) b =>
    let sums := chunkSums fa fb a.1 b.1 (sas.getD a.2 []) (sbs.getD b.2 [])
    let e := sums.foldl (fun (x : Acc2 × Nat) q =>
      let y := shoulderAdd plain x.1 q
      (y.1, x.2 + (if y.2 then 1 else 0))) (tileElem r.1 tile a.2 b.2, 0)
    (setTile r.1 tile a.2 b.2 e.1, r.2 + e.2)) r) (c, 0)

/-- MMA (R171 to R189). -/
def mmaBody (x : Insn) (ecc : Ecc) (s : State) (st : Stream) : Done :=
  let mx := decide (pairClass (mFa x) = 1)
  if !isSA x.r0 || !isSA x.r1 || !isSA x.r2 || (mx && !isSA x.r3) then badOperand st
  else
    match shapeOf (st.reg x.r0), tileOperand (st.reg x.r1), tileOperand (st.reg x.r2), formatOf st (mFa x),
      formatOf st (mFb x) with
    | some (m, n, k), some (oa, pa), some (ob, pb), some fa, some fb =>
      let w := st.reg x.r3
      let tile := mTile x
      if pairClass (mFa x) ≠ pairClass (mFb x) ∨ (mx = true ∧ (mLa x || mLb x) = true) then badOperand st
      else if mx && !onlyBits w [(48, 32), (16, 0)] then badOperand st
      else if m > 64 ∨ n > 64 ∨ k > kLimit (mFa x) then badOperand st
      else if st.sect.isSome && !mZ x && !((st.sect.map (·.inits)).getD []).contains tile then .fault 0x08 st.pc
      else
        let s1 := if mZ x then modCore (modStr s x.core x.stream (fun z => initTile z tile)) x.core (fun c => zeroTile c tile)
          else s
        if m = 0 ∨ n = 0 ∨ k = 0 then .go (if mZ x then showTile s1 x.core x.stream tile else s1)
        else
          let za := fmtBytes fa
          let zb := fmtBytes fb
          let u (f z v : Nat) : Nat := if f = 7 then v * z else v
          let a : Plane := if mLa x then ⟨u (mFa x) za oa, u (mFa x) za pa, k, m * za, za⟩
            else ⟨u (mFa x) za oa, u (mFa x) za pa, m, k * za, za⟩
          let b : Plane := if mLb x then ⟨u (mFb x) zb ob, u (mFb x) zb pb, k, n * zb, zb⟩
            else ⟨u (mFb x) zb ob, u (mFb x) zb pb, n, k * zb, zb⟩
          let nb := (k + 31) / 32
          let sp : List Plane := if mx then [⟨bits w 16 0, 0, 1, m * nb, 0⟩, ⟨bits w 48 32, 0, 1, n * nb, 0⟩] else []
          match planeCheck ([a, b] ++ sp) with
          | some d => d
          | none =>
            match planesBad s x.core ([a, b] ++ sp) ecc with
            | some o => .go (scrUncorrectable s x.core x.stream o)
            | none =>
              let l := x.core
              let as := operandRows s l a.off a.pitch za (mLa x) m k
              let bs := operandRows s l b.off b.pitch zb (mLb x) n k
              let sas := if mx then (upto m).map (lineScales s l (bits w 16 0) k) else []
              let sbs := if mx then (upto n).map (lineScales s l (bits w 48 32) k) else []
              let c0 := coreOf s1 l
              let plain := rdb s (CORE_MXU_CFG l) CORE_MXU_CFG_shoulder_off
              let (c1, sat) := mmaApply plain c0 tile fa fb as bs sas sbs
              let nf := getb (tileWord c1 tile) CORE_MXU_TILE_nonfinite
              let s2 := auditMma (scrCorrected s1 l (eccCorrected ecc)) l fa fb m n as bs sas sbs c0 c1 tile
              let s3 := setCore s2 l { c1 with mmaPos := c0.mmaPos + 1 }
              .go (acceptOp s3 l { id := 0, stream := x.stream, kind := .mma, addr := st.pc, tile := some tile
                                   flags := tileWord c1 tile, nf := nf
                                   newly := nf && !getb (tileWord c0 tile) CORE_MXU_TILE_nonfinite, sat := sat
                                   cause := if nf then 1 else 0, pos := mmaPosOf tile (tileWord c1 tile) })
    | _, _, _, _, _ => badOperand st

/-- MMA; rc zero unless an operand is MXFP8, [12:0] zero. DEDUCED: notes/assumptions/32. -/
def execMma (x : Insn) (ecc : Ecc) (s : State) : Out :=
  onCore x.core (issueInsn s x (some 2)
    (bitsN x.b 12 0 == 0 && (x.r3 == 0 || pairClass (mFa x) == 1 || pairClass (mFb x) == 1)) (mmaBody x ecc))

/-- Whether an operation is the oldest outstanding on its tile (R169). -/
def oldestOnTile (s : State) (l : Nat) (o : CoreOp) : Bool :=
  match o.tile with
  | some t => ((tileOps (coreOf s l) t).head?.map (·.id)) == some o.id
  | none => true

/-- MMA_COMPLETE (R187, R188): the flag word appears, clamps and events are counted; a non-finite tile overflows the
stream's section, or faults it outside one under nf_fault. -/
def execMmaComplete (l op : Nat) (s : State) : Out :=
  onCore l (match opOf s l op with
    | none => s
    | some o =>
      if o.kind ≠ .mma ∨ oldestOnTile s l o = false ∨ clockStopped s l = true then s
      else
        let s1 := wr (endOp s l op) (CORE_MXU_TILE l (o.tile.getD 0)) o.flags
        let s2 := countSat s1 (CORE_MXU_STAT l) CORE_MXU_STAT_shoulder_sat o.sat
        let s3 := if o.newly then countSat s2 (CORE_MXU_STAT l) CORE_MXU_STAT_nf_events else s2
        if !o.nf then s3
        else if (strOf s3 l o.stream).sect.isSome then overflowOp s3 l o
        else if rdb s3 (CORE_MXU_CFG l) CORE_MXU_CFG_nf_fault then lateFault s3 l o.stream 0x40 (BitVec.ofNat 64 o.addr)
        else s3)

/-! ### ACC.ZERO and ACC.LD -/

/-- ACC.ZERO (R171, R189). -/
def execAccZero (x : Insn) (s : State) : Out :=
  onCore x.core (issueInsn s x (some 2)
    (x.r0 == 0 && x.r1 == 0 && x.r2 == 0 && x.r3 == 0 && mPlain x && bitsN x.b 13 0 == 0) (fun s _ =>
    let s1 := modStr s x.core x.stream (fun z => initTile z (mTile x))
    .go (showTile (modCore s1 x.core (fun c => zeroTile c (mTile x))) x.core x.stream (mTile x))))

/-- The element loaded from the words of R191: a NaN as 0x7FC0_0000, the shoulder of a non-finite element 0. -/
def loadElem (a h : Nat) : Acc2 :=
  match f32 a with
  | .nan => (0x7FC00000, 0)
  | .inf n => (if n then 0xFF800000 else 0x7F800000, 0)
  | _ => (BitVec.ofNat 32 a, BitVec.ofNat 16 h)

/-- ACC.LD.F32 and ACC.LD.F32S (R191, R192). -/
def accLdBody (x : Insn) (shoulder : Bool) (s : State) (st : Stream) : Done :=
  if !isSA x.r0 || !isSA x.r1 || (shoulder && !isSA x.r2) then badOperand st
  else
    match shapeOf (st.reg x.r0), tileOperand (st.reg x.r1), (if shoulder then tileOperand (st.reg x.r2) else some (0, 0)) with
    | some (m, n, _), some (oa, pa), some (ob, pb) =>
      let l := x.core
      let tile := mTile x
      if m > 64 ∨ n > 64 then badOperand st
      else
        let ps : List Plane := if m = 0 ∨ n = 0 then []
          else ⟨oa, pa, m, 4 * n, 4⟩ :: (if shoulder then [⟨ob, pb, m, 2 * n, 2⟩] else [])
        match planeCheck ps with
        | some d => d
        | none =>
          if !(tileOps (coreOf s l) tile).isEmpty then .stall
          else match planesBad s l ps x.ecc with
            | some o => .go (scrUncorrectable s l x.stream o)
            | none =>
              let s := scrCorrected s l (eccCorrected x.ecc)
              let s1 := modStr s l x.stream (fun z => initTile z tile)
              let c1 := (upto m).foldl (fun c i => (upto n).foldl (fun c j =>
                setTile c tile i j (loadElem (elemAt s l (oa + i * pa + 4 * j) 4)
                  (if shoulder then elemAt s l (ob + i * pb + 2 * j) 2 else 0))) c) (zeroTile (coreOf s1 l) tile)
              .go (acceptOp (setCore s1 l c1) l { id := 0, stream := x.stream, kind := .drain, addr := st.pc
                                                  tile := some tile, flags := tileWord c1 tile })
    | _, _, _ => badOperand st

/-- ACC.LD.F32. -/
def execAccLdF32 (x : Insn) (s : State) : Out :=
  onCore x.core (issueInsn s x (some 2) (x.r2 == 0 && x.r3 == 0 && mPlain x && bitsN x.b 13 0 == 0) (accLdBody x false))

/-- ACC.LD.F32S. -/
def execAccLdF32s (x : Insn) (s : State) : Out :=
  onCore x.core (issueInsn s x (some 2) (x.r3 == 0 && mPlain x && bitsN x.b 13 0 == 0) (accLdBody x true))

/-! ### Drains -/

/-- The forms of DRAIN (Table 05-2). -/
inductive DrainForm where
  | f32 | f32s | bf16 | bf16Sr
deriving DecidableEq, Repr

/-- The code that a drain writes for an element, with random value `rnd` (R190). -/
def drainCode (f : DrainForm) (x : Acc2) (rnd : Nat) : Nat :=
  match f with
  | .f32 => to32 (accVal x)
  | .f32s => (match f32 x.1.toNat with
    | .nan => 0x7FC00000
    | _ => x.1.toNat)
  | .bf16 => (encodeFp fBF16 .rne false (accVal x)).1
  | .bf16Sr => (encodeFp fBF16 (.sr rnd) false (accVal x)).1

/-- The bytes of an element a drain writes to its first plane. -/
def DrainForm.size : DrainForm → Nat
  | .f32 => 4
  | .f32s => 4
  | .bf16 => 2
  | .bf16Sr => 2

/-- Whether a drained code is a NaN or an infinity. -/
def DrainForm.bad (f : DrainForm) (code : Nat) : Bool :=
  !isFin (decodeFp (if f.size = 4 then fFP32 else fBF16) code)

/-- DRAIN (R190, R192, R208, R210). With z = 1 the tile is zeroed with its flags, as by ACC.ZERO, but that is no initialisation in
the sense of R189; and where lines of the region overlap, they are written in ascending order, the shoulder plane last: the model's
choices. DESIGN CHOICE: notes/assumptions/103. -/
def drainBody (x : Insn) (f : DrainForm) (s : State) (st : Stream) : Done :=
  let two := decide (f = .f32s)
  if !isSA x.r0 || !isSA x.r1 || (two && !isSA x.r2) then badOperand st
  else
    match shapeOf (st.reg x.r0), tileOperand (st.reg x.r1), (if two then tileOperand (st.reg x.r2) else some (0, 0)) with
    | some (m, n, _), some (oa, pa), some (ob, pb) =>
      let l := x.core
      let tile := mTile x
      if m > 64 ∨ n > 64 then badOperand st
      else
        let p0 : Plane := ⟨oa, pa, m, f.size * n, f.size⟩
        let p1 : Plane := ⟨ob, pb, m, 2 * n, 2⟩
        let ps : List Plane := if m = 0 ∨ n = 0 then [] else if two then [p0, p1] else [p0]
        match planeCheck ps with
        | some d => d
        | none =>
          let c := coreOf s l
          if !(tileOps c tile).isEmpty then .stall
          else match planesEdge s l ps x.ecc with
          | some o => .go (scrUncorrectable s l x.stream o)
          | none =>
            let s := if ps = [] then s else scrCorrected s l (eccCorrected x.ecc)
            let zero (s : State) : State := if mZ x then modCore s l (fun c => zeroTile c tile) else s
            if m = 0 ∨ n = 0 then .go (if mZ x then showTile (zero s) l x.stream tile else s)
            else
              let rows : List (List Acc2) := (upto m).map (fun i => (upto n).map (fun j => tileElem c tile i j))
              let codes := rows.zipIdx.map (fun r => r.1.zipIdx.map (fun e =>
                drainCode f e.1 (if f = .bf16Sr then randomOf s l x.stream st.draw (r.2 * n + e.2) else 0)))
              let vals := (rows.flatten).map accVal
              let bad := codes.any (fun r => r.any f.bad)
              let s1 := writeLines s l p0 (codes.map (fun r => (r.map (bytesOf f.size)).flatten))
              let s2 := if two then writeLines s1 l p1 (rows.map (fun r => (r.map (fun e => bytesOf 2 e.2.toNat)).flatten))
                else s1
              let amax := vals.foldl (fun a v => max a (amaxBits v)) 0
              let s3 := modStr s2 l x.stream (fun z =>
                let z1 := z.setReg (28 + tile) (maxUpdate (z.reg (28 + tile)) (vals.any isNan) 0 amax)
                if f = .bf16Sr then advanceDraw z1 (m * n) else z1)
              let s4 := zero s3
              .go (acceptOp s4 l { id := 0, stream := x.stream, kind := .drain, addr := st.pc, tile := some tile
                                   flags := tileWord (coreOf s4 l) tile, cause := if bad then 3 else 0 })
    | _, _, _ => badOperand st

/-- A DRAIN as an instruction. -/
def drainInsn (x : Insn) (f : DrainForm) (s : State) : Out :=
  onCore x.core (issueInsn s x (some 2)
    ((f == .f32s || x.r2 == 0) && x.r3 == 0 && mPlain x && bitsN x.b 12 0 == 0) (drainBody x f))

/-- DRAIN.F32. -/
def execDrainF32 (x : Insn) (s : State) : Out := drainInsn x .f32 s
/-- DRAIN.F32S. -/
def execDrainF32s (x : Insn) (s : State) : Out := drainInsn x .f32s s
/-- DRAIN.BF16. -/
def execDrainBf16 (x : Insn) (s : State) : Out := drainInsn x .bf16 s
/-- DRAIN.BF16.SR. -/
def execDrainBf16Sr (x : Insn) (s : State) : Out := drainInsn x .bf16Sr s

/-- DRAIN_COMPLETE (R192, R210): a DRAIN or ACC.LD has moved its region. -/
def execDrainComplete (l op : Nat) (s : State) : Out :=
  onCore l (match opOf s l op with
    | none => s
    | some o =>
      if o.kind ≠ .drain ∨ oldestOnTile s l o = false ∨ clockStopped s l = true then s
      else overflowOp (wr (endOp s l op) (CORE_MXU_TILE l (o.tile.getD 0)) o.flags) l o)

/-- RDACC (R171, R192, R196): the tile's flag word to rs, once every operation on the tile has completed. -/
def execRdacc (x : Insn) (s : State) : Out :=
  onCore x.core (issueInsn s x (some 2)
    (x.r1 == 0 && x.r2 == 0 && x.r3 == 0 && mPlain x && bitsN x.b 13 0 == 0) (fun s st =>
    if !isSA x.r0 then badOperand st
    else if !(tileOps (coreOf s x.core) (mTile x)).isEmpty then .stall
    else goReg s x x.r0 (tileWord (coreOf s x.core) (mTile x))))

/-- MXU_STAT_CLEAR (R195). -/
def execMxuStatClear (l : Nat) (s : State) : Out := onCore l (powered s (wr s (CORE_MXU_STAT l) 0))

end Sys2Proof.Machine
end

