-- ==== Sys2Proof/Machine/Audit.lean ====
section
/-! DEFINITION. The precision audit's recomputation of captured MMA elements (R217 to R220) and the rows that set up and
clear the logbook and the audit (R222 to R224). DEDUCED: notes/assumptions/38. -/

namespace Sys2Proof.Machine

/-- The products of a capture with their MXFP8 scales applied, in increasing k (R218). -/
def captureProducts (c : Capture) : List Fp :=
  let ps := List.zip (c.a.map (decodeFp (fmtOf c.fa))) (c.b.map (decodeFp (fmtOf c.fb)))
  ps.zipIdx.map (fun p =>
    let q := fmul p.1.1 p.1.2
    if c.fa = 2 ∨ c.fa = 3 then fmul q (chunkScale (c.sa.getD (p.2 / 32) 0) (c.sb.getD (p.2 / 32) 0)) else q)

/-- The format class of a capture (R218). -/
def captureClass (c : Capture) : Nat := if c.fa < 4 then 0 else if c.fa < 6 then 1 else 2

/-- The relative error |y − exact| / |exact| as a dyadic rounded below its 100th bit; none where it is not finite (R218). -/
def relError (y exact : Fp) : Option Dy :=
  if !isFin y || !isFin exact then none
  else
    let d := dyAbs (dySub (dyOf y) (dyOf exact))
    if d.m = 0 then some ⟨0, 0⟩ else if isZero exact then none else some (dyDiv d (dyAbs (dyOf exact)))

/-- The bin of a relative error (R219). -/
def errorBin (e : Option Dy) : Nat :=
  match e with
  | none => 63
  | some d =>
    if d.m = 0 then 0
    else if dyLog2 d ≥ 0 then 63
    else if dyLog2 d < -62 then 1 else (dyLog2 d + 63).toNat

/-- The bound of R185 for a capture, times 1,000; none where a partial total is not finite. -/
def captureBound1000 (c : Capture) : Option Dy :=
  let sums := chunkSums c.fa c.fb c.a c.b c.sa c.sb
  let v0 := accVal c.before
  if !isFin v0 || sums.any (fun x => !isFin x) then none
  else
    let tot := sums.foldl (fun (r : Dy × Dy) x =>
      let t := dyAdd r.1 (dyOf x)
      (t, dyAdd r.2 (dyAbs t))) (dyOf v0, ⟨0, 0⟩)
    let absP := (captureProducts c).foldl (fun a p => dyAdd a (dyAbs (dyOf p))) ⟨0, 0⟩
    let n : Dy := ⟨(sums.length : Int) * 1000, -165⟩
    let e : Dy := if captureClass c = 1 then dyMul absP ⟨1000, -55⟩ else ⟨0, 0⟩
    some (dyAdd (dyAdd (dyMul tot.2 ⟨1001, -39⟩) n) e)

/-- Count one error in a histogram (R219). -/
def histCount (s : State) (cls kind bin : Nat) : State :=
  countSat s (TEL_AUDIT_HIST ((cls * 2 + kind) * 64 + bin)) TEL_AUDIT_HIST_count

/-- One more exceedance of a physical core; enough of them retire it (R220, Table 14-4). -/
def auditHit (s : State) (cl phys : Nat) : State :=
  let id := 136 * cl + phys
  let n := smGet 0 s.rep.auditHits id + 1
  let s1 := { s with rep := { s.rep with auditHits := smPut 0 s.rep.auditHits id n } }
  let lim := rdf s REP_CTRL REP_CTRL_audit_retire
  if lim ≠ 0 ∧ n ≥ lim then requestRetire s1 cl phys else s1

/-- Recompute the oldest capture of a slice's audit buffer (R218 to R220): a background piece. A device result that is not
finite counts no exceedance, the bound and the relative error are rounded to the nearest FP32, ties to even, and under code 7 fa and fb
are the rung's format codes (R216, R220): the spec states none of the three. DESIGN CHOICE: notes/assumptions/113. -/
def auditPiece (s : State) (slice : Nat) : State :=
  match smGet [] s.audit.bufs slice with
  | [] => s
  | c :: rest =>
    let s1 := { s with audit := { s.audit with bufs := smPut [] s.audit.bufs slice rest } }
    let ps := captureProducts c
    let exact := ps.foldl fadd (.fin false 0 0)
    let ref := ps.foldl (fun a p => rnd32 (fadd a (rnd32 p))) (.fin false 0 0)
    let dev := fsub (accVal c.after) (accVal c.before)
    let cls := captureClass c
    let s2 := histCount (histCount s1 cls 0 (errorBin (relError dev exact))) cls 1 (errorBin (relError ref exact))
    let s3 := countSat s2 TEL_AUDIT_COUNT TEL_AUDIT_COUNT_taken
    match captureBound1000 c with
    | none => s3
    | some b =>
      let err := dyAbs (dySub (dyOf dev) (dyOf exact))
      if !isFin dev || dyLe (dyMul err ⟨1000, 0⟩) b || rdb s (CORE_MXU_CFG c.core) CORE_MXU_CFG_shoulder_off then s3
      else
        let s4 := countSat s3 TEL_AUDIT_COUNT TEL_AUDIT_COUNT_exceed
        let bound := to32 (ofDy (dyDiv b ⟨1000, 0⟩))
        let rel := match relError dev exact with
          | some d => to32 (ofDy d)
          | none => 0x7F800000
        let s5 := logAppend s4 logbook 3 (c.core % 32768)
          (BitVec.ofNat 64 (cls * 2 ^ 56 + c.fa * 2 ^ 52 + c.fb * 2 ^ 48)) (BitVec.ofNat 64 (bound * 2 ^ 32 + rel))
        auditHit s5 (clusterOf c.core) c.phys

/-- LOG_ENABLE (R222): a change of enable from 0 to 1 empties the logbook and clears the ladder counts. -/
def logEnable (s : State) : State :=
  if rdb s TEL_LOG_CTRL TEL_LOG_CTRL_enable then s else wr (logOpen s logbook) TEL_LADDER_COUNT 0

/-- LOG_ENABLE. -/
def execLogEnable (s : State) : Out := .next (powered s (logEnable s))

/-- LOG_TAIL_WRITE (R223). -/
def execLogTailWrite (tail : BitVec 32) (s : State) : Out := .next (powered s (logTail s logbook tail.toNat))

/-- AUDIT_CLEAR (R224). -/
def auditClear (s : State) : State :=
  clearIf (wr s TEL_AUDIT_COUNT 0) (fun o => decide (TEL_AUDIT_HIST 0 ≤ o) && decide (o < TEL_AUDIT_HIST 384))

/-- AUDIT_CLEAR. -/
def execAuditClear (s : State) : Out := .next (powered s (auditClear s))

/-- REP_LOG_ENABLE (R481). -/
def repLogEnable (s : State) : State :=
  if rdb s REP_LOG_CTRL TEL_LOG_CTRL_enable then s else logOpen s repairLog

/-- REP_LOG_ENABLE. -/
def execRepLogEnable (s : State) : Out := .next (powered s (repLogEnable s))

end Sys2Proof.Machine
end

