-- ==== Sys2Proof/Machine/Irq.lean ====
section
/-! DEFINITION. The interrupt controller (R536 to R540, R551) and the shared resources (R542, R543, R550, R565). -/

namespace Sys2Proof.Machine

/-! ### Claims (R539) -/

/-- The priority stack of management core m, top first. -/
def claimsOf (s : State) (m : Nat) : List (Nat × Nat) := smGet [] s.sec.claims m
/-- Put the priority stack of a management core. -/
def setClaims (s : State) (m : Nat) (c : List (Nat × Nat)) : State := modSec s (fun x => { x with claims := smPut [] x.claims m c })

/-- Whether a source is deliverable to management core m (R539). -/
def deliverable (s : State) (m n : Nat) : Bool :=
  let w := rd s (ICU_SRC n)
  let st := claimsOf s m
  getb w ICU_SRC_enable && srcPending s n && !getb w ICU_SRC_to_vector && (getf w ICU_SRC_target == m) &&
  st.all (fun e => e.1 != n) && (match st with
    | [] => true
    | e :: _ => decide (e.2 < getf w ICU_SRC_priority))

/-- The source that a claim of management core m would take: the highest priority, then the lowest number. -/
def bestSource (s : State) (m : Nat) : Option Nat :=
  (upto 1024).foldl (fun (b : Option Nat) n =>
    if !deliverable s m n then b
    else match b with
      | none => some n
      | some k => if rdf s (ICU_SRC k) ICU_SRC_priority < rdf s (ICU_SRC n) ICU_SRC_priority then some n else b) none

/-- A claim (R539): the value read from ICU_CLAIM_m, and the state with the source pushed. -/
def icuClaim (s : State) (m : Nat) : Word × State :=
  match bestSource s m with
  | none => (0, s)
  | some n =>
    let p := rdf s (ICU_SRC n) ICU_SRC_priority
    (BitVec.ofNat 64 (2 ^ 63 + p * 2 ^ 16 + n), setClaims s m ((n, p) :: claimsOf s m))

/-- ICU_CLAIM (R539). -/
def execIcuClaim (m : Nat) (s : State) : Out :=
  onlyIf (decide (m < 4)) (powered s (let (v, s1) := icuClaim s m; emit s1 (.regRead (ICU_CLAIM m) v)))

/-- An end of interrupt (R539): the top entry is popped; any other source is ignored and counted. -/
def icuEoi (s : State) (m n : Nat) : State :=
  match claimsOf s m with
  | e :: r => if e.1 = n then setClaims s m r else count s (ICU_PRIO m) ICU_PRIO_eoi_mismatch
  | [] => count s (ICU_PRIO m) ICU_PRIO_eoi_mismatch

/-- ICU_EOI. -/
def execIcuEoi (m : Nat) (n : BitVec 10) (s : State) : Out := onlyIf (decide (m < 4)) (powered s (icuEoi s m n.toNat))

/-- A software source is set pending (R551). -/
def icuSwi (s : State) (n : Nat) : State := if 992 ≤ n ∧ n < 1024 then raiseEvent s n else s

/-- ICU_SWI. -/
def execIcuSwi (n : BitVec 10) (s : State) : Out := .next (powered s (icuSwi s n.toNat))

/-- The static fields of ICU_SRC_n after a write (R538). -/
def srcStatics (w d : Word) : Word :=
  if getb w ICU_SRC_enable || getb d ICU_SRC_enable then w
  else
    let w1 := setf (setb w ICU_SRC_to_vector (getb d ICU_SRC_to_vector)) ICU_SRC_priority (getf d ICU_SRC_priority)
    if getb d ICU_SRC_to_vector || decide (getf d ICU_SRC_target ≤ 3) then setf w1 ICU_SRC_target (getf d ICU_SRC_target) else w1

/-- A write of ICU_SRC_n (R537, R538, R540, R551). -/
def icuSrcWrite (s : State) (n : Nat) (d : Word) : State :=
  let w := rd s (ICU_SRC n)
  let was := getb w ICU_SRC_enable && srcPending s n
  let w1 := if isEventSource n && getb d ICU_SRC_pending then setb w ICU_SRC_pending false else w
  let w2 := setb (srcStatics w1 d) ICU_SRC_enable (getb d ICU_SRC_enable)
  let w3 := if getb d ICU_SRC_count_clr then setf w2 ICU_SRC_count 0 else w2
  let s1 := wr s (ICU_SRC n) w3
  if !was && getb w3 ICU_SRC_enable && srcPending s1 n then signalSource s1 n else s1

/-- ICU_SRC_WRITE. -/
def execIcuSrcWrite (n : Nat) (d : Word) (s : State) : Out := onlyIf (decide (n < 1024)) (powered s (icuSrcWrite s n d))

/-- ICU_COUNT_CLEAR (R551). -/
def execIcuCountClear (n : Nat) (s : State) : Out := onlyIf (decide (n < 1024)) (powered s (wrf s (ICU_SRC n) ICU_SRC_count 0))

/-! ### Shared resources (R542) -/

/-- Whether debug access is open (R543): always on a part whose lifecycle is open. -/
def debugOpen (s : State) : Bool := !rdb s SEC_FUSE SEC_FUSE_locked || rdb s SEC_STATUS SEC_STATUS_debug_open

/-- A claim of a resource (R542): whether it succeeded, and the state. DEDUCED: notes/assumptions/87. -/
def claimRes (s : State) (r code : Nat) : Bool × State :=
  let o := rdf s (SEC_OWN r) SEC_OWN_owner
  let known := code == 1 || code == 2
  let barred := r == 2 && code == 2 && !debugOpen s
  if known && !barred && (o == 0 || o == code) then (true, wrf s (SEC_OWN r) SEC_OWN_owner code)
  else (false, countSat (wrf s (SEC_OWN r) SEC_OWN_last_refused code) (SEC_OWN r) SEC_OWN_conflicts)

/-- RESOURCE_CLAIM (R542): a claim of resource 1 or 2 through SEC_OWN_r. -/
def resourceClaim (s : State) (r code : Nat) : State :=
  if r ≠ 1 ∧ r ≠ 2 ∨ code = 0 then s
  else
    let (ok, s1) := claimRes s r (code % 256)
    wrb s1 (SEC_OWN r) SEC_OWN_conflict (!ok)

/-- RESOURCE_CLAIM. -/
def execResourceClaim (r code : Nat) (s : State) : Out := .next (powered s (resourceClaim s r code))

/-- RESOURCE_RELEASE (R542): the owner gives up resource 1 or 2; the test logic goes back to Test-Logic-Reset with resource 2
(R565). The path of a release is the owner code that it stands for. DEDUCED: notes/assumptions/87. -/
def resourceRelease (s : State) (r path : Nat) : State :=
  if (r = 1 ∨ r = 2) ∧ path ≠ 0 ∧ rdf s (SEC_OWN r) SEC_OWN_owner = path then
    let s1 := wrf s (SEC_OWN r) SEC_OWN_owner 0
    if r = 2 then modSec s1 (fun x => { x with tap := 0 }) else s1
  else s

/-- RESOURCE_RELEASE. -/
def execResourceRelease (r path : Nat) (s : State) : Out := .next (powered s (resourceRelease s r path))

/-- The next state of the boundary-scan controller (IEEE 1149.1; PRESUMED): 0 Test-Logic-Reset, 1 Run-Test/Idle, 2 to 8 the data
column (Select, Capture, Shift, Exit1, Pause, Exit2, Update), 9 to 15 the instruction column. PRESUMED: notes/assumptions/88. -/
def tapNext (t : Nat) (tms : Bool) : Nat :=
  match t, tms with
  | 0, true => 0
  | 0, false => 1
  | 1, true => 2
  | 1, false => 1
  | 2, true => 9
  | 2, false => 3
  | 3, true => 5
  | 3, false => 4
  | 4, true => 5
  | 4, false => 4
  | 5, true => 8
  | 5, false => 6
  | 6, true => 7
  | 6, false => 6
  | 7, true => 8
  | 7, false => 4
  | 8, true => 2
  | 8, false => 1
  | 9, true => 0
  | 9, false => 10
  | 10, true => 12
  | 10, false => 11
  | 11, true => 12
  | 11, false => 11
  | 12, true => 15
  | 12, false => 13
  | 13, true => 14
  | 13, false => 13
  | 14, true => 15
  | 14, false => 11
  | _, true => 2
  | _, false => 1

/-- BOUNDARY_SCAN_CLOCK (R565): while the port does not own resource 2 the test logic stays in Test-Logic-Reset and TDO is high
impedance; while it shifts, TDO carries a bit of the scan path, which the spec does not lay out.
PRESUMED: notes/assumptions/88. -/
def execBoundaryScanClock (tms tdi : Bool) (s : State) : Out :=
  .next (
    if rdf s (SEC_OWN 2) SEC_OWN_owner = 0 then modSec s (fun x => { x with tap := 0 })
    else
      let t := s.sec.tap
      let s1 := modSec s (fun x => { x with tap := tapNext t tms })
      if t = 4 ∨ t = 11 then
        let (n, s2) := takeFree s1
        emit s2 (.pin 2 (Config.freeNat (2 * n + (if tdi then 1 else 0)) % 2 == 1))
      else s1)

end Sys2Proof.Machine
end

