-- ==== Sys2Proof/Machine/Security.lean ====
section
/-! DEFINITION. Firmware installation (R529 to R533), debug unlock (R543) and attestation (R534, R535). PRESUMED: notes/assumptions/89. -/

namespace Sys2Proof.Machine

/-! ### Installation (R530, R532) -/

/-- The bytes [a, a + n) of a header. -/
def hdrBytes (h : List Byte) (a n : Nat) : List Byte := (h.drop a).take n

/-- Whether bytes are all zero. -/
def allZero (d : List Byte) : Bool := d.all (· == 0)

/-- The verdict of Table 17-3 on the image at an address of user stack memory: 0 passes, 1 to 5 the first check that fails, 6 an
address or a length that is no image's (Table 17-17). DEDUCED: notes/assumptions/90. -/
def imageVerdict (s : State) (a : Nat) : Nat :=
  if a + 512 > userEnd then 6
  else
    let h := seen s a 512
    let num (o n : Nat) : Nat := leNat (hdrBytes h o n)
    let len := num 0x18 8
    let key := num 0x14 1
    if len = 0 ∨ len % 4096 ≠ 0 ∨ len > 8384512 ∨ a + 512 + len > userEnd then 6
    else if num 0 4 ≠ 0x47574631 ∨ num 4 4 ≠ 1 ∨ !allZero (hdrBytes h 0x15 3) ∨ !allZero (hdrBytes h 0x28 0x18) ∨
        !allZero (hdrBytes h 0xD0 0x30) ∨ !allZero (hdrBytes h 0x160 0xA0) ∨ len ≤ num 0x20 8 then 1
    else if key > 3 ∨ bitsN (rdf s SEC_FUSE SEC_FUSE_key_revoked) key key = 1 ∨
        Config.sha384 (hdrBytes h 0x70 0x60) ≠ Config.keyDigest key then 2
    else if num 0x10 4 < rdf s SEC_FUSE SEC_FUSE_min_svn then 3
    else if Config.sha384 (seen s (a + 512) len) ≠ leNat (hdrBytes h 0x40 48) then 4
    else if !Config.verify (hdrBytes h 0x70 0x60) (Config.sha384 (hdrBytes h 0 0x100)) (hdrBytes h 0x100 0x60) then 5
    else 0

/-- FW_INSTALL (R532): ignored while an installation runs. -/
def fwInstall (s : State) : State :=
  if rdf s SEC_STATUS SEC_STATUS_fw_state = 1 then s
  else
    let a := rdf s SEC_FW_ADDR SEC_FW_ADDR_addr * 4096
    let h := seen s a 512
    let s1 := afterRead (afterRead s a 512) (a + 512) (min 8384512 (leNat (hdrBytes h 0x18 8)))
    modSec (wrf s1 SEC_STATUS SEC_STATUS_fw_state 1) (fun x => { x with
      install := some (imageVerdict s a, leNat (hdrBytes h 0x10 4), leNat (hdrBytes h 0x40 48), leNat (hdrBytes h 8 16)) })

/-- FW_INSTALL. -/
def execFwInstall (s : State) : Out := .next (powered s (fwInstall s))

/-- An installation has ended: its state, its reason, the security source (R532). -/
def installEnd (s : State) (st reason : Nat) : State :=
  let s1 := wrf (wrf s SEC_STATUS SEC_STATUS_fw_state st) SEC_STATUS SEC_STATUS_reason reason
  raiseEvent (modSec s1 (fun x => { x with install := none })) 19

/-- FW_INSTALL_DONE (R532): a good image stands in the slot that was not booted, marked next; a store write that failed leaves
that slot empty. -/
def fwInstallDone (s : State) (storeOk : Bool) : State :=
  match s.sec.install with
  | none => s
  | some (v, svn, digest, head) =>
    let slot := 1 - s.sec.active
    if v ≠ 0 then installEnd s 3 v
    else if !storeOk then
      let s1 := modSec s (fun x => { x with
        svn := smErase x.svn slot, image := smErase x.image slot, marked := if x.marked = some slot then none else x.marked })
      installEnd (wrb s1 SEC_STATUS SEC_STATUS_next_valid s1.sec.marked.isSome) 3 7
    else
      let s1 := modSec s (fun x => { x with
        svn := smSet x.svn slot svn, image := smSet x.image slot (digest, head), marked := some slot })
      installEnd (wrb s1 SEC_STATUS SEC_STATUS_next_valid true) 2 0

/-- FW_INSTALL_DONE. -/
def execFwInstallDone (storeOk : Bool) (s : State) : Out := .next (fwInstallDone s storeOk)

/-- Minimum-version fuses, of which there are 128, are blown up to the running image's version (R533). -/
def commitSvn (s : State) : State :=
  wrf s SEC_FUSE SEC_FUSE_min_svn (max (rdf s SEC_FUSE SEC_FUSE_min_svn) (min 128 (rdf s SEC_STATUS SEC_STATUS_running_svn)))

/-- COMMIT_SVN. -/
def execCommitSvn (s : State) : Out := .next (powered s (commitSvn s))

/-- Debug access opens for the host or a management core until the next device reset (R543). -/
def debugUnlock (s : State) (src : Path) : State :=
  match src with
  | .host | .mgmt => wrb s SEC_STATUS SEC_STATUS_debug_open true
  | .monitor | .peerMgmt => s

/-- DEBUG_UNLOCK. -/
def execDebugUnlock (src : Path) (s : State) : Out := .next (powered s (debugUnlock s src))

/-! ### Attestation (R534, R535) -/

/-- Measurement i of Table 17-5, the debug state among them. -/
def measurement (s : State) (i : Nat) : Nat := if 5 ≤ i then (if debugOpen s then 1 else 0) else bootMeasurement s i

/-- The certificate chain of slot 0 (R534): the alias certificate is that of the last boot. -/
def certChain (s : State) : List Byte :=
  let c := Config.certificate s.sec.aliasOf
  c.1 :: c.2

/-- Put a response into the mailbox; one that has not been read is replaced. -/
def answerDoe (s : State) (o : Output) : State := modSec s (fun x => { x with doe := some o })

/-- An ERROR response: its code and its data (R535). -/
def spdmError (s : State) (code data : Nat) : State := answerDoe s (.response 0x7F [code, data])

/-- An SPDM request of a version (R535): ERROR Busy before the firmware runs and during a Roadbed
partial reset, ERROR VersionMismatch for any version but 1.2. -/
def spdm (s : State) (version : Nat) (body : State) : State :=
  if !s.sec.running || s.boot.rb != 0 then spdmError s 0x03 0
  else if version ≠ 0x12 then spdmError s 0x41 0 else body

/-- GET_VERSION (R535): a request of version 1.0 or 1.2 is answered with version 1.2. -/
def execGetVersion (version : Nat) (s : State) : Out :=
  .next (powered s (spdm s (if version = 0x10 then 0x12 else version) (answerDoe s (.response 0x04 [0x12]))))

/-- GET_CAPABILITIES (R535): CTExponent 20; CERT_CAP, CHAL_CAP, MEAS_CAP with signature, MEAS_FRESH_CAP. -/
def execGetCapabilities (version : Nat) (s : State) : Out :=
  .next (powered s (spdm s version (answerDoe s (.response 0x61 [20, 0x36]))))

/-- NEGOTIATE_ALGORITHMS (R535): of each kind, the one supported, if it is offered. -/
def execNegotiateAlgorithms (version : Nat) (p384 sha dmtf : Bool) (s : State) : Out :=
  .next (powered s (spdm s version (answerDoe s (.response 0x63
    [if dmtf then 1 else 0, if dmtf then 4 else 0, if p384 then 0x80 else 0, if sha then 2 else 0]))))

/-- GET_DIGESTS (R535): slot 0. -/
def execGetDigests (version : Nat) (s : State) : Out :=
  .next (powered s (spdm s version (answerDoe s (.response 0x01 [1, Config.sha384 (certChain s)]))))

/-- GET_CERTIFICATE (R535): a part of the chain of slot 0, with its length and what remains. -/
def execGetCertificate (version slot off len : Nat) (s : State) : Out :=
  .next (powered s (spdm s version (
    let c := certChain s
    let part := (c.drop off).take len
    if slot ≠ 0 ∨ c.length ≤ off then spdmError s 0x01 0
    else answerDoe s (.response 0x02 ([slot, part.length, c.length - (off + part.length)] ++ part.map (·.toNat))))))

/-- CHALLENGE (R535): the digest of the chain and a signature over it and the nonce. -/
def execChallenge (version slot : Nat) (nonce : BitVec 256) (s : State) : Out :=
  .next (powered s (spdm s version (
    let d := Config.sha384 (certChain s)
    if slot ≠ 0 then spdmError s 0x01 0
    else answerDoe s (.response 0x03 [slot, d, Config.sign s.sec.aliasOf (Config.sha384 (bytesOf 48 d ++ bytesOf 32 nonce.toNat))]))))

/-- GET_MEASUREMENTS (R535): index 0 asks for their number, 0xFF for all, 1 to 5 for one. -/
def execGetMeasurements (version index : Nat) (sign : Bool) (nonce : BitVec 256) (s : State) : Out :=
  .next (powered s (spdm s version (
    if index ≠ 0 ∧ index ≠ 0xFF ∧ 5 < index then spdmError s 0x01 0
    else
      let is := if index = 0 then [] else if index = 0xFF then [1, 2, 3, 4, 5] else [index]
      let ms := is.map (measurement s)
      let sig := if sign then [Config.sign s.sec.aliasOf (Config.sha384 (ms.flatMap (bytesOf 48) ++ bytesOf 32 nonce.toNat))] else []
      answerDoe s (.response 0x60 ([if index = 0 then 5 else is.length] ++ ms ++ sig)))))

/-- SPDM_UNSUPPORTED_REQUEST (R535): any other request. -/
def execSpdmUnsupportedRequest (version code : Nat) (s : State) : Out := .next (powered s (spdm s version (spdmError s 0x07 code)))

/-- DOE_ABORT (R535): a response in preparation is discarded. -/
def execDoeAbort (s : State) : Out := .next (powered s (modSec s (fun x => { x with doe := none })))

/-- DOE_DISCOVERY (R535, Table 17-6): vendor, type and the next index: 0 DOE Discovery, 1 CMA/SPDM. -/
def execDoeDiscovery (index : Nat) (s : State) : Out :=
  .next (powered s (answerDoe s (.response 0 (if index = 0 then [1, 0, 1] else if index = 1 then [1, 1, 0] else [0xFFFF, 0, 0]))))

end Sys2Proof.Machine
end

