-- ==== Sys2Proof/Machine/HostLink.lean ====
section
/-! DEFINITION. The PCI Express link and function (R417 to R420, R441 to R445), placement of host data through BAR2 (R439,
R440), and keep state as software asks for it and leaves it (R446 to R450). -/

namespace Sys2Proof.Machine

/-- Change the function. -/
def modPcie (s : State) (f : Pcie → Pcie) : State := { s with pcie := f s.pcie }

/-- Whether the link may train (R490, R566): power is good, an attempt since the last device reset has released the PCI Express
controller at its step 3, PERST# is high. DEDUCED: notes/assumptions/71. -/
def linkServed (s : State) : Bool :=
  s.boot.pg && !s.boot.rstLow && !s.boot.perst && s.boot.sampled && s.boot.released

/-- A host request waits while Roadbed's partial reset holds it (R505, R507); otherwise it has its effect. -/
def unlessHeld (s : State) (c : Instr) (run : State) : State :=
  if s.boot.rb ≠ 0 then modHost s (fun h => { h with hostHeld := h.hostHeld ++ [c] }) else run

/-- Count an access refused under R440 or R447. -/
def bar2Refused (s : State) : State := count s HST_ERR HST_ERR_bar2_unmapped
/-- Advanced Error Reporting notes an uncorrectable error (Table 13-1): bit 20 an unsupported request, bit 12 a poisoned one. PRESUMED:
notes/assumptions/69. -/
def noteAer (s : State) (b : Nat) : State :=
  let w := smGet 0 s.pcie.header 0x104
  if bitsN w b b = 1 then s else modPcie s (fun p => { p with header := smPut 0 p.header 0x104 (w + 2 ^ b) })

/-- Count an unsupported or poisoned request (R417). -/
def countUr (s : State) (b : Nat := 20) : State := count (noteAer s b) HST_ERR HST_ERR_ur

/-- Whether BAR2 and BAR4 refuse (R447, R490): in keep state, or while the device is waiting. -/
def barsRefuse (s : State) : Bool := decide (2 ≤ keepState s) || !deviceReady s

/-! ### Held messages (R540) -/

/-- Messages that were due while the function could not send them go, once for each vector (R540). -/
def sendHeldMsi (s : State) : State :=
  if s.pcie.bme && s.pcie.msixOn then
    s.pcie.heldMsi.foldl signalVector (modPcie s (fun p => { p with heldMsi := [] }))
  else s

/-- A vector is unmasked, or the function is: a pending message goes (PCI Express, R434, R540). PRESUMED: notes/assumptions/70. -/
def sendPending (s : State) (v : Nat) : State :=
  let off := 0x288000 + v / 64 * 8
  let w := smGet 0 s.cfg off
  if bit w (v % 64) && !msixMasked s v && s.pcie.bme && s.pcie.msixOn then
    emit { s with cfg := smPut 0 s.cfg off (BitVec.ofNat 64 (w.toNat - 2 ^ (v % 64))) } (.msix v)
  else s

/-- Every pending message that may go now does. -/
def sendAllPending (s : State) : State := (upto 2048).foldl sendPending s

/-- The requests of the device flow again (R441, R442): held writes in their order, records, messages. -/
def requestsFlow (s : State) : State :=
  if hostOpen s then
    let s1 := replayHeld s
    sendAllPending (sendHeldMsi (s1.host.chans.foldl (fun s c => flushRecords s c.1) s1))
  else s

/-- MSIX_HOLDOFF_EXPIRY (R434): a microsecond after a vector was signalled, what has become due since goes. -/
def execMsixHoldoffExpiry (v : Nat) (s : State) : Out :=
  .next (if s.host.msiSent.contains v then
      let s1 := modHost s (fun h => { h with msiSent := h.msiSent.filter (· ≠ v), msiDue := h.msiDue.filter (· ≠ v) })
      if s.host.msiDue.contains v then signalHeldOff s1 v else s1
    else s)

/-! ### Host resets and the link -/

/-- Every active region becomes suspended (R443); one that was suspended keeps its time. -/
def suspendRegions (s : State) : State :=
  { s with host := { s.host with chans := s.host.chans.map (fun c => (c.1, { c.2 with
    regions := c.2.regions.map (fun r => if r.active then { r with active := false, since := now s } else r) })) } }

/-- Whether a request of a core waits for a read of host memory. -/
def readsHost (s : State) (r : Req) : Bool :=
  r.phase == .ext && r.fresh && !isGlobal r.src && (regionOf r.src).kind == .host

/-- The page transfers that read a host window. -/
def hostFetches (s : State) : List Transfer :=
  s.atn.moves.filter (fun m => !m.out && (match tableOf s m.table with
    | some t => t.kind != 0
    | none => false))

/-- The copies that read a host window, with their channels. -/
def hostCopies (s : State) : List (Nat × Entry) :=
  s.host.chans.flatMap (fun c => (c.2.entries.filter (fun e => e.op == 1 && e.phase == .started &&
    (regionOf (e.args.getD 0 0).toNat).kind == .host)).map (fun e => (c.1, e)))

/-- Every host read not yet completed fails (Table 13-13 step 2): cores' requests, page fetches, copies.
DEDUCED: notes/assumptions/72. -/
def failHostReads (s : State) : State :=
  let s1 := { s with reqs := s.reqs.map (fun r => if readsHost s r then { r with phase := .ans, code := 0x0A } else r) }
  let s2 := (hostFetches s).foldl (fun s m => transferDone s m.id false []) s1
  (hostCopies s2).foldl (fun s e => carryEntry s e.1 e.2.n 0x09 0) s2

/-- The MSI-X table and the pending-bit array of the HST block (Table 13-14). -/
def msixReg (off : Nat) : Bool := decide (0x280000 ≤ off) && decide (off < 0x288100)

/-- A host reset (R418, R443, Table 13-13 steps 1 to 5). `up` tells whether the link itself stays up. The configuration header's
capabilities reset with it, the mailbox of Data Object Exchange among them (Table 13-1). DEDUCED: notes/assumptions/71. -/
def hostReset (s : State) (up : Bool) : State :=
  let s1 := clearIf { s with pcie := {}, sec := { s.sec with doe := none } } msixReg
  let s2 := failHostReads (suspendRegions (modHost s1 (fun h => { h with
    linkUp := h.linkUp && up, linkLoss := false, inReset := true, msiSent := [], msiDue := [] })))
  let s3 := if up then s2 else wrf s2 HST_LINK HST_LINK_speed 0
  let s4 := raiseEvent (count s3 HST_LINK HST_LINK_resets) 15
  if keepState s4 = 0 then wrf s4 HST_KEEP_STATUS HST_KEEP_STATUS_state 1 else s4

/-- A host reset of a kind; before step 3 of the boot there is no host-link domain to reset. DEDUCED: notes/assumptions/71. -/
def hostResetOf (s : State) (k : HostResetKind) : State :=
  let s1 := if k = .perst then modBoot s (fun b => { b with perst := true }) else s
  if linkServed s then hostReset s1 (k == .flr) else s1

/-- HOST_RESET (R418, R441, R443). -/
def execHostReset (k : HostResetKind) (s : State) : Out := .next (unlessHeld s (.hostReset k) (hostResetOf s k))

/-- DATA_LINK_DOWN (R441, R442): a link interruption begins. -/
def execDataLinkDown (s : State) : Out :=
  .next (if s.host.linkUp && !s.host.linkLoss then
      wrf (modHost s (fun h => { h with linkLoss := true, lossAt := now s })) HST_LINK HST_LINK_speed 0
    else s)

/-- DATA_LINK_UP (R441, R442): the link has trained at a rate (1 to 6) and a width; after an interruption the held writes go
before any new one. -/
def execDataLinkUp (speed width : Nat) (flit : Bool) (s : State) : Out :=
  .next (
    if !linkServed s ∨ (s.host.linkUp ∧ ¬ s.host.linkLoss) ∨ ¬ (1 ≤ speed ∧ speed ≤ 6) ∨
        ¬ [1, 2, 4, 8, 16].contains width = true then s
    else
      let w := setb (setf (setf (rd s HST_LINK) HST_LINK_speed speed) HST_LINK_width width) HST_LINK_flit flit
      let s1 := wr s HST_LINK w
      let s2 := if s.host.linkLoss then count s1 HST_LINK HST_LINK_interruptions else s1
      requestsFlow (modHost s2 (fun h => { h with linkUp := true, linkLoss := false })))

/-- Data Link Down has lasted past retrain_ms (R441), which is a host reset. -/
def linkExpired (s : State) : State :=
  if s.host.linkLoss then hostReset (advanceTo s (s.host.lossAt + rdf s HST_CTRL HST_CTRL_retrain_ms * 10 ^ 6)) false else s

/-- LINK_RETRAIN_EXPIRY (R441, R507). -/
def execLinkRetrainExpiry (s : State) : Out :=
  .next (if s.host.linkLoss then unlessHeld s .linkRetrainExpiry (linkExpired s) else s)

/-- BUS_MASTER_DISABLE (R441). -/
def busMaster (s : State) (on : Bool) : State :=
  let s1 := modPcie s (fun p => { p with bme := on })
  if on && !s.pcie.bme then requestsFlow s1 else s1

/-- BUS_MASTER_DISABLE. -/
def execBusMasterDisable (s : State) : Out := .next (powered s (busMaster s false))

/-- BUS_MASTER_ENABLE (R441, R540). -/
def execBusMasterEnable (s : State) : Out := .next (powered s (busMaster s true))

/-- A write to the configuration header (R417, R418, R441, R540). The places are:
Command at 0x04, BARs from 0x10, PMCSR at 0x44, Device Control at 0x78, MSI-X control at 0xB0, Advanced Error Reporting from 0x100
with its status registers, which a write of 1 clears, at 0x104 and 0x110, the Resizable BAR control at 0x150. PRESUMED: notes/assumptions/69. -/
def configurationWrite (s : State) (off d : Nat) : State :=
  let s1 := modPcie s (fun p => { p with header := smPut 0 p.header off d })
  let old := smGet 0 s.pcie.header off
  let keep (v : Nat) : State := modPcie s (fun p => { p with header := smPut 0 p.header off v })
  match off with
  | 0x104 => keep (old &&& (2 ^ 32 - 1 - d))
  | 0x110 => keep (old &&& (2 ^ 32 - 1 - d))
  | 0x118 => keep (0xA0 + bitsN d 6 6 * 2 ^ 6 + bitsN d 8 8 * 2 ^ 8)
  | 0x04 => busMaster s1 (bitsN d 2 2 == 1)
  | 0x44 =>
    let s2 := modPcie s1 (fun p => { p with d3hot := bitsN d 1 0 == 3 })
    if s.pcie.d3hot then requestsFlow s2 else s2
  | 0x78 => if bitsN d 15 15 = 1 then hostReset (modPcie s1 (fun p => { p with header := smPut 0 p.header off (d - 0x8000) })) true else s1
  | 0xB0 => sendAllPending (sendHeldMsi (modPcie s1 (fun p => { p with msixOn := bitsN d 31 31 == 1, msixMask := bitsN d 30 30 == 1 })))
  | 0x150 =>
    let n := 20 + bitsN d 13 8
    if 30 ≤ n ∧ n ≤ 42 then modPcie s1 (fun p => { p with bar2Log2 := n }) else s1
  | _ => s1

/-- The dwords of the header that software may write: the Command register, the BARs and the control registers of the
capabilities that the device has (PRESUMED). PRESUMED: notes/assumptions/69. -/
def headerWritable (off : Nat) : Bool :=
  [0x04, 0x44, 0x78, 0xB0, 0x104, 0x108, 0x10C, 0x110, 0x114, 0x118, 0x150].contains off || (decide (0x10 ≤ off) && decide (off < 0x28) && off % 4 == 0)

/-- What a read of a dword of the configuration header shows (R6, R417, R490): the dword pair after the header of the capability
with VSEC ID 0x0001 is a copy of PWR_BOOT; an absent dword reads zero. PRESUMED: notes/assumptions/69. -/
def configurationRead (s : State) (off : Nat) : Nat :=
  match off with
  | 0x208 => bitsN (bootWord s).toNat 31 0
  | 0x20C => bitsN (bootWord s).toNat 63 32
  | _ => smGet 0 s.pcie.header off

/-- CONFIGURATION_WRITE (R418, R441): a write to a read-only or absent dword has no effect. -/
def execConfigurationWrite (off : Nat) (d : BitVec 32) (s : State) : Out :=
  .next (if s.host.linkUp && !s.host.linkLoss && headerWritable off then configurationWrite s off d.toNat else s)

/-- UNSUPPORTED_REQUEST (R417, R419): answered Unsupported Request, or dropped if it is a poisoned write, and counted. -/
def execUnsupportedRequest (k : UrKind) (s : State) : Out :=
  .next (powered s (if k = .poisonedWrite then countUr s 12 else emit (countUr s) (.hostRead 1 [])))

/-! ### BAR2 -/

/-- The placement slot at a BAR2 offset, and the local address it leads to (R439). -/
def slotAt (s : State) (off len : Nat) : Option (PlaceSlot × Nat) :=
  match smFind? s.host.slots (off / 2 ^ 30) with
  | none => none
  | some p =>
    let o := off % 2 ^ 30
    if o + len ≤ p.len then some (p, p.addr + o) else none

/-- A posted write to BAR2 (R417, R420, R440, R447): poisoned ones and refused ones are dropped and counted; a write in D3hot is an
unsupported request. -/
def bar2Write (s : State) (off : Nat) (d : List Byte) (poisoned : Bool) : State :=
  if poisoned then countUr s 12
  else if s.pcie.d3hot || decide (2 ^ s.pcie.bar2Log2 < off + d.length) then countUr s
  else if barsRefuse s then bar2Refused s
  else
    match slotAt s off d.length with
    | some (p, a) =>
      if !p.write then bar2Refused s
      else
        match sysWrite s .host a d with
        | (.data _, s1) => s1
        | (_, s1) => bar2Refused s1
    | none => bar2Refused s

/-- A read of BAR2 (R440, R447, R463): data, Unsupported Request or a poisoned completion. -/
def bar2Read (s : State) (off len : Nat) : State :=
  let ur (s : State) : State := emit s (.hostRead 1 [])
  if s.pcie.d3hot || decide (2 ^ s.pcie.bar2Log2 < off + len) then ur (countUr s)
  else if barsRefuse s then ur (bar2Refused s)
  else
    match slotAt s off len with
    | some (p, a) =>
      if !p.read then ur (bar2Refused s)
      else
        match sysRead s .host .requester a len with
        | (.data d, s1) => emit s1 (.hostRead 0 d)
        | (.poisoned, s1) => emit s1 (.hostRead 2 [])
        | (_, s1) => ur (bar2Refused s1)
    | none => ur (bar2Refused s)

/-- Whether a host request can arrive: the link is up. -/
def hostArrives (s : State) : Bool := s.host.linkUp && !s.host.linkLoss

/-- BAR2_WRITE (R420). -/
def execBar2Write (off : Nat) (d : List Byte) (poisoned : Bool) (s : State) : Out :=
  .next (if hostArrives s then unlessHeld s (.bar2Write off d poisoned) (lateSettle (bar2Write s off d poisoned)) else s)

/-- BAR2_READ (R440). -/
def execBar2Read (off len : Nat) (s : State) : Out :=
  .next (if hostArrives s then unlessHeld s (.bar2Read off len) (lateSettle (bar2Read s off len)) else s)

/-! ### Held writes that nobody confirms -/

/-- The end of a suspended region's wait (R443 step 8). -/
def holdUntil (s : State) (r : HRegion) : Nat := r.since + rdf s HST_CTRL HST_CTRL_hold_s * 10 ^ 9

/-- The suspended regions of the device: channel and region. -/
def suspended (s : State) : List (Nat × HRegion) :=
  s.host.chans.flatMap (fun c => (c.2.regions.filter (fun r => !r.active)).map (fun r => (c.1, r)))

/-- Held writes of the regions named are discarded and the regions deregistered (R443 step 8, R445). -/
def dropRegions (s : State) (rs : List (Nat × Nat)) : State :=
  let s1 := discardHeld s (fun x => rs.contains (x.chan, x.w))
  modHost s1 (fun h => { h with chans := h.chans.map (fun c => (c.1, { c.2 with
    regions := c.2.regions.filter (fun r => !rs.contains (c.1, r.w)) })) })

/-- HOLD_EXPIRY (R443): the wait of the region suspended longest ends, and of every region suspended as long. -/
def execHoldExpiry (s : State) : Out :=
  .next (match ((suspended s).map (fun r => holdUntil s r.2)).min? with
    | none => s
    | some t =>
      let s1 := advanceTo s t
      dropRegions s1 (((suspended s1).filter (fun r => decide (holdUntil s1 r.2 ≤ now s1))).map (fun r => (r.1, r.2.w))))

/-! ### Keep state -/

/-- Set HST_KEEP_STATUS.state. -/
def setKeep (s : State) (n : Nat) : State := wrf s HST_KEEP_STATUS HST_KEEP_STATUS_state n

/-- A write of 1 to HST_KEEP_CTRL.enter (R446, R453): when running, keep state is entered at the next milestone. -/
def keepEnter (s : State) : State := if keepState s = 0 then setKeep s 1 else s

/-- KEEP_ENTER. -/
def execKeepEnter (s : State) : Out := .next (powered s (keepEnter s))

/-- What leaving keep state does on either way (R73, R100, R114, R374, R449): the token goes, caches are invalidated, the cores'
clocks run, the walker resumes, the next milestone is timed. A member of a fabric takes the root's stage number at its first
milestone. -/
def leaveKeep (s : State) : State :=
  let s1 := wr (setKeep s 0) HST_KEEP_TOKEN 0
  let s2 := cchInvalidateAll { s1 with cores := s1.cores.map (fun c => (c.1, { c.2 with held := false })) }
  let s3 := s2.cores.foldl (fun s c => roInvalidateAll s c.1) s2
  let s4 := modMst s3 (fun m => { m with
    opened := now s, due := if tickInput s && !m.tickLost then none else some (now s + periodNs s)
    release := none, sampled := false, slotOn := false, slotOver := false, seen := false, late := [], cleared := none
    changed := none, clearAt := none
    joined := m.joined && decide (fabricDevices s = 1) })
  goOnAll (modHost s4 (fun h => { h with inReset := false }))

/-- HST_KEEP_RECLAIM (R449, R450): the token leaves keep state, and every kept channel is orphaned; another value is refused. -/
def keepReclaim (s : State) (token : Word) : State :=
  if keepState s ≠ 2 then s
  else if token ≠ rd s HST_KEEP_TOKEN then countSat s HST_KEEP_STATUS HST_KEEP_STATUS_refused
  else
    let s1 := modHost s (fun h => { h with chans := h.chans.map (fun c =>
      (c.1, if c.2.st = .kept then { c.2 with st := .orphaned } else c.2)) })
    leaveKeep s1

/-- KEEP_RECLAIM. -/
def execKeepReclaim (token : Word) (s : State) : Out := .next (powered s (keepReclaim s token))

/-- A write of 1 to HST_KEEP_CTRL.release (R449, R453): in keep state, the release begins. DEDUCED: notes/assumptions/73. -/
def keepRelease (s : State) : State := if keepState s = 2 then setKeep s 3 else s

/-- KEEP_RELEASE. -/
def execKeepRelease (s : State) : Out := .next (powered s (keepRelease s))

/-- The parts of the reserve of a stack that hold relocated user lines (R473). -/
def relocatedRanges (s : State) (k : Nat) : List (Nat × Nat) :=
  let w := rd s (REP_STACK k)
  let p := getf w REP_STACK_retired_pc
  let done := if getb w REP_STACK_retired then pcLines else if getb w REP_STACK_migrating then getf w REP_STACK_pointer else 0
  (upto 31).filterMap (fun i =>
    let n := min (done - i * 32768) 32768
    if n = 0 then none
    else
      let a := relocated k p (i * 32768)
      some (a, a + n * 2048))

/-- All user stack memory, every scratchpad, the pinned Verge window and every accumulator tile are zeroed (R449). -/
def zeroAll (s : State) : State :=
  let ranges := (0, userEnd) :: (upto 36).flatMap (relocatedRanges s)
  let hit (a : Nat) : Bool := ranges.any (fun r => decide (r.1 ≤ a) && decide (a < r.2)) || decide (scratchBase ≤ a)
  let m := s.mem
  let zero (l : List Byte) : List Byte := l.map (fun _ => 0)
  { s with
    mem := { m with cells := m.cells.filter (fun c => !hit c.1)
                    zeroed := if m.base.isSome then ranges ++ m.zeroed.filter (fun r => !ranges.contains r) else []
                    poison := m.poison.filter (fun x => !hit (x * 256)), gone := [], rebuilt := [] }
    slices := s.slices.map (fun c => (c.1, { c.2 with
      lines := c.2.lines.map (fun v => { v with
        secs := (v.secs.filter (fun x => x.2.st != .dead)).map (fun x => (x.1, { st := .clean, data := zero x.2.data }))
        red := none })
      prov := [] }))
    cores := s.cores.map (fun c => (c.1, { c.2 with tiles := [], bad := [] })) }

/-- Every kept stream becomes idle (R449). -/
def idleKept (s : State) : State :=
  let z (x : Stream) : Stream := if x.st = .kept then { x with st := .idle } else x
  { s with cores := s.cores.map (fun c => (c.1, { c.2 with f := z c.2.f, b := z c.2.b, u := z c.2.u })) }

/-- Every channel is freed (R424, R449): no stream and no plan has an owner any more, and a DESTROY under way has ended. -/
def freeAllChans (s : State) : State :=
  let drop (x : Stream) : Stream := { x with owner := none }
  let s1 := { s with cores := s.cores.map (fun c => (c.1, { c.2 with f := drop c.2.f, b := drop c.2.b, u := drop c.2.u }))
                     train := { s.train with by_ := none } }
  let s2 := modHost s1 (fun h => { h with chans := [], slots := [], destroy := none })
  if s.host.destroy.isSome then wr s2 CMD_MBOX_RESULT 0 else s2

/-- KEEP_RELEASE_COMPLETE (R449): memory is zeroed, the hold area and held records go, channels are freed, kept streams are idle,
keep state is left. DEDUCED: notes/assumptions/73. -/
def keepReleaseComplete (s : State) : State :=
  if keepState s ≠ 3 then s else leaveKeep (freeAllChans (idleKept (zeroAll (discardHeld s (fun _ => true)))))

/-- KEEP_RELEASE_COMPLETE. -/
def execKeepReleaseComplete (s : State) : Out := .next (keepReleaseComplete s)

/-- A write of 1 to HST_CTRL.stat_clr (R451). -/
def hstStatClear (s : State) : State :=
  let s1 := wr s HST_ERR 0
  let s2 := wrf (wrf s1 HST_LINK HST_LINK_resets 0) HST_LINK HST_LINK_interruptions 0
  wrf s2 HST_HOLD HST_HOLD_discarded 0

/-- HST_STAT_CLEAR. -/
def execHstStatClear (s : State) : Out := .next (powered s (hstStatClear s))

end Sys2Proof.Machine
end

