-- ==== Sys2Proof/Machine/Channel.lean ====
section
/-! DEFINITION. Channels (R421 to R437): doorbells, the mailbox, the reading and accepting of entries and chains, completion. -/

namespace Sys2Proof.Machine

/-- A command that names a channel index. -/
def onIndex (i : Nat) (s : State) : Out := onlyIf (decide (i < 4096)) s

/-! ### Stopping and doorbells -/

/-- A channel stops with a cause (Table 13-5): fetching ends, an event tells why. -/
def stopChan (s : State) (i cause : Nat) : State :=
  let s1 := modChan (wrf s (CMD_CHAN i) CMD_CHAN_cause cause) i (fun c => { c with st := .stopped, chain := [], reread := 0, fetching := true })
  if cause = 3 then s1 else putEvent s1 i 0x84 0xFFFFFFFF (BitVec.ofNat 64 cause)

/-- Count a doorbell write that is dropped (R435, R447). -/
def badDoorbell (s : State) : State := count s HST_ERR HST_ERR_bad_doorbell

/-- Whether a doorbell word names the channel that holds the index (R435). -/
def bellMatches (s : State) (i : Nat) (d : Word) : Bool := (chanOf s i).st != .free && bits d 63 44 == genOf s i

/-- A write of a command doorbell (R435 to R437): it raises the highest producer count, and may overrun the ring; one of another width or
place is dropped. DEDUCED: notes/assumptions/74. -/
def commandDoorbell (s : State) (i : Nat) (b : BellWrite) : State :=
  let d := b.data
  if b.at_ ≠ 0 ∨ b.width ≠ 8 ∨ barsRefuse s = true ∨ bellMatches s i d = false then badDoorbell s
  else
    let c := chanOf s i
    let δ := (bits d 31 0 + 2 ^ 32 - c.producer % 2 ^ 32) % 2 ^ 32
    if δ = 0 ∨ 2 ^ 31 ≤ δ then s
    else
      let s1 := modChan s i (fun c => { c with producer := c.producer + δ })
      if c.st = .opened ∧ 2 ^ c.ringLog2 < c.producer + δ - c.consumer then stopChan s1 i 2 else s1

/-- COMMAND_DOORBELL (R436). -/
def execCommandDoorbell (i : Nat) (d : BellWrite) (s : State) : Out :=
  onIndex i (if hostArrives s then unlessHeld s (.commandDoorbell i d) (commandDoorbell s i d) else s)

/-- A write of a completion doorbell (R432, R435). -/
def completionDoorbell (s : State) (i : Nat) (b : BellWrite) : State :=
  let d := b.data
  if b.at_ ≠ 8 ∨ b.width ≠ 8 ∨ barsRefuse s = true ∨ bellMatches s i d = false then badDoorbell s
  else modChan s i (fun c => { c with cqCons := bits d 31 0 })

/-- COMPLETION_DOORBELL (R435). -/
def execCompletionDoorbell (i : Nat) (d : BellWrite) (s : State) : Out :=
  onIndex i (if hostArrives s then unlessHeld s (.completionDoorbell i d) (completionDoorbell s i d) else s)

/-- What a read of a doorbell word shows (R435, R447): the index's generation and state, and the consumer count or the count of
records written; zero in keep state. -/
def doorbellRead (s : State) (i : Nat) (completion : Bool) : Word :=
  let c := chanOf s i
  if barsRefuse s then 0
  else BitVec.ofNat 64 (genOf s i * 2 ^ 44 + chanStNum c.st * 2 ^ 40 + (if completion then c.written else c.consumer) % 2 ^ 32)

/-! ### The mailbox -/

/-- A mailbox operation ends with a status and a value (R422). -/
def mboxEnd (s : State) (status value : Nat) : State :=
  wr s CMD_MBOX_RESULT (BitVec.ofNat 64 (putf CMD_MBOX_RESULT_status status + putf CMD_MBOX_RESULT_value value))

/-- An argument of the mailbox. -/
def mboxArg (s : State) (i : Nat) : Word := rd s (CMD_MBOX_ARG i)

/-- The base of the command ring of CREATE and ADOPT: in the device's memory, an address that names this device counts as its local part
(R45). -/
def ringBase (s : State) : Nat :=
  if bit (mboxArg s 2) 59 then localForm s (mboxArg s 0).toNat else (mboxArg s 0).toNat

/-- Whether the ring bases and the configuration word of CREATE and ADOPT are good (R423, Table 13-4). -/
def mboxConfigOk (s : State) : Bool :=
  let c := mboxArg s 2
  let ring := ringBase s
  let cq := bits c 12 8
  let rg := bits c 4 0
  decide (bits c 63 60 ≤ 1) && bits c 58 44 == 0 && bits c 30 13 == 0 && bits c 7 5 == 0 &&
  decide (bits c 43 32 < 2048) && decide (5 ≤ cq) && decide (cq ≤ 17) && decide (4 ≤ rg) && decide (rg ≤ 16) &&
  ring % 4096 == 0 && (mboxArg s 1).toNat % 4096 == 0 && (!bit c 59 || decide (ring + 2 ^ rg * 256 ≤ userEnd))

/-- A channel with the rings and the configuration of the mailbox arguments. -/
def configured (s : State) (c : Chan) : Chan :=
  let w := mboxArg s 2
  { c with st := .opened, kind := bits w 63 60, ringDev := bit w 59, vector := bits w 43 32, irq := bit w 31
           cqLog2 := bits w 12 8, ringLog2 := bits w 4 0, ring := ringBase s, cq := (mboxArg s 1).toNat
           written := 0, cqCons := 0, reread := 0, fetching := true, chain := [] }

/-- The lowest index with no channel (R422). -/
def freeIndex (s : State) : Option Nat := (upto 4096).find? (fun i => (chanOf s i).st == .free)

/-- CREATE (R421 to R424, R455). -/
def mboxCreate (s : State) : State :=
  if !mboxConfigOk s then mboxEnd s 1 0
  else
    match freeIndex s with
    | none => mboxEnd s 3 0
    | some i =>
      let g := if genOf s i = 0xFFFFF then 1 else genOf s i + 1
      let s1 := modHost s (fun h => { h with gens := smPut 0 h.gens i g })
      mboxEnd (wr (setChan s1 i (configured s1 {})) (CMD_CHAN i) 0) 0 (handleOf s1 i)

/-- The index that a handle names: its generation is the index's own (R421); one that is free now is in a state in which the table lists no
operation on it (R424). -/
def handleIdx (s : State) (h : Nat) : Option Nat :=
  if h / 4096 = genOf s (h % 4096) ∧ h / 4096 ≠ 0 then some (h % 4096) else none

/-- An entry that has not started, or a filler unit that has not, is abandoned (R424). -/
def abandoned (s : State) (i : Nat) (e : Entry) : Entry :=
  if e.op ≠ 0x7F ∧ (e.phase = .accepted ∨ (e.op = 0x0B ∧ e.phase = .running ∧ s.train.filler ≠ some (i, e.n))) then
    { e with phase := .carried, code := 0x0A, value := 0 } else e

/-- DESTROY begins (Table 13-5): streams are asked to halt, what has not started is abandoned; the mailbox stays busy. -/
def mboxDestroy (s : State) (i : Nat) : State :=
  let owned := s.cores.flatMap (fun c => (allStreams.filter (fun t => (c.2.str t).owner == some i)).map (fun t => (c.1, t)))
  let s1 := haltAll s owned
  let s2 := modChan s1 i (fun c => { c with st := .destroying, chain := [], entries := c.entries.map (abandoned s i) })
  wrb (modHost s2 (fun h => { h with destroy := some i })) CMD_MBOX_RESULT CMD_MBOX_RESULT_busy true

/-- The held bytes of a region of a channel. -/
def regionHeld (s : State) (i w : Nat) : Nat :=
  ((s.host.holdQ.filter (fun x => x.chan == i && x.w == w)).map (fun x => x.data.length)).sum

/-- CONFIRM (R445): the region with its epoch becomes active and its writes go; with another it is deregistered. -/
def mboxConfirm (s : State) (i : Nat) : State :=
  let w := (mboxArg s 0).toNat
  match (chanOf s i).regions.find? (fun r => r.w == w) with
  | none => mboxEnd s 6 0
  | some r =>
    if r.epoch ≠ bits (mboxArg s 1) 31 0 then mboxEnd (dropRegions s [(i, w)]) 7 0
    else
      let n := regionHeld s i w
      let s1 := modChan s i (fun c => { c with regions := c.regions.map (fun x => if x.w = w then { x with active := true } else x) })
      mboxEnd (replayHeld s1) 0 n

/-- A write of an operation code to CMD_MBOX_OP (R422, R447, R454). DEDUCED: notes/assumptions/74. -/
def mbox (s : State) (op : Nat) : State :=
  if rdb s CMD_MBOX_RESULT CMD_MBOX_RESULT_busy then s
  else if 2 ≤ keepState s then mboxEnd (count s HST_ERR HST_ERR_bad_access) 5 0
  else if op = 1 then mboxCreate s
  else if op < 1 ∨ 5 < op then mboxEnd s 1 0
  else
    match handleIdx s (mboxArg s 3).toNat with
    | none => mboxEnd s 2 0
    | some i =>
      let st := (chanOf s i).st
      match op with
      | 2 => if st = .opened ∨ st = .stopped ∨ st = .orphaned then mboxDestroy s i else mboxEnd s 4 0
      | 3 =>
        if st = .stopped then
          mboxEnd (flushRecords (modChan s i (fun c => { c with st := .opened, reread := 0, fetching := true, chain := [] })) i) 0 0
        else mboxEnd s 4 0
      | 4 =>
        if st ≠ .orphaned then mboxEnd s 4 0
        else if !mboxConfigOk s then mboxEnd s 1 0
        else mboxEnd (flushRecords (setChan s i (configured s (chanOf s i))) i) 0 (handleOf s i)
      | _ => if st = .opened ∨ st = .stopped ∨ st = .orphaned then mboxConfirm s i else mboxEnd s 4 0

/-- A row of the mailbox: its operation is written to CMD_MBOX_OP; while the device is waiting the write is dropped (R490). -/
def mboxRow (s : State) (c : Instr) (op : Nat) : State := if deviceReady s then unlessHeld s c (mbox s op) else s

/-- CREATE (R422). -/
def execCreate (s : State) : Out := .next (mboxRow s .create 1)
/-- DESTROY (R424). -/
def execDestroy (s : State) : Out := .next (mboxRow s .destroy 2)
/-- RESUME (R424). -/
def execResume (s : State) : Out := .next (mboxRow s .resume 3)
/-- ADOPT (R450). -/
def execAdopt (s : State) : Out := .next (mboxRow s .adopt 4)
/-- CONFIRM (R445). -/
def execConfirm (s : State) : Out := .next (mboxRow s .confirm 5)

/-- What a channel held goes with it (Table 13-5): its held writes, regions, slots, the ownership of its streams and of the plan
it loaded. DEDUCED: notes/assumptions/72. -/
def freeChan (s : State) (i : Nat) : State :=
  let s1 := discardHeld s (fun x => x.chan == i)
  let drop (x : Stream) : Stream := if x.owner = some i then { x with owner := none } else x
  let s2 := { s1 with cores := s1.cores.map (fun c => (c.1, { c.2 with f := drop c.2.f, b := drop c.2.b, u := drop c.2.u }))
                      train := { s1.train with by_ := if s1.train.by_.map (·.1) = some i then none else s1.train.by_ } }
  modHost s2 (fun h => { h with chans := smErase h.chans i, slots := h.slots.filter (fun p => p.2.chan != i) })

/-- CHANNEL_FREED (R424): every started entry is complete and every owned stream is halted, idle or kept. -/
def execChannelFreed (i : Nat) (s : State) : Out :=
  onIndex i (
    let c := chanOf s i
    let owned := s.cores.all (fun k => allStreams.all (fun t => (k.2.str t).owner != some i || (k.2.str t).atRest))
    if c.st = .destroying ∧ c.entries = [] ∧ owned = true then
      let s1 := freeChan s i
      if s.host.destroy = some i then mboxEnd (modHost s1 (fun h => { h with destroy := none })) 0 0 else s1
    else s)

/-! ### Entries -/

/-- The fields of a command entry as read from its slot (Table 13-6). -/
structure Slot where
  seq     : Nat
  op      : Nat
  inline_ : Nat
  chain   : Bool
  zero    : Bool
  e       : Entry
deriving DecidableEq, Repr

/-- The slot of entry number n as its 256 bytes give it. -/
def slotOf (n : Nat) (d : List Byte) : Slot :=
  let w (i : Nat) : Word := wordAt d i
  let k := bits (w 0) 23 16
  { seq := bits (w 0) 63 32, op := bits (w 0) 31 24, inline_ := k, chain := bit (w 0) 15
    zero := bits (w 0) 11 0 == 0 && bits (w 7) 63 32 == 0
    e := { n := n, op := bits (w 0) 31 24, tag := w 1, args := [w 2, w 3, w 4, w 5, w 6], payload := (d.drop 64).take k
           fence := bit (w 0) 14, irq := bit (w 0) 13, cmpl := bit (w 0) 12 } }

/-- Whether a slot's 256 bytes show entry n (R426, R436): the sequence number and the waybill match. -/
def visible (n : Nat) (d : List Byte) : Bool :=
  d.length == 256 && bits (wordAt d 0) 63 32 == n % 2 ^ 32 &&
  crc32c (merge d 0x38 [0, 0, 0, 0]) == leNat ((d.drop 0x38).take 4)

/-- Whether an operation code is one of Table 13-7 that begins an entry. -/
def opKnown (op : Nat) : Bool := decide (op ≤ 0x0B)

/-- The arguments that an operation uses (Table 13-7). -/
def argsUsed : Nat → List Nat
  | 0x01 => [0, 1, 2, 3, 4]
  | 0x02 => [0]
  | 0x03 => [0, 1, 2, 3]
  | 0x04 => [1, 2]
  | 0x06 => [0, 1]
  | 0x07 => [0]
  | 0x08 => [0, 1, 2]
  | 0x09 => [2]
  | 0x0A => [0]
  | 0x0B => [0, 1]
  | _ => []

/-- The bits of an argument that an operation does not use are zero (R427). -/
def argBitsOk (op : Nat) (a : Nat → Word) : Bool :=
  (upto 5).all (fun i => (argsUsed op).contains i || a i == 0) &&
  (match op with
   | 0x03 => bits (a 1) 31 15 == 0 && bits (a 2) 63 4 == 0
   | 0x04 => bits (a 1) 31 15 == 0 && bits (a 2) 63 3 == 0
   | 0x06 => bits (a 1) 63 34 == 0 && bits (a 1) 33 32 != 0
   | 0x08 => bits (a 2) 63 34 == 0 && bits (a 2) 31 12 == 0 && bits (a 2) 33 32 != 0
   | 0x09 => bits (a 2) 63 12 == 0
   | _ => true)

/-- Whether an operation takes a payload of this length (R427, R428). -/
def payloadOk (op n : Nat) : Bool :=
  match op with
  | 0x02 => true
  | 0x05 => n == 64
  | 0x06 => n % 16 == 0 && decide (16 ≤ n)
  | _ => n == 0

/-- The status with which an accepted entry or chain head ends at once (Table 13-9); none where it goes on.
DEDUCED: notes/assumptions/75. -/
def entryRefusal (kind : Nat) (e : Entry) : Option Nat :=
  if !opKnown e.op then some 0x01
  else if (if kind = 1 then e.op ≠ 0 ∧ e.op ≠ 0x0B else e.op = 0x0B) then some 0x0B
  else if !argBitsOk e.op (fun i => e.args.getD i 0) || !payloadOk e.op e.payload.length then some 0x02
  else none

/-- The entries of a channel that count as running: started and not complete (R429). -/
def runningEntries (c : Chan) : Nat := (c.entries.filter (fun e => e.op != 0x7F && e.phase != .accepted)).length

/-- Entries with a fence start once every earlier entry has completed (R429). -/
def startFences (c : Chan) : Chan :=
  { c with entries := c.entries.map (fun e =>
      if e.phase = .accepted ∧ e.op ≠ 0x7F ∧ runningEntries c < 64 ∧ c.entries.all (fun x => decide (e.n ≤ x.n)) = true then
        { e with phase := .started } else e) }

/-- Accept the entries of a list, the head first, with the status that ends it at once, if any (R428, R429): the consumer count
moves past them. -/
def acceptList (c : Chan) (es : List Entry) (code : Option Nat) : Chan :=
  match es with
  | [] => c
  | h :: t =>
    let h1 : Entry := { h with payload := es.flatMap (·.payload) }
    let done (e : Entry) (k : Nat) : Entry := { e with phase := .carried, code := k }
    let new : List Entry := match code with
      | some 0x01 => es.map (fun e => done e 0x01)
      | some k => done h1 k :: t.map (fun e => { e with payload := [] })
      | none => { h1 with phase := if h.fence then .accepted else .started } :: t.map (fun e => { e with payload := [] })
    startFences { c with entries := c.entries ++ new, consumer := c.consumer + es.length, chain := [], reread := 0, fetching := true }

/-- Whether the engine can accept n more entries (R429, R432). -/
def canAccept (s : State) (i n : Nat) : Bool := decide (n + 16 ≤ freeRecords s i) && decide (runningEntries (chanOf s i) < 64)

/-- An entry that begins (not CONT) is read with no chain before it (R428). -/
def takeHead (s : State) (i : Nat) (x : Slot) : State :=
  let good := x.zero && decide (x.inline_ ≤ 192)
  if good && x.chain && opKnown x.op then modChan s i (fun c => { c with chain := [x.e], reread := 0, fetching := true })
  else if !canAccept s i 1 then s
  else modChan s i (fun c => acceptList c [x.e] (if good then entryRefusal c.kind x.e else some 0x01))

/-- A visible entry (R427 to R429, R436): it joins the chain being read, ends it, breaks it, or is taken on its own. While the
records or the places it needs are taken, it waits. DEDUCED: notes/assumptions/75. -/
def takeEntry (s : State) (i : Nat) (x : Slot) : State :=
  let c := chanOf s i
  if x.op = 0x7F then
    let es := c.chain ++ [x.e]
    let good := x.zero && decide (1 ≤ x.inline_) && decide (x.inline_ ≤ 192) && x.e.args.all (· == 0) &&
      !c.chain.isEmpty && decide ((es.flatMap (·.payload)).length ≤ 4096)
    if good && x.chain then modChan s i (fun c => { c with chain := es, reread := 0, fetching := true })
    else if !canAccept s i es.length then s
    else modChan s i (fun c => acceptList c es (if good then
        (match es with
         | h :: _ => entryRefusal c.kind { h with payload := es.flatMap (·.payload) }
         | [] => none)
      else some 0x01))
  else if c.chain.isEmpty then takeHead s i x
  else if !canAccept s i c.chain.length then s
  else takeHead (modChan s i (fun c => acceptList c c.chain (some 0x01))) i x

/-- Whether an operation is carried out in a copy unit (R569). -/
def unitOp (op : Nat) : Bool := op == 0x01 || op == 0x02

/-- The copies that have started take their places in the order of starting (R569). -/
def stampUnits (s : State) (i : Nat) : State :=
  let new := ((chanOf s i).entries.filter (fun e => unitOp e.op && e.phase == .started && e.unit == 0)).map (·.n)
  if new = [] then s
  else modChan { s with nextId := s.nextId + new.length } i (fun c => { c with entries := c.entries.map (fun e =>
    if new.contains e.n then { e with unit := s.nextId + new.idxOf e.n } else e) })

/-- Whether the engine reads the command ring of a channel (R436, R437, R443, R446). -/
def reads (s : State) (i : Nat) : Bool :=
  let c := chanOf s i
  c.st == .opened && decide (c.consumer + c.chain.length < c.producer) && !s.host.inReset && deviceReady s &&
  (c.ringDev || hostOpen s)

/-- The bytes of a ring slot: as the host returned them, or read from the device's memory through the slices (R423, R436). -/
def slotBytes (s : State) (i : Nat) (host : List Byte) : List Byte × State :=
  let c := chanOf s i
  if c.ringDev then
    match engineRead s .requester (c.ring + (c.consumer + c.chain.length) % 2 ^ c.ringLog2 * 256) 256 with
    | (some d, s1) => (d, s1)
    | (none, s1) => ([], s1)
  else (host, s)

/-- ENTRY_FETCH (R436): the first read of a slot returns. -/
def execEntryFetch (i : Nat) (bytes : List Byte) (s : State) : Out :=
  onIndex i (
    if !reads s i || !(chanOf s i).fetching then s
    else
      let (d, s1) := slotBytes s i bytes
      let n := (chanOf s1 i).consumer + (chanOf s1 i).chain.length
      if visible n d then stampUnits (takeEntry s1 i (slotOf n d)) i
      else modChan s1 i (fun c => { c with fetching := false, reread := 0 }))

/-- ENTRY_REREAD (R436): a slot not yet visible is read again; after 64 re-reads the channel stops. -/
def execEntryReread (i : Nat) (bytes : List Byte) (s : State) : Out :=
  onIndex i (
    if !reads s i || (chanOf s i).fetching then s
    else
      let (d, s1) := slotBytes s i bytes
      let s2 := countSat s1 (CMD_CHAN i) CMD_CHAN_rereads
      let c := chanOf s2 i
      let n := c.consumer + c.chain.length
      if visible n d then stampUnits (takeEntry (modChan s2 i (fun c => { c with fetching := true, reread := 0 })) i (slotOf n d)) i
      else if 63 ≤ c.reread then stopChan s2 i 1
      else modChan s2 i (fun c => { c with reread := c.reread + 1 }))

/-! ### Completion -/

/-- The record of an entry (Table 13-8), without its phase bit. -/
def recordOf (e : Entry) (code value : Nat) : Record :=
  ⟨e.n % 2 ^ 32 * 2 ^ 32 + code * 2 ^ 24 + e.op * 2 ^ 16, e.tag, BitVec.ofNat 64 value, e.irq⟩

/-- The CONT entries that belong to entry n: those whose numbers follow it without a gap. -/
def contsOf : Nat → List Entry → Nat → List Entry
  | 0, _, _ => []
  | k + 1, es, n =>
    match es.find? (fun e => e.n == n + 1 && e.op == 0x7F && e.phase == .accepted) with
    | some e => e :: contsOf k es (n + 1)
    | none => []

/-- Entry n completes (R428 to R430): it and the CONT entries it covers leave, each with its record where one is due; entries
with a fence may start. A completion-ring write that fails stops the channel and keeps the records (Table 13-5).
DESIGN CHOICE: notes/assumptions/76. -/
def completeEntry (s : State) (i : Nat) (e : Entry) (written : Bool) : State :=
  let c := chanOf s i
  let cs := contsOf c.entries.length c.entries e.n
  let gone := e.n :: cs.map (·.n)
  let s1 := stampUnits (modChan s i (fun c => startFences { c with entries := c.entries.filter (fun x => !gone.contains x.n) })) i
  let recs := (if e.code ≠ 0 ∨ e.cmpl = true then [recordOf e e.code e.value] else []) ++
    (cs.filter (·.cmpl)).map (fun x => recordOf x 0 0)
  if written || recs = [] then recs.foldl (fun s r => putRecord s i r) s1
  else
    let s2 := modChan s1 i (fun c => { c with held := c.held ++ recs })
    if c.st = .opened then stopChan s2 i 3 else s2

/-- Whether the streams that a START or HALT entry names are idle, halted or kept. -/
def namedAtRest (s : State) (e : Entry) : Bool :=
  let a (k : Nat) : Word := e.args.getD k 0
  let l := bits (a 1) 14 0
  let n := bits (a 1) 63 32
  let ts := streamsOf (bits (a 2) 2 0)
  s.cores.all (fun c => !(decide (l ≤ c.1) && decide (c.1 < l + n)) || ts.all (fun t => (c.2.str t).atRest))

/-- Whether a started entry has been carried out (Table 13-7): a HALT once its streams are at rest. -/
def entryDone (s : State) (e : Entry) : Bool := e.phase == .carried || (e.op == 0x04 && e.phase == .running && namedAtRest s e)

/-- ENTRY_COMPLETE (R430, R433). -/
def execEntryComplete (i n : Nat) (written : Bool) (s : State) : Out :=
  onIndex i (match (chanOf s i).entries.find? (fun e => e.n == n && entryDone s e) with
    | some e => completeEntry s i e written
    | none => s)

end Sys2Proof.Machine
end

