-- ==== Sys2Proof/Machine/Roadbed.lean ====
section
/-! DEFINITION. A Roadbed partial reset up to the hold of the culverts (R503 to R506, Table 15-6). Its end, which applies the host
requests held, stands in Machine/Culvert.lean. DEDUCED: notes/assumptions/85. -/

namespace Sys2Proof.Machine

/-- A Roadbed partial reset is requested (Table 15-6 steps 1 to 3, R53, R510), with its cause. -/
def roadbedReset (s : State) (cause : Nat) : State :=
  if !deviceReady s || s.boot.rb != 0 then s
  else
    let s1 := wrf (count s PWR_RESET_STATUS PWR_RESET_STATUS_roadbed_resets) PWR_RESET_STATUS PWR_RESET_STATUS_last_cause cause
    let s2 := modBoot s1 (fun b => { b with rb := 1, rbPorts := activePorts s })
    if 1 < fabricDevices s then modMst s2 (fun m => { m with roadbed := true }) else s2

/-- A write of 1 to PWR_RESET.roadbed with a key (R510). -/
def pwrResetRoadbed (s : State) (key : Nat) : State := if key = 0xA5 then roadbedReset s 1 else s

/-- PWR_RESET_ROADBED (R505). -/
def execPwrResetRoadbed (key : BitVec 8) (s : State) : Out := .next (pwrResetRoadbed s key.toNat)

/-- WATCHDOG_EXPIRY (R504): no kick has arrived for watchdog_ms. -/
def execWatchdogExpiry (s : State) : Out :=
  let ms := rdf s PWR_CTRL PWR_CTRL_watchdog_ms
  .next (if ms = 0 ∨ !deviceReady s then s else roadbedReset (advanceTo s (s.pow.kicked + ms * 10 ^ 6)) 2)

/-- ROADBED_PLL_UNLOCK (R502). -/
def execRoadbedPllUnlock (s : State) : Out := .next (roadbedReset s 4)

/-- Count aborted transfers (R506). -/
def countAborted (s : State) (n : Nat) : State := count s PWR_RESET_STATUS PWR_RESET_STATUS_aborted n

/-- What becomes of a request without a response when the culverts go to hold (R506): past the Verge side it completes, with
bytes that the command does not bring; a Kerb command or a status record ends, everything else goes out again.
DESIGN CHOICE: notes/assumptions/86. -/
def holdAsk (past : List Nat) (s : State) (e : Nat × Asked) : State :=
  let t := e.1
  if past.contains t then
    match smFind? s.fab.kept t with
    | some a => let (d, s1) := freeBytes s (if a.type = 1 then a.len else 0); answerAsked s1 t e.2 0 d
    | none => s
  else
    let s1 := countAborted s 1
    match e.2 with
    | .kerb _ => answerAsked s1 t e.2 2 []
    | .status => answerAsked s1 t e.2 2 []
    | _ => modFab s1 (fun f => { f with
        sent := smErase f.sent t
        resend := f.resend ++ ((smFind? f.kept t).map (fun a => { a with who := match e.2 with
          | .acked k c => .contrib k c
          | w => w })).toList })

/-- The registers that a Roadbed partial reset resets: SEC but its fuses, ICU, MON, the per-port CWY registers (Table 15-5). -/
def roadbedReg (off : Nat) : Bool :=
  (decide (0x600000 ≤ off) && decide (off < 0x810000) && off != SEC_IDENT && off != SEC_FUSE) ||
  (decide (CWY_PORT_CTRL 0 ≤ off) && decide (off < CWY_PORT_CTRL 36))

/-- The culverts go to hold and the Roadbed logic resets (Table 15-6 steps 4 and 5, R506). -/
def culvertHold (s : State) (past : List Nat) : State :=
  if s.boot.rb ≠ 1 then s
  else
    let waiting := s.fab.ports.flatMap (fun p => p.2.wait)
    let answers := (waiting.filter (fun w => w.h.type == 4 && w.h.src == selfId s)).length
    let pieces := (s.fab.colls.map (fun c => if c.running then c.unacked.length else 0)).sum
    let reads := (s.reqs.filter (readsHost s)).length + (hostFetches s).length + (hostCopies s).length
    let s1 := countAborted s (answers + pieces + reads)
    let s2 := count s1 PWR_RESET_STATUS PWR_RESET_STATUS_lost_peer answers
    let s3 := s2.fab.sent.foldl (holdAsk past) s2
    let debug := rdb s SEC_STATUS SEC_STATUS_debug_open
    let s4 := wrb (clearIf s3 roadbedReg) SEC_STATUS SEC_STATUS_debug_open debug
    let s5 := modFab s4 (fun f => { f with ports := [] })
    let x := s.sec
    let target := 1 - x.active
    let s6 := modSec s5 (fun _ => {
      active := x.active, marked := x.marked
      svn := if x.install.isSome then smErase x.svn target else x.svn
      image := if x.install.isSome then smErase x.image target else x.image })
    modBoot s6 (fun b => { b with rb := 2, authDue := true })

/-- CULVERT_HOLD (R505). DESIGN CHOICE: notes/assumptions/86. -/
def execCulvertHold (past : List Nat) (s : State) : Out := .next (culvertHold s past)

/-- ROADBED_AUTH_DONE (R531, Table 15-6 step 8): Table 17-4 has run again; the firmware runs where a slot has passed. -/
def execRoadbedAuthDone (b : BootIn) (s : State) : Out :=
  .next (if !s.boot.authDue then s
    else match chooseSlot s b with
      | some (slot, fb) => modBoot (bootSlot s b slot fb) (fun x => { x with authDue := false })
      | none => s)

end Sys2Proof.Machine
end

