-- ==== Sys2Proof/Machine/Telemetry.lean ====
section
/-! DEFINITION. Telemetry export (R547, R553, Table 17-10) and what the SMBus responder answers (R548, Table 17-11). -/

namespace Sys2Proof.Machine

/-- TEL_EXP.enable is set to 1 (R547): the head goes to 0. -/
def telEnable (s : State) : State :=
  if rdb s TEL_EXP TEL_EXP_enable then s else wr (wrb s TEL_EXP TEL_EXP_enable true) TEL_EXP_HEAD 0

/-- TEL_EXP_ENABLE (R547). -/
def execTelExpEnable (s : State) : Out := .next (powered s (telEnable s))

/-- The words of a telemetry record (Table 17-10). -/
def telRecord (s : State) : List Word :=
  let band (k : Nat) : Nat := rdf s (THM_STACK k) THM_STACK_band
  let b (p : Bool) (n : Nat) : Nat := if p then n else 0
  [BitVec.ofNat 64 (stageNow s), rd s MST_TIME,
   BitVec.ofNat 64 (rdf s PWR_STATUS PWR_STATUS_stage_power_w * 2 ^ 48 + rdf s THM_STATUS THM_STATUS_hottest_t * 2 ^ 32 +
     rdf s THM_STATUS THM_STATUS_hottest_sensor * 2 ^ 16 + b (rdb s PWR_STATUS PWR_STATUS_vr_alert) 4 +
     b (rdb s THM_STATUS THM_STATUS_throttle) 2 + b (rdb s PWR_STATUS PWR_STATUS_lowest_state) 1),
   rd s PWR_ENERGY,
   BitVec.ofNat 64 ((upto 32).map (fun k => band k * 4 ^ k)).sum,
   BitVec.ofNat 64 ((upto 4).map (fun k => band (32 + k) * 4 ^ k)).sum,
   rd s MST_STRETCH_COUNT, rd s REP_COUNT_0, rd s REP_COUNT_1, rd s THM_COUNT, rd s PWR_COUNT, 0, 0, 0, 0, 0]

/-- Telemetry in a service slot (R547): a record in every interval-th stage, over the oldest. Which stages of the interval is the
model's choice: those whose number is a multiple of it. DEDUCED: notes/assumptions/58. -/
def telSample (s : State) : State :=
  let iv := rdf s TEL_EXP TEL_EXP_interval
  if !rdb s TEL_EXP TEL_EXP_enable || stageNow s % iv != 0 || decide (2 ≤ keepState s) then s
  else
    let h := rdf s TEL_EXP_HEAD TEL_EXP_HEAD_head
    let a := rdf s TEL_EXP TEL_EXP_base * 4096 + h % 2 ^ rdf s TEL_EXP TEL_EXP_size_log2 * 128
    count (sysWrite s .engine a (wordBytes (telRecord s))).2 TEL_EXP_HEAD TEL_EXP_HEAD_head

/-! ### SMBus -/

/-- Whether the telemetry responder answers (R548, R542): it owns resource 1, and the responder has power. -/
def smbusOwned (s : State) : Bool := s.boot.sampled && rdf s (SEC_OWN 1) SEC_OWN_owner == 1 && decide (s.boot.rb < 2)

/-- A block read is answered with its bytes (Table 17-11): of each value, as (bytes, value), the lowest byte first. -/
def smbusAnswer (s : State) (code : Nat) (vs : List (Nat × Nat)) : State :=
  if smbusOwned s then emit s (.response code (vs.flatMap (fun v => (bytesOf v.1 v.2).map (·.toNat)))) else s

/-- SMBUS_IDENT_READ: vendor, device and revision ID (R6), serial number. -/
def execSmbusIdentRead (s : State) : Out :=
  .next (smbusAnswer s 0x10 [(2, vendorId), (2, deviceId), (1, revisionId), (8, (rd s SEC_IDENT).toNat)])

/-- SMBUS_BOOT_READ. -/
def execSmbusBootRead (s : State) : Out :=
  .next (smbusAnswer s 0x11 [(8, (bootWord s).toNat), (1, keepState s), (1, rdf s THM_STATUS THM_STATUS_throttle)])

/-- SMBUS_THERMAL_READ. -/
def execSmbusThermalRead (s : State) : Out :=
  .next (smbusAnswer s 0x12 [(2, rdf s THM_STATUS THM_STATUS_hottest_t),
    (2, rdf s THM_STATUS THM_STATUS_hottest_sensor), (8, (rd s THM_LAST_TRIP).toNat)])

/-- SMBUS_POWER_READ. -/
def execSmbusPowerRead (s : State) : Out :=
  .next (smbusAnswer s 0x13 [(2, rdf s PWR_STATUS PWR_STATUS_stage_power_w), (8, (rd s PWR_ENERGY).toNat)])

end Sys2Proof.Machine
end

