-- ==== Sys2Proof/Machine/Milestone.lean ====
section
/-! DEFINITION. Milestones and stages (chapter 02): the late sample, the service slot, late, clear and release, the external
tick, timing requests, time synchronisation, and the milestone itself with the actions of Table 02-4 in their order.
DEDUCED: notes/assumptions/44, 46; DESIGN CHOICE: notes/assumptions/45. -/

namespace Sys2Proof.Machine

/-! ### Timing parameters (R62, R63) -/

/-- Timing parameters: period, slot fraction, lead. -/
structure Timing where
  period : Nat
  slot   : Nat
  lead   : Nat
deriving DecidableEq, Repr

/-- The parameters in force. -/
def timingNow (s : State) : Timing := ⟨periodNs s, slotPermille s, leadNs s⟩

/-- A parameter replaced. -/
def Timing.put (t : Timing) (p : TimingParam) (v : Nat) : Timing :=
  match p with
  | .period => { t with period := v }
  | .slot => { t with slot := v }
  | .lead => { t with lead := v }

/-- The parameters with every accepted request applied. -/
def timingLast (s : State) : Timing := s.mst.reqs.foldl (fun t r => t.put r.1 r.2.1) (timingNow s)

/-- The value that a request is applied with; none where it is refused (R63, Table 02-2). -/
def timingCheck (s : State) (p : TimingParam) (v : Nat) : Option Nat :=
  let t := timingLast s
  match p with
  | .period => if 20000 ≤ v ∧ v ≤ 20000000 ∧ 4 * t.lead ≤ v then some v else none
  | .slot => if 5 ≤ v ∧ v ≤ 100 then some v else none
  | .lead =>
    let l := max v (rdf s CWY_TIME CWY_TIME_late_prop_ns)
    if 100 ≤ v ∧ v ≤ 20000 ∧ 4 * l ≤ t.period then some l else none

/-- The request field of a parameter. -/
def putRequest (s : State) (p : TimingParam) (v : Nat) : State :=
  match p with
  | .period => wrf s MST_PERIOD MST_PERIOD_request_ns v
  | .slot => wrf s MST_SLOT MST_SLOT_request_permille v
  | .lead => wrf s MST_LEAD MST_LEAD_request_ns v

/-- A timing request (R62, R63): ignored on a device that is not the root; checked; applied from the stage after the next.
DEDUCED: notes/assumptions/47. -/
def timingRequest (s : State) (p : TimingParam) (v : Nat) : State :=
  if !isRoot s then s
  else
    let s1 := putRequest s p v
    match timingCheck s p v with
    | some w => modMst s1 (fun m => { m with reqs := m.reqs ++ [(p, w, stageNow s)] })
    | none => raiseLevel s1 0 MST_STATUS MST_STATUS_bad_request

/-- TIMING_REQUEST. -/
def execTimingRequest (p : TimingParam) (v : Nat) (s : State) : Out :=
  .next (if deviceReady s then timingRequest s p v else s)

/-- Put the active field of a parameter. -/
def putActive (s : State) (p : TimingParam) (v : Nat) : State :=
  match p with
  | .period => wrf s MST_PERIOD MST_PERIOD_active_ns v
  | .slot => wrf s MST_SLOT MST_SLOT_active_permille v
  | .lead => wrf s MST_LEAD MST_LEAD_active_ns v

/-- Whether a request written in stage w is in force in stage n: n is w + 2 or later, as 48-bit stage numbers run (R62, R72). -/
def requestDue (n w : Nat) : Bool := decide ((n + 2 ^ 48 - (w + 2) % 2 ^ 48) % 2 ^ 48 < 2 ^ 47)

/-- Order 2 of Table 02-4: on the root, requests written two stages ago come into force, with the stretch limit; every other device
takes the root's values (R62, R80), and whether milestones follow MS_TICK (R81). -/
def timingAtMilestone (s : State) (n : Nat) (root : RootWord) : State :=
  if isRoot s then
    let s1 := (s.mst.reqs.filter (fun r => requestDue n r.2.2)).foldl (fun s r => putActive s r.1 r.2.1) s
    modMst s1 (fun m => { m with
      reqs := m.reqs.filter (fun r => !requestDue n r.2.2), limit := rdf s MST_STRETCH_LIMIT MST_STRETCH_LIMIT_limit_us })
  else
    let s1 := putActive (putActive (putActive s .period root.period) .slot root.slot) .lead root.lead
    modMst (wrb s1 MST_STATUS MST_STATUS_tick_external root.ext) (fun m => { m with limit := root.limit })

/-! ### Taking part (R73, R74) -/

/-- A write of 1 to MST_CTRL.enable (R73, R74, R78): on the root the stage that the first milestone ends opens now. -/
def mstEnable (s : State) : State :=
  if rdb s MST_CTRL MST_CTRL_enable then s
  else
    let s1 := modMst (wrb s MST_CTRL MST_CTRL_enable true) (fun m => { m with enabledAt := now s })
    if isRoot s1 ∧ hasRoot s1 then
      modMst s1 (fun m => { m with
        joined := true, opened := now s, due := (if tickInput s then none else some (now s + periodNs s))
        seen := m.seen || m.told.isSome })
    else s1

/-- MST_ENABLE. DESIGN CHOICE: notes/assumptions/7. -/
def execMstEnable (s : State) : Out := .next (if deviceReady s then mstEnable s else s)

/-! ### The late sample and the service slot -/

/-- The late sample point (R61, R64): while milestones follow MS_TICK it is taken from the nominal time. -/
def samplePoint (s : State) : Nat :=
  (if rdb s MST_STATUS MST_STATUS_tick_external then nominal s else s.mst.due.getD (nominal s)) - leadNs s

/-- LATE_SAMPLE (R69). -/
def execLateSample (s : State) : Out :=
  .next (if takesPart s && s.mst.joined && !s.mst.sampled then sampleLate (advanceTo s (samplePoint s)) else s)

/-- The members a background piece runs for (R48, R67): cores from 0, engines from 18,432, slices from 18,468, ports from 18,612. A
re-measurement runs on a physical core, for the logical cores it serves (R496). Where the spec names no member the model takes one: for a
lane group's self-test slice 18,468 + group mod 144, for a move of the service area engine 0.
DESIGN CHOICE: notes/assumptions/110. -/
def pieceMembers (s : State) : Piece → List Nat
  | .audit sl => [18468 + sl]
  | .scrub k .. => [18432 + k]
  | .migrate k _ => [18432 + k]
  | .moveService => [18432]
  | .selfTestLane k .. => [18432 + k]
  | .selfTestGroup g .. => [18468 + g % 144]
  | .copyAudit k => [18432 + k]
  | .replicaAudit k => [18432 + k]
  | .remeasure c p _ => servedBy s c p

/-- An audit in a service slot (R477, R478), by keeper and kind: up to REP_AUDIT.sectors of each. -/
def auditInSlot (s : State) (key : Nat) (act : State → State) : State :=
  let n := smGet 0 s.mst.audits key
  if n < s.rep.auditN then act (modMst s (fun m => { m with audits := smPut 0 m.audits key (n + 1) })) else s

/-- A background piece (R66). A service that its register turns off does not run. -/
def runPiece (s : State) : Piece → State
  | .audit sl => auditPiece s sl
  | .scrub k errs astray => scrubPiece s k errs astray
  | .migrate k n => migratePiece s k n
  | .moveService => moveService s
  | .selfTestLane k p failed => if k < 36 ∧ p < 32 then selfTestPc s (k * 32 + p) failed else s
  | .selfTestGroup g failed => selfTestGroup s g failed
  | .copyAudit k => auditInSlot s (2 * k) (copyAudit · k)
  | .replicaAudit k => auditInSlot s (2 * k + 1) (replicaAudit · k)
  | .remeasure c p v => if s.pow.hours = 0 then s else remeasure s c p v

/-- Starvation counts when a stage ends (R67): a member with work pending of which none ran counts one more stage, every other goes
back to 0; what has not run is pending still. -/
def starve (s : State) : State :=
  let hungry := ((s.mst.hungry ++ s.mst.paused.flatMap (pieceMembers s)).dedup).filter (fun x => !s.mst.fed.contains x)
  let counts : SMap Nat := hungry.foldl (fun t x => smPut 0 t x (min 64 (smGet 0 s.mst.starved x + 1))) []
  let most := counts.foldl (fun a c => max a c.2) 0
  modMst (wrf s MST_SERVICE MST_SERVICE_max_starved most) (fun x => { x with starved := counts, hungry := hungry, fed := [] })

/-- Whether a member now holds late. -/
def holdsLate (s : State) (m : Nat) : Bool :=
  s.mst.late.any (fun q => q.1 != 4 && (match q.1 with | 0 => 0 | 1 => 18432 | 2 => 18468 | _ => 18612) + q.2.1 == m)

/-- Whether a piece may start (R61, R66): it takes no more than 1 µs, and it lies in the service slot and ends before the late sample
point, or its member is done and waits, for S to be set or through a stretch, and it ends within the stretch. A Kerb engine's
foreground work goes first, but in a guaranteed slot (R321). `t0` is the time of the command. -/
def pieceMay (s : State) (t0 : Nat) (r : PieceRun) : Bool :=
  let ms := pieceMembers s r.piece
  let idle : Bool := ms.all (fun m => !(decide (18432 ≤ m) && decide (m < 18468)) || s.mst.guar.contains m || !engineBusy s (m - 18432))
  decide (r.ns ≤ 1000) && decide (t0 ≤ r.start) && idle &&
  ((!s.mst.sampled && !s.mst.slotOver && decide (nominal s - periodNs s * slotPermille s / 1000 ≤ r.start) &&
      decide (r.start + r.ns ≤ samplePoint s)) ||
    (s.mst.sampled && !ms.any (holdsLate s) && (match s.mst.due with
      | none => true
      | some d => s.mst.seen && decide (d ≤ r.start) && (match s.mst.release with
        | some e => decide (r.start + r.ns ≤ e)
        | none => true))))

/-- A run of a piece (R66): one that is cut short has no effect yet and resumes in a later slot. -/
def pieceRun (t0 : Nat) (s : State) (r : PieceRun) : State :=
  if !pieceMay s t0 r then s
  else
    let s1 := modMst (advanceTo s r.start) (fun m => { m with
      fed := (m.fed ++ pieceMembers s r.piece).dedup
      paused := if r.cut then (if m.paused.contains r.piece then m.paused else m.paused ++ [r.piece]) else m.paused.erase r.piece })
    if r.cut then s1 else runPiece s1 r.piece

/-- The service slot of a stage (R64, R66, R67, R338, R494, R517, R547): it begins once, and every SERVICE_SLOT of the stage gives
pieces that run in it, or later while members wait. In keep state only scrub goes on (R446). What stored data have suffered is there
first. DESIGN CHOICE: notes/assumptions/102. -/
def serviceSlot (s00 : State) (m : SlotIn) : State :=
  let s0 := m.strikes.foldl strike s00
  if keepState s0 = 2 then
    (m.pieces.filter (fun r => match r.piece with | .scrub _ _ _ => !r.cut | _ => false)).foldl (fun s r => runPiece s r.piece) s0
  else if !member s0 then s0
  else
    let begin_ (s : State) : State :=
      if s.mst.slotOn then s
      else
        let s1 := modMst (advanceTo s (nominal s - periodNs s * slotPermille s / 1000)) (fun x => { x with slotOn := true, hungry := [], audits := [] })
        telSample (tollAllowance (thermalAllowance (fillerOverrun s1)) m)
    let s1 := modMst (begin_ s0) (fun x => { x with hungry := (x.hungry ++ m.pending).dedup })
    m.pieces.foldl (pieceRun (now s1)) s1

/-- SERVICE_SLOT. -/
def execServiceSlot (m : SlotIn) (s : State) : Out := .next (serviceSlot s m)

/-! ### Signals of the tree (R400, R402) -/

/-- The neighbour that a port leads to. -/
def portNeighbour (s : State) (p : Nat) : Nat := neighbour s (selfId s) (portDim p) (portPlus p)

/-- Whether a port leads to this device's parent. -/
def fromParent (s : State) (p : Nat) : Bool := inFabric s && !isRoot s && parentOf s (selfId s) == some (portNeighbour s p)

/-- Late is received for a stage (R400): flooded on if it is new, and the stage stretches. A device that takes no part relays it
and is clear at once (R74). -/
def lateIn (s : State) (p st : Nat) : State :=
  let n := if member s then stageNow s else st
  if !portActive s p || n % 4096 != st || s.fab.lateFor == some n then s
  else
    let s1 := floodLate (modFab s (fun f => { f with lateFor := some n })) (some p) n
    let s2 := if member s then s1 else modMst s1 (fun m => { m with seen := false, late := [] })
    tryClear (seeLate s2)

/-- LATE_SIGNAL. -/
def execLateSignal (p : Nat) (st : BitVec 12) (s : State) : Out := onPort p (lateIn s p st.toNat)

/-- Clear is received from a child (R400). At the root it is the last to clear, if no other follows. -/
def clearIn (s : State) (p st : Nat) : State :=
  let d := portNeighbour s p
  if !portActive s p || s.fab.lateFor.map (· % 4096) != some st || !(children s).contains d || s.fab.clears.contains d then s
  else
    let s1 := modFab s (fun f => { f with clears := f.clears ++ [d] })
    tryClear (if isRoot s then modMst s1 (fun m => { m with cleared := some (4, d, 0) }) else s1)

/-- CLEAR_SIGNAL. -/
def execClearSignal (p : Nat) (st : BitVec 12) (s : State) : Out := onPort p (clearIn s p st.toNat)

/-- The header of a control frame of n words as a neighbour sends it. -/
def neighbourHdr (s : State) (p op n : Nat) : FrameHdr := { ctlHdr s op n with src := portNeighbour s p }

/-- A release is received (R56, R70, R400): it goes down the tree, and the milestone is known. One that does not come from the
parent is a violation; a device that takes no part relays it (R74), and forgets the late of the stage that it ends. -/
def releaseIn (s : State) (p r stage : Nat) : State :=
  if !portActive s p then s
  else if !fromParent s p then violateFrame s p 8 (hdrWord0 (neighbourHdr s p 2 3))
  else if member s then releaseAt (modMst (seeLate s) (fun m => { m with hold := false })) r stage
  else modFab (announce s [r, stage, 0]) (fun f => { f with lateFor := none, clears := [], sentClr := false })

/-- RELEASE_FRAME. -/
def execReleaseFrame (p r stage : Nat) (s : State) : Out := onPort p (controlIn s p (neighbourHdr s p 2 3) (fun s => releaseIn s p r stage))

/-- The stretch limit (R70 steps 8 and 9, R71): every late core is halted with a stage overrun. The limit is the root's. Each stream
that it halts raises the core-fault source once (R164, R537): the model's choice. DESIGN CHOICE: notes/assumptions/103. -/
def stretchLimit (s : State) : State :=
  match s.mst.due with
  | none => s
  | some d =>
    if !member s || !s.mst.seen || s.mst.limitHit || s.mst.limit == 0 then s
    else
      let s1 := modMst (advanceTo s (d + 1000 * s.mst.limit)) (fun m => { m with limitHit := true })
      let cores := (s.mst.late.filter (fun m => m.1 == 0)).map (·.2.1)
      let halt (s : State) (l : Nat) : State :=
        (allStreams.filter (fun t => (strOf s l t).live)).foldl (fun s t =>
          let s2 := wr s (CORE_FAULT_ADDR l) (BitVec.ofNat 64 (strOf s l t).pc)
          raiseEvent (haltStream s2 l t .overrun 0x20) (32 + clusterOf l)) s
      if cores = [] then s1 else raiseLevel (cores.foldl halt s1) 3 MST_STATUS MST_STATUS_overrun_halt

/-- STRETCH_LIMIT. DEDUCED: notes/assumptions/99. -/
def execStretchLimit (s : State) : Out := .next (stretchLimit s)

/-! ### The external tick (R57 to R61, R84) -/

/-- The scheduled time of the next milestone is set (R61): announced down the tree; where it comes before S_n − L, members sample now
and the service slot ends. A late that cleared before is released now. -/
def schedule (s : State) (at_ : Nat) (early : Bool) : State :=
  let s1 := announce (stretchNow (modMst s (fun m => { m with due := some at_ }))) [at_, 0, 1]
  if early && !s1.mst.sampled then sampleLate (modMst s1 (fun m => { m with slotOver := true }))
  else if s1.mst.seen then tryClear s1 else s1

/-- A rising edge on MS_TICK at timebase value e (R59, R61): it schedules the milestone, or is ignored: a later edge of the stage, one
within half the period of the last milestone, one during a stretch. -/
def tickEdge (s0 : State) (e : Nat) : State :=
  if !(takesPart s0 && isRoot s0 && tickInput s0 && s0.mst.joined) then s0
  else
    let s := advanceTo s0 e
    let stretch : Bool := s.mst.seen && (match s.mst.due with
      | some d => decide (d ≤ e)
      | none => false)
    if (s.mst.due.isSome ∧ ¬ s.mst.tickLost) ∨ stretch = true ∨ 2 * e < 2 * s.mst.opened + periodNs s then
      raiseLevel s 2 MST_STATUS MST_STATUS_tick_ignored
    else schedule (modMst s (fun m => { m with tickLost := false })) (e + leadNs s) (decide (e < nominal s - leadNs s))

/-- MS_TICK_EDGE. -/
def execMsTickEdge (e : Nat) (s : State) : Out := .next (tickEdge s e)

/-- No edge has come by M + 2P (R59, R61): the root schedules that time itself and keeps its own period. -/
def tickMissed (s : State) : State :=
  if !(takesPart s && isRoot s && tickInput s && s.mst.joined) || s.mst.due.isSome then s
  else
    let at_ := s.mst.opened + 2 * periodNs s
    let s1 := raiseLevel (modMst (advanceTo s at_) (fun m => { m with tickLost := true })) 1 MST_STATUS MST_STATUS_tick_missed
    schedule s1 at_ false

/-- TICK_MISSED. -/
def execTickMissed (s : State) : Out := .next (tickMissed s)

/-- The announcement of a scheduled time reaches this device from its parent (R61). -/
def scheduleIn (s : State) (p at_ : Nat) : State :=
  if !portActive s p then s
  else if !fromParent s p then violateFrame s p 8 (hdrWord0 (neighbourHdr s p 2 3))
  else if member s then
    schedule s at_ (decide (now s < nominal s - leadNs s) && decide (at_ < nominal s))
  else announce s [at_, 0, 1]

/-- SCHEDULE_ANNOUNCE. -/
def execScheduleAnnounce (p at_ : Nat) (s : State) : Out :=
  onPort p (controlIn s p (neighbourHdr s p 2 3) (fun s => scheduleIn s p at_))

/-- The root's stage in progress goes back to its own timing when the mode leaves input (R61). -/
def leaveInput (s : State) : State :=
  if tickInput s && takesPart s && isRoot s && s.mst.joined && s.mst.due.isNone then
    let l := leadNs s
    schedule s (if now s + l ≤ nominal s then nominal s else now s + l) false
  else s

/-- The root's stage in progress is timed by MS_TICK from now on (R59, R61): its scheduled time is dropped, and it waits for the first
edge, unless the release is announced or the stage is stretched already. The spec does not say what becomes of the stage under way.
DESIGN CHOICE: notes/assumptions/103. -/
def enterInput (s : State) : State :=
  let stretch : Bool := s.mst.seen && (match s.mst.due with
    | some d => decide (d ≤ now s)
    | none => false)
  if takesPart s && isRoot s && s.mst.joined && s.mst.release.isNone && !stretch then
    modMst s (fun m => { m with due := none, tickLost := false })
  else modMst s (fun m => { m with tickLost := false })

/-- A write to MST_TICK_PIN.mode (R57, R83, R84, R542): 0 releases the pin, 1 and 2 claim it, 3 is ignored; a refused claim leaves
the mode and sets conflict. -/
def tickMode (s : State) (mode : Nat) : State :=
  if mode ≥ 3 then s
  else if mode = 0 then
    let s1 := leaveInput s
    let s2 := wr s1 MST_TICK_PIN 0
    let s3 := if rdf s MST_TICK_PIN MST_TICK_PIN_mode = 0 then s2 else wrf s2 (SEC_OWN 0) SEC_OWN_owner 0
    if isRoot s then wrb s3 MST_STATUS MST_STATUS_tick_external false else s3
  else
    match claimRes s 0 mode with
    | (true, s1) =>
      let w : Word := setb (setb (setf (rd s1 MST_TICK_PIN) MST_TICK_PIN_mode mode) MST_TICK_PIN_claimed true) MST_TICK_PIN_conflict false
      let s2 := if mode = 2 then leaveInput s1 else if tickInput s1 then s1 else enterInput s1
      let s3 := wr s2 MST_TICK_PIN w
      if isRoot s then wrb s3 MST_STATUS MST_STATUS_tick_external (mode == 1) else s3
    | (false, s1) => wrb s1 MST_TICK_PIN MST_TICK_PIN_conflict true

/-- MST_TICK_MODE_WRITE. -/
def execMstTickModeWrite (mode : BitVec 2) (s : State) : Out := .next (if deviceReady s then tickMode s mode.toNat else s)

/-! ### Time synchronisation (R399) -/

/-- TIME_SYNC_TIMER (R399): every 10 µs the device sends its timebase to its parent. -/
def execTimeSyncTimer (s : State) : Out :=
  .next (match parentOf s (selfId s) with
    | some d => if inFabric s && !isRoot s then controlTo s d 3 [now s] else s
    | none => s)

/-- A time-sync frame (R399): from the parent, the timebase is steered to the parent's plus half the round trip; a device that
cannot hold 7.5 ns says so. From a child, it is answered with this device's timebase. -/
def timeSyncIn (s : State) (p parentTime rtt errPs : Nat) (held : Bool) : State :=
  if !portActive s p then s
  else if (children s).contains (portNeighbour s p) then sendControl s p 3 [now s]
  else if !fromParent s p then violateFrame s p 8 (hdrWord0 (neighbourHdr s p 3 1))
  else
    let s1 := wrf (wr s MST_TIME (BitVec.ofNat 64 (parentTime + rtt / 2))) CWY_TIME CWY_TIME_err_ps errPs
    if held then s1 else raiseLevel s1 18 CWY_TIME CWY_TIME_sync_lost

/-- TIME_SYNC_FRAME. -/
def execTimeSyncFrame (p parentTime rtt errPs : Nat) (held : Bool) (s : State) : Out :=
  onPort p (controlIn s p (neighbourHdr s p 3 1) (fun s => timeSyncIn s p parentTime rtt errPs held))

/-! ### The milestone (R70, R77, Table 02-4) -/

/-- The time at which the next milestone fires; none while it cannot. A device that joins fires the first milestone of the system that
lies at least 1 µs after its enable was written (R74). -/
def fireTime (s : State) (root : RootWord) : Option Nat :=
  if !takesPart s then none
  else if !s.mst.joined then
    (if isRoot s || decide (root.time < s.mst.enabledAt + 1000) then none else some (max (now s) root.time))
  else if !s.mst.sampled then none
  else
    match s.mst.due with
    | none => none
    | some d => if s.mst.seen then s.mst.release else some d

/-- The number of the stage that the milestone opens (R72, R73): on the root its count, or what it goes on from after an election
(R56); on every other device the root's. -/
def nextStage (s : State) (root : RootWord) : Nat :=
  match s.mst.told with
  | some n => n
  | none => if isRoot s then (stageNow s + 1) % 2 ^ 48 else root.stage % 2 ^ 48

/-- Order 1 of Table 02-4 (R72, R82): the stage number advances, the stretch of the stage that ends is recorded, after a change of
root with the remote class (R56). -/
def stageAdvance (s : State) (n stretch : Nat) : State :=
  let old := stageNow s
  let s1 := if s.mst.seen && s.mst.joined then
      let (cls, idx, cause) := match s.mst.changed with
        | some d => (4, d, 4)
        | none => s.mst.cleared.getD (4, 0x3FFFF, 0)
      let w := BitVec.ofNat 64 (putf MST_LAST_LATE_member_class cls + putf MST_LAST_LATE_cause cause +
        putf MST_LAST_LATE_member_index idx + putf MST_LAST_LATE_stretch_ns (min stretch 0xFFFFFFFF))
      countSat (countSat (wr (wrf s MST_LAST_STRETCH MST_LAST_STRETCH_stage old) MST_LAST_LATE w)
        MST_STRETCH_COUNT MST_STRETCH_COUNT_late_stages) MST_STRETCH_COUNT MST_STRETCH_COUNT_total_us (stretch / 1000)
    else s
  let s2 := wrb (wrb (wrf s1 MST_STAGE MST_STAGE_stage n) MST_STATUS MST_STATUS_stretched false) MST_STATUS MST_STATUS_late_local false
  let s3 := if n = (old + 1) % 2 ^ 48 then s2 else raiseLevel s2 4 MST_STATUS MST_STATUS_stage_resync
  if old = 2 ^ 48 - 1 ∧ n = 0 then raiseLevel s3 6 MST_STATUS MST_STATUS_stage_wrap else s3

/-- Order 9 (R67): members starved for 64 stages have a guaranteed slot in the stage that opens. guaranteed_count wraps past its
maximum, which the spec leaves open. DESIGN CHOICE: notes/assumptions/103. -/
def guarantees (s : State) : State :=
  let g := (s.mst.starved.filter (fun m => decide (64 ≤ m.2))).map (·.1)
  let s1 := wrb (count s MST_SERVICE MST_SERVICE_guaranteed_count g.length) MST_SERVICE MST_SERVICE_guarantee_active (g != [])
  modMst s1 (fun m => { m with guar := g })

/-- Order 10 (R114, R446, R448): entry into keep state. -/
def enterKeep (s : State) (n : Nat) : State :=
  let keep (x : Stream) : Stream := if x.st = .waiting ∧ x.wait = none then { x with st := .kept } else x
  let s1 := { s with cores := s.cores.map (fun c => (c.1, { c.2 with f := keep c.2.f, b := keep c.2.b, u := keep c.2.u, held := true })) }
  let s2 := abortColls (stepPause s1)
  let s3 := modHost s2 (fun h => { h with chans := h.chans.map (fun c =>
    (c.1, if c.2.st = .opened ∨ c.2.st = .stopped then { c.2 with st := .kept } else c.2)) })
  let token := BitVec.ofNat 64 (rdf s HST_KEEP_CTRL HST_KEEP_CTRL_salt * 2 ^ 32 + n % 2 ^ 32)
  let w := rd s3 HST_KEEP_STATUS
  let s4 := wr s3 HST_KEEP_STATUS (addf (setf (setf (setf w HST_KEEP_STATUS_state 2)
    HST_KEEP_STATUS_cause (if s.host.inReset then 1 else 2)) HST_KEEP_STATUS_refused 0) HST_KEEP_STATUS_entries 1)
  let s5 := emit (wr s4 HST_KEEP_TOKEN token) (.uart (.keep token))
  raiseEvent (if 1 < fabricDevices s5 then wrb s5 MST_STATUS MST_STATUS_is_root false else s5) 20

/-- Order 11: streams at WAIT.MS go on, pending starts begin (Table 03-6); the read-only caches of a core with a stream that
starts from idle are invalidated (R100). -/
def releaseStreams (s : State) : State :=
  let go (x : Stream) : Stream :=
    if x.start ∧ x.atRest = true then
      (if x.st = .kept then { x with st := .running, start := false }
       else { x with st := .running, start := false, cause := .none, code := 0 })
    else if x.st = .waiting ∧ x.wait = none then { x with st := .running } else x
  s.cores.foldl (fun s c =>
    let idle := allStreams.any (fun t => (c.2.str t).start && (c.2.str t).st == .idle)
    let s1 := modCore s c.1 (fun k => { k with f := go k.f, b := go k.b, u := go k.u })
    if idle then roInvalidateAll s1 c.1 else s1) s

/-- The cores that have state or a register away from its reset value. -/
def coresNamed (s : State) : List Nat :=
  let of_ (o : Nat) : Option Nat :=
    if 0x1000000 ≤ o ∧ o < 0x1000000 + numCores * 0x400 then some ((o - 0x1000000) / 0x400) else none
  (s.cores.map (fun c => c.1) ++ (s.cfg.map (fun e => e.1)).filterMap of_).dedup

/-- With the release (R89, R91, R120, R217): counters go to 0, mode 1 steps the issue order, the written seed is in force, the
position of MMAs starts again. -/
def coresAtMilestone (s : State) : State :=
  let s1 := { s with cores := s.cores.map (fun c => (c.1, { c.2 with ctrs := [], mmaPos := 0 })) }
  (coresNamed s1).foldl (fun s l =>
    let seed := rd s (CORE_RNG_SEED l)
    let s2 := if seed = (coreOf s l).seed then s else modCore s l (fun c => { c with seed := seed })
    let w := rd s (CORE_ISSUE l)
    if getf w CORE_ISSUE_rotate = 1 then
      wrf s2 (CORE_ISSUE l) CORE_ISSUE_order_active (match getf w CORE_ISSUE_order_active with
        | 0 => 2 | 2 => 5 | 5 => 0 | 1 => 4 | 4 => 3 | _ => 1)
    else s2) s1

/-- Settings that apply from the next milestone (R224, R324, R483, R508), and counts that start again there (R403, R471). -/
def settingsAtMilestone (s : State) : State :=
  let s1 := modMst s (fun m => { m with seed := rd s KRB_SEED })
  let s2 := { s1 with audit := { s1.audit with rate := rdf s TEL_AUDIT_CTRL TEL_AUDIT_CTRL_rate_shift }
                      rep := { s1.rep with period := rdf s REP_SELFTEST REP_SELFTEST_period_h, auditN := rdf s REP_AUDIT REP_AUDIT_sectors }
                      pow := { s1.pow with hours := rdf s PWR_CTRL PWR_CTRL_remeasure_h } }
  modFab s2 (fun f => { f with ports := f.ports.map (fun p => (p.1, { p.2 with viol := 0, corr := [] }))
                               lateFor := none, clears := [], sentClr := false })

/-- The scheduled time of the milestone after one that fires at t (R59, R61, R64): none while the root's milestones follow MS_TICK. -/
def nextDue (s : State) (t : Nat) (root : RootWord) : Option Nat :=
  if (if isRoot s then tickInput s && !s.mst.tickLost else root.ext) then none else some (t + periodNs s)

/-- MILESTONE (R77): every member fires at the scheduled or the released time, and the actions of Table 02-4 are applied in
order. `root` is what the root's milestone carries to other devices; `phase` are the times measured in the stage that ends (R349). -/
def milestone (s0 : State) (root : RootWord) (phase : List Nat) : State :=
  match fireTime s0 root with
  | none => s0
  | some t =>
    let stretch := if s0.mst.seen && s0.mst.joined then t - s0.mst.due.getD t else 0
    let old := stageNow s0
    let len := t - s0.mst.opened
    let s := advanceTo s0 t
    let n := nextStage s root
    let s2 := timingAtMilestone (stageAdvance s n stretch) n root
    let s3 := modMst s2 (fun m => { m with
      opened := t, due := nextDue s2 t root, sampled := false, slotOn := false, slotOver := false, late := [], seen := false
      cleared := none, changed := none, clearAt := none, release := none, told := none, joined := true, hold := false
      limitHit := false })
    let s4 := bandsAtMilestone (lanesAtMilestone (coreMapsAtMilestone s3))
    let s5 := epochCommit (routeCommits (lowestAtMilestone (frequencySelect s4))) n
    let s6 := guarantees (starve s5)
    let s7 := if keepState s6 = 1 then modMst (enterKeep s6 n) (fun m => { m with due := none }) else releaseStreams s6
    let s8 := settingsAtMilestone (coresAtMilestone s7)
    let s9 := if rdb s8 CCH_CTRL CCH_CTRL_ms_inv then cchInvalidateAll s8 else s8
    let s10 := listsAtMilestone (revokeLeases s9 n)
    let s11 := modTrain (phaseRecord s10 old len stretch phase) (fun x => { x with opened := x.started, started := 0, prefetched := 0 })
    if rdf s11 MST_TICK_PIN MST_TICK_PIN_mode = 2 then emit (emit s11 (.pin 0 true)) (.pin 0 false) else s11

/-- MILESTONE. DESIGN CHOICE: notes/assumptions/7; DEDUCED: notes/assumptions/97. -/
def execMilestone (m : MilestoneIn) (s : State) : Out := .next (milestone s m.root m.phase)

end Sys2Proof.Machine
end

