-- ==== Sys2Proof/Machine/Convert.lean ====
section
/-! DEFINITION. Conversion and random instructions (class 0x9_, R202 to R209). -/

namespace Sys2Proof.Machine

/-- The destination format code of CVT (Table 06-4). -/
def xFd (x : Insn) : Nat := bitsN x.b 23 20
/-- The source format code of CVT. -/
def xFs (x : Insn) : Nat := bitsN x.b 19 16

/-- The format in force of a CVT format code (R198, R203): none for 11 to 15, and for 7 outside a section. -/
def cvtFormat (st : Stream) (c : Nat) : Option Nat := if c > 10 then none else formatOf st c

/-- A format's element bytes; 1 for block elements. -/
def cvtBytes (c : Nat) : Nat := if blockLen c ≠ 0 then 1 else fmtBytes c

/-- An operand register of class 0x9_ (Table 06-6): element-plane offset and scale-plane offset. -/
def xOperand (block : Bool) (w : Word) : Option (Nat × Nat) :=
  if onlyBits w (if block then [(48, 32), (16, 0)] else [(16, 0)]) then some (bits w 16 0, bits w 48 32) else none

/-- Whether the pair of formats is allowed (R203): a block format goes with BF16 or FP32 only. -/
def pairAllowed (fd fs : Nat) : Bool :=
  let other (c : Nat) : Bool := c == 4 || c == 6
  (blockLen fd == 0 || other fs) && (blockLen fs == 0 || other fd)

/-- The planes of a class 0x9_ operand of n elements: its elements, then its scales. -/
def xPlanes (c off sc n : Nat) : List Plane :=
  ⟨off, 0, 1, n * cvtBytes c, cvtBytes c⟩ ::
  (if blockLen c = 0 then [] else [⟨sc, 0, 1, (n + blockLen c - 1) / blockLen c * scaleBytes c, scaleBytes c⟩])

/-- The source values of CVT (R204). -/
def cvtSource (s : State) (l c off sc n : Nat) : List Fp :=
  (upto n).map (fun i =>
    if blockLen c = 0 then decodeFp (fmtOf c) (elemAt s l (off + i * fmtBytes c) (fmtBytes c))
    else decodeBlockElem c (elemAt s l (sc + i / blockLen c * scaleBytes c) (scaleBytes c)) (elemAt s l (off + i) 1))

/-- What a CVT writes: element codes, scales, elements counted as saturated, and whether a NaN, an infinity or a NaN scale was
written (R204 to R206, R210). -/
structure CvtOut where
  codes  : List Nat
  scales : List Nat
  sats   : Nat
  bad    : Bool
deriving DecidableEq, Repr

/-- Encode the values of a CVT with their roundings. -/
def cvtEncode (c : Nat) (sat : Bool) (vs : List (Fp × Rmode)) : CvtOut :=
  if blockLen c = 0 then
    let r := vs.map (fun v => encodeFp (fmtOf c) v.2 sat v.1)
    ⟨r.map (·.1), [], (r.filter (·.2)).length, r.any (fun q => !isFin (decodeFp (fmtOf c) q.1))⟩
  else
    let bs := (chunksOf (blockLen c) vs.length vs).map (encodeBlock c)
    let els := (bs.map (·.2)).flatten
    ⟨els.map (·.1), bs.map (·.1), (els.filter (·.2)).length, bs.any (fun b => isNan (scaleVal c b.1))⟩

/-- CVT in its four forms (R202 to R208). -/
def cvtBody (x : Insn) (sr sat : Bool) (s : State) (st : Stream) : Done :=
  if !isSA x.r0 || !isSA x.r1 || !isSA x.r2 || !isSA x.r3 then badOperand st
  else
    match cvtFormat st (xFd x), cvtFormat st (xFs x) with
    | some fd, some fs =>
      let cw := st.reg x.r3
      let n := bits cw 13 0
      match xOperand (blockLen fd ≠ 0) (st.reg x.r1), xOperand (blockLen fs ≠ 0) (st.reg x.r2) with
      | some (od, sd), some (os, ss) =>
        if !pairAllowed fd fs || !onlyBits cw [(31, 24), (13, 0)] || decide (n > 8192) then badOperand st
        else if n = 0 then .go s
        else
          let l := x.core
          let od' := if xFd x = 7 then od * fmtBytes fd else od
          let os' := if xFs x = 7 then os * fmtBytes fs else os
          let dp := xPlanes fd od' sd n
          let sp := xPlanes fs os' ss n
          match planeCheck (dp ++ sp) with
          | some d => d
          | none => match wordsBad s l sp dp x.ecc with
            | some o => .go (scrUncorrectable s l x.stream o)
            | none =>
              let s := scrCorrected s l (eccCorrected x.ecc)
              let xs := cvtSource s l fs os' ss n
              let e := sextN 8 (bits cw 31 24)
              let vs := xs.zipIdx.map (fun v =>
                (fmul v.1 (.fin false 1 e), if sr then Rmode.sr (randomOf s l x.stream st.draw v.2) else Rmode.rne))
              let r := cvtEncode fd sat vs
              -- element planes may coincide when their offsets agree and the destination is no wider (R204)
              let ok := decide (od' = os') && decide (cvtBytes fd ≤ cvtBytes fs)
              let clashE := if ok then sp.drop 1 else sp
              let p0 := dp.headD ⟨0, 0, 0, 0, 0⟩
              let s1 := writePlane s l p0 [(r.codes.map (bytesOf (cvtBytes fd))).flatten] clashE
              let s2 := match dp.drop 1 with
                | p1 :: _ => writePlane s1 l p1 [(r.scales.map (bytesOf (scaleBytes fd))).flatten] (sp ++ [p0])
                | [] => s1
              let amax := xs.foldl (fun a v => max a (amaxBits v)) 0
              let s3 := modStr s2 l x.stream (fun z =>
                let z1 := z.setReg x.r0 (maxUpdate (z.reg x.r0) (xs.any isNan) r.sats amax)
                if sr then advanceDraw z1 n else z1)
              .go (acceptOp s3 l { id := 0, stream := x.stream, kind := .vector, addr := st.pc
                                   cause := if r.bad then 2 else 0 })
      | _, _ => badOperand st
    | _, _ => badOperand st

/-- A CVT as an instruction: [15:0] zero. -/
def cvtInsn (x : Insn) (sr sat : Bool) (s : State) : Out :=
  onCore x.core (issueInsn s x (some 3) (bitsN x.b 15 0 == 0) (cvtBody x sr sat))

/-- CVT. -/
def execCvt (x : Insn) (s : State) : Out := cvtInsn x false false s
/-- CVT.SR. -/
def execCvtSr (x : Insn) (s : State) : Out := cvtInsn x true false s
/-- CVT.SAT. -/
def execCvtSat (x : Insn) (s : State) : Out := cvtInsn x false true s
/-- CVT.SR.SAT. -/
def execCvtSrSat (x : Insn) (s : State) : Out := cvtInsn x true true s

/-- The scale exponent of the auto-scale rule (R209): the largest e with amax × 2^e within the target's range, less m. -/
def autoScale (target m : Nat) (f : Int) (amax : Nat) : Int :=
  match f32 amax with
  | .fin _ k q =>
    if k = 0 then f
    else
      let mx := maxFinite (fmtOf target)
      let e0 := (Nat.log2 mx.1 + mx.2) - (Nat.log2 k + q)
      let e := if magGt (k, q + e0) mx then e0 - 1 else e0
      max (-128) (min 127 (e - m))
  | _ => f

/-- SCALE (R209). -/
def execScale (x : Insn) (s : State) : Out :=
  onCore x.core (issueInsn s x (some 3) true (fun s st =>
    let i := bitsN x.b 35 0
    let t := bitsN i 15 12
    if !isSA x.r0 || !isSA x.r1 || i / 65536 != 0 || bitsN i 11 11 != 0 || !(t == 0 || t == 1 || t == 4 || t == 5) then
      badOperand st
    else goReg s x x.r0 (wordOf (autoScale t (bitsN i 10 8) (sextN 8 (bitsN i 7 0)) (bits (st.reg x.r1) 30 0)))))

/-- RND.K and RND.F (R202, R203, R207): n 16-bit values to the destination. -/
def rndBody (x : Insn) (keyed : Bool) (s : State) (st : Stream) : Done :=
  if !isSA x.r1 || !isSA x.r3 || (keyed && (!isSA x.r0 || !isSA x.r2)) then badOperand st
  else
    let cw := st.reg x.r3
    let n := bits cw 13 0
    let key := st.reg x.r0
    match xOperand false (st.reg x.r1) with
    | none => badOperand st
    | some (o, _) =>
      if !onlyBits cw [(13, 0)] || decide (n > 8192) || (keyed && bits key 63 48 == 0xFFFF) then badOperand st
      else if n = 0 then .go s
      else
        let l := x.core
        let p : Plane := ⟨o, 0, 1, 2 * n, 2⟩
        match planeCheck [p] with
        | some d => d
        | none => match planesEdge s l [p] x.ecc with
        | some o => .go (scrUncorrectable s l x.stream o)
        | none =>
          let s := scrCorrected s l (eccCorrected x.ecc)
          let v (i : Nat) : Nat :=
            if keyed then keyedValue (coreOf s l).seed (bits key 31 0) (bits key 63 48) (bits key 47 32)
              ((st.reg x.r2).toNat + i)
            else randomOf s l x.stream st.draw i
          let s1 := writeLines s l p [((upto n).map (fun i => bytesOf 2 (v i))).flatten]
          let s2 := if keyed then s1 else modStr s1 l x.stream (fun z => advanceDraw z n)
          .go (acceptOp s2 l { id := 0, stream := x.stream, kind := .vector, addr := st.pc })

/-- RND.K. -/
def execRndK (x : Insn) (s : State) : Out :=
  onCore x.core (issueInsn s x (some 3) (bitsN x.b 23 0 == 0) (rndBody x true))

/-- RND.F: rd and rb zero. -/
def execRndF (x : Insn) (s : State) : Out :=
  onCore x.core (issueInsn s x (some 3) (bitsN x.b 23 0 == 0 && x.r0 == 0 && x.r2 == 0) (rndBody x false))

end Sys2Proof.Machine
end

