-- ==== Sys2Proof/Machine/Vector.lean ====
section
/-! DEFINITION. The vector engine (class 0x5_, R226 to R255). Results are written when an instruction is accepted; its
flags, the section's overflow flag and a fault follow at VECTOR_INSTRUCTION_COMPLETE. DEDUCED: notes/assumptions/32, 35. -/

namespace Sys2Proof.Machine

/-! ### Format V (Tables 07-1 to 07-3) -/

/-- The count register of format V. -/
def vRn (x : Insn) : Nat := bitsN x.b 23 18
/-- The form of rb. -/
def vBb (x : Insn) : Nat := bitsN x.b 17 16
/-- The form of rc. -/
def vBc (x : Insn) : Nat := bitsN x.b 15 14
/-- The destination format code. -/
def vFd (x : Insn) : Nat := bitsN x.b 13 10
/-- The source format code. -/
def vFs (x : Insn) : Nat := bitsN x.b 9 6
/-- The sr bit. -/
def vSr (x : Insn) : Bool := bitsN x.b 5 5 == 1

/-- What an instruction of format V acts on (R227, R229, R231): count, row length, parameter, formats in force, and whether the
destination is rounded stochastically. -/
structure VCtx where
  n     : Nat
  w     : Nat
  param : Nat
  fd    : Nat
  fs    : Nat
  sr    : Bool
deriving DecidableEq, Repr

/-- The number of rows. -/
def VCtx.rows (c : VCtx) : Nat := if c.n = 0 then 0 else (c.n + c.w - 1) / c.w

/-- The elements of row r. -/
def VCtx.rowLen (c : VCtx) (r : Nat) : Nat := min c.w (c.n - r * c.w)

/-- The format of a code in class 0x5_ (R231). -/
def vecFormat (st : Stream) (c : Nat) : Option Nat :=
  if c = 0 ∨ c = 1 ∨ c = 4 ∨ c = 5 ∨ c = 6 ∨ c = 7 then formatOf st c else none

/-- Read the count register and the format fields (R227, R231, R232); none raises an illegal-operand fault. -/
def vCtx (x : Insn) (st : Stream) (paramOk : Bool) : Option VCtx :=
  let c := st.reg (vRn x)
  match vecFormat st (vFd x), vecFormat st (vFs x) with
  | some fd, some fs =>
    let n := bits c 13 0
    let w := bits c 29 16
    if !isSA (vRn x) || !onlyBits c [(63, 32), (29, 16), (13, 0)] || decide (n > 8192) || decide (w > 8192) ||
      (!paramOk && bits c 63 32 != 0) || (vSr x && vFd x == 6) then none
    else some { n := n, w := if w = 0 then n else w, param := bits c 63 32, fd := fd, fs := fs
                sr := vSr x && !(vFd x == 7 && fd == 6) }
  | _, _ => none

/-- A source or destination of an instruction: the planes it touches, and where its element i lies. -/
structure VOp where
  off    : Nat
  pitch  : Nat
  size   : Nat
  planes : List Plane
deriving DecidableEq, Repr

/-- A tile operand of elements of `size` bytes (R228, R229); offsets in elements where `units`. -/
def vTile (c : VCtx) (st : Stream) (r size : Nat) (units : Bool) : Option VOp :=
  if !isSA r then none
  else match tileOperand (st.reg r) with
    | none => none
    | some (o, p) =>
      let u := if units then size else 1
      let off := o * u
      let rows := c.rows
      let pitch := if rows ≤ 1 then 0 else p * u
      let last := c.rowLen (rows - 1)
      some ⟨off, pitch, size, if rows = 0 then []
        else (if rows = 1 then [] else [⟨off, pitch, rows - 1, c.w * size, size⟩]) ++
          [⟨off + (rows - 1) * pitch, 0, 1, last * size, size⟩]⟩

/-- A vector operand of `k` elements of `size` bytes, its second offset zero (R228). -/
def vVec (st : Stream) (r size k align : Nat) (units : Bool) : Option VOp :=
  let w := st.reg r
  if !isSA r || !onlyBits w [(16, 0)] then none
  else
    let off := bits w 16 0 * (if units then size else 1)
    some ⟨off, 0, size, [⟨off, 0, 1, k * size, align⟩]⟩

/-- The elements of a tile in order, decoded. -/
def vRead (s : State) (l : Nat) (c : VCtx) (o : VOp) (f : Nat) : List Fp :=
  (upto c.n).map (fun i => decodeFp (fmtOf f) (elemAt s l (o.off + i / c.w * o.pitch + i % c.w * o.size) o.size))

/-- The codes of a tile of bytes. -/
def vReadBytes (s : State) (l : Nat) (c : VCtx) (o : VOp) : List Nat :=
  (upto c.n).map (fun i => elemAt s l (o.off + i / c.w * o.pitch + i % c.w) 1)

/-- A broadcastable source (R230): its planes, and its value for element i. -/
structure VSrc where
  op   : Option VOp
  form : Nat
  val  : Word
deriving DecidableEq, Repr

/-- Read a broadcastable source's form. -/
def vSrc (x : Insn) (c : VCtx) (st : Stream) (r form : Nat) : Option VSrc :=
  let z := fmtBytes c.fs
  let u := vFs x == 7
  match form with
  | 0 => (vTile c st r z u).map (fun o => ⟨some o, 0, 0⟩)
  | 1 => if isSA r then some ⟨none, 1, st.reg r⟩ else none
  | 2 => (vVec st r z (min c.w c.n) z u).map (fun o => ⟨some o, 2, 0⟩)
  | _ => (vVec st r z c.rows z u).map (fun o => ⟨some o, 3, 0⟩)

/-- The values of a broadcastable source. -/
def vSrcVals (s : State) (l : Nat) (c : VCtx) (v : VSrc) : List Fp :=
  match v.op with
  | none => (upto c.n).map (fun _ => f32 v.val.toNat)
  | some o =>
    if v.form = 0 then vRead s l c o c.fs
    else (upto c.n).map (fun i =>
      decodeFp (fmtOf c.fs) (elemAt s l (o.off + (if v.form = 2 then i % c.w else i / c.w) * o.size) o.size))

/-- The planes of a list of operands. -/
def opPlanes (os : List VOp) : List Plane := (os.map (·.planes)).flatten

/-- The source planes whose bytes a destination may not share (R235): all but those of an operand with its own offset and
pitch and elements no narrower. -/
def clashOf (d : VOp) (srcs : List VOp) : List Plane :=
  opPlanes (srcs.filter (fun o => !(o.off == d.off && o.pitch == d.pitch && decide (d.size ≤ o.size))))

/-- The rows of a list of elements. -/
def rowsOf {α : Type} (c : VCtx) (xs : List α) : List (List α) := chunksOf c.w xs.length xs

/-- Write codes to a tile or a vector operand, row by row. -/
def vWrite (s : State) (l : Nat) (o : VOp) (rows : List (List Nat)) (clash : List Plane) : State :=
  writePlane s l ⟨o.off, o.pitch, rows.length, 0, 0⟩ (rows.map (fun r => (r.map (bytesOf o.size)).flatten)) clash

/-! ### Rounding and produced non-finites -/

/-- A result before its last rounding, and whether a contributing source is infinite (R249). -/
structure VRes1 where
  val    : Fp
  srcInf : Bool
deriving DecidableEq, Repr

/-- The rounding of element i (R232). -/
def vMode (s : State) (x : Insn) (c : VCtx) (draw : Word) (i : Nat) : Rmode :=
  if c.sr then .sr (randomOf s x.core x.stream draw i) else .rne

/-- The code of a result in a format. -/
def vCode (f : Nat) (m : Rmode) (v : Fp) : Nat := (encodeFp (fmtOf f) m false v).1

/-- Whether a written code is a produced non-finite, as (nan, inf) (R249). -/
def producedNf (f : Nat) (v : VRes1) (code : Nat) : Bool × Bool :=
  match decodeFp (fmtOf f) code with
  | .nan => if isNan v.val then (true, false) else (false, !v.srcInf)
  | .inf _ => (false, !v.srcInf)
  | _ => (false, false)

/-- The produced non-finites of a list of results with their indices: the lowest index and the two bits. -/
def foldNf (nfs : List (Nat × (Bool × Bool))) : Option (Nat × Bool × Bool) :=
  let hits := nfs.filter (fun p => p.2.1 || p.2.2)
  match hits with
  | [] => none
  | _ => some (hits.foldl (fun a p => min a p.1) 8192, hits.any (fun p => p.2.1), hits.any (fun p => p.2.2))

/-- End of every vector instruction: the draw counter advances under sr, and the operation is outstanding until its
completion (R232, R249, R254). -/
def vDone (s : State) (x : Insn) (st : Stream) (c : VCtx) (nf : Option (Nat × Bool × Bool)) (empty : Option (Nat × Nat)) :
    Done :=
  let s1 := if c.sr then modStr s x.core x.stream (fun z => advanceDraw z c.n) else s
  .go (acceptOp s1 x.core { id := 0, stream := x.stream, kind := .vector, addr := st.pc, vnf := nf, vempty := empty
                            cause := if nf.isSome then 4 else 0
                            fault := rdb s (CORE_VEC_CFG x.core) CORE_VEC_CFG_nf_fault })

/-- The checks of an instruction's planes, then the ECC of its reads and of the partial words it writes (R97); n = 0 makes none of
them and does nothing (R229). -/
def vChecked (s : State) (x : Insn) (c : VCtx) (ecc : Ecc) (srcs dsts : List VOp) (k : State → Done) : Done :=
  if c.n = 0 then .go s
  else match planeCheck (opPlanes (srcs ++ dsts)) with
    | some d => d
    | none => match wordsBad s x.core (opPlanes srcs) (opPlanes dsts) ecc with
      | some o => .go (scrUncorrectable s x.core x.stream o)
      | none => k (scrCorrected s x.core (eccCorrected ecc))

/-- Write element results to a tile (R232, R233, R235) and end the instruction. -/
def vEmit (s : State) (x : Insn) (st : Stream) (c : VCtx) (d : VOp) (srcs : List VOp) (rs : List VRes1)
    (more : List (Nat × (Bool × Bool))) (empty : Option (Nat × Nat)) : Done :=
  let codes := rs.zipIdx.map (fun r => vCode c.fd (vMode s x c st.draw r.2) r.1.val)
  let nf := (List.zip rs codes).zipIdx.map (fun p => (p.2, producedNf c.fd p.1.1 p.1.2))
  let s1 := vWrite s x.core d (rowsOf c codes) (clashOf d srcs)
  vDone s1 x st c (foldNf (nf ++ more)) empty

/-- An instruction of format V: [4:0] zero, unused register fields zero. -/
def vecInsn (x : Insn) (legal : Bool) (body : State → Stream → Done) (s : State) : Out :=
  onCore x.core (issueInsn s x (some 3) (bitsN x.b 4 0 == 0 && legal) body)

/-! ### Element-wise arithmetic -/

/-- VADD, VSUB, VMUL, VDIV, VMIN, VMAX (R236). -/
def arithOp (fn : Nat) (a b : Fp) : Fp :=
  match fn with
  | 0 => fadd a b
  | 1 => fsub a b
  | 2 => fmul a b
  | 3 => fdiv a b
  | 4 => fmin a b
  | _ => fmax a b

/-- The body of opcode 0x50. -/
def vectorArithBody (fn : Nat) (x : Insn) (ecc : Ecc) (s : State) (st : Stream) : Done :=
  match vCtx x st false with
  | none => badOperand st
  | some c =>
    let z := fmtBytes c.fs
    match vTile c st x.r1 z (vFs x == 7), vSrc x c st x.r2 (vBb x), vTile c st x.r0 (fmtBytes c.fd) (vFd x == 7) with
    | some a, some b, some d =>
      if vBc x ≠ 0 then badOperand st
      else
        let srcs := a :: b.op.toList
        vChecked s x c ecc srcs [d] (fun s =>
          let rs := (List.zip (vRead s x.core c a c.fs) (vSrcVals s x.core c b)).map
            (fun p => (⟨arithOp fn p.1 p.2, isInf p.1 || isInf p.2⟩ : VRes1))
          vEmit s x st c d srcs rs [] none)
    | _, _, _ => badOperand st

/-- VADD to VMAX (opcode 0x50). -/
def execVectorArith (fn : BitVec 4) (x : Insn) (ecc : Ecc) (s : State) : Out :=
  vecInsn x (decide (fn.toNat < 6) && x.r3 == 0) (vectorArithBody fn.toNat x ecc) s

/-- VFMA, VFMS, VFNMA: one exact result. -/
def fmaOp (fn : Nat) (a b c : Fp) : Fp :=
  match fn with
  | 0 => fadd (fmul a b) c
  | 1 => fsub (fmul a b) c
  | _ => fsub c (fmul a b)

/-- The body of opcode 0x51. -/
def vfmaBody (fn : Nat) (x : Insn) (s : State) (st : Stream) : Done :=
  match vCtx x st false with
  | none => badOperand st
  | some c =>
    let z := fmtBytes c.fs
    match vTile c st x.r1 z (vFs x == 7), vSrc x c st x.r2 (vBb x), vSrc x c st x.r3 (vBc x),
      vTile c st x.r0 (fmtBytes c.fd) (vFd x == 7) with
    | some a, some b, some e, some d =>
      let srcs := a :: (b.op.toList ++ e.op.toList)
      vChecked s x c x.ecc srcs [d] (fun s =>
        let rs := (List.zip (vRead s x.core c a c.fs) (List.zip (vSrcVals s x.core c b) (vSrcVals s x.core c e))).map
          (fun p => (⟨fmaOp fn p.1 p.2.1 p.2.2, isInf p.1 || isInf p.2.1 || isInf p.2.2⟩ : VRes1))
        vEmit s x st c d srcs rs [] none)
    | _, _, _, _ => badOperand st

/-- VFMA, VFMS, VFNMA (opcode 0x51). -/
def execVfma (fn : BitVec 4) (x : Insn) (s : State) : Out := vecInsn x (decide (fn.toNat < 3)) (vfmaBody fn.toNat x) s

/-- VMOV to VSQRT (R236). -/
def unaryOp (fn free tag : Nat) (x : Fp) : Fp :=
  match fn with
  | 0 => x
  | 1 => fabs x
  | 2 => fneg x
  | 3 => fnExp free tag x
  | 4 => fnLog free tag x
  | 5 => fnRcp free tag x
  | 6 => fnRsqrt free tag x
  | _ => fsqrt x

/-- An element-wise instruction of one source: `f` of the free value's number, the element's index and its value. -/
def unaryBody (x : Insn) (f : Nat → Nat → Fp → Fp) (s : State) (st : Stream) : Done :=
  match vCtx x st false with
  | none => badOperand st
  | some c =>
    match vTile c st x.r1 (fmtBytes c.fs) (vFs x == 7), vTile c st x.r0 (fmtBytes c.fd) (vFd x == 7) with
    | some a, some d =>
      if vBb x ≠ 0 ∨ vBc x ≠ 0 then badOperand st
      else vChecked s x c x.ecc [a] [d] (fun s =>
        let (k, s1) := takeFree s
        let rs := (vRead s x.core c a c.fs).zipIdx.map (fun p => (⟨f k p.2 p.1, isInf p.1⟩ : VRes1))
        vEmit s1 x st c d [a] rs [] none)
    | _, _ => badOperand st

/-- VMOV, VABS, VNEG, VEXP, VLOG, VRCP, VRSQRT, VSQRT (opcode 0x52). -/
def execVectorUnary (fn : BitVec 4) (x : Insn) (s : State) : Out :=
  vecInsn x (decide (fn.toNat < 8) && x.r2 == 0 && x.r3 == 0) (unaryBody x (unaryOp fn.toNat)) s

/-! ### Activations -/

/-- RELU (R238). -/
def fnRelu (x : Fp) : Fp := if isNan x then .nan else if flt fZero x then x else fZero

/-- The activations of opcode 0x53. -/
def activationOp (fn free tag : Nat) (x : Fp) : Fp :=
  match fn with
  | 0 => fnRelu x
  | 1 => fnSigmoid free tag x
  | 2 => fnTanh free tag x
  | 3 => fnSoftplus free tag x
  | 4 => fnGelu free tag x
  | _ => fnSilu free tag x

/-- GELU and SILU with their slope plane (R239). -/
def slopeBody (x : Insn) (silu : Bool) (s : State) (st : Stream) : Done :=
  match vCtx x st false with
  | none => badOperand st
  | some c =>
    match vTile c st x.r1 (fmtBytes c.fs) (vFs x == 7), vTile c st x.r2 1 false,
      vTile c st x.r0 (fmtBytes c.fd) (vFd x == 7) with
    | some a, some q, some d =>
      if vBb x ≠ 0 ∨ vBc x ≠ 0 then badOperand st
      else vChecked s x c x.ecc [a] [d, q] (fun s =>
        let (k, s1) := takeFree s
        let xs := vRead s x.core c a c.fs
        let rs := xs.zipIdx.map (fun p => (⟨activationOp (if silu then 5 else 4) k (2 * p.2) p.1, isInf p.1⟩ : VRes1))
        let qs := xs.zipIdx.map (fun p => slopeOf k (2 * p.2 + 1) silu p.1)
        let s2 := vWrite s1 x.core q (rowsOf c qs) (clashOf q [a] ++ d.planes)
        let codes := rs.zipIdx.map (fun r => vCode c.fd (vMode s x c st.draw r.2) r.1.val)
        let nf := (List.zip rs codes).zipIdx.map (fun p => (p.2, producedNf c.fd p.1.1 p.1.2))
        let s3 := vWrite s2 x.core d (rowsOf c codes) (clashOf d [a] ++ q.planes)
        vDone s3 x st c (foldNf nf) none)
    | _, _, _ => badOperand st

/-- RELU, SIGMOID, TANH, SOFTPLUS, GELU, SILU (opcode 0x53). -/
def execActivation (fn : BitVec 4) (x : Insn) (s : State) : Out :=
  vecInsn x (decide (fn.toNat < 6) && (decide (fn.toNat ≥ 4) || x.r2 == 0) && x.r3 == 0)
    (if fn.toNat ≥ 4 then slopeBody x (fn.toNat == 5) else unaryBody x (activationOp fn.toNat)) s

/-- The derivatives of opcode 0x54 taken from the saved output (R238, Table 07-7), in FP32. -/
def backOp (fn free tag : Nat) (y dy : Fp) : Fp :=
  match fn with
  | 0 => if isNan y then .nan else if flt fZero y then dy else fZero
  | 1 => rnd32 (fmul dy (fmul y (fsub (ofInt 1) y)))
  | 2 => rnd32 (fmul dy (fsub (ofInt 1) (fmul y y)))
  | 3 => (match fmul dy (oneMinusExpNeg y) with
    | .fin n m e => if m = 0 then .fin n m e else approx free tag 3 (dyOf (.fin n m e))
    | o => o)
  | _ => rnd32 (fmul dy y)

/-- dx from a slope byte (R239). -/
def slopeBack (q : Nat) (dy : Fp) : Fp := if q = 0xFF then .nan else fdiv (fmul dy (ofInt ((q : Int) - 32))) (ofInt 192)

/-- The body of opcode 0x54. -/
def activationBackwardBody (fn : Nat) (x : Insn) (s : State) (st : Stream) : Done :=
  match vCtx x st false with
  | none => badOperand st
  | some c =>
    let slope := decide (fn = 4 ∨ fn = 5)
    let z := fmtBytes c.fs
    match (if slope then vTile c st x.r1 1 false else vTile c st x.r1 z (vFs x == 7)), vTile c st x.r2 z (vFs x == 7),
      vTile c st x.r0 (fmtBytes c.fd) (vFd x == 7) with
    | some y, some g, some d =>
      if vBb x ≠ 0 ∨ vBc x ≠ 0 then badOperand st
      else vChecked s x c x.ecc [y, g] [d] (fun s =>
        let (k, s1) := takeFree s
        let gs := vRead s x.core c g c.fs
        let rs : List VRes1 :=
          if slope then (List.zip (vReadBytes s x.core c y) gs).map (fun p => ⟨slopeBack p.1 p.2, isInf p.2⟩)
          else (List.zip (vRead s x.core c y c.fs) gs).zipIdx.map
            (fun p => ⟨backOp fn k p.2 p.1.1 p.1.2, isInf p.1.1 || isInf p.1.2⟩)
        vEmit s1 x st c d [y, g] rs [] none)
    | _, _, _ => badOperand st

/-- RELU.B to EXP.B (opcode 0x54). -/
def execActivationBackward (fn : BitVec 4) (x : Insn) (s : State) : Out :=
  vecInsn x (decide (fn.toNat < 7) && x.r3 == 0) (activationBackwardBody fn.toNat x) s

/-! ### Reductions and scans -/

/-- The largest of a row. -/
def rowMax (xs : List Fp) : Fp := match xs with
  | [] => fZero
  | a :: r => r.foldl fmax a

/-- The values of one row of a reduction (R240). DEDUCED: notes/assumptions/33; DESIGN CHOICE: notes/assumptions/34. -/
def reduceRow (fn free tag : Nat) (xs : List Fp) : List Fp :=
  if xs.any isNan then (if fn = 4 then [.nan, .nan] else [.nan])
  else
    let sq := xs.map (fun a => fmul a a)
    match fn with
    | 0 => [rowMax xs]
    | 1 => [heldSum free tag xs]
    | 2 => [heldSum free tag sq]
    | 3 => [rowMax (xs.map fabs)]
    | _ => [heldSum free tag xs, heldSum free (tag + 1) sq]

/-- The body of opcode 0x55. -/
def rowReductionBody (fn : Nat) (x : Insn) (s : State) (st : Stream) : Done :=
  match vCtx x st false with
  | none => badOperand st
  | some c =>
    let z := fmtBytes c.fd
    match vTile c st x.r1 (fmtBytes c.fs) (vFs x == 7),
      vVec st x.r0 z (if fn = 4 then 2 * c.rows else c.rows) z (vFd x == 7) with
    | some a, some d =>
      if vBb x ≠ 0 ∨ vBc x ≠ 0 ∨ (fn = 4 ∧ c.fd ≠ 6) then badOperand st
      else vChecked s x c x.ecc [a] [d] (fun s =>
        let (k, s1) := takeFree s
        let rows := rowsOf c (vRead s x.core c a c.fs)
        let rs : List (Nat × VRes1) := (rows.zipIdx.map (fun r =>
          (reduceRow fn k (2 * r.2) r.1).map (fun v => (r.2, (⟨v, r.1.any isInf⟩ : VRes1))))).flatten
        let codes := rs.map (fun r => vCode c.fd (vMode s x c st.draw r.1) r.2.val)
        let nf := (List.zip rs codes).map (fun p => (p.1.1, producedNf c.fd p.1.2 p.2))
        vDone (vWrite s1 x.core d [codes] (clashOf d [a])) x st c (foldNf nf) none)
    | _, _ => badOperand st

/-- RMAX, RSUM, RSUMSQ, RAMAX, RSTAT (opcode 0x55). -/
def execRowReduction (fn : BitVec 4) (x : Insn) (s : State) : Out :=
  vecInsn x (decide (fn.toNat < 5) && x.r2 == 0 && x.r3 == 0) (rowReductionBody fn.toNat x) s

/-- The prefix sums of one row (R241): `flag i` says that element i (from `base`) begins a segment.
DEDUCED: notes/assumptions/33; DESIGN CHOICE: notes/assumptions/34. -/
def scanRow (ex : Bool) (free base : Nat) (flag : Nat → Bool) (xs : List Fp) : List Fp :=
  (xs.zipIdx.foldl (fun (r : List Fp × List Fp) p =>
    -- the segment so far, and the outputs
    let seg := if p.2 = 0 ∨ flag (base + p.2) = true then [] else r.1
    let out := if ex then (if seg = [] then fZero else heldSum free (base + p.2) seg)
      else heldSum free (base + p.2) (seg ++ [p.1])
    (seg ++ [p.1], r.2 ++ [out])) ([], [])).2

/-- The body of opcode 0x56. The flag plane holds bits, so no destination element is as narrow as its elements: R235 excuses no
byte of it. -/
def scanBody (fn : Nat) (x : Insn) (s : State) (st : Stream) : Done :=
  match vCtx x st false with
  | none => badOperand st
  | some c =>
    let seg := fn % 2 == 1
    match vTile c st x.r1 (fmtBytes c.fs) (vFs x == 7),
      (if seg then vVec st x.r2 1 ((c.n + 7) / 8) 0 false else some ⟨0, 0, 0, []⟩),
      vTile c st x.r0 (fmtBytes c.fd) (vFd x == 7) with
    | some a, some f, some d =>
      if vBb x ≠ 0 ∨ vBc x ≠ 0 then badOperand st
      else vChecked s x c x.ecc [a, f] [d] (fun s =>
        let (k, s1) := takeFree s
        let flag (i : Nat) : Bool := seg && bitsN (elemAt s x.core (f.off + i / 8) 1) (i % 8) (i % 8) == 1
        let rows := rowsOf c (vRead s x.core c a c.fs)
        let rs := (rows.zipIdx.map (fun r =>
          (scanRow (decide (fn ≥ 2)) k (r.2 * c.w) flag r.1).map (fun v => (⟨v, r.1.any isInf⟩ : VRes1)))).flatten
        vEmit s1 x st c d (if seg then [a, { f with size := 0 }] else [a]) rs [] none)
    | _, _, _ => badOperand st

/-- SCAN, SCAN.SEG, SCAN.EX, SCAN.SEG.EX (opcode 0x56). -/
def execScan (fn : BitVec 4) (x : Insn) (s : State) : Out :=
  vecInsn x (decide (fn.toNat < 4) && (fn.toNat % 2 == 1 || x.r2 == 0) && x.r3 == 0) (scanBody fn.toNat x) s

/-! ### Softmax -/

/-- A result within `k` units of an exact value of at least 1 keeps to at least 1, and an exact 1 is 1 (R358, R359). -/
def approxOne (free tag k : Nat) (x : Dy) : Fp := if (dyLe x ⟨1, 0⟩ && dyLe ⟨1, 0⟩ x) = true then ofInt 1 else approx free tag k x

/-- One row of a softmax (R242, R243): outputs in FP32, the pair (m, l), whether the row is empty. An element is scaled in FP32
(R232) as far as infinities go; l is at least 1, and a row that sees one element gives exactly 1 (R358, R359).
DESIGN CHOICE: notes/assumptions/34. -/
def smaxRow (free tag : Nat) (param : Fp) (xs : List Fp) : List Fp × (Nat × Nat) × Bool :=
  let sc := xs.map (fun v => let p := fmul param v; if isInf (rnd32 p) then rnd32 p else p)
  let m := rowMax sc
  if sc.any isNan || (isInf m && !isNeg m) then (xs.map (fun _ => .nan), (0x7FC00000, 0x7FC00000), false)
  else if isInf m then (xs.map (fun _ => fZero), (0xFF7FFFFF, 0), true)
  else
    -- an element far below the maximum contributes less than any unit in the last place
    let e (v : Fp) : Dy := if isFin v then dyExp (clampArg (dySub (dyOf v) (dyOf m))) else ⟨0, 0⟩
    let es := sc.map e
    let l := es.foldl dyAdd ⟨0, 0⟩
    let outs := (List.zip sc es).zipIdx.map (fun p =>
      if isFin p.1.1 then approxOne free (tag + 1 + p.2) 4 (dyDiv p.1.2 l) else fZero)
    (outs, (to32 m, to32 (fmax (ofInt 1) (approxOne free tag 4 l))), false)

/-- SMAX.F (R242, R243). -/
def smaxFBody (x : Insn) (s : State) (st : Stream) : Done :=
  match vCtx x st true with
  | none => badOperand st
  | some c =>
    match vTile c st x.r1 (fmtBytes c.fs) (vFs x == 7), (if x.r3 = 0 then some ⟨0, 0, 0, []⟩ else vVec st x.r3 4 (2 * c.rows) 4 false),
      vTile c st x.r0 (fmtBytes c.fd) (vFd x == 7) with
    | some a, some p, some d =>
      if vBb x ≠ 0 ∨ vBc x ≠ 0 then badOperand st
      else vChecked s x c x.ecc [a] (if x.r3 = 0 then [d] else [d, p]) (fun s =>
        let (k, s1) := takeFree s
        let rows := rowsOf c (vRead s x.core c a c.fs)
        let outs := rows.zipIdx.map (fun r => (r.1, smaxRow k (r.2 * (c.w + 1)) (f32 c.param) r.1))
        let rs := (outs.map (fun o => o.2.1.map (fun v => (⟨v, o.1.any isInf⟩ : VRes1)))).flatten
        let s2 := if x.r3 = 0 then s1
          else vWrite s1 x.core p [(outs.map (fun o => [o.2.2.1.1, o.2.2.1.2])).flatten] (a.planes ++ d.planes)
        let empties := (outs.zipIdx.filter (fun o => o.1.2.2.2)).map (·.2)
        let more := outs.zipIdx.map (fun o => (o.2 * c.w, (o.1.2.2.1.1 == 0x7FC00000, false)))
        let codes := rs.zipIdx.map (fun r => vCode c.fd (vMode s x c st.draw r.2) r.1.val)
        let nf := (List.zip rs codes).zipIdx.map (fun q => (q.2, producedNf c.fd q.1.1 q.1.2))
        let s3 := vWrite s2 x.core d (rowsOf c codes) (clashOf d [a] ++ (if x.r3 = 0 then [] else p.planes))
        vDone s3 x st c (foldNf (nf ++ more)) (empties.head?.map (fun r => (r, empties.length))))
    | _, _, _ => badOperand st

/-- SMAX.F: rb zero. -/
def execSmaxF (x : Insn) (s : State) : Out := vecInsn x (x.r2 == 0) (smaxFBody x) s

/-- One row of SMAX.B (R244). -/
def smaxBRow (free tag : Nat) (ys gs : List Fp) : List Fp :=
  let sum := heldSum free tag (List.zipWith fmul gs ys)
  let emptyRow := ys.all (fun y => isZero y && !isNeg y)
  (List.zip ys gs).map (fun p =>
    let v := rnd32 (fmul p.1 (fsub p.2 sum))
    if emptyRow && isZero v then fZero else v)

/-- SMAX.B. -/
def smaxBBody (x : Insn) (s : State) (st : Stream) : Done :=
  match vCtx x st false with
  | none => badOperand st
  | some c =>
    let z := fmtBytes c.fs
    match vTile c st x.r1 z (vFs x == 7), vTile c st x.r2 z (vFs x == 7), vTile c st x.r0 (fmtBytes c.fd) (vFd x == 7) with
    | some y, some g, some d =>
      if vBb x ≠ 0 ∨ vBc x ≠ 0 then badOperand st
      else vChecked s x c x.ecc [y, g] [d] (fun s =>
        let (k, s1) := takeFree s
        let rows := List.zip (rowsOf c (vRead s x.core c y c.fs)) (rowsOf c (vRead s x.core c g c.fs))
        let rs := (rows.zipIdx.map (fun r => (smaxBRow k r.2 r.1.1 r.1.2).map
          (fun v => (⟨v, r.1.1.any isInf || r.1.2.any isInf⟩ : VRes1)))).flatten
        vEmit s1 x st c d [y, g] rs [] none)
    | _, _, _ => badOperand st

/-- SMAX.B: rc zero. -/
def execSmaxB (x : Insn) (s : State) : Out := vecInsn x (x.r3 == 0) (smaxBBody x) s

/-! ### Normalisation -/

/-- The pair of operands named by rc (R245): γ and its second offset, and the statistics offset. -/
structure NormOps where
  gamma  : Nat
  second : Nat
  stats  : Nat
deriving DecidableEq, Repr

/-- Read the pair (R245, R247); none raises an illegal-operand fault. `second` says whether a second offset is meant. -/
def normOps (x : Insn) (st : Stream) (second ext : Bool) : Option NormOps :=
  let g := st.reg x.r3
  let t := st.reg (x.r3 + 1)
  if !isSA x.r3 || x.r3 == 31 || x.r3 == 47 then none
  else if !onlyBits g (if second then [(48, 32), (16, 0)] else [(16, 0)]) then none
  else if ext && !onlyBits t [(16, 0)] || !ext && t != 0 then none
  else some ⟨bits g 16 0, bits g 48 32, bits t 16 0⟩

/-- The FP32 value at a scratchpad offset. -/
def f32At (s : State) (l o : Nat) : Fp := f32 (elemAt s l o 4)

/-- Divide an FP32 sum by a count, rounded to FP32. -/
def meanOf (sum : Fp) (n : Nat) : Fp := rnd32 (fdiv sum (ofInt n))

/-- μ and ρ of a row under internal statistics (R247): sums over the row's elements, divided by w. -/
def rowStats (rms : Bool) (free tag eps n : Nat) (xs : List Fp) : Fp × Fp :=
  let mu := if rms then fZero else meanOf (heldSum free tag xs) n
  let dev := xs.map (fun v => rnd32 (fsub v mu))
  let var := meanOf (heldSum free (tag + 1) (dev.map (fun v => fmul v v))) n
  (mu, fnRsqrt free (tag + 2) (rnd32 (fadd var (f32 eps))))

/-- The normalised elements of a row (R246). -/
def normRow (mu rho : Fp) (xs : List Fp) : List Fp := xs.map (fun v => rnd32 (fmul (rnd32 (fsub v mu)) rho))

/-- The statistics of row r (R247): external from its record, internal computed. -/
def statsOf (s : State) (l : Nat) (rms ext : Bool) (free tag eps w stats r : Nat) (xs : List Fp) : Fp × Fp :=
  if ext then (if rms then fZero else f32At s l (stats + 16 * r), f32At s l (stats + 16 * r + 4))
  else rowStats rms free tag eps w xs

/-- A plane as an operand, for overlap checks. -/
def planeOp (p : Plane) : VOp := ⟨p.off, p.pitch, p.size, [p]⟩

/-- LN.F and RMS.F (R245 to R247). -/
def lnFBody (rms : Bool) (x : Insn) (s : State) (st : Stream) : Done :=
  let ext := vBc x == 1
  match vCtx x st (!ext) with
  | none => badOperand st
  | some c =>
    match vTile c st x.r1 (fmtBytes c.fs) (vFs x == 7), normOps x st (!rms) ext,
      vTile c st x.r0 (fmtBytes c.fd) (vFd x == 7) with
    | some a, some o, some d =>
      if vBb x ≠ 0 ∨ vBc x > 1 then badOperand st
      else
        let k := min c.w c.n
        let aux := planeOp ⟨o.gamma, 0, 1, 4 * k, 4⟩ :: ((if rms then [] else [planeOp ⟨o.second, 0, 1, 4 * k, 4⟩]) ++
          (if ext then [planeOp ⟨o.stats, 16, c.rows, 8, 4⟩] else []))
        vChecked s x c x.ecc (a :: aux) [d] (fun s =>
          let (fr, s1) := takeFree s
          let l := x.core
          let rows := rowsOf c (vRead s l c a c.fs)
          let rs := (rows.zipIdx.map (fun r =>
            let t := statsOf s l rms ext fr (4 * r.2) c.param c.w o.stats r.2 r.1
            (normRow t.1 t.2 r.1).zipIdx.map (fun e =>
              let g := f32At s l (o.gamma + 4 * e.2)
              let p := fmul e.1 g
              let b := if rms then fZero else f32At s l (o.second + 4 * e.2)
              let y := if rms then p else fadd p b
              (⟨rnd32 y, r.1.any isInf || isInf g || isInf b || (ext && (isInf t.1 || isInf t.2))⟩ : VRes1)))).flatten
          vEmit s1 x st c d (a :: aux) rs [] none)
    | _, _, _ => badOperand st

/-- LN.F and RMS.F: rb zero. -/
def execLnF (rms : Bool) (x : Insn) (s : State) : Out := vecInsn x (x.r2 == 0) (lnFBody rms x) s

/-- Accumulate rows of contributions into FP32 elements, one rounding per add, in row order (R246). -/
def accumulate (s : State) (l base k : Nat) (rows : List (List Fp)) : List Nat :=
  (upto k).map (fun c => to32 (rows.foldl (fun a r =>
    match r[c]? with
    | some v => rnd32 (fadd a v)
    | none => a) (f32At s l (base + 4 * c))))

/-- The (nan, inf) marks of a list of FP32 accumulator codes, by index; `srcInf` says of which an infinite element is a source. -/
def accNf (srcInf : Nat → Bool) (codes : List Nat) : List (Nat × (Bool × Bool)) :=
  codes.zipIdx.map (fun p => (p.2, producedNf 6 ⟨f32 p.1, srcInf p.2⟩ p.1))

/-- LN.B, RMS.B, and the .BSUM forms (R245 to R247): `sum` writes the third and fourth fields of the records and no dx. The infinite
sources of a result (R249) are those of its own row, its γ, its statistics and what it accumulates into; of dγ[c] and dβ[c], those of
the rows and of column c. DEDUCED: notes/assumptions/35. bc = 0 under .BSUM is an illegal operand; first_nf (R249) takes c for an
element of dγ or dβ and r for a record; .BSUM draws nothing under sr (R232): the spec states none of the three.
DESIGN CHOICE: notes/assumptions/114. -/
def lnBBody (rms sum : Bool) (x : Insn) (s : State) (st : Stream) : Done :=
  let ext := vBc x == 1
  match vCtx x st (!ext && !sum) with
  | none => badOperand st
  | some c =>
    let z := fmtBytes c.fs
    match vTile c st x.r1 z (vFs x == 7), vTile c st x.r2 z (vFs x == 7), normOps x st true ext,
      (if sum then some ⟨0, 0, 0, []⟩ else vTile c st x.r0 (fmtBytes c.fd) (vFd x == 7)) with
    | some a, some g, some o, some d =>
      if vBb x ≠ 0 ∨ vBc x > 1 ∨ (sum = true ∧ ext = false) then badOperand st
      else
        let k := min c.w c.n
        let pg : VOp := planeOp ⟨o.gamma, 0, 1, 4 * k, 4⟩
        let dg : VOp := planeOp ⟨o.second, 0, 1, 4 * k, 4⟩
        let db : VOp := planeOp ⟨o.second + 4 * c.w, 0, 1, 4 * k, 4⟩
        let sp : VOp := planeOp ⟨o.stats, 16, c.rows, 16, 4⟩
        let srcs := [a, g, pg, dg] ++ (if rms then [] else [db]) ++ (if ext then [sp] else [])
        vChecked s x c x.ecc srcs (if sum then [] else [d]) (fun s =>
          let (fr, s1) := takeFree s
          let l := x.core
          let xr := rowsOf c (vRead s l c a c.fs)
          let gr := rowsOf c (vRead s l c g c.fs)
          let gamma := (upto k).map (fun e => f32At s l (o.gamma + 4 * e))
          let recAt (r i : Nat) : Fp := f32At s l (o.stats + 16 * r + 4 * i)
          let recInf (r n : Nat) : Bool := ext && (upto n).any (fun i => isInf (recAt r i))
          -- whether row r of x, or its statistics, has an infinity; whether the row as a whole has one
          let xInf := xr.zipIdx.map (fun r => r.1.any isInf || recInf r.2 2)
          let rowInf (r : Nat) : Bool := xInf.getD r false || (gr.getD r []).any isInf || recInf r 4 ||
            (gamma.take (gr.getD r []).length).any isInf
          let colInf (e : Nat) : Bool := gr.any (fun r => (r[e]?).any isInf)
          let oldInf (b e : Nat) : Bool := isInf (f32At s l (b + 4 * e))
          -- per row: x̂, dy, g = dy × γ, Σ g, Σ g × x̂, ρ
          let rows := (List.zip xr gr).zipIdx.map (fun r =>
            let t := statsOf s l rms ext fr (8 * r.2) c.param c.w o.stats r.2 r.1.1
            let xh := normRow t.1 t.2 r.1.1
            let gg := r.1.2.zipIdx.map (fun e => rnd32 (fmul e.1 (f32At s l (o.gamma + 4 * e.2))))
            (xh, r.1.2, gg, heldSum fr (8 * r.2 + 3) gg, heldSum fr (8 * r.2 + 4) (List.zipWith fmul gg xh), t.2))
          let dgNew := accumulate s l o.second k (rows.map (fun r => List.zipWith fmul r.2.1 r.1))
          let dbNew := accumulate s l (o.second + 4 * c.w) k (rows.map (fun r => r.2.1))
          let others (own : VOp) : List Plane := clashOf own srcs
          let s2 := vWrite s1 l dg [dgNew] (others dg ++ d.planes)
          let s3 := if rms then s2 else vWrite s2 l db [dbNew] (others db ++ d.planes)
          let accs := accNf (fun e => xInf.any id || colInf e || oldInf o.second e) dgNew ++
            (if rms then [] else accNf (fun e => colInf e || oldInf (o.second + 4 * c.w) e) dbNew)
          if sum then
            let recs := rows.zipIdx.map (fun r =>
              [elemAt s l (o.stats + 16 * r.2) 4, elemAt s l (o.stats + 16 * r.2 + 4) 4,
                to32 (fadd (f32At s l (o.stats + 16 * r.2 + 8)) r.1.2.2.2.1),
                to32 (fadd (f32At s l (o.stats + 16 * r.2 + 12)) r.1.2.2.2.2.1)])
            let s4 := writePlane s3 l ⟨o.stats + 8, 16, recs.length, 8, 4⟩
              (recs.map (fun r => ((r.drop 2).map (bytesOf 4)).flatten)) (clashOf sp [a, g, pg] ++ dg.planes ++
                (if rms then [] else db.planes))
            let more := (recs.zipIdx.map (fun r => (r.1.drop 2).map (fun q => (r.2, producedNf 6 ⟨f32 q, rowInf r.2⟩ q)))).flatten
            vDone s4 x st { c with sr := false } (foldNf (accs ++ more)) none
          else
            let rs := (rows.zipIdx.map (fun r =>
              let len := r.1.1.length
              let gm := if ext then f32At s l (o.stats + 16 * r.2 + 8) else meanOf r.1.2.2.2.1 len
              let h := if ext then f32At s l (o.stats + 16 * r.2 + 12) else meanOf r.1.2.2.2.2.1 len
              let rho := r.1.2.2.2.2.2
              (List.zip r.1.1 r.1.2.2.1).map (fun e =>
                let t := if rms then e.2 else rnd32 (fsub e.2 gm)
                (⟨rnd32 (fmul rho (rnd32 (fsub t (rnd32 (fmul e.1 h))))), rowInf r.2⟩ : VRes1)))).flatten
            let codes := rs.zipIdx.map (fun r => vCode c.fd (vMode s x c st.draw r.2) r.1.val)
            let nf := (List.zip rs codes).zipIdx.map (fun p => (p.2, producedNf c.fd p.1.1 p.1.2))
            let s4 := vWrite s3 l d (rowsOf c codes) (clashOf d [a, g] ++ opPlanes (srcs.drop 2))
            vDone s4 x st c (foldNf (nf ++ accs)) none)
    | _, _, _, _ => badOperand st

/-- LN.B and RMS.B. -/
def execLnB (rms : Bool) (x : Insn) (s : State) : Out := vecInsn x true (lnBBody rms false x) s

/-- LN.BSUM and RMS.BSUM: rd zero. -/
def execLnBsum (rms : Bool) (x : Insn) (s : State) : Out := vecInsn x (x.r0 == 0) (lnBBody rms true x) s

/-! ### Dropout and flags -/

/-- The factor k of a dropout threshold (R248). -/
def dropScale (t : Nat) : Fp := rnd32 (fdiv (ofInt 65536) (ofInt ((65536 : Int) - t)))

/-- VDROP (R248). -/
def vdropBody (x : Insn) (s : State) (st : Stream) : Done :=
  match vCtx x st true with
  | none => badOperand st
  | some c =>
    let key := st.reg x.r2
    match vTile c st x.r1 (fmtBytes c.fs) (vFs x == 7), vTile c st x.r0 (fmtBytes c.fd) (vFd x == 7) with
    | some a, some d =>
      if vBb x ≠ 0 ∨ vBc x ≠ 0 ∨ !isSA x.r2 ∨ !isSA x.r3 ∨ bits key 63 48 = 0xFFFF then badOperand st
      else vChecked s x c x.ecc [a] [d] (fun s =>
        let thr := bitsN c.param 15 0
        let stride := if bitsN c.param 31 16 = 0 then c.w else bitsN c.param 31 16
        let rs := (vRead s x.core c a c.fs).zipIdx.map (fun p =>
          let e := ((st.reg x.r3).toNat + p.2 / c.w * stride + p.2 % c.w) % 2 ^ 64
          let v := keyedValue (coreOf s x.core).seed (bits key 31 0) (bits key 63 48) (bits key 47 32) e
          if v ≥ thr then (⟨fmul p.1 (dropScale thr), isInf p.1⟩ : VRes1) else ⟨fZero, false⟩)
        vEmit s x st c d [a] rs [] none)
    | _, _ => badOperand st

/-- VDROP. -/
def execVdrop (x : Insn) (s : State) : Out := vecInsn x true (vdropBody x) s

/-- RDVF (R250): the stream's flag word to rd, cleared in the same action, once its vector instructions have completed. -/
def execRdvf (x : Insn) (s : State) : Out :=
  vecInsn x (bitsN x.b 41 0 == 0) (fun s st =>
    if !isSA x.r0 then badOperand st
    else if (coreOf s x.core).ops.any (fun o => o.stream == x.stream && o.kind == .vector) then .stall
    else
      let a := CORE_VEC_FLAGS x.core (strNum x.stream)
      goReg (wr s a 0) x x.r0 (rd s a)) s

/-- VECTOR_INSTRUCTION_COMPLETE (R243, R249, R252, R253): the oldest vector or conversion instruction is complete; its flags,
counts, overflow and fault follow. DEDUCED: notes/assumptions/37. -/
def execVectorInstructionComplete (l op : Nat) (s : State) : Out :=
  onCore l (match opOf s l op with
    | none => s
    | some o =>
      let first := ((coreOf s l).ops.filter (fun q => q.kind == .vector)).head?.map (·.id)
      if o.kind ≠ .vector ∨ first ≠ some op ∨ clockStopped s l = true then s
      else
        let a := CORE_VEC_FLAGS l (strNum o.stream)
        let s1 := endOp s l op
        let s2 := match o.vempty with
          | some (r, n) => countSat (wr s1 a (vecEmpty (rd s1 a) r n)) (CORE_VEC_STAT l) CORE_VEC_STAT_empty_rows n
          | none => s1
        let s3 := match o.vnf with
          | some (i, nan, inf) =>
            countSat (wr s2 a (vecNonfinite (rd s2 a) i nan inf)) (CORE_VEC_STAT l) CORE_VEC_STAT_nf_events
          | none => s2
        if (strOf s3 l o.stream).sect.isSome then overflowOp s3 l o
        else if o.vnf.isSome && o.fault then lateFault s3 l o.stream 0x60 (BitVec.ofNat 64 o.addr)
        else s3)

/-- VEC_STAT_CLEAR (R254). -/
def execVecStatClear (l : Nat) (s : State) : Out := onCore l (powered s (wr s (CORE_VEC_STAT l) 0))

/-- A W1C write of a vector flag word (R255): nonfinite clears nan, inf and first_nf with it, empty its count and row. -/
def vecFlagsWrite (w data : Word) : Word :=
  let w1 := if bit data 63 then
      setf (setb (setb (setb w CORE_VEC_FLAGS_nonfinite false) CORE_VEC_FLAGS_nan false) CORE_VEC_FLAGS_inf false)
        CORE_VEC_FLAGS_first_nf 0
    else
      let a := if bit data 62 then setb w CORE_VEC_FLAGS_nan false else w
      if bit data 61 then setb a CORE_VEC_FLAGS_inf false else a
  if bit data 60 then
    setf (setf (setb w1 CORE_VEC_FLAGS_empty false) CORE_VEC_FLAGS_empty_count 0) CORE_VEC_FLAGS_first_empty_row 0
  else w1

/-- VEC_FLAGS_CLEAR (R255). -/
def execVecFlagsClear (l : Nat) (t : StreamId) (data : Word) (s : State) : Out :=
  let a := CORE_VEC_FLAGS l (strNum t)
  onCore l (powered s (wr s a (vecFlagsWrite (rd s a) data)))

end Sys2Proof.Machine
end

