-- ==== Sys2Proof/Machine/Registers.lean ====
section
/-! DEFINITION. Accesses to configuration registers (R12 to R14, R39, R42): what a read shows, what a write changes, and the
actions that writes trigger, block by block; who may reach which block when (R419, R447, R490).
DEDUCED: notes/assumptions/18, 49; DESIGN CHOICE: notes/assumptions/19. -/

namespace Sys2Proof.Machine

/-! ### Reads -/

/-- The fields of a register that a read shows: not write-only ones, not reserved ones (R12). -/
def maskRead (fs : List FieldDef) (w : Word) : Word :=
  BitVec.ofNat 64 ((fs.filter (fun f => f.acc != .wo)).foldl (fun a f => a + putf f.fld (getf w f.fld)) 0)

/-- A word with several fields set. -/
def setAll (w : Word) (fs : List (Fld × Nat)) : Word := fs.foldl (fun w f => setf w f.1 f.2) w

/-- 1 for true. -/
def boolNat (b : Bool) : Nat := if b then 1 else 0

/-- What a core's register shows (R113, R118 to R123). DESIGN CHOICE: notes/assumptions/103: of a stream that is not at rest, the
draw counter reads zero and the pc is shown. -/
def viewCore (s : State) (off : Nat) (w : Word) : Word :=
  let l := (off - 0x1000000) / 0x400
  let o := (off - 0x1000000) % 0x400
  let c := coreOf s l
  let str (t : StreamId) : Word :=
    let x := c.str t
    setAll 0 [(CORE_STREAM_F_fault_code, x.code), (CORE_STREAM_F_halt_cause, causeNum x.cause), (CORE_STREAM_F_state, stNum x.st),
      (CORE_STREAM_F_wait_counter, boolNat (x.st == .waiting && x.wait.isSome)), (CORE_STREAM_F_pc, x.pc / 8)]
  let draw (t : StreamId) : Word := if (c.str t).atRest then (c.str t).draw else 0
  let ctr (i : Nat) : Nat := smGet 0 c.ctrs i
  match o with
  | 0x00 => setAll 0 [(CORE_IDENT_doubled, boolNat (doubled s l)), (CORE_IDENT_phys_core, physOf s l), (CORE_IDENT_core, l % 128),
      (CORE_IDENT_cluster_y, clY (clusterOf l)), (CORE_IDENT_cluster_x, clX (clusterOf l))]
  | 0x08 => setf w CORE_CTRL_start_pending (allStreams.foldl (fun a t => a + boolNat (c.str t).start * 2 ^ strNum t) 0)
  | 0x18 => str .F
  | 0x20 => str .B
  | 0x28 => str .U
  | 0x38 => draw .F
  | 0x40 => draw .B
  | 0x48 => draw .U
  | 0x50 => setAll 0 [(CORE_SCTR_LO_e0, ctr 0), (CORE_SCTR_LO_e1, ctr 1), (CORE_SCTR_LO_e2, ctr 2), (CORE_SCTR_LO_e3, ctr 3)]
  | 0x58 => setAll 0 [(CORE_SCTR_HI_e4, ctr 4), (CORE_SCTR_HI_e5, ctr 5), (CORE_SCTR_HI_e6, ctr 6), (CORE_SCTR_HI_e7, ctr 7)]
  | 0x60 => setAll w [(CORE_STATUS_slots_f, slotsHeld s l .F), (CORE_STATUS_slots_b, slotsHeld s l .B),
      (CORE_STATUS_slots_u, slotsHeld s l .U)]
  | 0x80 => dbgRead s l
  | _ => w

/-- Occupancy of a slice (R292). -/
def viewOccupancy (s : State) (i : Nat) : Word :=
  let x := sliceOf s i
  setAll 0 [(VRG_OCCUPANCY_provisional_sectors, x.prov.length), (VRG_OCCUPANCY_reduction_lines, (x.lines.filter (·.red.isSome)).length),
    (VRG_OCCUPANCY_pinned_lines, (x.lines.filter (·.pin)).length), (VRG_OCCUPANCY_slots_busy, sliceBusy s i)]

/-- Status of a Kerb engine (R325): a revoked lease has ended (R307). -/
def viewKerb (s : State) (k : Nat) : Word :=
  setAll 0 [(KRB_STATUS_shards_open, (engOf s k).shards.length),
    (KRB_STATUS_leases, ((engOf s k).leases.filter (fun p => !p.2.revoked)).length),
    (KRB_STATUS_parked, cmdsIn s k .parked), (KRB_STATUS_queued, cmdsIn s k .queued)]

/-- Status of the walker (R382). -/
def viewAtn (s : State) : Word :=
  setAll 0 [(ATN_STATUS_tables, s.atn.tables.length), (ATN_STATUS_lists, s.atn.lists.length), (ATN_STATUS_transfers, s.atn.moves.length),
    (ATN_STATUS_parked, ((s.atn.rings.flatMap (·.2)).filter (·.parked)).length)]

/-- Status of a channel (R455). -/
def viewChan (s : State) (i : Nat) (w : Word) : Word :=
  let c := chanOf s i
  setAll w [(CMD_CHAN_state, chanStNum c.st), (CMD_CHAN_filler, boolNat (c.st != .free && c.kind == 1)),
    (CMD_CHAN_running, runningEntries c)]

/-- What a read of a register shows, but for ICU_CLAIM (R12). -/
def viewReg (s : State) (off : Nat) : Word :=
  let w := maskRead (layoutAt off) (rd s off)
  if 0x280000 ≤ off ∧ off < 0x288000 then smGet (if off % 16 = 8 then 0x100000000 else 0) s.cfg off
  else if 0x288000 ≤ off ∧ off < 0x288100 then smGet 0 s.cfg off
  else if layoutAt off = [] then 0
  else if 0x1000000 ≤ off then viewCore s off w
  else match off / 0x100000 with
  | 0 => if off = MST_STATUS then setb w MST_STATUS_is_root (deviceReady s && isRoot s) else w
  | 1 => if 0x110000 ≤ off then viewChan s ((off - 0x110000) / 8) w else w
  | 2 =>
    if off = HST_LINK then setb w HST_LINK_bme s.pcie.bme
    else if off = HST_HOLD then setf w HST_HOLD_held_bytes (heldBytes s) else w
  | 3 => if off = ATN_STATUS then viewAtn s else w
  | 4 => if off = PWR_BOOT then setf w PWR_BOOT_wait_s (getf (bootWord s) PWR_BOOT_wait_s) else w
  | 6 => if off = SEC_STATUS then setb w SEC_STATUS_debug_open (debugOpen s) else w
  | 7 =>
    if 0x710000 ≤ off then setb w ICU_SRC_pending (srcPending s ((off - 0x710000) / 8))
    else if off < 0x700080 ∧ off % 0x20 = 0x10 then
      let st := claimsOf s ((off - 0x700000) / 0x20)
      setAll w [(ICU_PRIO_depth, st.length), (ICU_PRIO_idle, boolNat st.isEmpty),
        (ICU_PRIO_running, match st with
          | [] => 0
          | e :: _ => e.2)]
    else w
  | 14 => if 0xE10000 ≤ off ∧ (off - 0xE10000) % 0x1000 = 8 then viewOccupancy s ((off - 0xE10000) / 0x1000) else w
  | 15 => if 0xF10000 ≤ off ∧ (off - 0xF10000) % 0x4000 = 0 then viewKerb s ((off - 0xF10000) / 0x4000) else w
  | _ => w

/-- A read of a register: the word, and the state, which only a read of ICU_CLAIM changes (R539). -/
def readReg (s : State) (off : Nat) : Word × State :=
  if 0x700000 ≤ off ∧ off < 0x700080 ∧ off % 0x20 = 0 then icuClaim s ((off - 0x700000) / 0x20) else (viewReg s off, s)

/-! ### Writes: the parts that every register shares -/

/-- A write of a register: who makes it, the offset, the bits written [lo, hi), the data in their places. -/
structure RegWr where
  src  : Path
  off  : Nat
  lo   : Nat
  hi   : Nat
  data : Word
deriving DecidableEq, Repr

/-- Whether a write covers every bit of a field (R14). -/
def RegWr.covers (x : RegWr) (f : Fld) : Bool := decide (x.lo ≤ f.lo) && decide (f.lo + f.width ≤ x.hi)

/-- The value that a write brings for a field, where it covers it. -/
def RegWr.val (x : RegWr) (f : Fld) : Option Nat := if x.covers f then some (getf x.data f) else none

/-- Whether a write brings 1 for a one-bit field. -/
def RegWr.sets (x : RegWr) (f : Fld) : Bool := x.val f == some 1

/-- The new value of one field under its access type (R12); fields that `skip` names keep theirs. -/
def writeField (x : RegWr) (skip : List Fld) (w : Word) (f : FieldDef) : Word :=
  if skip.contains f.fld then w
  else match f.acc, x.val f.fld with
  | .rw, some v => setf w f.fld v
  | .w1c, some v => setf w f.fld (getf w f.fld &&& (2 ^ f.fld.width - 1 - v))
  | _, _ => w

/-- Write the fields of a register, but for those named (R12, R14). -/
def store (s : State) (x : RegWr) (skip : List Fld := []) : State :=
  wr s x.off ((layoutAt x.off).foldl (writeField x skip) (rd s x.off))

/-- A field with a range: named among those to skip when the value is outside it. -/
def outside (x : RegWr) (f : Fld) (lo hi : Nat) : List Fld :=
  match x.val f with
  | some v => if lo ≤ v ∧ v ≤ hi then [] else [f]
  | none => []

/-- Do something when a write brings 1 for a one-bit field. -/
def onSet (x : RegWr) (f : Fld) (act : State → State) (s : State) : State := if x.sets f then act s else s

/-- Do something with the value that a write brings for a field. -/
def onVal (x : RegWr) (f : Fld) (act : State → Nat → State) (s : State) : State :=
  match x.val f with
  | some v => act s v
  | none => s

/-- The data word that a write makes of a register, every field that it does not cover at its present value, bits that act
(W1C and WO) at 0. -/
def effective (s : State) (x : RegWr) : Word :=
  (layoutAt x.off).foldl (fun w f => match x.val f.fld with
    | some v => setf w f.fld v
    | none => if f.acc = .rw then setf w f.fld (getf (rd s x.off) f.fld) else w) 0

/-! ### Writes, block by block -/

/-- MST (R78 to R84). -/
def writeMst (s : State) (x : RegWr) : State :=
  match x.off with
  | 0x00 => onSet x MST_CTRL_enable mstEnable (store s x [MST_CTRL_enable])
  | 0x08 => onVal x MST_PERIOD_request_ns (timingRequest · .period) s
  | 0x10 => onVal x MST_SLOT_request_permille (timingRequest · .slot) s
  | 0x18 => onVal x MST_LEAD_request_ns (timingRequest · .lead) s
  | 0x60 => onVal x MST_TICK_PIN_mode tickMode s
  | _ => store s x

/-- CORE (R89, R100, R112, R113, R118 to R123, R195, R254, R255, R293). -/
def writeCore (s : State) (x : RegWr) : State :=
  let l := (x.off - 0x1000000) / 0x400
  let pcOf (t : StreamId) : State :=
    onVal x CORE_STREAM_F_pc (fun s v => modStr s l t (fun y => if y.atRest then { y with pc := 8 * v } else y)) s
  let drawOf (t : StreamId) : State :=
    onVal x CORE_DRAW_F_draw (fun s v => modStr s l t (fun y => if y.atRest then { y with draw := BitVec.ofNat 64 v } else y)) s
  match (x.off - 0x1000000) % 0x400 with
  | 0x08 =>
    onSet x CORE_CTRL_ro_inv (fun s => roInvalidateAll s l)
      (ctrlRequests s l ((x.val CORE_CTRL_start_req).getD 0) ((x.val CORE_CTRL_halt_req).getD 0))
  | 0x10 =>
    match x.val CORE_ISSUE_order, x.val CORE_ISSUE_rotate with
    | some o, some r => writeIssue s l o r
    | _, _ => s
  | 0x18 => pcOf .F
  | 0x20 => pcOf .B
  | 0x28 => pcOf .U
  | 0x38 => drawOf .F
  | 0x40 => drawOf .B
  | 0x48 => drawOf .U
  | 0x80 => onVal x CORE_DBG_DATA_data (fun s v => dbgWrite s l (BitVec.ofNat 64 v)) s
  | 0x228 => onSet x CORE_MXU_CFG_stat_clr (fun s => wr s (CORE_MXU_STAT l) 0) (store s x)
  | 0x300 => wr s x.off (vecFlagsWrite (rd s x.off) (effective s x))
  | 0x308 => wr s x.off (vecFlagsWrite (rd s x.off) (effective s x))
  | 0x310 => wr s x.off (vecFlagsWrite (rd s x.off) (effective s x))
  | 0x320 => onSet x CORE_VEC_CFG_stat_clr (fun s => wr s (CORE_VEC_STAT l) 0) (store s x)
  | 0x1A0 => onSet x CORE_STALL_CTRL_stat_clr (fun s => coreStallClear s l) s
  | _ => store s x

/-- TEL (R222 to R224, R553). -/
def writeTel (s : State) (x : RegWr) : State :=
  let logOn := rdb s TEL_LOG_CTRL TEL_LOG_CTRL_enable
  match x.off with
  | 0x900000 =>
    let locked := if rdb s TEL_EXP TEL_EXP_enable then [TEL_EXP_base, TEL_EXP_size_log2] else []
    let s1 := store s x ([TEL_EXP_enable] ++ locked ++ outside x TEL_EXP_interval 1 255 ++ outside x TEL_EXP_size_log2 4 16)
    onVal x TEL_EXP_enable (fun s v => if v = 1 then telEnable s else wrb s TEL_EXP TEL_EXP_enable false) s1
  | 0x908000 => if logOn then s else store s x
  | 0x908008 =>
    let s1 := store s x ([TEL_LOG_CTRL_enable] ++ (if logOn then [TEL_LOG_CTRL_size_log2] else []) ++
      outside x TEL_LOG_CTRL_size_log2 6 20)
    onVal x TEL_LOG_CTRL_enable (fun s v => if v = 1 then logEnable s else wrb s TEL_LOG_CTRL TEL_LOG_CTRL_enable false) s1
  | 0x908018 => onVal x TEL_LOG_TAIL_tail (fun s v => logTail s logbook v) s
  | 0x908030 => onSet x TEL_AUDIT_CTRL_clear auditClear (store s x (outside x TEL_AUDIT_CTRL_rate_shift 0 24))
  | _ => store s x

/-- CMD: the mailbox and the step engine (R353, R355, R356, R454). -/
def writeCmd (s : State) (x : RegWr) : State :=
  match x.off with
  | 0x100020 => onVal x CMD_MBOX_OP_op mbox s
  | 0x104000 => if stepState s = 2 ∨ stepState s = 3 then s else store s x
  | 0x104008 =>
    let s1 := onSet x CMD_STEP_CTRL_load (fun s => loadPlan s none) s
    let s2 := onVal x CMD_STEP_CTRL_run (fun s v => if v = 1 then stepRun s else stepPause s) s1
    onSet x CMD_STEP_CTRL_stop stepStop s2
  | 0x104038 =>
    let locked := if rdb s CMD_PHASE CMD_PHASE_enable then [CMD_PHASE_base, CMD_PHASE_size_log2] else []
    let s1 := store s x ([CMD_PHASE_enable] ++ locked ++ outside x CMD_PHASE_size_log2 4 16)
    onVal x CMD_PHASE_enable (fun s v => if v = 1 then phaseEnable s else wrb s CMD_PHASE CMD_PHASE_enable false) s1
  | 0x104048 =>
    match x.val CMD_EPOCH_REQ_epoch, x.val CMD_EPOCH_REQ_step with
    | some e, some st => epochRequest s e st
    | _, _ => if 1 ≤ epochState s ∧ epochState s ≤ 3 then s else store s x
  | 0x104050 => onVal x CMD_EPOCH_COMMIT_stage epochCommitWrite s
  | _ => store s x

/-- The base and control registers of a ring of the walker (R384) or of the collective engine (R414). -/
def writeRing (s : State) (x : RegWr) (i : Nat) (enable : State → Nat → State) : State :=
  let ctrl := if x.off % 16 = 0 then x.off + 8 else x.off
  let on := rdb s ctrl ATN_RING_CTRL_enable
  if x.off % 16 = 0 then (if on then s else store s x)
  else
    let s1 := store s x ([ATN_RING_CTRL_enable] ++ (if on then [ATN_RING_CTRL_size_log2, ATN_RING_CTRL_channel] else []) ++
      outside x ATN_RING_CTRL_size_log2 4 12)
    onVal x ATN_RING_CTRL_enable (fun s v => if v = 1 then enable s i else wrb s ctrl ATN_RING_CTRL_enable false) s1

/-- ATN (R382, R384). -/
def writeAtn (s : State) (x : RegWr) : State :=
  if x.off = ATN_CTRL then
    onSet x ATN_CTRL_stat_clr atnStatClear (store s x (outside x ATN_CTRL_ra_blocks 0 64))
  else if 0x300100 ≤ x.off then writeRing s x ((x.off - 0x300100) / 16) atnRingEnable
  else store s x

/-- CWY (R412 to R415). -/
def writeCwy (s : State) (x : RegWr) : State :=
  if x.off = CWY_CTRL then onSet x CWY_CTRL_stat_clr cwyStatClear (store s x)
  else if x.off = CWY_FABRIC_CFG then
    if bringingUp s then s else onSet x CWY_FABRIC_CFG_start fabricStart (store s x)
  else if 0xC00100 ≤ x.off ∧ x.off < 0xC10000 then writeRing s x ((x.off - 0xC00100) / 16) collQueueEnable
  else if 0xC10000 ≤ x.off ∧ (x.off - 0xC10000) % 0x4000 = 0 then
    let p := (x.off - 0xC10000) / 0x4000
    let was := rdb s x.off CWY_PORT_CTRL_enable
    let s1 := onVal x CWY_PORT_CTRL_enable (fun s v =>
      if v = 1 ∧ was = false then portEnable s p else if v = 0 ∧ was = true then portDisable s p else s) s
    onSet x CWY_PORT_CTRL_retrain (fun s => retrainPort s p) s1
  else store s x

/-- An MSI-X table entry (R434, R540): a message that it no longer masks goes. PRESUMED: notes/assumptions/70. -/
def writeMsix (s : State) (x : RegWr) : State :=
  let old := smGet (if x.off % 16 = 8 then 0x100000000 else 0) s.cfg x.off
  let f : Fld := ⟨x.lo, x.hi - x.lo⟩
  let w := setf old f (getf x.data f)
  sendPending { s with cfg := smPut (if x.off % 16 = 8 then 0x100000000 else 0) s.cfg x.off w } ((x.off - 0x280000) / 16)

/-- HST (R451, R453, Table 13-14). -/
def writeHst (s : State) (x : RegWr) : State :=
  if x.off = HST_CTRL then
    onSet x HST_CTRL_stat_clr hstStatClear (store s x (outside x HST_CTRL_retrain_ms 1 0xFFFF ++ outside x HST_CTRL_hold_s 1 0xFFFF))
  else if x.off = HST_KEEP_CTRL then
    let s1 := store s x (if 2 ≤ keepState s then [HST_KEEP_CTRL_salt] else [])
    onSet x HST_KEEP_CTRL_release keepRelease (onSet x HST_KEEP_CTRL_enter keepEnter s1)
  else if x.off = HST_KEEP_RECLAIM then onVal x HST_KEEP_RECLAIM_token (fun s v => keepReclaim s (BitVec.ofNat 64 v)) s
  else store s x

/-- REP (R481 to R483). The cluster and core named in REP_RETIRE stay for a later write of go. -/
def writeRep (s : State) (x : RegWr) : State :=
  let logOn := rdb s REP_LOG_CTRL TEL_LOG_CTRL_enable
  match x.off with
  | 0xA00000 => onSet x REP_CTRL_stat_clr repStatClear (store s x)
  | 0xA00010 =>
    let put (f : Fld) (s : State) : State := onVal x f (fun s v => wrf s REP_RETIRE f v) s
    let s1 := put REP_RETIRE_phys_core (put REP_RETIRE_cluster s)
    onSet x REP_RETIRE_go (fun s => coreRetire s (rdf s REP_RETIRE REP_RETIRE_cluster) (rdf s REP_RETIRE REP_RETIRE_phys_core)) s1
  | 0xA00040 => if logOn then s else store s x
  | 0xA00048 =>
    let s1 := store s x ([TEL_LOG_CTRL_enable] ++ (if logOn then [TEL_LOG_CTRL_size_log2] else []) ++
      outside x TEL_LOG_CTRL_size_log2 6 20)
    onVal x TEL_LOG_CTRL_enable (fun s v => if v = 1 then repLogEnable s else wrb s REP_LOG_CTRL TEL_LOG_CTRL_enable false) s1
  | 0xA00058 => onVal x TEL_LOG_TAIL_tail (fun s v => logTail s repairLog v) s
  | _ => store s x

/-- PWR (R508 to R512). When both resets are asked for, the device's is done. -/
def writePwr (s : State) (x : RegWr) : State :=
  match x.off with
  | 0x400000 => onSet x PWR_CTRL_stat_clr pwrStatClear (onSet x PWR_CTRL_wd_kick watchdogKick (store s x))
  | 0x400008 => if x.val PWR_TOLL_request_w = some 0 then store s x else store s x (outside x PWR_TOLL_request_w 1000 7800)
  | 0x400028 =>
    let key := (x.val PWR_RESET_key).getD 0
    if x.sets PWR_RESET_device then pwrResetDevice s key
    else onSet x PWR_RESET_roadbed (fun s => pwrResetRoadbed s key) s
  | _ =>
    if 0x410000 ≤ x.off ∧ (x.off - 0x410000) % 0x100 = 0 then
      if x.val PWR_CL_TOLL_request_w = some 0 then store s x else store s x (outside x PWR_CL_TOLL_request_w 8 60)
    else store s x

/-- The owner code for which a release through SEC_OWN_r counts (R542, R550): management firmware stands for the owner. -/
def releasePath (s : State) (src : Path) (r : Nat) : Nat := if src = .mgmt then rdf s (SEC_OWN r) SEC_OWN_owner else 0

/-- SEC (R532, R533, R542, R543, R549, R550). -/
def writeSec (s : State) (x : RegWr) : State :=
  if x.off = SEC_CTRL then
    onSet x SEC_CTRL_debug_unlock (fun s => debugUnlock s x.src)
      (onSet x SEC_CTRL_commit_svn commitSvn (onSet x SEC_CTRL_install fwInstall s))
  else if 0x600040 ≤ x.off then
    let r := (x.off - 0x600040) / 8
    let s1 := onVal x SEC_OWN_claim (fun s v => resourceClaim s r v) s
    onSet x SEC_OWN_release (fun s => resourceRelease s r (releasePath s x.src r)) s1
  else store s x

/-- ICU (R538, R539, R551). -/
def writeIcu (s : State) (x : RegWr) : State :=
  if 0x710000 ≤ x.off then icuSrcWrite s ((x.off - 0x710000) / 8) (effective s x)
  else if x.off = ICU_SWI then onVal x ICU_SWI_source icuSwi s
  else if x.off % 0x20 = 8 then onVal x ICU_EOI_source (fun s v => icuEoi s ((x.off - 0x700000) / 0x20) v) s
  else s

/-- The counters of MON_STATUS are cleared (R552). -/
def monStatClear (s : State) : State := wrf (wrf s MON_STATUS MON_STATUS_commands 0) MON_STATUS MON_STATUS_errors 0

/-- A write of a register of any block: what it stores and what it triggers. A reserved offset ignores it (R419). -/
def regWrite (s : State) (x : RegWr) : State :=
  if 0x280000 ≤ x.off ∧ x.off < 0x288000 then writeMsix s x
  else if layoutAt x.off = [] then s
  else if 0x1000000 ≤ x.off then writeCore s x
  else match x.off / 0x100000 with
  | 0 => writeMst s x
  | 1 => writeCmd s x
  | 2 => writeHst s x
  | 3 => writeAtn s x
  | 4 => writePwr s x
  | 5 =>
    if x.off = THM_CTRL then onSet x THM_CTRL_stat_clr (wr · THM_COUNT 0) (store s x (outside x THM_CTRL_alw_start 60 88))
    else store s x
  | 6 => writeSec s x
  | 7 => writeIcu s x
  | 8 => if x.off = MON_CTRL then onSet x MON_CTRL_stat_clr monStatClear (store s x) else store s x
  | 9 => writeTel s x
  | 10 => writeRep s x
  | 12 => writeCwy s x
  | 13 => if x.off = CCH_CTRL then onSet x CCH_CTRL_stat_clr cchStatClear (store s x) else store s x
  | 14 =>
    if x.off = VRG_CTRL then onSet x VRG_CTRL_stat_clr vrgStatClear (store s x)
    else if 0xE10000 ≤ x.off ∧ (x.off - 0xE10000) % 0x1000 = 0 then
      onVal x VRG_SLICE_CFG_window_ways (fun s v => windowWaysWrite s ((x.off - 0xE10000) / 0x1000) v) s
    else store s x
  | 15 => if x.off = KRB_CTRL then onSet x KRB_CTRL_stat_clr kerbStatClear (store s x (outside x KRB_CTRL_pc_share 1 55)) else store s x
  | _ => store s x

/-! ### Accesses -/

/-- Whether a width and an alignment are served (R14). DEDUCED: notes/assumptions/16. -/
def accessOk (off width : Nat) : Bool := (width == 4 || width == 8) && off % width == 0

/-- The write of a register that an aligned access of 4 or 8 bytes makes. -/
def regWrOf (src : Path) (off width : Nat) (d : Word) : RegWr :=
  if width = 8 then ⟨src, off, 0, 64, d⟩
  else if off % 8 = 0 then ⟨src, off, 0, 32, d⟩
  else ⟨src, off - 4, 32, 64, d <<< 32⟩

/-- A write within configuration space (R14): one of another width or alignment has no effect and is counted.
DEDUCED: notes/assumptions/15, 16, 17. -/
def configWrite (s : State) (src : Path) (off width : Nat) (d : Word) : State :=
  if accessOk off width then regWrite s (regWrOf src off width d) else count s HST_ERR HST_ERR_bad_access

/-- A read within configuration space (R12, R14): another width or alignment reads zeros and is counted. -/
def configRead (s : State) (off n : Nat) : List Byte × State :=
  if accessOk off n then
    let (w, s1) := readReg s (off - off % 8)
    (((bytesOf 8 w.toNat).drop (off % 8)).take n, s1)
  else (List.replicate n 0, count s HST_ERR HST_ERR_bad_access)

/-- Whether the block at an offset is served to the host while the device is waiting (R490). DEDUCED: notes/assumptions/17. -/
def servedWaiting (off : Nat) : Bool := off / 0x100000 == 4 || off / 0x100000 == 8

/-- A write of the host to BAR0 (R419, R490). DEDUCED: notes/assumptions/16. -/
def hostRegWrite (s : State) (off width : Nat) (d : Word) : State :=
  if s.pcie.d3hot || decide (configMapped ≤ off) then countUr s
  else if !deviceReady s && !servedWaiting off then s
  else configWrite s .host off width d

/-- What a read of the host from BAR0 is answered with (R12, R14, R419, R490, R507): none while a Roadbed partial reset holds it back; no
data, as an unsupported request, in D3hot and beyond the mapped space; zeros while the device is waiting, but for the blocks served then.
No row of the opcode table is such a read: this is the view that a host has of the registers. DEDUCED: notes/assumptions/17. -/
def hostRegRead (s : State) (off width : Nat) : Option (Option (List Byte) × State) :=
  if s.boot.rb ≠ 0 then none
  else if s.pcie.d3hot || decide (configMapped ≤ off) then some (none, countUr s)
  else if !deviceReady s && !servedWaiting off then some (some (List.replicate width 0), s)
  else
    let (d, s1) := configRead s off width
    some (some d, s1)

/-- A write of a peer's management core (R39, R44, R447). -/
def peerRegWrite (s : State) (off width : Nat) (d : Word) : State :=
  if !deviceReady s || decide (configMapped ≤ off) || s.boot.rb == 2 then s
  else if 2 ≤ keepState s then countUr s
  else configWrite s .peerMgmt off width d

/-- REGISTER_WRITE (R12, R14, R39): by the host through BAR0, a management core, the monitor, or a peer's management core. -/
def execRegisterWrite (src : Path) (off width : Nat) (d : Word) (s : State) : Out :=
  .next (match src with
    | .host => if hostArrives s then unlessHeld s (.registerWrite src off width d) (hostRegWrite s off width d) else s
    | .mgmt => if s.sec.running && decide (off < configMapped) then configWrite s src off width d else s
    | .monitor =>
      if s.boot.sampled && decide (off < configMapped) && (deviceReady s || servedWaiting off || off / 0x100000 == 5) then
        configWrite s src off width d
      else s
    | .peerMgmt => peerRegWrite s off width d)

end Sys2Proof.Machine
end

