-- ==== Sys2Proof/Machine/Peers.lean ====
section
/-! DEFINITION. Reads and Writes of other devices (Table 12-3, R44, R388, R398, R478): what this device answers. -/

namespace Sys2Proof.Machine

/-- The offset in configuration space that a request of a peer's management core names (R39, R44); none for any other request. -/
def peerConfig (h : FrameHdr) : Option Nat :=
  match h.why, regionOf h.addr with
  | .mgmt, .config off => some off
  | _, _ => none

/-- What the owner of a sector does before a Read whose purpose is an audit (R478): a request for a waybill is answered with the waybill
held; the sector itself is checked first, where it is of a current version. -/
def auditRead (s : State) (h : FrameHdr) : Option (List Byte) × State :=
  if h.why ≠ .audit ∨ userEnd ≤ h.addr then (none, s)
  else if h.length = 4 then
    let s1 := keeperMeet s (h.addr / 256)
    (if sectorGone s1 (h.addr / 256) then none else some (bytesOf 4 (heldBill s1 (h.addr / 256))), s1)
  else (none, ownerChecks s (h.addr / 256))

/-- Serve a Read (R44, R388, R478): the data, or status address fault. -/
def serveRead (s0 : State) (h : FrameHdr) : State :=
  (peerRefused s0 h).getD (
    match peerConfig h with
    | some off =>
      if configMapped ≤ off then respond s0 h 1 []
      else
        let (d, s1) := configRead s0 off h.length
        respond s1 h 0 d
    | none =>
    let (bill, s) := auditRead s0 h
    match bill with
    | some d => respond s h 0 d
    | none =>
    match sysRead s .peer .requester h.addr h.length with
    | (.data d, s1) => respond s1 h 0 d
    | (_, s1) => respond s1 h 1 [])

/-- Serve a Write (R44, R388): a copy, to a register where a peer's management core issued it, or a reduction into user stack memory whose epoch stands before its data. -/
def serveWrite (s : State) (h : FrameHdr) (d : List Byte) : State :=
  (peerRefused s h).getD (
    if h.op = 0 then
      match peerConfig h with
      | some off =>
        if configMapped ≤ off then respond s h 1 []
        else respond (peerRegWrite s off h.length (BitVec.ofNat 64 (leNat d))) h 0 []
      | none =>
      match sysWrite s .peer h.addr d with
      | (.data _, s1) => respond s1 h 0 []
      | (_, s1) => respond s1 h 1 []
    else
      let e := d.drop 16
      if h.addr + e.length ≤ userEnd ∧ h.addr % opBytes h.op = 0 ∧ e.length % opBytes h.op = 0 ∧ 16 ≤ d.length then
        respond (reduceAt s h.op (leNat (d.take 2)) h.addr e) h 0 []
      else respond s h 1 [])

/-- READ_FRAME (R388). -/
def execReadFrame (p : Nat) (h : FrameHdr) (s : State) : Out :=
  onPort p (if typeFits h 1 then
    lateSettle (frameIn s p h .empty (if h.type = 1 then 0 else h.length) (fun s => serveRead s h)) else s)

/-- WRITE_FRAME (R388). -/
def execWriteFrame (p : Nat) (h : FrameHdr) (d : List Byte) (s : State) : Out :=
  onPort p (if typeFits h 2 then lateSettle (frameIn s p h (.data d) d.length (fun s => serveWrite s h d)) else s)

end Sys2Proof.Machine
end

