-- ==== Sys2Proof/Machine/Commands.lean ====
section
/-! DEFINITION. What the command entries of the channels do (R427, R438, R439, Table 13-7), once they have started.
DEDUCED: notes/assumptions/79. -/

namespace Sys2Proof.Machine

/-- A started entry of an operation acts; any other index, number or operation leaves the state as it is (R17, R429). -/
def onEntry (i n op : Nat) (act : State → Entry → State) (s : State) : Out :=
  onIndex i (match startedEntry s i n with
    | some e => if e.op = op then act s e else s
    | none => s)

/-- An argument of an entry. -/
def Entry.arg (e : Entry) (k : Nat) : Nat := (e.args.getD k 0).toNat

/-- An entry runs until something else carries it out. -/
def runEntry (s : State) (i n : Nat) : State := modEntry s i n (fun e => { e with phase := .running })

/-- CMD_NOP. -/
def execCmdNop (i n : Nat) (s : State) : Out := onEntry i n 0x00 (fun s _ => carryEntry s i n 0 0) s

/-! ### Copies -/

/-- What reading a piece of a copy's source came to: bytes, a status that ends the copy, or a wait for the link. -/
inductive Piece0 where
  | data (d : List Byte)
  | fail (code : Nat)
  | wait
deriving DecidableEq, Repr

/-- Whether an address is one of another device that a request can reach (R45, R47). -/
def isPeer (s : State) (a : Nat) : Bool :=
  (ownLocal s a).isNone && rdb s CWY_SELF_ID CWY_SELF_ID_id_valid && knownDevice s (globalDev a)

/-- A read of n bytes inside one sector by the command engine (R427, R438): what the host may reach, host windows through the
channel, other devices, whose bytes are those `got` of their answers by address. `given` holds the bytes that the host returns, in
the order of the copy; where they run out, a completion was poisoned or has failed, which is a host-window fault (R417). The bytes still to come are answered beside the outcome.
DEDUCED: notes/assumptions/78. -/
def readPiece (s : State) (i a n : Nat) (got : SMap (List Byte)) (given : List Byte) : Piece0 × List Byte × State :=
  let out (code : Nat) : Piece0 × List Byte × State :=
    if given.length < n then (.fail code, given, s) else (.data (given.take n), given.drop n, s)
  match ownLocal s a with
  | none => ((match smFind? got a with
      | some d => if isPeer s a && d.length == n then .data d else .fail 0x03
      | none => .fail 0x03), given, s)
  | some l =>
    match regionOf l with
    | .host =>
      match hostXlat s (some i) l false with
      | .ok _ _ => if hostOpen s then out 0x04 else (.wait, given, s)
      | .suspended _ _ => (.fail 0x09, given, s)
      | .refused => (.fail 0x04, given, s)
    | .config off =>
      let (d, s1) := configRead s off n
      (.data d, given, s1)
    | _ =>
      match sysRead s .host .requester l n with
      | (.data d, s1) => (.data d, given, s1)
      | (_, s1) => (.fail 0x03, given, s1)

/-- A write of bytes inside one sector by the command engine for entry n (R427): the status, 0 where it is accepted; a Write to
another device is accepted here and answered later (R398). DEDUCED: notes/assumptions/78. -/
def writePiece (s : State) (i n a : Nat) (d : List Byte) : Nat × State :=
  match ownLocal s a with
  | none =>
    if isPeer s a then
      (0, ask (modEntry s i n (fun e => { e with asked := e.asked + 1 }))
        { who := .copyWrite i n d.length, dst := globalDev a, type := 2, op := 0, len := d.length, addr := globalLocal a, body := .data d })
    else (0x03, s)
  | some l =>
    match regionOf l with
    | .host =>
      let (ok, s1) := hostPiece s (some i) l d
      (if ok then 0 else 0x04, s1)
    | .config off => (0, configWrite s .host off d.length (BitVec.ofNat 64 (leNat d)))
    | _ =>
      match sysWrite s .host l d with
      | (.data _, s1) => (0, s1)
      | (_, s1) => (0x03, s1)

/-- The rows of a copy (Table 04-7). -/
structure Rows where
  src   : Nat
  dst   : Nat
  rows  : Nat
  bytes : Nat
  srcP  : Int
  dstP  : Int
deriving DecidableEq, Repr

/-- The rows that a COPY entry names. -/
def Entry.rows (e : Entry) : Rows :=
  { src := e.arg 0, dst := e.arg 1, rows := bitsN (e.arg 2) 63 32, bytes := bitsN (e.arg 2) 31 0
    srcP := sgn (e.args.getD 3 0), dstP := sgn (e.args.getD 4 0) }

/-- Bytes of a copy whose destination lies among its source bytes are unspecified (R147). DESIGN CHOICE: notes/assumptions/29. -/
def blurred (s : State) (r : Rows) (dst0 : Nat) (d : List Byte) : List Byte × State :=
  let src := localForm s r.src
  let dst := localForm s dst0
  if rowsTouch src r.srcP r.rows r.bytes dst (dst + d.length) then
    let (k, s1) := takeFree s
    (d.zipIdx.map (fun p =>
      let a : Int := dst + p.2
      if rowsTouch src r.srcP r.rows r.bytes a (a + 1) then Config.freeByte k p.2 else p.1), s1)
  else (d, s)

/-- The pieces of a copy from a row and an offset in it on, in order (R101): source, destination, bytes. -/
def Rows.cuts (r : Rows) : Nat → Nat → Nat → List (Nat × Nat × Nat)
  | 0, _, _ => []
  | fuel + 1, row, off =>
    if r.rows ≤ row ∨ r.bytes = 0 then []
    else
      let src := wrapN 64 (r.src + r.srcP * row + off)
      let dst := wrapN 64 (r.dst + r.dstP * row + off)
      let n := min (r.bytes - off) (min (256 - src % 256) (256 - dst % 256))
      (src, dst, n) :: (if off + n < r.bytes then r.cuts fuel row (off + n) else r.cuts fuel (row + 1) 0)

/-- All pieces of a copy. -/
def Rows.pieces (r : Rows) : List (Nat × Nat × Nat) := r.cuts (r.rows * (r.bytes / 128 + 4) + 1) 0 0

/-- How far a copy has come: the status that ends it, if it has come to its end, the pieces done, the bytes copied, the machine. -/
structure CopyRun where
  code : Option Nat
  pos  : Nat
  done : Nat
  st   : State
deriving DecidableEq, Repr

/-- Whether a copy unit has its 16 requests in flight (R569). -/
def unitFull (s : State) (i n : Nat) : Bool := decide (16 ≤ ((entryOf s i n).map (·.asked)).getD 0)

/-- Some pieces of a copy, in order (R147): the first that faults ends it; one whose source another device has not given yet, whose
write would be the seventeenth request in flight, or that must wait for the link, stops it there. DEDUCED: notes/assumptions/78. -/
def copyPieces (i n : Nat) (r : Rows) (got : SMap (List Byte)) :
    List (Nat × Nat × Nat) → State → Nat → Nat → List Byte → CopyRun
  | [], s, pos, done, _ => ⟨some 0, pos, done, s⟩
  | (src, dst, len) :: rest, s, pos, done, given =>
    if (isPeer s src && !smHas got src) || (isPeer s dst && unitFull s i n) then ⟨none, pos, done, s⟩
    else match readPiece s i src len got given with
    | (.wait, _, _) => ⟨none, pos, done, s⟩
    | (.fail c, _, s1) => ⟨some c, pos, done, s1⟩
    | (.data d, given1, s1) =>
      let (d1, s2) := blurred s1 r dst d
      match writePiece s2 i n dst d1 with
      | (0, s3) => copyPieces i n r got rest s3 (pos + 1) (done + len) given1
      | (c, s3) => ⟨some c, pos, done, s3⟩

/-- A copy has come to its end here (R427): its entry is carried out, or runs until other devices have answered its writes. -/
def endCopy (s : State) (i n code done : Nat) : State :=
  match entryOf s i n with
  | none => s
  | some e =>
    if e.asked = 0 then carryEntry s i n (if code = 0 then e.code else code) (done - e.lost)
    else modEntry s i n (fun e => { e with phase := .running, code := if code = 0 then e.code else code, value := done })

/-- What an entry's copying has come to is kept, or ends it; one that has come no further leaves the state as it is. -/
def keepCopy (s : State) (i : Nat) (e : Entry) (x : CopyRun) : State :=
  match x.code with
  | some c => endCopy x.st i e.n c x.done
  | none => if x.pos = e.pos then s else modEntry x.st i e.n (fun z => { z with pos := x.pos, value := x.done })

/-- Whether a started copy has one of the 64 copy units (R569): fewer than 64 that started before it are still at work. -/
def unitHeld (s : State) (e : Entry) : Bool :=
  decide (((s.host.chans.flatMap (fun c => c.2.entries)).filter (fun x =>
    unitOp x.op && (x.phase == .started || x.phase == .running) && decide (x.unit < e.unit))).length < 64)

/-- The reads of other devices that a copy may send now, in the order of its pieces: at most 16 requests are in flight (R569). -/
def readsNow (s : State) (e : Entry) : List (Nat × Nat × Nat) :=
  ((e.rows.pieces.filter (fun c => isPeer s c.1)).drop e.reads).take (16 - e.asked)

/-- COPY (R427, R398, R569): rows copied in a copy unit. Its reads of other devices go out as far as its requests allow; then the pieces
are copied in order, as far as their data are there; a copy that reads a host window while the link is interrupted waits (R442). -/
def copyEntry (s : State) (i : Nat) (given : List Byte) (e : Entry) : State :=
  let far := readsNow s e
  if !unitHeld s e then s
  else if !far.isEmpty then
    far.foldl (fun s c => ask s
      { who := .copyRead i e.n c.1, dst := globalDev c.1, type := 1, op := 0, len := c.2.2, addr := globalLocal c.1, body := .empty })
      (modEntry s i e.n (fun e => { e with reads := e.reads + far.length, asked := e.asked + far.length }))
  else keepCopy s i e (copyPieces i e.n e.rows e.got (e.rows.pieces.drop e.pos) s e.pos e.value given)

/-- COPY. -/
def execCopy (i n : Nat) (hostData : List Byte) (s : State) : Out := 
  onEntry i n 0x01 (fun s e => lateSettle (copyEntry s i hostData e)) s

/-- Some pieces of a payload, in order: the first that is refused ends it, one whose write would be the seventeenth request in flight stops
it there (R569). -/
def inlinePieces (i n : Nat) : List (Nat × List Byte) → State → Nat → Nat → CopyRun
  | [], s, pos, done => ⟨some 0, pos, done, s⟩
  | p :: rest, s, pos, done =>
    if isPeer s p.1 && unitFull s i n then ⟨none, pos, done, s⟩
    else match writePiece s i n p.1 p.2 with
    | (0, s1) => inlinePieces i n rest s1 (pos + 1) (done + p.2.length)
    | (c, s1) => ⟨some c, pos, done, s1⟩

/-- WRITE.INLINE (R427, R569): the payload goes to an address, piece by piece; it completes when every write is acknowledged. -/
def writeInline (s : State) (i : Nat) (e : Entry) : State :=
  if !unitHeld s e then s
  else keepCopy s i e (inlinePieces i e.n ((sectorPieces (e.payload.length + 1) (e.arg 0) e.payload).drop e.pos) s e.pos e.value)

/-- WRITE_INLINE. -/
def execWriteInline (i n : Nat) (s : State) : Out := onEntry i n 0x02 (fun s e => lateSettle (writeInline s i e)) s

/-! ### Streams -/

/-- The streams that a START or HALT entry names: cores and streams; none where the range is empty or passes the last core. -/
def namedStreams (e : Entry) : Option (List (Nat × StreamId)) :=
  let l := bitsN (e.arg 1) 14 0
  let n := bitsN (e.arg 1) 63 32
  if n = 0 ∨ numCores < l + n then none
  else some ((upto n).flatMap (fun k => (streamsOf (bitsN (e.arg 2) 2 0)).map (fun t => (l + k, t))))

/-- START (R427): every named stream must be at rest. -/
def startEntry (s : State) (i : Nat) (e : Entry) : State :=
  match namedStreams e with
  | none => carryEntry s i e.n 0x05 0
  | some ts =>
    let resume := bitsN (e.arg 2) 3 3 == 1
    if !ts.all (fun t => (strOf s t.1 t.2).atRest) then carryEntry s i e.n 0x05 0
    else if !resume && (e.arg 0 % 8 != 0 || decide (2 ^ 48 ≤ e.arg 0)) then carryEntry s i e.n 0x02 0
    else if ts = [] then carryEntry s i e.n 0 0
    else
      let (k, s1) := takeFree (runEntry s i e.n)
      ts.foldl (fun s t =>
        if resume then requestStart s t.1 t.2 (some i) (.start e.n)
        else loadStream s k t.1 t.2 (e.arg 0) [(1, e.args.getD 3 0)] (some i) (.start e.n)) s1

/-- START. -/
def execStart (i n : Nat) (s : State) : Out := onEntry i n 0x03 (fun s e => startEntry s i e) s

/-- HALT (R427): the named streams are asked to halt; its value is how many were running or waiting.
DEDUCED: notes/assumptions/77. -/
def haltEntry (s : State) (i : Nat) (e : Entry) : State :=
  match namedStreams e with
  | none => carryEntry s i e.n 0x02 0
  | some ts =>
    let live := (ts.filter (fun t => (strOf s t.1 t.2).live)).length
    let s1 := haltAll s ts
    modEntry s1 i e.n (fun x => { x with phase := .running, value := live })

/-- CMD_HALT. -/
def execCmdHalt (i n : Nat) (s : State) : Out := onEntry i n 0x04 (fun s e => haltEntry s i e) s

/-- KERB (R301, R427): the payload is a command block; one that would raise Kerb command fault is a bad argument. -/
def kerbEntry (s : State) (i : Nat) (e : Entry) : State :=
  match kblockOf ((upto 8).map (wordAt e.payload)) with
  | none => carryEntry s i e.n 0x02 0
  | some b => submitKerb (runEntry s i e.n) (.entry i e.n) b

/-- CMD_KERB. -/
def execCmdKerb (i n : Nat) (s : State) : Out := onEntry i n 0x05 (fun s e => kerbEntry s i e) s

/-! ### Regions and slots -/

/-- The extents of a REGION.REG payload: bus address and length. -/
def extentsOf (d : List Byte) : List (Nat × Nat) :=
  (upto (d.length / 16)).map (fun k => ((wordAt d (2 * k)).toNat, (wordAt d (2 * k + 1)).toNat))

/-- The extents in use on the device (R438). -/
def extentsUsed (s : State) : Nat :=
  ((s.host.chans.flatMap (fun c => c.2.regions)).map (fun r => r.extents.length)).sum

/-- REGION.REG (R438). -/
def regionReg (s : State) (i : Nat) (e : Entry) : State :=
  let w := e.arg 0
  let xs := extentsOf e.payload
  let len := (xs.map (·.2)).sum
  let rs := (chanOf s i).regions
  if w % 2 ^ 21 ≠ 0 ∨ w < hostBase ∨ hostEnd < w + len ∨
      xs.any (fun x => x.1 % 4096 != 0 || x.2 == 0 || x.2 % 4096 != 0) = true ∨
      rs.any (fun r => decide (r.w < w + len) && decide (w < r.w + r.len)) = true then carryEntry s i e.n 0x02 0
  else if 256 ≤ rs.length ∨ 65536 < extentsUsed s + xs.length then carryEntry s i e.n 0x06 0
  else
    let r : HRegion := { w := w, read := bitsN (e.arg 1) 32 32 == 1, write := bitsN (e.arg 1) 33 33 == 1
                         epoch := bitsN (e.arg 1) 31 0, extents := xs }
    carryEntry (modChan s i (fun c => { c with regions := c.regions ++ [r] })) i e.n 0 len

/-- REGION_REG. -/
def execRegionReg (i n : Nat) (s : State) : Out := onEntry i n 0x06 (fun s e => regionReg s i e) s

/-- Whether a core's request that has left for the host goes through a region of a channel. -/
def throughRegion (s : State) (i : Nat) (r : HRegion) (q : Req) : Bool :=
  let a := if q.fresh then q.src else q.dst
  q.phase == .ext && (strOf s q.core q.stream).owner == some i && decide (r.w ≤ a) && decide (a < r.w + r.len)

/-- REGION.DEREG (R427, R445): it waits for the accesses through the region; a suspended region's held writes are discarded. -/
def regionDereg (s : State) (i : Nat) (e : Entry) : State :=
  match (chanOf s i).regions.find? (fun r => r.w == e.arg 0) with
  | none => carryEntry s i e.n 0x07 0
  | some r =>
    let held := regionHeld s i r.w
    if r.active && (held != 0 || s.reqs.any (throughRegion s i r)) then s
    else carryEntry (dropRegions s [(i, r.w)]) i e.n 0 held

/-- REGION_DEREG. -/
def execRegionDereg (i n : Nat) (s : State) : Out := onEntry i n 0x07 (fun s e => regionDereg s i e) s

/-- PLACE.REG (R439). -/
def placeReg (s : State) (i : Nat) (e : Entry) : State :=
  let a := localForm s (e.arg 0)
  let len := e.arg 1
  let k := bitsN (e.arg 2) 11 0
  let fits := decide (a + len ≤ userEnd) || (decide (windowBase ≤ a) && decide (a + len ≤ windowEnd))
  if a % 2 ^ 21 ≠ 0 ∨ len % 2 ^ 21 ≠ 0 ∨ len = 0 ∨ 2 ^ 30 < len ∨ fits = false then carryEntry s i e.n 0x02 0
  else
    match smFind? s.host.slots k with
    | some p => if p.chan ≠ i then carryEntry s i e.n 0x05 0 else put k a len
    | none => put k a len
where
  /-- Put the slot in force. -/
  put (k a len : Nat) : State :=
    let p : PlaceSlot := { chan := i, addr := a, len := len, read := bitsN (e.arg 2) 32 32 == 1, write := bitsN (e.arg 2) 33 33 == 1 }
    carryEntry (modHost s (fun h => { h with slots := smSet h.slots k p })) i e.n 0 (k * 2 ^ 30)

/-- PLACE_REG. -/
def execPlaceReg (i n : Nat) (s : State) : Out := onEntry i n 0x08 (fun s e => placeReg s i e) s

/-- PLACE.DEREG (R427). -/
def placeDereg (s : State) (i : Nat) (e : Entry) : State :=
  let k := bitsN (e.arg 2) 11 0
  match smFind? s.host.slots k with
  | some p =>
    if p.chan = i then carryEntry (modHost s (fun h => { h with slots := smErase h.slots k })) i e.n 0 0
    else carryEntry s i e.n 0x07 0
  | none => carryEntry s i e.n 0x07 0

/-- PLACE_DEREG. -/
def execPlaceDereg (i n : Nat) (s : State) : Out := onEntry i n 0x09 (fun s e => placeDereg s i e) s

/-! ### Plans and fillers -/

/-- STEP.LOAD (R329, R427): busy while a plan runs or is paused; an address that CMD_STEP_PLAN cannot hold is a bad argument. -/
def stepLoad (s : State) (i : Nat) (e : Entry) : State :=
  if stepState s = 2 ∨ stepState s = 3 then carryEntry s i e.n 0x05 0
  else if e.arg 0 % 128 ≠ 0 ∨ 2 ^ 48 ≤ e.arg 0 then carryEntry s i e.n 0x02 0
  else
    let s1 := loadPlan (wrf s CMD_STEP_PLAN CMD_STEP_PLAN_plan (e.arg 0 / 128)) (some (i, e.n))
    carryEntry s1 i e.n 0 (bits (rd s1 CMD_STEP_STATUS) 63 56)

/-- STEP_LOAD. -/
def execStepLoad (i n : Nat) (s : State) : Out := onEntry i n 0x0A (fun s e => stepLoad s i e) s

/-- FILLER_UNIT (R337, R427): the unit waits in its channel until the plan's bubble starts it. -/
def execFillerUnit (i n : Nat) (s : State) : Out := onEntry i n 0x0B (fun s _ => runEntry s i n) s

end Sys2Proof.Machine
end

