-- ==== Sys2Proof/Machine/Culvert.lean ====
section
/-! DEFINITION. The end of a Roadbed partial reset (Table 15-6 step 6, R506, R507, R542): the culverts leave hold, aborted transfers
go out again, the host requests held have their effect in order. DEDUCED: notes/assumptions/85. -/

namespace Sys2Proof.Machine

/-- The port through which a frame goes out again: of the group that its route begins with, one that was Active before the
reset; the frame waits there until that port is Active. -/
def resendPort (s : State) (h : FrameHdr) : Option (Nat × FrameHdr) :=
  match nextDim s h.dst with
  | none => none
  | some d =>
    let dir := frameDir s h d
    (((upto 3).map (fun k => groupBase d dir + k)).find? (fun p => s.boot.rbPorts.contains p)).map
      (fun p => (p, { h with vc := hopVc s h none d dir }))

/-- Send a frame again (R506). -/
def sendAgain (s : State) (h : FrameHdr) (b : Body) : State :=
  match resendPort s h with
  | some (p, h1) => putOnPort s p ⟨h1, b, none, none⟩
  | none => sendOn s h b none none

/-- A request that was aborted is issued again, unchanged, under a new tag (R506). -/
def askAgain (s : State) (a : Ask) : State :=
  match tagNow s with
  | none => modFab s (fun f => { f with asks := f.asks ++ [a] })
  | some t =>
    let s1 := modFab s (fun f => { f with
      sent := smSet f.sent t a.who, kept := smSet f.kept t a, timedOut := f.timedOut.filter (· ≠ t) })
    sendAgain s1 (mkHdr s a.type 1 a.len a.dst t a.op 0 a.addr) a.body

/-- A piece without its acknowledgement is sent again on its port (R407, R506), in its frames. -/
def pieceAgain (s : State) (c : Coll) (q : PieceId) : State :=
  let (d, s1) := pieceBytes s c q
  let p := portOfPiece s c.key q
  (frameCuts (pieceAt s c q true) d).foldl (fun s f =>
    let h := pieceHdr s q 5 3 f.2.length (pieceDst s c q) 0
    putOnPort s p ⟨{ h with vc := hopVc s h none (portDim p) (portPlus p) }, .piece q c.key f.1 f.2, none, none⟩) s1

/-- Everything aborted that the device itself sent goes out again (R506). -/
def resendAll (s : State) : State :=
  let as_ := s.fab.resend
  let s1 := as_.foldl askAgain (modFab s (fun f => { f with resend := [] }))
  let s2 := s1.fab.colls.foldl (fun s c => c.unacked.foldl (fun s q => pieceAgain s c q) s) s1
  askWaiting s2.fab.asks.length s2

/-- Entry 0 of the ownership table is rebuilt from MST_TICK_PIN (R542). -/
def rebuildOwner (s : State) : State :=
  let w := rd s MST_TICK_PIN
  wrf s (SEC_OWN 0) SEC_OWN_owner (if getb w MST_TICK_PIN_claimed then getf w MST_TICK_PIN_mode else 0)

/-- A host request that was held has its effect (R507). -/
def applyHeld (s : State) (c : Instr) : State :=
  match c with
  | .hostReset k => hostResetOf s k
  | .linkRetrainExpiry => linkExpired s
  | .bar2Write off d p => lateSettle (bar2Write s off d p)
  | .bar2Read off len => lateSettle (bar2Read s off len)
  | .commandDoorbell i d => commandDoorbell s i d
  | .completionDoorbell i d => completionDoorbell s i d
  | .registerWrite _ off width d => hostRegWrite s off width d
  | .create => mbox s 1
  | .destroy => mbox s 2
  | .resume => mbox s 3
  | .adopt => mbox s 4
  | .confirm => mbox s 5
  | _ => s

/-- The culverts leave hold (Table 15-6 step 6): a member none of whose ports was Active holds no late signal (R53). A reset that
a Roadbed PLL caused ends with that PLL relocked, which is counted (R502). DEDUCED: notes/assumptions/85. -/
def culvertRelease (s : State) : State :=
  if s.boot.rb ≠ 2 then s
  else
    let held := s.host.hostHeld
    let s1 := rebuildOwner (enabledPorts (modBoot (modHost s (fun h => { h with hostHeld := [] })) (fun b => { b with rb := 0 })))
    let s2 := resendAll (if rdf s PWR_RESET_STATUS PWR_RESET_STATUS_last_cause = 4 then
      count s1 PWR_COUNT PWR_COUNT_pll_relock else s1)
    held.foldl applyHeld (requestsFlow (sendWaiting (roadbedBack s2)))

/-- CULVERT_RELEASE (R505). -/
def execCulvertRelease (s : State) : Out := .next (culvertRelease s)

end Sys2Proof.Machine
end

