-- ==== Sys2Proof/Machine/Monitor.lean ====
section
/-! DEFINITION. The Milepost monitor (R543 to R545, R552, Table 17-9): what each command does and answers. DEDUCED: notes/assumptions/91. -/

namespace Sys2Proof.Machine

/-- Whether the monitor takes a command (R490, R503, R552): the Roadbed logic is out of reset, MON_CTRL.enable is 1. -/
def monLive (s : State) : Bool :=
  s.boot.pg && !s.boot.rstLow && s.boot.sampled && (s.boot.step == 0 || decide (3 ≤ s.boot.step)) && decide (s.boot.rb < 2) &&
  rdb s MON_CTRL MON_CTRL_enable

/-- The monitor answers OK: counted (R544, R552). -/
def monOk (s : State) (l : MonLine) : State := emit (count s MON_STATUS MON_STATUS_commands) (.uart l)

/-- The monitor answers an error (R544): counted. -/
def monErr (s : State) (n : Nat) : State := emit (count s MON_STATUS MON_STATUS_errors) (.uart (.err n))

/-- A line of a length: too long a line is answered ERR 4, a write-class command on a locked part ERR 5 (R543, R544). -/
def monLine (len : Nat) (write : Bool) (act : State → State) (s : State) : Out :=
  .next (if !monLive s then s
    else if 80 < len then monErr s 4
    else if write && !debugOpen s then monErr s 5
    else act s)

/-- MON_ID. -/
def execMonId (len : LineLen) (s : State) : Out :=
  monLine len false (fun s => monOk s (.okId (rd s SEC_IDENT) (bootState s))) s

/-- Whether the monitor may reach an address now (R545): while the device is waiting, only the PWR, MON and THM blocks.
DEDUCED: notes/assumptions/17. -/
def monReach (s : State) (a : Nat) : Bool :=
  deviceReady s || (match regionOf a with
    | .config off => servedWaiting off || off / 0x100000 == 5
    | _ => false)

/-- RD (R545): an aligned word, with the rights of a management core. -/
def monRead (s : State) (a : Nat) : State :=
  if a % 8 ≠ 0 then monErr s 2
  else if !monReach s a then monErr s 3
  else match regionOf a with
    | .config off =>
      let (w, s1) := readReg s off
      monOk s1 (.okRd w)
    | _ =>
      match sysRead s .mgmt .requester a 8 with
      | (.data d, s1) => monOk s1 (.okRd (BitVec.ofNat 64 (leNat d)))
      | (_, s1) => monErr s1 6

/-- MON_RD. -/
def execMonRd (len : LineLen) (addr : Word) (s : State) : Out := monLine len false (fun s => monRead s addr.toNat) s

/-- WR (R545). -/
def monWrite (s : State) (a : Nat) (v : Word) : State :=
  if a % 8 ≠ 0 then monErr s 2
  else if !monReach s a then monErr s 3
  else match regionOf a with
    | .config off => monOk (configWrite s .monitor off 8 v) .ok
    | _ =>
      match sysWrite s .mgmt a (bytesOf 8 v.toNat) with
      | (.data _, s1) => monOk s1 .ok
      | (_, s1) => monErr s1 6

/-- MON_WR. -/
def execMonWr (len : LineLen) (addr value : Word) (s : State) : Out := monLine len true (fun s => monWrite s addr.toNat value) s

/-- MON_ST. -/
def execMonSt (len : LineLen) (s : State) : Out :=
  monLine len false (fun s => monOk s (.okSt (stageNow s) (rd s MST_TIME) (rd s MST_STATUS) (keepState s))) s

/-- MON_TEMP: the hottest sensor, its reading in sixteenths of a degree, whether a throttle is in force. -/
def execMonTemp (len : LineLen) (s : State) : Out :=
  monLine len false (fun s =>
    let w := rd s THM_STATUS
    monOk s (.okTemp (getf w THM_STATUS_hottest_sensor) (sextN 16 (getf w THM_STATUS_hottest_t)) (getb w THM_STATUS_throttle))) s

/-- MON_TOKEN. -/
def execMonToken (len : LineLen) (s : State) : Out := monLine len false (fun s => monOk s (.okToken (rd s HST_KEEP_TOKEN))) s

/-- The rates of the monitor (Table 17-9). -/
def baudRates : List Nat := [115200, 230400, 460800, 921600, 1000000, 2000000, 3000000]

/-- MON_BAUD: the rate changes after the response. -/
def execMonBaud (len : LineLen) (n : Nat) (s : State) : Out :=
  monLine len false (fun s => if baudRates.contains n then wrf (monOk s .ok) MON_STATUS MON_STATUS_baud n else monErr s 2) s

/-- MON_HALT: a halt request of streams of a logical core (R112). -/
def execMonHalt (len : LineLen) (core m : Nat) (s : State) : Out :=
  monLine len true (fun s =>
    if core ≥ numCores ∨ m = 0 ∨ m > 7 then monErr s 2
    else if !deviceReady s then monErr s 3
    else monOk (ctrlRequests s core 0 m) .ok) s

/-- MON_RESET_ROADBED: after the response (Table 15-14 cause 3). -/
def execMonResetRoadbed (len : LineLen) (s : State) : Out := monLine len true (fun s => roadbedReset (monOk s .ok) 3) s

/-- MON_RESET_DEVICE: after the response. -/
def execMonResetDevice (len : LineLen) (s : State) : Out := monLine len true (fun s => pwrResetDevice (monOk s .ok) 0xA5) s

/-- A line that names no command of Table 17-9 (R544). -/
def execMonitorUnknownCommand (len : LineLen) (s : State) : Out := monLine len false (fun s => monErr s 1) s

/-- MON_STAT_CLEAR (R552). -/
def execMonStatClear (s : State) : Out := .next (powered s (monStatClear s))

end Sys2Proof.Machine
end

