-- ==== Sys2Proof/Machine/Scalar.lean ====
section
/-! DEFINITION. Scalar arithmetic (class 0x1_, R134 to R137). -/

namespace Sys2Proof.Machine

/-- The integer operations of opcodes 0x10 and 0x11 by fn (Table 04-4). -/
def intAlu (fn : Nat) (a b : Word) : Word :=
  let sh := b.toNat % 64
  match fn with
  | 0 => a + b
  | 1 => a - b
  | 2 => a &&& b
  | 3 => a ||| b
  | 4 => a ^^^ b
  | 5 => a <<< sh
  | 6 => a >>> sh
  | 7 => a.sshiftRight sh
  | 8 => if sgn a ≤ sgn b then a else b
  | 9 => if sgn a ≥ sgn b then a else b
  | 10 => if a.toNat ≤ b.toNat then a else b
  | _ => if a.toNat ≥ b.toNat then a else b

/-- The multiplications and divisions of opcode 0x12 by fn (Table 04-4, R136). -/
def intMulDiv (fn : Nat) (a b : Word) : Word :=
  match fn with
  | 0 => a * b
  | 1 => wordOf (sgn a * sgn b / 2 ^ 64)
  | 2 => BitVec.ofNat 64 (a.toNat * b.toNat / 2 ^ 64)
  | 3 => if b = 0 then BitVec.ofNat 64 (2 ^ 64 - 1) else wordOf ((sgn a).tdiv (sgn b))
  | 4 => if b = 0 then BitVec.ofNat 64 (2 ^ 64 - 1) else BitVec.ofNat 64 (a.toNat / b.toNat)
  | 5 => if b = 0 then a else wordOf ((sgn a).tmod (sgn b))
  | _ => if b = 0 then a else BitVec.ofNat 64 (a.toNat % b.toNat)

/-- A scalar register as an FP32 value: bits [31:0] (R137). -/
def regF32 (w : Word) : Fp := f32 w.toNat

/-- An FP32 result in a register: bits [63:32] zero, every NaN 0x7FC0_0000 (R137). -/
def f32Word (x : Fp) : Word := BitVec.ofNat 64 (to32 x)

/-- FCVT.S64.F32 (R137): nearest even, saturating, 0 for a NaN. -/
def f32ToInt (x : Fp) : Int :=
  match x with
  | .nan => 0
  | .inf n => if n then -2 ^ 63 else 2 ^ 63 - 1
  | .fin n m e => max (-2 ^ 63) (min (2 ^ 63 - 1) (roundInt (dyOf (.fin n m e))))

/-- The scalar floating-point operations of opcode 0x16 by fn (Table 04-4, R137). -/
def scalarFpOp (fn : Nat) (a b : Word) : Word :=
  let x := regF32 a
  let y := regF32 b
  match fn with
  | 0 => f32Word (fadd x y)
  | 1 => f32Word (fsub x y)
  | 2 => f32Word (fmul x y)
  | 3 => f32Word (fdiv x y)
  | 4 => f32Word (fmin x y)
  | 5 => f32Word (fmax x y)
  | 6 => f32Word (fsqrt x)
  | 7 => f32Word (fabs x)
  | 8 => f32Word (ofInt (sgn a))
  | _ => wordOf (f32ToInt x)

/-- The operations of opcode 0x10 (R134). -/
def execScalarAlu (fn : BitVec 4) (x : Insn) (s : State) : Out :=
  onCore x.core (issueInsn s x none (decide (fn.toNat < 12) && bitsN x.b 29 0 == 0) (fun s st =>
    if !isSA x.r0 || !isSAP x.r1 || !isSAP x.r2 then badOperand st
    else goReg s x x.r0 (intAlu fn.toNat (st.reg x.r1) (st.reg x.r2))))

/-- The operations of opcode 0x11: operand b is imm36 sign-extended (R134). -/
def execScalarAluImm (fn : BitVec 4) (x : Insn) (s : State) : Out :=
  onCore x.core (issueInsn s x none (decide (fn.toNat < 12)) (fun s st =>
    if !isSA x.r0 || !isSAP x.r1 then badOperand st
    else goReg s x x.r0 (intAlu fn.toNat (st.reg x.r1) (wordOf x.imm))))

/-- The operations of opcode 0x12 (R134, R136). -/
def execScalarMulDiv (fn : BitVec 4) (x : Insn) (s : State) : Out :=
  onCore x.core (issueInsn s x none (decide (fn.toNat < 7) && bitsN x.b 29 0 == 0) (fun s st =>
    if !isSA x.r0 || !isSAP x.r1 || !isSAP x.r2 then badOperand st
    else goReg s x x.r0 (intMulDiv fn.toNat (st.reg x.r1) (st.reg x.r2))))

/-- A comparison result as a register value. -/
def boolWord (b : Bool) : Word := if b then 1 else 0

/-- CMP.EQ to CMP.GEU (R135): the destination must be a predicate. -/
def execCmp (fn : BitVec 4) (x : Insn) (s : State) : Out :=
  onCore x.core (issueInsn s x none (decide (fn.toNat < 6) && bitsN x.b 29 0 == 0) (fun s st =>
    if !isP x.r0 || !isSAP x.r1 || !isSAP x.r2 then badOperand st
    else goReg s x x.r0 (boolWord (intCmp fn.toNat (st.reg x.r1) (st.reg x.r2)))))

/-- CMPI.EQ to CMPI.GEU (R135). -/
def execCmpi (fn : BitVec 4) (x : Insn) (s : State) : Out :=
  onCore x.core (issueInsn s x none (decide (fn.toNat < 6)) (fun s st =>
    if !isP x.r0 || !isSAP x.r1 then badOperand st
    else goReg s x x.r0 (boolWord (intCmp fn.toNat (st.reg x.r1) (wordOf x.imm)))))

/-- LI (R134): rd ← imm36 sign-extended; ra zero. -/
def execLi (x : Insn) (s : State) : Out :=
  onCore x.core (issueInsn s x none (x.r1 == 0) (fun s st =>
    if !isSA x.r0 then badOperand st else goReg s x x.r0 (wordOf x.imm)))

/-- LIH (R134): rd[63:36] ← imm36[27:0], rd[35:0] kept; ra zero. imm36[35:28] is ignored: the
immediate is a field that the operation uses. DEDUCED: notes/assumptions/21. -/
def execLih (x : Insn) (s : State) : Out :=
  onCore x.core (issueInsn s x none (x.r1 == 0) (fun s st =>
    if !isSA x.r0 then badOperand st
    else goReg s x x.r0 (BitVec.ofNat 64 (bitsN x.b 27 0 * 2 ^ 36 + bits (st.reg x.r0) 35 0))))

/-- The operations of opcode 0x16 (R134, R137); FSQRT, FABS and the conversions use no rb. -/
def execScalarFp (fn : BitVec 4) (x : Insn) (s : State) : Out :=
  onCore x.core (issueInsn s x none
    (decide (fn.toNat < 10) && bitsN x.b 29 0 == 0 && (decide (fn.toNat < 6) || x.r2 == 0)) (fun s st =>
    if !isSA x.r0 || !isSAP x.r1 || !isSAP x.r2 then badOperand st
    else goReg s x x.r0 (scalarFpOp fn.toNat (st.reg x.r1) (st.reg x.r2))))

/-- FMA (R134, R137): rd ← ra × rb + rc, rounded once. -/
def execFma (x : Insn) (s : State) : Out :=
  onCore x.core (issueInsn s x none (bitsN x.b 23 0 == 0) (fun s st =>
    if !isSA x.r0 || !isSAP x.r1 || !isSAP x.r2 || !isSAP x.r3 then badOperand st
    else goReg s x x.r0
      (f32Word (fadd (fmul (regF32 (st.reg x.r1)) (regF32 (st.reg x.r2))) (regF32 (st.reg x.r3))))))

/-- FCMP.EQ, FCMP.LT, FCMP.LE, FCMP.UN (R135). -/
def execFcmp (fn : BitVec 4) (x : Insn) (s : State) : Out :=
  onCore x.core (issueInsn s x none (decide (fn.toNat < 4) && bitsN x.b 29 0 == 0) (fun s st =>
    if !isP x.r0 || !isSAP x.r1 || !isSAP x.r2 then badOperand st
    else goReg s x x.r0 (boolWord (fpCmp fn.toNat (regF32 (st.reg x.r1)) (regF32 (st.reg x.r2))))))

end Sys2Proof.Machine
end

