-- ==== Sys2Proof/Machine/Dispatch.lean ====
section
/-! DEFINITION. The dispatch: each command's meaning, by name, in the order of spec/opcode_table.json. -/

namespace Sys2Proof.Machine

/-- The effect of a command on everything but the queue. -/
def exec (i : Instr) (s : State) : Host.Outcome State Fault Refusal :=
  match i with
  | .registerWrite src off width data => Sys2Proof.Machine.execRegisterWrite src off width data s
  | .milestone m => Sys2Proof.Machine.execMilestone m s
  | .lateSample => Sys2Proof.Machine.execLateSample s
  | .serviceSlot m => Sys2Proof.Machine.execServiceSlot m s
  | .lateSignal port stage => Sys2Proof.Machine.execLateSignal port stage s
  | .clearSignal port stage => Sys2Proof.Machine.execClearSignal port stage s
  | .releaseFrame port r stage => Sys2Proof.Machine.execReleaseFrame port r stage s
  | .stretchLimit => Sys2Proof.Machine.execStretchLimit s
  | .msTickEdge e => Sys2Proof.Machine.execMsTickEdge e s
  | .tickMissed => Sys2Proof.Machine.execTickMissed s
  | .scheduleAnnounce port at_ => Sys2Proof.Machine.execScheduleAnnounce port at_ s
  | .mstTickModeWrite mode => Sys2Proof.Machine.execMstTickModeWrite mode s
  | .mstEnable => Sys2Proof.Machine.execMstEnable s
  | .timingRequest p v => Sys2Proof.Machine.execTimingRequest p v s
  | .rootLost cands => Sys2Proof.Machine.execRootLost cands s
  | .timeSyncTimer => Sys2Proof.Machine.execTimeSyncTimer s
  | .timeSyncFrame port parentTime rttNs errPs held => Sys2Proof.Machine.execTimeSyncFrame port parentTime rttNs errPs held s
  | .streamStartRequest core streams => Sys2Proof.Machine.execStreamStartRequest core streams s
  | .streamHaltRequest core streams => Sys2Proof.Machine.execStreamHaltRequest core streams s
  | .roInvalidate core => Sys2Proof.Machine.execRoInvalidate core s
  | .coreIssueWrite core order rotate => Sys2Proof.Machine.execCoreIssueWrite core order rotate s
  | .streamHalted core t => Sys2Proof.Machine.execStreamHalted core t s
  | .dbgDataWrite core data => Sys2Proof.Machine.execDbgDataWrite core data s
  | .roCacheFill core c line wbOk => Sys2Proof.Machine.execRoCacheFill core c line wbOk s
  | .nop x => Sys2Proof.Machine.execNop x s
  | .br x => Sys2Proof.Machine.execBr x s
  | .jal x => Sys2Proof.Machine.execJal x s
  | .branchCompare fn x => Sys2Proof.Machine.execBranchCompare fn x s
  | .jr x => Sys2Proof.Machine.execJr x s
  | .jalr x => Sys2Proof.Machine.execJalr x s
  | .loop x => Sys2Proof.Machine.execLoop x s
  | .halt x => Sys2Proof.Machine.execHalt x s
  | .brk x => Sys2Proof.Machine.execBrk x s
  | .issue x => Sys2Proof.Machine.execIssue x s
  | .scalarAlu fn x => Sys2Proof.Machine.execScalarAlu fn x s
  | .scalarAluImm fn x => Sys2Proof.Machine.execScalarAluImm fn x s
  | .scalarMulDiv fn x => Sys2Proof.Machine.execScalarMulDiv fn x s
  | .cmp fn x => Sys2Proof.Machine.execCmp fn x s
  | .cmpi fn x => Sys2Proof.Machine.execCmpi fn x s
  | .li x => Sys2Proof.Machine.execLi x s
  | .lih x => Sys2Proof.Machine.execLih x s
  | .scalarFp fn x => Sys2Proof.Machine.execScalarFp fn x s
  | .fma x => Sys2Proof.Machine.execFma x s
  | .fcmp fn x => Sys2Proof.Machine.execFcmp fn x s
  | .ld fn x ecc => Sys2Proof.Machine.execLd fn x ecc s
  | .st fn x ecc => Sys2Proof.Machine.execSt fn x ecc s
  | .atom fn x ecc => Sys2Proof.Machine.execAtom fn x ecc s
  | .movd x => Sys2Proof.Machine.execMovd x s
  | .movr fn x => Sys2Proof.Machine.execMovr fn x s
  | .movementRequestIssue core t desc ecc => Sys2Proof.Machine.execMovementRequestIssue core t desc ecc s
  | .movementRequestDone core req a => Sys2Proof.Machine.execMovementRequestDone core req a s
  | .waitMs x => Sys2Proof.Machine.execWaitMs x s
  | .ctrInc x => Sys2Proof.Machine.execCtrInc x s
  | .ctrWait x => Sys2Proof.Machine.execCtrWait x s
  | .ctrWaitR x => Sys2Proof.Machine.execCtrWaitR x s
  | .layerBegin x => Sys2Proof.Machine.execLayerBegin x s
  | .layerEnd x => Sys2Proof.Machine.execLayerEnd x s
  | .rdms fn x => Sys2Proof.Machine.execRdms fn x s
  | .pfCch x drops => Sys2Proof.Machine.execPfCch x drops s
  | .pfVrg x drops => Sys2Proof.Machine.execPfVrg x drops s
  | .flush x => Sys2Proof.Machine.execFlush x s
  | .flushInv x => Sys2Proof.Machine.execFlushInv x s
  | .invCch x => Sys2Proof.Machine.execInvCch x s
  | .dead x => Sys2Proof.Machine.execDead x s
  | .pin x => Sys2Proof.Machine.execPin x s
  | .unpin x => Sys2Proof.Machine.execUnpin x s
  | .roinv x => Sys2Proof.Machine.execRoinv x s
  | .maintenanceComplete core op => Sys2Proof.Machine.execMaintenanceComplete core op s
  | .mma x ecc => Sys2Proof.Machine.execMma x ecc s
  | .mmaComplete core op => Sys2Proof.Machine.execMmaComplete core op s
  | .accZero x => Sys2Proof.Machine.execAccZero x s
  | .accLdF32 x => Sys2Proof.Machine.execAccLdF32 x s
  | .accLdF32s x => Sys2Proof.Machine.execAccLdF32s x s
  | .drainF32 x => Sys2Proof.Machine.execDrainF32 x s
  | .drainF32s x => Sys2Proof.Machine.execDrainF32s x s
  | .drainBf16 x => Sys2Proof.Machine.execDrainBf16 x s
  | .drainBf16Sr x => Sys2Proof.Machine.execDrainBf16Sr x s
  | .rdacc x => Sys2Proof.Machine.execRdacc x s
  | .mxuStatClear core => Sys2Proof.Machine.execMxuStatClear core s
  | .cvt x => Sys2Proof.Machine.execCvt x s
  | .cvtSr x => Sys2Proof.Machine.execCvtSr x s
  | .cvtSat x => Sys2Proof.Machine.execCvtSat x s
  | .cvtSrSat x => Sys2Proof.Machine.execCvtSrSat x s
  | .scale x => Sys2Proof.Machine.execScale x s
  | .rndK x => Sys2Proof.Machine.execRndK x s
  | .rndF x => Sys2Proof.Machine.execRndF x s
  | .provisionalWaitTimeout req => Sys2Proof.Machine.execProvisionalWaitTimeout req s
  | .logEnable => Sys2Proof.Machine.execLogEnable s
  | .logTailWrite tail => Sys2Proof.Machine.execLogTailWrite tail s
  | .auditClear => Sys2Proof.Machine.execAuditClear s
  | .vectorArith fn x ecc => Sys2Proof.Machine.execVectorArith fn x ecc s
  | .vfma fn x => Sys2Proof.Machine.execVfma fn x s
  | .vectorUnary fn x => Sys2Proof.Machine.execVectorUnary fn x s
  | .activation fn x => Sys2Proof.Machine.execActivation fn x s
  | .activationBackward fn x => Sys2Proof.Machine.execActivationBackward fn x s
  | .rowReduction fn x => Sys2Proof.Machine.execRowReduction fn x s
  | .scan fn x => Sys2Proof.Machine.execScan fn x s
  | .smaxF x => Sys2Proof.Machine.execSmaxF x s
  | .smaxB x => Sys2Proof.Machine.execSmaxB x s
  | .lnF rms x => Sys2Proof.Machine.execLnF rms x s
  | .lnB rms x => Sys2Proof.Machine.execLnB rms x s
  | .lnBsum rms x => Sys2Proof.Machine.execLnBsum rms x s
  | .vdrop x => Sys2Proof.Machine.execVdrop x s
  | .rdvf x => Sys2Proof.Machine.execRdvf x s
  | .vecStatClear core => Sys2Proof.Machine.execVecStatClear core s
  | .vecFlagsClear core t data => Sys2Proof.Machine.execVecFlagsClear core t data s
  | .cchFill req bad => Sys2Proof.Machine.execCchFill req bad s
  | .vergeRequest req ecc => Sys2Proof.Machine.execVergeRequest req ecc s
  | .vergeFill sector errs wbOk astray => Sys2Proof.Machine.execVergeFill sector errs wbOk astray s
  | .windowWaysWrite slice ways => Sys2Proof.Machine.execWindowWaysWrite slice ways s
  | .windowChangeDone slice => Sys2Proof.Machine.execWindowChangeDone slice s
  | .cchStatClear => Sys2Proof.Machine.execCchStatClear s
  | .vrgStatClear => Sys2Proof.Machine.execVrgStatClear s
  | .coreStallClear core => Sys2Proof.Machine.execCoreStallClear core s
  | .kcmd x => Sys2Proof.Machine.execKcmd x s
  | .shardOpen engine cmd => Sys2Proof.Machine.execShardOpen engine cmd s
  | .shardClose engine cmd => Sys2Proof.Machine.execShardClose engine cmd s
  | .lease engine cmd => Sys2Proof.Machine.execLease engine cmd s
  | .kerbRelease engine cmd => Sys2Proof.Machine.execKerbRelease engine cmd s
  | .gradClose engine cmd => Sys2Proof.Machine.execGradClose engine cmd s
  | .update engine cmd => Sys2Proof.Machine.execUpdate engine cmd s
  | .regen engine cmd => Sys2Proof.Machine.execRegen engine cmd s
  | .kerbUnpark engine cmd => Sys2Proof.Machine.execKerbUnpark engine cmd s
  | .kerbCommandComplete engine cmd => Sys2Proof.Machine.execKerbCommandComplete engine cmd s
  | .keeperPush stack => Sys2Proof.Machine.execKeeperPush stack s
  | .contributionBlock p => Sys2Proof.Machine.execContributionBlock p s
  | .krbStatClear => Sys2Proof.Machine.execKrbStatClear s
  | .stepCtrlLoad => Sys2Proof.Machine.execStepCtrlLoad s
  | .stepRun => Sys2Proof.Machine.execStepRun s
  | .stepPause => Sys2Proof.Machine.execStepPause s
  | .stepStop => Sys2Proof.Machine.execStepStop s
  | .phaseEnable => Sys2Proof.Machine.execPhaseEnable s
  | .epochRequest epoch step => Sys2Proof.Machine.execEpochRequest epoch step s
  | .epochDrained => Sys2Proof.Machine.execEpochDrained s
  | .epochCommitWrite stage => Sys2Proof.Machine.execEpochCommitWrite stage s
  | .atnRegister ring => Sys2Proof.Machine.execAtnRegister ring s
  | .atnUnregister ring => Sys2Proof.Machine.execAtnUnregister ring s
  | .atnRead ring => Sys2Proof.Machine.execAtnRead ring s
  | .atnWrite ring => Sys2Proof.Machine.execAtnWrite ring s
  | .atnRelease ring => Sys2Proof.Machine.execAtnRelease ring s
  | .atnCommit ring => Sys2Proof.Machine.execAtnCommit ring s
  | .atnResync table => Sys2Proof.Machine.execAtnResync table s
  | .atnPrefetch ring => Sys2Proof.Machine.execAtnPrefetch ring s
  | .atnSpill ring => Sys2Proof.Machine.execAtnSpill ring s
  | .atnRingPoll ring => Sys2Proof.Machine.execAtnRingPoll ring s
  | .atnUnpark ring => Sys2Proof.Machine.execAtnUnpark ring s
  | .pageTransferDone id ok data => Sys2Proof.Machine.execPageTransferDone id ok data s
  | .atnEnable en => Sys2Proof.Machine.execAtnEnable en s
  | .atnRingEnable ring => Sys2Proof.Machine.execAtnRingEnable ring s
  | .atnStatClear => Sys2Proof.Machine.execAtnStatClear s
  | .codeword port seq ack nak rx corrected => Sys2Proof.Machine.execCodeword port seq ack nak rx corrected s
  | .readFrame port h => Sys2Proof.Machine.execReadFrame port h s
  | .writeFrame port h data => Sys2Proof.Machine.execWriteFrame port h data s
  | .kerbFrame port h p => Sys2Proof.Machine.execKerbFrame port h p s
  | .responseFrame port h data => Sys2Proof.Machine.execResponseFrame port h data s
  | .collectiveFrame port h p k data => Sys2Proof.Machine.execCollectiveFrame port h p k data s
  | .collectiveAck port h p => Sys2Proof.Machine.execCollectiveAck port h p s
  | .creditFrame port cls vc n => Sys2Proof.Machine.execCreditFrame port cls vc n s
  | .bringupFrame port b => Sys2Proof.Machine.execBringupFrame port b s
  | .resendMarker port failedPort seq => Sys2Proof.Machine.execResendMarker port failedPort seq s
  | .nakFrame port code word0 => Sys2Proof.Machine.execNakFrame port code word0 s
  | .requestTimeout tag => Sys2Proof.Machine.execRequestTimeout tag s
  | .portEnable port => Sys2Proof.Machine.execPortEnable port s
  | .portDisable port => Sys2Proof.Machine.execPortDisable port s
  | .portRetrain port => Sys2Proof.Machine.execPortRetrain port s
  | .partnerDetected port lanes => Sys2Proof.Machine.execPartnerDetected port lanes s
  | .detectTimeout port => Sys2Proof.Machine.execDetectTimeout port s
  | .trainDone port lanes => Sys2Proof.Machine.execTrainDone port lanes s
  | .alignLock port => Sys2Proof.Machine.execAlignLock port s
  | .alignTimeout port => Sys2Proof.Machine.execAlignTimeout port s
  | .exchange port partnerRings partnerPort partnerId => Sys2Proof.Machine.execExchange port partnerRings partnerPort partnerId s
  | .retrainDone port ack lanes => Sys2Proof.Machine.execRetrainDone port ack lanes s
  | .retrainTimeout port => Sys2Proof.Machine.execRetrainTimeout port s
  | .fabricStart => Sys2Proof.Machine.execFabricStart s
  | .bringupPortsSettled => Sys2Proof.Machine.execBringupPortsSettled s
  | .originSettled => Sys2Proof.Machine.execOriginSettled s
  | .bringupComplete lateFlood clearRelease cands => Sys2Proof.Machine.execBringupComplete lateFlood clearRelease cands s
  | .collectiveRecord queue => Sys2Proof.Machine.execCollectiveRecord queue s
  | .collectiveStepStart id => Sys2Proof.Machine.execCollectiveStepStart id s
  | .collectiveTimeout id => Sys2Proof.Machine.execCollectiveTimeout id s
  | .cwyStatClear => Sys2Proof.Machine.execCwyStatClear s
  | .hostReset k => Sys2Proof.Machine.execHostReset k s
  | .dataLinkDown => Sys2Proof.Machine.execDataLinkDown s
  | .dataLinkUp speed width flit => Sys2Proof.Machine.execDataLinkUp speed width flit s
  | .linkRetrainExpiry => Sys2Proof.Machine.execLinkRetrainExpiry s
  | .busMasterDisable => Sys2Proof.Machine.execBusMasterDisable s
  | .busMasterEnable => Sys2Proof.Machine.execBusMasterEnable s
  | .bar2Write off data poisoned => Sys2Proof.Machine.execBar2Write off data poisoned s
  | .bar2Read off len => Sys2Proof.Machine.execBar2Read off len s
  | .commandDoorbell index b => Sys2Proof.Machine.execCommandDoorbell index b s
  | .completionDoorbell index b => Sys2Proof.Machine.execCompletionDoorbell index b s
  | .create => Sys2Proof.Machine.execCreate s
  | .destroy => Sys2Proof.Machine.execDestroy s
  | .channelFreed index => Sys2Proof.Machine.execChannelFreed index s
  | .resume => Sys2Proof.Machine.execResume s
  | .adopt => Sys2Proof.Machine.execAdopt s
  | .confirm => Sys2Proof.Machine.execConfirm s
  | .entryFetch index bytes => Sys2Proof.Machine.execEntryFetch index bytes s
  | .entryReread index bytes => Sys2Proof.Machine.execEntryReread index bytes s
  | .cmdNop index n => Sys2Proof.Machine.execCmdNop index n s
  | .copy index n hostData => Sys2Proof.Machine.execCopy index n hostData s
  | .writeInline index n => Sys2Proof.Machine.execWriteInline index n s
  | .start index n => Sys2Proof.Machine.execStart index n s
  | .cmdHalt index n => Sys2Proof.Machine.execCmdHalt index n s
  | .cmdKerb index n => Sys2Proof.Machine.execCmdKerb index n s
  | .regionReg index n => Sys2Proof.Machine.execRegionReg index n s
  | .regionDereg index n => Sys2Proof.Machine.execRegionDereg index n s
  | .placeReg index n => Sys2Proof.Machine.execPlaceReg index n s
  | .placeDereg index n => Sys2Proof.Machine.execPlaceDereg index n s
  | .stepLoad index n => Sys2Proof.Machine.execStepLoad index n s
  | .fillerUnit index n => Sys2Proof.Machine.execFillerUnit index n s
  | .entryComplete index n written => Sys2Proof.Machine.execEntryComplete index n written s
  | .holdExpiry => Sys2Proof.Machine.execHoldExpiry s
  | .keepEnter => Sys2Proof.Machine.execKeepEnter s
  | .keepRelease => Sys2Proof.Machine.execKeepRelease s
  | .keepReclaim token => Sys2Proof.Machine.execKeepReclaim token s
  | .hstStatClear => Sys2Proof.Machine.execHstStatClear s
  | .waybillReread sector ok => Sys2Proof.Machine.execWaybillReread sector ok s
  | .repairDone sector => Sys2Proof.Machine.execRepairDone sector s
  | .replicaRefetch sector data => Sys2Proof.Machine.execReplicaRefetch sector data s
  | .coreRetire cluster phys => Sys2Proof.Machine.execCoreRetire cluster phys s
  | .repLogEnable => Sys2Proof.Machine.execRepLogEnable s
  | .repStatClear => Sys2Proof.Machine.execRepStatClear s
  | .powerLoss => Sys2Proof.Machine.execPowerLoss s
  | .powerGood straps => Sys2Proof.Machine.execPowerGood straps s
  | .bootStepDone b => Sys2Proof.Machine.execBootStepDone b s
  | .bootStepTimeout cause => Sys2Proof.Machine.execBootStepTimeout cause s
  | .bootBackoffExpiry => Sys2Proof.Machine.execBootBackoffExpiry s
  | .pwrResetDevice key => Sys2Proof.Machine.execPwrResetDevice key s
  | .pwrResetRoadbed key => Sys2Proof.Machine.execPwrResetRoadbed key s
  | .culvertHold pastVerge => Sys2Proof.Machine.execCulvertHold pastVerge s
  | .culvertRelease => Sys2Proof.Machine.execCulvertRelease s
  | .roadbedAuthDone b => Sys2Proof.Machine.execRoadbedAuthDone b s
  | .sysReset => Sys2Proof.Machine.execSysReset s
  | .sysResetRelease => Sys2Proof.Machine.execSysResetRelease s
  | .watchdogKick => Sys2Proof.Machine.execWatchdogKick s
  | .watchdogExpiry => Sys2Proof.Machine.execWatchdogExpiry s
  | .vrAlertAssert => Sys2Proof.Machine.execVrAlertAssert s
  | .vrAlertRelease => Sys2Proof.Machine.execVrAlertRelease s
  | .lowestStateEnd => Sys2Proof.Machine.execLowestStateEnd s
  | .railRiseDone cluster => Sys2Proof.Machine.execRailRiseDone cluster s
  | .clusterPllUnlock cluster => Sys2Proof.Machine.execClusterPllUnlock cluster s
  | .clusterPllRelock cluster => Sys2Proof.Machine.execClusterPllRelock cluster s
  | .roadbedPllUnlock => Sys2Proof.Machine.execRoadbedPllUnlock s
  | .pwrStatClear => Sys2Proof.Machine.execPwrStatClear s
  | .thermalSample readings badCode => Sys2Proof.Machine.execThermalSample readings badCode s
  | .throttleEnd => Sys2Proof.Machine.execThrottleEnd s
  | .bandPendingTimeout => Sys2Proof.Machine.execBandPendingTimeout s
  | .restartCountExpiry => Sys2Proof.Machine.execRestartCountExpiry s
  | .thmStatClear => Sys2Proof.Machine.execThmStatClear s
  | .fwInstall => Sys2Proof.Machine.execFwInstall s
  | .fwInstallDone storeOk => Sys2Proof.Machine.execFwInstallDone storeOk s
  | .commitSvn => Sys2Proof.Machine.execCommitSvn s
  | .debugUnlock src => Sys2Proof.Machine.execDebugUnlock src s
  | .getVersion version => Sys2Proof.Machine.execGetVersion version s
  | .getCapabilities version => Sys2Proof.Machine.execGetCapabilities version s
  | .negotiateAlgorithms version offersP384 offersSha384 offersDmtf => Sys2Proof.Machine.execNegotiateAlgorithms version offersP384 offersSha384 offersDmtf s
  | .getDigests version => Sys2Proof.Machine.execGetDigests version s
  | .getCertificate version slot off len => Sys2Proof.Machine.execGetCertificate version slot off len s
  | .challenge version slot nonce => Sys2Proof.Machine.execChallenge version slot nonce s
  | .getMeasurements version index sign nonce => Sys2Proof.Machine.execGetMeasurements version index sign nonce s
  | .doeAbort => Sys2Proof.Machine.execDoeAbort s
  | .icuClaim core => Sys2Proof.Machine.execIcuClaim core s
  | .icuEoi core source => Sys2Proof.Machine.execIcuEoi core source s
  | .icuSwi source => Sys2Proof.Machine.execIcuSwi source s
  | .icuSrcWrite n data => Sys2Proof.Machine.execIcuSrcWrite n data s
  | .icuCountClear n => Sys2Proof.Machine.execIcuCountClear n s
  | .resourceClaim r code => Sys2Proof.Machine.execResourceClaim r code s
  | .resourceRelease r path => Sys2Proof.Machine.execResourceRelease r path s
  | .monId len => Sys2Proof.Machine.execMonId len s
  | .monRd len addr => Sys2Proof.Machine.execMonRd len addr s
  | .monWr len addr value => Sys2Proof.Machine.execMonWr len addr value s
  | .monSt len => Sys2Proof.Machine.execMonSt len s
  | .monTemp len => Sys2Proof.Machine.execMonTemp len s
  | .monToken len => Sys2Proof.Machine.execMonToken len s
  | .monBaud len n => Sys2Proof.Machine.execMonBaud len n s
  | .monHalt len core m => Sys2Proof.Machine.execMonHalt len core m s
  | .monResetRoadbed len => Sys2Proof.Machine.execMonResetRoadbed len s
  | .monResetDevice len => Sys2Proof.Machine.execMonResetDevice len s
  | .monStatClear => Sys2Proof.Machine.execMonStatClear s
  | .telExpEnable => Sys2Proof.Machine.execTelExpEnable s
  | .smbusIdentRead => Sys2Proof.Machine.execSmbusIdentRead s
  | .smbusBootRead => Sys2Proof.Machine.execSmbusBootRead s
  | .smbusThermalRead => Sys2Proof.Machine.execSmbusThermalRead s
  | .smbusPowerRead => Sys2Proof.Machine.execSmbusPowerRead s
  | .vectorInstructionComplete core op => Sys2Proof.Machine.execVectorInstructionComplete core op s
  | .drainComplete core op => Sys2Proof.Machine.execDrainComplete core op s
  | .illegalInstruction core stream word => Sys2Proof.Machine.execIllegalInstruction core stream word s
  | .keepReleaseComplete => Sys2Proof.Machine.execKeepReleaseComplete s
  | .collectiveQueueEnable ix => Sys2Proof.Machine.execCollectiveQueueEnable ix s
  | .configurationWrite off data => Sys2Proof.Machine.execConfigurationWrite off data s
  | .unsupportedRequest k => Sys2Proof.Machine.execUnsupportedRequest k s
  | .msixHoldoffExpiry vector => Sys2Proof.Machine.execMsixHoldoffExpiry vector s
  | .doeDiscovery index => Sys2Proof.Machine.execDoeDiscovery index s
  | .spdmUnsupportedRequest version code => Sys2Proof.Machine.execSpdmUnsupportedRequest version code s
  | .monitorUnknownCommand len => Sys2Proof.Machine.execMonitorUnknownCommand len s
  | .codewordLockLoss port => Sys2Proof.Machine.execCodewordLockLoss port s
  | .perstRelease => Sys2Proof.Machine.execPerstRelease s
  | .boundaryScanClock tms tdi => Sys2Proof.Machine.execBoundaryScanClock tms tdi s

end Sys2Proof.Machine
end

