-- ==== Sys2Proof/Machine/Idle.lean ====
section
/-! DEFINITION. What the device does when no command waits. -/

namespace Sys2Proof.Machine

/-- On an empty queue the block idles; while it is powered its timebase counts one nanosecond (R51, Table 02-12).
DESIGN CHOICE: notes/assumptions/3. -/
def idle (s : State) : State := if s.pow.on then wr s MST_TIME (rd s MST_TIME + 1) else s

end Sys2Proof.Machine
end

