-- ==== Sys2Proof/Safety.lean ====
section
/-! DEFINITION. The terms in which claims are stated: a safe step, the conditions under which an instruction issues, the state
after an instruction has issued, what an update leaves alone, and the invariants of the tables of the state. -/

namespace Sys2Proof.Machine

/-! ### Steps and invariants -/

/-- A safe step: it answers a next state. -/
def Goes (s : State) : Prop := ∃ t, step s = .next t

/-- The tables of the state that are kept in canonical form: the memory, the cores and the streams' registers and counters are
read and written through `SMap`; a key is listed once, in rising order. -/
def TablesSorted (s : State) : Prop :=
  smSorted none s.cfg = true ∧ smSorted none s.cores = true ∧ smSorted none s.slices = true
    ∧ smSorted none s.halves = true ∧ smSorted none s.engines = true

/-- The memory is in its canonical form: addresses strictly rising, no byte listed that reads the same unlisted. -/
def MemCanonical (s : State) : Prop := memWf s.mem = true

/-! ### The issue of an instruction (R87, R88, R99, R114, R128) -/

/-- The stream wins its unit in this cycle: it needs none, or it stands first among the contenders in the unit's order. -/
def winsUnit (s : State) (x : Insn) : Option Nat → Bool
  | none => true
  | some n => winner (unitOrder s x.core n) (x.stream :: contenders s x) == some x.stream

/-- The instruction issues: its core exists, its stream runs, the core's clock runs, no guaranteed slot holds the core's
foreground work (R67), the pc lies where instructions may be fetched, in a line whose fill has not failed, its predicate holds, and
it wins its unit. -/
def issues (s : State) (x : Insn) (unit : Option Nat) : Bool :=
  decide (x.core < numCores) && (strOf s x.core x.stream).st == .running && !(coreOf s x.core).held
    && !clockStopped s x.core && !heldBySlot s x.core
    && !fetchFails s x.core (strOf s x.core x.stream).pc && roReadable s (strOf s x.core x.stream).pc 8
    && predHolds (strOf s x.core x.stream) x && winsUnit s x unit

/-- The stream that offers the instruction. -/
abbrev strm (s : State) (x : Insn) : Stream := strOf s x.core x.stream

/-- The state after an instruction that gave `s1` has issued with the next address `pc`: the pc moves, and in mode 2 the
winner of a contended unit moves to the end of the unit's order (R89). -/
def issued (s s1 : State) (x : Insn) (unit : Option Nat) (pc : Nat) : State :=
  let s2 := modStr s1 x.core x.stream (fun z => { z with pc := pc })
  match unit with
  | none => s2
  | some n => if contenders s x = [] then s2 else afterContention s2 x.core n x.stream

/-- Where a branch at `pc` goes (R131): pc + 8 × off36, in 48 bits. -/
def branchesTo (pc : Nat) (x : Insn) (q : Nat) : Prop := q < 2 ^ 48 ∧ ((q : Int) ≡ (pc : Int) + 8 * x.imm [ZMOD 2 ^ 48])

/-! ### The results of scalar instructions, in the spec's own arithmetic -/

/-- The integer operations of Table 04-4 by function (R134): the result of operands a and b. -/
def aluRule (fn : Nat) (a b v : Word) : Prop :=
  match fn with
  | 0 => v.toNat = (a.toNat + b.toNat) % 2 ^ 64
  | 1 => (v.toNat + b.toNat) % 2 ^ 64 = a.toNat
  | 2 => ∀ i, v.getLsbD i = (a.getLsbD i && b.getLsbD i)
  | 3 => ∀ i, v.getLsbD i = (a.getLsbD i || b.getLsbD i)
  | 4 => ∀ i, v.getLsbD i = (a.getLsbD i ^^ b.getLsbD i)
  | 5 => v.toNat = a.toNat * 2 ^ (b.toNat % 64) % 2 ^ 64
  | 6 => v.toNat = a.toNat / 2 ^ (b.toNat % 64)
  | 7 => v.toInt = a.toInt / 2 ^ (b.toNat % 64)
  | 8 => v.toInt = min a.toInt b.toInt
  | 9 => v.toInt = max a.toInt b.toInt
  | 10 => v.toNat = min a.toNat b.toNat
  | _ => v.toNat = max a.toNat b.toNat

/-- Multiplication and division by function (R134, R136): division truncates toward zero and never faults; by zero the
quotient is all ones and the remainder the dividend. -/
def mulDivRule (fn : Nat) (a b v : Word) : Prop :=
  match fn with
  | 0 => v.toNat = a.toNat * b.toNat % 2 ^ 64
  | 1 => v.toInt = a.toInt * b.toInt / 2 ^ 64
  | 2 => v.toNat = a.toNat * b.toNat / 2 ^ 64
  | 3 => if b = 0 then v.toNat = 2 ^ 64 - 1 else (v.toInt ≡ a.toInt.tdiv b.toInt [ZMOD 2 ^ 64])
  | 4 => if b = 0 then v.toNat = 2 ^ 64 - 1 else v.toNat = a.toNat / b.toNat
  | 5 => if b = 0 then v = a else v.toInt = a.toInt.tmod b.toInt
  | _ => if b = 0 then v = a else v.toNat = a.toNat % b.toNat

/-- The integer comparisons by function (R135). -/
def cmpRule (fn : Nat) (a b : Word) : Prop :=
  match fn with
  | 0 => a = b
  | 1 => a ≠ b
  | 2 => a.toInt < b.toInt
  | 3 => b.toInt ≤ a.toInt
  | 4 => a.toNat < b.toNat
  | _ => b.toNat ≤ a.toNat

/-- The FP32 operations by function (R137): the exact result rounded once to nearest even, a NaN as 0x7FC0_0000; FCVT.S64.F32
saturates, and gives 0 for a NaN. -/
def floatRule (fn : Nat) (a b v : Word) : Prop :=
  let x := regF32 a
  let y := regF32 b
  match fn with
  | 0 => v = f32Word (fadd x y) ∧ (isNan x = true ∨ isNan y = true → v = 0x7FC00000)
  | 1 => v = f32Word (fsub x y) ∧ (isNan x = true ∨ isNan y = true → v = 0x7FC00000)
  | 2 => v = f32Word (fmul x y) ∧ (isNan x = true ∨ isNan y = true → v = 0x7FC00000)
  | 3 => v = f32Word (fdiv x y) ∧ (isNan x = true ∨ isNan y = true → v = 0x7FC00000)
  | 4 => v = f32Word (fmin x y) ∧ (isNan x = true → isNan y = true → v = 0x7FC00000)
  | 5 => v = f32Word (fmax x y) ∧ (isNan x = true → isNan y = true → v = 0x7FC00000)
  | 6 => v = f32Word (fsqrt x) ∧ (isNan x = true → v = 0x7FC00000)
  | 7 => v = f32Word (fabs x)
  | 8 => v = f32Word (ofInt a.toInt)
  | _ => (x = .nan → v = 0) ∧ (x = .inf false → v.toInt = 2 ^ 63 - 1) ∧ (x = .inf true → v.toInt = -2 ^ 63)
      ∧ (∀ n m e, x = .fin n m e → v.toInt = max (-2 ^ 63) (min (2 ^ 63 - 1) (roundInt (dyOf x))))

/-- Where a number that is no NaN stands: infinities beyond every finite number, a finite one at its value. -/
def fpPlace : Fp → Int × ℚ
  | .nan => (0, 0)
  | .inf n => (if n then -1 else 1, 0)
  | .fin n m e => (0, (if n then -(m : ℚ) else m) * 2 ^ e)

/-- What FCMP compares (R135): 0 EQ, 1 LT, 2 LE of two numbers, 3 UN; a NaN compares false under the first three. -/
def fcmpRule (fn : Nat) (x y : Fp) : Prop :=
  let before := (fpPlace x).1 < (fpPlace y).1 ∨ ((fpPlace x).1 = (fpPlace y).1 ∧ (fpPlace x).2 < (fpPlace y).2)
  match fn with
  | 0 => x ≠ .nan ∧ y ≠ .nan ∧ fpPlace x = fpPlace y
  | 1 => x ≠ .nan ∧ y ≠ .nan ∧ before
  | 2 => x ≠ .nan ∧ y ≠ .nan ∧ (before ∨ fpPlace x = fpPlace y)
  | _ => x = .nan ∨ y = .nan

/-- What a load gives (R138, R139): the little-endian value of the bytes read, sign-extended under .B, .H and .W. -/
def loadRule (fn : Nat) (d : List Byte) (v : Word) : Prop :=
  if fn = 0 ∨ fn = 2 ∨ fn = 4 then v.toInt = sextN (8 * d.length) (leNat d) else v.toNat = leNat d

/-- The offset of LD and ST (R138): the 64-bit sum of ra and imm36, unsigned. -/
def atOffset (a : Word) (imm : Int) (o : Nat) : Prop := o < 2 ^ 64 ∧ (o : Int) ≡ (a.toNat : Int) + imm [ZMOD 2 ^ 64]

/-- No word that the bytes [o, o + n) of a core's scratchpad touch is marked uncorrectable. -/
def goodWords (s : State) (l o n : Nat) : Prop := ∀ w ∈ (coreOf s l).bad, w + 8 ≤ o ∨ o + n ≤ w

/-- A control frame that arrives on a port is taken (R393, R397): its class has a free buffer there, and it is no second copy. -/
def controlFits (s : State) (p : Nat) : Prop := smGet 0 (portOf s p).filled 0 < bufferHolds 0 ∧ (portOf s p).dropNext = false

/-- A sibling's fault has halted the stream, and the timebase has not moved on since: whether a fault of its own comes in the same cycle
is left open (notes/assumptions/115). -/
def tiedWith (s : State) (l : Nat) (t : StreamId) : Prop :=
  (strOf s l t).st = .halting ∧ (strOf s l t).cause = .sibling ∧ (coreOf s l).faultAt = (rd s MST_TIME).toNat

/-- What an ATOM writes (R139): the sum under ADD, rb under SWAP, under CAS rb where the word equals rc. -/
def atomRule (fn : Nat) (old b c : Word) : Word :=
  match fn with
  | 0 => BitVec.ofNat 64 (old.toNat + b.toNat)
  | 1 => b
  | _ => if old = c then b else old

/-! ### Movement and cache maintenance -/

/-- The address of the next byte of a descriptor side: base + row × pitch + offset, in 64 bits (R101). -/
def descAt (base : Nat) (pitch : Int) (row off : Nat) (a : Nat) : Prop :=
  a < 2 ^ 64 ∧ (a : Int) ≡ (base : Int) + pitch * row + off [ZMOD 2 ^ 64]

/-- No reduction is pending anywhere: no line of a slice holds partial sums and no keeper holds a push. -/
def NoReductions (s : State) : Prop :=
  (∀ i, ∀ v ∈ (sliceOf s i).lines, v.red = none) ∧ ∀ k, (engOf s k).pushes = []

/-- A request reaches its slice, or stands there (R67, R262): no packet of its route precedes it, and no guaranteed slot holds the
slice. -/
def reaches (s : State) (r : Req) : Prop :=
  (r.here = true ∨ behind s r = false) ∧ heldBySlot s (18468 + sliceOfAddr r.target) = false

/-- A request has gone on as request q: what it asks for is unchanged, it stands at its slice and waits for nothing there. -/
def reqGoesOn (r q : Req) : Prop :=
  q.here = true ∧ q.waiting = false
    ∧ r = { q with phase := r.phase, data := r.data, waiting := r.waiting, sent := r.sent, here := r.here, filled := r.filled
                   tag := r.tag, hold := r.hold, bad := r.bad }

/-- No request that the slice accepted before this one still acts on the sector (R260, R267). -/
def sectorFree (s : State) (r : Req) (sec : Nat) : Prop :=
  sectorTaken s { r with sent := if r.here then r.sent else s.nextId } sec = false

/-- The range operation of function `fn` (Table 04-10). -/
def maintOp (fn : Nat) (x : Insn) (drops : List Nat) : Instr :=
  match fn with
  | 0 => .pfCch x drops
  | 1 => .pfVrg x drops
  | 2 => .flush x
  | 3 => .flushInv x
  | 4 => .invCch x
  | 5 => .dead x
  | 6 => .pin x
  | _ => .unpin x

/-- A range operation on the bytes [a, a + n) that the movement engine accepts at once (R159, R160): the encoding's zero fields,
its registers, the alignment, the region, fewer than eight accepted, a movement slot, and for a prefetch its miss slots (R281). -/
def maintAccepts (s : State) (x : Insn) (fn a n : Nat) : Prop :=
  issues s x (some 1) = true ∧ x.r0 = 0 ∧ x.r3 = 0 ∧ bitsN x.b 19 0 = 0 ∧ x.r1 < 48 ∧ x.r2 < 48
    ∧ ((strm s x).reg x.r1).toNat = a ∧ ((strm s x).reg x.r2).toNat = n ∧ (2 ≤ fn → a % 256 = 0 ∧ n % 256 = 0)
    ∧ rangeRegion s fn a n = true ∧ accepted (coreOf s x.core) x.stream < 8 ∧ slotFree s x.core x.stream = true
    ∧ pfWaits s x.core fn (localForm s a) n = false

/-- The movement engine has accepted a range operation: it holds it until it is complete, and the stream has gone on. -/
def maintHeld (s t : State) (x : Insn) (fn : Nat) : Prop :=
  strm t x = { strm s x with pc := pcAfter (strm s x).pc }
    ∧ ∃ m, (coreOf t x.core).maints = (coreOf s x.core).maints ++ [m] ∧ m.fn = fn ∧ m.stream = x.stream
      ∧ m.ctr = if bitsN x.b 20 20 = 1 then some (bitsN x.b 23 21) else none

/-! ### The matrix unit and the vector engine -/

/-- Every other core, and every other stream of core `l`, is as before. -/
def OthersKept (s t : State) (l : Nat) (u : StreamId) : Prop :=
  (∀ m, m ≠ l → coreOf t m = coreOf s m) ∧ ∀ v, v ≠ u → strOf t l v = strOf s l v

/-- An operation of a shared unit has been accepted for the stream and is outstanding. -/
def opHeld (s t : State) (x : Insn) (kind : OpKind) : Prop :=
  ∃ o, (coreOf t x.core).ops = (coreOf s x.core).ops ++ [o] ∧ o.kind = kind ∧ o.stream = x.stream ∧ o.addr = (strm s x).pc

/-- Every byte of memory outside the planes of a core's scratchpad reads as before. -/
def ScratchKept (s t : State) (l : Nat) (ps : List Plane) : Prop :=
  ∀ a, (∀ o, a = scratchAddr l o → ∀ p ∈ ps, ∀ i, i < p.lines → o < p.off + i * p.pitch ∨ p.off + i * p.pitch + p.len ≤ o) →
    memByte t.mem a = memByte s.mem a

/-- No plane of the list has a byte in [lo, hi). -/
def planesApart (ps : List Plane) (lo hi : Nat) : Prop := ∀ p ∈ ps, ∀ b, lo ≤ b → b < hi → p.covers b = false

/-- The lines of a plane do not overlap one another. -/
def linesApart (p : Plane) : Prop := p.lines ≤ 1 ∨ p.len ≤ p.pitch

/-- The plane of an MMA operand (R174): `lines` lines of k elements of z bytes in K-form, k lines of `lines` elements in MN-form;
under format code 7 offset and pitch count elements. -/
def mmaPlane (rung mn : Bool) (z off pitch lines k : Nat) : Plane :=
  let u (v : Nat) : Nat := if rung then v * z else v
  if mn then ⟨u off, u pitch, k, lines * z, z⟩ else ⟨u off, u pitch, lines, k * z, z⟩

/-- The scale planes of an MXFP8 MMA (R179). -/
def mmaScales (x : Insn) (w : Word) (m n k : Nat) : List Plane :=
  if pairClass (mFa x) = 1 then
    [⟨bits w 16 0, 0, 1, m * ((k + 31) / 32), 0⟩, ⟨bits w 48 32, 0, 1, n * ((k + 31) / 32), 0⟩] else []

/-- A drain as an instruction. -/
def drainInstr (f : DrainForm) (x : Insn) : Instr :=
  match f with
  | .f32 => .drainF32 x
  | .f32s => .drainF32s x
  | .bf16 => .drainBf16 x
  | .bf16Sr => .drainBf16Sr x

/-- A conversion as an instruction. -/
def cvtInstr (sr sat : Bool) (x : Insn) : Instr :=
  if sr then (if sat then .cvtSrSat x else .cvtSr x) else (if sat then .cvtSat x else .cvt x)

/-- The scratchpad offset of element i of a tile operand (R228, R229). -/
def vAt (c : VCtx) (o : VOp) (i : Nat) : Nat := o.off + i / c.w * o.pitch + i % c.w * o.size

/-- The value of element i of a tile operand. -/
def vVal (s : State) (x : Insn) (c : VCtx) (o : VOp) (f i : Nat) : Fp := decodeFp (fmtOf f) (elemAt s x.core (vAt c o i) o.size)

/-- The value of element i of a broadcastable source (R230). -/
def srcVal (s : State) (x : Insn) (c : VCtx) (v : VSrc) (i : Nat) : Fp :=
  match v.op with
  | none => f32 v.val.toNat
  | some o =>
    if v.form = 0 then vVal s x c o c.fs i
    else decodeFp (fmtOf c.fs) (elemAt s x.core (o.off + (if v.form = 2 then i % c.w else i / c.w) * o.size) o.size)

/-- The values of row r of a tile operand. -/
def rowVals (s : State) (x : Insn) (c : VCtx) (o : VOp) (r : Nat) : List Fp :=
  (upto (c.rowLen r)).map (fun j => vVal s x c o c.fs (r * c.w + j))

/-- A vector instruction of n > 0 elements that the engine accepts (R227 to R235): it issues, its encoding and its context are as
defined, its planes lie in the scratchpad and are aligned, its sources and the words that its writes fill in part have no
uncorrectable word. -/
def vAccepts (s : State) (x : Insn) (c : VCtx) (paramOk : Bool) (srcs dsts : List VOp) (ecc : Ecc) : Prop :=
  issues s x (some 3) = true ∧ bitsN x.b 4 0 = 0 ∧ vCtx x (strm s x) paramOk = some c ∧ 0 < c.n
    ∧ planeCheck (opPlanes (srcs ++ dsts)) = none ∧ wordsBad s x.core (opPlanes srcs) (opPlanes dsts) ecc = none

/-- The engine has accepted the instruction: it is outstanding, the stream has gone on, and its draw counter has passed the
values that stochastic rounding takes. -/
def vHeld (s t : State) (x : Insn) (c : VCtx) : Prop :=
  strm t x = { strm s x with pc := pcAfter (strm s x).pc
                             draw := (strm s x).draw + BitVec.ofNat 64 (if c.sr then (c.n + 7) / 8 else 0) }
    ∧ opHeld s t x .vector ∧ OthersKept s t x.core x.stream

/-- The destination's rows do not overlap, and its elements share no byte with the planes that they may not share (R235). -/
def vRoom (c : VCtx) (d : VOp) (clash : List Plane) : Prop :=
  (c.rows ≤ 1 ∨ c.w * d.size ≤ d.pitch) ∧ ∀ i, i < c.n → planesApart clash (vAt c d i) (vAt c d i + d.size)

/-- Element i of the destination holds the code `code i`. -/
def vGives (t : State) (x : Insn) (c : VCtx) (d : VOp) (code : Nat → Nat) : Prop :=
  ∀ i, i < c.n → elemAt t x.core (vAt c d i) d.size = code i

/-- The code of a result for element i in the destination format (R232). -/
def vOut (s : State) (x : Insn) (c : VCtx) (i : Nat) (v : Fp) : Nat := vCode c.fd (vMode s x c (strm s x).draw i) v

/-- The operands of the normalisations beside their tiles (R245): γ, β (or dγ, dβ), the statistics records. -/
def normAux (o : NormOps) (c : VCtx) (rms ext : Bool) : List VOp :=
  planeOp ⟨o.gamma, 0, 1, 4 * min c.w c.n, 4⟩ :: ((if rms then [] else [planeOp ⟨o.second, 0, 1, 4 * min c.w c.n, 4⟩]) ++
    (if ext then [planeOp ⟨o.stats, 16, c.rows, 8, 4⟩] else []))

/-! ### The Kerb engines -/

/-- Command `c`, with identifier `id` and operation `op`, is next to run at engine k (R296, R321): it is queued, identifiers name
one command each, fewer than four commands run, no guaranteed slot holds the engine's foreground work (R67), no running or earlier
queued command names its shard, and for line work no keeper has a push or a contribution block to apply first. -/
def kerbRuns (s : State) (k id op : Nat) (c : KCmd) : Prop :=
  k < 36 ∧ findCmd s k id = some c ∧ c.op = op ∧ c.phase = .queued ∧ ((engOf s k).cmds.map (·.id)).Nodup
    ∧ ((engOf s k).cmds.filter KCmd.runs).length < 4 ∧ heldBySlot s (18432 + k) = false
    ∧ (op ≠ 1 → (∀ q ∈ (engOf s k).cmds, q.runs = true → q.op ≠ 1 → handleIndex q.handle ≠ handleIndex c.handle)
      ∧ ∀ q ∈ (engOf s k).cmds.takeWhile (fun q => q.id != id), q.phase = .queued → q.op ≠ 1 →
        handleIndex q.handle ≠ handleIndex c.handle)
    ∧ (5 ≤ op → lineWorkWaits s = false)

/-- The handle of a command names the open shard x, at index i of engine k. -/
def kerbNames (s : State) (k : Nat) (c : KCmd) (i : Nat) (x : Shard) : Prop :=
  handleIndex c.handle = i ∧ smFind? (engOf s k).shards i = some x ∧ x.gen = handleGen c.handle

/-- A command of engine k has ended, with a status code and a value. -/
def kerbEnds (t : State) (k id code value : Nat) : Prop :=
  ∃ q, findCmd t k id = some q ∧ q.phase = .finished ∧ q.code = code ∧ q.value = value

/-- A command of engine k has ended with a status code other than done. -/
def kerbFails (t : State) (k id code : Nat) : Prop := ∃ q, findCmd t k id = some q ∧ q.phase = .finished ∧ q.code = code

/-- A command of engine k is parked. -/
def kerbParks (t : State) (k id : Nat) : Prop := ∃ q, findCmd t k id = some q ∧ q.phase = .parked

/-! ### The walker -/

/-- The request at the front of ring i is `r`, with operation `op`, well formed, and the device is not in keep state. -/
def atnFront (s : State) (i op : Nat) (r : AtnReq) : Prop :=
  (∃ q, ringQueue s i = r :: q) ∧ r.op = op ∧ r.bad = false ∧ keepState s < 2

/-- A walk request that has not been accepted: it names table k, whose entry is t. -/
def atnNew (s : State) (i op k : Nat) (r : AtnReq) (t : RouteTable) : Prop :=
  atnFront s i op r ∧ r.parked = false ∧ r.version = none ∧ tableOfHandle s r.handle = some (k, t)

/-- The walker once it has accepted the request at the front of ring i, for the pages ps: what accepting reads, then the request
with its version and its pages. -/
def walkOpen (s : State) (i : Nat) (r : AtnReq) (t : RouteTable) (ps : List Nat) : State :=
  setFront (walkRead s r.op t) i { r with version := some t.version, todo := ps, pages := ps }

/-! ### Frames that arrive -/

/-- A frame that an Active port accepts for this device, with no violation: its length is that of its payload, it is not a second
copy, and this device has its ID (R388, R397, R402). -/
def frameServed (s : State) (p : Nat) (h : FrameHdr) (len : Nat) : Prop :=
  p < 36 ∧ portActive s p = true ∧ len = (if h.type = 1 then 0 else h.length) ∧ (portOf s p).dropNext = false
    ∧ violationOf s p h = 0 ∧ rdb s CWY_SELF_ID CWY_SELF_ID_id_valid = true ∧ h.dst = selfId s

/-- A frame that an Active port drops as a violation `v` (R402). -/
def frameViolates (s : State) (p : Nat) (h : FrameHdr) (len v : Nat) : Prop :=
  p < 36 ∧ portActive s p = true ∧ len = (if h.type = 1 then 0 else h.length) ∧ (portOf s p).dropNext = false
    ∧ violationOf s p h = v ∧ v ≠ 0

/-- The class and channel of a frame, as the key of its buffers. -/
def pairKey (h : FrameHdr) : Nat := 2 * h.cls + h.vc

/-- The state in which a frame fills a receive buffer of its port (R393). -/
def frameTaken (s : State) (p : Nat) (h : FrameHdr) : State :=
  modPort s p (fun x => { x with filled := smPut 0 x.filled (pairKey h) (smGet 0 x.filled (pairKey h) + 1) })

/-- A violation has been recorded on its port: its code and the stage, one more violation counted, its interrupt pending. -/
def violationKept (s t : State) (p v : Nat) : Prop :=
  bits (rd t (CWY_PORT_ERR p)) 63 56 = v ∧ bits (rd t (CWY_PORT_ERR p)) 47 0 = stageNow s
    ∧ rdf t (CWY_PORT_COUNT p) CWY_PORT_COUNT_violations = (rdf s (CWY_PORT_COUNT p) CWY_PORT_COUNT_violations + 1) % 2 ^ 16
    ∧ rdb t (ICU_SRC (212 + p)) ICU_SRC_pending = true

/-! ### The host side -/

/-- The mailbox takes an operation (R422, R447, R490): the device is not waiting, no Roadbed reset holds it, it is not busy, and
keep state does not hold. -/
def mboxTakes (s : State) : Prop :=
  deviceReady s = true ∧ s.boot.rb = 0 ∧ rdb s CMD_MBOX_RESULT CMD_MBOX_RESULT_busy = false ∧ keepState s < 2

/-- The result of a mailbox operation: its status and its value, and no longer busy. -/
def mboxSays (t : State) (status value : Nat) : Prop :=
  rdf t CMD_MBOX_RESULT CMD_MBOX_RESULT_status = status ∧ rdf t CMD_MBOX_RESULT CMD_MBOX_RESULT_value = value % 2 ^ 32
    ∧ rdb t CMD_MBOX_RESULT CMD_MBOX_RESULT_busy = false

/-- The operations of the mailbox that name a channel by its handle: the handle names channel i. -/
def mboxNames (s : State) (i : Nat) : Prop := mboxTakes s ∧ handleIdx s (mboxArg s 3).toNat = some i

/-- A host request has its effect now: the link is up, and no Roadbed reset holds requests. -/
def hostNow (s : State) : Prop := hostArrives s = true ∧ s.boot.rb = 0

/-- Entry e of channel i, with operation `op`, has started. -/
def entryStarted (s : State) (i n op : Nat) (e : Entry) : Prop := i < 4096 ∧ startedEntry s i n = some e ∧ e.op = op

/-- Entry n of channel i has been carried out, with a status and a value. -/
def entryCarried (t : State) (i n code value : Nat) : Prop :=
  ∃ e ∈ (chanOf t i).entries, e.n = n ∧ e.phase = .carried ∧ e.code = code ∧ e.value = value

/-- Entry n of channel i runs. -/
def entryRuns (t : State) (i n : Nat) : Prop := ∃ e ∈ (chanOf t i).entries, e.n = n ∧ e.phase = .running

/-! ### Writes of registers -/

/-- A path may write the registers of configuration space (R39, R419, R447, R490, R535): the firmware runs; the host's link is up, its
requests are not held and the device is ready; the monitor has sampled its straps on a ready device; a peer's request finds the device
ready, its culverts open and keep state not held. -/
def pathWrites (s : State) : Path → Prop
  | .mgmt => s.sec.running = true
  | .host => hostNow s ∧ s.pcie.d3hot = false ∧ deviceReady s = true
  | .monitor => s.boot.sampled = true ∧ deviceReady s = true
  | .peerMgmt => deviceReady s = true ∧ s.boot.rb ≠ 2 ∧ keepState s < 2

/-- Registers of several blocks whose writable fields only hold what is written, and do nothing when they are. -/
def heldRegs : List Nat :=
  [MST_STRETCH_LIMIT, MST_STATUS, CORE_RNG_SEED 0, CORE_STATUS 0, CORE_ECC 0, CORE_DBG_SEL 0, TEL_LOG_STATUS, CCH_NOPF 0, CCH_NOPF 7,
   KRB_SEED, CMD_REMAP, CMD_MBOX_ARG 0, CMD_MBOX_ARG 3, CWY_TIME, REP_SELFTEST, REP_AUDIT, PWR_STATUS, THM_STATUS, SEC_FW_ADDR]

/-- Registers of several blocks that have read-only fields alone. -/
def shownRegs : List Nat :=
  [MST_STAGE, MST_TIME, CWY_SELF_ID, TEL_LOG_HEAD, CCH_HIT 0, CCH_PF 143, VRG_OCCUPANCY 0, VRG_EVENTS_0 0, VRG_HOTSPOT 143, KRB_STATUS 0,
   PWR_BOOT, PWR_ENERGY, SEC_STATUS, SEC_FUSE, SEC_IDENT, MON_STATUS, THM_LAST_TRIP, CORE_STALL 0 0]

/-- What a write of bits [lo, hi) with data d makes of a field of value v (R12, R14). -/
def fieldAfter (f : FieldDef) (lo hi d v : Nat) : Nat :=
  let n := d / 2 ^ (f.fld.lo - lo) % 2 ^ f.fld.width
  if lo ≤ f.fld.lo ∧ f.fld.lo + f.fld.width ≤ hi then
    match f.acc with
    | .rw => n
    | .w1c => v &&& (2 ^ f.fld.width - 1 - n)
    | _ => v
  else v

/-! ### What an update leaves alone -/

/-- Nothing but the cores has changed, and of them only logical core `l`. -/
def OnlyCore (s t : State) (l : Nat) : Prop :=
  t = { s with cores := t.cores } ∧ ∀ m, m ≠ l → coreOf t m = coreOf s m

/-- Nothing but one stream of one core has changed. -/
def OnlyStream (s t : State) (l : Nat) (u : StreamId) : Prop :=
  OnlyCore s t l ∧ coreOf t l = (coreOf s l).setStr u (strOf t l u)

/-- Nothing but one stream of one core, and the issue order of the core's units, has changed. -/
def OnlyIssue (s t : State) (l : Nat) (u : StreamId) : Prop :=
  OnlyCore s t l ∧ coreOf t l = { (coreOf s l).setStr u (strOf t l u) with orders := (coreOf t l).orders }

/-- Nothing but configuration registers has changed, and of them only those whose offsets are listed. -/
def OnlyRegs (s t : State) (offs : List Nat) : Prop :=
  t = { s with cfg := t.cfg } ∧ ∀ o, o ∉ offs → rd t o = rd s o

/-- Every register but those listed reads as before. -/
def RegsKept (s t : State) (offs : List Nat) : Prop := ∀ o, o ∉ offs → rd t o = rd s o

/-- Every byte of memory outside the `n` bytes from `a` up reads as before. -/
def MemKeptOutside (s t : State) (a n : Nat) : Prop := ∀ b, (b < a ∨ a + n ≤ b) → memByte t.mem b = memByte s.mem b

/-- Nothing but the registers and the cores has changed. -/
def OnlyCoresAndRegs (s t : State) : Prop := t = { s with cfg := t.cfg, cores := t.cores }

/-- Nothing but the registers, the outputs and the function's held vectors has changed: what raising an interrupt may do
besides. -/
def OnlySignals (s t : State) : Prop := t = { s with cfg := t.cfg, pcie := t.pcie, out := t.out }

/-! ### Booting, resets and sensors -/

/-- A boot attempt, number n, is under way at its first step: step 1, or step 2 where the straps have been sampled (R489, R491). -/
def attemptBegins (s t : State) (n : Nat) : Prop :=
  t.boot.step = (if s.boot.sampled then 2 else 1) ∧ t.boot.waits = false ∧ t.boot.began = some (wallNow t)
    ∧ rdf t PWR_BOOT PWR_BOOT_attempt = n % 2 ^ 32 ∧ rdf t PWR_BOOT PWR_BOOT_state = 0 ∧ rdf t PWR_BOOT PWR_BOOT_wait_s = 0

/-- The sequencer waits before attempt n: no wait before the first, 1 s before the second, twice as long before each further one,
at most 60 s (R491). -/
def attemptWaits (t : State) (n : Nat) : Prop :=
  t.boot.step = 0 ∧ rdf t PWR_BOOT PWR_BOOT_state = 1
    ∧ rdf t PWR_BOOT PWR_BOOT_wait_s = (if n < 2 then 0 else min (2 ^ (n - 2)) 60)

/-- A boot attempt has failed at step k with a cause (R489, R492): it is recorded, every switched rail is off, the sequencer waits,
and the failure goes out on the monitor. -/
def attemptFails (s t : State) (k cause : Nat) : Prop :=
  attemptWaits t (rdf s PWR_BOOT PWR_BOOT_attempt + 1) ∧ rdf t PWR_BOOT PWR_BOOT_attempt = rdf s PWR_BOOT PWR_BOOT_attempt
    ∧ rdf t PWR_BOOT PWR_BOOT_last_step = k % 16 ∧ rdf t PWR_BOOT PWR_BOOT_cause = cause % 16
    ∧ t.cores = [] ∧ t.engines = [] ∧ t.pow = {} ∧ t.mem.cells = []
    ∧ t.out = s.out ++ [.uart (.bootFail (rdf s PWR_BOOT PWR_BOOT_attempt) k cause (rdf t PWR_BOOT PWR_BOOT_wait_s))]

/-- A device reset (Table 15-5): every register is at its reset value but those that a device reset keeps and, with VR_ALERT_N still low,
those that show the lowest state (R499), the cores, Verge, the
movement requests, the Kerb engines, the fabric, the host function and the power controller are as at power-up, memory is lost, the
repair record stays. -/
def deviceCleared (s t : State) : Prop :=
  (∀ o, keptReg o = false → (s.boot.vrLow = true → o ≠ PWR_STATUS ∧ ∀ c, c < 144 → o ≠ PWR_CL_STATUS c) → rd t o = resetWord o)
    ∧ t.cores = [] ∧ t.slices = [] ∧ t.halves = [] ∧ t.reqs = [] ∧ t.engines = []
    ∧ t.fab = {} ∧ t.host = {} ∧ t.pow = {} ∧ t.mem.cells = [] ∧ t.mem.lostPcs = s.mem.lostPcs
    ∧ t.rep.retired = s.rep.retired ∧ t.rep.tsvFailed = s.rep.tsvFailed ∧ t.sec.running = false

/-- A Roadbed partial reset has begun, with its cause (R505, R510): counted, and the cores and memory go on as they are. -/
def roadbedBegins (s t : State) (cause : Nat) : Prop :=
  t.boot.rb = 1 ∧ rdf t PWR_RESET_STATUS PWR_RESET_STATUS_last_cause = cause
    ∧ rdf t PWR_RESET_STATUS PWR_RESET_STATUS_roadbed_resets = (rdf s PWR_RESET_STATUS PWR_RESET_STATUS_roadbed_resets + 1) % 2 ^ 16
    ∧ RegsKept s t [PWR_RESET_STATUS] ∧ t.cores = s.cores ∧ t.mem = s.mem

/-- The firmware of a slot runs (Table 17-4); where it is the fallback, the verdict on the other is told (R530). -/
def slotBooted (t : State) (b : BootIn) (slot : Nat) (fallback : Bool) : Prop :=
  t.sec.active = slot ∧ t.sec.running = true ∧ rdb t SEC_STATUS SEC_STATUS_fallback = fallback
    ∧ rdf t SEC_STATUS SEC_STATUS_booted_slot = slot % 2
    ∧ rdf t SEC_STATUS SEC_STATUS_running_svn = (if slot = 0 then b.svnA else b.svnB) % 2 ^ 32
    ∧ (fallback = true → rdf t SEC_STATUS SEC_STATUS_reason = (verdictOf b (1 - slot)).getD 0 % 2 ^ SEC_STATUS_reason.width)

/-! ### Attestation and the monitor -/

/-- The mailbox holds a response, its code and its values; nothing else has changed. -/
def doeHolds (s t : State) (code : Nat) (vs : List Nat) : Prop := t = { s with sec := { s.sec with doe := some (.response code vs) } }

/-- An SPDM request of a version, other than GET_VERSION. -/
def spdmRequest (v : Nat) (i : Instr) : Prop :=
  i = .getCapabilities v ∨ (∃ a b c, i = .negotiateAlgorithms v a b c) ∨ i = .getDigests v ∨ (∃ k o n, i = .getCertificate v k o n)
    ∨ (∃ k x, i = .challenge v k x) ∨ (∃ k g x, i = .getMeasurements v k g x) ∨ ∃ c, i = .spdmUnsupportedRequest v c

/-- The register commands, and those of the mailbox and of the links, that reach an existing instance: with the rails down nothing
receives them (R3). -/
def needsPower : Instr → Bool
  | .atnEnable _ | .atnRingEnable _ | .atnStatClear | .auditClear | .busMasterDisable | .busMasterEnable | .cchStatClear => true
  | .challenge _ _ _ | .getCapabilities _ | .getCertificate _ _ _ _ | .getDigests _ | .getMeasurements _ _ _ _ | .getVersion _ => true
  | .negotiateAlgorithms _ _ _ _ | .spdmUnsupportedRequest _ _ | .doeAbort | .doeDiscovery _ => true
  | .clusterPllRelock c | .clusterPllUnlock c | .windowWaysWrite c _ => decide (c < 144)
  | .collectiveQueueEnable _ | .commitSvn | .coreRetire _ _ | .cwyStatClear | .debugUnlock _ | .fabricStart | .fwInstall => true
  | .coreIssueWrite l _ _ | .coreStallClear l | .dbgDataWrite l _ | .mxuStatClear l | .roCacheFill l _ _ _ | .roInvalidate l
  | .streamHaltRequest l _ | .streamStartRequest l _ | .vecFlagsClear l _ _ | .vecStatClear l => decide (l < numCores)
  | .epochCommitWrite _ | .epochRequest _ _ | .hstStatClear | .keepEnter | .keepReclaim _ | .keepRelease | .krbStatClear => true
  | .icuClaim m | .icuEoi m _ => decide (m < 4)
  | .icuCountClear n | .icuSrcWrite n _ => decide (n < 1024)
  | .icuSwi _ | .logEnable | .logTailWrite _ | .monStatClear | .phaseEnable | .pwrStatClear | .repLogEnable | .repStatClear => true
  | .portDisable p | .portEnable p | .portRetrain p => decide (p < 36)
  | .repairDone _ => true
  | .resourceClaim _ _ | .resourceRelease _ _ | .stepCtrlLoad | .stepPause | .stepRun | .stepStop | .telExpEnable => true
  | .thmStatClear | .unsupportedRequest _ | .vrgStatClear | .watchdogKick => true
  | _ => false

/-- A line of the monitor, of n characters (Table 17-9). -/
def monitorLine (n : LineLen) (i : Instr) : Prop :=
  i = .monId n ∨ (∃ a, i = .monRd n a) ∨ (∃ a v, i = .monWr n a v) ∨ i = .monSt n ∨ i = .monTemp n ∨ i = .monToken n
    ∨ (∃ r, i = .monBaud n r) ∨ (∃ l m, i = .monHalt n l m) ∨ i = .monResetRoadbed n ∨ i = .monResetDevice n
    ∨ i = .monitorUnknownCommand n

/-- The monitor has answered with a line, and counted the command (R544, R552). -/
def monSays (s t : State) (l : MonLine) : Prop :=
  t.out = s.out ++ [.uart l] ∧ rdf t MON_STATUS MON_STATUS_commands = (rdf s MON_STATUS MON_STATUS_commands + 1) % 2 ^ 16
    ∧ RegsKept s t [MON_STATUS] ∧ t.mem = s.mem

/-- The monitor has answered an error, and counted it; nothing else has changed (R544, R552). -/
def monFails (s t : State) (n : Nat) : Prop :=
  t = { s with cfg := t.cfg, out := s.out ++ [.uart (.err n)] } ∧ RegsKept s t [MON_STATUS]
    ∧ rdf t MON_STATUS MON_STATUS_errors = (rdf s MON_STATUS MON_STATUS_errors + 1) % 2 ^ 16

end Sys2Proof.Machine
end

