-- ==== Sys2Proof/WellFormed.lean ====
section
/-! DEFINITION. Which commands name instances that the part has: cores, ports, channels, engines and slices by their ranges. -/

namespace Sys2Proof

/-- A logical core of the part (R10). -/
def inCore (l : Nat) : Bool := decide (l < 18432)
/-- A causeway port (R385). -/
def inPort (p : Nat) : Bool := decide (p < 36)
/-- A channel index (R421). -/
def inIndex (i : Nat) : Bool := decide (i < 4096)
/-- A Kerb engine (R301), or 36, under which the commands sent to other devices stand. -/
def inEngine (k : Nat) : Bool := decide (k ≤ 36)

/-- Whether a command names only instances that the part has. DESIGN CHOICE: notes/assumptions/94. -/
def Instr.wf : Instr → Bool
  | .registerWrite _ _ _ _ => true
  | .milestone _ => true
  | .lateSample => true
  | .serviceSlot _ => true
  | .lateSignal port _ => inPort port
  | .clearSignal port _ => inPort port
  | .releaseFrame port _ _ => inPort port
  | .stretchLimit => true
  | .msTickEdge _ => true
  | .tickMissed => true
  | .scheduleAnnounce port _ => inPort port
  | .mstTickModeWrite _ => true
  | .mstEnable => true
  | .timingRequest _ _ => true
  | .rootLost _ => true
  | .timeSyncTimer => true
  | .timeSyncFrame port _ _ _ _ => inPort port
  | .streamStartRequest core _ => inCore core
  | .streamHaltRequest core _ => inCore core
  | .roInvalidate core => inCore core
  | .coreIssueWrite core _ _ => inCore core
  | .streamHalted core _ => inCore core
  | .dbgDataWrite core _ => inCore core
  | .roCacheFill core _ _ _ => inCore core
  | .nop x => inCore x.core
  | .br x => inCore x.core
  | .jal x => inCore x.core
  | .branchCompare _ x => inCore x.core
  | .jr x => inCore x.core
  | .jalr x => inCore x.core
  | .loop x => inCore x.core
  | .halt x => inCore x.core
  | .brk x => inCore x.core
  | .issue x => inCore x.core
  | .scalarAlu _ x => inCore x.core
  | .scalarAluImm _ x => inCore x.core
  | .scalarMulDiv _ x => inCore x.core
  | .cmp _ x => inCore x.core
  | .cmpi _ x => inCore x.core
  | .li x => inCore x.core
  | .lih x => inCore x.core
  | .scalarFp _ x => inCore x.core
  | .fma x => inCore x.core
  | .fcmp _ x => inCore x.core
  | .ld _ x _ => inCore x.core
  | .st _ x _ => inCore x.core
  | .atom _ x _ => inCore x.core
  | .movd x => inCore x.core
  | .movr _ x => inCore x.core
  | .movementRequestIssue core _ _ _ => inCore core
  | .movementRequestDone core _ _ => inCore core
  | .waitMs x => inCore x.core
  | .ctrInc x => inCore x.core
  | .ctrWait x => inCore x.core
  | .ctrWaitR x => inCore x.core
  | .layerBegin x => inCore x.core
  | .layerEnd x => inCore x.core
  | .rdms _ x => inCore x.core
  | .pfCch x _ => inCore x.core
  | .pfVrg x _ => inCore x.core
  | .flush x => inCore x.core
  | .flushInv x => inCore x.core
  | .invCch x => inCore x.core
  | .dead x => inCore x.core
  | .pin x => inCore x.core
  | .unpin x => inCore x.core
  | .roinv x => inCore x.core
  | .maintenanceComplete core _ => inCore core
  | .mma x _ => inCore x.core
  | .mmaComplete core _ => inCore core
  | .accZero x => inCore x.core
  | .accLdF32 x => inCore x.core
  | .accLdF32s x => inCore x.core
  | .drainF32 x => inCore x.core
  | .drainF32s x => inCore x.core
  | .drainBf16 x => inCore x.core
  | .drainBf16Sr x => inCore x.core
  | .rdacc x => inCore x.core
  | .mxuStatClear core => inCore core
  | .cvt x => inCore x.core
  | .cvtSr x => inCore x.core
  | .cvtSat x => inCore x.core
  | .cvtSrSat x => inCore x.core
  | .scale x => inCore x.core
  | .rndK x => inCore x.core
  | .rndF x => inCore x.core
  | .provisionalWaitTimeout _ => true
  | .logEnable => true
  | .logTailWrite _ => true
  | .auditClear => true
  | .vectorArith _ x _ => inCore x.core
  | .vfma _ x => inCore x.core
  | .vectorUnary _ x => inCore x.core
  | .activation _ x => inCore x.core
  | .activationBackward _ x => inCore x.core
  | .rowReduction _ x => inCore x.core
  | .scan _ x => inCore x.core
  | .smaxF x => inCore x.core
  | .smaxB x => inCore x.core
  | .lnF _ x => inCore x.core
  | .lnB _ x => inCore x.core
  | .lnBsum _ x => inCore x.core
  | .vdrop x => inCore x.core
  | .rdvf x => inCore x.core
  | .vecStatClear core => inCore core
  | .vecFlagsClear core _ _ => inCore core
  | .cchFill _ _ => true
  | .vergeRequest _ _ => true
  | .vergeFill _ _ _ _ => true
  | .windowWaysWrite slice _ => decide (slice < 144)
  | .windowChangeDone slice => decide (slice < 144)
  | .cchStatClear => true
  | .vrgStatClear => true
  | .coreStallClear core => inCore core
  | .kcmd x => inCore x.core
  | .shardOpen engine _ => inEngine engine
  | .shardClose engine _ => inEngine engine
  | .lease engine _ => inEngine engine
  | .kerbRelease engine _ => inEngine engine
  | .gradClose engine _ => inEngine engine
  | .update engine _ => inEngine engine
  | .regen engine _ => inEngine engine
  | .kerbUnpark engine _ => inEngine engine
  | .kerbCommandComplete engine _ => inEngine engine
  | .keeperPush stack => decide (stack < 36)
  | .contributionBlock _ => true
  | .krbStatClear => true
  | .stepCtrlLoad => true
  | .stepRun => true
  | .stepPause => true
  | .stepStop => true
  | .phaseEnable => true
  | .epochRequest _ _ => true
  | .epochDrained => true
  | .epochCommitWrite _ => true
  | .atnRegister _ => true
  | .atnUnregister _ => true
  | .atnRead _ => true
  | .atnWrite _ => true
  | .atnRelease _ => true
  | .atnCommit _ => true
  | .atnResync _ => true
  | .atnPrefetch _ => true
  | .atnSpill _ => true
  | .atnRingPoll _ => true
  | .atnUnpark _ => true
  | .pageTransferDone _ _ _ => true
  | .atnEnable _ => true
  | .atnRingEnable _ => true
  | .atnStatClear => true
  | .codeword port _ _ _ _ _ => inPort port
  | .readFrame port _ => inPort port
  | .writeFrame port _ _ => inPort port
  | .kerbFrame port _ _ => inPort port
  | .responseFrame port _ _ => inPort port
  | .collectiveFrame port _ _ _ _ => inPort port
  | .collectiveAck port _ _ => inPort port
  | .creditFrame port _ _ _ => inPort port
  | .bringupFrame port _ => inPort port
  | .resendMarker port _ _ => inPort port
  | .nakFrame port _ _ => inPort port
  | .requestTimeout _ => true
  | .portEnable port => inPort port
  | .portDisable port => inPort port
  | .portRetrain port => inPort port
  | .partnerDetected port _ => inPort port
  | .detectTimeout port => inPort port
  | .trainDone port _ => inPort port
  | .alignLock port => inPort port
  | .alignTimeout port => inPort port
  | .exchange port _ _ _ => inPort port
  | .retrainDone port _ _ => inPort port
  | .retrainTimeout port => inPort port
  | .fabricStart => true
  | .bringupPortsSettled => true
  | .originSettled => true
  | .bringupComplete _ _ _ => true
  | .collectiveRecord _ => true
  | .collectiveStepStart _ => true
  | .collectiveTimeout _ => true
  | .cwyStatClear => true
  | .hostReset _ => true
  | .dataLinkDown => true
  | .dataLinkUp _ _ _ => true
  | .linkRetrainExpiry => true
  | .busMasterDisable => true
  | .busMasterEnable => true
  | .bar2Write _ _ _ => true
  | .bar2Read _ _ => true
  | .commandDoorbell index _ => inIndex index
  | .completionDoorbell index _ => inIndex index
  | .create => true
  | .destroy => true
  | .channelFreed index => inIndex index
  | .resume => true
  | .adopt => true
  | .confirm => true
  | .entryFetch index _ => inIndex index
  | .entryReread index _ => inIndex index
  | .cmdNop index _ => inIndex index
  | .copy index _ _ => inIndex index
  | .writeInline index _ => inIndex index
  | .start index _ => inIndex index
  | .cmdHalt index _ => inIndex index
  | .cmdKerb index _ => inIndex index
  | .regionReg index _ => inIndex index
  | .regionDereg index _ => inIndex index
  | .placeReg index _ => inIndex index
  | .placeDereg index _ => inIndex index
  | .stepLoad index _ => inIndex index
  | .fillerUnit index _ => inIndex index
  | .entryComplete index _ _ => inIndex index
  | .holdExpiry => true
  | .keepEnter => true
  | .keepRelease => true
  | .keepReclaim _ => true
  | .hstStatClear => true
  | .waybillReread _ _ => true
  | .repairDone _ => true
  | .replicaRefetch _ _ => true
  | .coreRetire _ _ => true
  | .repLogEnable => true
  | .repStatClear => true
  | .powerLoss => true
  | .powerGood _ => true
  | .bootStepDone _ => true
  | .bootStepTimeout _ => true
  | .bootBackoffExpiry => true
  | .pwrResetDevice _ => true
  | .pwrResetRoadbed _ => true
  | .culvertHold _ => true
  | .culvertRelease => true
  | .roadbedAuthDone _ => true
  | .sysReset => true
  | .sysResetRelease => true
  | .watchdogKick => true
  | .watchdogExpiry => true
  | .vrAlertAssert => true
  | .vrAlertRelease => true
  | .lowestStateEnd => true
  | .railRiseDone cluster => decide (cluster < 144)
  | .clusterPllUnlock cluster => decide (cluster < 144)
  | .clusterPllRelock cluster => decide (cluster < 144)
  | .roadbedPllUnlock => true
  | .pwrStatClear => true
  | .thermalSample _ _ => true
  | .throttleEnd => true
  | .bandPendingTimeout => true
  | .restartCountExpiry => true
  | .thmStatClear => true
  | .fwInstall => true
  | .fwInstallDone _ => true
  | .commitSvn => true
  | .debugUnlock _ => true
  | .getVersion _ => true
  | .getCapabilities _ => true
  | .negotiateAlgorithms _ _ _ _ => true
  | .getDigests _ => true
  | .getCertificate _ _ _ _ => true
  | .challenge _ _ _ => true
  | .getMeasurements _ _ _ _ => true
  | .doeAbort => true
  | .icuClaim core => decide (core < 4)
  | .icuEoi core _ => decide (core < 4)
  | .icuSwi _ => true
  | .icuSrcWrite n _ => decide (n < 1024)
  | .icuCountClear n => decide (n < 1024)
  | .resourceClaim _ _ => true
  | .resourceRelease _ _ => true
  | .monId _ => true
  | .monRd _ _ => true
  | .monWr _ _ _ => true
  | .monSt _ => true
  | .monTemp _ => true
  | .monToken _ => true
  | .monBaud _ _ => true
  | .monHalt _ _ _ => true
  | .monResetRoadbed _ => true
  | .monResetDevice _ => true
  | .monStatClear => true
  | .telExpEnable => true
  | .smbusIdentRead => true
  | .smbusBootRead => true
  | .smbusThermalRead => true
  | .smbusPowerRead => true
  | .vectorInstructionComplete core _ => inCore core
  | .drainComplete core _ => inCore core
  | .illegalInstruction core _ _ => inCore core
  | .keepReleaseComplete => true
  | .collectiveQueueEnable _ => true
  | .configurationWrite _ _ => true
  | .unsupportedRequest _ => true
  | .msixHoldoffExpiry _ => true
  | .doeDiscovery _ => true
  | .spdmUnsupportedRequest _ _ => true
  | .monitorUnknownCommand _ => true
  | .codewordLockLoss port => inPort port
  | .perstRelease => true
  | .boundaryScanClock _ _ => true

end Sys2Proof
end

