-- ==== Sys2Proof/Certificates/Slice0/Obligations.lean ====
section
/-! DEFINITION. The statements about the device, family by family in the order of the command table. -/

open Sys2Proof Sys2Proof.Machine

/-! ### The queue -/

/-- A step takes the command at the front of the queue and runs it on the state with the queue's rest (the block's form). -/
def Obligations.StepRunsTheFrontCommand : Prop :=
  ∀ (c : Instr) (r : List Instr) (s : State), step { s with pending := c :: r } = exec c { s with pending := r }

/-- On an empty queue the timebase of a powered device advances by one nanosecond and nothing else changes: the model's choice
(notes/assumptions/3), not the spec's. -/
def Obligations.EmptyQueueAdvancesTime : Prop :=
  ∀ s : State, s.pending = [] → ∃ t, step s = .next t ∧ OnlyRegs s t [MST_TIME]
    ∧ (rd t MST_TIME).toNat = ((rd s MST_TIME).toNat + (if s.pow.on then 1 else 0)) % 2 ^ 64

/-- A command answers a next state in every state when it names an instance that the part has, and the fault of a missing
instance when it does not. -/
def Obligations.CommandsAnswer : Prop :=
  ∀ (c : Instr) (s : State),
    (c.wf = true → ∃ t, exec c s = .next t) ∧ (c.wf = false → exec c s = .fault .noSuchInstance)

/-! ### Scalar instructions (R125 to R128, R134 to R137) -/

/-- The integer operations and the immediate loads leave a stream with their result in rd and the pc at the next instruction, and change nothing else. -/
def Obligations.IntegerResults : Prop :=
  (∀ (fn : BitVec 4) (x : Insn) (s : State), issues s x none = true → fn.toNat < 12 → bitsN x.b 29 0 = 0 → x.r0 < 48 →
    x.r1 < 56 → x.r2 < 56 → ∃ t v, exec (.scalarAlu fn x) s = .next t
      ∧ aluRule fn.toNat ((strm s x).reg x.r1) ((strm s x).reg x.r2) v
      ∧ strm t x = { (strm s x).setReg x.r0 v with pc := pcAfter (strm s x).pc } ∧ OnlyStream s t x.core x.stream)
  ∧ (∀ (fn : BitVec 4) (x : Insn) (s : State), issues s x none = true → fn.toNat < 12 → x.r0 < 48 → x.r1 < 56 →
    ∃ t v, exec (.scalarAluImm fn x) s = .next t
      ∧ aluRule fn.toNat ((strm s x).reg x.r1) (BitVec.ofInt 64 x.imm) v
      ∧ strm t x = { (strm s x).setReg x.r0 v with pc := pcAfter (strm s x).pc } ∧ OnlyStream s t x.core x.stream)
  ∧ (∀ (fn : BitVec 4) (x : Insn) (s : State), issues s x none = true → fn.toNat < 7 → bitsN x.b 29 0 = 0 → x.r0 < 48 →
    x.r1 < 56 → x.r2 < 56 → ∃ t v, exec (.scalarMulDiv fn x) s = .next t
      ∧ mulDivRule fn.toNat ((strm s x).reg x.r1) ((strm s x).reg x.r2) v
      ∧ strm t x = { (strm s x).setReg x.r0 v with pc := pcAfter (strm s x).pc } ∧ OnlyStream s t x.core x.stream)
  ∧ (∀ (x : Insn) (s : State), issues s x none = true → x.r1 = 0 → x.r0 < 48 → ∃ t, exec (.li x) s = .next t
      ∧ strm t x = { (strm s x).setReg x.r0 (BitVec.ofInt 64 x.imm) with pc := pcAfter (strm s x).pc }
      ∧ OnlyStream s t x.core x.stream)
  ∧ (∀ (x : Insn) (s : State), issues s x none = true → x.r1 = 0 → x.r0 < 48 → ∃ t v, exec (.lih x) s = .next t
      ∧ v.toNat / 2 ^ 36 = bitsN x.b 27 0 ∧ v.toNat % 2 ^ 36 = ((strm s x).reg x.r0).toNat % 2 ^ 36
      ∧ strm t x = { (strm s x).setReg x.r0 v with pc := pcAfter (strm s x).pc } ∧ OnlyStream s t x.core x.stream)

/-- A comparison sets its predicate exactly when it holds; FCMP.UN holds when an operand is a NaN, and no other FCMP does then; a
destination that the instruction may not name faults.
The FP32 operations round once, to nearest with ties to even; every NaN result is 0x7FC0_0000 and bits [63:32] of every
result but FCVT.S64.F32's are 0; FCVT.S64.F32 saturates and gives 0 for a NaN. -/
def Obligations.ComparisonsAndFloatResults : Prop :=
  (∀ (fn : BitVec 4) (x : Insn) (s : State), issues s x none = true → fn.toNat < 6 → bitsN x.b 29 0 = 0 → isP x.r0 = true →
    x.r1 < 56 → x.r2 < 56 → ∃ t v, exec (.cmp fn x) s = .next t
      ∧ (v = 1 ↔ cmpRule fn.toNat ((strm s x).reg x.r1) ((strm s x).reg x.r2)) ∧ (v = 0 ∨ v = 1)
      ∧ strm t x = { (strm s x).setReg x.r0 v with pc := pcAfter (strm s x).pc } ∧ OnlyStream s t x.core x.stream)
  ∧ (∀ (fn : BitVec 4) (x : Insn) (s : State), issues s x none = true → fn.toNat < 6 → isP x.r0 = true → x.r1 < 56 →
    ∃ t v, exec (.cmpi fn x) s = .next t
      ∧ (v = 1 ↔ cmpRule fn.toNat ((strm s x).reg x.r1) (BitVec.ofInt 64 x.imm)) ∧ (v = 0 ∨ v = 1)
      ∧ strm t x = { (strm s x).setReg x.r0 v with pc := pcAfter (strm s x).pc } ∧ OnlyStream s t x.core x.stream)
  ∧ (∀ (fn : BitVec 4) (x : Insn) (s : State), issues s x none = true → fn.toNat < 4 → bitsN x.b 29 0 = 0 → isP x.r0 = true →
    x.r1 < 56 → x.r2 < 56 → ∃ t v, exec (.fcmp fn x) s = .next t ∧ (v = 0 ∨ v = 1)
      ∧ (v = 1 ↔ fcmpRule fn.toNat (regF32 ((strm s x).reg x.r1)) (regF32 ((strm s x).reg x.r2)))
      ∧ strm t x = { (strm s x).setReg x.r0 v with pc := pcAfter (strm s x).pc } ∧ OnlyStream s t x.core x.stream)
  ∧ (∀ (fn : BitVec 4) (x : Insn) (s : State), issues s x none = true → fn.toNat < 10 → bitsN x.b 29 0 = 0 →
    (6 ≤ fn.toNat → x.r2 = 0) → x.r0 < 48 → x.r1 < 56 → x.r2 < 56 → ∃ t v, exec (.scalarFp fn x) s = .next t
      ∧ floatRule fn.toNat ((strm s x).reg x.r1) ((strm s x).reg x.r2) v
      ∧ strm t x = { (strm s x).setReg x.r0 v with pc := pcAfter (strm s x).pc } ∧ OnlyStream s t x.core x.stream)
  ∧ (∀ (x : Insn) (s : State), issues s x none = true → bitsN x.b 23 0 = 0 → x.r0 < 48 → x.r1 < 56 → x.r2 < 56 →
    x.r3 < 56 → ∃ t v, exec (.fma x) s = .next t ∧ v.toNat < 2 ^ 32
      ∧ v = f32Word (fadd (fmul (regF32 ((strm s x).reg x.r1)) (regF32 ((strm s x).reg x.r2)))
          (regF32 ((strm s x).reg x.r3)))
      ∧ strm t x = { (strm s x).setReg x.r0 v with pc := pcAfter (strm s x).pc } ∧ OnlyStream s t x.core x.stream)
  ∧ (∀ (fn : BitVec 4) (x : Insn) (s : State), issues s x none = true →
      let refuses (i : Instr) : Prop := ∃ t, exec i s = .next t ∧ strm t x = (strm s x).halting .fault 0x02 ∧ t.mem = s.mem
      (isP x.r0 = false → (fn.toNat < 6 → bitsN x.b 29 0 = 0 → refuses (.cmp fn x)) ∧ (fn.toNat < 6 → refuses (.cmpi fn x))
        ∧ (fn.toNat < 4 → bitsN x.b 29 0 = 0 → refuses (.fcmp fn x)))
      ∧ (48 ≤ x.r0 → (fn.toNat < 12 → bitsN x.b 29 0 = 0 → refuses (.scalarAlu fn x)) ∧ (fn.toNat < 12 → refuses (.scalarAluImm fn x))
        ∧ (fn.toNat < 7 → bitsN x.b 29 0 = 0 → refuses (.scalarMulDiv fn x)) ∧ (bitsN x.b 23 0 = 0 → refuses (.fma x))
        ∧ (x.r1 = 0 → refuses (.li x) ∧ refuses (.lih x))
        ∧ (fn.toNat < 10 → bitsN x.b 29 0 = 0 → (6 ≤ fn.toNat → x.r2 = 0) → refuses (.scalarFp fn x))))

/-! ### Control instructions (R131 to R133) -/

/-- Branches and jumps: where the pc goes, what link register is written, and that nothing else changes. -/
def Obligations.ControlTransfers : Prop :=
  (∀ (x : Insn) (s : State), issues s x none = true → x.b = 0 → ∃ t, exec (.nop x) s = .next t
      ∧ strm t x = { strm s x with pc := pcAfter (strm s x).pc } ∧ OnlyStream s t x.core x.stream)
  ∧ (∀ (x : Insn) (s : State), issues s x none = true → x.r0 = 0 → x.r1 = 0 → ∃ t pc, exec (.br x) s = .next t
      ∧ branchesTo (strm s x).pc x pc
      ∧ strm t x = { strm s x with pc := pc } ∧ OnlyStream s t x.core x.stream)
  ∧ (∀ (x : Insn) (s : State), issues s x none = true → x.r1 = 0 → x.r0 < 48 → ∃ t pc, exec (.jal x) s = .next t
      ∧ branchesTo (strm s x).pc x pc
      ∧ strm t x = { (strm s x).setReg x.r0 (BitVec.ofNat 64 (pcAfter (strm s x).pc)) with pc := pc }
      ∧ OnlyStream s t x.core x.stream)
  ∧ (∀ (fn : BitVec 4) (x : Insn) (s : State), issues s x none = true → fn.toNat < 6 → x.r0 < 56 → x.r1 < 56 →
    ∃ t pc, exec (.branchCompare fn x) s = .next t
      ∧ (cmpRule fn.toNat ((strm s x).reg x.r0) ((strm s x).reg x.r1) →
          branchesTo (strm s x).pc x pc)
      ∧ (¬ cmpRule fn.toNat ((strm s x).reg x.r0) ((strm s x).reg x.r1) → pc = pcAfter (strm s x).pc)
      ∧ strm t x = { strm s x with pc := pc } ∧ OnlyStream s t x.core x.stream)
  ∧ (∀ (x : Insn) (s : State), issues s x none = true → x.r0 = 0 → x.r2 = 0 → bitsN x.b 29 0 = 0 → x.r1 < 56 →
    ((strm s x).reg x.r1).toNat % 8 = 0 → ((strm s x).reg x.r1).toNat < 2 ^ 48 → ∃ t, exec (.jr x) s = .next t
      ∧ strm t x = { strm s x with pc := ((strm s x).reg x.r1).toNat } ∧ OnlyStream s t x.core x.stream)
  ∧ (∀ (x : Insn) (s : State), issues s x none = true → x.r2 = 0 → bitsN x.b 29 0 = 0 → x.r0 < 48 → x.r1 < 56 →
    ((strm s x).reg x.r1).toNat % 8 = 0 → ((strm s x).reg x.r1).toNat < 2 ^ 48 → ∃ t, exec (.jalr x) s = .next t
      ∧ strm t x = { (strm s x).setReg x.r0 (BitVec.ofNat 64 (pcAfter (strm s x).pc)) with
          pc := ((strm s x).reg x.r1).toNat } ∧ OnlyStream s t x.core x.stream)
  ∧ (∀ (x : Insn) (s : State), issues s x none = true → x.r1 = 0 → x.r0 < 48 → ∃ t pc v, exec (.loop x) s = .next t
      ∧ (v.toNat + 1) % 2 ^ 64 = ((strm s x).reg x.r0).toNat
      ∧ (v ≠ 0 → branchesTo (strm s x).pc x pc)
      ∧ (v = 0 → pc = pcAfter (strm s x).pc)
      ∧ strm t x = { (strm s x).setReg x.r0 v with pc := pc } ∧ OnlyStream s t x.core x.stream)

/-- HALT stops its stream alone, past the HALT (but for siblings that nothing can wake then, R93); BRK and a word that no encoding defines fault at their own address and halt the
core; ISSUE writes the core's issue order and mode, orders 6 and 7 leaving the order as it is. -/
def Obligations.HaltBreakAndIssueOrder : Prop :=
  (∀ (x : Insn) (s : State), issues s x none = true → x.b = 0 → ∃ t, exec (.halt x) s = .next t
      ∧ strm t x = { (strm s x).halting .haltInsn 0 with pc := pcAfter (strm s x).pc }
      ∧ (∀ u, u ≠ x.stream → (strOf s x.core u).st ≠ .waiting ∨ (strOf s x.core u).wait = none → strOf t x.core u = strOf s x.core u)
      ∧ (∀ m, m ≠ x.core → coreOf t m = coreOf s m) ∧ t.mem = s.mem
      ∧ ((∃ v, v ≠ x.stream ∧ (strOf s x.core v).st = .running) →
          (∀ u, u ≠ x.stream → strOf t x.core u = strOf s x.core u) ∧ OnlyCore s t x.core))
  ∧ (∀ (x : Insn) (s : State), issues s x none = true → x.b = 0 → ∃ t, exec (.brk x) s = .next t
      ∧ strm t x = (strm s x).halting .fault 0x0B ∧ (strm t x).pc = (strm s x).pc
      ∧ (∀ u, u ≠ x.stream → strOf t x.core u = (strOf s x.core u).halting .sibling 0)
      ∧ (∀ m, m ≠ x.core → coreOf t m = coreOf s m) ∧ OnlySignals { s with cores := t.cores } t)
  ∧ (∀ (l : Nat) (u : StreamId) (w : Word) (s : State), 
      issues s { core := l, stream := u, rivals := [], pred := 0, pneg := false, body := 0 } none = true →
    ∃ t, exec (.illegalInstruction l u w) s = .next t
      ∧ strOf t l u = (strOf s l u).halting .fault 0x01 ∧ (strOf t l u).pc = (strOf s l u).pc
      ∧ (∀ v, v ≠ u → strOf t l v = (strOf s l v).halting .sibling 0)
      ∧ (∀ m, m ≠ l → coreOf t m = coreOf s m) ∧ OnlySignals { s with cores := t.cores } t)
  ∧ (∀ (x : Insn) (s : State), issues s x none = true → x.b / 64 = 0 → bitsN x.b 3 3 = 0 → ∃ t, exec (.issue x) s = .next t
      ∧ rdf t (CORE_ISSUE x.core) CORE_ISSUE_rotate = bitsN x.b 5 4
      ∧ (bitsN x.b 2 0 < 6 → rdf t (CORE_ISSUE x.core) CORE_ISSUE_order = bitsN x.b 2 0)
      ∧ (6 ≤ bitsN x.b 2 0 → rdf t (CORE_ISSUE x.core) CORE_ISSUE_order = rdf s (CORE_ISSUE x.core) CORE_ISSUE_order)
      ∧ strm t x = { strm s x with pc := pcAfter (strm s x).pc }
      ∧ (∀ o, o ≠ CORE_ISSUE x.core → rd t o = rd s o) ∧ t.mem = s.mem)

/-! ### What keeps an instruction from its effect (R125, R126, R128, R132, R162) -/

/-- An instruction of classes 0x0_ and 0x1_ that its stream's predicate suppresses, and that is well formed, moves the pc and
does nothing else.
A precise fault (R162) leaves the faulting stream at the instruction, halting with the fault's code, its live siblings
halting, and the memory as it was: a jump to a misaligned address (0x03) or beyond 48 bits (0x04), a register that an
instruction may not name (0x02), a bit set where the format marks zero (0x01). -/
def Obligations.SuppressedInstructionsAndPreciseFaults : Prop :=
  (∀ (fn : BitVec 4) (x : Insn) (s : State), x.core < numCores → (strm s x).st = .running → (coreOf s x.core).held = false →
      clockStopped s x.core = false → heldBySlot s x.core = false → fetchFails s x.core (strm s x).pc = false →
      roReadable s (strm s x).pc 8 = true → predHolds (strm s x) x = false →
      let skips (i : Instr) : Prop := ∃ t, exec i s = .next t ∧ strm t x = { strm s x with pc := pcAfter (strm s x).pc }
        ∧ OnlyStream s t x.core x.stream
      (x.b = 0 → skips (.nop x) ∧ skips (.halt x) ∧ skips (.brk x))
      ∧ (x.r1 = 0 → skips (.jal x) ∧ skips (.loop x) ∧ skips (.li x) ∧ skips (.lih x))
      ∧ (fn.toNat < 6 → skips (.branchCompare fn x) ∧ skips (.cmpi fn x))
      ∧ (fn.toNat < 12 → skips (.scalarAluImm fn x) ∧ (bitsN x.b 29 0 = 0 → skips (.scalarAlu fn x)))
      ∧ (bitsN x.b 23 0 = 0 → skips (.fma x)))
  ∧ (∀ (fn : BitVec 4) (x : Insn) (s : State), issues s x none = true →
      let faults (i : Instr) (code : Nat) : Prop := ∃ t, exec i s = .next t
        ∧ strm t x = (strm s x).halting .fault code
        ∧ (∀ u, u ≠ x.stream → strOf t x.core u = (strOf s x.core u).halting .sibling 0)
        ∧ (∀ m, m ≠ x.core → coreOf t m = coreOf s m) ∧ t.mem = s.mem
      (x.r0 = 0 → x.r2 = 0 → bitsN x.b 29 0 = 0 → x.r1 < 56 → ((strm s x).reg x.r1).toNat % 8 ≠ 0 → faults (.jr x) 0x03)
      ∧ (x.r0 = 0 → x.r2 = 0 → bitsN x.b 29 0 = 0 → x.r1 < 56 → ((strm s x).reg x.r1).toNat % 8 = 0 →
          2 ^ 48 ≤ ((strm s x).reg x.r1).toNat → faults (.jr x) 0x04)
      ∧ (fn.toNat < 12 → bitsN x.b 29 0 = 0 → (48 ≤ x.r0 ∨ 56 ≤ x.r1 ∨ 56 ≤ x.r2) → faults (.scalarAlu fn x) 0x02)
      ∧ (fn.toNat < 6 → bitsN x.b 29 0 = 0 → x.r0 < 48 → faults (.cmp fn x) 0x02)
      ∧ ((12 ≤ fn.toNat ∨ bitsN x.b 29 0 ≠ 0) → faults (.scalarAlu fn x) 0x01)
      ∧ (x.b ≠ 0 → faults (.nop x) 0x01 ∧ faults (.halt x) 0x01 ∧ faults (.brk x) 0x01))

/-! ### The scratchpad (R97, R138 to R141) -/

/-- Loads, stores and atomics of the scratchpad: LD leaves the bytes at ra + imm36, extended, in rd; ST writes the low bytes of
its register there and no others; ATOM writes its word and leaves the old one in rd. A corrected error is counted. Nothing else
of the memory, the registers, the other streams or the other cores changes.
A scratchpad access at 0x2_0000 or above raises the range fault 0x06, one that is not a multiple of its size the misaligned
fault 0x05; the offset is recorded in CORE_FAULT_ADDR and no byte is read or written. An uncorrectable word records its offset
and halts the core with fault 0x07. -/
def Obligations.ScratchpadAccess : Prop :=
  (∀ (fn : BitVec 4) (x : Insn) (ecc : Ecc) (s : State) (o : Nat), issues s x (some 0) = true → fn.toNat < 7 → x.r0 < 48 →
    x.r1 < 48 → atOffset ((strm s x).reg x.r1) x.imm o → o < 0x20000 → o % ldSize fn.toNat = 0 →
    goodWords s x.core o (ldSize fn.toNat) → ecc ≠ .uncorrectable →
    ∃ t v, exec (.ld fn x ecc) s = .next t ∧ loadRule fn.toNat (scrRead s x.core o (ldSize fn.toNat)) v
      ∧ strm t x = { (strm s x).setReg x.r0 v with pc := pcAfter (strm s x).pc }
      ∧ t.mem = s.mem ∧ OthersKept s t x.core x.stream ∧ RegsKept s t [CORE_ECC x.core] ∧ OnlyCoresAndRegs s t
      ∧ rdf t (CORE_ECC x.core) CORE_ECC_corrected
          = min (rdf s (CORE_ECC x.core) CORE_ECC_corrected + (eccCorrected ecc + scrSoft s x.core o (ldSize fn.toNat))) 0xFFFF)
  ∧ (∀ (fn : BitVec 4) (x : Insn) (ecc : Ecc) (s : State) (o : Nat), issues s x (some 0) = true → fn.toNat < 4 → x.r0 < 48 →
    x.r1 < 48 → atOffset ((strm s x).reg x.r1) x.imm o → o < 0x20000 → o % 2 ^ fn.toNat = 0 →
    (fn.toNat < 3 → goodWords s x.core o (2 ^ fn.toNat) ∧ ecc ≠ .uncorrectable) →
    ∃ t, exec (.st fn x ecc) s = .next t
      ∧ scrRead t x.core o (2 ^ fn.toNat) = bytesOf (2 ^ fn.toNat) ((strm s x).reg x.r0).toNat
      ∧ MemKeptOutside s t (scratchAddr x.core o) (2 ^ fn.toNat)
      ∧ strm t x = { strm s x with pc := pcAfter (strm s x).pc }
      ∧ OthersKept s t x.core x.stream ∧ RegsKept s t [CORE_ECC x.core])
  ∧ (∀ (fn : BitVec 4) (x : Insn) (ecc : Ecc) (s : State), issues s x (some 0) = true → fn.toNat < 3 → bitsN x.b 23 0 = 0 →
    (fn.toNat ≠ 2 → x.r3 = 0) → x.r0 < 48 → x.r1 < 48 → x.r2 < 48 → x.r3 < 48 →
    let o := ((strm s x).reg x.r1).toNat
    o < 0x20000 → o % 8 = 0 → goodWords s x.core o 8 → ecc ≠ .uncorrectable →
    ∃ t old, exec (.atom fn x ecc) s = .next t ∧ old.toNat = leNat (scrRead s x.core o 8)
      ∧ scrRead t x.core o 8
          = bytesOf 8 (atomRule fn.toNat old ((strm s x).reg x.r2) ((strm s x).reg x.r3)).toNat
      ∧ MemKeptOutside s t (scratchAddr x.core o) 8
      ∧ strm t x = { (strm s x).setReg x.r0 old with pc := pcAfter (strm s x).pc }
      ∧ OthersKept s t x.core x.stream ∧ RegsKept s t [CORE_ECC x.core])
  ∧ (∀ (fn : BitVec 4) (x : Insn) (ecc : Ecc) (s : State) (o : Nat), issues s x (some 0) = true → fn.toNat < 4 → x.r0 < 48 →
      x.r1 < 48 → atOffset ((strm s x).reg x.r1) x.imm o →
      let faults (i : Instr) (code : Nat) : Prop := ∃ t, exec i s = .next t
        ∧ strm t x = (strm s x).halting .fault code ∧ (strm t x).pc = (strm s x).pc
        ∧ (∀ u, u ≠ x.stream → strOf t x.core u = (strOf s x.core u).halting .sibling 0)
        ∧ (∀ m, m ≠ x.core → coreOf t m = coreOf s m) ∧ t.mem = s.mem
        ∧ (rd t (CORE_FAULT_ADDR x.core)).toNat = o
      (0x20000 ≤ o → faults (.ld fn x ecc) 0x06 ∧ faults (.st fn x ecc) 0x06)
      ∧ (o < 0x20000 → o % ldSize fn.toNat ≠ 0 → faults (.ld fn x ecc) 0x05)
      ∧ (o < 0x20000 → o % 2 ^ fn.toNat ≠ 0 → faults (.st fn x ecc) 0x05)
      ∧ (o < 0x20000 → o % ldSize fn.toNat = 0 → goodWords s x.core o (ldSize fn.toNat) →
          ∃ t, exec (.ld fn x .uncorrectable) s = .next t ∧ (strm t x).st = .halting ∧ (strm t x).cause = .fault
            ∧ (strm t x).code = 0x07 ∧ (strm t x).regs = (strm s x).regs
            ∧ (∀ u, u ≠ x.stream → strOf t x.core u = (strOf s x.core u).halting .sibling 0))
      ∧ (fn.toNat < 3 → bitsN x.b 23 0 = 0 → (fn.toNat ≠ 2 → x.r3 = 0) → x.r2 < 48 → x.r3 < 48 → ∀ a : Nat,
          ((strm s x).reg x.r1).toNat = a → ∀ k, (0x20000 ≤ a ∧ k = 0x06 ∨ a < 0x20000 ∧ a % 8 ≠ 0 ∧ k = 0x05) →
          ∃ t, exec (.atom fn x ecc) s = .next t ∧ strm t x = (strm s x).halting .fault k
            ∧ (∀ u, u ≠ x.stream → strOf t x.core u = (strOf s x.core u).halting .sibling 0) ∧ t.mem = s.mem
            ∧ (rd t (CORE_FAULT_ADDR x.core)).toNat = a))


/-! ### Counters, waits and sections (R90 to R93, R149 to R158) -/

/-- CTR.INC raises its counter, saturating at 0xFFFF with the saturation bit set where it would pass it, and wakes streams whose
wait is then satisfied; while writes of the stream's vector and drain operations are outstanding the increment waits for them.
CTR.WAIT and CTR.WAIT.R go on where the counter has reached the value and wait otherwise; WAIT.MS waits for the milestone. Streams
that wait on counters while no stream of their core runs and nothing outstanding can raise a counter halt with cause deadlock.
RDMS reads what its function names (Table 04-9). -/
def Obligations.CountersAndWaits : Prop :=
  (∀ (x : Insn) (s : State), issues s x none = true → x.r0 = 0 → x.ctrEn = false → bitsN x.b 37 16 = 0 →
    let n := bitsN x.b 15 0
    let old := smGet 0 (coreOf s x.core).ctrs x.e
    ((∀ o ∈ (coreOf s x.core).ops, o.stream = x.stream → o.kind = .mma) → ∃ t, exec (.ctrInc x) s = .next t
      ∧ strm t x = { strm s x with pc := pcAfter (strm s x).pc }
      ∧ (0 < n → smGet 0 (coreOf t x.core).ctrs x.e = min (old + n) 0xFFFF)
      ∧ (n = 0 → smGet 0 (coreOf t x.core).ctrs x.e = old)
      ∧ (0 < n → old + n > 0xFFFF → bit (rd t (CORE_STATUS x.core)) (56 + x.e) = true)
      ∧ (old + n ≤ 0xFFFF → rd t (CORE_STATUS x.core) = rd s (CORE_STATUS x.core))
      ∧ (∀ e, e ≠ x.e → smGet 0 (coreOf t x.core).ctrs e = smGet 0 (coreOf s x.core).ctrs e)
      ∧ (∀ v w, v ≠ x.stream → 0 < n → (strOf s x.core v).st = .waiting → (strOf s x.core v).wait = some (x.e, w) →
          strOf t x.core v = if w ≤ min (old + n) 0xFFFF then { strOf s x.core v with st := .running, wait := none }
            else strOf s x.core v))
    ∧ ((∃ o ∈ (coreOf s x.core).ops, o.stream = x.stream ∧ o.kind ≠ .mma) → 0 < n → ∃ t ids, exec (.ctrInc x) s = .next t
      ∧ strm t x = { strm s x with pc := pcAfter (strm s x).pc }
      ∧ (coreOf t x.core).ctrs = (coreOf s x.core).ctrs
      ∧ (coreOf t x.core).incs = (coreOf s x.core).incs ++ [(x.e, n, ids)]
      ∧ ∀ i, i ∈ ids ↔ ∃ o ∈ (coreOf s x.core).ops, o.id = i ∧ o.stream = x.stream ∧ o.kind ≠ .mma))
  ∧ (∀ (x : Insn) (s : State), issues s x none = true → x.ctrEn = false →
    let waits (i : Instr) (v : Nat) : Prop :=
      (v ≤ smGet 0 (coreOf s x.core).ctrs x.e → ∃ t, exec i s = .next t
        ∧ strm t x = { strm s x with pc := pcAfter (strm s x).pc } ∧ OnlyStream s t x.core x.stream)
      ∧ (smGet 0 (coreOf s x.core).ctrs x.e < v → ∃ u, exec i s = .next (deadlockCheck u x.core)
        ∧ strm u x = { strm s x with st := .waiting, wait := some (x.e, v), pc := pcAfter (strm s x).pc }
        ∧ OnlyStream s u x.core x.stream)
    (x.r0 = 0 → bitsN x.b 37 16 = 0 → waits (.ctrWait x) (bitsN x.b 15 0))
    ∧ (x.r0 < 48 → bitsN x.b 37 0 = 0 → waits (.ctrWaitR x) (((strm s x).reg x.r0).toNat % 65536))
    ∧ (48 ≤ x.r0 → bitsN x.b 37 0 = 0 → ∃ u, exec (.ctrWaitR x) s = .next (deadlockCheck u x.core)
        ∧ strm u x = (strm s x).halting .fault 0x02)
    ∧ (bitsN x.b 37 36 ≠ 0 → ∃ u, exec (.ctrWait x) s = .next (deadlockCheck u x.core)
        ∧ strm u x = (strm s x).halting .fault 0x01))
  ∧ (∀ (x : Insn) (s : State), issues s x none = true → x.b = 0 → x.pred = 0 → x.pneg = false → (strm s x).sect = none →
    (∀ o ∈ (coreOf s x.core).ops, o.stream ≠ x.stream ∧ x.stream ∉ o.also) → ∃ u, exec (.waitMs x) s = .next (lateSettle (deadlockCheck u x.core))
      ∧ strm u x = { strm s x with st := .waiting, wait := none, pc := pcAfter (strm s x).pc }
      ∧ OnlyStream s u x.core x.stream)
  ∧ (∀ (s : State) (l : Nat), (∀ u, (strOf s l u).st ≠ .running) →
    (∀ d ∈ (coreOf s l).descs, d.dead = true ∨ d.ctr = none) → (∀ m ∈ (coreOf s l).maints, m.ctr = none) →
    (∀ k ∈ (coreOf s l).kcmds, k.2.2 = none) → (coreOf s l).incs = [] →
    (∀ u, (strOf s l u).st = .waiting → (strOf s l u).wait.isSome = true →
      strOf (deadlockCheck s l) l u = (strOf s l u).halting .deadlock 0x21)
    ∧ (∀ u, ((strOf s l u).st ≠ .waiting ∨ (strOf s l u).wait = none) → strOf (deadlockCheck s l) l u = strOf s l u)
    ∧ (∀ m, m ≠ l → coreOf (deadlockCheck s l) m = coreOf s m) ∧ (deadlockCheck s l).mem = s.mem)
  ∧ (∀ (fn : BitVec 4) (x : Insn) (s : State), issues s x none = true → fn.toNat ≤ 6 → x.r1 = 0 → x.r2 = 0 →
    bitsN x.b 29 0 = 0 → x.r0 < 48 → ∃ t v, exec (.rdms fn x) s = .next t
      ∧ strm t x = { (strm s x).setReg x.r0 v with pc := pcAfter (strm s x).pc }
      ∧ OnlyStream { s with free := t.free } t x.core x.stream
      ∧ (fn.toNat = 0 → v.toNat = rdf s MST_STAGE MST_STAGE_stage) ∧ (fn.toNat = 1 → v = rd s MST_TIME)
      ∧ (fn.toNat = 2 → ∀ d, s.mst.due = some d → v = BitVec.ofNat 64 d)
      ∧ (fn.toNat = 3 → rdb s PWR_STATUS PWR_STATUS_lowest_state = true → doubled s x.core = false → v = 275)
      ∧ (fn.toNat = 4 → v.toNat = x.core) ∧ (fn.toNat = 5 → v.toNat = strNum x.stream)
      ∧ (fn.toNat = 6 → v.toNat = rdf s CWY_SELF_ID CWY_SELF_ID_device_id))

/-- LAYER.BEGIN opens a section with its identifier, its starting rung and a checkpoint of the stream. LAYER.END of a stream
whose work since then is complete closes the section where the overflow flag is clear, or set on rung 3; on rungs 0 to 2 with the flag set it restores the
checkpoint, raises the rung and the retry count by 1, clears the flag and goes on after the LAYER.BEGIN. LAYER.BEGIN in an open
section, and LAYER.END and WAIT.MS otherwise than the section allows, raise the section fault 0x08. -/
def Obligations.LayerSections : Prop :=
  (∀ (x : Insn) (s : State), issues s x none = true → x.b < 2 ^ 18 → x.pred = 0 → x.pneg = false → (strm s x).sect = none →
    ∃ t z, exec (.layerBegin x) s = .next t ∧ z.sid = bitsN x.b 15 0 ∧ z.rung = bitsN x.b 17 16 ∧ z.retries = 0 ∧ z.cause = 0
      ∧ z.since = s.nextId
      ∧ z.cpRegs = (strm s x).regs ∧ z.cpPreds = (strm s x).preds ∧ z.cpDraw = (strm s x).draw ∧ z.beginPc = (strm s x).pc
      ∧ strm t x = { strm s x with sect := some z, pc := pcAfter (strm s x).pc } ∧ OnlyStream s t x.core x.stream)
  ∧ (∀ (x : Insn) (s : State) (z : Section), issues s x none = true → x.b = 0 → x.pred = 0 → x.pneg = false →
    (strm s x).sect = some z → sectionBusy s x.core x.stream z = false →
    (z.cause = 0 ∨ 3 ≤ z.rung → ∃ t, exec (.layerEnd x) s = .next t ∧ (strm t x).sect = none
      ∧ (strm t x).regs = (strm s x).regs ∧ (strm t x).preds = (strm s x).preds ∧ (strm t x).draw = (strm s x).draw
      ∧ (strm t x).pc = pcAfter (strm s x).pc)
    ∧ (z.cause ≠ 0 → z.rung < 3 → ∃ t y, exec (.layerEnd x) s = .next t ∧ (strm t x).sect = some y
      ∧ y.rung = z.rung + 1 ∧ y.retries = z.retries + 1 ∧ y.cause = 0 ∧ y.sid = z.sid
      ∧ y.cpRegs = z.cpRegs ∧ y.cpPreds = z.cpPreds ∧ y.cpDraw = z.cpDraw ∧ y.beginPc = z.beginPc ∧ y.since = z.since
      ∧ (strm t x).regs = z.cpRegs ∧ (strm t x).preds = z.cpPreds ∧ (strm t x).draw = z.cpDraw
      ∧ (strm t x).pc = pcAfter z.beginPc))
  ∧ (∀ (x : Insn) (s : State), issues s x none = true → x.pred = 0 → x.pneg = false →
    ((strm s x).sect.isSome = true → x.b = 0 → ∃ t, exec (.waitMs x) s = .next (lateSettle (deadlockCheck t x.core))
        ∧ strm t x = (strm s x).halting .fault 0x08)
    ∧ ((strm s x).sect.isSome = true → x.b < 2 ^ 18 → ∃ t, exec (.layerBegin x) s = .next t
        ∧ strm t x = (strm s x).halting .fault 0x08)
    ∧ ((strm s x).sect = none → x.b = 0 → ∃ t, exec (.layerEnd x) s = .next t ∧ strm t x = (strm s x).halting .fault 0x08))

/-! ### Streams and read-only caches from outside (R89, R98 to R100, R111 to R113, R118 to R123) -/

/-- Start and halt requests: a start is accepted only at rest and only marks the stream; a halt stops a running or waiting stream
with cause external; a stream named by neither is as it was, but for one that nothing can wake then (R93), and so is every other core.
A halting stream whose operations, range operations and movement requests have ended is halted: it keeps its pc, registers, predicates and
draw counter; its descriptors, its open section and the section's provisional sectors are gone. While the core's clocks have stopped
(R502) nothing of this happens. -/
def Obligations.StreamRequestsAndHalts : Prop :=
  (∀ (l : Nat) (m : BitVec 3) (s : State), l < numCores → s.boot.pg = true →
      (∃ t, exec (.streamStartRequest l m) s = .next t ∧ OnlyCore s t l
        ∧ ∀ u, strOf t l u = if m.getLsbD (strNum u) = true ∧ (strOf s l u).atRest = true
            then { strOf s l u with start := true, owner := none, work := .none } else strOf s l u)
      ∧ (∃ t, exec (.streamHaltRequest l m) s = .next (if m = 0 then t else deadlockCheck t l) ∧ OnlyCore s t l
        ∧ (∀ u, strOf t l u = if m.getLsbD (strNum u) = true then (strOf s l u).halting .external 0 else strOf s l u)
        ∧ ∀ u, m.getLsbD (strNum u) = true → (strOf s l u).live = true →
            ∀ d ∈ (coreOf t l).descs, d.stream = u → d.row < d.rows → d.dead = true))
  ∧ (∀ (l : Nat) (u : StreamId) (s : State), l < numCores → clockStopped s l = true → exec (.streamHalted l u) s = .next s)
  ∧ (∀ (l : Nat) (u : StreamId) (s : State), l < numCores → clockStopped s l = false → (strOf s l u).st = .halting →
      (∀ o ∈ (coreOf s l).ops, o.stream ≠ u ∧ u ∉ o.also) → (∀ q ∈ (coreOf s l).maints, q.stream ≠ u) → (∀ r ∈ s.reqs, r.core = l → r.stream = u → r.kind ≠ .move) →
      ∃ t, exec (.streamHalted l u) s = .next (lateSettle (deadlockCheck (reportHalt t l u) l))
        ∧ strOf t l u = { strOf s l u with st := .halted, sect := none } ∧ (∀ d ∈ (coreOf t l).descs, d.stream ≠ u)
        ∧ (∀ k, ∀ p ∈ (sliceOf t k).prov, ¬ (p.core = l ∧ p.stream = u))
        ∧ OthersKept s t l u ∧ t.mem = s.mem)


/-- The debug window writes a register of a stream at rest and of no other; index 48 writes the predicates with p0 left 1;
stream 3 and indices above 48 ignore it.
A write of CORE_ISSUE (orders 6 and 7 leave the order), a read-only-cache invalidation (every line and every outstanding fill
goes), and a fill of a read-only cache that finds its sector in the core's half of the cluster cache. -/
def Obligations.DebugWindowIssueOrderAndReadOnlyCaches : Prop :=
  (∀ (l : Nat) (d : Word) (s : State), l < numCores → s.boot.pg = true →
      let n := rdf s (CORE_DBG_SEL l) CORE_DBG_SEL_stream
      let i := rdf s (CORE_DBG_SEL l) CORE_DBG_SEL_index
      ∃ t, exec (.dbgDataWrite l d) s = .next t ∧ OnlyCore s t l
        ∧ (n = 3 → coreOf t l = coreOf s l)
        ∧ (∀ u, strNum u ≠ n → strOf t l u = strOf s l u)
        ∧ (∀ u, strNum u = n → (strOf s l u).atRest = false → strOf t l u = strOf s l u)
        ∧ (∀ u, strNum u = n → (strOf s l u).atRest = true → i < 48 → strOf t l u = (strOf s l u).setReg i d)
        ∧ (∀ u, strNum u = n → (strOf s l u).atRest = true → i = 48 →
            ∃ p, strOf t l u = { strOf s l u with preds := p } ∧ p.getLsbD 0 = true
              ∧ ∀ k, 0 < k → k < 8 → p.getLsbD k = d.getLsbD k)
        ∧ (∀ u, strNum u = n → 48 < i → strOf t l u = strOf s l u))
  ∧ (∀ (l : Nat) (o : BitVec 3) (r : BitVec 2) (s : State), l < numCores → s.boot.pg = true →
      ∃ t, exec (.coreIssueWrite l o r) s = .next t
      ∧ rdf t (CORE_ISSUE l) CORE_ISSUE_rotate = r.toNat
      ∧ (o.toNat < 6 → rdf t (CORE_ISSUE l) CORE_ISSUE_order = o.toNat ∧ rdf t (CORE_ISSUE l) CORE_ISSUE_order_active = o.toNat)
      ∧ (6 ≤ o.toNat → rdf t (CORE_ISSUE l) CORE_ISSUE_order = rdf s (CORE_ISSUE l) CORE_ISSUE_order
          ∧ rdf t (CORE_ISSUE l) CORE_ISSUE_order_active
              = rdf s (CORE_ISSUE l) (if r = 2 then CORE_ISSUE_order else CORE_ISSUE_order_active))
      ∧ RegsKept s t [CORE_ISSUE l] ∧ (∀ u, strOf t l u = strOf s l u) ∧ OnlyCoresAndRegs s t)
  ∧ (∀ (l : Nat) (s : State), l < numCores → s.boot.pg = true → ∃ t, exec (.roInvalidate l) s = .next t
      ∧ OnlyCore { s with reqs := t.reqs } t l ∧ coreOf t l = { coreOf s l with ro := [], fills := [], roFailed := [] }
      ∧ (∀ r ∈ t.reqs, r.core = l → ∀ k, r.kind ≠ .fill k)
      ∧ ∀ r ∈ s.reqs, (r.core ≠ l ∨ r.kind = .move ∨ r.kind = .prefetch) → r ∈ t.reqs)
  ∧ (∀ (l : Nat) (k : RoKind) (line : Nat) (s : State), l < numCores → s.boot.pg = true →
      (k = .instr ∨ (k, line) ∈ (coreOf s l).fills) → roReadable s (line * 256) 256 = true → (coreOf s l).held = false →
      clockStopped s l = false →
      let asked := s.reqs.find? (fun r => r.core == l && r.kind == .fill k && r.src == line * 256)
      let holds (t : State) (d : List Byte) : Prop := (coreOf t l).ro.head? = some ⟨k, line, d⟩
        ∧ (k, line) ∉ (coreOf t l).fills ∧ (∀ u, strOf t l u = strOf s l u) ∧ t.mem = s.mem
      (∀ y, asked = none →
        (halfOf s (halfKey (clusterOf l) (halfOfCore s l))).lines.find? (fun z => z.sector == line) = some y →
        y.bad = false → ∃ t, exec (.roCacheFill l k line true) s = .next t ∧ holds t y.data)
      ∧ (∀ r, asked = some r → r.phase = .fin → r.code = 0 → r.bad = false → ∃ t, exec (.roCacheFill l k line true) s = .next t ∧ holds t r.data)
      ∧ (∀ r b, asked = some r → r.phase = .fin → r.code ≠ 0 → ∃ t, exec (.roCacheFill l k line b) s = .next t
        ∧ (k, line) ∈ (coreOf t l).roFailed ∧ (k, line) ∉ (coreOf t l).fills ∧ (coreOf t l).ro = (coreOf s l).ro))

/-! ### Movement (R101, R142 to R148) -/

/-- MOVR and MOVD start one descriptor with the addresses, the shape, the operation, the epoch and the counter that the
instruction or the 64 bytes at its address give (Tables 04-6 and 04-7); a descriptor that moves nothing raises its counter at
once; a descriptor not in the descriptor cache asks for its line and waits, and one whose line the fill could not bring raises an
address fault; one whose contents are not as defined faults. An address of this device's global form is its local part (R45). -/
def Obligations.MovementDescriptors : Prop :=
  (∀ (fn : BitVec 4) (x : Insn) (s : State), issues s x (some 1) = true → fn.toNat < 3 → bitsN x.b 19 0 = 0 → x.r0 = 0 →
    x.r1 < 48 → x.r2 < 48 → x.r3 < 48 → accepted (coreOf s x.core) x.stream < 8 →
    let src := ((strm s x).reg x.r2).toNat
    let dst := ((strm s x).reg x.r1).toNat
    let n := bits ((strm s x).reg x.r3) 31 0
    let ep := bits ((strm s x).reg x.r3) 47 32
    let w := if fn.toNat = 1 then 4 else 2
    let ctr := if bitsN x.b 20 20 = 1 then some (bitsN x.b 23 21) else none
    bits ((strm s x).reg x.r3) 63 48 = 0 → (fn.toNat = 0 → ep = 0) →
    (fn.toNat ≠ 0 → scratchAddr x.core 0 ≤ src ∧ src + n ≤ scratchAddr x.core 0x20000 ∧ dst + n ≤ userEnd
      ∧ src % w = 0 ∧ dst % w = 0 ∧ n % w = 0) →
    (0 < n → ∃ t d, exec (.movr fn x) s = .next t ∧ (coreOf t x.core).descs = (coreOf s x.core).descs ++ [d]
      ∧ d.src = src ∧ d.dst = dst ∧ d.rows = 1 ∧ d.rowBytes = n ∧ d.op = fn.toNat ∧ d.epoch = ep ∧ d.ctr = ctr
      ∧ d.row = 0 ∧ d.off = 0 ∧ d.dead = false ∧ d.stream = x.stream ∧ d.prov = passOf (strm s x)
      ∧ strm t x = { strm s x with pc := pcAfter (strm s x).pc } ∧ t.mem = s.mem ∧ t.reqs = s.reqs)
    ∧ (n = 0 → ∀ e, ctr = some e → ∃ t, exec (.movr fn x) s = .next t ∧ (coreOf t x.core).descs = (coreOf s x.core).descs
      ∧ smGet 0 (coreOf t x.core).ctrs e = min (smGet 0 (coreOf s x.core).ctrs e + 1) 0xFFFF
      ∧ strm t x = { strm s x with pc := pcAfter (strm s x).pc } ∧ t.mem = s.mem))
  ∧ (∀ (x : Insn) (s : State) (a : Nat), bitsN x.b 37 36 = 0 → x.r0 < 48 → atOffset ((strm s x).reg x.r0) x.imm a →
    a % 64 = 0 → roReadable s a 64 = true →
    (∀ (y : RoLine), issues s x (some 1) = true → accepted (coreOf s x.core) x.stream < 8 →
      (coreOf s x.core).ro.find? (fun z => z.kind == .desc && z.line == localForm s a / 256) = some y →
      let w (i : Nat) : Nat := leNat ((((y.data.drop (a % 256)).take 64).drop (8 * i)).take 8)
      bitsN (w 5) 63 48 = 0 → bitsN (w 5) 31 10 = 0 → bitsN (w 5) 7 4 = 0 → bitsN (w 5) 3 0 ≤ 2 → w 6 = 0 → w 7 = 0 →
      ∃ d, d.src = w 0 ∧ d.dst = w 1 ∧ d.rowBytes = w 2 % 2 ^ 32 ∧ d.rows = w 2 / 2 ^ 32 ∧ d.srcPitch = sextN 64 (w 3)
        ∧ d.dstPitch = sextN 64 (w 4) ∧ d.op = bitsN (w 5) 3 0 ∧ d.deadSrc = (bitsN (w 5) 8 8 == 1)
        ∧ d.noAlloc = (bitsN (w 5) 9 9 == 1) ∧ d.epoch = bitsN (w 5) 47 32
        ∧ d.ctr = (if x.ctrEn then some x.e else none) ∧ d.prov = passOf (strm s x) ∧ d.row = 0 ∧ d.off = 0 ∧ d.dead = false
        ∧ (descOk s x.core d = true → d.rows ≠ 0 → d.rowBytes ≠ 0 → ∃ t, exec (.movd x) s = .next t
          ∧ (coreOf t x.core).descs = (coreOf s x.core).descs ++ [d]
          ∧ strm t x = { strm s x with pc := pcAfter (strm s x).pc } ∧ t.mem = s.mem ∧ t.reqs = s.reqs)
        ∧ (descOk s x.core d = false → ∃ t, exec (.movd x) s = .next t ∧ strm t x = (strm s x).halting .fault 0x09
          ∧ t.mem = s.mem))
    ∧ (issues s x (some 1) = true → accepted (coreOf s x.core) x.stream < 8 →
      (∀ z ∈ (coreOf s x.core).ro, z.kind = .desc → z.line ≠ localForm s a / 256) → ∃ t, exec (.movd x) s = .next t
      ∧ t.mem = s.mem
      ∧ ((RoKind.desc, localForm s a / 256) ∉ (coreOf s x.core).roFailed →
          strm t x = strm s x ∧ (RoKind.desc, localForm s a / 256) ∈ (coreOf t x.core).fills)
      ∧ ((RoKind.desc, localForm s a / 256) ∈ (coreOf s x.core).roFailed →
          strm t x = (strm s x).halting .fault 0x04 ∧ (RoKind.desc, localForm s a / 256) ∉ (coreOf t x.core).roFailed)))

/-- A descriptor's next request takes a slot: it lies within one row and, outside the core's own scratchpad, within one 256-byte
sector on each side, and the descriptor stands past it. A side outside the address map ends the stream with an address fault, which a
stream that a sibling's fault has halted at the same time may record or not: the model's choice (notes/assumptions/115). -/
def Obligations.MovementRequestsIssue : Prop :=
  ∀ (l : Nat) (u : StreamId) (id : Nat) (ecc : Ecc) (d : Desc) (src dst : Nat) (s : State), l < numCores →
    (coreOf s l).descs.find? (fun z => z.id == id && z.stream == u) = some d → d.dead = false → d.row < d.rows →
    d.off < d.rowBytes → (coreOf s l).held = false → clockStopped s l = false → heldBySlot s l = false → slotFree s l u = true →
    descAt d.src d.srcPitch d.row d.off src → descAt d.dst d.dstPitch d.row d.off dst →
    let n := nextLen d (isOwn s l src) (isOwn s l dst) src dst
    0 < n ∧ d.off + n ≤ d.rowBytes ∧ (isOwn s l src = false → src % 256 + n ≤ 256)
    ∧ (isOwn s l dst = false → dst % 256 + n ≤ 256)
    ∧ (∀ o o', sideOf s l u src n false = .own o → sideOf s l u dst n true = .own o' → goodWords s l o n →
        ecc ≠ .uncorrectable → (∀ r ∈ s.reqs, r.id ≠ s.nextId) →
        ∃ t r e, exec (.movementRequestIssue l u id ecc) s = .next t ∧ t.reqs = s.reqs ++ [r] ∧ r.id = s.nextId
          ∧ r.core = l ∧ r.stream = u ∧ r.desc = id ∧ r.dst = dst ∧ r.len = n ∧ r.op = d.op ∧ r.phase = .fin
          ∧ s.nextId < t.nextId ∧ t.mem = s.mem
          ∧ (coreOf t l).descs.find? (fun z => z.id == id && z.stream == u) = some e
          ∧ (d.off + n < d.rowBytes → e = { d with off := d.off + n })
          ∧ (d.off + n = d.rowBytes → e = { d with row := d.row + 1, off := 0 }))
    ∧ (∀ o p, sideOf s l u src n false = .own o → sideOf s l u dst n true = .peer p → d.prov = none → goodWords s l o n →
        ecc ≠ .uncorrectable → (∀ r ∈ s.reqs, r.id ≠ s.nextId) →
        ∃ t r, exec (.movementRequestIssue l u id ecc) s = .next t ∧ r ∈ t.reqs ∧ r.id = s.nextId
          ∧ r.core = l ∧ r.stream = u ∧ r.desc = id ∧ r.dst = dst ∧ r.len = n ∧ (r.phase = .ext ∨ r.phase = .ans))
    ∧ (∀ o a, sideOf s l u src n false = .own o → sideOf s l u dst n true = .verge a → d.prov = none → goodWords s l o n →
        ecc ≠ .uncorrectable → (∀ r ∈ s.reqs, r.id ≠ s.nextId) →
        ∃ t r, exec (.movementRequestIssue l u id ecc) s = .next t ∧ t.reqs = s.reqs ++ [r] ∧ r.id = s.nextId
          ∧ r.core = l ∧ r.stream = u ∧ r.desc = id ∧ r.dst = a ∧ r.len = n ∧ r.phase = .wrV ∧ t.mem = s.mem)
    ∧ (sideOf s l u src n false = .bad → ∃ t, exec (.movementRequestIssue l u id ecc) s = .next t
        ∧ t.mem = s.mem ∧ (¬ tiedWith s l u → strOf t l u = (strOf s l u).halting .fault 0x04)
        ∧ (tiedWith s l u → strOf t l u = strOf s l u ∨ strOf t l u = { strOf s l u with cause := .fault, code := 0x04 }))

/-- A request that has its data and writes the core's own scratchpad writes those bytes and no others and gives up its slot;
with the last request of a descriptor its counter rises by one. A request that ended with a fault halts its stream with that
code, and a provisional request that waited too long with 0x70. -/
def Obligations.MovementRequestsEnd : Prop :=
  (∀ (l id o : Nat) (a : Answer) (r : Req) (s : State), l < numCores → reqOf s id = some r → r.core = l → r.kind = .move →
    r.phase = .fin → r.code = 0 → r.data.length = r.len → sideOf s l r.stream r.dst r.len true = .own o → clockStopped s l = false →
    (r.bad = false ∧ a.wbOk = true ∨ cacheable r.src = false ∧ isGlobal r.src = false) → goodWords s l o r.len →
    (a.ecc ≠ .uncorrectable ∨ o % 8 = 0 ∧ r.len % 8 = 0) → ∃ t, exec (.movementRequestDone l id a) s = .next (lateSettle (deadlockCheck t l))
      ∧ (∀ q ∈ t.reqs, q.id ≠ id)
      ∧ scrRead t l o r.len = r.data ∧ MemKeptOutside s t (scratchAddr l o) r.len
      ∧ (∀ d e, (coreOf s l).descs.find? (fun z => z.id == r.desc) = some d → d.dead = false → d.rows ≤ d.row →
          d.ctr = some e → (∀ q ∈ s.reqs, q.id ≠ id → q.core = l → q.desc = r.desc → q.kind ≠ .move) →
          smGet 0 (coreOf t l).ctrs e = min (smGet 0 (coreOf s l).ctrs e + 1) 0xFFFF
            ∧ ∀ z ∈ (coreOf t l).descs, z.id ≠ r.desc))
  ∧ (∀ (l id : Nat) (a : Answer) (r : Req) (s : State), l < numCores → reqOf s id = some r → r.core = l → r.kind = .move →
    r.phase = .fin → r.code ≠ 0 → clockStopped s l = false → ¬ tiedWith s l r.stream →
    ∃ t, exec (.movementRequestDone l id a) s = .next (lateSettle (deadlockCheck t l))
      ∧ strOf t l r.stream = (strOf s l r.stream).halting .fault r.code ∧ (∀ q ∈ t.reqs, q.id ≠ id) ∧ t.mem = s.mem)
  ∧ (∀ (id : Nat) (r : Req) (s : State), reqOf s id = some r → r.phase = .wrV → r.waiting = true → r.prov.isSome = true →
    ¬ tiedWith s r.core r.stream → ∃ t, exec (.provisionalWaitTimeout id) s = .next (lateSettle t)
      ∧ strOf t r.core r.stream = (strOf s r.core r.stream).halting .fault 0x70 ∧ (∀ q ∈ t.reqs, q.id ≠ id) ∧ t.mem = s.mem)

/-! ### Cache maintenance (R159 to R161, R271 to R277) -/

/-- Every range operation that the movement engine accepts is held until complete; MAINTENANCE_COMPLETE ends it and raises its
counter; ROINV empties the read-only caches it names.
The prefetches of one sector (Table 08-4, R280): PF.CCH of a sector that Verge holds installs it in the core's half of the
cluster cache; PF.VRG of one that it does not hold, and for which no request waits, fills it clean from DRAM; one that meets an error
is dropped and counted. -/
def Obligations.MaintenanceAndPrefetchAreAccepted : Prop :=
  (∀ (fn a n : Nat) (x : Insn) (drops : List Nat) (s : State), fn < 8 → 0 < n → maintAccepts s x fn a n →
    (regionOf (localForm s a) = .user → flushWaits s (rangeOp s x.core fn (localForm s a) n drops) fn (localForm s a) n = false) →
    ∃ t, exec (maintOp fn x drops) s = .next (if fn = 2 ∨ fn = 3 then lateSettle t else t) ∧ maintHeld s t x fn)
  ∧ (∀ (l op : Nat) (m : Maint) (s : State), l < numCores → clockStopped s l = false → (coreOf s l).maints.find? (fun z => z.id == op) = some m →
    ∃ t, exec (.maintenanceComplete l op) s = .next (lateSettle (deadlockCheck t l)) ∧ (∀ z ∈ (coreOf t l).maints, z.id ≠ op)
      ∧ (∀ e, m.ctr = some e → smGet 0 (coreOf t l).ctrs e = min (smGet 0 (coreOf s l).ctrs e + 1) 0xFFFF)
      ∧ (m.ctr = none → (coreOf t l).ctrs = (coreOf s l).ctrs) ∧ t.mem = s.mem)
  ∧ (∀ (x : Insn) (s : State), issues s x (some 1) = true → x.b < 8 → ∃ t, exec (.roinv x) s = .next t
      ∧ strm t x = { strm s x with pc := pcAfter (strm s x).pc } ∧ OthersKept s t x.core x.stream
      ∧ (∀ y, y ∈ (coreOf t x.core).ro ↔ y ∈ (coreOf s x.core).ro
          ∧ ¬ (x.b.testBit (match y.kind with | .instr => 0 | .const => 1 | .desc => 2) = true))
      ∧ t.mem = s.mem)
  ∧ ∀ (a n : Nat) (x : Insn) (s : State), 0 < n → a % 256 + n ≤ 256 → NoReductions s → regionOf a = .user →
    waitingFor s (a / 256) = [] →
    let k := halfKey (clusterOf x.core) (halfOfCore s x.core)
    (∀ y, maintAccepts s x 0 a n → findSector s (a / 256) = some y → y.st ≠ .dead → flawV s (a / 256) = {} →
      ∃ t, exec (.pfCch x []) s = .next t ∧ t.mem = s.mem
      ∧ (halfOf t k).lines.head? = some ⟨a / 256, withWrites y.data (writesUnderWay s (clusterOf x.core) (a / 256)), false⟩)
    ∧ (∀ s1, maintAccepts s x 1 a n → findSector s (a / 256) = none → poisoned s (a / 256) = false →
      onLostPc s (a / 256) = false → smHas s.mem.flaws (a / 256) = false → a / 256 ∉ s.mem.broken → allocLine (settleLine s (a / 2048)) (a / 2048) = some s1 →
      ∃ t, exec (.pfVrg x []) s = .next t ∧ findSector t (a / 256) = some ⟨.clean, dramRead s (a / 256)⟩)
    ∧ (∀ ds : List Nat, maintAccepts s x 0 a n → (∀ y, findSector s (a / 256) = some y → y.st ≠ .dead) →
      (ds = [a / 256] ∨ (inVerge s (a / 256) = true ∧ vergeEcc (flawV s (a / 256)).errs = .uncorrectable)
        ∨ (inVerge s (a / 256) = false ∧ (poisoned s (a / 256) = true ∨ onLostPc s (a / 256) = true))) →
      ∃ t, exec (.pfCch x ds) s = .next t ∧ t.mem = s.mem ∧ t.slices = s.slices ∧ t.halves = s.halves
      ∧ rdf t (CCH_PF (clusterOf x.core)) CCH_PF_dropped
          = (rdf s (CCH_PF (clusterOf x.core)) CCH_PF_dropped + 1) % 2 ^ CCH_PF_dropped.width)

/-- What the range operations do to the sectors and lines of their range (Table 08-4), where no reduction is pending. INV.CCH
removes the cluster's copies of exactly the sectors in the range; DEAD makes every sector held there dead, without a write-back;
UNPIN unpins every line; FLUSH writes dirty sectors back and leaves them clean; FLUSH.INV gives up the sectors of unpinned
lines; PIN pins a line where 14 ways, less window and repair ways, allow it, and counts a refusal otherwise. -/
def Obligations.MaintenanceEffects : Prop :=
  ∀ (a n : Nat) (x : Insn) (s : State), 0 < n → NoReductions s → regionOf a = .user →
    let lo := a / 256
    let hi := (a + n) / 256
    let c := clusterOf x.core
    (maintAccepts s x 4 a n → ∃ t, exec (.invCch x) s = .next t ∧ t.mem = s.mem
      ∧ ∀ h, h < 2 → ∀ y, y ∈ (halfOf t (halfKey c h)).lines ↔ y ∈ (halfOf s (halfKey c h)).lines
          ∧ (y.sector < lo ∨ hi ≤ y.sector))
    ∧ (maintAccepts s x 5 a n → ∃ t, exec (.dead x) s = .next t ∧ t.mem = s.mem
      ∧ (∀ sec y, lo ≤ sec → sec < hi → findSector s sec = some y → findSector t sec = some ⟨.dead, []⟩)
      ∧ ∀ h, h < 2 → ∀ y ∈ (halfOf t (halfKey c h)).lines, y.sector < lo ∨ hi ≤ y.sector)
    ∧ (maintAccepts s x 7 a n → ∃ t, exec (.unpin x) s = .next t ∧ t.mem = s.mem
      ∧ ∀ l v, lo / 8 ≤ l → l < (hi + 7) / 8 → findLine t l = some v → v.pin = false)
    ∧ (maintAccepts s x 2 a n → ∃ t, exec (.flush x) s = .next (lateSettle t)
      ∧ (∀ sec y, lo ≤ sec → sec < hi → findSector s sec = some y → flawV s sec = {} → findSector t sec
          = some (if y.st = .dirty then { y with st := .clean } else y))
      ∧ (∀ y, n = 256 → findSector s lo = some y → y.st = .dirty → y.data.length = 256 → onLostPc s lo = false → flawV s lo = {} →
          dramRead t lo = y.data))
    ∧ (maintAccepts s x 3 a n → ∃ t, exec (.flushInv x) s = .next (lateSettle t)
      ∧ (∀ sec v, lo ≤ sec → sec < hi → findLine s (sec / 8) = some v → v.pin = false → findSector t sec = none)
      ∧ (∀ y, n = 256 → findSector s lo = some y → y.st = .dirty → y.data.length = 256 → onLostPc s lo = false → flawV s lo = {} →
          dramRead t lo = y.data))
    ∧ (maintAccepts s x 6 a n → n ≤ 2048 - a % 2048 → ∃ t, exec (.pin x) s = .next t
      ∧ ∀ v, findLine s (a / 2048) = some v → v.pin = false →
        let i := sliceOfLine (a / 2048)
        let set := setOfLine (a / 2048)
        let pins := ((sliceOf s i).lines.filter (fun z => z.pin && setOfLine z.line == set)).length
        (windowHeld s i + pins + 1 ≤ pinLimit (sliceOf s i) →
            findLine t (a / 2048) = some { v with pin := true })
        ∧ (pinLimit (sliceOf s i) < windowHeld s i + pins + 1 → findLine t (a / 2048) = some v
            ∧ rdf t (VRG_EVENTS_1 i) VRG_EVENTS_1_pin_refused
              = (rdf s (VRG_EVENTS_1 i) VRG_EVENTS_1_pin_refused + 1) % 2 ^ VRG_EVENTS_1_pin_refused.width))


/-! ### The memory hierarchy (R259 to R273, R288) -/

/-- A slice serves a request that has reached it: a read that finds its sector is answered with the sector's data, one that does not
goes to DRAM, and a write of a whole sector of a line present leaves it dirty with the data. A request that follows another on its
route stays behind it (R262).
A change of a slice's window: a new size of at most 12 ways makes the slice busy; any other write changes nothing; at its end
busy clears, the new size is in force, and every window byte beyond the ways kept reads as zero; while lines whose sums find no room
at their keeper are in the way, it stays busy. -/
def Obligations.SliceRequestsAndWindows : Prop :=
  (∀ (id : Nat) (r : Req) (s : State), reqOf s id = some r → reaches s r → r.phase = .rdV → r.waiting = false →
    regionOf r.src = .user → r.kind = .move → NoReductions s → waitingFor s (r.src / 256) = [] → sectorFree s r (r.src / 256) →
    (∀ y, findSector s (r.src / 256) = some y → y.st ≠ .dead → flawV s (r.src / 256) = {} →
      ∃ t q, exec (.vergeRequest id .clean) s = .next (lateSettle t)
      ∧ reqOf t id = some q ∧ reqGoesOn r q ∧ q.phase = .back ∧ q.data = y.data ∧ q.bad = false ∧ q.tag = r.tag)
    ∧ (∀ ecc, findSector s (r.src / 256) = none → sliceBusy s (sliceOfLine (r.src / 2048)) < 300 →
      (pcBusy s (gpcOf (r.src / 256)) 0).1 < 55 →
      smFind? (sliceOf s (sliceOfLine (r.src / 2048))).hot (pcOfLine (r.src / 2048)) = none →
      ∃ t q, exec (.vergeRequest id ecc) s = .next (lateSettle t) ∧ reqOf t id = some q ∧ reqGoesOn r q ∧ q.phase = .rdD
        ∧ q.tag = (if r.tag = 6 then 6 else 2)))
  ∧ (∀ (id : Nat) (ecc : Ecc) (r : Req) (v : VLine) (s : State), reqOf s id = some r → reaches s r → r.phase = .wrV → r.prov = none →
    r.op = 0 → regionOf r.dst = .user → r.dst % 256 = 0 → r.data.length = 256 → NoReductions s → waitingFor s (r.dst / 256) = [] →
    sectorFree s r (r.dst / 256) → findLine s (r.dst / 2048) = some v → ∃ t q, exec (.vergeRequest id ecc) s = .next (lateSettle t)
      ∧ reqOf t id = some q ∧ reqGoesOn r q ∧ q.phase = .fin ∧ q.data = r.data
      ∧ q.tag = (if findSector s (r.dst / 256) = none ∧ r.tag ≠ 6 then 2 else r.tag)
      ∧ findSector t (r.dst / 256) = some ⟨.dirty, r.data⟩ ∧ t.mem = s.mem)
  ∧ (∀ (id : Nat) (ecc : Ecc) (r : Req) (s : State), reqOf s id = some r → r.phase = .rdV ∧ r.waiting = false ∨ r.phase = .wrV →
    heldBySlot s (18468 + sliceOfAddr r.target) = false → r.here = false → behind s r = true →
    ∃ t, exec (.vergeRequest id ecc) s = .next (lateSettle t) ∧ t = { s with reqs := t.reqs }
      ∧ reqOf t id = some { r with hold := 4 } ∧ ∀ q ∈ s.reqs, q.id ≠ id → q ∈ t.reqs)
  ∧ ∀ (i : Nat) (w : BitVec 4) (s : State), i < 144 → s.boot.pg = true →
    let busy := rdb s (VRG_SLICE_CFG i) VRG_SLICE_CFG_busy
    let now := rdf s (VRG_SLICE_CFG i) VRG_SLICE_CFG_window_active
    (w.toNat ≤ 12 → busy = false → now ≠ w.toNat → ∃ t, exec (.windowWaysWrite i w) s = .next (lateSettle t)
      ∧ rdb t (VRG_SLICE_CFG i) VRG_SLICE_CFG_busy = true ∧ rdf t (VRG_SLICE_CFG i) VRG_SLICE_CFG_window_ways = w.toNat
      ∧ rdf t (VRG_SLICE_CFG i) VRG_SLICE_CFG_window_active = now)
    ∧ ((12 < w.toNat ∨ busy = true ∨ now = w.toNat) → exec (.windowWaysWrite i w) s = .next (lateSettle s))
    ∧ (busy = true → setsFit (shrinkSets s i (rdf s (VRG_SLICE_CFG i) VRG_SLICE_CFG_window_ways)) i = false →
      exec (.windowChangeDone i) s = .next (lateSettle (shrinkSets s i (rdf s (VRG_SLICE_CFG i) VRG_SLICE_CFG_window_ways))))
    ∧ (busy = true → setsFit (shrinkSets s i (rdf s (VRG_SLICE_CFG i) VRG_SLICE_CFG_window_ways)) i = true →
      ∃ t, exec (.windowChangeDone i) s = .next (lateSettle t)
      ∧ rdb t (VRG_SLICE_CFG i) VRG_SLICE_CFG_busy = false
      ∧ rdf t (VRG_SLICE_CFG i) VRG_SLICE_CFG_window_active = rdf s (VRG_SLICE_CFG i) VRG_SLICE_CFG_window_ways
      ∧ (∀ o, min (rdf s (VRG_SLICE_CFG i) VRG_SLICE_CFG_window_ways) now * 2 ^ 20 ≤ o → o < 2 ^ 24 →
          memByte t.mem (windowBase + i * 2 ^ 24 + o) = 0)
      ∧ (∀ a, (a < windowBase + i * 2 ^ 24 ∨ windowBase + (i + 1) * 2 ^ 24 ≤ a) →
          memByte t.mem a = memByte (shrinkSets s i (rdf s (VRG_SLICE_CFG i) VRG_SLICE_CFG_window_ways)).mem a))

/-- A sector from DRAM answers the request that waits for it with the bytes of memory; with a waybill that does not match the
request is read again, and with an error beyond its ECC it goes to the repair path.
A sector that comes back to a half of a cluster cache is installed unless its copies were invalidated since the request; the
miss is over in both cases; a prefetch that met an error is dropped and counted. -/
def Obligations.SectorFills : Prop :=
  (∀ (sec : Nat) (errs : List (List Nat)) (wbOk astray : Bool) (r : Req) (s : State), waitingFor s sec = [r] → r.phase = .rdD →
    r.kind = .move → poisoned s sec = false → findSector s sec = none →
    let f := flawOf s sec
    let fails : Prop := stackEcc s sec (joinErrs errs f.errs) (astray || f.astray) = .uncorrectable ∨ onLostPc s sec = true
      ∨ sec ∈ s.mem.broken
    let mismatch : Prop := wbOk = false ∨ f.once = true ∨ billOk f (dramRead s sec) = false
    (¬ fails → ¬ mismatch → ∃ t n, exec (.vergeFill sec errs wbOk astray) s = .next (lateSettle t) ∧ reqOf t r.id
        = some { r with phase := .back, data := (if errs = [] ∧ f.errs = [] ∨ (findLine s (sec / 8)).isSome = true then dramRead s sec
                                                 else dramRead t sec), waiting := false, hold := 0, bad := false, sent := n })
    ∧ (¬ fails → mismatch → ∃ t, exec (.vergeFill sec errs wbOk astray) s = .next (lateSettle t)
      ∧ reqOf t r.id = some { r with phase := .reread }
      ∧ (errs = [] → f.errs = [] → ∀ a, memByte t.mem a = memByte s.mem a))
    ∧ (fails → ∃ t, exec (.vergeFill sec errs wbOk astray) s = .next (lateSettle t)
      ∧ reqOf t r.id = some { r with phase := .repair } ∧ t.mem = s.mem))
  ∧ ∀ (id : Nat) (r : Req) (s : State), reqOf s id = some r → r.phase = .back →
    clockStopped s r.core = false → behind s r = false →
    let k := missHalf s r
    let stale := (((halfOf s k).misses.find? (fun m => m.req == id)).map (·.stale)).getD true
    (∀ b, (r.kind ≠ .prefetch ∨ (b = false ∧ r.bad = false)) → ∃ t, exec (.cchFill id b) s = .next t
      ∧ (∀ m ∈ (halfOf t k).misses, m.req ≠ id)
      ∧ (stale = false → ∃ y ∈ (halfOf t k).lines, y.sector = r.src / 256)
      ∧ (stale = true → (∃ y ∈ (halfOf t k).lines, y.sector = r.src / 256) →
          ∃ y ∈ (halfOf s k).lines, y.sector = r.src / 256))
    ∧ (∀ b, r.kind = .prefetch → (b = true ∨ r.bad = true) → ∃ t, exec (.cchFill id b) s = .next t ∧ (∀ q ∈ t.reqs, q.id ≠ id) ∧ t.mem = s.mem
      ∧ (halfOf t k).lines = (halfOf s k).lines
      ∧ (∀ y, findSector s (r.src / 256) = some y → y.st = .clean → r.filled = true → findSector t (r.src / 256) = none)
      ∧ rdf t (CCH_PF (clusterOf r.core)) CCH_PF_dropped
          = (rdf s (CCH_PF (clusterOf r.core)) CCH_PF_dropped + 1) % 2 ^ CCH_PF_dropped.width)

/-! ### The matrix unit (R167 to R196) -/

/-- MMA adds the products of its operands into the region, element by element, as chunk sums in order (R181 to R184), from zero
under z; elements outside the region, and every other tile, are as before (zero under z in its own tile). A region or a depth of
nothing adds nothing. -/
def Obligations.MatrixMultiply : Prop :=
  ∀ (x : Insn) (ecc : Ecc) (m n k oa pa ob pb fa fb : Nat) (s : State), issues s x (some 2) = true → bitsN x.b 12 0 = 0 →
    x.r0 < 48 → x.r1 < 48 → x.r2 < 48 → shapeOf ((strm s x).reg x.r0) = some (m, n, k) →
    tileOperand ((strm s x).reg x.r1) = some (oa, pa) → tileOperand ((strm s x).reg x.r2) = some (ob, pb) →
    formatOf (strm s x) (mFa x) = some fa → formatOf (strm s x) (mFb x) = some fb → pairClass (mFa x) = pairClass (mFb x) →
    (pairClass (mFa x) = 1 → mLa x = false ∧ mLb x = false ∧ x.r3 < 48
      ∧ onlyBits ((strm s x).reg x.r3) [(48, 32), (16, 0)] = true) →
    (pairClass (mFa x) ≠ 1 → x.r3 = 0) → m ≤ 64 → n ≤ 64 → k ≤ kLimit (mFa x) →
    (∀ z, (strm s x).sect = some z → mZ x = false → mTile x ∈ z.inits) →
    let w := (strm s x).reg x.r3
    let a := mmaPlane (mFa x == 7) (mLa x) (fmtBytes fa) oa pa m k
    let b := mmaPlane (mFb x == 7) (mLb x) (fmtBytes fb) ob pb n k
    let before (i j : Nat) : Acc2 := if mZ x then (0, 0) else tileElem (coreOf s x.core) (mTile x) i j
    let row (i : Nat) : List Nat := (operandRows s x.core a.off a.pitch (fmtBytes fa) (mLa x) m k).getD i []
    let col (j : Nat) : List Nat := (operandRows s x.core b.off b.pitch (fmtBytes fb) (mLb x) n k).getD j []
    let sa (i : Nat) : List Nat := if pairClass (mFa x) = 1 then lineScales s x.core (bits w 16 0) k i else []
    let sb (j : Nat) : List Nat := if pairClass (mFa x) = 1 then lineScales s x.core (bits w 48 32) k j else []
    let plain := rdb s (CORE_MXU_CFG x.core) CORE_MXU_CFG_shoulder_off
    ((0 < m ∧ 0 < n ∧ 0 < k) → planeCheck ([a, b] ++ mmaScales x w m n k) = none →
      planesBad s x.core ([a, b] ++ mmaScales x w m n k) ecc = none → ∃ t, exec (.mma x ecc) s = .next t
      ∧ strm t x = { (if mZ x then initTile (strm s x) (mTile x) else strm s x) with pc := pcAfter (strm s x).pc }
      ∧ opHeld s t x .mma ∧ OthersKept s t x.core x.stream ∧ t.mem = s.mem
      ∧ (∀ i j, i < m → j < n → tileElem (coreOf t x.core) (mTile x) i j
          = (chunkSums fa fb (row i) (col j) (sa i) (sb j)).foldl (fun y q => (shoulderAdd plain y q).1) (before i j))
      ∧ (∀ i j, i < 64 → j < 64 → (m ≤ i ∨ n ≤ j) → tileElem (coreOf t x.core) (mTile x) i j = before i j)
      ∧ (∀ q i j, q ≠ mTile x → i < 64 → j < 64 → tileElem (coreOf t x.core) q i j = tileElem (coreOf s x.core) q i j))
    ∧ ((m = 0 ∨ n = 0 ∨ k = 0) → ∃ t, exec (.mma x ecc) s = .next t ∧ (strm t x).pc = pcAfter (strm s x).pc ∧ t.mem = s.mem
      ∧ (∀ i j, i < 64 → j < 64 → tileElem (coreOf t x.core) (mTile x) i j = before i j))

/-- ACC.ZERO leaves a tile of zeros; ACC.LD loads a region's values, and under .F32S its shoulders, from the scratchpad and zeroes
the rest; RDACC leaves the tile's flag word in its register; the clear of the matrix counters clears them. -/
def Obligations.TilesAreSet : Prop :=
  (∀ (x : Insn) (s : State), issues s x (some 2) = true → x.r0 = 0 → x.r1 = 0 → x.r2 = 0 → x.r3 = 0 → mPlain x = true →
    bitsN x.b 13 0 = 0 → ∃ t, exec (.accZero x) s = .next t
      ∧ strm t x = { initTile (strm s x) (mTile x) with pc := pcAfter (strm s x).pc } ∧ t.mem = s.mem
      ∧ (∀ i j, i < 64 → j < 64 → tileElem (coreOf t x.core) (mTile x) i j = (0, 0))
      ∧ (∀ q i j, q ≠ mTile x → i < 64 → j < 64 → tileElem (coreOf t x.core) q i j = tileElem (coreOf s x.core) q i j)
      ∧ tileWord (coreOf t x.core) (mTile x) = 0)
  ∧ (∀ (x : Insn) (sh : Bool) (m n k oa pa ob pb : Nat) (s : State), issues s x (some 2) = true → x.r3 = 0 →
    mPlain x = true → bitsN x.b 13 0 = 0 → x.r0 < 48 → x.r1 < 48 → x.r2 < 48 →
    shapeOf ((strm s x).reg x.r0) = some (m, n, k) → tileOperand ((strm s x).reg x.r1) = some (oa, pa) →
    (sh = true → tileOperand ((strm s x).reg x.r2) = some (ob, pb)) → (sh = false → x.r2 = 0) → 0 < m → 0 < n → m ≤ 64 → n ≤ 64 →
    tileOps (coreOf s x.core) (mTile x) = [] →
    let ps : List Plane := ⟨oa, pa, m, 4 * n, 4⟩ :: (if sh then [⟨ob, pb, m, 2 * n, 2⟩] else [])
    planeCheck ps = none → planesBad s x.core ps x.ecc = none →
    ∃ t, exec (if sh then .accLdF32s x else .accLdF32 x) s = .next t ∧ t.mem = s.mem ∧ opHeld s t x .drain
      ∧ strm t x = { initTile (strm s x) (mTile x) with pc := pcAfter (strm s x).pc }
      ∧ (∀ i j, i < m → j < n → tileElem (coreOf t x.core) (mTile x) i j
          = loadElem (elemAt s x.core (oa + i * pa + 4 * j) 4) (if sh then elemAt s x.core (ob + i * pb + 2 * j) 2 else 0))
      ∧ (∀ i j, i < 64 → j < 64 → (m ≤ i ∨ n ≤ j) → tileElem (coreOf t x.core) (mTile x) i j = (0, 0)))
  ∧ (∀ (x : Insn) (s : State), issues s x (some 2) = true → x.r1 = 0 → x.r2 = 0 → x.r3 = 0 → mPlain x = true →
    bitsN x.b 13 0 = 0 → x.r0 < 48 → tileOps (coreOf s x.core) (mTile x) = [] → ∃ t, exec (.rdacc x) s = .next t
      ∧ strm t x = { (strm s x).setReg x.r0 (tileWord (coreOf s x.core) (mTile x)) with pc := pcAfter (strm s x).pc }
      ∧ t.mem = s.mem ∧ t.cfg = s.cfg)
  ∧ (∀ (l : Nat) (s : State), l < numCores → s.boot.pg = true → ∃ t, exec (.mxuStatClear l) s = .next t ∧ rd t (CORE_MXU_STAT l) = 0
      ∧ OnlyRegs s t [CORE_MXU_STAT l])

/-- Each of the four drains writes its region's codes to the scratchpad row by row, under .F32S the shoulders to a second plane, and no
other byte; the maximum register of its tile takes in the region's values (R208), and no other register changes; the tile stays, or is
zeroed under z. Where lines overlap, the rules give no value to the bytes written twice. A region of nothing writes nothing. -/
def Obligations.TilesDrain : Prop :=
  ∀ (f : DrainForm) (x : Insn) (m n k oa pa ob pb : Nat) (s : State), issues s x (some 2) = true → x.r3 = 0 →
    mPlain x = true → bitsN x.b 12 0 = 0 → x.r0 < 48 → x.r1 < 48 → x.r2 < 48 →
    shapeOf ((strm s x).reg x.r0) = some (m, n, k) → tileOperand ((strm s x).reg x.r1) = some (oa, pa) →
    (f = .f32s → tileOperand ((strm s x).reg x.r2) = some (ob, pb)) → (f ≠ .f32s → x.r2 = 0) → m ≤ 64 →
    n ≤ 64 → tileOps (coreOf s x.core) (mTile x) = [] →
    let p0 : Plane := ⟨oa, pa, m, f.size * n, f.size⟩
    let p1 : Plane := ⟨ob, pb, m, 2 * n, 2⟩
    let ps := if f = .f32s then [p0, p1] else [p0]
    let rnd (i j : Nat) : Nat := if f = .bf16Sr then randomOf s x.core x.stream (strm s x).draw (i * n + j) else 0
    let vals := ((upto m).map (fun i => (upto n).map (fun j => accVal (tileElem (coreOf s x.core) (mTile x) i j)))).flatten
    let apart : Prop := linesApart p0 ∧ (f = .f32s → linesApart p1 ∧
      ∀ i, i < m → ∀ i', i' < m → oa + i * pa + 4 * n ≤ ob + i' * pb ∨ ob + i' * pb + 2 * n ≤ oa + i * pa)
    let tileAfter (t : State) : Prop := ∀ i j, i < 64 → j < 64 → tileElem (coreOf t x.core) (mTile x) i j
      = if mZ x then (0, 0) else tileElem (coreOf s x.core) (mTile x) i j
    let drains (i : Instr) : Prop := ∃ t, exec i s = .next t ∧ opHeld s t x .drain ∧ (strm t x).pc = pcAfter (strm s x).pc
      ∧ ScratchKept s t x.core ps ∧ OthersKept s t x.core x.stream ∧ tileAfter t
      ∧ (apart → ∀ i j, i < m → j < n → elemAt t x.core (oa + i * pa + f.size * j) f.size
          = drainCode f (tileElem (coreOf s x.core) (mTile x) i j) (rnd i j))
      ∧ (apart → f = .f32s → ∀ i j, i < m → j < n → elemAt t x.core (ob + i * pb + 2 * j) 2
          = (tileElem (coreOf s x.core) (mTile x) i j).2.toNat)
      ∧ (strm t x).reg (28 + mTile x)
          = maxUpdate ((strm s x).reg (28 + mTile x)) (vals.any isNan) 0 (vals.foldl (fun a v => max a (amaxBits v)) 0)
      ∧ (∀ r, r ≠ 28 + mTile x → (strm t x).reg r = (strm s x).reg r)
      ∧ (strm t x).draw = (strm s x).draw + BitVec.ofNat 64 (if f = .bf16Sr then (m * n + 7) / 8 else 0)
    let nothing (i : Instr) : Prop := ∃ t, exec i s = .next t ∧ strm t x = { strm s x with pc := pcAfter (strm s x).pc }
      ∧ t.mem = s.mem ∧ OthersKept s t x.core x.stream ∧ tileAfter t
    (m = 0 ∨ n = 0 → (f = .f32 → nothing (.drainF32 x)) ∧ (f = .f32s → nothing (.drainF32s x))
      ∧ (f = .bf16 → nothing (.drainBf16 x)) ∧ (f = .bf16Sr → nothing (.drainBf16Sr x)))
    ∧ (0 < m → 0 < n → planeCheck ps = none → planesEdge s x.core ps x.ecc = none →
      (f = .f32 → drains (.drainF32 x)) ∧ (f = .f32s → drains (.drainF32s x)) ∧ (f = .bf16 → drains (.drainBf16 x))
      ∧ (f = .bf16Sr → drains (.drainBf16Sr x)))

/-- The oldest operation on a tile, when complete, leaves the list and its flag word in the tile's register. A non-finite tile
sets the overflow flag of the stream's open section, and outside a section raises fault 0x40 under nf_fault; a drain that wrote a
non-finite value sets the overflow flag. -/
def Obligations.MatrixOperationsComplete : Prop :=
  (∀ (l op k : Nat) (o : CoreOp) (s : State), l < numCores → opOf s l op = some o → o.kind = .mma → o.tile = some k → k < 4 →
    oldestOnTile s l o = true → clockStopped s l = false → ∃ t, exec (.mmaComplete l op) s = .next t ∧ (∀ q ∈ (coreOf t l).ops, q.id ≠ op)
      ∧ rd t (CORE_MXU_TILE l k) = o.flags ∧ t.mem = s.mem
      ∧ rdf t (CORE_MXU_STAT l) CORE_MXU_STAT_shoulder_sat
          = min (rdf s (CORE_MXU_STAT l) CORE_MXU_STAT_shoulder_sat + o.sat) 0xFFFFFFFF
      ∧ rdf t (CORE_MXU_STAT l) CORE_MXU_STAT_nf_events
          = min (rdf s (CORE_MXU_STAT l) CORE_MXU_STAT_nf_events + (if o.newly then 1 else 0)) 0xFFFFFFFF
      ∧ (o.nf = true → o.cause ≠ 0 → ∀ z, (strOf s l o.stream).sect = some z →
          ∃ y, (strOf t l o.stream).sect = some y ∧ y.cause = if z.cause = 0 then o.cause else z.cause)
      ∧ (o.nf = true → (strOf s l o.stream).sect = none → (strOf s l o.stream).st = .running →
          rdb s (CORE_MXU_CFG l) CORE_MXU_CFG_nf_fault = true →
          (strOf t l o.stream).st = .halting ∧ (strOf t l o.stream).cause = .fault ∧ (strOf t l o.stream).code = 0x40)
      ∧ (o.nf = true → (strOf s l o.stream).sect = none → (strOf s l o.stream).st = .running →
          rdb s (CORE_MXU_CFG l) CORE_MXU_CFG_nf_fault = false → strOf t l o.stream = strOf s l o.stream))
  ∧ (∀ (l op k : Nat) (o : CoreOp) (s : State), l < numCores → opOf s l op = some o → o.kind = .drain → o.tile = some k →
    k < 4 → oldestOnTile s l o = true → clockStopped s l = false → ∃ t, exec (.drainComplete l op) s = .next t ∧ (∀ q ∈ (coreOf t l).ops, q.id ≠ op)
      ∧ rd t (CORE_MXU_TILE l k) = o.flags ∧ t.mem = s.mem
      ∧ (o.cause ≠ 0 → ∀ z, (strOf s l o.stream).sect = some z →
          ∃ y, (strOf t l o.stream).sect = some y ∧ y.cause = if z.cause = 0 then o.cause else z.cause))

/-! ### Conversions and random values (R202 to R209) -/

/-- The four conversions read n elements of the source format, scale them by 2^e, and write their codes, and the scales of a block
format, to the destination planes and no other byte; the maximum register of rd rises and under .SR the draw counter advances. -/
def Obligations.Conversions : Prop :=
  ∀ (sr sat : Bool) (x : Insn) (fd fs od sd os ss : Nat) (s : State), issues s x (some 3) = true → bitsN x.b 15 0 = 0 →
    x.r0 < 48 → x.r1 < 48 → x.r2 < 48 → x.r3 < 48 → cvtFormat (strm s x) (xFd x) = some fd →
    cvtFormat (strm s x) (xFs x) = some fs → xOperand (blockLen fd ≠ 0) ((strm s x).reg x.r1) = some (od, sd) →
    xOperand (blockLen fs ≠ 0) ((strm s x).reg x.r2) = some (os, ss) → pairAllowed fd fs = true →
    onlyBits ((strm s x).reg x.r3) [(31, 24), (13, 0)] = true →
    let n := bits ((strm s x).reg x.r3) 13 0
    let e := sextN 8 (bits ((strm s x).reg x.r3) 31 24)
    let o := if xFd x = 7 then od * fmtBytes fd else od
    let o' := if xFs x = 7 then os * fmtBytes fs else os
    let xs := cvtSource s x.core fs o' ss n
    let out := cvtEncode fd sat (xs.zipIdx.map (fun v => (fmul v.1 (.fin false 1 e),
      if sr then Rmode.sr (randomOf s x.core x.stream (strm s x).draw v.2) else Rmode.rne)))
    0 < n → n ≤ 8192 → planeCheck (xPlanes fd o sd n ++ xPlanes fs o' ss n) = none →
    wordsBad s x.core (xPlanes fs o' ss n) (xPlanes fd o sd n) x.ecc = none →
    planesApart (xPlanes fs o' ss n) o (o + n * cvtBytes fd) →
    (blockLen fd ≠ 0 → planesApart (xPlanes fs o' ss n ++ [⟨o, 0, 1, n * cvtBytes fd, 1⟩]) sd
      (sd + (n + blockLen fd - 1) / blockLen fd * scaleBytes fd)) →
    ∃ t, exec (cvtInstr sr sat x) s = .next t ∧ opHeld s t x .vector ∧ (strm t x).pc = pcAfter (strm s x).pc
      ∧ ScratchKept s t x.core (xPlanes fd o sd n) ∧ OthersKept s t x.core x.stream
      ∧ (∀ i, i < n → elemAt t x.core (o + i * cvtBytes fd) (cvtBytes fd) = out.codes.getD i 0)
      ∧ (blockLen fd ≠ 0 → ∀ i, i < (n + blockLen fd - 1) / blockLen fd →
          elemAt t x.core (sd + i * scaleBytes fd) (scaleBytes fd) = out.scales.getD i 0)
      ∧ (x.r0 ≠ 0 → (strm t x).reg x.r0 = maxUpdate ((strm s x).reg x.r0) (xs.any isNan) out.sats
          (xs.foldl (fun a v => max a (amaxBits v)) 0))
      ∧ (∀ r, r ≠ x.r0 → (strm t x).reg r = (strm s x).reg r)
      ∧ (strm t x).draw = (strm s x).draw + BitVec.ofNat 64 (if sr then (n + 7) / 8 else 0)

/-- SCALE gives, for a finite nonzero largest magnitude, the largest e with amax × 2^e in the target's range, less m, brought within
−128 to 127, and the fallback otherwise; it changes nothing but its register and the pc. RND.K writes n keyed 16-bit values; RND.F writes
n values of its stream's draws and advances the draw counter; with n = 0 they change nothing but the pc. -/
def Obligations.ScalesAndRandomValues : Prop :=
  (∀ (x : Insn) (s : State), issues s x (some 3) = true → x.r0 < 48 → x.r1 < 48 →
    let i := bitsN x.b 35 0
    let tgt := bitsN i 15 12
    let m := bitsN i 10 8
    i < 65536 → bitsN i 11 11 = 0 → (tgt = 0 ∨ tgt = 1 ∨ tgt = 4 ∨ tgt = 5) → ∃ t v, exec (.scale x) s = .next t
      ∧ strm t x = { (strm s x).setReg x.r0 v with pc := pcAfter (strm s x).pc }
      ∧ t = { s with cores := t.cores } ∧ OthersKept s t x.core x.stream
      ∧ ((isFin (f32 (bits ((strm s x).reg x.r1) 30 0)) = false ∨ isZero (f32 (bits ((strm s x).reg x.r1) 30 0)) = true) →
          v.toInt = sextN 8 (bitsN i 7 0))
      ∧ (∀ k q, f32 (bits ((strm s x).reg x.r1) 30 0) = .fin false k q → k ≠ 0 → -128 ≤ v.toInt ∧ v.toInt ≤ 127
          ∧ ∃ e : Int, magGt (k, q + e) (maxFinite (fmtOf tgt)) = false ∧ magGt (k, q + e + 1) (maxFinite (fmtOf tgt)) = true
            ∧ v.toInt = max (-128) (min 127 (e - m))))
  ∧ (∀ (x : Insn) (keyed : Bool) (o d : Nat) (s : State), issues s x (some 3) = true → bitsN x.b 23 0 = 0 → x.r1 < 48 →
    x.r3 < 48 → (keyed = false → x.r0 = 0 ∧ x.r2 = 0) → x.r0 < 48 → x.r2 < 48 →
    xOperand false ((strm s x).reg x.r1) = some (o, d) → onlyBits ((strm s x).reg x.r3) [(13, 0)] = true →
    (keyed = true → bits ((strm s x).reg x.r0) 63 48 ≠ 0xFFFF) →
    let n := bits ((strm s x).reg x.r3) 13 0
    let key := (strm s x).reg x.r0
    let writes (i : Instr) (value : Nat → Nat) (drawn : Nat) : Prop := ∃ t, exec i s = .next t ∧ opHeld s t x .vector
      ∧ strm t x = { strm s x with pc := pcAfter (strm s x).pc, draw := (strm s x).draw + BitVec.ofNat 64 drawn }
      ∧ OthersKept s t x.core x.stream ∧ ScratchKept s t x.core [⟨o, 0, 1, 2 * n, 2⟩]
      ∧ ∀ j, j < n → elemAt t x.core (o + 2 * j) 2 = value j % 65536
    let nothing (i : Instr) : Prop := ∃ t, exec i s = .next t ∧ strm t x = { strm s x with pc := pcAfter (strm s x).pc }
      ∧ t.mem = s.mem ∧ OthersKept s t x.core x.stream
    n ≤ 8192 →
    (n = 0 → (keyed = true → nothing (.rndK x)) ∧ (keyed = false → nothing (.rndF x)))
    ∧ (0 < n → planeCheck [⟨o, 0, 1, 2 * n, 2⟩] = none → planesEdge s x.core [⟨o, 0, 1, 2 * n, 2⟩] x.ecc = none →
      (keyed = true → writes (.rndK x) (fun j => keyedValue (coreOf s x.core).seed (bits key 31 0) (bits key 63 48) (bits key 47 32)
          (((strm s x).reg x.r2).toNat + j)) 0)
      ∧ (keyed = false → writes (.rndF x) (randomOf s x.core x.stream (strm s x).draw) ((n + 7) / 8))))

/-! ### The vector engine (R226 to R255) -/

/-- Element-wise instructions of one, two and three sources: every element of the destination holds the code of its operation's
result (R236 to R239, R248), rounded once to the destination format, and no byte outside the destination changes. -/
def Obligations.ElementwiseVectors : Prop :=
  (∀ (fn : BitVec 4) (x : Insn) (ecc : Ecc) (c : VCtx) (a d : VOp) (b : VSrc) (s : State), fn.toNat < 6 → x.r3 = 0 → vBc x = 0 →
    vTile c (strm s x) x.r1 (fmtBytes c.fs) (vFs x == 7) = some a → vSrc x c (strm s x) x.r2 (vBb x) = some b →
    vTile c (strm s x) x.r0 (fmtBytes c.fd) (vFd x == 7) = some d → vAccepts s x c false (a :: b.op.toList) [d] ecc →
    vRoom c d (clashOf d (a :: b.op.toList)) → ∃ t, exec (.vectorArith fn x ecc) s = .next t ∧ vHeld s t x c
      ∧ ScratchKept s t x.core d.planes
      ∧ vGives t x c d (fun i => vOut s x c i (arithOp fn.toNat (vVal s x c a c.fs i) (srcVal s x c b i))))
  ∧ (∀ (fn : BitVec 4) (x : Insn) (c : VCtx) (a d : VOp) (b e : VSrc) (s : State), fn.toNat < 3 →
    vTile c (strm s x) x.r1 (fmtBytes c.fs) (vFs x == 7) = some a → vSrc x c (strm s x) x.r2 (vBb x) = some b →
    vSrc x c (strm s x) x.r3 (vBc x) = some e → vTile c (strm s x) x.r0 (fmtBytes c.fd) (vFd x == 7) = some d →
    vAccepts s x c false (a :: (b.op.toList ++ e.op.toList)) [d] x.ecc →
    vRoom c d (clashOf d (a :: (b.op.toList ++ e.op.toList))) → ∃ t, exec (.vfma fn x) s = .next t ∧ vHeld s t x c
      ∧ ScratchKept s t x.core d.planes
      ∧ vGives t x c d (fun i => vOut s x c i (fmaOp fn.toNat (vVal s x c a c.fs i) (srcVal s x c b i) (srcVal s x c e i))))
  ∧ (∀ (fn : BitVec 4) (x : Insn) (c : VCtx) (a d : VOp) (s : State), x.r2 = 0 → x.r3 = 0 → vBb x = 0 → vBc x = 0 →
    vTile c (strm s x) x.r1 (fmtBytes c.fs) (vFs x == 7) = some a →
    vTile c (strm s x) x.r0 (fmtBytes c.fd) (vFd x == 7) = some d → vAccepts s x c false [a] [d] x.ecc →
    vRoom c d (clashOf d [a]) →
    (fn.toNat < 8 → ∃ t k, exec (.vectorUnary fn x) s = .next t ∧ vHeld s t x c ∧ ScratchKept s t x.core d.planes
      ∧ vGives t x c d (fun i => vOut s x c i (unaryOp fn.toNat k i (vVal s x c a c.fs i))))
    ∧ (fn.toNat < 4 → ∃ t k, exec (.activation fn x) s = .next t ∧ vHeld s t x c ∧ ScratchKept s t x.core d.planes
      ∧ vGives t x c d (fun i => vOut s x c i (activationOp fn.toNat k i (vVal s x c a c.fs i)))))
  ∧ (∀ (x : Insn) (c : VCtx) (a d : VOp) (s : State), vBb x = 0 → vBc x = 0 → x.r2 < 48 → x.r3 < 48 →
    vTile c (strm s x) x.r1 (fmtBytes c.fs) (vFs x == 7) = some a →
    vTile c (strm s x) x.r0 (fmtBytes c.fd) (vFd x == 7) = some d → vAccepts s x c true [a] [d] x.ecc →
    vRoom c d (clashOf d [a]) →
    let key := (strm s x).reg x.r2
    let thr := bitsN c.param 15 0
    let stride := if bitsN c.param 31 16 = 0 then c.w else bitsN c.param 31 16
    let rnd (i : Nat) : Nat := keyedValue (coreOf s x.core).seed (bits key 31 0) (bits key 63 48) (bits key 47 32)
      ((((strm s x).reg x.r3).toNat + i / c.w * stride + i % c.w) % 2 ^ 64)
    bits key 63 48 ≠ 0xFFFF → ∃ t, exec (.vdrop x) s = .next t ∧ vHeld s t x c ∧ ScratchKept s t x.core d.planes
      ∧ vGives t x c d (fun i => vOut s x c i (if thr ≤ rnd i then fmul (vVal s x c a c.fs i) (dropScale thr) else fZero)))

/-- GELU and SILU write their results and, to the plane of rb, the slope byte of every element; the derivatives of opcode 0x54 take
the saved output, or the slope byte, and the gradient. -/
def Obligations.ActivationSlopes : Prop :=
  (∀ (fn : BitVec 4) (x : Insn) (c : VCtx) (a q d : VOp) (s : State), (fn.toNat = 4 ∨ fn.toNat = 5) → x.r3 = 0 → vBb x = 0 →
    vBc x = 0 → vTile c (strm s x) x.r1 (fmtBytes c.fs) (vFs x == 7) = some a → vTile c (strm s x) x.r2 1 false = some q →
    vTile c (strm s x) x.r0 (fmtBytes c.fd) (vFd x == 7) = some d → vAccepts s x c false [a] [d, q] x.ecc →
    vRoom c d (clashOf d [a] ++ q.planes) → vRoom c q (clashOf q [a] ++ d.planes) →
    ∃ t k, exec (.activation fn x) s = .next t ∧ vHeld s t x c ∧ ScratchKept s t x.core (d.planes ++ q.planes)
      ∧ vGives t x c d (fun i => vOut s x c i (activationOp fn.toNat k (2 * i) (vVal s x c a c.fs i)))
      ∧ vGives t x c q (fun i => slopeOf k (2 * i + 1) (fn.toNat == 5) (vVal s x c a c.fs i)))
  ∧ (∀ (fn : BitVec 4) (x : Insn) (c : VCtx) (y g d : VOp) (s : State), fn.toNat < 7 → x.r3 = 0 → vBb x = 0 → vBc x = 0 →
    (if fn.toNat = 4 ∨ fn.toNat = 5 then vTile c (strm s x) x.r1 1 false
      else vTile c (strm s x) x.r1 (fmtBytes c.fs) (vFs x == 7)) = some y →
    vTile c (strm s x) x.r2 (fmtBytes c.fs) (vFs x == 7) = some g →
    vTile c (strm s x) x.r0 (fmtBytes c.fd) (vFd x == 7) = some d → vAccepts s x c false [y, g] [d] x.ecc →
    vRoom c d (clashOf d [y, g]) → ∃ t k, exec (.activationBackward fn x) s = .next t ∧ vHeld s t x c
      ∧ ScratchKept s t x.core d.planes
      ∧ vGives t x c d (fun i => vOut s x c i (if fn.toNat = 4 ∨ fn.toNat = 5
          then slopeBack (elemAt s x.core (vAt c y i) 1) (vVal s x c g c.fs i)
          else backOp fn.toNat k i (vVal s x c y c.fs i) (vVal s x c g c.fs i))))

/-- Row reductions leave one value per row (two for RSTAT) in their vector; scans leave every element the sum of its segment up to
it; both round once to the destination format (R240, R241).
The softmax of each row, with its maximum and its sum where rc names them, and the softmax gradient (R242 to R244). -/
def Obligations.RowReductionsAndSoftmax : Prop :=
  (∀ (fn : BitVec 4) (x : Insn) (c : VCtx) (a d : VOp) (s : State), fn.toNat < 5 → x.r2 = 0 → x.r3 = 0 → vBb x = 0 → vBc x = 0 →
    (fn.toNat = 4 → c.fd = 6) →
    let per := if fn.toNat = 4 then 2 else 1
    vTile c (strm s x) x.r1 (fmtBytes c.fs) (vFs x == 7) = some a →
    vVec (strm s x) x.r0 (fmtBytes c.fd) (per * c.rows) (fmtBytes c.fd) (vFd x == 7) = some d →
    vAccepts s x c false [a] [d] x.ecc → planesApart (clashOf d [a]) d.off (d.off + per * c.rows * d.size) →
    ∃ t k, exec (.rowReduction fn x) s = .next t ∧ vHeld s t x c ∧ ScratchKept s t x.core d.planes
      ∧ ∀ r q, r < c.rows → q < per → elemAt t x.core (d.off + (r * per + q) * d.size) d.size
          = vOut s x c r ((reduceRow fn.toNat k (2 * r) (rowVals s x c a r)).getD q fZero))
  ∧ (∀ (fn : BitVec 4) (x : Insn) (c : VCtx) (a f d : VOp) (s : State), fn.toNat < 4 → x.r3 = 0 → vBb x = 0 → vBc x = 0 →
    let seg := fn.toNat % 2 == 1
    (seg = false → x.r2 = 0) → vTile c (strm s x) x.r1 (fmtBytes c.fs) (vFs x == 7) = some a →
    (if seg then vVec (strm s x) x.r2 1 ((c.n + 7) / 8) 0 false else some ⟨0, 0, 0, []⟩) = some f →
    vTile c (strm s x) x.r0 (fmtBytes c.fd) (vFd x == 7) = some d → vAccepts s x c false [a, f] [d] x.ecc →
    vRoom c d (clashOf d (if seg then [a, { f with size := 0 }] else [a])) →
    let flag (i : Nat) : Bool := seg && bitsN (elemAt s x.core (f.off + i / 8) 1) (i % 8) (i % 8) == 1
    ∃ t k, exec (.scan fn x) s = .next t ∧ vHeld s t x c ∧ ScratchKept s t x.core d.planes
      ∧ vGives t x c d (fun i => vOut s x c i ((scanRow (decide (2 ≤ fn.toNat)) k (i / c.w * c.w) flag
          (rowVals s x c a (i / c.w))).getD (i % c.w) fZero)))
  ∧ (∀ (x : Insn) (c : VCtx) (a p d : VOp) (s : State), x.r2 = 0 → vBb x = 0 → vBc x = 0 →
    vTile c (strm s x) x.r1 (fmtBytes c.fs) (vFs x == 7) = some a →
    (if x.r3 = 0 then some ⟨0, 0, 0, []⟩ else vVec (strm s x) x.r3 4 (2 * c.rows) 4 false) = some p →
    vTile c (strm s x) x.r0 (fmtBytes c.fd) (vFd x == 7) = some d →
    vAccepts s x c true [a] (if x.r3 = 0 then [d] else [d, p]) x.ecc →
    vRoom c d (clashOf d [a] ++ p.planes) →
    (x.r3 ≠ 0 → planesApart (a.planes ++ d.planes) p.off (p.off + 8 * c.rows)) →
    ∃ t k, exec (.smaxF x) s = .next t ∧ vHeld s t x c ∧ ScratchKept s t x.core (d.planes ++ p.planes)
      ∧ vGives t x c d (fun i => vOut s x c i ((smaxRow k (i / c.w * (c.w + 1)) (f32 c.param)
          (rowVals s x c a (i / c.w))).1.getD (i % c.w) fZero))
      ∧ (x.r3 ≠ 0 → ∀ r, r < c.rows →
          elemAt t x.core (p.off + 8 * r) 4 = (smaxRow k (r * (c.w + 1)) (f32 c.param) (rowVals s x c a r)).2.1.1
          ∧ elemAt t x.core (p.off + 8 * r + 4) 4 = (smaxRow k (r * (c.w + 1)) (f32 c.param) (rowVals s x c a r)).2.1.2))
  ∧ (∀ (x : Insn) (c : VCtx) (y g d : VOp) (s : State), x.r3 = 0 → vBb x = 0 → vBc x = 0 →
    vTile c (strm s x) x.r1 (fmtBytes c.fs) (vFs x == 7) = some y →
    vTile c (strm s x) x.r2 (fmtBytes c.fs) (vFs x == 7) = some g →
    vTile c (strm s x) x.r0 (fmtBytes c.fd) (vFd x == 7) = some d → vAccepts s x c false [y, g] [d] x.ecc →
    vRoom c d (clashOf d [y, g]) → ∃ t k, exec (.smaxB x) s = .next t ∧ vHeld s t x c ∧ ScratchKept s t x.core d.planes
      ∧ vGives t x c d (fun i => vOut s x c i ((smaxBRow k (i / c.w) (rowVals s x c y (i / c.w))
          (rowVals s x c g (i / c.w))).getD (i % c.w) fZero)))

/-- LN.F and RMS.F normalise each row by its statistics, scale by γ and, for LN.F, add β; LN.B, RMS.B and their .BSUM forms add each
row's contribution to dγ in row order and change no byte outside the destination, dγ, dβ and the records (R245 to R247). -/
def Obligations.Normalisations : Prop :=
  (∀ (rms : Bool) (x : Insn) (c : VCtx) (a d : VOp) (o : NormOps) (s : State), x.r2 = 0 → vBb x = 0 → vBc x ≤ 1 →
    let ext := vBc x == 1
    vTile c (strm s x) x.r1 (fmtBytes c.fs) (vFs x == 7) = some a → normOps x (strm s x) (!rms) ext = some o →
    vTile c (strm s x) x.r0 (fmtBytes c.fd) (vFd x == 7) = some d →
    vAccepts s x c (!ext) (a :: normAux o c rms ext) [d] x.ecc → vRoom c d (clashOf d (a :: normAux o c rms ext)) →
    ∃ t k, exec (.lnF rms x) s = .next t ∧ vHeld s t x c ∧ ScratchKept s t x.core d.planes
      ∧ vGives t x c d (fun i =>
        let st := statsOf s x.core rms ext k (4 * (i / c.w)) c.param c.w o.stats (i / c.w) (rowVals s x c a (i / c.w))
        let xh := rnd32 (fmul (rnd32 (fsub (vVal s x c a c.fs i) st.1)) st.2)
        let y := fmul xh (f32At s x.core (o.gamma + 4 * (i % c.w)))
        vOut s x c i (rnd32 (if rms then y else fadd y (f32At s x.core (o.second + 4 * (i % c.w)))))))
  ∧ (∀ (rms sum : Bool) (x : Insn) (c : VCtx) (a g d : VOp) (o : NormOps) (s : State), (sum = true → x.r0 = 0 ∧ vBc x = 1) →
    vBb x = 0 → vBc x ≤ 1 →
    let ext := vBc x == 1
    let pd : VOp := planeOp ⟨o.second, 0, 1, 4 * min c.w c.n, 4⟩
    let pb : VOp := planeOp ⟨o.second + 4 * c.w, 0, 1, 4 * min c.w c.n, 4⟩
    let sp : VOp := planeOp ⟨o.stats, 16, c.rows, 16, 4⟩
    let srcs := [a, g, planeOp ⟨o.gamma, 0, 1, 4 * min c.w c.n, 4⟩, pd] ++ (if rms then [] else [pb]) ++ (if ext then [sp] else [])
    vTile c (strm s x) x.r1 (fmtBytes c.fs) (vFs x == 7) = some a →
    vTile c (strm s x) x.r2 (fmtBytes c.fs) (vFs x == 7) = some g → normOps x (strm s x) true ext = some o →
    (if sum then some ⟨0, 0, 0, []⟩ else vTile c (strm s x) x.r0 (fmtBytes c.fd) (vFd x == 7)) = some d →
    vAccepts s x c (!ext && !sum) srcs (if sum then [] else [d]) x.ecc →
    planesApart (clashOf pd srcs ++ d.planes) o.second (o.second + 4 * min c.w c.n) →
    ∃ t k, exec (if sum then .lnBsum rms x else .lnB rms x) s = .next t
      ∧ (strm t x).pc = pcAfter (strm s x).pc ∧ opHeld s t x .vector ∧ OthersKept s t x.core x.stream
      ∧ ScratchKept s t x.core (d.planes ++ pd.planes ++ pb.planes ++ (if sum then sp.planes else []))
      ∧ ∀ j, j < min c.w c.n → elemAt t x.core (o.second + 4 * j) 4
          = (accumulate s x.core o.second (min c.w c.n) ((upto c.rows).map (fun r =>
              let st := statsOf s x.core rms ext k (8 * r) c.param c.w o.stats r (rowVals s x c a r)
              List.zipWith fmul (rowVals s x c g r) (normRow st.1 st.2 (rowVals s x c a r))))).getD j 0)

/-- RDVF leaves the stream's flag word in rd and clears it; the oldest vector operation, when complete, leaves the list, its first
non-finite and its empty rows enter the stream's flag word and are counted, the open section overflows or, outside one and where
nf_fault was 1, fault 0x60 is raised; the clears clear what they name. -/
def Obligations.VectorFlags : Prop :=
  (∀ (x : Insn) (s : State), issues s x (some 3) = true → bitsN x.b 41 0 = 0 → x.r0 < 48 →
    (∀ o ∈ (coreOf s x.core).ops, o.stream = x.stream → o.kind ≠ .vector) → ∃ t, exec (.rdvf x) s = .next t
      ∧ strm t x = { (strm s x).setReg x.r0 (rd s (CORE_VEC_FLAGS x.core (strNum x.stream))) with pc := pcAfter (strm s x).pc }
      ∧ rd t (CORE_VEC_FLAGS x.core (strNum x.stream)) = 0 ∧ RegsKept s t [CORE_VEC_FLAGS x.core (strNum x.stream)]
      ∧ t.mem = s.mem)
  ∧ (∀ (l op : Nat) (o : CoreOp) (s : State), l < numCores → clockStopped s l = false → opOf s l op = some o → o.kind = .vector →
    ((coreOf s l).ops.filter (fun q => q.kind == .vector)).head?.map (·.id) = some op →
    let fl := CORE_VEC_FLAGS l (strNum o.stream)
    ∃ t, exec (.vectorInstructionComplete l op) s = .next t ∧ (∀ q ∈ (coreOf t l).ops, q.id ≠ op) ∧ t.mem = s.mem
      ∧ (∀ i nan inf, o.vnf = some (i, nan, inf) → rdb t fl CORE_VEC_FLAGS_nonfinite = true
          ∧ (nan = true → rdb t fl CORE_VEC_FLAGS_nan = true) ∧ (inf = true → rdb t fl CORE_VEC_FLAGS_inf = true)
          ∧ (rdb s fl CORE_VEC_FLAGS_nonfinite = false → rdf t fl CORE_VEC_FLAGS_first_nf = i % 2 ^ 13)
          ∧ (rdb s fl CORE_VEC_FLAGS_nonfinite = true →
              rdf t fl CORE_VEC_FLAGS_first_nf = rdf s fl CORE_VEC_FLAGS_first_nf))
      ∧ (∀ r n, o.vempty = some (r, n) → rdb t fl CORE_VEC_FLAGS_empty = true
          ∧ rdf t fl CORE_VEC_FLAGS_empty_count = min (rdf s fl CORE_VEC_FLAGS_empty_count + n) 0xFFFF)
      ∧ (o.vnf = none → o.vempty = none → rd t fl = rd s fl)
      ∧ (o.cause ≠ 0 → ∀ z, (strOf s l o.stream).sect = some z →
          ∃ y, (strOf t l o.stream).sect = some y ∧ y.cause = if z.cause = 0 then o.cause else z.cause)
      ∧ (o.vnf.isSome = true → o.fault = true → (strOf s l o.stream).sect = none → (strOf s l o.stream).st = .running →
          (strOf t l o.stream).st = .halting ∧ (strOf t l o.stream).cause = .fault ∧ (strOf t l o.stream).code = 0x60))
  ∧ (∀ (l : Nat) (s : State), l < numCores → s.boot.pg = true → ∃ t, exec (.vecStatClear l) s = .next t ∧ rd t (CORE_VEC_STAT l) = 0
      ∧ OnlyRegs s t [CORE_VEC_STAT l])
  ∧ (∀ (l : Nat) (u : StreamId) (d : Word) (s : State), l < numCores → s.boot.pg = true →
    let fl := CORE_VEC_FLAGS l (strNum u)
    ∃ t, exec (.vecFlagsClear l u d) s = .next t ∧ OnlyRegs s t [fl]
      ∧ (bit d 63 = true → rdb t fl CORE_VEC_FLAGS_nonfinite = false ∧ rdb t fl CORE_VEC_FLAGS_nan = false
          ∧ rdb t fl CORE_VEC_FLAGS_inf = false ∧ rdf t fl CORE_VEC_FLAGS_first_nf = 0)
      ∧ (bit d 63 = false → rdb t fl CORE_VEC_FLAGS_nonfinite = rdb s fl CORE_VEC_FLAGS_nonfinite
          ∧ rdf t fl CORE_VEC_FLAGS_first_nf = rdf s fl CORE_VEC_FLAGS_first_nf
          ∧ (rdb t fl CORE_VEC_FLAGS_nan = (rdb s fl CORE_VEC_FLAGS_nan && !bit d 62))
          ∧ (rdb t fl CORE_VEC_FLAGS_inf = (rdb s fl CORE_VEC_FLAGS_inf && !bit d 61)))
      ∧ (bit d 60 = true → rdb t fl CORE_VEC_FLAGS_empty = false ∧ rdf t fl CORE_VEC_FLAGS_empty_count = 0
          ∧ rdf t fl CORE_VEC_FLAGS_first_empty_row = 0)
      ∧ (bit d 60 = false → rdb t fl CORE_VEC_FLAGS_empty = rdb s fl CORE_VEC_FLAGS_empty))

/-! ### Milestones, stages and configuration registers (chapters 00 and 02) -/

/-- A write of a register, by the host through BAR0, a management core, the monitor, or a peer's management core, where that path may
write (R12, R14, R39): of the registers that only hold what is written, a read-write field that the access covers takes the value, of a
W1C field the bits written 1 are cleared, and every other field keeps its own; a write of a read-only register changes nothing; an
access of a bad width or alignment changes nothing and is counted, and one of the host beyond the mapped space likewise. -/
def Obligations.RegisterWrites : Prop :=
  (∀ (src : Path) (off width : Nat) (d : Word) (s : State), pathWrites s src → accessOk off width = true → off / 8 * 8 ∈ heldRegs →
    let o := off / 8 * 8
    ∃ t, exec (.registerWrite src off width d) s = .next t ∧ OnlyRegs s t [o]
      ∧ ∀ f ∈ layoutAt o, rdf t o f.fld = fieldAfter f (if off % 8 = 0 then 0 else 32) (if width = 8 ∨ off % 8 ≠ 0 then 64 else 32)
          d.toNat (rdf s o f.fld))
  ∧ (∀ (src : Path) (off width : Nat) (d : Word) (s : State), pathWrites s src → accessOk off width = true → off / 8 * 8 ∈ shownRegs →
    ∃ t, exec (.registerWrite src off width d) s = .next t ∧ OnlyRegs s t [] ∧ rd t (off / 8 * 8) = rd s (off / 8 * 8))
  ∧ (∀ (src : Path) (off width : Nat) (d : Word) (s : State), pathWrites s src → off < configMapped → accessOk off width = false →
    ∃ t, exec (.registerWrite src off width d) s = .next t ∧ OnlyRegs s t [HST_ERR]
      ∧ rdf t HST_ERR HST_ERR_bad_access = (rdf s HST_ERR HST_ERR_bad_access + 1) % 2 ^ HST_ERR_bad_access.width)
  ∧ (∀ (off width : Nat) (d : Word) (s : State), hostArrives s = true → s.pcie.d3hot = false → configMapped ≤ off →
    s.boot.rb = 0 → ∃ t, exec (.registerWrite .host off width d) s = .next t ∧ OnlyRegs s t [HST_ERR]
      ∧ rdf t HST_ERR HST_ERR_ur = (rdf s HST_ERR HST_ERR_ur + 1) % 2 ^ HST_ERR_ur.width)
  ∧ (∀ (off width : Nat) (d : Word) (s : State), s.sec.running = false → exec (.registerWrite .mgmt off width d) s = .next s)

/-- A milestone that cannot fire changes nothing. One that fires opens the next stage at the time it fires: on the root its stage
number is the next, elsewhere the root's, no late is known, every synchronisation counter is 0 and the streams that wait for a milestone
run. The late sample holds late what is not done, the service slot begins once, the stretch limit halts late cores, and enabling
milestones opens stage 0 on the root. -/
def Obligations.MilestonesOpenStages : Prop :=
  (∀ (r : RootWord) (ph : List Nat) (s : State), fireTime s r = none → exec (.milestone ⟨r, ph⟩) s = .next s)
  ∧ (∀ (r : RootWord) (ph : List Nat) (s : State) (d : Nat), fireTime s r = some d → keepState s ≠ 1 →
    ∃ t, exec (.milestone ⟨r, ph⟩) s = .next t
      ∧ (s.mst.told = none → stageNow t = if isRoot s then (stageNow s + 1) % 2 ^ 48 else r.stage % 2 ^ 48)
      ∧ t.mst.joined = true ∧ t.mst.opened = d ∧ t.mst.sampled = false ∧ t.mst.slotOn = false
      ∧ t.mst.late = [] ∧ t.mst.seen = false
      ∧ t.mst.due = (if (if isRoot s then tickInput s && !s.mst.tickLost else r.ext) then none else some (d + periodNs t))
      ∧ (∀ l, (coreOf t l).ctrs = [])
      ∧ ∀ l u, (strOf s l u).st = .waiting → (strOf s l u).wait = none → (strOf t l u).st = .running)
  ∧ (∀ (s : State), takesPart s = true → s.mst.joined = true → s.mst.sampled = false → ∃ t, exec .lateSample s = .next t
      ∧ t.mst.sampled = true ∧ t.mst.late = lateHolds (planEvaluate (advanceTo s (samplePoint s)))
      ∧ (t.mst.late ≠ [] → t.mst.seen = true))
  ∧ (∀ (m : SlotIn) (s : State), member s = true → ∃ t, exec (.serviceSlot m) s = .next t ∧ t.mst.slotOn = true)
  ∧ (∀ (m : SlotIn) (s : State), member s = false → keepState s ≠ 2 → exec (.serviceSlot m) s = .next (m.strikes.foldl strike s))
  ∧ (∀ (s : State) (d : Nat), s.mst.due = some d → member s = true → s.mst.seen = true → s.mst.limitHit = false →
    s.mst.limit ≠ 0 → ∃ t, exec .stretchLimit s = .next t ∧ t.mst.limitHit = true
      ∧ ∀ m ∈ s.mst.late, m.1 = 0 → ∀ u, strOf t m.2.1 u = (strOf s m.2.1 u).halting .overrun 0x20)
  ∧ (∀ (s : State), s.mst.seen = false → exec .stretchLimit s = .next s)
  ∧ (∀ (s : State), deviceReady s = true → rdb s MST_CTRL MST_CTRL_enable = false → isRoot s = true →
    (inFabric s = true → s.fab.noRoot = false) →
    ∃ t, exec .mstEnable s = .next t ∧ rdb t MST_CTRL MST_CTRL_enable = true
      ∧ t.mst = { s.mst with joined := true, opened := now s, due := if tickInput s then none else some (now s + periodNs s)
                             enabledAt := now s, seen := s.mst.seen || s.mst.told.isSome } ∧ RegsKept s t [MST_CTRL])
  ∧ (∀ (s : State), deviceReady s = true → rdb s MST_CTRL MST_CTRL_enable = false → isRoot s = false →
    ∃ t, exec .mstEnable s = .next t ∧ rdb t MST_CTRL MST_CTRL_enable = true ∧ t.mst = { s.mst with enabledAt := now s }
      ∧ RegsKept s t [MST_CTRL])

/-- The signals of the late tree and the release: late and release stretch the stage of a member, a device that takes no part has
nothing late of its own, a child's clear is noted once, a signal on a port that is not Active changes nothing. -/
def Obligations.LateTreeSignals : Prop :=
  (∀ (p : Nat) (n : BitVec 12) (s : State), p < 36 → portActive s p = true → member s = true →
    stageNow s % 4096 = n.toNat → s.fab.lateFor ≠ some (stageNow s) → ∃ t, exec (.lateSignal p n) s = .next t
      ∧ t.mst.seen = true ∧ t.fab.lateFor = some (stageNow s))
  ∧ (∀ (p : Nat) (n : BitVec 12) (s : State), p < 36 → portActive s p = true → member s = false → s.fab.lateFor ≠ some n.toNat →
    ∃ t, exec (.lateSignal p n) s = .next t ∧ t.mst.seen = true ∧ t.mst.late = [] ∧ t.fab.lateFor = some n.toNat
      ∧ ∀ o, (o < CWY_PORT_CTRL 0 ∨ CWY_PORT_CTRL 36 ≤ o) → rd t o = rd s o)
  ∧ (∀ (p : Nat) (n : BitVec 12) (s : State), p < 36 → portActive s p = true → s.fab.lateFor.map (· % 4096) = some n.toNat →
    portNeighbour s p ∈ children s → portNeighbour s p ∉ s.fab.clears → ∃ t, exec (.clearSignal p n) s = .next t
      ∧ t.fab.clears = s.fab.clears ++ [portNeighbour s p])
  ∧ (∀ (p r n : Nat) (s : State), p < 36 → portActive s p = true → fromParent s p = true → controlFits s p →
    ∃ t, exec (.releaseFrame p r n) s = .next t
      ∧ (member s = true → t.mst.release = some r ∧ t.mst.told = some n ∧ t.mst.hold = false ∧ t.mst.seen = true)
      ∧ (member s = false → t.mst = s.mst ∧ ∀ o, (o < CWY_PORT_CTRL 0 ∨ CWY_PORT_CTRL 36 ≤ o) → rd t o = rd s o))
  ∧ (∀ (p at_ : Nat) (s : State), p < 36 → portActive s p = true → fromParent s p = true → member s = true → controlFits s p →
    ∃ t, exec (.scheduleAnnounce p at_) s = .next t ∧ t.mst.due = some at_)
  ∧ (∀ (p pt rtt e : Nat) (h : Bool) (s : State), p < 36 → portActive s p = true → portNeighbour s p ∉ children s →
    fromParent s p = true → controlFits s p → ∃ t, exec (.timeSyncFrame p pt rtt e h) s = .next t ∧ now t = (pt + rtt / 2) % 2 ^ 64
      ∧ rdf t CWY_TIME CWY_TIME_err_ps = e % 2 ^ CWY_TIME_err_ps.width
      ∧ (h = false → rdb t CWY_TIME CWY_TIME_sync_lost = true))
  ∧ (∀ (s : State) (d p : Nat), inFabric s = true → isRoot s = false → parentOf s (selfId s) = some d →
    portTo s d = some p → exec .timeSyncTimer s = .next (sendControl s p 3 [now s]))
  ∧ (∀ (s : State), inFabric s = false → exec .timeSyncTimer s = .next s)
  ∧ (∀ (p pt rtt e r n : Nat) (w : BitVec 12) (h : Bool) (s : State), p < 36 → portActive s p = false →
      exec (.lateSignal p w) s = .next s ∧ exec (.clearSignal p w) s = .next s ∧ exec (.releaseFrame p r n) s = .next s
      ∧ exec (.scheduleAnnounce p n) s = .next s ∧ exec (.timeSyncFrame p pt rtt e h) s = .next s)

/-- The external tick and timing requests: an edge schedules the milestone one lead later or is ignored; a missing edge schedules
two periods after the last milestone; the tick mode claims or releases the pin; an accepted request is kept for the stage after
the next, one refused sets bad_request, and only the root takes requests. -/
def Obligations.TicksAndTimingRequests : Prop :=
  (∀ (e : Nat) (s : State), takesPart s = true → isRoot s = true → tickInput s = true → s.mst.joined = true →
    s.mst.due = none ∨ s.mst.tickLost = true ∧ (s.mst.seen = true → ∀ d ∈ s.mst.due, e < d) →
    2 * s.mst.opened + periodNs s ≤ 2 * e → ∃ t, exec (.msTickEdge e) s = .next t
      ∧ t.mst.due = some (e + leadNs s) ∧ t.mst.tickLost = false
      ∧ (e < nominal s - leadNs s → t.mst.sampled = true ∧ (s.mst.sampled = false → t.mst.slotOver = true)))
  ∧ (∀ (e : Nat) (s : State), takesPart s = true → isRoot s = true → tickInput s = true → s.mst.joined = true →
    2 * e < 2 * s.mst.opened + periodNs s ∨ s.mst.due.isSome = true ∧ s.mst.tickLost = false
      ∨ s.mst.seen = true ∧ (∃ d ∈ s.mst.due, d ≤ e) → ∃ t, exec (.msTickEdge e) s = .next t
      ∧ rdb t MST_STATUS MST_STATUS_tick_ignored = true ∧ t.mst = s.mst)
  ∧ (∀ (s : State), takesPart s = true → isRoot s = true → tickInput s = true → s.mst.joined = true →
    s.mst.due = none → ∃ t, exec .tickMissed s = .next t
      ∧ t.mst.due = some (s.mst.opened + 2 * periodNs s) ∧ t.mst.tickLost = true
      ∧ rdb t MST_STATUS MST_STATUS_tick_missed = true)
  ∧ (∀ (m : BitVec 2) (s : State), deviceReady s = true → m.toNat = 1 ∨ m.toNat = 2 →
    rdf s (SEC_OWN 0) SEC_OWN_owner = 0 → ∃ t, exec (.mstTickModeWrite m) s = .next t
      ∧ rdf t MST_TICK_PIN MST_TICK_PIN_mode = m.toNat ∧ rdf t (SEC_OWN 0) SEC_OWN_owner = m.toNat
      ∧ rdb t MST_TICK_PIN MST_TICK_PIN_claimed = true ∧ rdb t MST_TICK_PIN MST_TICK_PIN_conflict = false
      ∧ RegsKept s t [MST_TICK_PIN, SEC_OWN 0, MST_STATUS]
      ∧ (m.toNat = 1 → member s = true → isRoot s = true → tickInput s = false → s.mst.release = none → s.mst.seen = false →
        t.mst.due = none))
  ∧ (∀ (s : State), member s = true → isRoot s = true → tickInput s = true → s.mst.due = none →
    ∃ t, exec (.mstTickModeWrite 0) s = .next t ∧ rdf t MST_TICK_PIN MST_TICK_PIN_mode = 0 ∧ rdf t (SEC_OWN 0) SEC_OWN_owner = 0
      ∧ t.mst.due = some (if now s + leadNs s ≤ nominal s then nominal s else now s + leadNs s))
  ∧ (∀ (m : BitVec 2) (s : State), deviceReady s = true → m.toNat = 1 ∨ m.toNat = 2 →
    rdf s (SEC_OWN 0) SEC_OWN_owner ≠ 0 → rdf s (SEC_OWN 0) SEC_OWN_owner ≠ m.toNat →
    ∃ t, exec (.mstTickModeWrite m) s = .next t ∧ rdf t MST_TICK_PIN MST_TICK_PIN_mode = rdf s MST_TICK_PIN MST_TICK_PIN_mode
      ∧ rdb t MST_TICK_PIN MST_TICK_PIN_conflict = true ∧ OnlyRegs s t [MST_TICK_PIN, SEC_OWN 0])
  ∧ (∀ (s : State), exec (.mstTickModeWrite 3) s = .next s)
  ∧ (∀ (p : TimingParam) (v : Nat) (s : State), deviceReady s = true → isRoot s = true → ∃ t,
    exec (.timingRequest p v) s = .next t
      ∧ (∀ w, timingCheck s p v = some w → t.mst = { s.mst with reqs := s.mst.reqs ++ [(p, w, stageNow s)] })
      ∧ (timingCheck s p v = none → t.mst = s.mst ∧ rdb t MST_STATUS MST_STATUS_bad_request = true)
      ∧ periodNs t = periodNs s ∧ slotPermille t = slotPermille s ∧ leadNs t = leadNs s)
  ∧ (∀ (p : TimingParam) (v : Nat) (s : State), isRoot s = false → exec (.timingRequest p v) s = .next s)
  ∧ (∀ (cs : List Candidate) (s : State), inFabric s = true → isRoot s = false → ∃ t, exec (.rootLost cs) s = .next t
      ∧ rdb t MST_STATUS MST_STATUS_root_change = true
      ∧ (∀ c, electionWinner (candidates s cs) = some c → t.fab.root = c.dev
          ∧ rdb t MST_STATUS MST_STATUS_is_root = (c.dev == selfId s)))
  ∧ (∀ (cs : List Candidate) (s : State), isRoot s = true → exec (.rootLost cs) s = .next s)

/-! ### The Kerb engines (chapter 09) -/

/-- Kerb commands: KCMD submits the block it reads; SHARD.OPEN takes the lowest free index for a valid record; SHARD.CLOSE ends
an unused shard and answers busy otherwise; LEASE grants a version or answers stale, or parks; RELEASE ends a lease; a parked
command whose wait is over is queued and stamped again; a finished command leaves its engine, and its stream's counter rises. -/
def Obligations.KerbCommands : Prop :=
  (∀ (x : Insn) (s : State) (a : Nat) (y : RoLine) (b : KBlockF), issues s x (some 1) = true → bitsN x.b 37 36 = 0 → x.r0 < 48 →
    atOffset ((strm s x).reg x.r0) x.imm a → a % 64 = 0 → (strm s x).sect = none → roReadable s a 64 = true →
    kerbOpen s x.core x.stream < 8 → slotFree s x.core x.stream = true →
    (coreOf s x.core).ro.find? (fun z => z.kind == .desc && z.line == localForm s a / 256) = some y →
    kblockOf ((upto 8).map (wordAt ((y.data.drop (a % 256)).take 64))) = some b →
    ∃ t, exec (.kcmd x) s = .next t ∧ strm t x = { strm s x with pc := pcAfter (strm s x).pc }
      ∧ (coreOf t x.core).kcmds = (coreOf s x.core).kcmds ++ [(s.nextId, x.stream, if x.ctrEn then some x.e else none)]
      ∧ s.nextId < t.nextId
      ∧ (rdb s CWY_SELF_ID CWY_SELF_ID_id_valid = true → knownDevice s b.dev = true → b.dev = selfId s →
          handleEngine b.handle < 36 → cmdsIn s (handleEngine b.handle) .queued < 64 → cmdsIn s (handleEngine b.handle) .offered = 0 →
          ∃ c, (engOf t (handleEngine b.handle)).cmds = (engOf s (handleEngine b.handle)).cmds ++ [c] ∧ c.id = s.nextId
            ∧ c.op = b.op ∧ c.handle = b.handle ∧ c.status = b.status ∧ c.arg0 = b.arg0 ∧ c.arg2 = b.arg2
            ∧ c.phase = .queued ∧ c.stamp = stageNow s + b.span))
  ∧ (∀ (k id : Nat) (c : KCmd) (i : Nat) (d : List Byte) (s u : State), kerbRuns s k id 1 c → c.arg0.toNat % 128 = 0 →
    (upto 1024).find? (fun j => !smHas (engOf s k).shards j) = some i → engineRead s .kerb c.arg0.toNat 128 = (some d, u) →
    (∀ x, shardOfRecord u d (shardGen (engOf u k) i) = some x → ∃ t, exec (.shardOpen k id) s = .next (lateSettle (admitCmd t k))
      ∧ smFind? (engOf t k).shards i = some x ∧ kerbEnds t k id 0 (x.gen * 65536 + k * 1024 + i) ∧ t.mem = u.mem)
    ∧ (shardOfRecord u d (shardGen (engOf u k) i) = none → ∃ t, exec (.shardOpen k id) s = .next (lateSettle (admitCmd t k)) ∧ kerbFails t k id 0x06
      ∧ (engOf t k).shards = (engOf u k).shards))
  ∧ (∀ (k id : Nat) (c : KCmd) (i : Nat) (x : Shard) (s : State), kerbRuns s k id 2 c → kerbNames s k c i x →
    (liveLeases s k i = [] → x.accepted = 0 → x.partialsC = [] → ∃ t, exec (.shardClose k id) s = .next (lateSettle (admitCmd t k))
      ∧ smFind? (engOf t k).shards i = none ∧ shardGen (engOf t k) i = (x.gen + 1) % 65536 ∧ kerbEnds t k id 0 0
      ∧ t.mem = s.mem)
    ∧ (liveLeases s k i ≠ [] ∨ 0 < x.accepted ∨ x.partialsC ≠ [] → ∃ t, exec (.shardClose k id) s = .next (lateSettle (admitCmd t k))
      ∧ kerbFails t k id 0x03 ∧ (engOf t k).shards = (engOf s k).shards ∧ t.mem = s.mem))
  ∧ (∀ (k id : Nat) (c : KCmd) (i : Nat) (x : Shard) (s : State), kerbRuns s k id 3 c → kerbNames s k c i x →
    x.replica = false →
    let want := bits c.arg0 31 0
    (x.version ≠ 0 → want = 0xFFFFFFFF → c.value ≠ 1 → ∀ j, (upto 4096).find? (fun j => !smHas (engOf s k).leases j) = some j →
      let v := if c.value = 0 then x.version else c.value - 1
      ∃ t le, exec (.lease k id) s = .next (lateSettle (admitCmd t k)) ∧ smFind? (engOf t k).leases j = some le ∧ le.shard = i
        ∧ le.version = v ∧ le.granted = stageNow s ∧ le.until_ = bits c.arg1 47 0 ∧ le.revoked = false
        ∧ kerbEnds t k id 0 v ∧ t.mem = s.mem)
    ∧ (x.version = 0 → want ≠ 0xFFFFFFFE → ∃ t, exec (.lease k id) s = .next (lateSettle (admitCmd t k)) ∧ kerbFails t k id 0x04
      ∧ (engOf t k).leases = (engOf s k).leases)
    ∧ (want = 0xFFFFFFFE → c.value = 0 → cmdsIn s k .parked < 64 → ∃ t, exec (.lease k id) s = .next (lateSettle (admitCmd t k)) ∧ kerbParks t k id
      ∧ (engOf t k).leases = (engOf s k).leases))
  ∧ (∀ (k id : Nat) (c : KCmd) (i : Nat) (x : Shard) (s : State), kerbRuns s k id 4 c → kerbNames s k c i x →
    let j := bits c.arg0 11 0
    (∀ le, smFind? (engOf s k).leases j = some le → le.shard = i → ∃ t, exec (.kerbRelease k id) s = .next (lateSettle (admitCmd t k))
      ∧ smFind? (engOf t k).leases j = none ∧ (le.revoked = true → kerbFails t k id 0x08)
      ∧ (le.revoked = false → kerbEnds t k id 0 0))
    ∧ (smFind? (engOf s k).leases j = none → ∃ t, exec (.kerbRelease k id) s = .next (lateSettle (admitCmd t k)) ∧ kerbFails t k id 0x07
      ∧ (engOf t k).leases = (engOf s k).leases))
  ∧ (∀ (k id : Nat) (c : KCmd) (s : State), k ≤ 36 → findCmd s k id = some c → c.phase = .parked → mayUnpark s k c = true →
    cmdsIn s k .queued < 64 → ∃ t, exec (.kerbUnpark k id) s = .next (lateSettle t)
      ∧ findCmd t k id = some { c with phase := .queued, stamp := stageNow s + c.span })
  ∧ (∀ (k id : Nat) (c : KCmd) (l e : Nat) (u : StreamId) (s : State), k < 36 → findCmd s k id = some c → c.phase = .finished →
    c.status = 0 → c.src = .core l u (some e) → ∃ t, exec (.kerbCommandComplete k id) s = .next (lateSettle (deadlockCheck t l))
      ∧ findCmd t k id = none ∧ (∀ q ∈ (coreOf t l).kcmds, q.1 ≠ id)
      ∧ smGet 0 (coreOf t l).ctrs e = min (smGet 0 (coreOf s l).ctrs e + 1) 0xFFFF)

/-- Gradients and updates: GRAD.CLOSE counts the owner's buffer and closes it, refuses a newer epoch, and counts nothing under an
older one (the model's choice: notes/assumptions/105); the block that makes a contribution whole counts it; UPDATE parks until every contribution is in and the set it overwrites has no lease, then gives the next
version, or, on a gradient that is not finite, the code of a skipped update and no new version; REGEN gives the next version; a
keeper takes its first push that is not held back. -/
def Obligations.GradientsAndUpdates : Prop :=
  (∀ (k id : Nat) (c : KCmd) (i : Nat) (x : Shard) (s : State), kerbRuns s k id 5 c → kerbNames s k c i x →
    (x.replica = false → x.epoch < bits c.arg1 15 0 → ∃ t, exec (.gradClose k id) s = .next (lateSettle (admitCmd t k)) ∧ kerbFails t k id 0x05
      ∧ (engOf t k).shards = (engOf s k).shards ∧ t.mem = s.mem)
    ∧ (x.replica = true → rdb s CWY_SELF_ID CWY_SELF_ID_id_valid = false ∨ knownDevice s x.ownerDev = false →
      ∃ t, exec (.gradClose k id) s = .next (lateSettle (admitCmd t k)) ∧ kerbFails t k id 0x0A
      ∧ (engOf t k).shards = (engOf s k).shards ∧ t.mem = s.mem)
    ∧ (x.replica = false → bits c.arg1 15 0 < x.epoch → ∃ t y, exec (.gradClose k id) s = .next (lateSettle (admitCmd t k))
      ∧ smFind? (engOf t k).shards i = some y ∧ y.accepted = x.accepted ∧ y.closed = x.closed ∧ y.version = x.version
      ∧ kerbEnds t k id 0 x.accepted)
    ∧ (x.replica = false → bits c.arg1 15 0 = x.epoch → ∃ t y, exec (.gradClose k id) s = .next (lateSettle (admitCmd t k))
      ∧ smFind? (engOf t k).shards i = some y ∧ y.accepted = x.accepted + 1 ∧ y.closed = true ∧ y.version = x.version
      ∧ kerbEnds t k id 0 (x.accepted + 1)))
  ∧ (∀ (b : KBlock) (h n step ep r : Nat) (d : List Byte) (sc : BitVec 16) (i : Nat) (x : Shard) (s : State),
    let p := KerbPayload.contribution h n step ep r d sc true
    s.fab.blocks.find? (fun z => z.p == p) = some b → (h, r, step, n) ∉ s.fab.taken → handleIndex h = i →
    smFind? (engOf s (handleEngine h)).shards i = some x → x.gen = handleGen h → x.replica = false → x.gradBf16 = false →
    n < x.blocks → ep = x.epoch → (∀ q ∈ (engOf s (x.keeper n)).pushes, q.held ≠ 0) → heldBySlot s (18432 + x.keeper n) = false →
    let all := ∀ j < n, trained s x j = true →
      ∃ q, x.partialsC.find? (fun q => q.replica == r && q.step == step) = some q ∧ j ∈ q.added
    ∃ t y, exec (.contributionBlock p) s = .next (lateSettle t)
      ∧ smFind? (engOf t (handleEngine h)).shards i = some y
      ∧ (all → y.accepted = x.accepted + 1) ∧ (¬ all → y.accepted = x.accepted)
      ∧ t.fab.blocks = s.fab.blocks.erase b ∧ (h, r, step, n) ∈ t.fab.taken)
  ∧ (∀ (p : KerbPayload) (s : State), (∀ b ∈ s.fab.blocks, b.p ≠ p) → exec (.contributionBlock p) s = .next (lateSettle s))
  ∧ (∀ (k id : Nat) (c : KCmd) (i : Nat) (x : Shard) (s : State), kerbRuns s k id 6 c → kerbNames s k c i x →
    x.replica = false →
    (x.accepted < x.expected ∨ targetLeased s k i x = true → cmdsIn s k .parked < 64 → ∃ t, exec (.update k id) s = .next (lateSettle (admitCmd t k))
      ∧ kerbParks t k id ∧ (engOf t k).shards = (engOf s k).shards ∧ t.mem = s.mem)
    ∧ (∀ d w g, x.expected ≤ x.accepted → targetLeased s k i x = false →
      engineRead s .kerb c.arg0.toNat 64 = (some d, w) →
      let u := meetArrays w [(x.grad, x.gradLen), (x.master, 4 * x.n), (x.moments, x.momLen), x.bitmapArea]
      updOf u.free x.opt d = some g →
      (badGradBlocks { u with free := u.free + 1 } x = [] → ∃ t y, exec (.update k id) s = .next (lateSettle (admitCmd t k))
        ∧ smFind? (engOf t k).shards i = some y ∧ y.version = (x.version + 1) % 2 ^ 32 ∧ y.accepted = 0 ∧ y.closed = false
        ∧ kerbEnds t k id 0 ((x.version + 1) % 2 ^ 32))
      ∧ (badGradBlocks { u with free := u.free + 1 } x ≠ [] → ∃ t y, exec (.update k id) s = .next (lateSettle (admitCmd t k))
        ∧ smFind? (engOf t k).shards i = some y ∧ y.version = x.version ∧ y.accepted = 0 ∧ y.closed = false
        ∧ kerbFails t k id 0x09)))
  ∧ (∀ (k id : Nat) (c : KCmd) (i : Nat) (x : Shard) (s : State), kerbRuns s k id 7 c → kerbNames s k c i x →
    x.replica = false →
    (targetLeased s k i x = false → ∃ t, exec (.regen k id) s = .next (lateSettle (admitCmd t k))
      ∧ smFind? (engOf t k).shards i = some { x with version := (x.version + 1) % 2 ^ 32 }
      ∧ kerbEnds t k id 0 ((x.version + 1) % 2 ^ 32))
    ∧ (targetLeased s k i x = true → cmdsIn s k .parked < 64 → ∃ t, exec (.regen k id) s = .next (lateSettle (admitCmd t k)) ∧ kerbParks t k id
      ∧ (engOf t k).shards = (engOf s k).shards ∧ t.mem = s.mem))
  ∧ (∀ (k : Nat) (s : State), k < 36 → heldBySlot s (18432 + k) = true → exec (.keeperPush k) s = .next (lateSettle s))
  ∧ (∀ (k : Nat) (p : Push) (s : State), k < 36 → heldBySlot s (18432 + k) = false →
    (engOf s k).pushes.find? (fun q => q.held == 0) = some p →
    let w := soundLine s p.line
    ∃ u, exec (.keeperPush k) s = .next (lateSettle (applyPush u p)) ∧ (engOf u k).pushes = (engOf w k).pushes.erase p
      ∧ u = { w with engines := u.engines } ∧ (∀ j, j ≠ k → engOf u j = engOf w j) ∧ (lineFlawed s p.line = false → w = s))

/-! ### Counters, logs, the training step and layout epochs (chapters 06, 08, 10) -/

/-- The clears of the blocks' counters put exactly the counters back to their reset values.
Enabling a log, the phase records or the telemetry export starts it empty, and does nothing where it is enabled already; a
tail written ahead of the head is set equal to the head. -/
def Obligations.CountersClearAndLogsStartEmpty : Prop :=
  (∀ s : State, s.boot.pg = true → ∃ t, exec .cchStatClear s = .next t ∧ t = { s with cfg := t.cfg }
    ∧ ∀ o, rd t o = if 0xD10000 ≤ o ∧ o < 0xD10000 + 144 * 0x1000 then resetWord o else rd s o)
  ∧ (∀ s : State, s.boot.pg = true → ∃ t, exec .vrgStatClear s = .next t ∧ t = { s with cfg := t.cfg }
    ∧ (∀ i, i < 144 → rd t (VRG_EVENTS_0 i) = resetWord (VRG_EVENTS_0 i) ∧ rd t (VRG_EVENTS_1 i) = resetWord (VRG_EVENTS_1 i)
        ∧ rdf t (VRG_HOTSPOT i) VRG_HOTSPOT_events = 0
        ∧ rdf t (VRG_HOTSPOT i) VRG_HOTSPOT_last_pc = rdf s (VRG_HOTSPOT i) VRG_HOTSPOT_last_pc
        ∧ rd t (VRG_SLICE_CFG i) = rd s (VRG_SLICE_CFG i)))
  ∧ (∀ (l : Nat) (s : State), l < numCores → s.boot.pg = true → ∃ t, exec (.coreStallClear l) s = .next t ∧ t = { s with cfg := t.cfg }
    ∧ ∀ o, rd t o = if CORE_STALL l 0 ≤ o ∧ o < CORE_STALL_CTRL l then resetWord o else rd s o)
  ∧ (∀ s : State, s.boot.pg = true → ∃ t, exec .krbStatClear s = .next t ∧ t = { s with cfg := t.cfg }
    ∧ (∀ i, i < 36 → rd t (KRB_COUNT_0 i) = resetWord (KRB_COUNT_0 i) ∧ rd t (KRB_COUNT_1 i) = resetWord (KRB_COUNT_1 i)
        ∧ rd t (KRB_COUNT_2 i) = resetWord (KRB_COUNT_2 i) ∧ rdf t (KRB_SCRUB i) KRB_SCRUB_passes = 0
        ∧ rdf t (KRB_SCRUB i) KRB_SCRUB_position = rdf s (KRB_SCRUB i) KRB_SCRUB_position)
    ∧ ∀ o, (o < KRB_STATUS 0 ∨ KRB_STATUS 36 ≤ o) → rd t o = rd s o)
  ∧ (∀ s : State, s.boot.pg = true → ∃ t, exec .atnStatClear s = .next t ∧ OnlyRegs s t [ATN_COUNT_0, ATN_COUNT_1, ATN_COUNT_2]
    ∧ rd t ATN_COUNT_0 = 0 ∧ rd t ATN_COUNT_1 = 0 ∧ rd t ATN_COUNT_2 = 0)
  ∧ (∀ s : State, s.boot.pg = true → ∃ t, exec .cwyStatClear s = .next t ∧ t = { s with cfg := t.cfg } ∧ rd t CWY_COUNT = 0
    ∧ (∀ p, p < 36 → rd t (CWY_PORT_COUNT p) = resetWord (CWY_PORT_COUNT p)
        ∧ (∀ k, k < 6 → rd t (CWY_STALL p k) = resetWord (CWY_STALL p k)) ∧ rd t (CWY_PORT_STATUS p) = rd s (CWY_PORT_STATUS p)))
  ∧ (∀ s : State, s.boot.pg = true → ∃ t, exec .hstStatClear s = .next t ∧ OnlyRegs s t [HST_ERR, HST_LINK, HST_HOLD] ∧ rd t HST_ERR = 0
    ∧ rdf t HST_LINK HST_LINK_resets = 0 ∧ rdf t HST_LINK HST_LINK_interruptions = 0 ∧ rdf t HST_HOLD HST_HOLD_discarded = 0
    ∧ rdf t HST_LINK HST_LINK_speed = rdf s HST_LINK HST_LINK_speed ∧ rdf t HST_LINK HST_LINK_width = rdf s HST_LINK HST_LINK_width)
  ∧ (∀ s : State, s.boot.pg = true → ∃ t, exec .repStatClear s = .next t ∧ OnlyRegs s t [REP_COUNT_0, REP_COUNT_1, REP_COUNT_2, REP_SELFTEST]
    ∧ rd t REP_COUNT_0 = 0 ∧ rd t REP_COUNT_1 = 0 ∧ rd t REP_COUNT_2 = 0 ∧ rdf t REP_SELFTEST REP_SELFTEST_failures = 0
    ∧ rdf t REP_SELFTEST REP_SELFTEST_period_h = rdf s REP_SELFTEST REP_SELFTEST_period_h)
  ∧ (∀ s : State, s.boot.pg = true → ∃ t, exec .pwrStatClear s = .next t ∧ OnlyRegs s t [PWR_COUNT, PWR_RESET_STATUS] ∧ rd t PWR_COUNT = 0
    ∧ rdf t PWR_RESET_STATUS PWR_RESET_STATUS_roadbed_resets = 0 ∧ rdf t PWR_RESET_STATUS PWR_RESET_STATUS_aborted = 0
    ∧ rdf t PWR_RESET_STATUS PWR_RESET_STATUS_lost_peer = 0
    ∧ rdf t PWR_RESET_STATUS PWR_RESET_STATUS_last_cause = rdf s PWR_RESET_STATUS PWR_RESET_STATUS_last_cause)
  ∧ (∀ s : State, s.boot.pg = true → ∃ t, exec .thmStatClear s = .next t ∧ OnlyRegs s t [THM_COUNT] ∧ rd t THM_COUNT = 0)
  ∧ (∀ s : State, s.boot.pg = true → ∃ t, exec .monStatClear s = .next t ∧ OnlyRegs s t [MON_STATUS]
    ∧ rdf t MON_STATUS MON_STATUS_commands = 0 ∧ rdf t MON_STATUS MON_STATUS_errors = 0
    ∧ rdf t MON_STATUS MON_STATUS_baud = rdf s MON_STATUS MON_STATUS_baud)
  ∧ (∀ s : State, s.boot.pg = true → ∃ t, exec .auditClear s = .next t ∧ t = { s with cfg := t.cfg } ∧ rd t TEL_AUDIT_COUNT = 0
    ∧ (∀ i, i < 384 → rd t (TEL_AUDIT_HIST i) = resetWord (TEL_AUDIT_HIST i)) ∧ rd t TEL_AUDIT_CTRL = rd s TEL_AUDIT_CTRL)
  ∧ (∀ s : State, s.boot.pg = true → rdb s TEL_LOG_CTRL TEL_LOG_CTRL_enable = false → ∃ t, exec .logEnable s = .next t
      ∧ rdb t TEL_LOG_CTRL TEL_LOG_CTRL_enable = true ∧ rd t TEL_LOG_HEAD = 0 ∧ rd t TEL_LOG_TAIL = 0 ∧ rd t TEL_LOG_STATUS = 0
      ∧ rd t TEL_LADDER_COUNT = 0 ∧ rdf t TEL_LOG_CTRL TEL_LOG_CTRL_size_log2 = rdf s TEL_LOG_CTRL TEL_LOG_CTRL_size_log2
      ∧ OnlyRegs s t [TEL_LOG_CTRL, TEL_LOG_HEAD, TEL_LOG_TAIL, TEL_LOG_STATUS, TEL_LADDER_COUNT])
  ∧ (∀ s : State, rdb s TEL_LOG_CTRL TEL_LOG_CTRL_enable = true → exec .logEnable s = .next s)
  ∧ (∀ s : State, s.boot.pg = true → rdb s REP_LOG_CTRL TEL_LOG_CTRL_enable = false → ∃ t, exec .repLogEnable s = .next t
      ∧ rdb t REP_LOG_CTRL TEL_LOG_CTRL_enable = true ∧ rd t REP_LOG_HEAD = 0 ∧ rd t REP_LOG_TAIL = 0 ∧ rd t REP_LOG_STATUS = 0
      ∧ OnlyRegs s t [REP_LOG_CTRL, REP_LOG_HEAD, REP_LOG_TAIL, REP_LOG_STATUS])
  ∧ (∀ s : State, rdb s REP_LOG_CTRL TEL_LOG_CTRL_enable = true → exec .repLogEnable s = .next s)
  ∧ (∀ (n : BitVec 32) (s : State), s.boot.pg = true →
      let h := rdf s TEL_LOG_HEAD TEL_LOG_HEAD_head
      let past := (n.toNat + 2 ^ 32 - h) % 2 ^ 32
      ∃ t, exec (.logTailWrite n) s = .next t ∧ OnlyRegs s t [TEL_LOG_TAIL]
        ∧ (past = 0 ∨ 2 ^ 31 ≤ past → rdf t TEL_LOG_TAIL TEL_LOG_TAIL_tail = n.toNat)
        ∧ (0 < past → past < 2 ^ 31 → rdf t TEL_LOG_TAIL TEL_LOG_TAIL_tail = h))
  ∧ (∀ s : State, s.boot.pg = true → rdb s CMD_PHASE CMD_PHASE_enable = false → ∃ t, exec .phaseEnable s = .next t
      ∧ rdb t CMD_PHASE CMD_PHASE_enable = true ∧ rd t CMD_PHASE_HEAD = 0 ∧ OnlyRegs s t [CMD_PHASE, CMD_PHASE_HEAD]
      ∧ rdf t CMD_PHASE CMD_PHASE_base = rdf s CMD_PHASE CMD_PHASE_base)
  ∧ (∀ s : State, rdb s CMD_PHASE CMD_PHASE_enable = true → exec .phaseEnable s = .next s)
  ∧ (∀ s : State, s.boot.pg = true → rdb s TEL_EXP TEL_EXP_enable = false → ∃ t, exec .telExpEnable s = .next t
      ∧ rdb t TEL_EXP TEL_EXP_enable = true ∧ rd t TEL_EXP_HEAD = 0 ∧ OnlyRegs s t [TEL_EXP, TEL_EXP_HEAD]
      ∧ rdf t TEL_EXP TEL_EXP_base = rdf s TEL_EXP TEL_EXP_base)
  ∧ (∀ s : State, rdb s TEL_EXP TEL_EXP_enable = true → exec .telExpEnable s = .next s)


/-- The training step and the layout epochs: a plan is loaded or refused with its reason, and not while a step runs or is paused;
run, pause and stop move the step's state between loaded, running, paused and stopped; an epoch request, its draining and its commit stage are taken or refused
with their errors. -/
def Obligations.TrainingStepAndEpochs : Prop :=
  (∀ s : State, stepState s = 2 ∨ stepState s = 3 → exec .stepCtrlLoad s = .next s)
  ∧ (∀ (s u : State) (d : List Byte), s.boot.pg = true → stepState s ≠ 2 → stepState s ≠ 3 →
      let a := rdf s CMD_STEP_PLAN CMD_STEP_PLAN_plan * 128
      engineRead (wr (wr (wr s CMD_STEP_COUNT 0) CMD_SURVEY_STAT 0) CMD_SURVEY_EST 0) .requester a 128 = (some d, u) →
      ∃ t, exec .stepCtrlLoad s = .next t ∧ rd t CMD_STEP_COUNT = 0 ∧ t.mem = u.mem
        ∧ (planRefusal u d (planOfBytes a d) = 0 → stepState t = 1 ∧ t.train.plan = some (planOfBytes a d)
            ∧ rdf t CMD_EPOCH_STATUS CMD_EPOCH_STATUS_in_force = (planOfBytes a d).epoch)
        ∧ (planRefusal u d (planOfBytes a d) ≠ 0 → stepState t = 5 ∧ t.train.plan = none
            ∧ rdf t CMD_STEP_STATUS CMD_STEP_STATUS_reason = planRefusal u d (planOfBytes a d)))
  ∧ (∀ s : State, s.boot.pg = true → ∃ t, exec .stepRun s = .next t ∧ rdb t CMD_STEP_CTRL CMD_STEP_CTRL_run = true
      ∧ stepState t = (if keepState s < 2 ∧ (stepState s = 1 ∨ stepState s = 3) then 2 else stepState s)
      ∧ OnlyRegs s t [CMD_STEP_CTRL, CMD_STEP_STATUS])
  ∧ (∀ s : State, s.boot.pg = true → ∃ t, exec .stepPause s = .next t ∧ rdb t CMD_STEP_CTRL CMD_STEP_CTRL_run = false
      ∧ stepState t = (if stepState s = 2 then 3 else stepState s) ∧ OnlyRegs s t [CMD_STEP_CTRL, CMD_STEP_STATUS])
  ∧ (∀ s : State, s.boot.pg = true → ∃ t, exec .stepStop s = .next t ∧ stepState t = 4 ∧ rd t CMD_STEP_STOP = 0
      ∧ OnlyRegs s t [CMD_STEP_STATUS, CMD_STEP_STOP])
  ∧ (∀ (e : BitVec 16) (n : BitVec 32) (s : State),
      (1 ≤ epochState s ∧ epochState s ≤ 3 → exec (.epochRequest e n) s = .next s)
      ∧ (s.boot.pg = true → epochState s = 0 ∨ 3 < epochState s → ∃ t, exec (.epochRequest e n) s = .next t
        ∧ rdf t CMD_EPOCH_REQ CMD_EPOCH_REQ_epoch = e.toNat ∧ rdf t CMD_EPOCH_REQ CMD_EPOCH_REQ_step = n.toNat
        ∧ (let u := if e.toNat = rdf s CMD_EPOCH_STATUS CMD_EPOCH_STATUS_in_force then s else remapRead s
           OnlyRegs u t [CMD_EPOCH_REQ, CMD_EPOCH_STATUS]
           ∧ rdf t CMD_EPOCH_STATUS CMD_EPOCH_STATUS_in_force = rdf u CMD_EPOCH_STATUS CMD_EPOCH_STATUS_in_force
           ∧ (e.toNat = rdf s CMD_EPOCH_STATUS CMD_EPOCH_STATUS_in_force ∨ remapGood s e.toNat = false → epochState t = epochState u))
        ∧ (e.toNat = rdf s CMD_EPOCH_STATUS CMD_EPOCH_STATUS_in_force → rdf t CMD_EPOCH_STATUS CMD_EPOCH_STATUS_error = 1)
        ∧ (e.toNat ≠ rdf s CMD_EPOCH_STATUS CMD_EPOCH_STATUS_in_force → remapGood s e.toNat = false →
            rdf t CMD_EPOCH_STATUS CMD_EPOCH_STATUS_error = 2)
        ∧ (e.toNat ≠ rdf s CMD_EPOCH_STATUS CMD_EPOCH_STATUS_in_force → remapGood s e.toNat = true →
            rdf t CMD_EPOCH_STATUS CMD_EPOCH_STATUS_error = 0 ∧ epochState t = 1)))
  ∧ (∀ s : State, epochState s = 2 → epochDrained s = true → ∃ t, exec .epochDrained s = .next t ∧ epochState t = 3
      ∧ OnlyRegs s t [CMD_EPOCH_STATUS])
  ∧ (∀ s : State, (epochState s ≠ 2 ∨ epochDrained s = false) → exec .epochDrained s = .next s)
  ∧ (∀ (n : BitVec 48) (s : State), s.boot.pg = true → ∃ t, exec (.epochCommitWrite n) s = .next t
      ∧ OnlyRegs s t [CMD_EPOCH_COMMIT, CMD_EPOCH_STATUS] ∧ epochState t = epochState s
      ∧ (n.toNat ≤ stageNow s → rd t CMD_EPOCH_COMMIT = rd s CMD_EPOCH_COMMIT
          ∧ rdf t CMD_EPOCH_STATUS CMD_EPOCH_STATUS_error = 3)
      ∧ (stageNow s < n.toNat → rdf t CMD_EPOCH_COMMIT CMD_EPOCH_COMMIT_stage = n.toNat
          ∧ rdf t CMD_EPOCH_STATUS CMD_EPOCH_STATUS_error = 0))

/-! ### The route walker (chapter 11) -/

/-- The walker's rings and tables: a ring is enabled once and read record by record; REGISTER opens the lowest free table and
answers its handle, UNREGISTER ends an unused one, COMMIT marks its table, RESYNC ends the wait of an old version; a bad record,
a bad handle or a table in use are answered with their codes. -/
def Obligations.RouteTables : Prop :=
  (∀ (b : Bool) (s : State), s.boot.pg = true → ∃ t, exec (.atnEnable b) s = .next t ∧ rdb t ATN_CTRL ATN_CTRL_enable = b
      ∧ rdf t ATN_CTRL ATN_CTRL_ra_blocks = rdf s ATN_CTRL ATN_CTRL_ra_blocks ∧ OnlyRegs s t [ATN_CTRL])
  ∧ (∀ (i : Nat) (s : State), i < 64 → s.boot.pg = true → rdb s (ATN_RING_CTRL i) ATN_RING_CTRL_enable = false →
      ∃ t, exec (.atnRingEnable i) s = .next t ∧ (atnRing t i) = { atnRing s i with enable := true } ∧ t.atn = s.atn)
  ∧ (∀ (i : Nat) (s : State), (64 ≤ i ∨ rdb s (ATN_RING_CTRL i) ATN_RING_CTRL_enable = true) →
      exec (.atnRingEnable i) s = .next s)
  ∧ (∀ (i : Nat) (s : State), (rdb s ATN_CTRL ATN_CTRL_enable = false ∨ (atnRing s i).enable = false ∨ 2 ≤ keepState s) →
      exec (.atnRingPoll i) s = .next s)
  ∧ (∀ (i : Nat) (s : State), i < 64 → rdb s ATN_CTRL ATN_CTRL_enable = true → (atnRing s i).enable = true → keepState s < 2 →
      (ringNext s (atnRing s i) = .empty → exec (.atnRingPoll i) s = .next (ringRead s (atnRing s i)))
      ∧ (ringNext s (atnRing s i) = .overrun → ∃ t, exec (.atnRingPoll i) s = .next t ∧ (atnRing t i).enable = false
          ∧ rdb t (ATN_RING_CTRL i) ATN_RING_CTRL_error = true ∧ t.atn = s.atn)
      ∧ (∀ c d, ringNext s (atnRing s i) = .record c d →
          (let v := setQueue (ringConsumed (ringRead s (atnRing s i)) (atnRing s i) (c + 1)) i (ringQueue s i ++ [atnReqOf s d])
           ringNext v (atnRing v i) = .empty) →
          (∀ z ∈ ringQueue s i, z.bad = false) → (atnReqOf s d).bad = false → ∃ t, exec (.atnRingPoll i) s = .next t
          ∧ ringQueue t i = ringQueue s i ++ [atnReqOf s d] ∧ ∀ j, j ≠ i → ringQueue t j = ringQueue s j))
  ∧ (∀ (i : Nat) (r : AtnReq) (s : State), atnFront s i 1 r →
      (tableRecord (recordRead s r.addr) r.addr i = none →
        exec (.atnRegister i) s = .next (endReq (recordRead s r.addr) i 3 0))
      ∧ (∀ t k, tableRecord (recordRead s r.addr) r.addr i = some t → (upto 4096).find? (fun k => !smHas s.atn.tables k) = some k →
          ∃ u, exec (.atnRegister i) s = .next (endReq u i 0 (smGet 0 s.atn.gens k * 4096 + k)) ∧ tableOf u k = some t
            ∧ t.version = 1 ∧ t.ring = i ∧ ringQueue u i = ringQueue s i))
  ∧ (∀ (i : Nat) (r : AtnReq) (s : State), atnFront s i 2 r →
      (tableOfHandle s r.handle = none → exec (.atnUnregister i) s = .next (endReq s i 1 0))
      ∧ (∀ k t, tableOfHandle s r.handle = some (k, t) →
          ((∃ l ∈ s.atn.lists, l.table = k) → exec (.atnUnregister i) s = .next (endReq s i 8 0))
          ∧ ((∀ l ∈ s.atn.lists, l.table ≠ k) → (∀ m ∈ s.atn.moves, m.table ≠ k) → t.unsynced = none → t.marked = [] →
              ∃ u, exec (.atnUnregister i) s = .next (endReq u i 0 0) ∧ tableOf u k = none
                ∧ smGet 0 u.atn.gens k = (smGet 0 s.atn.gens k + 1) % 2 ^ 20)))
  ∧ (∀ (i : Nat) (r : AtnReq) (k : Nat) (t : RouteTable) (s : State), atnFront s i 6 r → tableOfHandle s r.handle = some (k, t) →
      (t.unsynced.isSome = true → exec (.atnCommit i) s = .next (endReq s i 6 0))
      ∧ (t.unsynced = none → ∃ u, exec (.atnCommit i) s = .next u ∧ tableOf u k = some { t with marked := t.marked ++ [r.status] }))
  ∧ (∀ (k : Nat) (t : RouteTable) (v n : Nat) (sts : List Nat) (s : State), tableOf s k = some t →
      t.unsynced = some (v, n, sts) → (∀ q ∈ smVals s.atn.rings, ∀ r ∈ q, r.version = none) →
      ∃ u, exec (.atnResync k) s = .next u ∧ tableOf u k = some { t with unsynced := none } ∧ u.atn.lists = s.atn.lists)
  ∧ (∀ (k : Nat) (s : State), tableOf s k = none → exec (.atnResync k) s = .next s)

/-- Walk requests and page transfers: a request with a bad handle or out of range is answered so; READ and WRITE pin their pages
and open a list; PREFETCH starts the transfer that brings a page home, SPILL the one that writes a dirty page out or, with drop, empties
its frame at once; both pass pages they have nothing to do for, and end with the number of pages done; RELEASE ends an open list; a
parked request goes on when its page can be had; a transfer ends once another device has answered for every sector, or as the host's side tells: it is
counted, and one that fails raises its error. -/
def Obligations.WalkRequests : Prop :=
  (∀ (i op : Nat) (r : AtnReq) (s : State), atnFront s i op r → r.parked = false → r.version = none →
    let c : Instr := if op = 3 then .atnRead i else if op = 4 then .atnWrite i else if op = 7 then .atnPrefetch i else .atnSpill i
    op = 3 ∨ op = 4 ∨ op = 7 ∨ op = 8 →
    (tableOfHandle s r.handle = none → exec c s = .next (endReq s i 1 0))
    ∧ (∀ k t, tableOfHandle s r.handle = some (k, t) → op ≠ 3 → t.pagesMax < r.args % 2 ^ 32 + bitsN r.args 62 32 →
        exec c s = .next (endReq (walkRead s op t) i 4 0)))
  ∧ (∀ (i k : Nat) (r : AtnReq) (t : RouteTable) (s : State), atnNew s i 3 k r t → s.atn.lists.length < 4096 →
      let w := walkRead s 3 t
      r.args % 2 ^ 32 < ((imageHead w (t.image t.version)).length + 63) / 64 →
      readPages w t (t.image t.version) (imageHead w (t.image t.version)) (r.args % 2 ^ 32) = [] → r.held = [] →
      ∃ u, exec (.atnRead i) s = .next u
        ∧ u.atn.lists = s.atn.lists ++ [{ addr := r.addr, table := k, frames := [], until_ := r.until_, stage := stageNow s }])
  ∧ (∀ (i k v p : Nat) (r : AtnReq) (t : RouteTable) (s : State) (par : Bool), atnFront s i 3 r → r.parked = par →
      tableOfHandle s r.handle = some (k, t) → r.version = some v → r.todo = [p] → atHome s t p = true →
      s.atn.lists.length < 4096 →
      let f := p % t.homes
      ∃ u, exec (if par then .atnUnpark i else .atnRead i) s = .next u
        ∧ u.atn.lists = s.atn.lists ++
            [{ addr := r.addr, table := k, frames := r.held ++ [f], until_ := r.until_, stage := stageNow s }])
  ∧ (∀ (i k : Nat) (r : AtnReq) (t : RouteTable) (s : State), atnNew s i 4 k r t → s.atn.lists.length < 4096 →
      bitsN r.args 62 32 = 1 → r.args < 2 ^ 63 → r.args % 2 ^ 32 + 1 ≤ t.pagesMax → r.held = [] →
      let a := walkOpen s i r t [r.args % 2 ^ 32]
      (residOf a t (r.args % 2 ^ 32 % t.homes)).st = 0 → pageWritten a t (r.args % 2 ^ 32) = false →
      ∃ u, exec (.atnWrite i) s = .next u ∧ u.atn.lists = s.atn.lists ++
        [{ addr := r.addr, table := k, frames := [r.args % 2 ^ 32 % t.homes], until_ := r.until_, stage := stageNow s }])
  ∧ (∀ (i k : Nat) (r : AtnReq) (t : RouteTable) (s : State), atnNew s i 7 k r t →
      bitsN r.args 62 32 = 1 → r.args % 2 ^ 32 + 1 ≤ t.pagesMax → r.done = 0 → r.failed = false →
      let p := r.args % 2 ^ 32
      let a := walkOpen s i r t [p]
      (pageWritten a t p = false ∨ atHome a t p = true ∨ (residOf a t (p % t.homes)).st ≠ 3 ∧ 0 < (residOf a t (p % t.homes)).pins) →
      ∃ u, exec (.atnPrefetch i) s = .next (endReq u i 0 0) ∧ u.mem = (pageRead a t t.version p).mem
        ∧ u.atn.lists = s.atn.lists ∧ u.atn.moves = s.atn.moves)
  ∧ (∀ (i k p : Nat) (ps : List Nat) (r : AtnReq) (t : RouteTable) (s : State), atnNew s i 7 k r t →
      r.args % 2 ^ 32 + bitsN r.args 62 32 ≤ t.pagesMax →
      (let range := (upto (bitsN r.args 62 32)).map (fun j => r.args % 2 ^ 32 + j)
       p :: ps = if 2 ^ 63 ≤ r.args then range.reverse else range) →
      let a := walkOpen s i r t (p :: ps)
      let b := pageRead a t t.version p
      pageWritten a t p = true → (residOf a t (p % t.homes)).st = 0 → (residOf a t (p % t.homes)).pins = 0 →
      b.atn.moves.length < 64 → keepState b < 2 →
      ∃ u, startMove b k t (p % t.homes) p (pageEntry a (t.image t.version) p).1 false (some i) none = some u
        ∧ exec (.atnPrefetch i) s =
          .next (setFront u i { r with version := some t.version, todo := p :: ps, pages := p :: ps, parked := false }))
  ∧ (∀ (i op k v : Nat) (r : AtnReq) (t : RouteTable) (s : State), atnFront s i op r → op = 7 ∨ op = 8 → r.parked = false →
      tableOfHandle s r.handle = some (k, t) → r.version = some v → r.todo = [] →
      exec (if op = 7 then .atnPrefetch i else .atnSpill i) s = .next (endReq s i (if r.failed then 9 else 0) r.done))
  ∧ (∀ (i k : Nat) (r : AtnReq) (t : RouteTable) (s : State), atnNew s i 8 k r t →
      bitsN r.args 62 32 = 1 → r.args < 2 ^ 63 → r.args % 2 ^ 32 + 1 ≤ t.pagesMax → r.done = 0 → r.failed = false →
      let p := r.args % 2 ^ 32
      let a := walkOpen s i r t [p]
      (residOf a t (p % t.homes)).st ≠ 3 → atHome a t p = false →
      ∃ u, exec (.atnSpill i) s = .next (endReq u i 0 0) ∧ u.mem = (pageRead a t t.version p).mem ∧ u.atn.moves = s.atn.moves)
  ∧ (∀ (i k : Nat) (r : AtnReq) (t : RouteTable) (s : State), atnNew s i 8 k r t →
      bitsN r.args 62 32 = 1 → 2 ^ 63 ≤ r.args → r.args % 2 ^ 32 + 1 ≤ t.pagesMax → r.done = 0 → r.failed = false →
      let p := r.args % 2 ^ 32
      let a := walkOpen s i r t [p]
      let b := setWritten (putResid (pageRead a t t.version p) t (p % t.homes) ⟨0, (residOf a t (p % t.homes)).pins, 0, 0⟩) t p false
      atHome a t p = true →
      exec (.atnSpill i) s = .next (endReq (setFront b i
        { r with version := some t.version, todo := [], pages := [p], done := 1, parked := false }) i 0 1))
  ∧ (∀ (i k : Nat) (r : AtnReq) (t : RouteTable) (s : State), atnNew s i 8 k r t →
      bitsN r.args 62 32 = 1 → r.args < 2 ^ 63 → r.args % 2 ^ 32 + 1 ≤ t.pagesMax →
      let p := r.args % 2 ^ 32
      let a := walkOpen s i r t [p]
      let b := pageRead a t t.version p
      (residOf a t (p % t.homes)).st = 2 → (residOf a t (p % t.homes)).page = p → b.atn.moves.length < 64 → keepState b < 2 →
      ∃ u, startMove b k t (p % t.homes) p (residOf a t (p % t.homes)).slot true (some i) none = some u
        ∧ exec (.atnSpill i) s = .next (setFront u i { r with version := some t.version, todo := [p], pages := [p], parked := false }))
  ∧ (∀ (i : Nat) (r : AtnReq) (l : WalkList) (s : State), atnFront s i 5 r →
      s.atn.lists.find? (fun l => l.addr == r.addr) = some l → ∃ u, exec (.atnRelease i) s = .next u
        ∧ u.atn.lists = s.atn.lists.erase l ∧ u.atn.tables = s.atn.tables)
  ∧ (∀ (i : Nat) (s : State), ringQueue s i = [] → exec (.atnUnpark i) s = .next s)
  ∧ (∀ (m : Transfer) (t : RouteTable) (d : List Byte) (s : State), s.atn.moves.find? (fun x => x.id == m.id) = some m →
      tableOf s m.table = some t → m.next = none → m.ring = none → ∀ ok : Bool,
      (transferWaits s m.id = true → exec (.pageTransferDone m.id ok d) s = .next s)
      ∧ (transferWaits s m.id = false → 0 < m.left → exec (.pageTransferDone m.id ok d) s = .next (lateSettle s))
      ∧ (transferWaits s m.id = false → m.left = 0 → m.bad = false → (t.kind = 0 ∨ ok = true) →
        (m.out = true ∨ (if t.kind = 0 then m.bytes else d).length = t.pageBytes) →
        ∃ u, exec (.pageTransferDone m.id ok d) s = .next (lateSettle (goOnAll u))
        ∧ u.atn.moves = s.atn.moves.filter (fun x => x.id != m.id)
        ∧ (m.out = true → rdf u ATN_COUNT_1 ATN_COUNT_1_spilled = (rdf s ATN_COUNT_1 ATN_COUNT_1_spilled + 1) % 2 ^ 32)
        ∧ (m.out = false → rdf u ATN_COUNT_1 ATN_COUNT_1_fetched = (rdf s ATN_COUNT_1 ATN_COUNT_1_fetched + 1) % 2 ^ 32))
      ∧ (transferWaits s m.id = false → m.left = 0 → (m.bad = true ∨ t.kind ≠ 0 ∧ ok = false) →
        ∃ u, exec (.pageTransferDone m.id ok d) s = .next (lateSettle (goOnAll u))
        ∧ u.atn.moves = s.atn.moves.filter (fun x => x.id != m.id)
        ∧ rdf u ATN_COUNT_2 ATN_COUNT_2_layby_errors = (rdf s ATN_COUNT_2 ATN_COUNT_2_layby_errors + 1) % 2 ^ 16
        ∧ rdb u (ICU_SRC 16) ICU_SRC_pending = true))

/-! ### The causeways and the fabric (chapter 12) -/

/-- What each row does to its port's state: the state it moves the port to, the reason given where training fails, and that a row
which finds its port in another state changes nothing. -/
def Obligations.PortStates : Prop :=
  ∀ (p : Nat) (s : State), p < 36 →
    (s.boot.pg = true → ∃ t, exec (.portEnable p) s = .next t ∧ rdb t (CWY_PORT_CTRL p) CWY_PORT_CTRL_enable = true
      ∧ portState t p = (if portState s p = 0 then 1 else portState s p))
    ∧ (s.boot.pg = true → ∃ t, exec (.portDisable p) s = .next t ∧ rdb t (CWY_PORT_CTRL p) CWY_PORT_CTRL_enable = false ∧ portState t p = 0
      ∧ rdb t (CWY_PORT_PARTNER p) CWY_PORT_PARTNER_valid = false)
    ∧ (∀ c, c = .portRetrain p ∨ c = .codewordLockLoss p →
      (s.boot.pg = true → portState s p = 5 → ∃ t, exec c s = .next t ∧ portState t p = 6 ∧ t.fab = s.fab
        ∧ rdf t (CWY_PORT_COUNT p) CWY_PORT_COUNT_retrains = (rdf s (CWY_PORT_COUNT p) CWY_PORT_COUNT_retrains + 1) % 2 ^ 16)
      ∧ (portState s p ≠ 5 → exec c s = .next s))
    ∧ (∀ w : BitVec 5,
      let n := ((upto 5).filter (fun i => bitsN w.toNat i i == 1)).length
      (portState s p = 1 → 4 ≤ n → ∃ t, exec (.partnerDetected p w) s = .next t ∧ portState t p = 2
        ∧ OnlyRegs s t [CWY_PORT_STATUS p])
      ∧ ((portState s p ≠ 1 ∨ n < 4) → exec (.partnerDetected p w) s = .next s)
      ∧ (portState s p = 2 → 4 ≤ (usableLanes s p w.toNat).length → ∃ t, exec (.trainDone p w) s = .next t ∧ portState t p = 3)
      ∧ (portState s p = 2 → (usableLanes s p w.toNat).length < 4 → ∃ t, exec (.trainDone p w) s = .next t ∧ portState t p = 8
        ∧ rdf t (CWY_PORT_STATUS p) CWY_PORT_STATUS_reason = 1)
      ∧ (portState s p ≠ 2 → exec (.trainDone p w) s = .next s)
      ∧ ∀ a, (portState s p = 6 → 4 ≤ (usableLanes s p w.toNat).length → ∃ t, exec (.retrainDone p a w) s = .next t
          ∧ portState t p = 5)
        ∧ (portState s p = 6 → (usableLanes s p w.toNat).length < 4 → ∃ t, exec (.retrainDone p a w) s = .next t
          ∧ portState t p = 8 ∧ rdf t (CWY_PORT_STATUS p) CWY_PORT_STATUS_reason = 1)
        ∧ (portState s p ≠ 6 → exec (.retrainDone p a w) s = .next s))
    ∧ (∃ t, exec (.detectTimeout p) s = .next t ∧ portState t p = portState s p ∧ OnlyRegs s t [CWY_PORT_STATUS p])
    ∧ (portState s p = 3 → ∃ t, exec (.alignLock p) s = .next t ∧ portState t p = 4 ∧ OnlyRegs s t [CWY_PORT_STATUS p])
    ∧ (portState s p ≠ 3 → exec (.alignLock p) s = .next s)
    ∧ (∀ c n, (c = .alignTimeout p ∧ n = 3) ∨ (c = .retrainTimeout p ∧ n = 6) →
      (portState s p = n → (portOf s p).attempts < 2 → ∃ t, exec c s = .next t ∧ portState t p = 2
        ∧ (portOf t p).attempts = (portOf s p).attempts + 1)
      ∧ (portState s p = n → 2 ≤ (portOf s p).attempts → ∃ t, exec c s = .next t ∧ portState t p = 8
        ∧ rdf t (CWY_PORT_STATUS p) CWY_PORT_STATUS_reason = 2)
      ∧ (portState s p ≠ n → exec c s = .next s))
    ∧ (∀ rings q dev,
      let r := partnerCheck s p rings q (if s.fab.coords.isSome then some dev else none)
      (portState s p = 4 → r = 0 → ∃ t, exec (.exchange p rings q dev) s = .next t ∧ portState t p = 5
        ∧ rdb t (CWY_PORT_PARTNER p) CWY_PORT_PARTNER_valid = true
        ∧ rdf t (CWY_PORT_PARTNER p) CWY_PORT_PARTNER_device_id = dev % 2 ^ 18)
      ∧ (portState s p = 4 → r ≠ 0 → ∃ t, exec (.exchange p rings q dev) s = .next t ∧ portState t p = 7
        ∧ rdf t (CWY_PORT_STATUS p) CWY_PORT_STATUS_reason = r)
      ∧ (portState s p ≠ 4 → exec (.exchange p rings q dev) s = .next s))

/-- Bring-up: it starts unless it is under way; a device with no Active port takes coordinates 0, any other goes on with the lowest
UID it knows; the origin takes coordinates 0; a lower UID is kept; when it is complete the ID is valid and a lone device is the
root. -/
def Obligations.FabricBringup : Prop :=
  (∀ s : State, bringingUp s = true → exec .fabricStart s = .next s)
  ∧ (∀ s : State, s.boot.pg = true → bringingUp s = false → ∃ t, exec .fabricStart s = .next t ∧ fabricState t = 1
      ∧ rdb t CWY_SELF_ID CWY_SELF_ID_id_valid = false ∧ t.fab.coords = none ∧ t.fab.lowUid = none)
  ∧ (∀ s : State, fabricState s = 1 → s.fab.coords = none →
      (∀ p, p < 36 → rdb s (CWY_PORT_CTRL p) CWY_PORT_CTRL_enable = true → portState s p ∈ [1, 5, 7, 8]) →
      (activePorts s = [] → ∃ t, exec .bringupPortsSettled s = .next t ∧ t.fab.coords = some 0 ∧ selfId t = 0)
      ∧ (activePorts s ≠ [] → ∃ t u, exec .bringupPortsSettled s = .next t ∧ fabricState t = 2 ∧ t.fab.lowUid = some u
          ∧ u.toNat ≤ (rd s CWY_UID).toNat ∧ ∀ v, s.fab.lowUid = some v → u.toNat ≤ v.toNat))
  ∧ (∀ s : State, fabricState s ≠ 1 → exec .bringupPortsSettled s = .next s)
  ∧ (∀ s : State, fabricState s = 2 → ∃ t, exec .originSettled s = .next t ∧ fabricState t = 3
      ∧ (s.fab.lowUid = some (rd s CWY_UID) → s.fab.coords = none → t.fab.coords = some 0 ∧ selfId t = 0)
      ∧ (s.fab.lowUid ≠ some (rd s CWY_UID) → t.fab = s.fab))
  ∧ (∀ s : State, fabricState s ≠ 2 → exec .originSettled s = .next s)
  ∧ (∀ (p : Nat) (u v : Word) (s : State), p < 36 → portActive s p = true → fabricState s = 1 → s.fab.lowUid = some v →
      controlFits s p →
      let r := takeBuffer s p 0
      (u.toNat < v.toNat →
        exec (.bringupFrame p (.uid u)) s = .next (tookControl { r with fab := { r.fab with lowUid := some u } } p))
      ∧ (v.toNat ≤ u.toNat → exec (.bringupFrame p (.uid u)) s = .next (tookControl r p)))
  ∧ (∀ (p : Nat) (b : BringupInfo) (s : State), p < 36 → portActive s p = true → fabricState s = 5 → controlFits s p →
      ∃ t, exec (.bringupFrame p b) s = .next t ∧ violationKept s t p 8)
  ∧ (∀ (m l : Nat) (cs : List Candidate) (s : State) (x : Nat), s.fab.coords = some x → fabricState s = 1 →
      ∃ t, exec (.bringupComplete m l cs) s = .next t ∧ fabricState t = 5 ∧ rdb t CWY_SELF_ID CWY_SELF_ID_id_valid = true
        ∧ rdf t CWY_FABRIC_STATUS CWY_FABRIC_STATUS_members = 1 ∧ rdb t MST_STATUS MST_STATUS_is_root = true)
  ∧ (∀ (m l : Nat) (cs : List Candidate) (s : State) (x : Nat), s.fab.coords = some x → fabricState s = 4 →
      ∃ t, exec (.bringupComplete m l cs) s = .next t ∧ fabricState t = 5 ∧ rdb t CWY_SELF_ID CWY_SELF_ID_id_valid = true)
  ∧ (∀ (m l : Nat) (cs : List Candidate) (s : State), (s.fab.coords = none ∨ fabricState s = 2
      ∨ fabricState s = 3 ∧ s.fab.lowUid ≠ some (rd s CWY_UID)) → exec (.bringupComplete m l cs) s = .next s)

/-- Codewords, credits and frames: a codeword in sequence is accepted and one that is not is refused; a frame for this device fills
a buffer, is served by its type and gives its credit back; a frame that breaks a rule is dropped and recorded; a request ends
with the status of its response, of a NAK, or of its time-out. -/
def Obligations.FramesAreServed : Prop :=
  (∀ (p q a : Nat) (nak : Bool) (rx : RxWord) (cs : List Nat) (s : State), p < 36 → portActive s p = true → q < 4096 → a < 4096 →
    portActive (addCorrected s p cs) p = true →
    (wordGood q a nak rx cs = true → q = ((portOf s p).ack + 1) % 4096 → ∃ t, exec (.codeword p q a nak rx cs) s = .next t
      ∧ (portOf t p).ack = q ∧ (portOf t p).refusing = false ∧ ∀ f ∈ (portOf t p).sent, f ∈ (portOf s p).sent ∧ seqAfter f.seq a = true)
    ∧ (wordGood q a nak rx cs = false ∨ q ≠ ((portOf s p).ack + 1) % 4096 → ∃ t, exec (.codeword p q a nak rx cs) s = .next t
      ∧ (portOf t p).ack = (portOf s p).ack ∧ (portOf t p).refusing = true ∧ (portOf t p).sent = (portOf s p).sent))
  ∧ (∀ (p cls vc n : Nat) (s : State), p < 36 → portActive s p = true → cls < 4 → vc < 2 → (portOf s p).wait = [] →
    controlFits s p → ∃ t, exec (.creditFrame p cls vc n) s = .next (creditOwed t p)
      ∧ portOf t p = { portOf s p with credits := (portOf t p).credits }
      ∧ smGet 0 (portOf t p).credits (2 * cls + vc) = smGet 0 (portOf s p).credits (2 * cls + vc) + n)
  ∧ (∀ (p : Nat) (h : FrameHdr) (d : List Byte) (s u : State), frameServed s p h 0 → h.type = 1 → keepState s < 2 →
    h.why = .plain → sysRead (frameTaken s p h) .peer .requester h.addr h.length = (.data d, u) →
    exec (.readFrame p h) s = .next (lateSettle (creditBack (respond u h 0 d) (some (p, pairKey h)))))
  ∧ (∀ (p off : Nat) (h : FrameHdr) (d : List Byte) (s u : State), frameServed s p h 0 → h.type = 1 → keepState s < 2 →
    peerConfig h = some off → off < configMapped → configRead (frameTaken s p h) off h.length = (d, u) →
    exec (.readFrame p h) s = .next (lateSettle (creditBack (respond u h 0 d) (some (p, pairKey h)))))
  ∧ (∀ (p : Nat) (h : FrameHdr) (d e : List Byte) (s u : State), frameServed s p h d.length → h.type = 2 → h.op = 0 →
    keepState s < 2 → h.why = .plain → sysWrite (frameTaken s p h) .peer h.addr d = (.data e, u) →
    exec (.writeFrame p h d) s = .next (lateSettle (creditBack (respond u h 0 []) (some (p, pairKey h)))))
  ∧ (∀ (p id : Nat) (h : FrameHdr) (w v : Word) (s : State), frameServed s p h 16 → h.type = 3 → keepState s < 2 →
    exec (.kerbFrame p h (.status id w v)) s
      = .next (creditBack (kerbStatusIn (respond (frameTaken s p h) h 0 []) id w v) (some (p, pairKey h))))
  ∧ (∀ (p : Nat) (h : FrameHdr) (s : State), frameServed s p h 0 → h.type = 1 → 2 ≤ keepState s →
    ∃ u, exec (.readFrame p h) s = .next (lateSettle (creditBack (respond u h 2 []) (some (p, pairKey h)))) ∧ u.mem = s.mem
      ∧ rdf u HST_ERR HST_ERR_ur = (rdf s HST_ERR HST_ERR_ur + 1) % 2 ^ 16)
  ∧ (∀ (p : Nat) (h : FrameHdr) (d : List Byte) (w : Asked) (s : State), frameServed s p h d.length → h.type = 4 →
    smFind? s.fab.sent h.tag = some w →
    exec (.responseFrame p h d) s = .next (creditBack (answerTag (frameTaken s p h) h.tag h.status d) (some (p, pairKey h))))
  ∧ (∀ (p off : Nat) (h : FrameHdr) (q : PieceId) (k : CollKey) (d : List Byte) (s : State), frameServed s p h d.length → h.type = 5 →
    exec (.collectiveFrame p h q k ⟨off, d⟩) s
      = .next (lateSettle (creditBack (pieceIn (frameTaken s p h) p h q k off d) (some (p, pairKey h)))))
  ∧ (∀ (p : Nat) (h : FrameHdr) (q : PieceId) (s : State), frameServed s p h h.length → h.type = 6 →
    exec (.collectiveAck p h q) s = .next (creditBack (ackIn (frameTaken s p h) h q) (some (p, pairKey h))))
  ∧ (∀ (p v : Nat) (h : FrameHdr) (d : List Byte) (s : State), h.type = 1 ∨ h.type = 2 ∨ h.type = 4 →
    frameViolates s p h (if h.type = 1 then 0 else d.length) v →
    ∃ t, exec (if h.type = 1 then .readFrame p h else if h.type = 2 then .writeFrame p h d else .responseFrame p h d) s
        = .next (if h.type = 4 then t else lateSettle t)
      ∧ violationKept s t p v ∧ t.mem = s.mem)
  ∧ (∀ (p f q i : Nat) (s : State), p < 36 → portActive s p = true → controlFits s p →
    (upto 3).find? (fun i => rdf s (CWY_PORT_PARTNER (groupBase (portDim p) (portPlus p) + i)) CWY_PORT_PARTNER_port == f) = some i →
    exec (.resendMarker p f q) s = .next (tookControl (modPort (takeBuffer s p 0) p (fun x => { x with
      dropNext := !seqAfter q (portOf s (groupBase (portDim p) (portPlus p) + i)).ack })) p))
  ∧ (∀ (p c : Nat) (w : Word) (a : Asked) (s : State), p < 36 → portActive s p = true → controlFits s p → bits w 28 11 = selfId s →
    bits w 59 58 = 1 → 0 < c → smFind? s.fab.sent (bits w 10 0) = some a → (∀ e n, a ≠ .acked e n) →
    exec (.nakFrame p c w) s = .next (tookControl (answerTag (takeBuffer s p 0) (bits w 10 0) 3 []) p))
  ∧ (∀ (n : Nat) (a : Asked) (s : State), smFind? s.fab.sent n = some a → (∀ e k, a ≠ .acked e k) →
    ∃ u, exec (.requestTimeout n) s = .next (answerTag u n 4 []) ∧ u = { s with fab := u.fab }
      ∧ u.fab = { s.fab with timedOut := s.fab.timedOut ++ [n] })
  ∧ (∀ (n : Nat) (s : State), smFind? s.fab.sent n = none → exec (.requestTimeout n) s = .next s)

/-- Collectives: a queue is enabled once; a record is opened or refused with its status counted; a step that fits its stage and
has a route for every piece sends them; a member that has waited too long ends with a time-out. -/
def Obligations.Collectives : Prop :=
  (∀ (i : Nat) (s : State), i < 16 → s.boot.pg = true → rdb s (CWY_CQ_CTRL i) CWY_CQ_CTRL_enable = false →
      ∃ t, exec (.collectiveQueueEnable i) s = .next t ∧ cqRing t i = { cqRing s i with enable := true } ∧ t.fab = s.fab)
  ∧ (∀ (i : Nat) (s : State), (16 ≤ i ∨ rdb s (CWY_CQ_CTRL i) CWY_CQ_CTRL_enable = true) →
      exec (.collectiveQueueEnable i) s = .next s)
  ∧ (∀ (i : Nat) (s : State), (16 ≤ i ∨ (cqRing s i).enable = false ∨ 2 ≤ keepState s) →
      exec (.collectiveRecord i) s = .next s)
  ∧ (∀ (i n : Nat) (d : List Byte) (s : State), i < 16 → (cqRing s i).enable = true → keepState s < 2 →
      ringNext s (cqRing s i) = .record n d →
      let u := ringConsumed (ringRead s (cqRing s i)) (cqRing s i) (n + 1)
      (collOf u d = none → bits (wordAt d 5) 63 0 = 0 → ∃ t, exec (.collectiveRecord i) s = .next (dropEarly t (bits (wordAt d 6) 31 0))
        ∧ t.fab = u.fab
        ∧ rdf t CWY_COUNT CWY_COUNT_coll_failed = (rdf u CWY_COUNT CWY_COUNT_coll_failed + 1) % 2 ^ CWY_COUNT_coll_failed.width)
      ∧ (∀ c, collOf u d = some c → findColl u c.id = none → u.fab.colls.length < 64 →
        rdb u CWY_SELF_ID CWY_SELF_ID_id_valid = true → (∀ e ∈ u.fab.early, e.q.id ≠ c.id) →
        ∃ t e, exec (.collectiveRecord i) s = .next t ∧ t.fab.colls = u.fab.colls ++ [e] ∧ e.id = c.id ∧ e.key = c.key
          ∧ e.src = c.src ∧ e.dst = c.dst ∧ e.start = c.start ∧ e.status = c.status))
  ∧ (∀ (n : Nat) (c : Coll) (st : Nat × Nat × Nat) (s : State), findColl s n = some c → c.running = false → keepState s < 2 →
      s.boot.rb = 0 → (collSteps s c.key)[c.pos]? = some st → stepFits s c (stepSends s c st) = true →
      portHeld s c (stepSends s c st) = false →
      (∀ q ∈ stepSends s c st, (pieceRoute s c.key q (pieceHdr s q 5 3 0 (pieceDst s c q) 0)).isSome = true) →
      (∀ e ∈ s.fab.early, e.q.id ≠ n) →
      ∃ t, exec (.collectiveStepStart n) s = .next (advanceColl t n)
        ∧ findColl t n = some { c with copied := true, running := true, stage := stageNow s, unacked := c.unacked ++ stepSends s c st })
  ∧ (∀ (n : Nat) (s : State), findColl s n = none → exec (.collectiveStepStart n) s = .next s
      ∧ exec (.collectiveTimeout n) s = .next s)
  ∧ (∀ (n : Nat) (c : Coll) (st : Nat × Nat × Nat) (q : PieceId) (s : State), findColl s n = some c →
      (collSteps s c.key)[c.pos]? = some st → q ∈ stepExpects s c st → q ∉ c.got →
      exec (.collectiveTimeout n) s = .next (endColl s c 4))

/-! ### The host interface (chapter 13) -/

/-- The link, the function and keep state: a host reset is recorded and takes the function to its reset state; an interruption
holds traffic until the link is back or the retrain time has passed; BAR2 reaches memory through its slots alone; keep state is
asked for, reclaimed by its token or released, and a release leaves memory zero. -/
def Obligations.HostLinkAndKeepState : Prop :=
  (∀ (k : HostResetKind) (s : State), s.boot.rb = 0 → linkServed s = true → ∃ t, exec (.hostReset k) s = .next t
      ∧ t.host.inReset = true ∧ t.pcie.bme = false ∧ t.host.linkLoss = false ∧ t.host.linkUp = (s.host.linkUp && k == .flr)
      ∧ rdf t HST_LINK HST_LINK_resets = (rdf s HST_LINK HST_LINK_resets + 1) % 2 ^ 16
      ∧ rdb t (ICU_SRC 15) ICU_SRC_pending = true ∧ keepState t = (if keepState s = 0 then 1 else keepState s))
  ∧ (∀ (k : HostResetKind) (s : State), s.boot.rb ≠ 0 → ∃ t, exec (.hostReset k) s = .next t
      ∧ t.host.hostHeld = s.host.hostHeld ++ [.hostReset k] ∧ t = { s with host := t.host })
  ∧ (∀ s : State, s.host.linkUp = true → s.host.linkLoss = false → ∃ t, exec .dataLinkDown s = .next t
      ∧ t.host = { s.host with linkLoss := true, lossAt := now s } ∧ rdf t HST_LINK HST_LINK_speed = 0 ∧ RegsKept s t [HST_LINK])
  ∧ (∀ (v w : Nat) (f : Bool) (s : State), linkServed s = true → (s.host.linkUp = false ∨ s.host.linkLoss = true) → 1 ≤ v → v ≤ 6 →
      w ∈ [1, 2, 4, 8, 16] → ∃ u, exec (.dataLinkUp v w f) s = .next (requestsFlow u)
        ∧ u.host = { s.host with linkUp := true, linkLoss := false } ∧ rdf u HST_LINK HST_LINK_speed = v
        ∧ rdf u HST_LINK HST_LINK_width = w ∧ rdb u HST_LINK HST_LINK_flit = f
        ∧ rdf u HST_LINK HST_LINK_interruptions =
            (rdf s HST_LINK HST_LINK_interruptions + if s.host.linkLoss then 1 else 0) % 2 ^ 16)
  ∧ (∀ s : State, s.host.linkLoss = true → s.boot.rb ≠ 0 → ∃ t, exec .linkRetrainExpiry s = .next t
      ∧ t.host.hostHeld = s.host.hostHeld ++ [.linkRetrainExpiry] ∧ t = { s with host := t.host })
  ∧ (∀ s : State, s.host.linkLoss = true → s.boot.rb = 0 → ∃ t, exec .linkRetrainExpiry s = .next t ∧ t.host.linkUp = false
      ∧ t.host.linkLoss = false ∧ t.host.inReset = true
      ∧ rdf t HST_LINK HST_LINK_resets = (rdf s HST_LINK HST_LINK_resets + 1) % 2 ^ 16)
  ∧ (∀ s : State, s.host.linkLoss = false → exec .linkRetrainExpiry s = .next s)
  ∧ (∀ s : State, s.boot.pg = true → ∃ t, exec .busMasterDisable s = .next t ∧ t = { s with pcie := { s.pcie with bme := false } })
  ∧ (∀ s : State, s.boot.pg = true → s.pcie.bme = false → ∃ u, exec .busMasterEnable s = .next (requestsFlow u)
      ∧ u = { s with pcie := { s.pcie with bme := true } })
  ∧ (∀ (o : Nat) (d : BitVec 32) (s : State), hostArrives s = true → 0x10 ≤ o → o < 0x28 → o % 4 = 0 →
      ∃ t, exec (.configurationWrite o d) s = .next t ∧ smGet 0 t.pcie.header o = d.toNat ∧ t = { s with pcie := t.pcie })
  ∧ (∀ (k : UrKind) (s : State), s.boot.pg = true → ∃ t, exec (.unsupportedRequest k) s = .next t ∧ RegsKept s t [HST_ERR] ∧ t.mem = s.mem
      ∧ rdf t HST_ERR HST_ERR_ur = (rdf s HST_ERR HST_ERR_ur + 1) % 2 ^ 16
      ∧ t.out = s.out ++ (if k = .poisonedWrite then [] else [.hostRead 1 []]))
  ∧ (∀ (v : Nat) (s : State), v ∈ s.host.msiSent → v ∉ s.host.msiDue → ∃ t, exec (.msixHoldoffExpiry v) s = .next t
      ∧ v ∉ t.host.msiSent ∧ t.out = s.out)
  ∧ (∀ (v : Nat) (s : State), v ∉ s.host.msiSent → exec (.msixHoldoffExpiry v) s = .next s)
  ∧ (∀ (o a n : Nat) (d e : List Byte) (p : PlaceSlot) (s u : State), hostNow s → s.pcie.d3hot = false → barsRefuse s = false →
      (o + d.length ≤ 2 ^ s.pcie.bar2Log2 → slotAt s o d.length = some (p, a) → p.write = true →
        sysWrite s .host a d = (.data e, u) → exec (.bar2Write o d false) s = .next (lateSettle u))
      ∧ (o + d.length ≤ 2 ^ s.pcie.bar2Log2 → slotAt s o d.length = none → ∃ t, exec (.bar2Write o d false) s = .next (lateSettle t)
        ∧ OnlyRegs s t [HST_ERR]
        ∧ rdf t HST_ERR HST_ERR_bar2_unmapped = (rdf s HST_ERR HST_ERR_bar2_unmapped + 1) % 2 ^ 16)
      ∧ (∃ t, exec (.bar2Write o d true) s = .next (lateSettle t) ∧ RegsKept s t [HST_ERR] ∧ t.mem = s.mem
        ∧ rdf t HST_ERR HST_ERR_ur = (rdf s HST_ERR HST_ERR_ur + 1) % 2 ^ 16)
      ∧ (o + n ≤ 2 ^ s.pcie.bar2Log2 → slotAt s o n = some (p, a) → p.read = true →
        sysRead s .host .requester a n = (.data e, u) → exec (.bar2Read o n) s = .next (lateSettle (emit u (.hostRead 0 e)))))
  ∧ (∀ s : State, suspended s = [] → exec .holdExpiry s = .next s)
  ∧ (∀ (s : State) (n : Nat), ((suspended s).map (fun r => holdUntil s r.2)).min? = some n → n < 2 ^ 64 →
      ∃ t, exec .holdExpiry s = .next t
        ∧ ∀ i, ∀ r ∈ (chanOf t i).regions, r.active = true ∨ max (now s) n < holdUntil s r)
  ∧ (∀ s : State, s.boot.pg = true → ∃ t, exec .keepEnter s = .next t ∧ keepState t = (if keepState s = 0 then 1 else keepState s)
      ∧ OnlyRegs s t [HST_KEEP_STATUS])
  ∧ (∀ s : State, s.boot.pg = true → ∃ t, exec .keepRelease s = .next t ∧ keepState t = (if keepState s = 2 then 3 else keepState s)
      ∧ OnlyRegs s t [HST_KEEP_STATUS])
  ∧ (∀ (w : Word) (s : State), s.boot.pg = true → keepState s = 2 →
      (w ≠ rd s HST_KEEP_TOKEN → ∃ t, exec (.keepReclaim w) s = .next t ∧ keepState t = 2 ∧ OnlyRegs s t [HST_KEEP_STATUS]
        ∧ rdf t HST_KEEP_STATUS HST_KEEP_STATUS_refused = min (rdf s HST_KEEP_STATUS HST_KEEP_STATUS_refused + 1) 255)
      ∧ (w = rd s HST_KEEP_TOKEN → ∃ u, exec (.keepReclaim w) s = .next (goOnAll u) ∧ keepState u = 0 ∧ rd u HST_KEEP_TOKEN = 0
        ∧ u.host.inReset = false ∧ (∀ l, (coreOf u l).held = false)
        ∧ (∀ i, (chanOf s i).st = .kept → (chanOf u i).st = .orphaned) ∧ u.mem = s.mem))
  ∧ (∀ (w : Word) (s : State), keepState s ≠ 2 → exec (.keepReclaim w) s = .next s)
  ∧ (∀ s : State, keepState s = 3 → ∃ u, exec .keepReleaseComplete s = .next (goOnAll u) ∧ keepState u = 0
      ∧ u.host.chans = [] ∧ u.host.slots = [] ∧ u.host.holdQ = []
      ∧ (∀ a, a < userEnd ∨ scratchBase ≤ a → memByte u.mem a = 0)
      ∧ ∀ l x, (strOf s l x).st = .kept → (strOf u l x).st = .idle)
  ∧ (∀ s : State, keepState s ≠ 3 → exec .keepReleaseComplete s = .next s)

/-- Channels: doorbells raise the producer count and set the consumer count, or are counted as bad; the mailbox makes, destroys,
resumes, adopts and confirms, each with its status; a slot whose entry is visible is taken, one that is not is read again, at most
64 times; an entry that has been carried out leaves its channel. -/
def Obligations.ChannelsAndMailbox : Prop :=
  (∀ (i : Nat) (d : Word) (s : State), i < 4096 → hostNow s →
      (∀ b : BellWrite, ∀ c, c = .commandDoorbell i b ∧ b.at_ ≠ 0 ∨ c = .completionDoorbell i b ∧ b.at_ ≠ 8
          ∨ (c = .commandDoorbell i b ∨ c = .completionDoorbell i b)
            ∧ (b.width ≠ 8 ∨ barsRefuse s = true ∨ bellMatches s i b.data = false) →
        ∃ t, exec c s = .next t ∧ OnlyRegs s t [HST_ERR]
          ∧ rdf t HST_ERR HST_ERR_bad_doorbell = (rdf s HST_ERR HST_ERR_bad_doorbell + 1) % 2 ^ 16)
      ∧ (barsRefuse s = false → bellMatches s i d = true →
        (∃ t, exec (.completionDoorbell i ⟨8, 8, d⟩) s = .next t ∧ chanOf t i = { chanOf s i with cqCons := bits d 31 0 }
          ∧ (∀ j, j ≠ i → chanOf t j = chanOf s j) ∧ t = { s with host := t.host })
        ∧ ∀ k, 0 < k → k < 2 ^ 31 → bits d 31 0 = ((chanOf s i).producer + k) % 2 ^ 32 →
          (chanOf s i).producer + k ≤ (chanOf s i).consumer + 2 ^ (chanOf s i).ringLog2 →
          ∃ t, exec (.commandDoorbell i ⟨0, 8, d⟩) s = .next t
            ∧ chanOf t i = { chanOf s i with producer := (chanOf s i).producer + k }
            ∧ (∀ j, j ≠ i → chanOf t j = chanOf s j) ∧ t = { s with host := t.host }))
  ∧ (∀ s : State, mboxTakes s →
      (mboxConfigOk s = false → ∃ t, exec .create s = .next t ∧ mboxSays t 1 0 ∧ t.host = s.host)
      ∧ (∀ i, mboxConfigOk s = true → freeIndex s = some i → ∃ t, exec .create s = .next t
          ∧ (chanOf t i).st = .opened ∧ (chanOf t i).consumer = 0 ∧ (chanOf t i).producer = 0 ∧ (chanOf t i).entries = []
          ∧ genOf t i = (if genOf s i = 0xFFFFF then 1 else genOf s i + 1) ∧ mboxSays t 0 (genOf t i * 4096 + i)
          ∧ ∀ j, j ≠ i → chanOf t j = chanOf s j))
  ∧ (∀ (i : Nat) (s : State), mboxNames s i → (chanOf s i).st = .opened → ∃ t, exec .destroy s = .next t
      ∧ (chanOf t i).st = .destroying ∧ t.host.destroy = some i ∧ rdb t CMD_MBOX_RESULT CMD_MBOX_RESULT_busy = true)
  ∧ (∀ (i : Nat) (s : State), mboxNames s i →
      ((chanOf s i).st = .stopped → ∃ t, exec .resume s = .next t ∧ (chanOf t i).st = .opened ∧ mboxSays t 0 0)
      ∧ ((chanOf s i).st ≠ .stopped → ∃ t, exec .resume s = .next t ∧ mboxSays t 4 0 ∧ t.host = s.host)
      ∧ ((chanOf s i).st = .orphaned → mboxConfigOk s = true → ∃ t, exec .adopt s = .next t ∧ (chanOf t i).st = .opened
          ∧ mboxSays t 0 (handleOf s i))
      ∧ ((chanOf s i).st ≠ .orphaned → ∃ t, exec .adopt s = .next t ∧ mboxSays t 4 0 ∧ t.host = s.host))
  ∧ (∀ (i : Nat) (s : State), mboxNames s i → (chanOf s i).st = .opened →
      let w := (mboxArg s 0).toNat
      ((∀ r ∈ (chanOf s i).regions, r.w ≠ w) → ∃ t, exec .confirm s = .next t ∧ mboxSays t 6 0 ∧ t.host = s.host)
      ∧ ∀ r, (chanOf s i).regions.find? (fun r => r.w == w) = some r →
        (r.epoch = bits (mboxArg s 1) 31 0 → ∃ t, exec .confirm s = .next t ∧ mboxSays t 0 (regionHeld s i w)
          ∧ ∀ x ∈ (chanOf t i).regions, x.w = w → x.active = true)
        ∧ (r.epoch ≠ bits (mboxArg s 1) 31 0 → ∃ t, exec .confirm s = .next t ∧ mboxSays t 7 0
          ∧ ∀ x ∈ (chanOf t i).regions, x.w ≠ w))
  ∧ (∀ (i : Nat) (s : State), i < 4096 → (chanOf s i).st = .destroying → (chanOf s i).entries = [] →
      (∀ c ∈ s.cores, ∀ u, (c.2.str u).owner = some i → (c.2.str u).atRest = true) → ∃ t, exec (.channelFreed i) s = .next t
        ∧ (chanOf t i).st = .free ∧ (s.host.destroy = some i → mboxSays t 0 0 ∧ t.host.destroy = none))
  ∧ (∀ (i : Nat) (d : List Byte) (s : State), i < 4096 → reads s i = true → (chanOf s i).ringDev = false →
      let n := (chanOf s i).consumer + (chanOf s i).chain.length
      ((chanOf s i).fetching = true → visible n d = false → ∃ t, exec (.entryFetch i d) s = .next t
          ∧ chanOf t i = { chanOf s i with fetching := false, reread := 0 })
      ∧ ((chanOf s i).fetching = true → visible n d = true → (chanOf s i).chain = [] →
          ∀ x, x = slotOf n d → x.zero = true → x.inline_ ≤ 192 → x.chain = false → x.op ≠ 0x7F → canAccept s i 1 = true →
          entryRefusal (chanOf s i).kind x.e = none → x.e.fence = false → ∃ t e, exec (.entryFetch i d) s = .next t
            ∧ e ∈ (chanOf t i).entries ∧ e.n = n ∧ e.op = x.op ∧ e.phase = .started
            ∧ (chanOf t i).consumer = (chanOf s i).consumer + 1)
      ∧ ((chanOf s i).fetching = false → visible n d = false → (chanOf s i).reread < 63 →
          ∃ t, exec (.entryReread i d) s = .next t ∧ chanOf t i = { chanOf s i with reread := (chanOf s i).reread + 1 })
      ∧ ((chanOf s i).fetching = false → visible n d = false → 63 ≤ (chanOf s i).reread →
          ∃ t, exec (.entryReread i d) s = .next t ∧ (chanOf t i).st = .stopped
            ∧ rdf t (CMD_CHAN i) CMD_CHAN_cause = 1))
  ∧ (∀ (i n : Nat) (w : Bool) (e : Entry) (s : State), i < 4096 →
      (chanOf s i).entries.find? (fun e => e.n == n && entryDone s e) = some e → ∃ t, exec (.entryComplete i n w) s = .next t
        ∧ ∀ x ∈ (chanOf t i).entries, x.n ≠ n)

/-- Command entries: each operation of Table 13-7 that has started ends with its status and value, or runs until what it started
has ended. -/
def Obligations.CommandEntries : Prop :=
  (∀ (i n : Nat) (e : Entry) (s : State), entryStarted s i n 0x00 e → ∃ t, exec (.cmdNop i n) s = .next t
      ∧ entryCarried t i n 0 0 ∧ t = { s with host := t.host })
  ∧ (∀ (i n : Nat) (e : Entry) (d : List Byte) (s : State), entryStarted s i n 0x01 e →
      (unitHeld s e = false → exec (.copy i n d) s = .next (lateSettle s))
      ∧ (unitHeld s e = true → readsNow s e ≠ [] → ∃ t, exec (.copy i n d) s = .next (lateSettle t) ∧ t.mem = s.mem
        ∧ ∃ z ∈ (chanOf t i).entries, z.n = n ∧ z.reads = e.reads + (readsNow s e).length)
      ∧ (unitHeld s e = true → readsNow s e = [] →
        let x := copyPieces i n e.rows e.got (e.rows.pieces.drop e.pos) s e.pos e.value d
        (x.code = none → x.pos = e.pos → exec (.copy i n d) s = .next (lateSettle s))
        ∧ (x.code = none → x.pos ≠ e.pos → exec (.copy i n d) s
            = .next (lateSettle (modEntry x.st i n (fun z => { z with pos := x.pos, value := x.done }))))
        ∧ (∀ c z, x.code = some c → entryOf x.st i n = some z → z.phase ≠ .ended →
          ∃ t, exec (.copy i n d) s = .next (lateSettle t) ∧ t.mem = x.st.mem
            ∧ (0 < z.asked → entryRuns t i n)
            ∧ (z.asked = 0 → entryCarried t i n (if c = 0 then z.code else c) (x.done - z.lost)))))
  ∧ (∀ (i n : Nat) (e : Entry) (s : State), entryStarted s i n 0x02 e →
      (unitHeld s e = false → exec (.writeInline i n) s = .next (lateSettle s))
      ∧ (unitHeld s e = true → e.payload = [] → entryOf s i n = some e → e.asked = 0 →
          ∃ t, exec (.writeInline i n) s = .next (lateSettle t) ∧ entryCarried t i n e.code (e.value - e.lost) ∧ t.mem = s.mem)
      ∧ (∀ z u y, unitHeld s e = true → e.payload ≠ [] → e.pos = 0 → e.value = 0 →
          e.arg 0 % 256 + e.payload.length ≤ 256 → e.arg 0 + e.payload.length ≤ userEnd →
          sysWrite s .host (e.arg 0) e.payload = (.data z, u) → entryOf u i n = some y → y.asked = 0 → y.phase ≠ .ended →
          ∃ t, exec (.writeInline i n) s = .next (lateSettle t) ∧ t.mem = u.mem
            ∧ entryCarried t i n y.code (e.payload.length - y.lost)))
  ∧ (∀ (i n : Nat) (e : Entry) (s : State), entryStarted s i n 0x03 e →
      (namedStreams e = none → ∃ t, exec (.start i n) s = .next t ∧ entryCarried t i n 0x05 0 ∧ t.cores = s.cores)
      ∧ (∀ ts, namedStreams e = some ts → (∀ q ∈ ts, (strOf s q.1 q.2).atRest = true) → bitsN (e.arg 2) 3 3 = 0 →
          (e.arg 0 % 8 = 0 → e.arg 0 < 2 ^ 48 → ts ≠ [] → ∃ t, exec (.start i n) s = .next t ∧ entryRuns t i n
            ∧ (∀ q ∈ ts, (strOf t q.1 q.2).start = true ∧ (strOf t q.1 q.2).pc = e.arg 0
                ∧ (strOf t q.1 q.2).reg 1 = e.args.getD 3 0 ∧ (strOf t q.1 q.2).owner = some i)
            ∧ ∀ l u, (l, u) ∉ ts → strOf t l u = strOf s l u)
          ∧ (e.arg 0 % 8 ≠ 0 → ∃ t, exec (.start i n) s = .next t ∧ entryCarried t i n 0x02 0 ∧ t.cores = s.cores))
      ∧ (∀ ts, namedStreams e = some ts → (∃ q ∈ ts, (strOf s q.1 q.2).atRest = false) → ∃ t, exec (.start i n) s = .next t
          ∧ entryCarried t i n 0x05 0 ∧ t.cores = s.cores))
  ∧ (∀ (i n : Nat) (e : Entry) (s : State), entryStarted s i n 0x04 e →
      (namedStreams e = none → ∃ t, exec (.cmdHalt i n) s = .next t ∧ entryCarried t i n 0x02 0 ∧ t.cores = s.cores)
      ∧ ∀ ts, namedStreams e = some ts → ∃ t, exec (.cmdHalt i n) s = .next t ∧ entryRuns t i n
          ∧ (∀ q ∈ ts, strOf t q.1 q.2 = (strOf s q.1 q.2).halting .external 0)
          ∧ ∀ l u, (l, u) ∉ ts → ((strOf s l u).st ≠ .waiting ∨ (strOf s l u).wait = none ∨ ∀ q ∈ ts, q.1 ≠ l) →
            strOf t l u = strOf s l u)
  ∧ (∀ (i n : Nat) (e : Entry) (s : State), entryStarted s i n 0x05 e →
      (kblockOf ((upto 8).map (wordAt e.payload)) = none → ∃ t, exec (.cmdKerb i n) s = .next t ∧ entryCarried t i n 0x02 0
        ∧ t.engines = s.engines)
      ∧ ∀ b, kblockOf ((upto 8).map (wordAt e.payload)) = some b → ∃ u, exec (.cmdKerb i n) s = .next (submitKerb u (.entry i n) b)
        ∧ entryRuns u i n ∧ u = { s with host := u.host })
  ∧ (∀ (i n : Nat) (e : Entry) (s : State), entryStarted s i n 0x06 e →
      let xs := extentsOf e.payload
      let len := (xs.map (·.2)).sum
      ((e.arg 0 % 2 ^ 21 ≠ 0 ∨ e.arg 0 < hostBase ∨ hostEnd < e.arg 0 + len) → ∃ t, exec (.regionReg i n) s = .next t
        ∧ entryCarried t i n 0x02 0 ∧ (chanOf t i).regions = (chanOf s i).regions)
      ∧ (e.arg 0 % 2 ^ 21 = 0 → hostBase ≤ e.arg 0 → e.arg 0 + len ≤ hostEnd →
          (∀ x ∈ xs, x.1 % 4096 = 0 ∧ x.2 ≠ 0 ∧ x.2 % 4096 = 0) →
          (∀ r ∈ (chanOf s i).regions, r.w + r.len ≤ e.arg 0 ∨ e.arg 0 + len ≤ r.w) → (chanOf s i).regions.length < 256 →
          extentsUsed s + xs.length ≤ 65536 → ∃ t r, exec (.regionReg i n) s = .next t ∧ entryCarried t i n 0 len
            ∧ (chanOf t i).regions = (chanOf s i).regions ++ [r] ∧ r.w = e.arg 0 ∧ r.extents = xs ∧ r.active = true
            ∧ r.epoch = bitsN (e.arg 1) 31 0))
  ∧ (∀ (i n : Nat) (e : Entry) (s : State), entryStarted s i n 0x07 e →
      ((∀ r ∈ (chanOf s i).regions, r.w ≠ e.arg 0) → ∃ t, exec (.regionDereg i n) s = .next t ∧ entryCarried t i n 0x07 0)
      ∧ ∀ r, (chanOf s i).regions.find? (fun r => r.w == e.arg 0) = some r → s.host.holdQ = [] → s.reqs = [] →
          ∃ t, exec (.regionDereg i n) s = .next t ∧ entryCarried t i n 0 0 ∧ ∀ x ∈ (chanOf t i).regions, x.w ≠ r.w)
  ∧ (∀ (i n : Nat) (e : Entry) (s : State), entryStarted s i n 0x08 e →
      let k := bitsN (e.arg 2) 11 0
      (e.arg 0 % 2 ^ 21 = 0 → e.arg 1 % 2 ^ 21 = 0 → 0 < e.arg 1 → e.arg 1 ≤ 2 ^ 30 → e.arg 0 + e.arg 1 ≤ userEnd →
        (∀ p, smFind? s.host.slots k = some p → p.chan = i) → ∃ t p, exec (.placeReg i n) s = .next t
          ∧ entryCarried t i n 0 (k * 2 ^ 30) ∧ smFind? t.host.slots k = some p ∧ p.chan = i ∧ p.addr = e.arg 0 ∧ p.len = e.arg 1
          ∧ (p.write = true ↔ bitsN (e.arg 2) 33 33 = 1) ∧ (p.read = true ↔ bitsN (e.arg 2) 32 32 = 1))
      ∧ ((e.arg 0 % 2 ^ 21 ≠ 0 ∨ e.arg 1 = 0 ∨ 2 ^ 30 < e.arg 1) → ∃ t, exec (.placeReg i n) s = .next t
          ∧ entryCarried t i n 0x02 0 ∧ t.host.slots = s.host.slots))
  ∧ (∀ (i n : Nat) (e : Entry) (s : State), entryStarted s i n 0x09 e →
      let k := bitsN (e.arg 2) 11 0
      (∀ p, smFind? s.host.slots k = some p → p.chan = i → ∃ t, exec (.placeDereg i n) s = .next t ∧ entryCarried t i n 0 0
          ∧ smFind? t.host.slots k = none)
      ∧ (smFind? s.host.slots k = none → ∃ t, exec (.placeDereg i n) s = .next t ∧ entryCarried t i n 0x07 0
          ∧ t.host.slots = s.host.slots))
  ∧ (∀ (i n : Nat) (e : Entry) (s : State), entryStarted s i n 0x0A e →
      ((stepState s = 2 ∨ stepState s = 3) → ∃ t, exec (.stepLoad i n) s = .next t ∧ entryCarried t i n 0x05 0
          ∧ t.train = s.train)
      ∧ (stepState s ≠ 2 → stepState s ≠ 3 → (e.arg 0 % 128 ≠ 0 ∨ 2 ^ 48 ≤ e.arg 0) → ∃ t, exec (.stepLoad i n) s = .next t
          ∧ entryCarried t i n 0x02 0 ∧ t.train = s.train)
      ∧ (stepState s ≠ 2 → stepState s ≠ 3 → e.arg 0 % 128 = 0 → e.arg 0 < 2 ^ 48 →
          let u := loadPlan (wrf s CMD_STEP_PLAN CMD_STEP_PLAN_plan (e.arg 0 / 128)) (some (i, e.n))
          ∃ t, exec (.stepLoad i n) s = .next t ∧ t.train = u.train ∧ t.cfg = u.cfg ∧ t.mem = u.mem
            ∧ entryCarried t i n 0 (bits (rd u CMD_STEP_STATUS) 63 56)))
  ∧ (∀ (i n : Nat) (e : Entry) (s : State), entryStarted s i n 0x0B e → ∃ t, exec (.fillerUnit i n) s = .next t
      ∧ entryRuns t i n ∧ t = { s with host := t.host })

/-! ### Power-up, boot and resets (chapter 15) -/

/-- Boot: a loss of power clears the device, power-good begins attempt 1 or waits for SYS_RESET_N, a step that completes goes on to
the next, step 4 boots the slot marked, else the other, else fails with cause 3, step 8 fails with cause 5 where a group has more
than 36 failed lanes, step 9 makes the device ready; a step that fails its check ends the attempt, and the wait before the next
attempt ends with it. -/
def Obligations.BootAttempts : Prop :=
  (∀ s : State, ∃ t, exec .powerLoss s = .next t ∧ t.boot = { rstLow := s.boot.rstLow, perst := s.boot.perst, vrLow := s.boot.vrLow, tripNv := s.boot.tripNv }
      ∧ deviceCleared s t ∧ (∀ o, keptReg o = false → rd t o = resetWord o)
      ∧ deviceReady t = false ∧ rd t PWR_BOOT = 0 ∧ t.thermal = {})
  ∧ (∀ (p : BitVec 5) (s : State), s.boot.pg = true → exec (.powerGood p) s = .next s)
  ∧ (∀ (p : BitVec 5) (s : State), s.boot.pg = false → s.boot.vrLow = true → s.boot.trip = false → ∃ t, exec (.powerGood p) s = .next t
        ∧ t.boot.pg = true ∧ rdb t PWR_STATUS PWR_STATUS_vr_alert = true ∧ rdb t PWR_STATUS PWR_STATUS_lowest_state = true)
  ∧ (∀ (p : BitVec 5) (s : State), s.boot.pg = false → s.boot.vrLow = false →
      (s.boot.rstLow = false → s.boot.began = none → ∃ t, exec (.powerGood p) s = .next t ∧ attemptBegins s t 1
        ∧ t.boot.pg = true ∧ t.boot.straps = p.toNat ∧ RegsKept s t [PWR_BOOT] ∧ t.mem = s.mem)
      ∧ (s.boot.rstLow = true → ∃ t, exec (.powerGood p) s = .next t
        ∧ t = { s with boot := { s.boot with pg := true, straps := p.toNat, waits := true } }))
  ∧ (∀ (b : BootIn) (s : State), (s.boot.step = 0 ∨ 9 < s.boot.step) → exec (.bootStepDone b) s = .next s)
  ∧ (∀ (b : BootIn) (s : State), s.boot.step = 1 → ∃ t, exec (.bootStepDone b) s = .next t ∧ t.boot.step = 2
      ∧ t.boot.sampled = true ∧ RegsKept s t [PWR_STRAP] ∧ (s.boot.sampled = false →
        rdf t PWR_STRAP PWR_STRAP_smb_addr = s.boot.straps % 8 ∧ rdf t PWR_STRAP PWR_STRAP_pcie_sep = s.boot.straps / 16 % 2))
  ∧ (∀ (b : BootIn) (s : State), s.boot.step ∈ [2, 5, 6] → ∃ t, exec (.bootStepDone b) s = .next t
      ∧ t = { s with boot := { s.boot with step := s.boot.step + 1 } })
  ∧ (∀ (b : BootIn) (s : State), s.boot.step = 3 → ∃ t, exec (.bootStepDone b) s = .next t ∧ t.boot.step = 4
      ∧ ∀ i ∈ b.failedSens, i < numSensors → sensorFailed t i = true)
  ∧ (∀ (b : BootIn) (s : State), s.boot.step = 4 →
      let first := s.sec.marked.getD s.sec.active
      (coolEnough s = true → verdictOf b first = some 0 → ∃ t, exec (.bootStepDone b) s = .next t ∧ t.boot.step = 5
        ∧ slotBooted t b first false)
      ∧ (coolEnough s = true → verdictOf b first ≠ some 0 → verdictOf b (1 - first) = some 0 →
        ∃ t, exec (.bootStepDone b) s = .next t ∧ t.boot.step = 5 ∧ slotBooted t b (1 - first) true)
      ∧ (verdictOf b first ≠ some 0 → verdictOf b (1 - first) ≠ some 0 →
        ∃ t, exec (.bootStepDone b) s = .next t ∧ attemptFails s t 4 3)
      ∧ (coolEnough s = false → verdictOf b first = some 0 → ∃ t, exec (.bootStepDone b) s = .next t ∧ attemptFails s t 5 7))
  ∧ (∀ (b : BootIn) (s : State), s.boot.step = 7 → ∃ t, exec (.bootStepDone b) s = .next t ∧ t.boot.step = 8
      ∧ t.rep.pendRet = [] ∧ ∀ id ∈ s.rep.pendRet, id ∈ t.rep.retired ∨ id ∈ t.rep.suspect)
  ∧ (∀ (b : BootIn) (s : State), s.boot.step = 8 →
      ((∀ l ∈ b.lanes, l.2.length ≤ 36) → ∃ t, exec (.bootStepDone b) s = .next t ∧ t.boot.step = 9 ∧ t.cores = s.cores
        ∧ ∀ l ∈ b.lanes, 4 < l.2.length → l.1 ∈ t.rep.halfWidth)
      ∧ ((∃ l ∈ b.lanes, 36 < l.2.length) → ∃ t, exec (.bootStepDone b) s = .next t ∧ attemptFails s t 8 5))
  ∧ (∀ (b : BootIn) (s : State), s.boot.step = 9 → ∃ t, exec (.bootStepDone b) s = .next t ∧ deviceReady t = true
      ∧ t.boot.step = 0 ∧ rdb t MST_STATUS MST_STATUS_is_root = true
      ∧ t.out = s.out ++ [.uart (.bootReady (rdf s PWR_BOOT PWR_BOOT_attempt))])
  ∧ (∀ (c : Nat) (s : State), s.boot.step = 0 → exec (.bootStepTimeout c) s = .next s)
  ∧ (∀ (c : Nat) (s : State), s.boot.step ≠ 0 → ∃ t, exec (.bootStepTimeout c) s = .next t ∧ attemptFails s t s.boot.step c
      ∧ RegsKept s t [PWR_BOOT])
  ∧ (∀ s : State, rdf s PWR_BOOT PWR_BOOT_state = 1 → ∃ t, exec .bootBackoffExpiry s = .next t
      ∧ attemptBegins s t (rdf s PWR_BOOT PWR_BOOT_attempt + 1)
      ∧ now t = (now s + waitLeft s) % 2 ^ 64 ∧ RegsKept s t [PWR_BOOT, MST_TIME])
  ∧ (∀ s : State, rdf s PWR_BOOT PWR_BOOT_state ≠ 1 → exec .bootBackoffExpiry s = .next s)
  ∧ (∀ s : State, ∃ t, exec .perstRelease s = .next t ∧ t = { s with boot := { s.boot with perst := false } })

/-- Resets: the key of a device reset, what it clears and what follows, SYS_RESET_N, a Roadbed partial reset from its four causes
up to its end, the watchdog. A reset asked for with a wrong key, or in a state in which it is ignored, changes nothing. -/
def Obligations.ResetsOfTheDevice : Prop :=
  (∀ (k : BitVec 8) (s : State), (k ≠ 0xA5 ∨ s.boot.pg = false) →
      exec (.pwrResetDevice k) s = .next s)
  ∧ (∀ s : State, s.boot.pg = true →
      (rdf s PWR_BOOT PWR_BOOT_state ≠ 2 → ∃ t, exec (.pwrResetDevice 0xA5) s = .next t ∧ deviceCleared s t ∧ attemptBegins s t 1
        ∧ t.boot.trip = false ∧ (s.boot.trip = true → t.out = s.out ++ [.pin 1 true]))
      ∧ (rdf s PWR_BOOT PWR_BOOT_state = 2 → s.boot.rstLow = false → ∃ t, exec (.pwrResetDevice 0xA5) s = .next t
        ∧ deviceCleared s t ∧ ((∀ b, s.boot.began = some b → b + 60 * 10 ^ 9 < wallNow s) → attemptBegins s t 1)
        ∧ (∀ b, s.boot.began = some b → wallNow s ≤ b + 60 * 10 ^ 9 → attemptWaits t (rdf s PWR_BOOT PWR_BOOT_attempt + 1))))
  ∧ (∀ s : State, s.boot.pg = true → rdf s PWR_BOOT PWR_BOOT_state ≠ 3 → ∃ t, exec .sysReset s = .next t ∧ deviceCleared s t
      ∧ t.boot.rstLow = true ∧ t.boot.waits = true ∧ t.boot.step = 0 ∧ deviceReady t = false)
  ∧ (∀ s : State, (s.boot.pg = false ∨ rdf s PWR_BOOT PWR_BOOT_state = 3) → ∃ t, exec .sysReset s = .next t
      ∧ t = { s with boot := { s.boot with rstLow := true } })
  ∧ (∀ s : State, s.boot.waits = false → ∃ t, exec .sysResetRelease s = .next t ∧ t = { s with boot := { s.boot with rstLow := false } })
  ∧ (∀ s : State, s.boot.waits = true → s.boot.pg = true →
      ((∀ b, s.boot.began = some b → b + 60 * 10 ^ 9 < wallNow s) → ∃ t, exec .sysResetRelease s = .next t ∧ t.boot.rstLow = false
        ∧ attemptBegins s t 1 ∧ RegsKept s t [PWR_BOOT])
      ∧ (∀ b, s.boot.began = some b → wallNow s ≤ b + 60 * 10 ^ 9 → ∃ t, exec .sysResetRelease s = .next t ∧ t.boot.rstLow = false
        ∧ attemptWaits t (rdf s PWR_BOOT PWR_BOOT_attempt + 1) ∧ RegsKept s t [PWR_BOOT]))
  ∧ (∀ s : State, s.boot.pg = true → ∃ t, exec .watchdogKick s = .next t ∧ t = { s with pow := { s.pow with kicked := now s } })
  ∧ (∀ s : State, deviceReady s = true → s.boot.rb = 0 →
      (∃ t, exec (.pwrResetRoadbed 0xA5) s = .next t ∧ roadbedBegins s t 1)
      ∧ (∃ t, exec .roadbedPllUnlock s = .next t ∧ roadbedBegins s t 4)
      ∧ (rdf s PWR_CTRL PWR_CTRL_watchdog_ms ≠ 0 → ∃ t, exec .watchdogExpiry s = .next t
        ∧ roadbedBegins (advanceTo s (s.pow.kicked + rdf s PWR_CTRL PWR_CTRL_watchdog_ms * 10 ^ 6)) t 2))
  ∧ (∀ s : State, (deviceReady s = false ∨ s.boot.rb ≠ 0) → exec (.pwrResetRoadbed 0xA5) s = .next s
      ∧ exec .roadbedPllUnlock s = .next s)
  ∧ (∀ (k : BitVec 8) (s : State), k ≠ 0xA5 → exec (.pwrResetRoadbed k) s = .next s)
  ∧ (∀ s : State, rdf s PWR_CTRL PWR_CTRL_watchdog_ms = 0 → exec .watchdogExpiry s = .next s)
  ∧ (∀ (p : List Nat) (s : State), s.boot.rb ≠ 1 → exec (.culvertHold p) s = .next s)
  ∧ (∀ (p : List Nat) (s : State), s.boot.rb = 1 → ∃ t, exec (.culvertHold p) s = .next t ∧ t.boot.rb = 2 ∧ t.boot.authDue = true
      ∧ t.fab.ports = [] ∧ t.sec.running = false ∧ t.sec.claims = [] ∧ t.sec.doe = none
      ∧ (∀ o, roadbedReg o = true → o ≠ SEC_STATUS → rd t o = resetWord o)
      ∧ (s.fab.sent = [] → rdb t SEC_STATUS SEC_STATUS_debug_open = rdb s SEC_STATUS SEC_STATUS_debug_open))
  ∧ (∀ s : State, s.boot.rb ≠ 2 → exec .culvertRelease s = .next s)
  ∧ (∀ s : State, s.boot.rb = 2 → s.host.hostHeld = [] → s.fab.resend = [] → s.fab.asks = [] → s.fab.colls = [] →
      s.mst.roadbed = false → ∃ t, exec .culvertRelease s = .next t ∧ t.boot.rb = 0
        ∧ (∀ p, p < 36 → rdb s (CWY_PORT_CTRL p) CWY_PORT_CTRL_enable = true → portState t p = 1)
        ∧ rdf t (SEC_OWN 0) SEC_OWN_owner = (if rdb s MST_TICK_PIN MST_TICK_PIN_claimed then rdf s MST_TICK_PIN MST_TICK_PIN_mode
            else 0))
  ∧ (∀ (b : BootIn) (s : State), s.boot.authDue = true →
      let first := s.sec.marked.getD s.sec.active
      (verdictOf b first = some 0 → ∃ t, exec (.roadbedAuthDone b) s = .next t ∧ t.boot.authDue = false ∧ slotBooted t b first false)
      ∧ (verdictOf b first ≠ some 0 → verdictOf b (1 - first) = some 0 → ∃ t, exec (.roadbedAuthDone b) s = .next t
        ∧ t.boot.authDue = false ∧ slotBooted t b (1 - first) true)
      ∧ (verdictOf b first ≠ some 0 → verdictOf b (1 - first) ≠ some 0 → exec (.roadbedAuthDone b) s = .next s))
  ∧ (∀ (b : BootIn) (s : State), s.boot.authDue = false → exec (.roadbedAuthDone b) s = .next s)

/-! ### Power, temperature and repair (chapters 14 to 16) -/

/-- VR_ALERT_N takes the clocks to the lowest state and is counted; the lowest state ends 100 µs after the line is high again; a
rail that has risen shows its new voltage, except in the lowest state; a cluster's PLL loses and regains lock. With the rails down
a command of a register has no effect. -/
def Obligations.PowerEvents : Prop :=
  (∀ s : State, (s.boot.trip = true ∨ s.boot.pg = false ∨ rdb s PWR_STATUS PWR_STATUS_vr_alert = true) →
      exec .vrAlertAssert s = .next { s with boot := { s.boot with vrLow := true } })
  ∧ (∀ s : State, s.boot.trip = false → s.boot.pg = true → rdb s PWR_STATUS PWR_STATUS_vr_alert = false →
      ∃ t, exec .vrAlertAssert s = .next t ∧ rdb t PWR_STATUS PWR_STATUS_vr_alert = true
        ∧ rdb t PWR_STATUS PWR_STATUS_lowest_state = true ∧ t.pow.highAt = none ∧ rdb t (ICU_SRC 12) ICU_SRC_pending = true
        ∧ (∀ c, c < 144 → rdf t (PWR_CL_STATUS c) PWR_CL_STATUS_rail_mv = 600)
        ∧ rdf t PWR_COUNT PWR_COUNT_vr_alerts = (rdf s PWR_COUNT PWR_COUNT_vr_alerts + 1) % 2 ^ 16)
  ∧ (∀ s : State, rdb s PWR_STATUS PWR_STATUS_vr_alert = true → ∃ t, exec .vrAlertRelease s = .next t
      ∧ rdb t PWR_STATUS PWR_STATUS_vr_alert = false ∧ t.pow.highAt = some (now s) ∧ RegsKept s t [PWR_STATUS]
      ∧ rdb t PWR_STATUS PWR_STATUS_lowest_state = rdb s PWR_STATUS PWR_STATUS_lowest_state)
  ∧ (∀ s : State, rdb s PWR_STATUS PWR_STATUS_vr_alert = false →
      exec .vrAlertRelease s = .next { s with boot := { s.boot with vrLow := false } })
  ∧ (∀ s : State, rdb s PWR_STATUS PWR_STATUS_lowest_state = true → milestonesRun s = false →
      rdb s PWR_STATUS PWR_STATUS_vr_alert = false → rdb s THM_STATUS THM_STATUS_throttle = false →
      ∃ t, exec .lowestStateEnd s = .next t ∧ rdb t PWR_STATUS PWR_STATUS_lowest_state = false
        ∧ (∀ h, s.pow.highAt = some h → h + 100000 < 2 ^ 64 → h + 100000 ≤ now t)
        ∧ (∀ c, c < 144 → (c ∈ t.pow.rising ↔ 600 < smGet 600 s.pow.rails c)) ∧ t.pow.slow = t.pow.rising
        ∧ RegsKept s t [PWR_STATUS, MST_TIME])
  ∧ (∀ s : State, (rdb s PWR_STATUS PWR_STATUS_lowest_state = false ∨ milestonesRun s = true ∨
        rdb s PWR_STATUS PWR_STATUS_vr_alert = true ∨ rdb s THM_STATUS THM_STATUS_throttle = true) → exec .lowestStateEnd s = .next s)
  ∧ (∀ (c : Nat) (s : State), c < 144 → c ∈ s.pow.rising → rdb s PWR_STATUS PWR_STATUS_lowest_state = false →
      ∃ t, exec (.railRiseDone c) s = .next t ∧ c ∉ t.pow.rising ∧ c ∉ t.pow.slow
      ∧ rdf t (PWR_CL_STATUS c) PWR_CL_STATUS_rail_mv = smGet 600 s.pow.rails c % 2 ^ 12 ∧ RegsKept s t [PWR_CL_STATUS c])
  ∧ (∀ (c : Nat) (s : State), c < 144 → (c ∉ s.pow.rising ∨ rdb s PWR_STATUS PWR_STATUS_lowest_state = true) →
      exec (.railRiseDone c) s = .next s)
  ∧ (∀ (c : Nat) (s : State), c < 144 → s.boot.pg = true → ∃ t, exec (.clusterPllUnlock c) s = .next t ∧ c ∈ t.pow.pllDown
      ∧ (∀ d, d ≠ c → (d ∈ t.pow.pllDown ↔ d ∈ s.pow.pllDown)) ∧ t = { s with pow := t.pow })
  ∧ (∀ (c : Nat) (s : State), c < 144 → s.boot.pg = true → c ∈ s.pow.pllDown →
      ∃ t, exec (.clusterPllRelock c) s = .next (lateSettle t) ∧ c ∉ t.pow.pllDown
      ∧ RegsKept s t [PWR_COUNT] ∧ rdf t PWR_COUNT PWR_COUNT_pll_relock = (rdf s PWR_COUNT PWR_COUNT_pll_relock + 1) % 2 ^ 16)
  ∧ (∀ (c : Nat) (s : State), c < 144 → c ∉ s.pow.pllDown → exec (.clusterPllRelock c) s = .next s)
  ∧ (∀ (c : Nat) (s : State), 144 ≤ c → ∀ i, i = .railRiseDone c ∨ i = .clusterPllUnlock c ∨ i = .clusterPllRelock c →
      exec i s = .fault .noSuchInstance)
  ∧ (∀ (i : Instr) (s : State), needsPower i = true → s.boot.pg = false → exec i s = .next s)

/-- A sample of the sensors: a good reading is taken, with its rate of change, a bad one fails its sensor; a reading at the
shutdown ceiling, or a rise of 5 °C per ms, shuts the device down, one at the throttle ceiling, or a rise of 2 °C per ms, throttles
it, and otherwise every stack's band follows its hottest die. A throttle ends once
it may be released, a band pending at its time-out throttles, and a cooled device starts again when its count runs out. -/
def Obligations.TemperatureEvents : Prop :=
  (∀ (rs : List (Nat × Int)) (bad : List Nat) (s : State), s.boot.sampled = false → exec (.thermalSample rs bad) s = .next s)
  ∧ (∀ (rs : List (Nat × Int)) (bad : List Nat) (s : State) (i : Nat) (r : Int), (rs.map (·.1)).Nodup → (i, r) ∈ rs →
      i < numSensors → sensorFailed s i = false →
      (i ∉ bad → degC (-40) ≤ r → r ≤ degC 150 →
        (∀ p, s.thermal.hist.head? = some p → smGet 0 p i - r ≤ degC 2 ∧ r - smGet 0 p i ≤ degC 2) →
        sensorFailed (takeSample s rs bad) i = false ∧ sensorTemp (takeSample s rs bad) i = r
        ∧ ∀ o, 10 ≤ s.thermal.hist.length → s.thermal.hist.getLast? = some o →
          sensorRate (takeSample s rs bad) i ≡ r - smGet 0 o i [ZMOD 2 ^ 16])
      ∧ ((i ∈ bad ∨ r < degC (-40) ∨ degC 150 < r) → sensorFailed (takeSample s rs bad) i = true))
  ∧ (∀ (rs : List (Nat × Int)) (bad : List Nat) (s u : State), s.boot.sampled = true → u = takeSample s rs bad →
      rdf s PWR_BOOT PWR_BOOT_state ≠ 3 →
      let trips := ∃ i, i < numSensors ∧ (degC 5 ≤ sensorRate u i ∨ shutdownCeiling (sensorClass i) ≤ sensorTemp u i)
      let fast := ∃ i, i < numSensors ∧ degC 2 ≤ sensorRate u i
      let hot := ∃ i, i < numSensors ∧ throttleCeiling (sensorClass i) ≤ sensorTemp u i
      (trips → ∃ t, exec (.thermalSample rs bad) s = .next t ∧ t.boot.trip = true ∧ t.boot.step = 0 ∧ t.cores = [] ∧ t.engines = []
        ∧ t.mem.cells = [] ∧ rdf t PWR_BOOT PWR_BOOT_state = 3 ∧ .pin 1 false ∈ t.out
        ∧ rdb t PWR_STATUS PWR_STATUS_lowest_state = true ∧ keepState t = 0 ∧ t.boot.tripNv = rd t THM_LAST_TRIP
        ∧ rdf t THM_LAST_TRIP THM_LAST_TRIP_shutdowns = min (getf s.boot.tripNv THM_LAST_TRIP_shutdowns + 1) 0xFFFF)
      ∧ (¬ trips → ∃ t, exec (.thermalSample rs bad) s = .next t
        ∧ (∀ k, k < 36 →
            (let b := rdf s (THM_STACK k) THM_STACK_band
             let p := rdf s (THM_STACK k) THM_STACK_pending
             let w := bandWanted b (((upto 16).map (fun d => sensorTemp u (288 + 16 * k + d))).foldl max (degC (-2000)))
             rdf t (THM_STACK k) THM_STACK_pending = (if b < p then max p w else w))
          ∧ rdf t (THM_STACK k) THM_STACK_band = (if milestonesRun s then rdf s (THM_STACK k) THM_STACK_band
              else rdf t (THM_STACK k) THM_STACK_pending))
        ∧ ((fast ∨ hot) → rdb t THM_STATUS THM_STATUS_throttle = true ∧ rdb t PWR_STATUS PWR_STATUS_lowest_state = true
          ∧ (rdb s THM_STATUS THM_STATUS_throttle = false → (fast → rdf t THM_STATUS THM_STATUS_throttle_cause = 1)
            ∧ (¬ fast → rdf t THM_STATUS THM_STATUS_throttle_cause = 2)))
        ∧ (¬ fast → ¬ hot → rdb t THM_STATUS THM_STATUS_throttle = rdb s THM_STATUS THM_STATUS_throttle)))
  ∧ (∀ (rs : List (Nat × Int)) (bad : List Nat) (s u : State), s.boot.sampled = true → u = takeSample s rs bad →
      rdf s PWR_BOOT PWR_BOOT_state = 3 → ∃ t, exec (.thermalSample rs bad) s = .next t
        ∧ (t.boot.cooling = true ↔ ∀ i, i < numSensors → sensorTemp u i < restartBelow (sensorClass i))
        ∧ (t.boot.cooling = false → rdf t PWR_BOOT PWR_BOOT_wait_s = 0xFFFF)
        ∧ (s.boot.cooling = false → t.boot.cooling = true → rdf t PWR_BOOT PWR_BOOT_wait_s = 60))
  ∧ (∀ s : State, rdb s THM_STATUS THM_STATUS_throttle = true → mayRelease s = true → ∃ t, exec .throttleEnd s = .next t
      ∧ rdb t THM_STATUS THM_STATUS_throttle = false ∧ (milestonesRun s = true → RegsKept s t [THM_STATUS])
      ∧ (milestonesRun s = false → rdb s PWR_STATUS PWR_STATUS_vr_alert = false →
        (∀ h, s.pow.highAt = some h → h + 100000 ≤ now s) → rdb t PWR_STATUS PWR_STATUS_lowest_state = false))
  ∧ (∀ s : State, (rdb s THM_STATUS THM_STATUS_throttle = false ∨ mayRelease s = false) → exec .throttleEnd s = .next s)
  ∧ (∀ (k : Nat) (s : State), k < 36 → rdf s (THM_STACK k) THM_STACK_band < rdf s (THM_STACK k) THM_STACK_pending →
      rdb s THM_STATUS THM_STATUS_throttle = false → ∃ t, exec .bandPendingTimeout s = .next t
        ∧ rdb t THM_STATUS THM_STATUS_throttle = true ∧ rdf t THM_STATUS THM_STATUS_throttle_cause = 3
        ∧ rdb t PWR_STATUS PWR_STATUS_lowest_state = true
        ∧ rdf t THM_COUNT THM_COUNT_band_late = (rdf s THM_COUNT THM_COUNT_band_late + 1) % 2 ^ 16
        ∧ rdf t THM_COUNT THM_COUNT_throttles = (rdf s THM_COUNT THM_COUNT_throttles + 1) % 2 ^ 16)
  ∧ (∀ s : State, (∀ k, k < 36 → rdf s (THM_STACK k) THM_STACK_pending ≤ rdf s (THM_STACK k) THM_STACK_band) →
      exec .bandPendingTimeout s = .next s)
  ∧ (∀ s : State, rdf s PWR_BOOT PWR_BOOT_state = 3 → s.boot.cooling = true → s.boot.pg = true → s.boot.rstLow = false →
      now s + waitLeft s < 2 ^ 64 → (∀ b, s.boot.began = some b → b + 60 * 10 ^ 9 < max (wallNow s) s.boot.until_) → ∃ t, exec .restartCountExpiry s = .next t
        ∧ deviceCleared s t ∧ attemptBegins s t 1 ∧ t.boot.trip = false ∧ t.out = s.out ++ [.pin 1 true])
  ∧ (∀ s : State, (rdf s PWR_BOOT PWR_BOOT_state ≠ 3 ∨ s.boot.cooling = false) → exec .restartCountExpiry s = .next s)

/-- The repair path: a second read of a sector ends the doubt or sends it to repair, repair restores the sector or poisons it and
answers what waits for it, or reads the copy that another device has, once; that copy comes back, or where it gave no data the sector
is repaired from what is here; a core is marked to retire at the next milestone, or
refused and marked suspect where its cluster has no room. -/
def Obligations.RepairEvents : Prop :=
  (∀ (sec : Nat) (ok : Bool) (s : State), reqsAt s .reread sec = [] → exec (.waybillReread sec ok) s = .next s)
  ∧ (∀ (sec : Nat) (s : State), reqsAt s .reread sec ≠ [] →
      ((isGlobal (sec * 256) = true ∨ storedBad s sec = false) → ∃ t, exec (.waybillReread sec true) s = .next (lateSettle t)
        ∧ reqsAt t .reread sec = [] ∧ rdf t REP_COUNT_0 REP_COUNT_0_wb_reread = (rdf s REP_COUNT_0 REP_COUNT_0_wb_reread + 1) % 2 ^ 16)
      ∧ (∀ ok, (ok = false ∨ isGlobal (sec * 256) = false ∧ storedBad s sec = true) →
        ∃ t, exec (.waybillReread sec ok) s = .next t ∧ reqsAt t .reread sec = [] ∧ RegsKept s t [REP_COUNT_0]
        ∧ t.mem = s.mem ∧ ((s.reqs.map (·.id)).Nodup → ∀ r ∈ reqsAt s .reread sec, { r with phase := .repair } ∈ t.reqs)
        ∧ rdf t REP_COUNT_0 REP_COUNT_0_wb_mismatch = (rdf s REP_COUNT_0 REP_COUNT_0_wb_mismatch + 1) % 2 ^ 16))
  ∧ (∀ (sec : Nat) (s : State), (s.boot.pg = false ∨ inRepair s sec = false) → exec (.repairDone sec) s = .next s)
  ∧ (∀ (sec : Nat) (s : State), s.boot.pg = true → inRepair s sec = true → isGlobal (sec * 256) = true →
      ∃ t, exec (.repairDone sec) s = .next (lateSettle t) ∧ reqsAt t .repair sec = [] ∧ t.mem = s.mem)
  ∧ (∀ (sec dev a : Nat) (s : State), s.boot.pg = true → inRepair s sec = true → isGlobal (sec * 256) = false →
      otherCopy s sec = some (dev, a) → dev ≠ selfId s →
      (rdb s CWY_SELF_ID CWY_SELF_ID_id_valid = false → exec (.repairDone sec) s = .next (lateSettle (repairHere s sec)))
      ∧ (rdb s CWY_SELF_ID CWY_SELF_ID_id_valid = true → s.fab.sent.any (fun q => q.2 == .refetch sec) = true →
        exec (.repairDone sec) s = .next (lateSettle s))
      ∧ (rdb s CWY_SELF_ID CWY_SELF_ID_id_valid = true → s.fab.sent.any (fun q => q.2 == .refetch sec) = false →
        s.fab.asks.any (fun q => q.who == .refetch sec) = false →
        tagNow s = none → ∃ t, exec (.repairDone sec) s = .next (lateSettle t) ∧ t = { s with fab := t.fab }
          ∧ t.fab = { s.fab with asks := t.fab.asks, fetched := t.fab.fetched } ∧ smFind? t.fab.fetched sec = none
          ∧ ∃ b, t.fab.asks = s.fab.asks ++ [b] ∧ b.dst = dev ∧ b.addr = a ∧ b.len = 256 ∧ b.type = 1))
  ∧ (∀ (sec : Nat) (s : State), s.boot.pg = true → inRepair s sec = true → isGlobal (sec * 256) = false →
      otherCopy s sec = none →
      (repairData s sec none = none → ∃ t, exec (.repairDone sec) s = .next (lateSettle t) ∧ reqsAt t .repair sec = []
        ∧ (rdb s REP_LOG_CTRL TEL_LOG_CTRL_enable = false → sec ∈ t.mem.poison)
        ∧ rdf t REP_COUNT_0 REP_COUNT_0_poisoned = (rdf s REP_COUNT_0 REP_COUNT_0_poisoned + 1) % 2 ^ 16)
      ∧ (∀ d, repairData s sec none = some d → (∀ e i, classOf s (sec * 256) ≠ .moments e i) →
        ∃ t, exec (.repairDone sec) s = .next (lateSettle t) ∧ reqsAt t .repair sec = []
        ∧ rdf t REP_COUNT_0 REP_COUNT_0_repaired = (rdf s REP_COUNT_0 REP_COUNT_0_repaired + 1) % 2 ^ 16))
  ∧ (∀ (sec : Nat) (d : List Byte) (s : State),
      (otherCopy s sec ≠ none → (smFind? s.fab.fetched sec = none ∨ ∃ b, smFind? s.fab.fetched sec = some (some b)) →
        ∃ t, exec (.replicaRefetch sec d) s = .next (lateSettle t) ∧ reqsAt t .repair sec = []
        ∧ rdf t REP_COUNT_0 REP_COUNT_0_repaired = (rdf s REP_COUNT_0 REP_COUNT_0_repaired + 1) % 2 ^ 16
        ∧ rdf t (KRB_COUNT_2 (stackOfLine (sec / 8))) KRB_COUNT_2_refetched =
            (rdf s (KRB_COUNT_2 (stackOfLine (sec / 8))) KRB_COUNT_2_refetched + 1) % 2 ^ 16)
      ∧ (smFind? s.fab.fetched sec = some none → (∃ e i, classOf s (sec * 256) = .replica e i) → otherCopy s sec ≠ none →
        ∃ t, exec (.replicaRefetch sec d) s = .next (lateSettle t) ∧ reqsAt t .repair sec = []
          ∧ rdf t REP_COUNT_0 REP_COUNT_0_poisoned = (rdf s REP_COUNT_0 REP_COUNT_0_poisoned + 1) % 2 ^ 16)
      ∧ (otherCopy s sec = none → exec (.replicaRefetch sec d) s = .next (lateSettle s)))
  ∧ (∀ (c p : Nat) (s : State), (144 ≤ c ∨ 136 ≤ p ∨ 136 * c + p ∈ s.rep.retired ∨ 136 * c + p ∈ s.rep.pendRet) →
      exec (.coreRetire c p) s = .next s)
  ∧ (∀ (c p : Nat) (s : State), s.boot.pg = true → c < 144 → p < 136 → 136 * c + p ∉ s.rep.retired → 136 * c + p ∉ s.rep.pendRet →
      let pairs := ((upto 136).filter (fun q => (servedBy s c q).length == 2 && q != p)).length
      ((p ∈ freeSpares s c ∨ s.rep.pendRet = [] ∧ (servedBy s c p).length ≤ (freeSpares s c).length ∧ pairs ≤ 32) →
        ∃ t, exec (.coreRetire c p) s = .next t
          ∧ t = { s with rep := { s.rep with pendRet := s.rep.pendRet ++ [136 * c + p] } })
      ∧ (s.rep.pendRet = [] → freeSpares s c = [] → servedBy s c p ≠ [] → 32 < pairs + (servedBy s c p).length →
        ∃ t, exec (.coreRetire c p) s = .next t ∧ t.rep.pendRet = s.rep.pendRet ∧ 136 * c + p ∈ t.rep.suspect
          ∧ rdb t (ICU_SRC 17) ICU_SRC_pending = true))

/-! ### Interrupts, shared resources, firmware, attestation, the monitor and SMBus (chapter 17) -/

/-- The interrupt controller: a claim takes the deliverable source of highest priority, the lowest number among equals, and answers
with it; an end of interrupt pops the top of the priority stack or is counted; a software source is raised; a write of a source's
register enables it or clears its pending bit, and changes its other fields only while it is and stays disabled. -/
def Obligations.InterruptController : Prop :=
  (∀ (m : Nat) (s : State), 4 ≤ m → exec (.icuClaim m) s = .fault .noSuchInstance)
  ∧ (∀ (m : Nat) (s : State), s.boot.pg = true → m < 4 →
      ((∀ n, n < 1024 → deliverable s m n = false) → ∃ t, exec (.icuClaim m) s = .next t
        ∧ t = { s with out := s.out ++ [.regRead (ICU_CLAIM m) 0] })
      ∧ (∀ n, n < 1024 → deliverable s m n = true →
        (∀ k, k < 1024 → deliverable s m k = true → k ≠ n → rdf s (ICU_SRC k) ICU_SRC_priority < rdf s (ICU_SRC n) ICU_SRC_priority
          ∨ (rdf s (ICU_SRC k) ICU_SRC_priority = rdf s (ICU_SRC n) ICU_SRC_priority ∧ n < k)) →
        ∃ t w, exec (.icuClaim m) s = .next t ∧ t.out = s.out ++ [.regRead (ICU_CLAIM m) w] ∧ getb w ICU_CLAIM_valid = true
          ∧ getf w ICU_CLAIM_source = n ∧ getf w ICU_CLAIM_priority = rdf s (ICU_SRC n) ICU_SRC_priority
          ∧ claimsOf t m = (n, rdf s (ICU_SRC n) ICU_SRC_priority) :: claimsOf s m ∧ t.cfg = s.cfg
          ∧ ∀ j, j ≠ m → claimsOf t j = claimsOf s j))
  ∧ (∀ (m : Nat) (n : BitVec 10) (s : State), s.boot.pg = true → m < 4 →
      (∀ p r, claimsOf s m = (n.toNat, p) :: r → ∃ t, exec (.icuEoi m n) s = .next t ∧ claimsOf t m = r
        ∧ (∀ j, j ≠ m → claimsOf t j = claimsOf s j) ∧ t = { s with sec := t.sec })
      ∧ ((∀ p r, claimsOf s m ≠ (n.toNat, p) :: r) → ∃ t, exec (.icuEoi m n) s = .next t ∧ OnlyRegs s t [ICU_PRIO m]
        ∧ rdf t (ICU_PRIO m) ICU_PRIO_eoi_mismatch = (rdf s (ICU_PRIO m) ICU_PRIO_eoi_mismatch + 1) % 2 ^ 16))
  ∧ (∀ (m : Nat) (n : BitVec 10) (s : State), 4 ≤ m → exec (.icuEoi m n) s = .fault .noSuchInstance)
  ∧ (∀ (n : BitVec 10) (s : State), s.boot.pg = true → 992 ≤ n.toNat → ∃ t, exec (.icuSwi n) s = .next t ∧ OnlySignals s t
      ∧ rdb t (ICU_SRC n.toNat) ICU_SRC_pending = true
      ∧ rdf t (ICU_SRC n.toNat) ICU_SRC_count = min (rdf s (ICU_SRC n.toNat) ICU_SRC_count + 1) 255
      ∧ (rdb s (ICU_SRC n.toNat) ICU_SRC_enable = false → OnlyRegs s t [ICU_SRC n.toNat]))
  ∧ (∀ (n : BitVec 10) (s : State), n.toNat < 992 → exec (.icuSwi n) s = .next s)
  ∧ (∀ (n : Nat) (d : Word) (s : State), s.boot.pg = true → n < 1024 → ∃ t, exec (.icuSrcWrite n d) s = .next t ∧ OnlySignals s t
      ∧ rdb t (ICU_SRC n) ICU_SRC_enable = getb d ICU_SRC_enable
      ∧ rdb t (ICU_SRC n) ICU_SRC_pending = (rdb s (ICU_SRC n) ICU_SRC_pending && !(isEventSource n && getb d ICU_SRC_pending))
      ∧ rdf t (ICU_SRC n) ICU_SRC_count = (if getb d ICU_SRC_count_clr then 0 else rdf s (ICU_SRC n) ICU_SRC_count)
      ∧ (rdb s (ICU_SRC n) ICU_SRC_enable = true ∨ getb d ICU_SRC_enable = true →
        rdf t (ICU_SRC n) ICU_SRC_priority = rdf s (ICU_SRC n) ICU_SRC_priority
        ∧ rdf t (ICU_SRC n) ICU_SRC_target = rdf s (ICU_SRC n) ICU_SRC_target
        ∧ rdb t (ICU_SRC n) ICU_SRC_to_vector = rdb s (ICU_SRC n) ICU_SRC_to_vector)
      ∧ (rdb s (ICU_SRC n) ICU_SRC_enable = false → getb d ICU_SRC_enable = false →
        rdf t (ICU_SRC n) ICU_SRC_priority = getf d ICU_SRC_priority ∧ rdb t (ICU_SRC n) ICU_SRC_to_vector = getb d ICU_SRC_to_vector
        ∧ rdf t (ICU_SRC n) ICU_SRC_target = (if getb d ICU_SRC_to_vector = true ∨ getf d ICU_SRC_target ≤ 3 then
            getf d ICU_SRC_target else rdf s (ICU_SRC n) ICU_SRC_target)))
  ∧ (∀ (n : Nat) (s : State), s.boot.pg = true → n < 1024 → ∃ t, exec (.icuCountClear n) s = .next t ∧ OnlyRegs s t [ICU_SRC n]
      ∧ rdf t (ICU_SRC n) ICU_SRC_count = 0 ∧ rdb t (ICU_SRC n) ICU_SRC_pending = rdb s (ICU_SRC n) ICU_SRC_pending
      ∧ rdb t (ICU_SRC n) ICU_SRC_enable = rdb s (ICU_SRC n) ICU_SRC_enable)
  ∧ (∀ (n : Nat) (d : Word) (s : State), 1024 ≤ n → exec (.icuSrcWrite n d) s = .fault .noSuchInstance
      ∧ exec (.icuCountClear n) s = .fault .noSuchInstance)

/-- The shared resources: a claim succeeds where the resource is free or the claimant's and the claimant is known, and otherwise is
recorded and counted; only the owner releases; the test logic is held in Test-Logic-Reset while nobody owns resource 2. Firmware is
installed into the slot that is not active, and its version committed; debug access opens for the host and management firmware. -/
def Obligations.ResourcesAndFirmware : Prop :=
  (∀ (r c : Nat) (s : State), (r ≠ 1 ∧ r ≠ 2 ∨ c = 0) → exec (.resourceClaim r c) s = .next s)
  ∧ (∀ (r c : Nat) (s : State), s.boot.pg = true → (r = 1 ∨ r = 2) → 0 < c → c < 256 →
      let won := (c = 1 ∨ c = 2) ∧ ¬ (r = 2 ∧ c = 2 ∧ debugOpen s = false)
        ∧ (rdf s (SEC_OWN r) SEC_OWN_owner = 0 ∨ rdf s (SEC_OWN r) SEC_OWN_owner = c)
      (won → ∃ t, exec (.resourceClaim r c) s = .next t ∧ OnlyRegs s t [SEC_OWN r] ∧ rdf t (SEC_OWN r) SEC_OWN_owner = c
        ∧ rdb t (SEC_OWN r) SEC_OWN_conflict = false)
      ∧ (¬ won → ∃ t, exec (.resourceClaim r c) s = .next t ∧ OnlyRegs s t [SEC_OWN r]
        ∧ rdf t (SEC_OWN r) SEC_OWN_owner = rdf s (SEC_OWN r) SEC_OWN_owner ∧ rdf t (SEC_OWN r) SEC_OWN_last_refused = c
        ∧ rdf t (SEC_OWN r) SEC_OWN_conflicts = min (rdf s (SEC_OWN r) SEC_OWN_conflicts + 1) 255
        ∧ rdb t (SEC_OWN r) SEC_OWN_conflict = true))
  ∧ (∀ (r p : Nat) (s : State), s.boot.pg = true → (r = 1 ∨ r = 2) → p ≠ 0 → rdf s (SEC_OWN r) SEC_OWN_owner = p →
      ∃ t, exec (.resourceRelease r p) s = .next t ∧ rdf t (SEC_OWN r) SEC_OWN_owner = 0 ∧ RegsKept s t [SEC_OWN r]
        ∧ t.sec = (if r = 2 then { s.sec with tap := 0 } else s.sec))
  ∧ (∀ (r p : Nat) (s : State), (r ≠ 1 ∧ r ≠ 2 ∨ p = 0 ∨ rdf s (SEC_OWN r) SEC_OWN_owner ≠ p) →
      exec (.resourceRelease r p) s = .next s)
  ∧ (∀ (a b : Bool) (s : State), ∃ t, exec (.boundaryScanClock a b) s = .next t ∧ t = { s with sec := t.sec, free := t.free, out := t.out }
      ∧ t.sec = { s.sec with tap := t.sec.tap }
      ∧ (rdf s (SEC_OWN 2) SEC_OWN_owner = 0 → t.sec.tap = 0 ∧ t.out = s.out)
      ∧ (rdf s (SEC_OWN 2) SEC_OWN_owner ≠ 0 → t.sec.tap = tapNext s.sec.tap a
        ∧ ((s.sec.tap = 4 ∨ s.sec.tap = 11) → ∃ v, t.out = s.out ++ [.pin 2 v])
        ∧ (s.sec.tap ≠ 4 → s.sec.tap ≠ 11 → t.out = s.out)))
  ∧ (∀ s : State, rdf s SEC_STATUS SEC_STATUS_fw_state = 1 → exec .fwInstall s = .next s)
  ∧ (∀ s : State, s.boot.pg = true → rdf s SEC_STATUS SEC_STATUS_fw_state ≠ 1 →
      let a := rdf s SEC_FW_ADDR SEC_FW_ADDR_addr * 4096
      let w := afterRead (afterRead s a 512) (a + 512) (min 8384512 (leNat (hdrBytes (seen s a 512) 0x18 8)))
      ∃ t x, exec .fwInstall s = .next t ∧ OnlyRegs { w with sec := t.sec } t [SEC_STATUS]
      ∧ rdf t SEC_STATUS SEC_STATUS_fw_state = 1 ∧ t.sec = { w.sec with install := some x }
      ∧ x.1 = imageVerdict s (rdf s SEC_FW_ADDR SEC_FW_ADDR_addr * 4096))
  ∧ (∀ (ok : Bool) (s : State), s.sec.install = none → exec (.fwInstallDone ok) s = .next s)
  ∧ (∀ (ok : Bool) (v n d h : Nat) (s : State), s.sec.install = some (v, n, d, h) → ∃ t, exec (.fwInstallDone ok) s = .next t
      ∧ t.sec.install = none ∧ t.sec.active = s.sec.active ∧ rdb t (ICU_SRC 19) ICU_SRC_pending = true
      ∧ rdf t SEC_STATUS SEC_STATUS_fw_state = (if v = 0 ∧ ok = true then 2 else 3)
      ∧ rdf t SEC_STATUS SEC_STATUS_reason = (if v ≠ 0 then v % 16 else if ok then 0 else 7)
      ∧ (v = 0 → ok = true → t.sec.marked = some (1 - s.sec.active) ∧ smFind? t.sec.image (1 - s.sec.active) = some (d, h)
        ∧ smFind? t.sec.svn (1 - s.sec.active) = some n ∧ rdb t SEC_STATUS SEC_STATUS_next_valid = true)
      ∧ (v = 0 → ok = false → smFind? t.sec.image (1 - s.sec.active) = none ∧ t.sec.marked ≠ some (1 - s.sec.active))
      ∧ (v ≠ 0 → t.sec = { s.sec with install := none }))
  ∧ (∀ s : State, s.boot.pg = true → ∃ t, exec .commitSvn s = .next t ∧ OnlyRegs s t [SEC_FUSE]
      ∧ rdf t SEC_FUSE SEC_FUSE_min_svn
          = max (rdf s SEC_FUSE SEC_FUSE_min_svn) (min 128 (rdf s SEC_STATUS SEC_STATUS_running_svn))
      ∧ rdb t SEC_FUSE SEC_FUSE_locked = rdb s SEC_FUSE SEC_FUSE_locked)
  ∧ (∀ (p : Path) (s : State), s.boot.pg = true → (p = .host ∨ p = .mgmt) → ∃ t, exec (.debugUnlock p) s = .next t ∧ OnlyRegs s t [SEC_STATUS]
      ∧ rdb t SEC_STATUS SEC_STATUS_debug_open = true)
  ∧ (∀ (p : Path) (s : State), p ≠ .host → p ≠ .mgmt → exec (.debugUnlock p) s = .next s)

/-- Attestation: before the firmware runs and during a Roadbed partial reset, a request is answered ERROR Busy; a version other than 1.2 is answered ERROR
VersionMismatch; each request is answered as it states, one for another slot or index ERROR InvalidRequest, any other request ERROR
UnsupportedRequest. The answer waits in the mailbox; an abort takes it away. -/
def Obligations.Attestation : Prop :=
  (∀ (s : State) (v : Nat) (i : Instr), s.boot.pg = true → (spdmRequest v i ∨ i = .getVersion v) →
      (s.sec.running = false ∨ s.boot.rb ≠ 0) → ∃ t, exec i s = .next t ∧ doeHolds s t 0x7F [3, 0])
  ∧ (∀ (s : State) (v : Nat), s.boot.pg = true → s.sec.running = true → s.boot.rb = 0 → v ≠ 0x12 → (∀ i, spdmRequest v i → ∃ t, exec i s = .next t ∧ doeHolds s t 0x7F [0x41, 0])
      ∧ (v ≠ 0x10 → ∃ t, exec (.getVersion v) s = .next t ∧ doeHolds s t 0x7F [0x41, 0]))
  ∧ (∀ (s : State) (v : Nat), s.boot.pg = true → s.sec.running = true → s.boot.rb = 0 → (v = 0x10 ∨ v = 0x12) →
      ∃ t, exec (.getVersion v) s = .next t ∧ doeHolds s t 4 [0x12])
  ∧ (∀ s : State, s.boot.pg = true → s.sec.running = true → s.boot.rb = 0 →
      (∃ t, exec (.getCapabilities 0x12) s = .next t ∧ doeHolds s t 0x61 [20, 0x36])
      ∧ (∀ a b c : Bool, ∃ t, exec (.negotiateAlgorithms 0x12 a b c) s = .next t
        ∧ doeHolds s t 0x63 [if c then 1 else 0, if c then 4 else 0, if a then 0x80 else 0, if b then 2 else 0])
      ∧ (∃ t, exec (.getDigests 0x12) s = .next t ∧ doeHolds s t 1 [1, Config.sha384 (certChain s)])
      ∧ (∀ k o n, (k ≠ 0 ∨ (certChain s).length ≤ o) → ∃ t, exec (.getCertificate 0x12 k o n) s = .next t ∧ doeHolds s t 0x7F [1, 0])
      ∧ (∀ o n, o < (certChain s).length → ∃ t, exec (.getCertificate 0x12 0 o n) s = .next t
        ∧ ∃ p, p = ((certChain s).drop o).take n
          ∧ doeHolds s t 2 ([0, p.length, (certChain s).length - (o + p.length)] ++ p.map (·.toNat)))
      ∧ (∀ k x, k ≠ 0 → ∃ t, exec (.challenge 0x12 k x) s = .next t ∧ doeHolds s t 0x7F [1, 0])
      ∧ (∀ x, ∃ t g, exec (.challenge 0x12 0 x) s = .next t ∧ doeHolds s t 3 [0, Config.sha384 (certChain s), g])
      ∧ (∀ i g x, 5 < i → i ≠ 0xFF → ∃ t, exec (.getMeasurements 0x12 i g x) s = .next t ∧ doeHolds s t 0x7F [1, 0])
      ∧ (∀ x, ∃ t, exec (.getMeasurements 0x12 0 false x) s = .next t ∧ doeHolds s t 0x60 [5])
      ∧ (∀ i x, 1 ≤ i → i ≤ 5 → ∃ t, exec (.getMeasurements 0x12 i false x) s = .next t ∧ doeHolds s t 0x60 [1, measurement s i])
      ∧ (∀ x, ∃ t, exec (.getMeasurements 0x12 0xFF false x) s = .next t
        ∧ doeHolds s t 0x60 [5, measurement s 1, measurement s 2, measurement s 3, measurement s 4, measurement s 5])
      ∧ (∀ i x, 1 ≤ i → i ≤ 5 → ∃ t g, exec (.getMeasurements 0x12 i true x) s = .next t ∧ doeHolds s t 0x60 [1, measurement s i, g])
      ∧ (∀ c, ∃ t, exec (.spdmUnsupportedRequest 0x12 c) s = .next t ∧ doeHolds s t 0x7F [7, c]))
  ∧ (∀ s : State, s.boot.pg = true → ∃ t, exec .doeAbort s = .next t ∧ t = { s with sec := { s.sec with doe := none } })
  ∧ (∀ (i : Nat) (s : State), s.boot.pg = true → ∃ t, exec (.doeDiscovery i) s = .next t
      ∧ doeHolds s t 0 (if i = 0 then [1, 0, 1] else if i = 1 then [1, 1, 0] else [0xFFFF, 0, 0]))

/-- The monitor answers every line: too long a line ERR 4, a write-class command on a locked part ERR 5, an unknown one ERR 1, a bad
operand ERR 2, one that cannot be served while the device waits ERR 3; a command that is carried out is counted and answered OK. The
telemetry responder answers a block read while it owns resource 1. -/
def Obligations.MonitorAndTelemetry : Prop :=
  (∀ (n : LineLen) (s : State) (i : Instr), monitorLine n i → monLive s = false → exec i s = .next s)
  ∧ (∀ (n : LineLen) (s : State) (i : Instr), monitorLine n i → monLive s = true → 80 < n → ∃ t, exec i s = .next t ∧ monFails s t 4)
  ∧ (∀ (n : LineLen) (s : State), monLive s = true → n ≤ 80 → debugOpen s = false →
      (∀ a v, ∃ t, exec (.monWr n a v) s = .next t ∧ monFails s t 5)
      ∧ (∀ l m, ∃ t, exec (.monHalt n l m) s = .next t ∧ monFails s t 5)
      ∧ (∃ t, exec (.monResetRoadbed n) s = .next t ∧ monFails s t 5) ∧ ∃ t, exec (.monResetDevice n) s = .next t ∧ monFails s t 5)
  ∧ (∀ (n : LineLen) (s : State), monLive s = true → n ≤ 80 →
      (∃ t, exec (.monId n) s = .next t ∧ monSays s t (.okId (rd s SEC_IDENT) (rdf s PWR_BOOT PWR_BOOT_state)))
      ∧ (∃ t, exec (.monSt n) s = .next t ∧ monSays s t (.okSt (stageNow s) (rd s MST_TIME) (rd s MST_STATUS) (keepState s)))
      ∧ (∃ t, exec (.monTemp n) s = .next t ∧ monSays s t (.okTemp (rdf s THM_STATUS THM_STATUS_hottest_sensor)
          (sextN 16 (rdf s THM_STATUS THM_STATUS_hottest_t)) (rdb s THM_STATUS THM_STATUS_throttle)))
      ∧ (∃ t, exec (.monToken n) s = .next t ∧ monSays s t (.okToken (rd s HST_KEEP_TOKEN)))
      ∧ (∃ t, exec (.monitorUnknownCommand n) s = .next t ∧ monFails s t 1)
      ∧ (∀ r, r ∈ baudRates → ∃ t, exec (.monBaud n r) s = .next t ∧ monSays s t .ok ∧ rdf t MON_STATUS MON_STATUS_baud = r)
      ∧ (∀ r, r ∉ baudRates → ∃ t, exec (.monBaud n r) s = .next t ∧ monFails s t 2)
      ∧ (∀ a : Word, a.toNat % 8 ≠ 0 → ∃ t, exec (.monRd n a) s = .next t ∧ monFails s t 2)
      ∧ (∀ a : Word, a.toNat % 8 = 0 → monReach s a.toNat = false → ∃ t, exec (.monRd n a) s = .next t ∧ monFails s t 3)
      ∧ (∀ (a : Word) o, a.toNat % 8 = 0 → monReach s a.toNat = true → regionOf a.toNat = .config o →
        ∃ t, exec (.monRd n a) s = .next t ∧ t.out = (readReg s o).2.out ++ [.uart (.okRd (readReg s o).1)])
      ∧ (∀ (a : Word) d u, a.toNat % 8 = 0 → monReach s a.toNat = true → (∀ o, regionOf a.toNat ≠ .config o) →
        sysRead s .mgmt .requester a.toNat 8 = (.data d, u) → ∃ t, exec (.monRd n a) s = .next t
          ∧ monSays u t (.okRd (BitVec.ofNat 64 (leNat d)))))
  ∧ (∀ (n : LineLen) (s : State), monLive s = true → n ≤ 80 → debugOpen s = true →
      (∀ (a v : Word), a.toNat % 8 ≠ 0 → ∃ t, exec (.monWr n a v) s = .next t ∧ monFails s t 2)
      ∧ (∀ (a v : Word), a.toNat % 8 = 0 → monReach s a.toNat = false → ∃ t, exec (.monWr n a v) s = .next t ∧ monFails s t 3)
      ∧ (∀ (a v : Word) o, a.toNat % 8 = 0 → monReach s a.toNat = true → regionOf a.toNat = .config o →
        ∃ t, exec (.monWr n a v) s = .next t ∧ monSays (configWrite s .monitor o 8 v) t .ok)
      ∧ (∀ (a v : Word) d u, a.toNat % 8 = 0 → monReach s a.toNat = true → (∀ o, regionOf a.toNat ≠ .config o) →
        sysWrite s .mgmt a.toNat (bytesOf 8 v.toNat) = (.data d, u) → ∃ t, exec (.monWr n a v) s = .next t ∧ monSays u t .ok)
      ∧ (∀ l m, (numCores ≤ l ∨ m = 0 ∨ 7 < m) → ∃ t, exec (.monHalt n l m) s = .next t ∧ monFails s t 2)
      ∧ (∀ l m, l < numCores → 0 < m → m ≤ 7 → deviceReady s = false → ∃ t, exec (.monHalt n l m) s = .next t ∧ monFails s t 3)
      ∧ (∀ l m, l < numCores → 0 < m → m ≤ 7 → deviceReady s = true → ∃ t, exec (.monHalt n l m) s = .next t
        ∧ monSays (ctrlRequests s l 0 m) t .ok)
      ∧ (deviceReady s = true → s.boot.rb = 0 → ∃ t, exec (.monResetRoadbed n) s = .next t ∧ roadbedBegins (monOk s .ok) t 3)
      ∧ (rdf s PWR_BOOT PWR_BOOT_state ≠ 2 → ∃ t, exec (.monResetDevice n) s = .next t ∧ deviceCleared s t ∧ attemptBegins s t 1))
  ∧ (∀ s : State, smbusOwned s = true →
      let le (n v : Nat) : List Nat := (bytesOf n v).map (·.toNat)
      exec .smbusIdentRead s = .next (emit s (.response 0x10 (le 2 0x1E5C ++ le 2 0x3200 ++ le 1 0x10 ++ le 8 (rd s SEC_IDENT).toNat)))
      ∧ exec .smbusBootRead s
        = .next (emit s (.response 0x11 (le 8 (bootWord s).toNat ++ le 1 (keepState s) ++ le 1 (rdf s THM_STATUS THM_STATUS_throttle))))
      ∧ exec .smbusThermalRead s = .next (emit s (.response 0x12 (le 2 (rdf s THM_STATUS THM_STATUS_hottest_t)
          ++ le 2 (rdf s THM_STATUS THM_STATUS_hottest_sensor) ++ le 8 (rd s THM_LAST_TRIP).toNat)))
      ∧ exec .smbusPowerRead s = .next (emit s (.response 0x13 (le 2 (rdf s PWR_STATUS PWR_STATUS_stage_power_w)
          ++ le 8 (rd s PWR_ENERGY).toNat))))
  ∧ (∀ s : State, smbusOwned s = false → exec .smbusIdentRead s = .next s ∧ exec .smbusBootRead s = .next s
      ∧ exec .smbusThermalRead s = .next s ∧ exec .smbusPowerRead s = .next s)

/-! ### Encoding, memory and reset -/

/-- Decode and encode agree: every instruction whose function its opcode has is encoded as a word, that word decodes to it at its
site, and a word that decodes is the encoding of what it decodes to. -/
def Obligations.DecodeOfEncode : Prop :=
  (∀ i : Instr, encodable i = true → ∃ w, encodeWord i = some w ∧ decodeWord (siteOf i) w = some i)
  ∧ (∀ (c : Site) (w : Word) (i : Instr), decodeWord c w = some i → encodeWord i = some w)

/-- Every step keeps the canonical form of the memory: addresses strictly rising, no byte listed that an unlisted one would read as. -/
def Obligations.StepsKeepMemoryCanonical : Prop :=
  ∀ s t : State, memWf s.mem = true → step s = .next t → memWf t.mem = true

/-- Reset: memory is in its canonical form and lists nothing, no command waits, nothing is powered, and the
registers listed hold what their tables' Reset columns give; as the part ships (R30), no core is doubled up, every cluster has at
least six free spares, and the core map gives each logical core a physical core of its own cluster, no two the same. What memory reads as, and the values of the registers and fields the
tables give none for, are the model's choices (notes/assumptions/2, 11 and 12). -/
def Obligations.ResetState : Prop :=
  let s := State.reset
  memWf s.mem = true ∧ s.pending = [] ∧ s.boot.pg = false ∧ s.boot.step = 0 ∧ deviceReady s = false ∧ s.out = []
  ∧ rdf s MST_PERIOD MST_PERIOD_active_ns = 250000 ∧ rdf s MST_PERIOD MST_PERIOD_request_ns = 250000
  ∧ rdf s MST_SLOT MST_SLOT_active_permille = 20 ∧ rdf s MST_LEAD MST_LEAD_active_ns = 200
  ∧ rdf s MST_STRETCH_LIMIT MST_STRETCH_LIMIT_limit_us = 100000 ∧ rdb s MST_CTRL MST_CTRL_root_candidate = true
  ∧ rdf s MST_STAGE MST_STAGE_stage = 0 ∧ rd s MST_STATUS = 0
  ∧ rdf s TEL_EXP TEL_EXP_interval = 64 ∧ rdf s TEL_LOG_CTRL TEL_LOG_CTRL_size_log2 = 6
  ∧ rdf s CCH_CTRL CCH_CTRL_rap_depth = 8 ∧ rdb s CCH_CTRL CCH_CTRL_ms_inv = true
  ∧ (∀ c, c < 144 → rdf s (PWR_CL_STATUS c) PWR_CL_STATUS_rail_mv = 600 ∧ rd s (VRG_SLICE_CFG c) = 0)
  ∧ rdf s KRB_CTRL KRB_CTRL_scrub_hours = 24 ∧ rdf s KRB_CTRL KRB_CTRL_pc_share = 27 ∧ rdf s KRB_CTRL KRB_CTRL_lease_limit = 1024
  ∧ rdf s ATN_CTRL ATN_CTRL_list_limit = 64 ∧ rdf s CWY_CTRL CWY_CTRL_coll_timeout_ms = 1000
  ∧ (∀ p, p < 36 → rdb s (CWY_PORT_CTRL p) CWY_PORT_CTRL_enable = true ∧ rdf s (CWY_PORT_STATUS p) CWY_PORT_STATUS_failed_lane = 7)
  ∧ rdf s HST_CTRL HST_CTRL_hold_s = 600 ∧ rdf s REP_CTRL REP_CTRL_audit_retire = 2 ∧ rdf s PWR_CTRL PWR_CTRL_watchdog_ms = 1000
  ∧ rdf s PWR_TOLL PWR_TOLL_request_w = 6500 ∧ rdf s THM_CTRL THM_CTRL_alw_start = 88 ∧ rdb s MON_CTRL MON_CTRL_enable = true
  ∧ rdf s MON_STATUS MON_STATUS_baud = 115200
  ∧ (∀ m, m < 4 → rdb s (ICU_PRIO m) ICU_PRIO_idle = true)
  ∧ (∀ c, c < 144 → rdf s (REP_CLUSTER_STATUS c) REP_CLUSTER_STATUS_doubled_count = 0
      ∧ 6 ≤ rdf s (REP_CLUSTER_STATUS c) REP_CLUSTER_STATUS_spares_free)
  ∧ ∀ l m, l < numCores → m < numCores → physOf s l < 136 ∧ (l / 128 = m / 128 → physOf s l = physOf s m → l = m)
end

