-- ==== Sys2Proof/Laws/Decode.lean ====
section
/-! SUPPORT. The fields of an instruction word that has been put together: each reads back as it was put in. -/

namespace Sys2Proof

/-- The number that a word is, by its fields. -/
theorem wordOfFields_toNat (op : BitVec 8) (fn : BitVec 4) (x : Insn) : (wordOfFields op fn x).toNat = op.toNat * 2 ^ 56 + x.pred.toNat * 2 ^ 53 + x.pneg.toNat * 2 ^ 52 + fn.toNat * 2 ^ 48 + x.body.toNat := by
  have := op.isLt; have := fn.isLt; have := x.pred.isLt; have := x.body.isLt; have : x.pneg.toNat ≤ 1 := Bool.toNat_le _
  simp only [wordOfFields, BitVec.toNat_ofNat]; omega

/-- The opcode, the function and the operands read back from their word. -/
theorem wordOfFields_fields (op : BitVec 8) (fn : BitVec 4) (x : Insn) (c : Site) (h1 : c.core = x.core) (h2 : c.stream = x.stream)
    (h3 : c.rivals = x.rivals) (h4 : c.own = x.ecc) (h5 : c.tied = x.tied) :
  BitVec.ofNat 8 ((wordOfFields op fn x).toNat / 2^56) = op ∧ BitVec.ofNat 4 ((wordOfFields op fn x).toNat / 2^48) = fn ∧ insnOf c (wordOfFields op fn x) = x := by
  have e := wordOfFields_toNat op fn x
  have := op.isLt; have := fn.isLt; have := x.pred.isLt; have := x.body.isLt
  obtain ⟨co, st, ri, p, n, b, ec, ti⟩ := x
  simp only at h1 h2 h3 h4 h5
  refine ⟨?_, ?_, ?_⟩
  · apply BitVec.eq_of_toNat_eq; rw [BitVec.toNat_ofNat, e]; cases n <;> simp at * <;> omega
  · apply BitVec.eq_of_toNat_eq; rw [BitVec.toNat_ofNat, e]; cases n <;> simp at * <;> omega
  · unfold insnOf; rw [e]
    simp only [h1, h2, h3, h4, h5, Insn.mk.injEq, true_and, and_true]
    refine ⟨?_, ?_, ?_⟩
    · apply BitVec.eq_of_toNat_eq; rw [BitVec.toNat_ofNat]; cases n <;> simp at * <;> omega
    · cases n <;> simp at * <;> omega
    · apply BitVec.eq_of_toNat_eq; rw [BitVec.toNat_ofNat]; cases n <;> simp at * <;> omega

/-- A word put together from an opcode and a function that it has decodes to their command. -/
theorem decodeWord_wordOfFields (c : Site) (op : BitVec 8) (fn : BitVec 4) (x : Insn) (h1 : c.core = x.core) (h2 : c.stream = x.stream) (h3 : c.rivals = x.rivals)
   (h4 : c.own = x.ecc) (h5 : c.tied = x.tied) (h : fn.toNat < fnCount op) : decodeWord c (wordOfFields op fn x) = commandOf c op fn x := by
  obtain ⟨a, b, d⟩ := wordOfFields_fields op fn x c h1 h2 h3 h4 h5
  simp only [decodeWord, a, b, d, if_pos h]

end Sys2Proof
end

