-- ==== Sys2Proof/Laws/Fields.lean ====
section
/-! SUPPORT. The laws of bit fields: what a field reads after it, or a field apart from it, has been set. -/

namespace Sys2Proof.Machine

theorem getf_lt (w : Word) (f : Fld) : getf w f < 2 ^ f.width := Nat.mod_lt _ (by positivity)

/-- A word with a field set: the bits above it, the field, the bits below it. -/
theorem toNat_setf (w : Word) (f : Fld) (v : Nat) (h : f.lo + f.width ≤ 64) :
    (setf w f v).toNat
      = (w.toNat / 2 ^ (f.lo + f.width) * 2 ^ f.width + v % 2 ^ f.width) * 2 ^ f.lo + w.toNat % 2 ^ f.lo := by
  have e1 : w.toNat = 2 ^ f.lo * (w.toNat / 2 ^ f.lo) + w.toNat % 2 ^ f.lo := (Nat.div_add_mod _ _).symm
  have e2 : w.toNat / 2 ^ f.lo
      = 2 ^ f.width * (w.toNat / 2 ^ f.lo / 2 ^ f.width) + w.toNat / 2 ^ f.lo % 2 ^ f.width := (Nat.div_add_mod _ _).symm
  have e3 : w.toNat / 2 ^ f.lo / 2 ^ f.width = w.toNat / 2 ^ (f.lo + f.width) := by
    rw [Nat.div_div_eq_div_mul, ← pow_add]
  have hw := w.isLt
  have hv : v % 2 ^ f.width < 2 ^ f.width := Nat.mod_lt _ (by positivity)
  have hlow : w.toNat % 2 ^ f.lo < 2 ^ f.lo := Nat.mod_lt _ (by positivity)
  have hhi : w.toNat / 2 ^ (f.lo + f.width) < 2 ^ (64 - (f.lo + f.width)) := by
    rw [Nat.div_lt_iff_lt_mul (by positivity), ← pow_add]
    have : 64 - (f.lo + f.width) + (f.lo + f.width) = 64 := by omega
    rw [this]; exact hw
  generalize hA : w.toNat / 2 ^ (f.lo + f.width) = A at *
  generalize hB : w.toNat / 2 ^ f.lo % 2 ^ f.width = B at *
  generalize hC : w.toNat % 2 ^ f.lo = C at *
  have hsplit : w.toNat = 2 ^ f.lo * (2 ^ f.width * A + B) + C := by
    rw [e3] at e2; rw [← e2]; exact e1
  have hval : w.toNat - getf w f * 2 ^ f.lo + putf f v = (A * 2 ^ f.width + v % 2 ^ f.width) * 2 ^ f.lo + C := by
    have hg : getf w f = B := hB
    rw [hg, putf]
    have : w.toNat = (2 ^ f.width * A) * 2 ^ f.lo + C + B * 2 ^ f.lo := by rw [hsplit]; ring
    rw [this, Nat.add_sub_cancel]; ring
  rw [setf, hval, BitVec.toNat_ofNat, Nat.mod_eq_of_lt]
  have h1 : A * 2 ^ f.width + v % 2 ^ f.width + 1 ≤ 2 ^ (64 - f.lo) := by
    have : (A + 1) * 2 ^ f.width ≤ 2 ^ (64 - (f.lo + f.width)) * 2 ^ f.width := Nat.mul_le_mul_right _ hhi
    rw [← pow_add, show 64 - (f.lo + f.width) + f.width = 64 - f.lo by omega] at this
    nlinarith
  calc (A * 2 ^ f.width + v % 2 ^ f.width) * 2 ^ f.lo + C
      < (A * 2 ^ f.width + v % 2 ^ f.width) * 2 ^ f.lo + 2 ^ f.lo := by omega
    _ = (A * 2 ^ f.width + v % 2 ^ f.width + 1) * 2 ^ f.lo := by ring
    _ ≤ 2 ^ (64 - f.lo) * 2 ^ f.lo := Nat.mul_le_mul_right _ h1
    _ = 2 ^ 64 := by rw [← pow_add]; congr 1; omega

/-- A field reads what was set, in its width. -/
theorem getf_setf_self (w : Word) (f : Fld) (v : Nat) (h : f.lo + f.width ≤ 64) :
    getf (setf w f v) f = v % 2 ^ f.width := by
  rw [getf, toNat_setf w f v h]
  have hlow : w.toNat % 2 ^ f.lo < 2 ^ f.lo := Nat.mod_lt _ (by positivity)
  rw [mul_comm, Nat.mul_add_div (by positivity), Nat.div_eq_of_lt hlow, add_zero, mul_comm, Nat.mul_add_mod]
  exact Nat.mod_mod _ _

/-- A field apart from the one set reads as before. -/
theorem getf_setf_other (w : Word) (f g : Fld) (v : Nat) (h : f.lo + f.width ≤ 64)
    (hd : g.lo + g.width ≤ f.lo ∨ f.lo + f.width ≤ g.lo) : getf (setf w f v) g = getf w g := by
  rw [getf, getf]
  rcases hd with hd | hd
  · have key : ∀ n : Nat, n / 2 ^ g.lo % 2 ^ g.width = n % 2 ^ f.lo / 2 ^ g.lo % 2 ^ g.width := by
      intro n
      rw [← Nat.mod_mul_right_div_self, ← Nat.mod_mul_right_div_self, ← pow_add, Nat.mod_mod_of_dvd]
      exact pow_dvd_pow 2 hd
    rw [key (setf w f v).toNat, key w.toNat, toNat_setf w f v h, mul_comm, Nat.mul_add_mod, Nat.mod_mod]
  · have key : ∀ n : Nat, n / 2 ^ g.lo = n / 2 ^ (f.lo + f.width) / 2 ^ (g.lo - (f.lo + f.width)) := by
      intro n
      rw [Nat.div_div_eq_div_mul, ← pow_add]; congr 2; omega
    rw [key (setf w f v).toNat, key w.toNat]
    congr 2
    rw [toNat_setf w f v h]
    have hlow : w.toNat % 2 ^ f.lo < 2 ^ f.lo := Nat.mod_lt _ (by positivity)
    have hv : v % 2 ^ f.width < 2 ^ f.width := Nat.mod_lt _ (by positivity)
    rw [pow_add, ← Nat.div_div_eq_div_mul, mul_comm, Nat.mul_add_div (by positivity), Nat.div_eq_of_lt hlow, add_zero,
      mul_comm, Nat.mul_add_div (by positivity), Nat.div_eq_of_lt hv, add_zero]

/-- A one-bit field reads what was set. -/
theorem getb_setb_self (w : Word) (f : Fld) (b : Bool) (h : f.lo + f.width ≤ 64) (h1 : f.width = 1) :
    getb (setb w f b) f = b := by
  rw [getb, setb, getf_setf_self w f _ h, h1]
  cases b <;> rfl

/-- A one-bit field apart from the one set reads as before. -/
theorem getb_setf_other (w : Word) (f g : Fld) (v : Nat) (h : f.lo + f.width ≤ 64)
    (hd : g.lo + g.width ≤ f.lo ∨ f.lo + f.width ≤ g.lo) : getb (setf w f v) g = getb w g := by
  rw [getb, getb, getf_setf_other w f g v h hd]

end Sys2Proof.Machine
end

