-- ==== Sys2Proof/Laws/Maps.lean ====
section
/-! SUPPORT. The laws of sparse tables: a read after a write, and the canonical form that every write keeps. -/

namespace Sys2Proof.Machine

variable {α : Type}

theorem smGet_smErase (d : α) (m : SMap α) (k j : Nat) :
    smGet d (smErase m k) j = if j = k then d else smGet d m j := by
  induction m with
  | nil => simp [smErase, smGet]
  | cons p r ih =>
    obtain ⟨a, v⟩ := p
    by_cases h : a = k
    · subst h
      simp only [smErase, if_true, ih, smGet]
      by_cases hj : j = a
      · simp [hj]
      · simp [hj, Ne.symm hj]
    · simp only [smErase, h, if_false, smGet, ih]
      by_cases hj : j = k <;> by_cases ha : a = j <;> simp_all

theorem smGet_smInsert (d : α) (m : SMap α) (k j : Nat) (v : α) (h : smGet d m k = d ∨ j ≠ k)
    (hk : ∀ p ∈ m, p.1 ≠ k) : smGet d (smInsert m k v) j = if j = k then v else smGet d m j := by
  induction m with
  | nil =>
    by_cases hj : j = k
    · simp [smInsert, smGet, hj]
    · simp [smInsert, smGet, hj, Ne.symm hj]
  | cons p r ih =>
    obtain ⟨a, w⟩ := p
    have ha : a ≠ k := hk (a, w) (by simp)
    have hr : ∀ p ∈ r, p.1 ≠ k := fun p hp => hk p (by simp [hp])
    have h' : smGet d r k = d ∨ j ≠ k := by simpa [smGet, ha] using h
    by_cases hlt : k < a
    · by_cases hj : j = k
      · simp [smInsert, hlt, smGet, hj]
      · simp [smInsert, hlt, smGet, hj, Ne.symm hj]
    · simp only [smInsert, hlt, if_false, smGet, ih h' hr]
      by_cases hj : j = k <;> by_cases haj : a = j <;> simp_all

theorem smErase_not_mem (m : SMap α) (k : Nat) : ∀ p ∈ smErase m k, p.1 ≠ k := by
  induction m with
  | nil => simp [smErase]
  | cons p r ih =>
    obtain ⟨a, v⟩ := p
    by_cases h : a = k
    · simpa [smErase, h] using ih
    · intro q hq
      simp only [smErase, h, if_false, List.mem_cons] at hq
      rcases hq with rfl | hq
      · exact h
      · exact ih q hq

/-- A read after a write. -/
theorem smGet_smPut [DecidableEq α] (d : α) (m : SMap α) (k j : Nat) (v : α) :
    smGet d (smPut d m k v) j = if j = k then v else smGet d m j := by
  by_cases hv : v = d
  · simp only [smPut, hv, if_true, smGet_smErase]
  · simp only [smPut, hv, if_false]
    rw [smGet_smInsert d _ k j v (Or.inl (by simp [smGet_smErase])) (smErase_not_mem m k), smGet_smErase]
    by_cases hj : j = k <;> simp [hj]

@[simp] theorem smGet_smPut_self [DecidableEq α] (d : α) (m : SMap α) (k : Nat) (v : α) :
    smGet d (smPut d m k v) k = v := by simp [smGet_smPut]

/-- A write leaves every other key as it reads, whatever the default. -/
theorem smGet_smPut_other [DecidableEq α] (d e : α) (m : SMap α) (k j : Nat) (v : α) (h : j ≠ k) :
    smGet e (smPut d m k v) j = smGet e m j := by
  by_cases hv : v = d
  · simp [smPut, hv, smGet_smErase, h]
  · simp only [smPut, hv, if_false]
    rw [smGet_smInsert e _ k j v (Or.inr h) (smErase_not_mem m k)]
    simp [smGet_smErase, h]

@[simp] theorem smGet_nil (d : α) (k : Nat) : smGet d ([] : SMap α) k = d := rfl

/-! ### The canonical form -/

theorem smSorted_lower (b c : Nat) (m : SMap α) (hbc : b ≤ c) (h : smSorted (some c) m = true) :
    smSorted (some b) m = true := by
  cases m with
  | nil => rfl
  | cons p r =>
    obtain ⟨k, v⟩ := p
    simp only [smSorted, Bool.and_eq_true, decide_eq_true_eq] at *
    exact ⟨by omega, h.2⟩

theorem smSorted_none_of_some (b : Nat) (m : SMap α) (h : smSorted (some b) m = true) : smSorted none m = true := by
  cases m with
  | nil => rfl
  | cons p r =>
    obtain ⟨k, v⟩ := p
    simp only [smSorted, Bool.and_eq_true] at *
    exact h.2

theorem smErase_sorted_some (m : SMap α) (k b : Nat) (h : smSorted (some b) m = true) :
    smSorted (some b) (smErase m k) = true := by
  induction m generalizing b with
  | nil => rfl
  | cons p r ih =>
    obtain ⟨a, v⟩ := p
    simp only [smSorted, Bool.and_eq_true, decide_eq_true_eq] at h
    by_cases hk : a = k
    · simpa [smErase, hk] using ih b (smSorted_lower b a r (by omega) h.2)
    · simp only [smErase, hk, if_false, smSorted, Bool.and_eq_true, decide_eq_true_eq]
      exact ⟨h.1, ih a h.2⟩

theorem smErase_sorted (m : SMap α) (k : Nat) (h : smSorted none m = true) : smSorted none (smErase m k) = true := by
  cases m with
  | nil => rfl
  | cons p r =>
    obtain ⟨a, v⟩ := p
    simp only [smSorted] at h
    by_cases hk : a = k
    · simpa [smErase, hk] using smErase_sorted (m := r) (k := k) (smSorted_none_of_some a r h)
    · simpa [smErase, hk, smSorted] using smErase_sorted_some r k a h
termination_by m.length

theorem smInsert_sorted_some (m : SMap α) (k b : Nat) (v : α) (hb : b < k) (h : smSorted (some b) m = true)
    (hk : ∀ p ∈ m, p.1 ≠ k) : smSorted (some b) (smInsert m k v) = true := by
  induction m generalizing b with
  | nil => simp [smInsert, smSorted, hb]
  | cons p r ih =>
    obtain ⟨a, w⟩ := p
    simp only [smSorted, Bool.and_eq_true, decide_eq_true_eq] at h
    have ha : a ≠ k := hk (a, w) (by simp)
    by_cases hlt : k < a
    · simp [smInsert, hlt, smSorted, hb, h.2]
    · simp only [smInsert, hlt, if_false, smSorted, Bool.and_eq_true, decide_eq_true_eq]
      exact ⟨h.1, ih a (by omega) h.2 (fun p hp => hk p (by simp [hp]))⟩

theorem smInsert_sorted (m : SMap α) (k : Nat) (v : α) (h : smSorted none m = true) (hk : ∀ p ∈ m, p.1 ≠ k) :
    smSorted none (smInsert m k v) = true := by
  cases m with
  | nil => simp [smInsert, smSorted]
  | cons p r =>
    obtain ⟨a, w⟩ := p
    have ha : a ≠ k := hk (a, w) (by simp)
    simp only [smSorted] at h
    by_cases hlt : k < a
    · simp [smInsert, hlt, smSorted, h]
    · simpa [smInsert, hlt, smSorted] using
        smInsert_sorted_some r k a v (by omega) h (fun p hp => hk p (by simp [hp]))

theorem smErase_subset (m : SMap α) (k : Nat) : ∀ p ∈ smErase m k, p ∈ m := by
  induction m with
  | nil => simp [smErase]
  | cons p r ih =>
    obtain ⟨a, v⟩ := p
    intro q hq
    by_cases hk : a = k
    · simp only [smErase, hk, if_true] at hq
      exact List.mem_cons_of_mem _ (ih q hq)
    · simp only [smErase, hk, if_false, List.mem_cons] at hq
      rcases hq with rfl | hq
      · simp
      · exact List.mem_cons_of_mem _ (ih q hq)

theorem smInsert_subset (m : SMap α) (k : Nat) (v : α) : ∀ p ∈ smInsert m k v, p = (k, v) ∨ p ∈ m := by
  induction m with
  | nil => simp [smInsert]
  | cons p r ih =>
    obtain ⟨a, w⟩ := p
    intro q hq
    by_cases hlt : k < a
    · simpa [smInsert, hlt] using hq
    · simp only [smInsert, hlt, if_false, List.mem_cons] at hq
      rcases hq with rfl | hq
      · simp
      · rcases ih q hq with h | h
        · exact Or.inl h
        · exact Or.inr (List.mem_cons_of_mem _ h)

/-- Every write keeps keys rising. -/
theorem smPut_sorted [DecidableEq α] (d : α) (m : SMap α) (k : Nat) (v : α) (h : smSorted none m = true) :
    smSorted none (smPut d m k v) = true := by
  by_cases hv : v = d
  · simpa [smPut, hv] using smErase_sorted m k h
  · simpa [smPut, hv] using smInsert_sorted _ k v (smErase_sorted m k h) (smErase_not_mem m k)

/-- Every entry of a written table is the one written or an earlier one. -/
theorem smPut_subset [DecidableEq α] (d : α) (m : SMap α) (k : Nat) (v : α) :
    ∀ p ∈ smPut d m k v, (p = (k, v) ∧ v ≠ d) ∨ p ∈ m := by
  intro p hp
  by_cases hv : v = d
  · simp only [smPut, hv, if_true] at hp
    exact Or.inr (smErase_subset m k p hp)
  · simp only [smPut, hv, if_false] at hp
    rcases smInsert_subset _ k v p hp with h | h
    · exact Or.inl ⟨h, hv⟩
    · exact Or.inr (smErase_subset m k p h)

/-- Every write keeps the canonical form. -/
theorem smPut_wf [DecidableEq α] (d : α) (m : SMap α) (k : Nat) (v : α) (h : smWf d m = true) :
    smWf d (smPut d m k v) = true := by
  simp only [smWf, Bool.and_eq_true, List.all_eq_true, decide_eq_true_eq] at *
  refine ⟨smPut_sorted d m k v h.1, fun p hp => ?_⟩
  rcases smPut_subset d m k v p hp with ⟨rfl, hv⟩ | hp
  · exact hv
  · exact h.2 p hp

end Sys2Proof.Machine
end

