-- ==== Sys2Proof/Laws/State.lean ====
section
/-! SUPPORT. The small lemmas of the state's updates: which field an update changes, and that it leaves every other one. -/

namespace Sys2Proof.Machine

variable (s : State)

/-! ### wr changes only cfg -/

@[simp] theorem wr_cores (o : Nat) (w : Word) : (wr s o w).cores = s.cores := rfl
@[simp] theorem wr_slices (o : Nat) (w : Word) : (wr s o w).slices = s.slices := rfl
@[simp] theorem wr_halves (o : Nat) (w : Word) : (wr s o w).halves = s.halves := rfl
@[simp] theorem wr_mem (o : Nat) (w : Word) : (wr s o w).mem = s.mem := rfl
@[simp] theorem wr_reqs (o : Nat) (w : Word) : (wr s o w).reqs = s.reqs := rfl
@[simp] theorem wr_engines (o : Nat) (w : Word) : (wr s o w).engines = s.engines := rfl
@[simp] theorem wr_mst (o : Nat) (w : Word) : (wr s o w).mst = s.mst := rfl
@[simp] theorem wr_rep (o : Nat) (w : Word) : (wr s o w).rep = s.rep := rfl
@[simp] theorem wr_audit (o : Nat) (w : Word) : (wr s o w).audit = s.audit := rfl
@[simp] theorem wr_fab (o : Nat) (w : Word) : (wr s o w).fab = s.fab := rfl
@[simp] theorem wr_remap (o : Nat) (w : Word) : (wr s o w).remap = s.remap := rfl
@[simp] theorem wr_train (o : Nat) (w : Word) : (wr s o w).train = s.train := rfl
@[simp] theorem wr_atn (o : Nat) (w : Word) : (wr s o w).atn = s.atn := rfl
@[simp] theorem wr_pow (o : Nat) (w : Word) : (wr s o w).pow = s.pow := rfl
@[simp] theorem wr_boot (o : Nat) (w : Word) : (wr s o w).boot = s.boot := rfl
@[simp] theorem wr_thermal (o : Nat) (w : Word) : (wr s o w).thermal = s.thermal := rfl
@[simp] theorem wr_sec (o : Nat) (w : Word) : (wr s o w).sec = s.sec := rfl
@[simp] theorem wr_nextId (o : Nat) (w : Word) : (wr s o w).nextId = s.nextId := rfl
@[simp] theorem wr_pcie (o : Nat) (w : Word) : (wr s o w).pcie = s.pcie := rfl
@[simp] theorem wr_host (o : Nat) (w : Word) : (wr s o w).host = s.host := rfl
@[simp] theorem wr_free (o : Nat) (w : Word) : (wr s o w).free = s.free := rfl
@[simp] theorem wr_out (o : Nat) (w : Word) : (wr s o w).out = s.out := rfl
@[simp] theorem wr_pending (o : Nat) (w : Word) : (wr s o w).pending = s.pending := rfl

/-! ### wrf changes only cfg -/

@[simp] theorem wrf_cores (o : Nat) (f : Fld) (v : Nat) : (wrf s o f v).cores = s.cores := rfl
@[simp] theorem wrf_slices (o : Nat) (f : Fld) (v : Nat) : (wrf s o f v).slices = s.slices := rfl
@[simp] theorem wrf_halves (o : Nat) (f : Fld) (v : Nat) : (wrf s o f v).halves = s.halves := rfl
@[simp] theorem wrf_mem (o : Nat) (f : Fld) (v : Nat) : (wrf s o f v).mem = s.mem := rfl
@[simp] theorem wrf_reqs (o : Nat) (f : Fld) (v : Nat) : (wrf s o f v).reqs = s.reqs := rfl
@[simp] theorem wrf_engines (o : Nat) (f : Fld) (v : Nat) : (wrf s o f v).engines = s.engines := rfl
@[simp] theorem wrf_mst (o : Nat) (f : Fld) (v : Nat) : (wrf s o f v).mst = s.mst := rfl
@[simp] theorem wrf_rep (o : Nat) (f : Fld) (v : Nat) : (wrf s o f v).rep = s.rep := rfl
@[simp] theorem wrf_audit (o : Nat) (f : Fld) (v : Nat) : (wrf s o f v).audit = s.audit := rfl
@[simp] theorem wrf_fab (o : Nat) (f : Fld) (v : Nat) : (wrf s o f v).fab = s.fab := rfl
@[simp] theorem wrf_remap (o : Nat) (f : Fld) (v : Nat) : (wrf s o f v).remap = s.remap := rfl
@[simp] theorem wrf_train (o : Nat) (f : Fld) (v : Nat) : (wrf s o f v).train = s.train := rfl
@[simp] theorem wrf_atn (o : Nat) (f : Fld) (v : Nat) : (wrf s o f v).atn = s.atn := rfl
@[simp] theorem wrf_pow (o : Nat) (f : Fld) (v : Nat) : (wrf s o f v).pow = s.pow := rfl
@[simp] theorem wrf_boot (o : Nat) (f : Fld) (v : Nat) : (wrf s o f v).boot = s.boot := rfl
@[simp] theorem wrf_thermal (o : Nat) (f : Fld) (v : Nat) : (wrf s o f v).thermal = s.thermal := rfl
@[simp] theorem wrf_sec (o : Nat) (f : Fld) (v : Nat) : (wrf s o f v).sec = s.sec := rfl
@[simp] theorem wrf_nextId (o : Nat) (f : Fld) (v : Nat) : (wrf s o f v).nextId = s.nextId := rfl
@[simp] theorem wrf_pcie (o : Nat) (f : Fld) (v : Nat) : (wrf s o f v).pcie = s.pcie := rfl
@[simp] theorem wrf_host (o : Nat) (f : Fld) (v : Nat) : (wrf s o f v).host = s.host := rfl
@[simp] theorem wrf_free (o : Nat) (f : Fld) (v : Nat) : (wrf s o f v).free = s.free := rfl
@[simp] theorem wrf_out (o : Nat) (f : Fld) (v : Nat) : (wrf s o f v).out = s.out := rfl
@[simp] theorem wrf_pending (o : Nat) (f : Fld) (v : Nat) : (wrf s o f v).pending = s.pending := rfl

/-! ### wrb changes only cfg -/

@[simp] theorem wrb_cores (o : Nat) (f : Fld) (b : Bool) : (wrb s o f b).cores = s.cores := rfl
@[simp] theorem wrb_slices (o : Nat) (f : Fld) (b : Bool) : (wrb s o f b).slices = s.slices := rfl
@[simp] theorem wrb_halves (o : Nat) (f : Fld) (b : Bool) : (wrb s o f b).halves = s.halves := rfl
@[simp] theorem wrb_mem (o : Nat) (f : Fld) (b : Bool) : (wrb s o f b).mem = s.mem := rfl
@[simp] theorem wrb_reqs (o : Nat) (f : Fld) (b : Bool) : (wrb s o f b).reqs = s.reqs := rfl
@[simp] theorem wrb_engines (o : Nat) (f : Fld) (b : Bool) : (wrb s o f b).engines = s.engines := rfl
@[simp] theorem wrb_mst (o : Nat) (f : Fld) (b : Bool) : (wrb s o f b).mst = s.mst := rfl
@[simp] theorem wrb_rep (o : Nat) (f : Fld) (b : Bool) : (wrb s o f b).rep = s.rep := rfl
@[simp] theorem wrb_audit (o : Nat) (f : Fld) (b : Bool) : (wrb s o f b).audit = s.audit := rfl
@[simp] theorem wrb_fab (o : Nat) (f : Fld) (b : Bool) : (wrb s o f b).fab = s.fab := rfl
@[simp] theorem wrb_remap (o : Nat) (f : Fld) (b : Bool) : (wrb s o f b).remap = s.remap := rfl
@[simp] theorem wrb_train (o : Nat) (f : Fld) (b : Bool) : (wrb s o f b).train = s.train := rfl
@[simp] theorem wrb_atn (o : Nat) (f : Fld) (b : Bool) : (wrb s o f b).atn = s.atn := rfl
@[simp] theorem wrb_pow (o : Nat) (f : Fld) (b : Bool) : (wrb s o f b).pow = s.pow := rfl
@[simp] theorem wrb_boot (o : Nat) (f : Fld) (b : Bool) : (wrb s o f b).boot = s.boot := rfl
@[simp] theorem wrb_thermal (o : Nat) (f : Fld) (b : Bool) : (wrb s o f b).thermal = s.thermal := rfl
@[simp] theorem wrb_sec (o : Nat) (f : Fld) (b : Bool) : (wrb s o f b).sec = s.sec := rfl
@[simp] theorem wrb_nextId (o : Nat) (f : Fld) (b : Bool) : (wrb s o f b).nextId = s.nextId := rfl
@[simp] theorem wrb_pcie (o : Nat) (f : Fld) (b : Bool) : (wrb s o f b).pcie = s.pcie := rfl
@[simp] theorem wrb_host (o : Nat) (f : Fld) (b : Bool) : (wrb s o f b).host = s.host := rfl
@[simp] theorem wrb_free (o : Nat) (f : Fld) (b : Bool) : (wrb s o f b).free = s.free := rfl
@[simp] theorem wrb_out (o : Nat) (f : Fld) (b : Bool) : (wrb s o f b).out = s.out := rfl
@[simp] theorem wrb_pending (o : Nat) (f : Fld) (b : Bool) : (wrb s o f b).pending = s.pending := rfl

/-! ### count changes only cfg -/

@[simp] theorem count_cores (o : Nat) (f : Fld) (n : Nat) : (count s o f n).cores = s.cores := rfl
@[simp] theorem count_slices (o : Nat) (f : Fld) (n : Nat) : (count s o f n).slices = s.slices := rfl
@[simp] theorem count_halves (o : Nat) (f : Fld) (n : Nat) : (count s o f n).halves = s.halves := rfl
@[simp] theorem count_mem (o : Nat) (f : Fld) (n : Nat) : (count s o f n).mem = s.mem := rfl
@[simp] theorem count_reqs (o : Nat) (f : Fld) (n : Nat) : (count s o f n).reqs = s.reqs := rfl
@[simp] theorem count_engines (o : Nat) (f : Fld) (n : Nat) : (count s o f n).engines = s.engines := rfl
@[simp] theorem count_mst (o : Nat) (f : Fld) (n : Nat) : (count s o f n).mst = s.mst := rfl
@[simp] theorem count_rep (o : Nat) (f : Fld) (n : Nat) : (count s o f n).rep = s.rep := rfl
@[simp] theorem count_audit (o : Nat) (f : Fld) (n : Nat) : (count s o f n).audit = s.audit := rfl
@[simp] theorem count_fab (o : Nat) (f : Fld) (n : Nat) : (count s o f n).fab = s.fab := rfl
@[simp] theorem count_remap (o : Nat) (f : Fld) (n : Nat) : (count s o f n).remap = s.remap := rfl
@[simp] theorem count_train (o : Nat) (f : Fld) (n : Nat) : (count s o f n).train = s.train := rfl
@[simp] theorem count_atn (o : Nat) (f : Fld) (n : Nat) : (count s o f n).atn = s.atn := rfl
@[simp] theorem count_pow (o : Nat) (f : Fld) (n : Nat) : (count s o f n).pow = s.pow := rfl
@[simp] theorem count_boot (o : Nat) (f : Fld) (n : Nat) : (count s o f n).boot = s.boot := rfl
@[simp] theorem count_thermal (o : Nat) (f : Fld) (n : Nat) : (count s o f n).thermal = s.thermal := rfl
@[simp] theorem count_sec (o : Nat) (f : Fld) (n : Nat) : (count s o f n).sec = s.sec := rfl
@[simp] theorem count_nextId (o : Nat) (f : Fld) (n : Nat) : (count s o f n).nextId = s.nextId := rfl
@[simp] theorem count_pcie (o : Nat) (f : Fld) (n : Nat) : (count s o f n).pcie = s.pcie := rfl
@[simp] theorem count_host (o : Nat) (f : Fld) (n : Nat) : (count s o f n).host = s.host := rfl
@[simp] theorem count_free (o : Nat) (f : Fld) (n : Nat) : (count s o f n).free = s.free := rfl
@[simp] theorem count_out (o : Nat) (f : Fld) (n : Nat) : (count s o f n).out = s.out := rfl
@[simp] theorem count_pending (o : Nat) (f : Fld) (n : Nat) : (count s o f n).pending = s.pending := rfl

/-! ### countSat changes only cfg -/

@[simp] theorem countSat_cores (o : Nat) (f : Fld) (n : Nat) : (countSat s o f n).cores = s.cores := rfl
@[simp] theorem countSat_slices (o : Nat) (f : Fld) (n : Nat) : (countSat s o f n).slices = s.slices := rfl
@[simp] theorem countSat_halves (o : Nat) (f : Fld) (n : Nat) : (countSat s o f n).halves = s.halves := rfl
@[simp] theorem countSat_mem (o : Nat) (f : Fld) (n : Nat) : (countSat s o f n).mem = s.mem := rfl
@[simp] theorem countSat_reqs (o : Nat) (f : Fld) (n : Nat) : (countSat s o f n).reqs = s.reqs := rfl
@[simp] theorem countSat_engines (o : Nat) (f : Fld) (n : Nat) : (countSat s o f n).engines = s.engines := rfl
@[simp] theorem countSat_mst (o : Nat) (f : Fld) (n : Nat) : (countSat s o f n).mst = s.mst := rfl
@[simp] theorem countSat_rep (o : Nat) (f : Fld) (n : Nat) : (countSat s o f n).rep = s.rep := rfl
@[simp] theorem countSat_audit (o : Nat) (f : Fld) (n : Nat) : (countSat s o f n).audit = s.audit := rfl
@[simp] theorem countSat_fab (o : Nat) (f : Fld) (n : Nat) : (countSat s o f n).fab = s.fab := rfl
@[simp] theorem countSat_remap (o : Nat) (f : Fld) (n : Nat) : (countSat s o f n).remap = s.remap := rfl
@[simp] theorem countSat_train (o : Nat) (f : Fld) (n : Nat) : (countSat s o f n).train = s.train := rfl
@[simp] theorem countSat_atn (o : Nat) (f : Fld) (n : Nat) : (countSat s o f n).atn = s.atn := rfl
@[simp] theorem countSat_pow (o : Nat) (f : Fld) (n : Nat) : (countSat s o f n).pow = s.pow := rfl
@[simp] theorem countSat_boot (o : Nat) (f : Fld) (n : Nat) : (countSat s o f n).boot = s.boot := rfl
@[simp] theorem countSat_thermal (o : Nat) (f : Fld) (n : Nat) : (countSat s o f n).thermal = s.thermal := rfl
@[simp] theorem countSat_sec (o : Nat) (f : Fld) (n : Nat) : (countSat s o f n).sec = s.sec := rfl
@[simp] theorem countSat_nextId (o : Nat) (f : Fld) (n : Nat) : (countSat s o f n).nextId = s.nextId := rfl
@[simp] theorem countSat_pcie (o : Nat) (f : Fld) (n : Nat) : (countSat s o f n).pcie = s.pcie := rfl
@[simp] theorem countSat_host (o : Nat) (f : Fld) (n : Nat) : (countSat s o f n).host = s.host := rfl
@[simp] theorem countSat_free (o : Nat) (f : Fld) (n : Nat) : (countSat s o f n).free = s.free := rfl
@[simp] theorem countSat_out (o : Nat) (f : Fld) (n : Nat) : (countSat s o f n).out = s.out := rfl
@[simp] theorem countSat_pending (o : Nat) (f : Fld) (n : Nat) : (countSat s o f n).pending = s.pending := rfl

/-! ### clearIf changes only cfg -/

@[simp] theorem clearIf_cores (p : Nat → Bool) : (clearIf s p).cores = s.cores := rfl
@[simp] theorem clearIf_slices (p : Nat → Bool) : (clearIf s p).slices = s.slices := rfl
@[simp] theorem clearIf_halves (p : Nat → Bool) : (clearIf s p).halves = s.halves := rfl
@[simp] theorem clearIf_mem (p : Nat → Bool) : (clearIf s p).mem = s.mem := rfl
@[simp] theorem clearIf_reqs (p : Nat → Bool) : (clearIf s p).reqs = s.reqs := rfl
@[simp] theorem clearIf_engines (p : Nat → Bool) : (clearIf s p).engines = s.engines := rfl
@[simp] theorem clearIf_mst (p : Nat → Bool) : (clearIf s p).mst = s.mst := rfl
@[simp] theorem clearIf_rep (p : Nat → Bool) : (clearIf s p).rep = s.rep := rfl
@[simp] theorem clearIf_audit (p : Nat → Bool) : (clearIf s p).audit = s.audit := rfl
@[simp] theorem clearIf_fab (p : Nat → Bool) : (clearIf s p).fab = s.fab := rfl
@[simp] theorem clearIf_remap (p : Nat → Bool) : (clearIf s p).remap = s.remap := rfl
@[simp] theorem clearIf_train (p : Nat → Bool) : (clearIf s p).train = s.train := rfl
@[simp] theorem clearIf_atn (p : Nat → Bool) : (clearIf s p).atn = s.atn := rfl
@[simp] theorem clearIf_pow (p : Nat → Bool) : (clearIf s p).pow = s.pow := rfl
@[simp] theorem clearIf_boot (p : Nat → Bool) : (clearIf s p).boot = s.boot := rfl
@[simp] theorem clearIf_thermal (p : Nat → Bool) : (clearIf s p).thermal = s.thermal := rfl
@[simp] theorem clearIf_sec (p : Nat → Bool) : (clearIf s p).sec = s.sec := rfl
@[simp] theorem clearIf_nextId (p : Nat → Bool) : (clearIf s p).nextId = s.nextId := rfl
@[simp] theorem clearIf_pcie (p : Nat → Bool) : (clearIf s p).pcie = s.pcie := rfl
@[simp] theorem clearIf_host (p : Nat → Bool) : (clearIf s p).host = s.host := rfl
@[simp] theorem clearIf_free (p : Nat → Bool) : (clearIf s p).free = s.free := rfl
@[simp] theorem clearIf_out (p : Nat → Bool) : (clearIf s p).out = s.out := rfl
@[simp] theorem clearIf_pending (p : Nat → Bool) : (clearIf s p).pending = s.pending := rfl

/-! ### emit changes only out -/

@[simp] theorem emit_cfg (x : Output) : (emit s x).cfg = s.cfg := rfl
@[simp] theorem emit_cores (x : Output) : (emit s x).cores = s.cores := rfl
@[simp] theorem emit_slices (x : Output) : (emit s x).slices = s.slices := rfl
@[simp] theorem emit_halves (x : Output) : (emit s x).halves = s.halves := rfl
@[simp] theorem emit_mem (x : Output) : (emit s x).mem = s.mem := rfl
@[simp] theorem emit_reqs (x : Output) : (emit s x).reqs = s.reqs := rfl
@[simp] theorem emit_engines (x : Output) : (emit s x).engines = s.engines := rfl
@[simp] theorem emit_mst (x : Output) : (emit s x).mst = s.mst := rfl
@[simp] theorem emit_rep (x : Output) : (emit s x).rep = s.rep := rfl
@[simp] theorem emit_audit (x : Output) : (emit s x).audit = s.audit := rfl
@[simp] theorem emit_fab (x : Output) : (emit s x).fab = s.fab := rfl
@[simp] theorem emit_remap (x : Output) : (emit s x).remap = s.remap := rfl
@[simp] theorem emit_train (x : Output) : (emit s x).train = s.train := rfl
@[simp] theorem emit_atn (x : Output) : (emit s x).atn = s.atn := rfl
@[simp] theorem emit_pow (x : Output) : (emit s x).pow = s.pow := rfl
@[simp] theorem emit_boot (x : Output) : (emit s x).boot = s.boot := rfl
@[simp] theorem emit_thermal (x : Output) : (emit s x).thermal = s.thermal := rfl
@[simp] theorem emit_sec (x : Output) : (emit s x).sec = s.sec := rfl
@[simp] theorem emit_nextId (x : Output) : (emit s x).nextId = s.nextId := rfl
@[simp] theorem emit_pcie (x : Output) : (emit s x).pcie = s.pcie := rfl
@[simp] theorem emit_host (x : Output) : (emit s x).host = s.host := rfl
@[simp] theorem emit_free (x : Output) : (emit s x).free = s.free := rfl
@[simp] theorem emit_pending (x : Output) : (emit s x).pending = s.pending := rfl

/-! ### setCore changes only cores -/

@[simp] theorem setCore_cfg (l : Nat) (c : CoreSt) : (setCore s l c).cfg = s.cfg := rfl
@[simp] theorem setCore_slices (l : Nat) (c : CoreSt) : (setCore s l c).slices = s.slices := rfl
@[simp] theorem setCore_halves (l : Nat) (c : CoreSt) : (setCore s l c).halves = s.halves := rfl
@[simp] theorem setCore_mem (l : Nat) (c : CoreSt) : (setCore s l c).mem = s.mem := rfl
@[simp] theorem setCore_reqs (l : Nat) (c : CoreSt) : (setCore s l c).reqs = s.reqs := rfl
@[simp] theorem setCore_engines (l : Nat) (c : CoreSt) : (setCore s l c).engines = s.engines := rfl
@[simp] theorem setCore_mst (l : Nat) (c : CoreSt) : (setCore s l c).mst = s.mst := rfl
@[simp] theorem setCore_rep (l : Nat) (c : CoreSt) : (setCore s l c).rep = s.rep := rfl
@[simp] theorem setCore_audit (l : Nat) (c : CoreSt) : (setCore s l c).audit = s.audit := rfl
@[simp] theorem setCore_fab (l : Nat) (c : CoreSt) : (setCore s l c).fab = s.fab := rfl
@[simp] theorem setCore_remap (l : Nat) (c : CoreSt) : (setCore s l c).remap = s.remap := rfl
@[simp] theorem setCore_train (l : Nat) (c : CoreSt) : (setCore s l c).train = s.train := rfl
@[simp] theorem setCore_atn (l : Nat) (c : CoreSt) : (setCore s l c).atn = s.atn := rfl
@[simp] theorem setCore_pow (l : Nat) (c : CoreSt) : (setCore s l c).pow = s.pow := rfl
@[simp] theorem setCore_boot (l : Nat) (c : CoreSt) : (setCore s l c).boot = s.boot := rfl
@[simp] theorem setCore_thermal (l : Nat) (c : CoreSt) : (setCore s l c).thermal = s.thermal := rfl
@[simp] theorem setCore_sec (l : Nat) (c : CoreSt) : (setCore s l c).sec = s.sec := rfl
@[simp] theorem setCore_nextId (l : Nat) (c : CoreSt) : (setCore s l c).nextId = s.nextId := rfl
@[simp] theorem setCore_pcie (l : Nat) (c : CoreSt) : (setCore s l c).pcie = s.pcie := rfl
@[simp] theorem setCore_host (l : Nat) (c : CoreSt) : (setCore s l c).host = s.host := rfl
@[simp] theorem setCore_free (l : Nat) (c : CoreSt) : (setCore s l c).free = s.free := rfl
@[simp] theorem setCore_out (l : Nat) (c : CoreSt) : (setCore s l c).out = s.out := rfl
@[simp] theorem setCore_pending (l : Nat) (c : CoreSt) : (setCore s l c).pending = s.pending := rfl

/-! ### modCore changes only cores -/

@[simp] theorem modCore_cfg (l : Nat) (f : CoreSt → CoreSt) : (modCore s l f).cfg = s.cfg := rfl
@[simp] theorem modCore_slices (l : Nat) (f : CoreSt → CoreSt) : (modCore s l f).slices = s.slices := rfl
@[simp] theorem modCore_halves (l : Nat) (f : CoreSt → CoreSt) : (modCore s l f).halves = s.halves := rfl
@[simp] theorem modCore_mem (l : Nat) (f : CoreSt → CoreSt) : (modCore s l f).mem = s.mem := rfl
@[simp] theorem modCore_reqs (l : Nat) (f : CoreSt → CoreSt) : (modCore s l f).reqs = s.reqs := rfl
@[simp] theorem modCore_engines (l : Nat) (f : CoreSt → CoreSt) : (modCore s l f).engines = s.engines := rfl
@[simp] theorem modCore_mst (l : Nat) (f : CoreSt → CoreSt) : (modCore s l f).mst = s.mst := rfl
@[simp] theorem modCore_rep (l : Nat) (f : CoreSt → CoreSt) : (modCore s l f).rep = s.rep := rfl
@[simp] theorem modCore_audit (l : Nat) (f : CoreSt → CoreSt) : (modCore s l f).audit = s.audit := rfl
@[simp] theorem modCore_fab (l : Nat) (f : CoreSt → CoreSt) : (modCore s l f).fab = s.fab := rfl
@[simp] theorem modCore_remap (l : Nat) (f : CoreSt → CoreSt) : (modCore s l f).remap = s.remap := rfl
@[simp] theorem modCore_train (l : Nat) (f : CoreSt → CoreSt) : (modCore s l f).train = s.train := rfl
@[simp] theorem modCore_atn (l : Nat) (f : CoreSt → CoreSt) : (modCore s l f).atn = s.atn := rfl
@[simp] theorem modCore_pow (l : Nat) (f : CoreSt → CoreSt) : (modCore s l f).pow = s.pow := rfl
@[simp] theorem modCore_boot (l : Nat) (f : CoreSt → CoreSt) : (modCore s l f).boot = s.boot := rfl
@[simp] theorem modCore_thermal (l : Nat) (f : CoreSt → CoreSt) : (modCore s l f).thermal = s.thermal := rfl
@[simp] theorem modCore_sec (l : Nat) (f : CoreSt → CoreSt) : (modCore s l f).sec = s.sec := rfl
@[simp] theorem modCore_nextId (l : Nat) (f : CoreSt → CoreSt) : (modCore s l f).nextId = s.nextId := rfl
@[simp] theorem modCore_pcie (l : Nat) (f : CoreSt → CoreSt) : (modCore s l f).pcie = s.pcie := rfl
@[simp] theorem modCore_host (l : Nat) (f : CoreSt → CoreSt) : (modCore s l f).host = s.host := rfl
@[simp] theorem modCore_free (l : Nat) (f : CoreSt → CoreSt) : (modCore s l f).free = s.free := rfl
@[simp] theorem modCore_out (l : Nat) (f : CoreSt → CoreSt) : (modCore s l f).out = s.out := rfl
@[simp] theorem modCore_pending (l : Nat) (f : CoreSt → CoreSt) : (modCore s l f).pending = s.pending := rfl

/-! ### setStr changes only cores -/

@[simp] theorem setStr_cfg (l : Nat) (t : StreamId) (x : Stream) : (setStr s l t x).cfg = s.cfg := rfl
@[simp] theorem setStr_slices (l : Nat) (t : StreamId) (x : Stream) : (setStr s l t x).slices = s.slices := rfl
@[simp] theorem setStr_halves (l : Nat) (t : StreamId) (x : Stream) : (setStr s l t x).halves = s.halves := rfl
@[simp] theorem setStr_mem (l : Nat) (t : StreamId) (x : Stream) : (setStr s l t x).mem = s.mem := rfl
@[simp] theorem setStr_reqs (l : Nat) (t : StreamId) (x : Stream) : (setStr s l t x).reqs = s.reqs := rfl
@[simp] theorem setStr_engines (l : Nat) (t : StreamId) (x : Stream) : (setStr s l t x).engines = s.engines := rfl
@[simp] theorem setStr_mst (l : Nat) (t : StreamId) (x : Stream) : (setStr s l t x).mst = s.mst := rfl
@[simp] theorem setStr_rep (l : Nat) (t : StreamId) (x : Stream) : (setStr s l t x).rep = s.rep := rfl
@[simp] theorem setStr_audit (l : Nat) (t : StreamId) (x : Stream) : (setStr s l t x).audit = s.audit := rfl
@[simp] theorem setStr_fab (l : Nat) (t : StreamId) (x : Stream) : (setStr s l t x).fab = s.fab := rfl
@[simp] theorem setStr_remap (l : Nat) (t : StreamId) (x : Stream) : (setStr s l t x).remap = s.remap := rfl
@[simp] theorem setStr_train (l : Nat) (t : StreamId) (x : Stream) : (setStr s l t x).train = s.train := rfl
@[simp] theorem setStr_atn (l : Nat) (t : StreamId) (x : Stream) : (setStr s l t x).atn = s.atn := rfl
@[simp] theorem setStr_pow (l : Nat) (t : StreamId) (x : Stream) : (setStr s l t x).pow = s.pow := rfl
@[simp] theorem setStr_boot (l : Nat) (t : StreamId) (x : Stream) : (setStr s l t x).boot = s.boot := rfl
@[simp] theorem setStr_thermal (l : Nat) (t : StreamId) (x : Stream) : (setStr s l t x).thermal = s.thermal := rfl
@[simp] theorem setStr_sec (l : Nat) (t : StreamId) (x : Stream) : (setStr s l t x).sec = s.sec := rfl
@[simp] theorem setStr_nextId (l : Nat) (t : StreamId) (x : Stream) : (setStr s l t x).nextId = s.nextId := rfl
@[simp] theorem setStr_pcie (l : Nat) (t : StreamId) (x : Stream) : (setStr s l t x).pcie = s.pcie := rfl
@[simp] theorem setStr_host (l : Nat) (t : StreamId) (x : Stream) : (setStr s l t x).host = s.host := rfl
@[simp] theorem setStr_free (l : Nat) (t : StreamId) (x : Stream) : (setStr s l t x).free = s.free := rfl
@[simp] theorem setStr_out (l : Nat) (t : StreamId) (x : Stream) : (setStr s l t x).out = s.out := rfl
@[simp] theorem setStr_pending (l : Nat) (t : StreamId) (x : Stream) : (setStr s l t x).pending = s.pending := rfl

/-! ### modStr changes only cores -/

@[simp] theorem modStr_cfg (l : Nat) (t : StreamId) (f : Stream → Stream) : (modStr s l t f).cfg = s.cfg := rfl
@[simp] theorem modStr_slices (l : Nat) (t : StreamId) (f : Stream → Stream) : (modStr s l t f).slices = s.slices := rfl
@[simp] theorem modStr_halves (l : Nat) (t : StreamId) (f : Stream → Stream) : (modStr s l t f).halves = s.halves := rfl
@[simp] theorem modStr_mem (l : Nat) (t : StreamId) (f : Stream → Stream) : (modStr s l t f).mem = s.mem := rfl
@[simp] theorem modStr_reqs (l : Nat) (t : StreamId) (f : Stream → Stream) : (modStr s l t f).reqs = s.reqs := rfl
@[simp] theorem modStr_engines (l : Nat) (t : StreamId) (f : Stream → Stream) : (modStr s l t f).engines = s.engines := rfl
@[simp] theorem modStr_mst (l : Nat) (t : StreamId) (f : Stream → Stream) : (modStr s l t f).mst = s.mst := rfl
@[simp] theorem modStr_rep (l : Nat) (t : StreamId) (f : Stream → Stream) : (modStr s l t f).rep = s.rep := rfl
@[simp] theorem modStr_audit (l : Nat) (t : StreamId) (f : Stream → Stream) : (modStr s l t f).audit = s.audit := rfl
@[simp] theorem modStr_fab (l : Nat) (t : StreamId) (f : Stream → Stream) : (modStr s l t f).fab = s.fab := rfl
@[simp] theorem modStr_remap (l : Nat) (t : StreamId) (f : Stream → Stream) : (modStr s l t f).remap = s.remap := rfl
@[simp] theorem modStr_train (l : Nat) (t : StreamId) (f : Stream → Stream) : (modStr s l t f).train = s.train := rfl
@[simp] theorem modStr_atn (l : Nat) (t : StreamId) (f : Stream → Stream) : (modStr s l t f).atn = s.atn := rfl
@[simp] theorem modStr_pow (l : Nat) (t : StreamId) (f : Stream → Stream) : (modStr s l t f).pow = s.pow := rfl
@[simp] theorem modStr_boot (l : Nat) (t : StreamId) (f : Stream → Stream) : (modStr s l t f).boot = s.boot := rfl
@[simp] theorem modStr_thermal (l : Nat) (t : StreamId) (f : Stream → Stream) : (modStr s l t f).thermal = s.thermal := rfl
@[simp] theorem modStr_sec (l : Nat) (t : StreamId) (f : Stream → Stream) : (modStr s l t f).sec = s.sec := rfl
@[simp] theorem modStr_nextId (l : Nat) (t : StreamId) (f : Stream → Stream) : (modStr s l t f).nextId = s.nextId := rfl
@[simp] theorem modStr_pcie (l : Nat) (t : StreamId) (f : Stream → Stream) : (modStr s l t f).pcie = s.pcie := rfl
@[simp] theorem modStr_host (l : Nat) (t : StreamId) (f : Stream → Stream) : (modStr s l t f).host = s.host := rfl
@[simp] theorem modStr_free (l : Nat) (t : StreamId) (f : Stream → Stream) : (modStr s l t f).free = s.free := rfl
@[simp] theorem modStr_out (l : Nat) (t : StreamId) (f : Stream → Stream) : (modStr s l t f).out = s.out := rfl
@[simp] theorem modStr_pending (l : Nat) (t : StreamId) (f : Stream → Stream) : (modStr s l t f).pending = s.pending := rfl

/-! ### modMem changes only mem -/

@[simp] theorem modMem_cfg (f : Mem → Mem) : (modMem s f).cfg = s.cfg := rfl
@[simp] theorem modMem_cores (f : Mem → Mem) : (modMem s f).cores = s.cores := rfl
@[simp] theorem modMem_slices (f : Mem → Mem) : (modMem s f).slices = s.slices := rfl
@[simp] theorem modMem_halves (f : Mem → Mem) : (modMem s f).halves = s.halves := rfl
@[simp] theorem modMem_reqs (f : Mem → Mem) : (modMem s f).reqs = s.reqs := rfl
@[simp] theorem modMem_engines (f : Mem → Mem) : (modMem s f).engines = s.engines := rfl
@[simp] theorem modMem_mst (f : Mem → Mem) : (modMem s f).mst = s.mst := rfl
@[simp] theorem modMem_rep (f : Mem → Mem) : (modMem s f).rep = s.rep := rfl
@[simp] theorem modMem_audit (f : Mem → Mem) : (modMem s f).audit = s.audit := rfl
@[simp] theorem modMem_fab (f : Mem → Mem) : (modMem s f).fab = s.fab := rfl
@[simp] theorem modMem_remap (f : Mem → Mem) : (modMem s f).remap = s.remap := rfl
@[simp] theorem modMem_train (f : Mem → Mem) : (modMem s f).train = s.train := rfl
@[simp] theorem modMem_atn (f : Mem → Mem) : (modMem s f).atn = s.atn := rfl
@[simp] theorem modMem_pow (f : Mem → Mem) : (modMem s f).pow = s.pow := rfl
@[simp] theorem modMem_boot (f : Mem → Mem) : (modMem s f).boot = s.boot := rfl
@[simp] theorem modMem_thermal (f : Mem → Mem) : (modMem s f).thermal = s.thermal := rfl
@[simp] theorem modMem_sec (f : Mem → Mem) : (modMem s f).sec = s.sec := rfl
@[simp] theorem modMem_nextId (f : Mem → Mem) : (modMem s f).nextId = s.nextId := rfl
@[simp] theorem modMem_pcie (f : Mem → Mem) : (modMem s f).pcie = s.pcie := rfl
@[simp] theorem modMem_host (f : Mem → Mem) : (modMem s f).host = s.host := rfl
@[simp] theorem modMem_free (f : Mem → Mem) : (modMem s f).free = s.free := rfl
@[simp] theorem modMem_out (f : Mem → Mem) : (modMem s f).out = s.out := rfl
@[simp] theorem modMem_pending (f : Mem → Mem) : (modMem s f).pending = s.pending := rfl

/-! ### setSlice changes only slices -/

@[simp] theorem setSlice_cfg (i : Nat) (x : Slice) : (setSlice s i x).cfg = s.cfg := rfl
@[simp] theorem setSlice_cores (i : Nat) (x : Slice) : (setSlice s i x).cores = s.cores := rfl
@[simp] theorem setSlice_halves (i : Nat) (x : Slice) : (setSlice s i x).halves = s.halves := rfl
@[simp] theorem setSlice_mem (i : Nat) (x : Slice) : (setSlice s i x).mem = s.mem := rfl
@[simp] theorem setSlice_reqs (i : Nat) (x : Slice) : (setSlice s i x).reqs = s.reqs := rfl
@[simp] theorem setSlice_engines (i : Nat) (x : Slice) : (setSlice s i x).engines = s.engines := rfl
@[simp] theorem setSlice_mst (i : Nat) (x : Slice) : (setSlice s i x).mst = s.mst := rfl
@[simp] theorem setSlice_rep (i : Nat) (x : Slice) : (setSlice s i x).rep = s.rep := rfl
@[simp] theorem setSlice_audit (i : Nat) (x : Slice) : (setSlice s i x).audit = s.audit := rfl
@[simp] theorem setSlice_fab (i : Nat) (x : Slice) : (setSlice s i x).fab = s.fab := rfl
@[simp] theorem setSlice_remap (i : Nat) (x : Slice) : (setSlice s i x).remap = s.remap := rfl
@[simp] theorem setSlice_train (i : Nat) (x : Slice) : (setSlice s i x).train = s.train := rfl
@[simp] theorem setSlice_atn (i : Nat) (x : Slice) : (setSlice s i x).atn = s.atn := rfl
@[simp] theorem setSlice_pow (i : Nat) (x : Slice) : (setSlice s i x).pow = s.pow := rfl
@[simp] theorem setSlice_boot (i : Nat) (x : Slice) : (setSlice s i x).boot = s.boot := rfl
@[simp] theorem setSlice_thermal (i : Nat) (x : Slice) : (setSlice s i x).thermal = s.thermal := rfl
@[simp] theorem setSlice_sec (i : Nat) (x : Slice) : (setSlice s i x).sec = s.sec := rfl
@[simp] theorem setSlice_nextId (i : Nat) (x : Slice) : (setSlice s i x).nextId = s.nextId := rfl
@[simp] theorem setSlice_pcie (i : Nat) (x : Slice) : (setSlice s i x).pcie = s.pcie := rfl
@[simp] theorem setSlice_host (i : Nat) (x : Slice) : (setSlice s i x).host = s.host := rfl
@[simp] theorem setSlice_free (i : Nat) (x : Slice) : (setSlice s i x).free = s.free := rfl
@[simp] theorem setSlice_out (i : Nat) (x : Slice) : (setSlice s i x).out = s.out := rfl
@[simp] theorem setSlice_pending (i : Nat) (x : Slice) : (setSlice s i x).pending = s.pending := rfl

/-! ### setHalf changes only halves -/

@[simp] theorem setHalf_cfg (k : Nat) (h : Half) : (setHalf s k h).cfg = s.cfg := rfl
@[simp] theorem setHalf_cores (k : Nat) (h : Half) : (setHalf s k h).cores = s.cores := rfl
@[simp] theorem setHalf_slices (k : Nat) (h : Half) : (setHalf s k h).slices = s.slices := rfl
@[simp] theorem setHalf_mem (k : Nat) (h : Half) : (setHalf s k h).mem = s.mem := rfl
@[simp] theorem setHalf_reqs (k : Nat) (h : Half) : (setHalf s k h).reqs = s.reqs := rfl
@[simp] theorem setHalf_engines (k : Nat) (h : Half) : (setHalf s k h).engines = s.engines := rfl
@[simp] theorem setHalf_mst (k : Nat) (h : Half) : (setHalf s k h).mst = s.mst := rfl
@[simp] theorem setHalf_rep (k : Nat) (h : Half) : (setHalf s k h).rep = s.rep := rfl
@[simp] theorem setHalf_audit (k : Nat) (h : Half) : (setHalf s k h).audit = s.audit := rfl
@[simp] theorem setHalf_fab (k : Nat) (h : Half) : (setHalf s k h).fab = s.fab := rfl
@[simp] theorem setHalf_remap (k : Nat) (h : Half) : (setHalf s k h).remap = s.remap := rfl
@[simp] theorem setHalf_train (k : Nat) (h : Half) : (setHalf s k h).train = s.train := rfl
@[simp] theorem setHalf_atn (k : Nat) (h : Half) : (setHalf s k h).atn = s.atn := rfl
@[simp] theorem setHalf_pow (k : Nat) (h : Half) : (setHalf s k h).pow = s.pow := rfl
@[simp] theorem setHalf_boot (k : Nat) (h : Half) : (setHalf s k h).boot = s.boot := rfl
@[simp] theorem setHalf_thermal (k : Nat) (h : Half) : (setHalf s k h).thermal = s.thermal := rfl
@[simp] theorem setHalf_sec (k : Nat) (h : Half) : (setHalf s k h).sec = s.sec := rfl
@[simp] theorem setHalf_nextId (k : Nat) (h : Half) : (setHalf s k h).nextId = s.nextId := rfl
@[simp] theorem setHalf_pcie (k : Nat) (h : Half) : (setHalf s k h).pcie = s.pcie := rfl
@[simp] theorem setHalf_host (k : Nat) (h : Half) : (setHalf s k h).host = s.host := rfl
@[simp] theorem setHalf_free (k : Nat) (h : Half) : (setHalf s k h).free = s.free := rfl
@[simp] theorem setHalf_out (k : Nat) (h : Half) : (setHalf s k h).out = s.out := rfl
@[simp] theorem setHalf_pending (k : Nat) (h : Half) : (setHalf s k h).pending = s.pending := rfl

/-! ### setEng changes only engines -/

@[simp] theorem setEng_cfg (k : Nat) (e : Engine) : (setEng s k e).cfg = s.cfg := rfl
@[simp] theorem setEng_cores (k : Nat) (e : Engine) : (setEng s k e).cores = s.cores := rfl
@[simp] theorem setEng_slices (k : Nat) (e : Engine) : (setEng s k e).slices = s.slices := rfl
@[simp] theorem setEng_halves (k : Nat) (e : Engine) : (setEng s k e).halves = s.halves := rfl
@[simp] theorem setEng_mem (k : Nat) (e : Engine) : (setEng s k e).mem = s.mem := rfl
@[simp] theorem setEng_reqs (k : Nat) (e : Engine) : (setEng s k e).reqs = s.reqs := rfl
@[simp] theorem setEng_mst (k : Nat) (e : Engine) : (setEng s k e).mst = s.mst := rfl
@[simp] theorem setEng_rep (k : Nat) (e : Engine) : (setEng s k e).rep = s.rep := rfl
@[simp] theorem setEng_audit (k : Nat) (e : Engine) : (setEng s k e).audit = s.audit := rfl
@[simp] theorem setEng_fab (k : Nat) (e : Engine) : (setEng s k e).fab = s.fab := rfl
@[simp] theorem setEng_remap (k : Nat) (e : Engine) : (setEng s k e).remap = s.remap := rfl
@[simp] theorem setEng_train (k : Nat) (e : Engine) : (setEng s k e).train = s.train := rfl
@[simp] theorem setEng_atn (k : Nat) (e : Engine) : (setEng s k e).atn = s.atn := rfl
@[simp] theorem setEng_pow (k : Nat) (e : Engine) : (setEng s k e).pow = s.pow := rfl
@[simp] theorem setEng_boot (k : Nat) (e : Engine) : (setEng s k e).boot = s.boot := rfl
@[simp] theorem setEng_thermal (k : Nat) (e : Engine) : (setEng s k e).thermal = s.thermal := rfl
@[simp] theorem setEng_sec (k : Nat) (e : Engine) : (setEng s k e).sec = s.sec := rfl
@[simp] theorem setEng_nextId (k : Nat) (e : Engine) : (setEng s k e).nextId = s.nextId := rfl
@[simp] theorem setEng_pcie (k : Nat) (e : Engine) : (setEng s k e).pcie = s.pcie := rfl
@[simp] theorem setEng_host (k : Nat) (e : Engine) : (setEng s k e).host = s.host := rfl
@[simp] theorem setEng_free (k : Nat) (e : Engine) : (setEng s k e).free = s.free := rfl
@[simp] theorem setEng_out (k : Nat) (e : Engine) : (setEng s k e).out = s.out := rfl
@[simp] theorem setEng_pending (k : Nat) (e : Engine) : (setEng s k e).pending = s.pending := rfl

/-! ### modMst changes only mst -/

@[simp] theorem modMst_cfg (f : Mst → Mst) : (modMst s f).cfg = s.cfg := rfl
@[simp] theorem modMst_cores (f : Mst → Mst) : (modMst s f).cores = s.cores := rfl
@[simp] theorem modMst_slices (f : Mst → Mst) : (modMst s f).slices = s.slices := rfl
@[simp] theorem modMst_halves (f : Mst → Mst) : (modMst s f).halves = s.halves := rfl
@[simp] theorem modMst_mem (f : Mst → Mst) : (modMst s f).mem = s.mem := rfl
@[simp] theorem modMst_reqs (f : Mst → Mst) : (modMst s f).reqs = s.reqs := rfl
@[simp] theorem modMst_engines (f : Mst → Mst) : (modMst s f).engines = s.engines := rfl
@[simp] theorem modMst_rep (f : Mst → Mst) : (modMst s f).rep = s.rep := rfl
@[simp] theorem modMst_audit (f : Mst → Mst) : (modMst s f).audit = s.audit := rfl
@[simp] theorem modMst_fab (f : Mst → Mst) : (modMst s f).fab = s.fab := rfl
@[simp] theorem modMst_remap (f : Mst → Mst) : (modMst s f).remap = s.remap := rfl
@[simp] theorem modMst_train (f : Mst → Mst) : (modMst s f).train = s.train := rfl
@[simp] theorem modMst_atn (f : Mst → Mst) : (modMst s f).atn = s.atn := rfl
@[simp] theorem modMst_pow (f : Mst → Mst) : (modMst s f).pow = s.pow := rfl
@[simp] theorem modMst_boot (f : Mst → Mst) : (modMst s f).boot = s.boot := rfl
@[simp] theorem modMst_thermal (f : Mst → Mst) : (modMst s f).thermal = s.thermal := rfl
@[simp] theorem modMst_sec (f : Mst → Mst) : (modMst s f).sec = s.sec := rfl
@[simp] theorem modMst_nextId (f : Mst → Mst) : (modMst s f).nextId = s.nextId := rfl
@[simp] theorem modMst_pcie (f : Mst → Mst) : (modMst s f).pcie = s.pcie := rfl
@[simp] theorem modMst_host (f : Mst → Mst) : (modMst s f).host = s.host := rfl
@[simp] theorem modMst_free (f : Mst → Mst) : (modMst s f).free = s.free := rfl
@[simp] theorem modMst_out (f : Mst → Mst) : (modMst s f).out = s.out := rfl
@[simp] theorem modMst_pending (f : Mst → Mst) : (modMst s f).pending = s.pending := rfl

/-! ### modRep changes only rep -/

@[simp] theorem modRep_cfg (f : Rep → Rep) : (modRep s f).cfg = s.cfg := rfl
@[simp] theorem modRep_cores (f : Rep → Rep) : (modRep s f).cores = s.cores := rfl
@[simp] theorem modRep_slices (f : Rep → Rep) : (modRep s f).slices = s.slices := rfl
@[simp] theorem modRep_halves (f : Rep → Rep) : (modRep s f).halves = s.halves := rfl
@[simp] theorem modRep_mem (f : Rep → Rep) : (modRep s f).mem = s.mem := rfl
@[simp] theorem modRep_reqs (f : Rep → Rep) : (modRep s f).reqs = s.reqs := rfl
@[simp] theorem modRep_engines (f : Rep → Rep) : (modRep s f).engines = s.engines := rfl
@[simp] theorem modRep_mst (f : Rep → Rep) : (modRep s f).mst = s.mst := rfl
@[simp] theorem modRep_audit (f : Rep → Rep) : (modRep s f).audit = s.audit := rfl
@[simp] theorem modRep_fab (f : Rep → Rep) : (modRep s f).fab = s.fab := rfl
@[simp] theorem modRep_remap (f : Rep → Rep) : (modRep s f).remap = s.remap := rfl
@[simp] theorem modRep_train (f : Rep → Rep) : (modRep s f).train = s.train := rfl
@[simp] theorem modRep_atn (f : Rep → Rep) : (modRep s f).atn = s.atn := rfl
@[simp] theorem modRep_pow (f : Rep → Rep) : (modRep s f).pow = s.pow := rfl
@[simp] theorem modRep_boot (f : Rep → Rep) : (modRep s f).boot = s.boot := rfl
@[simp] theorem modRep_thermal (f : Rep → Rep) : (modRep s f).thermal = s.thermal := rfl
@[simp] theorem modRep_sec (f : Rep → Rep) : (modRep s f).sec = s.sec := rfl
@[simp] theorem modRep_nextId (f : Rep → Rep) : (modRep s f).nextId = s.nextId := rfl
@[simp] theorem modRep_pcie (f : Rep → Rep) : (modRep s f).pcie = s.pcie := rfl
@[simp] theorem modRep_host (f : Rep → Rep) : (modRep s f).host = s.host := rfl
@[simp] theorem modRep_free (f : Rep → Rep) : (modRep s f).free = s.free := rfl
@[simp] theorem modRep_out (f : Rep → Rep) : (modRep s f).out = s.out := rfl
@[simp] theorem modRep_pending (f : Rep → Rep) : (modRep s f).pending = s.pending := rfl

/-! ### modFab changes only fab -/

@[simp] theorem modFab_cfg (f : Fab → Fab) : (modFab s f).cfg = s.cfg := rfl
@[simp] theorem modFab_cores (f : Fab → Fab) : (modFab s f).cores = s.cores := rfl
@[simp] theorem modFab_slices (f : Fab → Fab) : (modFab s f).slices = s.slices := rfl
@[simp] theorem modFab_halves (f : Fab → Fab) : (modFab s f).halves = s.halves := rfl
@[simp] theorem modFab_mem (f : Fab → Fab) : (modFab s f).mem = s.mem := rfl
@[simp] theorem modFab_reqs (f : Fab → Fab) : (modFab s f).reqs = s.reqs := rfl
@[simp] theorem modFab_engines (f : Fab → Fab) : (modFab s f).engines = s.engines := rfl
@[simp] theorem modFab_mst (f : Fab → Fab) : (modFab s f).mst = s.mst := rfl
@[simp] theorem modFab_rep (f : Fab → Fab) : (modFab s f).rep = s.rep := rfl
@[simp] theorem modFab_audit (f : Fab → Fab) : (modFab s f).audit = s.audit := rfl
@[simp] theorem modFab_remap (f : Fab → Fab) : (modFab s f).remap = s.remap := rfl
@[simp] theorem modFab_train (f : Fab → Fab) : (modFab s f).train = s.train := rfl
@[simp] theorem modFab_atn (f : Fab → Fab) : (modFab s f).atn = s.atn := rfl
@[simp] theorem modFab_pow (f : Fab → Fab) : (modFab s f).pow = s.pow := rfl
@[simp] theorem modFab_boot (f : Fab → Fab) : (modFab s f).boot = s.boot := rfl
@[simp] theorem modFab_thermal (f : Fab → Fab) : (modFab s f).thermal = s.thermal := rfl
@[simp] theorem modFab_sec (f : Fab → Fab) : (modFab s f).sec = s.sec := rfl
@[simp] theorem modFab_nextId (f : Fab → Fab) : (modFab s f).nextId = s.nextId := rfl
@[simp] theorem modFab_pcie (f : Fab → Fab) : (modFab s f).pcie = s.pcie := rfl
@[simp] theorem modFab_host (f : Fab → Fab) : (modFab s f).host = s.host := rfl
@[simp] theorem modFab_free (f : Fab → Fab) : (modFab s f).free = s.free := rfl
@[simp] theorem modFab_out (f : Fab → Fab) : (modFab s f).out = s.out := rfl
@[simp] theorem modFab_pending (f : Fab → Fab) : (modFab s f).pending = s.pending := rfl

/-! ### modTrain changes only train -/

@[simp] theorem modTrain_cfg (f : Train → Train) : (modTrain s f).cfg = s.cfg := rfl
@[simp] theorem modTrain_cores (f : Train → Train) : (modTrain s f).cores = s.cores := rfl
@[simp] theorem modTrain_slices (f : Train → Train) : (modTrain s f).slices = s.slices := rfl
@[simp] theorem modTrain_halves (f : Train → Train) : (modTrain s f).halves = s.halves := rfl
@[simp] theorem modTrain_mem (f : Train → Train) : (modTrain s f).mem = s.mem := rfl
@[simp] theorem modTrain_reqs (f : Train → Train) : (modTrain s f).reqs = s.reqs := rfl
@[simp] theorem modTrain_engines (f : Train → Train) : (modTrain s f).engines = s.engines := rfl
@[simp] theorem modTrain_mst (f : Train → Train) : (modTrain s f).mst = s.mst := rfl
@[simp] theorem modTrain_rep (f : Train → Train) : (modTrain s f).rep = s.rep := rfl
@[simp] theorem modTrain_audit (f : Train → Train) : (modTrain s f).audit = s.audit := rfl
@[simp] theorem modTrain_fab (f : Train → Train) : (modTrain s f).fab = s.fab := rfl
@[simp] theorem modTrain_remap (f : Train → Train) : (modTrain s f).remap = s.remap := rfl
@[simp] theorem modTrain_atn (f : Train → Train) : (modTrain s f).atn = s.atn := rfl
@[simp] theorem modTrain_pow (f : Train → Train) : (modTrain s f).pow = s.pow := rfl
@[simp] theorem modTrain_boot (f : Train → Train) : (modTrain s f).boot = s.boot := rfl
@[simp] theorem modTrain_thermal (f : Train → Train) : (modTrain s f).thermal = s.thermal := rfl
@[simp] theorem modTrain_sec (f : Train → Train) : (modTrain s f).sec = s.sec := rfl
@[simp] theorem modTrain_nextId (f : Train → Train) : (modTrain s f).nextId = s.nextId := rfl
@[simp] theorem modTrain_pcie (f : Train → Train) : (modTrain s f).pcie = s.pcie := rfl
@[simp] theorem modTrain_host (f : Train → Train) : (modTrain s f).host = s.host := rfl
@[simp] theorem modTrain_free (f : Train → Train) : (modTrain s f).free = s.free := rfl
@[simp] theorem modTrain_out (f : Train → Train) : (modTrain s f).out = s.out := rfl
@[simp] theorem modTrain_pending (f : Train → Train) : (modTrain s f).pending = s.pending := rfl

/-! ### modAtn changes only atn -/

@[simp] theorem modAtn_cfg (f : Atn → Atn) : (modAtn s f).cfg = s.cfg := rfl
@[simp] theorem modAtn_cores (f : Atn → Atn) : (modAtn s f).cores = s.cores := rfl
@[simp] theorem modAtn_slices (f : Atn → Atn) : (modAtn s f).slices = s.slices := rfl
@[simp] theorem modAtn_halves (f : Atn → Atn) : (modAtn s f).halves = s.halves := rfl
@[simp] theorem modAtn_mem (f : Atn → Atn) : (modAtn s f).mem = s.mem := rfl
@[simp] theorem modAtn_reqs (f : Atn → Atn) : (modAtn s f).reqs = s.reqs := rfl
@[simp] theorem modAtn_engines (f : Atn → Atn) : (modAtn s f).engines = s.engines := rfl
@[simp] theorem modAtn_mst (f : Atn → Atn) : (modAtn s f).mst = s.mst := rfl
@[simp] theorem modAtn_rep (f : Atn → Atn) : (modAtn s f).rep = s.rep := rfl
@[simp] theorem modAtn_audit (f : Atn → Atn) : (modAtn s f).audit = s.audit := rfl
@[simp] theorem modAtn_fab (f : Atn → Atn) : (modAtn s f).fab = s.fab := rfl
@[simp] theorem modAtn_remap (f : Atn → Atn) : (modAtn s f).remap = s.remap := rfl
@[simp] theorem modAtn_train (f : Atn → Atn) : (modAtn s f).train = s.train := rfl
@[simp] theorem modAtn_pow (f : Atn → Atn) : (modAtn s f).pow = s.pow := rfl
@[simp] theorem modAtn_boot (f : Atn → Atn) : (modAtn s f).boot = s.boot := rfl
@[simp] theorem modAtn_thermal (f : Atn → Atn) : (modAtn s f).thermal = s.thermal := rfl
@[simp] theorem modAtn_sec (f : Atn → Atn) : (modAtn s f).sec = s.sec := rfl
@[simp] theorem modAtn_nextId (f : Atn → Atn) : (modAtn s f).nextId = s.nextId := rfl
@[simp] theorem modAtn_pcie (f : Atn → Atn) : (modAtn s f).pcie = s.pcie := rfl
@[simp] theorem modAtn_host (f : Atn → Atn) : (modAtn s f).host = s.host := rfl
@[simp] theorem modAtn_free (f : Atn → Atn) : (modAtn s f).free = s.free := rfl
@[simp] theorem modAtn_out (f : Atn → Atn) : (modAtn s f).out = s.out := rfl
@[simp] theorem modAtn_pending (f : Atn → Atn) : (modAtn s f).pending = s.pending := rfl

/-! ### modPow changes only pow -/

@[simp] theorem modPow_cfg (f : Pow → Pow) : (modPow s f).cfg = s.cfg := rfl
@[simp] theorem modPow_cores (f : Pow → Pow) : (modPow s f).cores = s.cores := rfl
@[simp] theorem modPow_slices (f : Pow → Pow) : (modPow s f).slices = s.slices := rfl
@[simp] theorem modPow_halves (f : Pow → Pow) : (modPow s f).halves = s.halves := rfl
@[simp] theorem modPow_mem (f : Pow → Pow) : (modPow s f).mem = s.mem := rfl
@[simp] theorem modPow_reqs (f : Pow → Pow) : (modPow s f).reqs = s.reqs := rfl
@[simp] theorem modPow_engines (f : Pow → Pow) : (modPow s f).engines = s.engines := rfl
@[simp] theorem modPow_mst (f : Pow → Pow) : (modPow s f).mst = s.mst := rfl
@[simp] theorem modPow_rep (f : Pow → Pow) : (modPow s f).rep = s.rep := rfl
@[simp] theorem modPow_audit (f : Pow → Pow) : (modPow s f).audit = s.audit := rfl
@[simp] theorem modPow_fab (f : Pow → Pow) : (modPow s f).fab = s.fab := rfl
@[simp] theorem modPow_remap (f : Pow → Pow) : (modPow s f).remap = s.remap := rfl
@[simp] theorem modPow_train (f : Pow → Pow) : (modPow s f).train = s.train := rfl
@[simp] theorem modPow_atn (f : Pow → Pow) : (modPow s f).atn = s.atn := rfl
@[simp] theorem modPow_boot (f : Pow → Pow) : (modPow s f).boot = s.boot := rfl
@[simp] theorem modPow_thermal (f : Pow → Pow) : (modPow s f).thermal = s.thermal := rfl
@[simp] theorem modPow_sec (f : Pow → Pow) : (modPow s f).sec = s.sec := rfl
@[simp] theorem modPow_nextId (f : Pow → Pow) : (modPow s f).nextId = s.nextId := rfl
@[simp] theorem modPow_pcie (f : Pow → Pow) : (modPow s f).pcie = s.pcie := rfl
@[simp] theorem modPow_host (f : Pow → Pow) : (modPow s f).host = s.host := rfl
@[simp] theorem modPow_free (f : Pow → Pow) : (modPow s f).free = s.free := rfl
@[simp] theorem modPow_out (f : Pow → Pow) : (modPow s f).out = s.out := rfl
@[simp] theorem modPow_pending (f : Pow → Pow) : (modPow s f).pending = s.pending := rfl

/-! ### modBoot changes only boot -/

@[simp] theorem modBoot_cfg (f : Boot → Boot) : (modBoot s f).cfg = s.cfg := rfl
@[simp] theorem modBoot_cores (f : Boot → Boot) : (modBoot s f).cores = s.cores := rfl
@[simp] theorem modBoot_slices (f : Boot → Boot) : (modBoot s f).slices = s.slices := rfl
@[simp] theorem modBoot_halves (f : Boot → Boot) : (modBoot s f).halves = s.halves := rfl
@[simp] theorem modBoot_mem (f : Boot → Boot) : (modBoot s f).mem = s.mem := rfl
@[simp] theorem modBoot_reqs (f : Boot → Boot) : (modBoot s f).reqs = s.reqs := rfl
@[simp] theorem modBoot_engines (f : Boot → Boot) : (modBoot s f).engines = s.engines := rfl
@[simp] theorem modBoot_mst (f : Boot → Boot) : (modBoot s f).mst = s.mst := rfl
@[simp] theorem modBoot_rep (f : Boot → Boot) : (modBoot s f).rep = s.rep := rfl
@[simp] theorem modBoot_audit (f : Boot → Boot) : (modBoot s f).audit = s.audit := rfl
@[simp] theorem modBoot_fab (f : Boot → Boot) : (modBoot s f).fab = s.fab := rfl
@[simp] theorem modBoot_remap (f : Boot → Boot) : (modBoot s f).remap = s.remap := rfl
@[simp] theorem modBoot_train (f : Boot → Boot) : (modBoot s f).train = s.train := rfl
@[simp] theorem modBoot_atn (f : Boot → Boot) : (modBoot s f).atn = s.atn := rfl
@[simp] theorem modBoot_pow (f : Boot → Boot) : (modBoot s f).pow = s.pow := rfl
@[simp] theorem modBoot_thermal (f : Boot → Boot) : (modBoot s f).thermal = s.thermal := rfl
@[simp] theorem modBoot_sec (f : Boot → Boot) : (modBoot s f).sec = s.sec := rfl
@[simp] theorem modBoot_nextId (f : Boot → Boot) : (modBoot s f).nextId = s.nextId := rfl
@[simp] theorem modBoot_pcie (f : Boot → Boot) : (modBoot s f).pcie = s.pcie := rfl
@[simp] theorem modBoot_host (f : Boot → Boot) : (modBoot s f).host = s.host := rfl
@[simp] theorem modBoot_free (f : Boot → Boot) : (modBoot s f).free = s.free := rfl
@[simp] theorem modBoot_out (f : Boot → Boot) : (modBoot s f).out = s.out := rfl
@[simp] theorem modBoot_pending (f : Boot → Boot) : (modBoot s f).pending = s.pending := rfl

/-! ### modSec changes only sec -/

@[simp] theorem modSec_cfg (f : Sec → Sec) : (modSec s f).cfg = s.cfg := rfl
@[simp] theorem modSec_cores (f : Sec → Sec) : (modSec s f).cores = s.cores := rfl
@[simp] theorem modSec_slices (f : Sec → Sec) : (modSec s f).slices = s.slices := rfl
@[simp] theorem modSec_halves (f : Sec → Sec) : (modSec s f).halves = s.halves := rfl
@[simp] theorem modSec_mem (f : Sec → Sec) : (modSec s f).mem = s.mem := rfl
@[simp] theorem modSec_reqs (f : Sec → Sec) : (modSec s f).reqs = s.reqs := rfl
@[simp] theorem modSec_engines (f : Sec → Sec) : (modSec s f).engines = s.engines := rfl
@[simp] theorem modSec_mst (f : Sec → Sec) : (modSec s f).mst = s.mst := rfl
@[simp] theorem modSec_rep (f : Sec → Sec) : (modSec s f).rep = s.rep := rfl
@[simp] theorem modSec_audit (f : Sec → Sec) : (modSec s f).audit = s.audit := rfl
@[simp] theorem modSec_fab (f : Sec → Sec) : (modSec s f).fab = s.fab := rfl
@[simp] theorem modSec_remap (f : Sec → Sec) : (modSec s f).remap = s.remap := rfl
@[simp] theorem modSec_train (f : Sec → Sec) : (modSec s f).train = s.train := rfl
@[simp] theorem modSec_atn (f : Sec → Sec) : (modSec s f).atn = s.atn := rfl
@[simp] theorem modSec_pow (f : Sec → Sec) : (modSec s f).pow = s.pow := rfl
@[simp] theorem modSec_boot (f : Sec → Sec) : (modSec s f).boot = s.boot := rfl
@[simp] theorem modSec_thermal (f : Sec → Sec) : (modSec s f).thermal = s.thermal := rfl
@[simp] theorem modSec_nextId (f : Sec → Sec) : (modSec s f).nextId = s.nextId := rfl
@[simp] theorem modSec_pcie (f : Sec → Sec) : (modSec s f).pcie = s.pcie := rfl
@[simp] theorem modSec_host (f : Sec → Sec) : (modSec s f).host = s.host := rfl
@[simp] theorem modSec_free (f : Sec → Sec) : (modSec s f).free = s.free := rfl
@[simp] theorem modSec_out (f : Sec → Sec) : (modSec s f).out = s.out := rfl
@[simp] theorem modSec_pending (f : Sec → Sec) : (modSec s f).pending = s.pending := rfl

/-! ### modPcie changes only pcie -/

@[simp] theorem modPcie_cfg (f : Pcie → Pcie) : (modPcie s f).cfg = s.cfg := rfl
@[simp] theorem modPcie_cores (f : Pcie → Pcie) : (modPcie s f).cores = s.cores := rfl
@[simp] theorem modPcie_slices (f : Pcie → Pcie) : (modPcie s f).slices = s.slices := rfl
@[simp] theorem modPcie_halves (f : Pcie → Pcie) : (modPcie s f).halves = s.halves := rfl
@[simp] theorem modPcie_mem (f : Pcie → Pcie) : (modPcie s f).mem = s.mem := rfl
@[simp] theorem modPcie_reqs (f : Pcie → Pcie) : (modPcie s f).reqs = s.reqs := rfl
@[simp] theorem modPcie_engines (f : Pcie → Pcie) : (modPcie s f).engines = s.engines := rfl
@[simp] theorem modPcie_mst (f : Pcie → Pcie) : (modPcie s f).mst = s.mst := rfl
@[simp] theorem modPcie_rep (f : Pcie → Pcie) : (modPcie s f).rep = s.rep := rfl
@[simp] theorem modPcie_audit (f : Pcie → Pcie) : (modPcie s f).audit = s.audit := rfl
@[simp] theorem modPcie_fab (f : Pcie → Pcie) : (modPcie s f).fab = s.fab := rfl
@[simp] theorem modPcie_remap (f : Pcie → Pcie) : (modPcie s f).remap = s.remap := rfl
@[simp] theorem modPcie_train (f : Pcie → Pcie) : (modPcie s f).train = s.train := rfl
@[simp] theorem modPcie_atn (f : Pcie → Pcie) : (modPcie s f).atn = s.atn := rfl
@[simp] theorem modPcie_pow (f : Pcie → Pcie) : (modPcie s f).pow = s.pow := rfl
@[simp] theorem modPcie_boot (f : Pcie → Pcie) : (modPcie s f).boot = s.boot := rfl
@[simp] theorem modPcie_thermal (f : Pcie → Pcie) : (modPcie s f).thermal = s.thermal := rfl
@[simp] theorem modPcie_sec (f : Pcie → Pcie) : (modPcie s f).sec = s.sec := rfl
@[simp] theorem modPcie_nextId (f : Pcie → Pcie) : (modPcie s f).nextId = s.nextId := rfl
@[simp] theorem modPcie_host (f : Pcie → Pcie) : (modPcie s f).host = s.host := rfl
@[simp] theorem modPcie_free (f : Pcie → Pcie) : (modPcie s f).free = s.free := rfl
@[simp] theorem modPcie_out (f : Pcie → Pcie) : (modPcie s f).out = s.out := rfl
@[simp] theorem modPcie_pending (f : Pcie → Pcie) : (modPcie s f).pending = s.pending := rfl

/-! ### modHost changes only host -/

@[simp] theorem modHost_cfg (f : HostSt → HostSt) : (modHost s f).cfg = s.cfg := rfl
@[simp] theorem modHost_cores (f : HostSt → HostSt) : (modHost s f).cores = s.cores := rfl
@[simp] theorem modHost_slices (f : HostSt → HostSt) : (modHost s f).slices = s.slices := rfl
@[simp] theorem modHost_halves (f : HostSt → HostSt) : (modHost s f).halves = s.halves := rfl
@[simp] theorem modHost_mem (f : HostSt → HostSt) : (modHost s f).mem = s.mem := rfl
@[simp] theorem modHost_reqs (f : HostSt → HostSt) : (modHost s f).reqs = s.reqs := rfl
@[simp] theorem modHost_engines (f : HostSt → HostSt) : (modHost s f).engines = s.engines := rfl
@[simp] theorem modHost_mst (f : HostSt → HostSt) : (modHost s f).mst = s.mst := rfl
@[simp] theorem modHost_rep (f : HostSt → HostSt) : (modHost s f).rep = s.rep := rfl
@[simp] theorem modHost_audit (f : HostSt → HostSt) : (modHost s f).audit = s.audit := rfl
@[simp] theorem modHost_fab (f : HostSt → HostSt) : (modHost s f).fab = s.fab := rfl
@[simp] theorem modHost_remap (f : HostSt → HostSt) : (modHost s f).remap = s.remap := rfl
@[simp] theorem modHost_train (f : HostSt → HostSt) : (modHost s f).train = s.train := rfl
@[simp] theorem modHost_atn (f : HostSt → HostSt) : (modHost s f).atn = s.atn := rfl
@[simp] theorem modHost_pow (f : HostSt → HostSt) : (modHost s f).pow = s.pow := rfl
@[simp] theorem modHost_boot (f : HostSt → HostSt) : (modHost s f).boot = s.boot := rfl
@[simp] theorem modHost_thermal (f : HostSt → HostSt) : (modHost s f).thermal = s.thermal := rfl
@[simp] theorem modHost_sec (f : HostSt → HostSt) : (modHost s f).sec = s.sec := rfl
@[simp] theorem modHost_nextId (f : HostSt → HostSt) : (modHost s f).nextId = s.nextId := rfl
@[simp] theorem modHost_pcie (f : HostSt → HostSt) : (modHost s f).pcie = s.pcie := rfl
@[simp] theorem modHost_free (f : HostSt → HostSt) : (modHost s f).free = s.free := rfl
@[simp] theorem modHost_out (f : HostSt → HostSt) : (modHost s f).out = s.out := rfl
@[simp] theorem modHost_pending (f : HostSt → HostSt) : (modHost s f).pending = s.pending := rfl

/-! ### setChan changes only host -/

@[simp] theorem setChan_cfg (i : Nat) (c : Chan) : (setChan s i c).cfg = s.cfg := rfl
@[simp] theorem setChan_cores (i : Nat) (c : Chan) : (setChan s i c).cores = s.cores := rfl
@[simp] theorem setChan_slices (i : Nat) (c : Chan) : (setChan s i c).slices = s.slices := rfl
@[simp] theorem setChan_halves (i : Nat) (c : Chan) : (setChan s i c).halves = s.halves := rfl
@[simp] theorem setChan_mem (i : Nat) (c : Chan) : (setChan s i c).mem = s.mem := rfl
@[simp] theorem setChan_reqs (i : Nat) (c : Chan) : (setChan s i c).reqs = s.reqs := rfl
@[simp] theorem setChan_engines (i : Nat) (c : Chan) : (setChan s i c).engines = s.engines := rfl
@[simp] theorem setChan_mst (i : Nat) (c : Chan) : (setChan s i c).mst = s.mst := rfl
@[simp] theorem setChan_rep (i : Nat) (c : Chan) : (setChan s i c).rep = s.rep := rfl
@[simp] theorem setChan_audit (i : Nat) (c : Chan) : (setChan s i c).audit = s.audit := rfl
@[simp] theorem setChan_fab (i : Nat) (c : Chan) : (setChan s i c).fab = s.fab := rfl
@[simp] theorem setChan_remap (i : Nat) (c : Chan) : (setChan s i c).remap = s.remap := rfl
@[simp] theorem setChan_train (i : Nat) (c : Chan) : (setChan s i c).train = s.train := rfl
@[simp] theorem setChan_atn (i : Nat) (c : Chan) : (setChan s i c).atn = s.atn := rfl
@[simp] theorem setChan_pow (i : Nat) (c : Chan) : (setChan s i c).pow = s.pow := rfl
@[simp] theorem setChan_boot (i : Nat) (c : Chan) : (setChan s i c).boot = s.boot := rfl
@[simp] theorem setChan_thermal (i : Nat) (c : Chan) : (setChan s i c).thermal = s.thermal := rfl
@[simp] theorem setChan_sec (i : Nat) (c : Chan) : (setChan s i c).sec = s.sec := rfl
@[simp] theorem setChan_nextId (i : Nat) (c : Chan) : (setChan s i c).nextId = s.nextId := rfl
@[simp] theorem setChan_pcie (i : Nat) (c : Chan) : (setChan s i c).pcie = s.pcie := rfl
@[simp] theorem setChan_free (i : Nat) (c : Chan) : (setChan s i c).free = s.free := rfl
@[simp] theorem setChan_out (i : Nat) (c : Chan) : (setChan s i c).out = s.out := rfl
@[simp] theorem setChan_pending (i : Nat) (c : Chan) : (setChan s i c).pending = s.pending := rfl

/-! ### What the updates of registers and cores read back as -/

theorem rd_wr (o p : Nat) (w : Word) : rd (wr s o w) p = if p = o then w else rd s p := by
  by_cases h : p = o
  · subst h; simp [rd, wr]
  · simp [rd, wr, smGet_smPut_other _ _ _ _ _ _ h, h]

@[simp] theorem rd_wr_self (o : Nat) (w : Word) : rd (wr s o w) o = w := by simp [rd_wr]

theorem rd_wr_other (o p : Nat) (w : Word) (h : p ≠ o) : rd (wr s o w) p = rd s p := by simp [rd_wr, h]

/-- Only the table of registers says what a register reads. -/
theorem rd_congr {s t : State} (h : t.cfg = s.cfg) (o : Nat) : rd t o = rd s o := by simp [rd, h]

theorem coreOf_setCore (l m : Nat) (c : CoreSt) : coreOf (setCore s l c) m = if m = l then c else coreOf s m := by
  by_cases h : m = l
  · subst h; simp [coreOf, setCore]
  · simp [coreOf, setCore, smGet_smPut_other _ _ _ _ _ _ h, h]

@[simp] theorem coreOf_setCore_self (l : Nat) (c : CoreSt) : coreOf (setCore s l c) l = c := by simp [coreOf_setCore]

@[simp] theorem coreOf_modCore_self (l : Nat) (f : CoreSt → CoreSt) : coreOf (modCore s l f) l = f (coreOf s l) := by
  simp [modCore]

theorem coreOf_modCore_other (l m : Nat) (f : CoreSt → CoreSt) (h : m ≠ l) : coreOf (modCore s l f) m = coreOf s m := by
  simp [modCore, coreOf_setCore, h]

@[simp] theorem coreStr_setStr_self (c : CoreSt) (t : StreamId) (x : Stream) : (c.setStr t x).str t = x := by
  cases t <;> rfl

theorem coreStr_setStr_other (c : CoreSt) (t u : StreamId) (x : Stream) (h : u ≠ t) :
    (c.setStr t x).str u = c.str u := by cases t <;> cases u <;> first | rfl | exact absurd rfl h

@[simp] theorem strOf_setStr_self (l : Nat) (t : StreamId) (x : Stream) : strOf (setStr s l t x) l t = x := by
  simp [strOf, setStr]

@[simp] theorem strOf_modStr_self (l : Nat) (t : StreamId) (f : Stream → Stream) :
    strOf (modStr s l t f) l t = f (strOf s l t) := by simp [modStr]

theorem strOf_setStr_sibling (l : Nat) (t u : StreamId) (x : Stream) (h : u ≠ t) :
    strOf (setStr s l t x) l u = strOf s l u := by
  simp only [strOf, setStr, coreOf_modCore_self, coreStr_setStr_other _ _ _ _ h]

theorem strOf_setStr_other (l m : Nat) (t u : StreamId) (x : Stream) (h : m ≠ l) :
    strOf (setStr s l t x) m u = strOf s m u := by
  simp only [strOf, setStr, coreOf_modCore_other _ _ _ _ h]

/-! A register reads the same after an update of anything but the registers, and a core after an update of anything but the
cores. -/

@[simp] theorem rd_emit (x : Output) (p : Nat) : rd (emit s x) p = rd s p := rfl
@[simp] theorem rd_setCore (l : Nat) (c : CoreSt) (p : Nat) : rd (setCore s l c) p = rd s p := rfl
@[simp] theorem rd_modCore (l : Nat) (f : CoreSt → CoreSt) (p : Nat) : rd (modCore s l f) p = rd s p := rfl
@[simp] theorem rd_setStr (l : Nat) (t : StreamId) (x : Stream) (p : Nat) : rd (setStr s l t x) p = rd s p := rfl
@[simp] theorem rd_modStr (l : Nat) (t : StreamId) (f : Stream → Stream) (p : Nat) : rd (modStr s l t f) p = rd s p := rfl
@[simp] theorem rd_modMem (f : Mem → Mem) (p : Nat) : rd (modMem s f) p = rd s p := rfl
@[simp] theorem rd_setSlice (i : Nat) (x : Slice) (p : Nat) : rd (setSlice s i x) p = rd s p := rfl
@[simp] theorem rd_setHalf (k : Nat) (h : Half) (p : Nat) : rd (setHalf s k h) p = rd s p := rfl
@[simp] theorem rd_setEng (k : Nat) (e : Engine) (p : Nat) : rd (setEng s k e) p = rd s p := rfl
@[simp] theorem rd_modMst (f : Mst → Mst) (p : Nat) : rd (modMst s f) p = rd s p := rfl
@[simp] theorem rd_modRep (f : Rep → Rep) (p : Nat) : rd (modRep s f) p = rd s p := rfl
@[simp] theorem rd_modFab (f : Fab → Fab) (p : Nat) : rd (modFab s f) p = rd s p := rfl
@[simp] theorem rd_modTrain (f : Train → Train) (p : Nat) : rd (modTrain s f) p = rd s p := rfl
@[simp] theorem rd_modAtn (f : Atn → Atn) (p : Nat) : rd (modAtn s f) p = rd s p := rfl
@[simp] theorem rd_modPow (f : Pow → Pow) (p : Nat) : rd (modPow s f) p = rd s p := rfl
@[simp] theorem rd_modBoot (f : Boot → Boot) (p : Nat) : rd (modBoot s f) p = rd s p := rfl
@[simp] theorem rd_modSec (f : Sec → Sec) (p : Nat) : rd (modSec s f) p = rd s p := rfl
@[simp] theorem rd_modPcie (f : Pcie → Pcie) (p : Nat) : rd (modPcie s f) p = rd s p := rfl
@[simp] theorem rd_modHost (f : HostSt → HostSt) (p : Nat) : rd (modHost s f) p = rd s p := rfl
@[simp] theorem rd_setChan (i : Nat) (c : Chan) (p : Nat) : rd (setChan s i c) p = rd s p := rfl
@[simp] theorem coreOf_wr (o : Nat) (w : Word) (l : Nat) : coreOf (wr s o w) l = coreOf s l := rfl
@[simp] theorem coreOf_wrf (o : Nat) (f : Fld) (v : Nat) (l : Nat) : coreOf (wrf s o f v) l = coreOf s l := rfl
@[simp] theorem coreOf_wrb (o : Nat) (f : Fld) (b : Bool) (l : Nat) : coreOf (wrb s o f b) l = coreOf s l := rfl
@[simp] theorem coreOf_count (o : Nat) (f : Fld) (n : Nat) (l : Nat) : coreOf (count s o f n) l = coreOf s l := rfl
@[simp] theorem coreOf_countSat (o : Nat) (f : Fld) (n : Nat) (l : Nat) : coreOf (countSat s o f n) l = coreOf s l := rfl
@[simp] theorem coreOf_clearIf (p : Nat → Bool) (l : Nat) : coreOf (clearIf s p) l = coreOf s l := rfl
@[simp] theorem coreOf_emit (x : Output) (l : Nat) : coreOf (emit s x) l = coreOf s l := rfl
@[simp] theorem coreOf_modMem (f : Mem → Mem) (l : Nat) : coreOf (modMem s f) l = coreOf s l := rfl
@[simp] theorem coreOf_setSlice (i : Nat) (x : Slice) (l : Nat) : coreOf (setSlice s i x) l = coreOf s l := rfl
@[simp] theorem coreOf_setHalf (k : Nat) (h : Half) (l : Nat) : coreOf (setHalf s k h) l = coreOf s l := rfl
@[simp] theorem coreOf_setEng (k : Nat) (e : Engine) (l : Nat) : coreOf (setEng s k e) l = coreOf s l := rfl
@[simp] theorem coreOf_modMst (f : Mst → Mst) (l : Nat) : coreOf (modMst s f) l = coreOf s l := rfl
@[simp] theorem coreOf_modRep (f : Rep → Rep) (l : Nat) : coreOf (modRep s f) l = coreOf s l := rfl
@[simp] theorem coreOf_modFab (f : Fab → Fab) (l : Nat) : coreOf (modFab s f) l = coreOf s l := rfl
@[simp] theorem coreOf_modTrain (f : Train → Train) (l : Nat) : coreOf (modTrain s f) l = coreOf s l := rfl
@[simp] theorem coreOf_modAtn (f : Atn → Atn) (l : Nat) : coreOf (modAtn s f) l = coreOf s l := rfl
@[simp] theorem coreOf_modPow (f : Pow → Pow) (l : Nat) : coreOf (modPow s f) l = coreOf s l := rfl
@[simp] theorem coreOf_modBoot (f : Boot → Boot) (l : Nat) : coreOf (modBoot s f) l = coreOf s l := rfl
@[simp] theorem coreOf_modSec (f : Sec → Sec) (l : Nat) : coreOf (modSec s f) l = coreOf s l := rfl
@[simp] theorem coreOf_modPcie (f : Pcie → Pcie) (l : Nat) : coreOf (modPcie s f) l = coreOf s l := rfl
@[simp] theorem coreOf_modHost (f : HostSt → HostSt) (l : Nat) : coreOf (modHost s f) l = coreOf s l := rfl
@[simp] theorem coreOf_setChan (i : Nat) (c : Chan) (l : Nat) : coreOf (setChan s i c) l = coreOf s l := rfl

end Sys2Proof.Machine
end

