-- ==== Sys2Proof/Laws/Ops.lean ====
section
/-! SUPPORT. What the shared operations can do, said once: interrupts, halts and faults of streams, memory, scratchpads. -/

namespace Sys2Proof.Machine

variable (s : State)

/-! ### Interrupts: only registers, the function's held vectors and the outputs change -/

/-- A signalled vector is sent, held, left pending in the array, or held already. -/
theorem signalVector_cases (v : Nat) :
    (∃ c, signalVector s v = { s with cfg := c }) ∨ (∃ x, signalVector s v = emit s x) ∨ signalVector s v = s
      ∨ (∃ p, signalVector s v = { s with pcie := p }) := by
  simp only [signalVector]
  split_ifs
  · exact Or.inl ⟨_, rfl⟩
  · exact Or.inr (Or.inl ⟨_, rfl⟩)
  · exact Or.inr (Or.inr (Or.inl rfl))
  · exact Or.inr (Or.inr (Or.inr ⟨_, rfl⟩))

/-- A source that goes to a vector signals it; another does nothing more. -/
theorem signalSource_cases (n : Nat) : signalSource s n = s ∨ ∃ v, signalSource s n = signalVector s v := by
  simp only [signalSource]
  split_ifs
  · exact Or.inr ⟨_, rfl⟩
  · exact Or.inl rfl

/-- An event writes its source's register (count, pending) and then may signal. -/
theorem raiseEvent_cases (n : Nat) :
    ∃ a b c d, raiseEvent s n = wr (wr s a b) c d ∨ raiseEvent s n = signalSource (wr (wr s a b) c d) n := by
  refine ⟨ICU_SRC n, satf (rd s (ICU_SRC n)) ICU_SRC_count 1, ICU_SRC n,
    setb (rd (countSat s (ICU_SRC n) ICU_SRC_count) (ICU_SRC n)) ICU_SRC_pending true, ?_⟩
  unfold raiseEvent
  by_cases h : (!srcPending s n && rdb s (ICU_SRC n) ICU_SRC_enable) = true
  · exact Or.inr (if_pos h)
  · exact Or.inl (if_neg h)

/-- A level set counts at its source, writes the status bit and then may signal. -/
theorem raiseLevel_cases (n o : Nat) (f : Fld) :
    ∃ a b c d, raiseLevel s n o f = wr (wr s a b) c d ∨ raiseLevel s n o f = signalSource (wr (wr s a b) c d) n := by
  refine ⟨ICU_SRC n, satf (rd s (ICU_SRC n)) ICU_SRC_count 1, o,
    setb (rd (countSat s (ICU_SRC n) ICU_SRC_count) o) f true, ?_⟩
  unfold raiseLevel
  by_cases h : (!srcPending s n && rdb s (ICU_SRC n) ICU_SRC_enable) = true
  · exact Or.inr (if_pos h)
  · exact Or.inl (if_neg h)

@[simp] theorem signalVector_cores (v : Nat) : (signalVector s v).cores = s.cores := by
  obtain ⟨_, h⟩ | ⟨_, h⟩ | h | ⟨_, h⟩ := signalVector_cases s v <;> rw [h] <;> rfl
@[simp] theorem signalVector_slices (v : Nat) : (signalVector s v).slices = s.slices := by
  obtain ⟨_, h⟩ | ⟨_, h⟩ | h | ⟨_, h⟩ := signalVector_cases s v <;> rw [h] <;> rfl
@[simp] theorem signalVector_halves (v : Nat) : (signalVector s v).halves = s.halves := by
  obtain ⟨_, h⟩ | ⟨_, h⟩ | h | ⟨_, h⟩ := signalVector_cases s v <;> rw [h] <;> rfl
@[simp] theorem signalVector_mem (v : Nat) : (signalVector s v).mem = s.mem := by
  obtain ⟨_, h⟩ | ⟨_, h⟩ | h | ⟨_, h⟩ := signalVector_cases s v <;> rw [h] <;> rfl
@[simp] theorem signalVector_reqs (v : Nat) : (signalVector s v).reqs = s.reqs := by
  obtain ⟨_, h⟩ | ⟨_, h⟩ | h | ⟨_, h⟩ := signalVector_cases s v <;> rw [h] <;> rfl
@[simp] theorem signalVector_engines (v : Nat) : (signalVector s v).engines = s.engines := by
  obtain ⟨_, h⟩ | ⟨_, h⟩ | h | ⟨_, h⟩ := signalVector_cases s v <;> rw [h] <;> rfl
@[simp] theorem signalVector_mst (v : Nat) : (signalVector s v).mst = s.mst := by
  obtain ⟨_, h⟩ | ⟨_, h⟩ | h | ⟨_, h⟩ := signalVector_cases s v <;> rw [h] <;> rfl
@[simp] theorem signalVector_rep (v : Nat) : (signalVector s v).rep = s.rep := by
  obtain ⟨_, h⟩ | ⟨_, h⟩ | h | ⟨_, h⟩ := signalVector_cases s v <;> rw [h] <;> rfl
@[simp] theorem signalVector_audit (v : Nat) : (signalVector s v).audit = s.audit := by
  obtain ⟨_, h⟩ | ⟨_, h⟩ | h | ⟨_, h⟩ := signalVector_cases s v <;> rw [h] <;> rfl
@[simp] theorem signalVector_fab (v : Nat) : (signalVector s v).fab = s.fab := by
  obtain ⟨_, h⟩ | ⟨_, h⟩ | h | ⟨_, h⟩ := signalVector_cases s v <;> rw [h] <;> rfl
@[simp] theorem signalVector_remap (v : Nat) : (signalVector s v).remap = s.remap := by
  obtain ⟨_, h⟩ | ⟨_, h⟩ | h | ⟨_, h⟩ := signalVector_cases s v <;> rw [h] <;> rfl
@[simp] theorem signalVector_train (v : Nat) : (signalVector s v).train = s.train := by
  obtain ⟨_, h⟩ | ⟨_, h⟩ | h | ⟨_, h⟩ := signalVector_cases s v <;> rw [h] <;> rfl
@[simp] theorem signalVector_atn (v : Nat) : (signalVector s v).atn = s.atn := by
  obtain ⟨_, h⟩ | ⟨_, h⟩ | h | ⟨_, h⟩ := signalVector_cases s v <;> rw [h] <;> rfl
@[simp] theorem signalVector_pow (v : Nat) : (signalVector s v).pow = s.pow := by
  obtain ⟨_, h⟩ | ⟨_, h⟩ | h | ⟨_, h⟩ := signalVector_cases s v <;> rw [h] <;> rfl
@[simp] theorem signalVector_boot (v : Nat) : (signalVector s v).boot = s.boot := by
  obtain ⟨_, h⟩ | ⟨_, h⟩ | h | ⟨_, h⟩ := signalVector_cases s v <;> rw [h] <;> rfl
@[simp] theorem signalVector_thermal (v : Nat) : (signalVector s v).thermal = s.thermal := by
  obtain ⟨_, h⟩ | ⟨_, h⟩ | h | ⟨_, h⟩ := signalVector_cases s v <;> rw [h] <;> rfl
@[simp] theorem signalVector_sec (v : Nat) : (signalVector s v).sec = s.sec := by
  obtain ⟨_, h⟩ | ⟨_, h⟩ | h | ⟨_, h⟩ := signalVector_cases s v <;> rw [h] <;> rfl
@[simp] theorem signalVector_nextId (v : Nat) : (signalVector s v).nextId = s.nextId := by
  obtain ⟨_, h⟩ | ⟨_, h⟩ | h | ⟨_, h⟩ := signalVector_cases s v <;> rw [h] <;> rfl
@[simp] theorem signalVector_host (v : Nat) : (signalVector s v).host = s.host := by
  obtain ⟨_, h⟩ | ⟨_, h⟩ | h | ⟨_, h⟩ := signalVector_cases s v <;> rw [h] <;> rfl
@[simp] theorem signalVector_free (v : Nat) : (signalVector s v).free = s.free := by
  obtain ⟨_, h⟩ | ⟨_, h⟩ | h | ⟨_, h⟩ := signalVector_cases s v <;> rw [h] <;> rfl
@[simp] theorem signalVector_pending (v : Nat) : (signalVector s v).pending = s.pending := by
  obtain ⟨_, h⟩ | ⟨_, h⟩ | h | ⟨_, h⟩ := signalVector_cases s v <;> rw [h] <;> rfl

@[simp] theorem signalSource_cores (n : Nat) : (signalSource s n).cores = s.cores := by
  obtain h | ⟨_, h⟩ := signalSource_cases s n
  · rw [h]
  · rw [h]; simp
@[simp] theorem signalSource_slices (n : Nat) : (signalSource s n).slices = s.slices := by
  obtain h | ⟨_, h⟩ := signalSource_cases s n
  · rw [h]
  · rw [h]; simp
@[simp] theorem signalSource_halves (n : Nat) : (signalSource s n).halves = s.halves := by
  obtain h | ⟨_, h⟩ := signalSource_cases s n
  · rw [h]
  · rw [h]; simp
@[simp] theorem signalSource_mem (n : Nat) : (signalSource s n).mem = s.mem := by
  obtain h | ⟨_, h⟩ := signalSource_cases s n
  · rw [h]
  · rw [h]; simp
@[simp] theorem signalSource_reqs (n : Nat) : (signalSource s n).reqs = s.reqs := by
  obtain h | ⟨_, h⟩ := signalSource_cases s n
  · rw [h]
  · rw [h]; simp
@[simp] theorem signalSource_engines (n : Nat) : (signalSource s n).engines = s.engines := by
  obtain h | ⟨_, h⟩ := signalSource_cases s n
  · rw [h]
  · rw [h]; simp
@[simp] theorem signalSource_mst (n : Nat) : (signalSource s n).mst = s.mst := by
  obtain h | ⟨_, h⟩ := signalSource_cases s n
  · rw [h]
  · rw [h]; simp
@[simp] theorem signalSource_rep (n : Nat) : (signalSource s n).rep = s.rep := by
  obtain h | ⟨_, h⟩ := signalSource_cases s n
  · rw [h]
  · rw [h]; simp
@[simp] theorem signalSource_audit (n : Nat) : (signalSource s n).audit = s.audit := by
  obtain h | ⟨_, h⟩ := signalSource_cases s n
  · rw [h]
  · rw [h]; simp
@[simp] theorem signalSource_fab (n : Nat) : (signalSource s n).fab = s.fab := by
  obtain h | ⟨_, h⟩ := signalSource_cases s n
  · rw [h]
  · rw [h]; simp
@[simp] theorem signalSource_remap (n : Nat) : (signalSource s n).remap = s.remap := by
  obtain h | ⟨_, h⟩ := signalSource_cases s n
  · rw [h]
  · rw [h]; simp
@[simp] theorem signalSource_train (n : Nat) : (signalSource s n).train = s.train := by
  obtain h | ⟨_, h⟩ := signalSource_cases s n
  · rw [h]
  · rw [h]; simp
@[simp] theorem signalSource_atn (n : Nat) : (signalSource s n).atn = s.atn := by
  obtain h | ⟨_, h⟩ := signalSource_cases s n
  · rw [h]
  · rw [h]; simp
@[simp] theorem signalSource_pow (n : Nat) : (signalSource s n).pow = s.pow := by
  obtain h | ⟨_, h⟩ := signalSource_cases s n
  · rw [h]
  · rw [h]; simp
@[simp] theorem signalSource_boot (n : Nat) : (signalSource s n).boot = s.boot := by
  obtain h | ⟨_, h⟩ := signalSource_cases s n
  · rw [h]
  · rw [h]; simp
@[simp] theorem signalSource_thermal (n : Nat) : (signalSource s n).thermal = s.thermal := by
  obtain h | ⟨_, h⟩ := signalSource_cases s n
  · rw [h]
  · rw [h]; simp
@[simp] theorem signalSource_sec (n : Nat) : (signalSource s n).sec = s.sec := by
  obtain h | ⟨_, h⟩ := signalSource_cases s n
  · rw [h]
  · rw [h]; simp
@[simp] theorem signalSource_nextId (n : Nat) : (signalSource s n).nextId = s.nextId := by
  obtain h | ⟨_, h⟩ := signalSource_cases s n
  · rw [h]
  · rw [h]; simp
@[simp] theorem signalSource_host (n : Nat) : (signalSource s n).host = s.host := by
  obtain h | ⟨_, h⟩ := signalSource_cases s n
  · rw [h]
  · rw [h]; simp
@[simp] theorem signalSource_free (n : Nat) : (signalSource s n).free = s.free := by
  obtain h | ⟨_, h⟩ := signalSource_cases s n
  · rw [h]
  · rw [h]; simp
@[simp] theorem signalSource_pending (n : Nat) : (signalSource s n).pending = s.pending := by
  obtain h | ⟨_, h⟩ := signalSource_cases s n
  · rw [h]
  · rw [h]; simp

@[simp] theorem raiseEvent_cores (n : Nat) : (raiseEvent s n).cores = s.cores := by
  obtain ⟨_, _, _, _, h | h⟩ := raiseEvent_cases s n <;> rw [h] <;> simp
@[simp] theorem raiseEvent_slices (n : Nat) : (raiseEvent s n).slices = s.slices := by
  obtain ⟨_, _, _, _, h | h⟩ := raiseEvent_cases s n <;> rw [h] <;> simp
@[simp] theorem raiseEvent_halves (n : Nat) : (raiseEvent s n).halves = s.halves := by
  obtain ⟨_, _, _, _, h | h⟩ := raiseEvent_cases s n <;> rw [h] <;> simp
@[simp] theorem raiseEvent_mem (n : Nat) : (raiseEvent s n).mem = s.mem := by
  obtain ⟨_, _, _, _, h | h⟩ := raiseEvent_cases s n <;> rw [h] <;> simp
@[simp] theorem raiseEvent_reqs (n : Nat) : (raiseEvent s n).reqs = s.reqs := by
  obtain ⟨_, _, _, _, h | h⟩ := raiseEvent_cases s n <;> rw [h] <;> simp
@[simp] theorem raiseEvent_engines (n : Nat) : (raiseEvent s n).engines = s.engines := by
  obtain ⟨_, _, _, _, h | h⟩ := raiseEvent_cases s n <;> rw [h] <;> simp
@[simp] theorem raiseEvent_mst (n : Nat) : (raiseEvent s n).mst = s.mst := by
  obtain ⟨_, _, _, _, h | h⟩ := raiseEvent_cases s n <;> rw [h] <;> simp
@[simp] theorem raiseEvent_rep (n : Nat) : (raiseEvent s n).rep = s.rep := by
  obtain ⟨_, _, _, _, h | h⟩ := raiseEvent_cases s n <;> rw [h] <;> simp
@[simp] theorem raiseEvent_audit (n : Nat) : (raiseEvent s n).audit = s.audit := by
  obtain ⟨_, _, _, _, h | h⟩ := raiseEvent_cases s n <;> rw [h] <;> simp
@[simp] theorem raiseEvent_fab (n : Nat) : (raiseEvent s n).fab = s.fab := by
  obtain ⟨_, _, _, _, h | h⟩ := raiseEvent_cases s n <;> rw [h] <;> simp
@[simp] theorem raiseEvent_remap (n : Nat) : (raiseEvent s n).remap = s.remap := by
  obtain ⟨_, _, _, _, h | h⟩ := raiseEvent_cases s n <;> rw [h] <;> simp
@[simp] theorem raiseEvent_train (n : Nat) : (raiseEvent s n).train = s.train := by
  obtain ⟨_, _, _, _, h | h⟩ := raiseEvent_cases s n <;> rw [h] <;> simp
@[simp] theorem raiseEvent_atn (n : Nat) : (raiseEvent s n).atn = s.atn := by
  obtain ⟨_, _, _, _, h | h⟩ := raiseEvent_cases s n <;> rw [h] <;> simp
@[simp] theorem raiseEvent_pow (n : Nat) : (raiseEvent s n).pow = s.pow := by
  obtain ⟨_, _, _, _, h | h⟩ := raiseEvent_cases s n <;> rw [h] <;> simp
@[simp] theorem raiseEvent_boot (n : Nat) : (raiseEvent s n).boot = s.boot := by
  obtain ⟨_, _, _, _, h | h⟩ := raiseEvent_cases s n <;> rw [h] <;> simp
@[simp] theorem raiseEvent_thermal (n : Nat) : (raiseEvent s n).thermal = s.thermal := by
  obtain ⟨_, _, _, _, h | h⟩ := raiseEvent_cases s n <;> rw [h] <;> simp
@[simp] theorem raiseEvent_sec (n : Nat) : (raiseEvent s n).sec = s.sec := by
  obtain ⟨_, _, _, _, h | h⟩ := raiseEvent_cases s n <;> rw [h] <;> simp
@[simp] theorem raiseEvent_nextId (n : Nat) : (raiseEvent s n).nextId = s.nextId := by
  obtain ⟨_, _, _, _, h | h⟩ := raiseEvent_cases s n <;> rw [h] <;> simp
@[simp] theorem raiseEvent_host (n : Nat) : (raiseEvent s n).host = s.host := by
  obtain ⟨_, _, _, _, h | h⟩ := raiseEvent_cases s n <;> rw [h] <;> simp
@[simp] theorem raiseEvent_free (n : Nat) : (raiseEvent s n).free = s.free := by
  obtain ⟨_, _, _, _, h | h⟩ := raiseEvent_cases s n <;> rw [h] <;> simp
@[simp] theorem raiseEvent_pending (n : Nat) : (raiseEvent s n).pending = s.pending := by
  obtain ⟨_, _, _, _, h | h⟩ := raiseEvent_cases s n <;> rw [h] <;> simp

@[simp] theorem raiseLevel_cores (n o : Nat) (f : Fld) : (raiseLevel s n o f).cores = s.cores := by
  obtain ⟨_, _, _, _, h | h⟩ := raiseLevel_cases s n o f <;> rw [h] <;> simp
@[simp] theorem raiseLevel_slices (n o : Nat) (f : Fld) : (raiseLevel s n o f).slices = s.slices := by
  obtain ⟨_, _, _, _, h | h⟩ := raiseLevel_cases s n o f <;> rw [h] <;> simp
@[simp] theorem raiseLevel_halves (n o : Nat) (f : Fld) : (raiseLevel s n o f).halves = s.halves := by
  obtain ⟨_, _, _, _, h | h⟩ := raiseLevel_cases s n o f <;> rw [h] <;> simp
@[simp] theorem raiseLevel_mem (n o : Nat) (f : Fld) : (raiseLevel s n o f).mem = s.mem := by
  obtain ⟨_, _, _, _, h | h⟩ := raiseLevel_cases s n o f <;> rw [h] <;> simp
@[simp] theorem raiseLevel_reqs (n o : Nat) (f : Fld) : (raiseLevel s n o f).reqs = s.reqs := by
  obtain ⟨_, _, _, _, h | h⟩ := raiseLevel_cases s n o f <;> rw [h] <;> simp
@[simp] theorem raiseLevel_engines (n o : Nat) (f : Fld) : (raiseLevel s n o f).engines = s.engines := by
  obtain ⟨_, _, _, _, h | h⟩ := raiseLevel_cases s n o f <;> rw [h] <;> simp
@[simp] theorem raiseLevel_mst (n o : Nat) (f : Fld) : (raiseLevel s n o f).mst = s.mst := by
  obtain ⟨_, _, _, _, h | h⟩ := raiseLevel_cases s n o f <;> rw [h] <;> simp
@[simp] theorem raiseLevel_rep (n o : Nat) (f : Fld) : (raiseLevel s n o f).rep = s.rep := by
  obtain ⟨_, _, _, _, h | h⟩ := raiseLevel_cases s n o f <;> rw [h] <;> simp
@[simp] theorem raiseLevel_audit (n o : Nat) (f : Fld) : (raiseLevel s n o f).audit = s.audit := by
  obtain ⟨_, _, _, _, h | h⟩ := raiseLevel_cases s n o f <;> rw [h] <;> simp
@[simp] theorem raiseLevel_fab (n o : Nat) (f : Fld) : (raiseLevel s n o f).fab = s.fab := by
  obtain ⟨_, _, _, _, h | h⟩ := raiseLevel_cases s n o f <;> rw [h] <;> simp
@[simp] theorem raiseLevel_remap (n o : Nat) (f : Fld) : (raiseLevel s n o f).remap = s.remap := by
  obtain ⟨_, _, _, _, h | h⟩ := raiseLevel_cases s n o f <;> rw [h] <;> simp
@[simp] theorem raiseLevel_train (n o : Nat) (f : Fld) : (raiseLevel s n o f).train = s.train := by
  obtain ⟨_, _, _, _, h | h⟩ := raiseLevel_cases s n o f <;> rw [h] <;> simp
@[simp] theorem raiseLevel_atn (n o : Nat) (f : Fld) : (raiseLevel s n o f).atn = s.atn := by
  obtain ⟨_, _, _, _, h | h⟩ := raiseLevel_cases s n o f <;> rw [h] <;> simp
@[simp] theorem raiseLevel_pow (n o : Nat) (f : Fld) : (raiseLevel s n o f).pow = s.pow := by
  obtain ⟨_, _, _, _, h | h⟩ := raiseLevel_cases s n o f <;> rw [h] <;> simp
@[simp] theorem raiseLevel_boot (n o : Nat) (f : Fld) : (raiseLevel s n o f).boot = s.boot := by
  obtain ⟨_, _, _, _, h | h⟩ := raiseLevel_cases s n o f <;> rw [h] <;> simp
@[simp] theorem raiseLevel_thermal (n o : Nat) (f : Fld) : (raiseLevel s n o f).thermal = s.thermal := by
  obtain ⟨_, _, _, _, h | h⟩ := raiseLevel_cases s n o f <;> rw [h] <;> simp
@[simp] theorem raiseLevel_sec (n o : Nat) (f : Fld) : (raiseLevel s n o f).sec = s.sec := by
  obtain ⟨_, _, _, _, h | h⟩ := raiseLevel_cases s n o f <;> rw [h] <;> simp
@[simp] theorem raiseLevel_nextId (n o : Nat) (f : Fld) : (raiseLevel s n o f).nextId = s.nextId := by
  obtain ⟨_, _, _, _, h | h⟩ := raiseLevel_cases s n o f <;> rw [h] <;> simp
@[simp] theorem raiseLevel_host (n o : Nat) (f : Fld) : (raiseLevel s n o f).host = s.host := by
  obtain ⟨_, _, _, _, h | h⟩ := raiseLevel_cases s n o f <;> rw [h] <;> simp
@[simp] theorem raiseLevel_free (n o : Nat) (f : Fld) : (raiseLevel s n o f).free = s.free := by
  obtain ⟨_, _, _, _, h | h⟩ := raiseLevel_cases s n o f <;> rw [h] <;> simp
@[simp] theorem raiseLevel_pending (n o : Nat) (f : Fld) : (raiseLevel s n o f).pending = s.pending := by
  obtain ⟨_, _, _, _, h | h⟩ := raiseLevel_cases s n o f <;> rw [h] <;> simp

@[simp] theorem coreOf_raiseEvent (n l : Nat) : coreOf (raiseEvent s n) l = coreOf s l := by simp [coreOf]

@[simp] theorem coreOf_raiseLevel (n o : Nat) (f : Fld) (l : Nat) : coreOf (raiseLevel s n o f) l = coreOf s l := by
  simp [coreOf]

@[simp] theorem strOf_raiseEvent (n l : Nat) (t : StreamId) : strOf (raiseEvent s n) l t = strOf s l t := by simp [strOf]

@[simp] theorem strOf_raiseLevel (n o : Nat) (f : Fld) (l : Nat) (t : StreamId) :
    strOf (raiseLevel s n o f) l t = strOf s l t := by simp [strOf]

@[simp] theorem strOf_wr (o : Nat) (w : Word) (l : Nat) (t : StreamId) : strOf (wr s o w) l t = strOf s l t := rfl

/-! ### Halts and faults -/

@[simp] theorem haltStream_cfg (l : Nat) (t : StreamId) (c : HaltCause) (k : Nat) : (haltStream s l t c k).cfg = s.cfg := by
  simp only [haltStream]; split_ifs <;> rfl
@[simp] theorem haltStream_slices (l : Nat) (t : StreamId) (c : HaltCause) (k : Nat) : (haltStream s l t c k).slices = s.slices := by
  simp only [haltStream]; split_ifs <;> rfl
@[simp] theorem haltStream_halves (l : Nat) (t : StreamId) (c : HaltCause) (k : Nat) : (haltStream s l t c k).halves = s.halves := by
  simp only [haltStream]; split_ifs <;> rfl
@[simp] theorem haltStream_mem (l : Nat) (t : StreamId) (c : HaltCause) (k : Nat) : (haltStream s l t c k).mem = s.mem := by
  simp only [haltStream]; split_ifs <;> rfl
@[simp] theorem haltStream_reqs (l : Nat) (t : StreamId) (c : HaltCause) (k : Nat) : (haltStream s l t c k).reqs = s.reqs := by
  simp only [haltStream]; split_ifs <;> rfl
@[simp] theorem haltStream_engines (l : Nat) (t : StreamId) (c : HaltCause) (k : Nat) : (haltStream s l t c k).engines = s.engines := by
  simp only [haltStream]; split_ifs <;> rfl
@[simp] theorem haltStream_mst (l : Nat) (t : StreamId) (c : HaltCause) (k : Nat) : (haltStream s l t c k).mst = s.mst := by
  simp only [haltStream]; split_ifs <;> rfl
@[simp] theorem haltStream_rep (l : Nat) (t : StreamId) (c : HaltCause) (k : Nat) : (haltStream s l t c k).rep = s.rep := by
  simp only [haltStream]; split_ifs <;> rfl
@[simp] theorem haltStream_audit (l : Nat) (t : StreamId) (c : HaltCause) (k : Nat) : (haltStream s l t c k).audit = s.audit := by
  simp only [haltStream]; split_ifs <;> rfl
@[simp] theorem haltStream_fab (l : Nat) (t : StreamId) (c : HaltCause) (k : Nat) : (haltStream s l t c k).fab = s.fab := by
  simp only [haltStream]; split_ifs <;> rfl
@[simp] theorem haltStream_remap (l : Nat) (t : StreamId) (c : HaltCause) (k : Nat) : (haltStream s l t c k).remap = s.remap := by
  simp only [haltStream]; split_ifs <;> rfl
@[simp] theorem haltStream_train (l : Nat) (t : StreamId) (c : HaltCause) (k : Nat) : (haltStream s l t c k).train = s.train := by
  simp only [haltStream]; split_ifs <;> rfl
@[simp] theorem haltStream_atn (l : Nat) (t : StreamId) (c : HaltCause) (k : Nat) : (haltStream s l t c k).atn = s.atn := by
  simp only [haltStream]; split_ifs <;> rfl
@[simp] theorem haltStream_pow (l : Nat) (t : StreamId) (c : HaltCause) (k : Nat) : (haltStream s l t c k).pow = s.pow := by
  simp only [haltStream]; split_ifs <;> rfl
@[simp] theorem haltStream_boot (l : Nat) (t : StreamId) (c : HaltCause) (k : Nat) : (haltStream s l t c k).boot = s.boot := by
  simp only [haltStream]; split_ifs <;> rfl
@[simp] theorem haltStream_thermal (l : Nat) (t : StreamId) (c : HaltCause) (k : Nat) : (haltStream s l t c k).thermal = s.thermal := by
  simp only [haltStream]; split_ifs <;> rfl
@[simp] theorem haltStream_sec (l : Nat) (t : StreamId) (c : HaltCause) (k : Nat) : (haltStream s l t c k).sec = s.sec := by
  simp only [haltStream]; split_ifs <;> rfl
@[simp] theorem haltStream_nextId (l : Nat) (t : StreamId) (c : HaltCause) (k : Nat) : (haltStream s l t c k).nextId = s.nextId := by
  simp only [haltStream]; split_ifs <;> rfl
@[simp] theorem haltStream_pcie (l : Nat) (t : StreamId) (c : HaltCause) (k : Nat) : (haltStream s l t c k).pcie = s.pcie := by
  simp only [haltStream]; split_ifs <;> rfl
@[simp] theorem haltStream_host (l : Nat) (t : StreamId) (c : HaltCause) (k : Nat) : (haltStream s l t c k).host = s.host := by
  simp only [haltStream]; split_ifs <;> rfl
@[simp] theorem haltStream_free (l : Nat) (t : StreamId) (c : HaltCause) (k : Nat) : (haltStream s l t c k).free = s.free := by
  simp only [haltStream]; split_ifs <;> rfl
@[simp] theorem haltStream_out (l : Nat) (t : StreamId) (c : HaltCause) (k : Nat) : (haltStream s l t c k).out = s.out := by
  simp only [haltStream]; split_ifs <;> rfl
@[simp] theorem haltStream_pending (l : Nat) (t : StreamId) (c : HaltCause) (k : Nat) : (haltStream s l t c k).pending = s.pending := by
  simp only [haltStream]; split_ifs <;> rfl

@[simp] theorem abandon_str (c : CoreSt) (t u : StreamId) : (c.abandon t).str u = c.str u := by cases u <;> rfl

/-- A live stream that halts is halting with the cause and the code; one that is not live stays as it is. -/
@[simp] theorem strOf_haltStream_self (l : Nat) (t : StreamId) (c : HaltCause) (k : Nat) :
    strOf (haltStream s l t c k) l t = (strOf s l t).halting c k := by
  by_cases h : (strOf s l t).live = true
  · have h' : ((coreOf s l).str t).live = true := h
    simp [haltStream, strOf, h']
  · have h' : ¬ ((coreOf s l).str t).live = true := h
    simp only [haltStream, if_neg h', Stream.halting, if_neg h]

/-- A halt of one stream leaves its siblings. -/
theorem strOf_haltStream_sibling (l : Nat) (t u : StreamId) (c : HaltCause) (k : Nat) (hu : u ≠ t) :
    strOf (haltStream s l t c k) l u = strOf s l u := by
  by_cases h : (strOf s l t).live = true
  · have h' : ((coreOf s l).str t).live = true := h
    simp [haltStream, strOf, h', coreStr_setStr_other _ _ _ _ hu]
  · have h' : ¬ ((coreOf s l).str t).live = true := h
    simp only [haltStream, if_neg h']

/-- A halt leaves other cores. -/
theorem coreOf_haltStream_other (l m : Nat) (t : StreamId) (c : HaltCause) (k : Nat) (h : m ≠ l) :
    coreOf (haltStream s l t c k) m = coreOf s m := by
  simp only [haltStream]; split_ifs <;> simp [coreOf_setCore, h]

/-- The record of which stream faulted first, and when, is no part of a stream. -/
@[simp] theorem strOf_modCore_faultBy (l n : Nat) (v : Option StreamId) (t : StreamId) :
    strOf (modCore s l (fun c => { c with faultBy := v, faultAt := n })) l t = strOf s l t := by
  simp only [strOf, coreOf_modCore_self]; cases t <;> rfl

/-- A command runs on a device whose rails are up (R3). -/
@[simp] theorem powered_on (t : State) (h : s.boot.pg = true) : powered s t = t := by simp [powered, h]

/-- With the rails down nothing runs (R3). -/
@[simp] theorem powered_off (t : State) (h : s.boot.pg = false) : powered s t = s := by simp [powered, h]

/-- A fault leaves the faulting stream halting with cause fault and the code (if it was live). -/
theorem strOf_coreFault_self (l : Nat) (t : StreamId) (code : Nat) (a : Word) :
    strOf (coreFault s l t code a) l t = (strOf s l t).halting .fault code := by
  cases t <;> simp only [coreFault, allStreams, strOf_raiseEvent] <;> split_ifs <;>
    simp [strOf_haltStream_sibling, List.filter]

/-- A fault leaves its siblings halting with cause sibling fault (those that were live). -/
theorem strOf_coreFault_sibling (l : Nat) (t u : StreamId) (code : Nat) (a : Word) (h : u ≠ t) :
    strOf (coreFault s l t code a) l u = (strOf s l u).halting .sibling 0 := by
  cases t <;> cases u <;> first
    | exact absurd rfl h
    | (simp only [coreFault, allStreams, strOf_raiseEvent]; split_ifs <;> simp [strOf_haltStream_sibling, List.filter])

@[simp] theorem coreFault_slices (l : Nat) (t : StreamId) (code : Nat) (a : Word) : (coreFault s l t code a).slices = s.slices := by
  simp only [coreFault, raiseEvent_slices]; split_ifs <;> cases t <;> simp [allStreams, List.filter]
@[simp] theorem coreFault_halves (l : Nat) (t : StreamId) (code : Nat) (a : Word) : (coreFault s l t code a).halves = s.halves := by
  simp only [coreFault, raiseEvent_halves]; split_ifs <;> cases t <;> simp [allStreams, List.filter]
@[simp] theorem coreFault_mem (l : Nat) (t : StreamId) (code : Nat) (a : Word) : (coreFault s l t code a).mem = s.mem := by
  simp only [coreFault, raiseEvent_mem]; split_ifs <;> cases t <;> simp [allStreams, List.filter]
@[simp] theorem coreFault_reqs (l : Nat) (t : StreamId) (code : Nat) (a : Word) : (coreFault s l t code a).reqs = s.reqs := by
  simp only [coreFault, raiseEvent_reqs]; split_ifs <;> cases t <;> simp [allStreams, List.filter]
@[simp] theorem coreFault_engines (l : Nat) (t : StreamId) (code : Nat) (a : Word) : (coreFault s l t code a).engines = s.engines := by
  simp only [coreFault, raiseEvent_engines]; split_ifs <;> cases t <;> simp [allStreams, List.filter]
@[simp] theorem coreFault_mst (l : Nat) (t : StreamId) (code : Nat) (a : Word) : (coreFault s l t code a).mst = s.mst := by
  simp only [coreFault, raiseEvent_mst]; split_ifs <;> cases t <;> simp [allStreams, List.filter]
@[simp] theorem coreFault_rep (l : Nat) (t : StreamId) (code : Nat) (a : Word) : (coreFault s l t code a).rep = s.rep := by
  simp only [coreFault, raiseEvent_rep]; split_ifs <;> cases t <;> simp [allStreams, List.filter]
@[simp] theorem coreFault_audit (l : Nat) (t : StreamId) (code : Nat) (a : Word) : (coreFault s l t code a).audit = s.audit := by
  simp only [coreFault, raiseEvent_audit]; split_ifs <;> cases t <;> simp [allStreams, List.filter]
@[simp] theorem coreFault_fab (l : Nat) (t : StreamId) (code : Nat) (a : Word) : (coreFault s l t code a).fab = s.fab := by
  simp only [coreFault, raiseEvent_fab]; split_ifs <;> cases t <;> simp [allStreams, List.filter]
@[simp] theorem coreFault_remap (l : Nat) (t : StreamId) (code : Nat) (a : Word) : (coreFault s l t code a).remap = s.remap := by
  simp only [coreFault, raiseEvent_remap]; split_ifs <;> cases t <;> simp [allStreams, List.filter]
@[simp] theorem coreFault_train (l : Nat) (t : StreamId) (code : Nat) (a : Word) : (coreFault s l t code a).train = s.train := by
  simp only [coreFault, raiseEvent_train]; split_ifs <;> cases t <;> simp [allStreams, List.filter]
@[simp] theorem coreFault_atn (l : Nat) (t : StreamId) (code : Nat) (a : Word) : (coreFault s l t code a).atn = s.atn := by
  simp only [coreFault, raiseEvent_atn]; split_ifs <;> cases t <;> simp [allStreams, List.filter]
@[simp] theorem coreFault_pow (l : Nat) (t : StreamId) (code : Nat) (a : Word) : (coreFault s l t code a).pow = s.pow := by
  simp only [coreFault, raiseEvent_pow]; split_ifs <;> cases t <;> simp [allStreams, List.filter]
@[simp] theorem coreFault_boot (l : Nat) (t : StreamId) (code : Nat) (a : Word) : (coreFault s l t code a).boot = s.boot := by
  simp only [coreFault, raiseEvent_boot]; split_ifs <;> cases t <;> simp [allStreams, List.filter]
@[simp] theorem coreFault_thermal (l : Nat) (t : StreamId) (code : Nat) (a : Word) : (coreFault s l t code a).thermal = s.thermal := by
  simp only [coreFault, raiseEvent_thermal]; split_ifs <;> cases t <;> simp [allStreams, List.filter]
@[simp] theorem coreFault_sec (l : Nat) (t : StreamId) (code : Nat) (a : Word) : (coreFault s l t code a).sec = s.sec := by
  simp only [coreFault, raiseEvent_sec]; split_ifs <;> cases t <;> simp [allStreams, List.filter]
@[simp] theorem coreFault_nextId (l : Nat) (t : StreamId) (code : Nat) (a : Word) : (coreFault s l t code a).nextId = s.nextId := by
  simp only [coreFault, raiseEvent_nextId]; split_ifs <;> cases t <;> simp [allStreams, List.filter]
@[simp] theorem coreFault_host (l : Nat) (t : StreamId) (code : Nat) (a : Word) : (coreFault s l t code a).host = s.host := by
  simp only [coreFault, raiseEvent_host]; split_ifs <;> cases t <;> simp [allStreams, List.filter]
@[simp] theorem coreFault_free (l : Nat) (t : StreamId) (code : Nat) (a : Word) : (coreFault s l t code a).free = s.free := by
  simp only [coreFault, raiseEvent_free]; split_ifs <;> cases t <;> simp [allStreams, List.filter]
@[simp] theorem coreFault_pending (l : Nat) (t : StreamId) (code : Nat) (a : Word) : (coreFault s l t code a).pending = s.pending := by
  simp only [coreFault, raiseEvent_pending]; split_ifs <;> cases t <;> simp [allStreams, List.filter]

/-! ### Memory -/

@[simp] theorem unlisted_memSetByte (m : Mem) (a x : Nat) (b : Byte) : unlisted (memSetByte m a b) x = unlisted m x := rfl

/-- A byte read after a byte was written. -/
theorem memByte_memSetByte (m : Mem) (a x : Nat) (b : Byte) :
    memByte (memSetByte m a b) x = if x = a then b else memByte m x := by
  by_cases h : x = a
  · subst h
    rw [if_pos rfl]
    exact smGet_smPut_self (unlisted m x) m.cells x b
  · simp only [memByte, unlisted_memSetByte, h, if_false]
    exact smGet_smPut_other _ _ _ _ _ _ h

/-- Writing a byte keeps the canonical form of the memory. -/
theorem memSetByte_wf (m : Mem) (a : Nat) (b : Byte) (h : memWf m = true) : memWf (memSetByte m a b) = true := by
  simp only [memWf, Bool.and_eq_true, List.all_eq_true, decide_eq_true_eq] at *
  refine ⟨smPut_sorted _ _ _ _ h.1, fun p hp => ?_⟩
  rcases smPut_subset _ _ _ _ p hp with ⟨rfl, hv⟩ | hp
  · exact hv
  · exact h.2 p hp

/-- Writing bytes keeps the canonical form of the memory. -/
theorem memWrite_wf (m : Mem) (a : Nat) (d : List Byte) (h : memWf m = true) : memWf (memWrite m a d) = true := by
  induction d generalizing m a with
  | nil => exact h
  | cons b r ih => exact ih (memSetByte m a b) (a + 1) (memSetByte_wf m a b h)

/-- Bytes outside those written read as before. -/
theorem memByte_memWrite_outside (m : Mem) (a x : Nat) (d : List Byte) (h : x < a ∨ a + d.length ≤ x) :
    memByte (memWrite m a d) x = memByte m x := by
  induction d generalizing m a with
  | nil => rfl
  | cons b r ih =>
    simp only [List.length_cons] at h
    simp only [memWrite]
    rw [ih _ _ (by omega), memByte_memSetByte, if_neg (by omega)]

/-- The bytes written read back. -/
theorem memByte_memWrite_inside (m : Mem) (a i : Nat) (d : List Byte) (h : i < d.length) :
    memByte (memWrite m a d) (a + i) = d[i] := by
  induction d generalizing m a i with
  | nil => simp at h
  | cons b r ih =>
    simp only [memWrite]
    cases i with
    | zero =>
      rw [memByte_memWrite_outside _ _ _ _ (by omega), memByte_memSetByte, if_pos (Nat.add_zero a)]; rfl
    | succ j =>
      have := ih (memSetByte m a b) (a + 1) j (by simpa using h)
      rw [show a + (j + 1) = a + 1 + j by omega, this]; rfl

@[simp] theorem coreOf_scrWrite_str (l o : Nat) (d : List Byte) (t : StreamId) : strOf (scrWrite s l o d) l t = strOf s l t := by
  simp only [scrWrite]; split_ifs
  · rfl
  · cases t <;> simp [strOf, CoreSt.str]

/-- A scratchpad write keeps the canonical form of the memory. -/
theorem scrWrite_wf (l o : Nat) (d : List Byte) (h : memWf s.mem = true) : memWf (scrWrite s l o d).mem = true := by
  simp only [scrWrite]; split_ifs <;> exact memWrite_wf _ _ _ h

/-- A scratchpad write changes no byte outside those written. -/
theorem scrWrite_outside (l o x : Nat) (d : List Byte) (h : x < scratchAddr l o ∨ scratchAddr l o + d.length ≤ x) :
    memByte (scrWrite s l o d).mem x = memByte s.mem x := by
  simp only [scrWrite]; split_ifs <;> exact memByte_memWrite_outside _ _ _ _ h

end Sys2Proof.Machine
end

