-- ==== Sys2Proof/Laws/Operands.lean ====
section
/-! SUPPORT. What offering an instruction can do, said once (R87, R88, R124 to R130, R163), and the laws of stream registers. -/

namespace Sys2Proof.Machine

variable (s : State)

/-- An instruction that issues does what its body says, and then its pc and its unit's order move on. -/
theorem issueInsn_of_issues (x : Insn) (unit : Option Nat) (body : State → Stream → Done)
    (h : issues s x unit = true) :
    issueInsn s x unit true body = match body s (strm s x) with
      | .go s1 => issued s s1 x unit (pcAfter (strm s x).pc)
      | .jump s1 pc => issued s s1 x unit pc
      | .stall => s
      | .fault code addr => coreFault s x.core x.stream code (BitVec.ofNat 64 addr) := by
  simp only [issues, Bool.and_eq_true, decide_eq_true_eq, beq_iff_eq, Bool.not_eq_true'] at h
  obtain ⟨⟨⟨⟨⟨⟨⟨⟨_, h1⟩, h2⟩, h3⟩, h8⟩, h9⟩, h4⟩, h5⟩, h6⟩ := h
  have e0 : ¬ (x.tied = true ∧ (strOf s x.core x.stream).st = .halting ∧ (strOf s x.core x.stream).cause = .sibling) := by
    rw [h1]; exact fun h => absurd h.2.1 (by decide)
  have e1 : ¬ ((strOf s x.core x.stream).st ≠ .running ∨ (coreOf s x.core).held = true
      ∨ clockStopped s x.core = true ∨ heldBySlot s x.core = true) := by rw [h1, h2, h3, h8]; decide
  have e5 : ¬ (fetchFails s x.core (strOf s x.core x.stream).pc = true) := by rw [h9]; decide
  have e2 : ¬ ((!roReadable s (strOf s x.core x.stream).pc 8) = true) := by rw [h4]; decide
  have e3 : ¬ ((!predHolds (strOf s x.core x.stream) x) = true) := by rw [h5]; decide
  unfold issueInsn
  simp only [if_neg e0]
  rw [if_neg e1]
  unfold issueRun
  simp only
  rw [if_neg e5, if_neg e2, if_neg (by decide), if_neg e3]
  cases unit with
  | none => rw [if_neg (by simp)]; rfl
  | some n =>
    have h7 : (winner (unitOrder s x.core n) (x.stream :: contenders s x) == some x.stream) = true := h6
    have e4 : ¬ ((!(winner (unitOrder s x.core n) (x.stream :: contenders s x) == some x.stream)) = true) := by
      rw [h7]; decide
    rw [if_neg e4]; rfl

/-- A stream that does not run, and is not halted by a sibling in this very cycle, does nothing when it is offered an
instruction. -/
theorem issueInsn_idle (x : Insn) (unit : Option Nat) (legal : Bool) (body : State → Stream → Done)
    (h : (strm s x).st ≠ .running) (ht : x.tied = false) : issueInsn s x unit legal body = s := by
  have h' : (strOf s x.core x.stream).st ≠ .running := h
  simp [issueInsn, h', ht]

theorem onCore_lt (l : Nat) (t : State) (h : l < numCores) : onCore l t = .next t := by simp [onCore, onlyIf, h]

theorem issues_core {x : Insn} {unit : Option Nat} (h : issues s x unit = true) : x.core < numCores := by
  simp only [issues, Bool.and_eq_true, decide_eq_true_eq] at h
  exact h.1.1.1.1.1.1.1.1

/-! ### What stays when an instruction has issued -/

theorem afterContention_only (l u : Nat) (t : StreamId) :
    ∃ f : CoreSt → CoreSt, (∀ c, f c = { c with orders := (f c).orders }) ∧ afterContention s l u t = modCore s l f
      ∨ afterContention s l u t = s := by
  unfold afterContention
  split_ifs
  · exact ⟨_, Or.inl ⟨fun _ => rfl, rfl⟩⟩
  · exact ⟨id, Or.inr rfl⟩

/-- A unit's order may move; no stream does. -/
theorem strOf_afterContention (l u m : Nat) (t v : StreamId) : strOf (afterContention s l u t) m v = strOf s m v := by
  obtain ⟨f, ⟨hf, h⟩ | h⟩ := afterContention_only s l u t
  · rw [h]
    by_cases hm : m = l
    · subst hm
      simp only [strOf, coreOf_modCore_self]
      rw [hf]; cases v <;> rfl
    · simp only [strOf, coreOf_modCore_other _ _ _ _ hm]
  · rw [h]

/-- The stream that issued stands at the next address, as its instruction left it. -/
theorem strOf_issued_self (s1 : State) (x : Insn) (unit : Option Nat) (pc : Nat) :
    strOf (issued s s1 x unit pc) x.core x.stream = { strOf s1 x.core x.stream with pc := pc } := by
  cases unit with
  | none => simp [issued]
  | some n =>
    simp only [issued]
    split_ifs
    · simp
    · simp [strOf_afterContention]

@[simp] theorem issued_none (s1 : State) (x : Insn) (pc : Nat) :
    issued s s1 x none pc = modStr s1 x.core x.stream (fun z => { z with pc := pc }) := rfl

/-- An instruction that issues answers what its body makes of the state. -/
theorem exec_issue {x : Insn} {u : Option Nat} {legal : Bool} {body} (h : issues s x u = true) (hl : legal = true) :
    onCore x.core (issueInsn s x u legal body) = .next (match body s (strm s x) with
      | .go s1 => issued s s1 x u (pcAfter (strm s x).pc)
      | .jump s1 pc => issued s s1 x u pc
      | .stall => s
      | .fault code addr => coreFault s x.core x.stream code (BitVec.ofNat 64 addr)) := by
  rw [onCore_lt _ _ (issues_core s h), hl, issueInsn_of_issues s x u _ h]

/-- Issuing leaves the other cores alone. -/
theorem coreOf_issued_other (s1 : State) (x : Insn) (u : Option Nat) (pc m : Nat) (h : m ≠ x.core) :
    coreOf (issued s s1 x u pc) m = coreOf s1 m := by
  unfold issued
  cases u with
  | none => simp only [modStr, setStr]; rw [coreOf_modCore_other _ _ _ _ h]
  | some n =>
    simp only
    split_ifs
    · simp only [modStr, setStr]; rw [coreOf_modCore_other _ _ _ _ h]
    · obtain ⟨f, ⟨hf, e⟩ | e⟩ := afterContention_only (modStr s1 x.core x.stream (fun z => { z with pc := pc })) x.core n x.stream
      · rw [e]; rw [coreOf_modCore_other _ _ _ _ h]; simp only [modStr, setStr]; rw [coreOf_modCore_other _ _ _ _ h]
      · rw [e]; simp only [modStr, setStr]; rw [coreOf_modCore_other _ _ _ _ h]

/-- Issuing leaves the other streams of the core alone. -/
theorem strOf_issued_other (s1 : State) (x : Insn) (u : Option Nat) (pc : Nat) (v : StreamId) (h : v ≠ x.stream) :
    strOf (issued s s1 x u pc) x.core v = strOf s1 x.core v := by
  have e : strOf (modStr s1 x.core x.stream (fun z => { z with pc := pc })) x.core v = strOf s1 x.core v := by
    simp only [modStr, setStr, strOf, coreOf_modCore_self]
    cases v <;> cases hs : x.stream <;> simp_all [CoreSt.setStr, CoreSt.str]
  unfold issued
  cases u with
  | none => exact e
  | some n =>
    simp only
    split_ifs
    · exact e
    · rw [strOf_afterContention]; exact e

theorem afterContention_mem (l u : Nat) (t : StreamId) : (afterContention s l u t).mem = s.mem := by
  unfold afterContention; split_ifs <;> rfl
theorem issued_mem (s1 : State) (x : Insn) (u : Option Nat) (pc : Nat) : (issued s s1 x u pc).mem = s1.mem := by
  unfold issued
  cases u with
  | none => rfl
  | some n => simp only; split_ifs <;> simp [afterContention_mem, modStr, setStr, modCore, setCore]
theorem afterContention_cfg (l u : Nat) (t : StreamId) : (afterContention s l u t).cfg = s.cfg := by
  unfold afterContention; split_ifs <;> rfl
theorem issued_cfg (s1 : State) (x : Insn) (u : Option Nat) (pc : Nat) : (issued s s1 x u pc).cfg = s1.cfg := by
  unfold issued
  cases u with
  | none => rfl
  | some n => simp only; split_ifs <;> simp [afterContention_cfg, modStr, setStr, modCore, setCore]
/-- Issuing changes nothing but the cores. -/
theorem issued_all (s1 : State) (x : Insn) (u : Option Nat) (pc : Nat) :
    issued s s1 x u pc = { s1 with cores := (issued s s1 x u pc).cores } := by
  unfold issued afterContention
  cases u with
  | none => rfl
  | some n => simp only; split_ifs <;> rfl

/-! ### Frames compose -/

theorem OnlyCore.refl (l : Nat) : OnlyCore s s l := ⟨rfl, fun _ _ => rfl⟩

theorem OnlyCore.trans {s t r : State} {l : Nat} (h : OnlyCore s t l) (k : OnlyCore t r l) : OnlyCore s r l := by
  refine ⟨?_, fun m hm => (k.2 m hm).trans (h.2 m hm)⟩
  have h1 := h.1; have k1 := k.1
  generalize t.cores = tc at h1
  subst h1
  exact k1

theorem onlyCore_modCore (l : Nat) (f : CoreSt → CoreSt) : OnlyCore s (modCore s l f) l :=
  ⟨rfl, fun _ hm => coreOf_modCore_other s l _ f hm⟩

theorem coreSetStr_setStr (c : CoreSt) (u : StreamId) (x y : Stream) : (c.setStr u x).setStr u y = c.setStr u y := by
  cases u <;> rfl

theorem onlyStream_modStr (l : Nat) (u : StreamId) (f : Stream → Stream) : OnlyStream s (modStr s l u f) l u := by
  refine ⟨?_, ?_⟩
  · unfold modStr; exact onlyCore_modCore s l _
  · rw [strOf_modStr_self]
    unfold modStr; exact coreOf_modCore_self s l _

theorem OnlyStream.trans {s t r : State} {l : Nat} {u : StreamId} (h : OnlyStream s t l u) (k : OnlyStream t r l u) :
    OnlyStream s r l u := by
  refine ⟨h.1.trans k.1, ?_⟩
  rw [k.2, h.2, coreSetStr_setStr]

/-- An instruction without a unit whose body rewrites its stream leaves nothing else changed. -/
theorem issued_modStr (x : Insn) (f : Stream → Stream) (pc : Nat) :
    strm (issued s (modStr s x.core x.stream f) x none pc) x = { f (strm s x) with pc := pc }
      ∧ OnlyStream s (issued s (modStr s x.core x.stream f) x none pc) x.core x.stream := by
  rw [issued_none]
  refine ⟨?_, (onlyStream_modStr s _ _ f).trans (onlyStream_modStr _ _ _ _)⟩
  simp only [strm, strOf_modStr_self]

/-- The same where the body leaves the state as it is. -/
theorem issued_same (x : Insn) (pc : Nat) :
    strm (issued s s x none pc) x = { strm s x with pc := pc }
      ∧ OnlyStream s (issued s s x none pc) x.core x.stream := by
  rw [issued_none]
  exact ⟨by simp only [strm, strOf_modStr_self], onlyStream_modStr _ _ _ _⟩

/-! ### Registers of a stream -/

theorem setReg_zero (x : Stream) (w : Word) : x.setReg 0 w = x := rfl

theorem reg_setReg_self (x : Stream) (r : Nat) (w : Word) (h0 : r ≠ 0) (h : r < 48) : (x.setReg r w).reg r = w := by
  simp [Stream.setReg, Stream.reg, h0, h]

theorem reg_setReg_other (x : Stream) (r q : Nat) (w : Word) (h : r < 48) (hq : q ≠ r) :
    (x.setReg r w).reg q = x.reg q := by
  by_cases h0 : r = 0
  · simp [h0, Stream.setReg]
  · simp only [Stream.setReg, if_neg h0, if_pos h, Stream.reg]
    simp only [smGet_smPut_other _ _ _ _ _ _ hq]

end Sys2Proof.Machine
end

