-- ==== Sys2Proof/Laws/PerInstr.lean ====
section
/-! SUPPORT. Per instruction: an instruction's opcode and function name the instruction, with its operands, at its site. -/

namespace Sys2Proof.Laws.Encoding

/-- Where a command is an instruction whose function its opcode has, the opcode and the function stand for it. -/
def Statement (i : Instr) : Prop :=
  encodable i = true → ∀ f, opcodeOf i = some f → f.2.1.toNat < fnCount f.1 ∧ commandOf (siteOf i) f.1 f.2.1 f.2.2 = some i

theorem of_none (i : Instr) (h : opcodeOf i = none) : Statement i := fun _ f hf => by simp [h] at hf

theorem of_some (i : Instr) (op : BitVec 8) (fn : BitVec 4) (x : Insn) (h : opcodeOf i = some (op, fn, x))
    (hc : fn.toNat < fnCount op → commandOf (siteOf i) op fn x = some i) : Statement i := by
  intro he f hf
  rw [h] at hf
  obtain rfl := Option.some.inj hf
  have : fn.toNat < fnCount op := by simpa [encodable, h] using he
  exact ⟨this, hc this⟩

theorem registerWrite : ∀ x0 x1 x2 x3, Statement (.registerWrite x0 x1 x2 x3) := fun _ _ _ _ => of_none _ rfl
theorem milestone : ∀ x0, Statement (.milestone x0) := fun _ => of_none _ rfl
theorem lateSample : Statement .lateSample := of_none _ rfl
theorem serviceSlot : ∀ x0, Statement (.serviceSlot x0) := fun _ => of_none _ rfl
theorem lateSignal : ∀ x0 x1, Statement (.lateSignal x0 x1) := fun _ _ => of_none _ rfl
theorem clearSignal : ∀ x0 x1, Statement (.clearSignal x0 x1) := fun _ _ => of_none _ rfl
theorem releaseFrame : ∀ x0 x1 x2, Statement (.releaseFrame x0 x1 x2) := fun _ _ _ => of_none _ rfl
theorem stretchLimit : Statement .stretchLimit := of_none _ rfl
theorem msTickEdge : ∀ x0, Statement (.msTickEdge x0) := fun _ => of_none _ rfl
theorem tickMissed : Statement .tickMissed := of_none _ rfl
theorem scheduleAnnounce : ∀ x0 x1, Statement (.scheduleAnnounce x0 x1) := fun _ _ => of_none _ rfl
theorem mstTickModeWrite : ∀ x0, Statement (.mstTickModeWrite x0) := fun _ => of_none _ rfl
theorem mstEnable : Statement .mstEnable := of_none _ rfl
theorem timingRequest : ∀ x0 x1, Statement (.timingRequest x0 x1) := fun _ _ => of_none _ rfl
theorem rootLost : ∀ x0, Statement (.rootLost x0) := fun _ => of_none _ rfl
theorem timeSyncTimer : Statement .timeSyncTimer := of_none _ rfl
theorem timeSyncFrame : ∀ x0 x1 x2 x3 x4, Statement (.timeSyncFrame x0 x1 x2 x3 x4) := fun _ _ _ _ _ => of_none _ rfl
theorem streamStartRequest : ∀ x0 x1, Statement (.streamStartRequest x0 x1) := fun _ _ => of_none _ rfl
theorem streamHaltRequest : ∀ x0 x1, Statement (.streamHaltRequest x0 x1) := fun _ _ => of_none _ rfl
theorem roInvalidate : ∀ x0, Statement (.roInvalidate x0) := fun _ => of_none _ rfl
theorem coreIssueWrite : ∀ x0 x1 x2, Statement (.coreIssueWrite x0 x1 x2) := fun _ _ _ => of_none _ rfl
theorem streamHalted : ∀ x0 x1, Statement (.streamHalted x0 x1) := fun _ _ => of_none _ rfl
theorem dbgDataWrite : ∀ x0 x1, Statement (.dbgDataWrite x0 x1) := fun _ _ => of_none _ rfl
theorem roCacheFill : ∀ x0 x1 x2 x3, Statement (.roCacheFill x0 x1 x2 x3) := fun _ _ _ _ => of_none _ rfl
theorem nop : ∀ x0, Statement (.nop x0) := by
  intro x0
  exact of_some _ _ _ _ rfl (fun _ => rfl)
theorem br : ∀ x0, Statement (.br x0) := by
  intro x0
  exact of_some _ _ _ _ rfl (fun _ => rfl)
theorem jal : ∀ x0, Statement (.jal x0) := by
  intro x0
  exact of_some _ _ _ _ rfl (fun _ => rfl)
theorem branchCompare : ∀ x0 x1, Statement (.branchCompare x0 x1) := by
  intro x0 x1
  exact of_some _ _ _ _ rfl (fun _ => rfl)
theorem jr : ∀ x0, Statement (.jr x0) := by
  intro x0
  exact of_some _ _ _ _ rfl (fun _ => rfl)
theorem jalr : ∀ x0, Statement (.jalr x0) := by
  intro x0
  exact of_some _ _ _ _ rfl (fun _ => rfl)
theorem loop : ∀ x0, Statement (.loop x0) := by
  intro x0
  exact of_some _ _ _ _ rfl (fun _ => rfl)
theorem halt : ∀ x0, Statement (.halt x0) := by
  intro x0
  exact of_some _ _ _ _ rfl (fun _ => rfl)
theorem brk : ∀ x0, Statement (.brk x0) := by
  intro x0
  exact of_some _ _ _ _ rfl (fun _ => rfl)
theorem issue : ∀ x0, Statement (.issue x0) := by
  intro x0
  exact of_some _ _ _ _ rfl (fun _ => rfl)
theorem scalarAlu : ∀ x0 x1, Statement (.scalarAlu x0 x1) := by
  intro x0 x1
  exact of_some _ _ _ _ rfl (fun _ => rfl)
theorem scalarAluImm : ∀ x0 x1, Statement (.scalarAluImm x0 x1) := by
  intro x0 x1
  exact of_some _ _ _ _ rfl (fun _ => rfl)
theorem scalarMulDiv : ∀ x0 x1, Statement (.scalarMulDiv x0 x1) := by
  intro x0 x1
  exact of_some _ _ _ _ rfl (fun _ => rfl)
theorem cmp : ∀ x0 x1, Statement (.cmp x0 x1) := by
  intro x0 x1
  exact of_some _ _ _ _ rfl (fun _ => rfl)
theorem cmpi : ∀ x0 x1, Statement (.cmpi x0 x1) := by
  intro x0 x1
  exact of_some _ _ _ _ rfl (fun _ => rfl)
theorem li : ∀ x0, Statement (.li x0) := by
  intro x0
  exact of_some _ _ _ _ rfl (fun _ => rfl)
theorem lih : ∀ x0, Statement (.lih x0) := by
  intro x0
  exact of_some _ _ _ _ rfl (fun _ => rfl)
theorem scalarFp : ∀ x0 x1, Statement (.scalarFp x0 x1) := by
  intro x0 x1
  exact of_some _ _ _ _ rfl (fun _ => rfl)
theorem fma : ∀ x0, Statement (.fma x0) := by
  intro x0
  exact of_some _ _ _ _ rfl (fun _ => rfl)
theorem fcmp : ∀ x0 x1, Statement (.fcmp x0 x1) := by
  intro x0 x1
  exact of_some _ _ _ _ rfl (fun _ => rfl)
theorem ld : ∀ x0 x1 x2, Statement (.ld x0 x1 x2) := by
  intro x0 x1 x2
  exact of_some _ _ _ _ rfl (fun _ => rfl)
theorem st : ∀ x0 x1 x2, Statement (.st x0 x1 x2) := by
  intro x0 x1 x2
  exact of_some _ _ _ _ rfl (fun _ => rfl)
theorem atom : ∀ x0 x1 x2, Statement (.atom x0 x1 x2) := by
  intro x0 x1 x2
  exact of_some _ _ _ _ rfl (fun _ => rfl)
theorem movd : ∀ x0, Statement (.movd x0) := by
  intro x0
  exact of_some _ _ _ _ rfl (fun _ => rfl)
theorem movr : ∀ x0 x1, Statement (.movr x0 x1) := by
  intro x0 x1
  exact of_some _ _ _ _ rfl (fun _ => rfl)
theorem movementRequestIssue : ∀ x0 x1 x2 x3, Statement (.movementRequestIssue x0 x1 x2 x3) := fun _ _ _ _ => of_none _ rfl
theorem movementRequestDone : ∀ x0 x1 x2, Statement (.movementRequestDone x0 x1 x2) := fun _ _ _ => of_none _ rfl
theorem waitMs : ∀ x0, Statement (.waitMs x0) := by
  intro x0
  exact of_some _ _ _ _ rfl (fun _ => rfl)
theorem ctrInc : ∀ x0, Statement (.ctrInc x0) := by
  intro x0
  exact of_some _ _ _ _ rfl (fun _ => rfl)
theorem ctrWait : ∀ x0, Statement (.ctrWait x0) := by
  intro x0
  exact of_some _ _ _ _ rfl (fun _ => rfl)
theorem ctrWaitR : ∀ x0, Statement (.ctrWaitR x0) := by
  intro x0
  exact of_some _ _ _ _ rfl (fun _ => rfl)
theorem layerBegin : ∀ x0, Statement (.layerBegin x0) := by
  intro x0
  exact of_some _ _ _ _ rfl (fun _ => rfl)
theorem layerEnd : ∀ x0, Statement (.layerEnd x0) := by
  intro x0
  exact of_some _ _ _ _ rfl (fun _ => rfl)
theorem rdms : ∀ x0 x1, Statement (.rdms x0 x1) := by
  intro x0 x1
  exact of_some _ _ _ _ rfl (fun _ => rfl)
theorem pfCch : ∀ x0 x1, Statement (.pfCch x0 x1) := by
  intro x0 x1
  exact of_some _ _ _ _ rfl (fun _ => rfl)
theorem pfVrg : ∀ x0 x1, Statement (.pfVrg x0 x1) := by
  intro x0 x1
  exact of_some _ _ _ _ rfl (fun _ => rfl)
theorem flush : ∀ x0, Statement (.flush x0) := by
  intro x0
  exact of_some _ _ _ _ rfl (fun _ => rfl)
theorem flushInv : ∀ x0, Statement (.flushInv x0) := by
  intro x0
  exact of_some _ _ _ _ rfl (fun _ => rfl)
theorem invCch : ∀ x0, Statement (.invCch x0) := by
  intro x0
  exact of_some _ _ _ _ rfl (fun _ => rfl)
theorem dead : ∀ x0, Statement (.dead x0) := by
  intro x0
  exact of_some _ _ _ _ rfl (fun _ => rfl)
theorem pin : ∀ x0, Statement (.pin x0) := by
  intro x0
  exact of_some _ _ _ _ rfl (fun _ => rfl)
theorem unpin : ∀ x0, Statement (.unpin x0) := by
  intro x0
  exact of_some _ _ _ _ rfl (fun _ => rfl)
theorem roinv : ∀ x0, Statement (.roinv x0) := by
  intro x0
  exact of_some _ _ _ _ rfl (fun _ => rfl)
theorem maintenanceComplete : ∀ x0 x1, Statement (.maintenanceComplete x0 x1) := fun _ _ => of_none _ rfl
theorem mma : ∀ x0 x1, Statement (.mma x0 x1) := by
  intro x0 x1
  exact of_some _ _ _ _ rfl (fun _ => rfl)
theorem mmaComplete : ∀ x0 x1, Statement (.mmaComplete x0 x1) := fun _ _ => of_none _ rfl
theorem accZero : ∀ x0, Statement (.accZero x0) := by
  intro x0
  exact of_some _ _ _ _ rfl (fun _ => rfl)
theorem accLdF32 : ∀ x0, Statement (.accLdF32 x0) := by
  intro x0
  exact of_some _ _ _ _ rfl (fun _ => rfl)
theorem accLdF32s : ∀ x0, Statement (.accLdF32s x0) := by
  intro x0
  exact of_some _ _ _ _ rfl (fun _ => rfl)
theorem drainF32 : ∀ x0, Statement (.drainF32 x0) := by
  intro x0
  exact of_some _ _ _ _ rfl (fun _ => rfl)
theorem drainF32s : ∀ x0, Statement (.drainF32s x0) := by
  intro x0
  exact of_some _ _ _ _ rfl (fun _ => rfl)
theorem drainBf16 : ∀ x0, Statement (.drainBf16 x0) := by
  intro x0
  exact of_some _ _ _ _ rfl (fun _ => rfl)
theorem drainBf16Sr : ∀ x0, Statement (.drainBf16Sr x0) := by
  intro x0
  exact of_some _ _ _ _ rfl (fun _ => rfl)
theorem rdacc : ∀ x0, Statement (.rdacc x0) := by
  intro x0
  exact of_some _ _ _ _ rfl (fun _ => rfl)
theorem mxuStatClear : ∀ x0, Statement (.mxuStatClear x0) := fun _ => of_none _ rfl
theorem cvt : ∀ x0, Statement (.cvt x0) := by
  intro x0
  exact of_some _ _ _ _ rfl (fun _ => rfl)
theorem cvtSr : ∀ x0, Statement (.cvtSr x0) := by
  intro x0
  exact of_some _ _ _ _ rfl (fun _ => rfl)
theorem cvtSat : ∀ x0, Statement (.cvtSat x0) := by
  intro x0
  exact of_some _ _ _ _ rfl (fun _ => rfl)
theorem cvtSrSat : ∀ x0, Statement (.cvtSrSat x0) := by
  intro x0
  exact of_some _ _ _ _ rfl (fun _ => rfl)
theorem scale : ∀ x0, Statement (.scale x0) := by
  intro x0
  exact of_some _ _ _ _ rfl (fun _ => rfl)
theorem rndK : ∀ x0, Statement (.rndK x0) := by
  intro x0
  exact of_some _ _ _ _ rfl (fun _ => rfl)
theorem rndF : ∀ x0, Statement (.rndF x0) := by
  intro x0
  exact of_some _ _ _ _ rfl (fun _ => rfl)
theorem provisionalWaitTimeout : ∀ x0, Statement (.provisionalWaitTimeout x0) := fun _ => of_none _ rfl
theorem logEnable : Statement .logEnable := of_none _ rfl
theorem logTailWrite : ∀ x0, Statement (.logTailWrite x0) := fun _ => of_none _ rfl
theorem auditClear : Statement .auditClear := of_none _ rfl
theorem vectorArith : ∀ x0 x1 x2, Statement (.vectorArith x0 x1 x2) := by
  intro x0 x1 x2
  exact of_some _ _ _ _ rfl (fun _ => rfl)
theorem vfma : ∀ x0 x1, Statement (.vfma x0 x1) := by
  intro x0 x1
  exact of_some _ _ _ _ rfl (fun _ => rfl)
theorem vectorUnary : ∀ x0 x1, Statement (.vectorUnary x0 x1) := by
  intro x0 x1
  exact of_some _ _ _ _ rfl (fun _ => rfl)
theorem activation : ∀ x0 x1, Statement (.activation x0 x1) := by
  intro x0 x1
  exact of_some _ _ _ _ rfl (fun _ => rfl)
theorem activationBackward : ∀ x0 x1, Statement (.activationBackward x0 x1) := by
  intro x0 x1
  exact of_some _ _ _ _ rfl (fun _ => rfl)
theorem rowReduction : ∀ x0 x1, Statement (.rowReduction x0 x1) := by
  intro x0 x1
  exact of_some _ _ _ _ rfl (fun _ => rfl)
theorem scan : ∀ x0 x1, Statement (.scan x0 x1) := by
  intro x0 x1
  exact of_some _ _ _ _ rfl (fun _ => rfl)
theorem smaxF : ∀ x0, Statement (.smaxF x0) := by
  intro x0
  exact of_some _ _ _ _ rfl (fun _ => rfl)
theorem smaxB : ∀ x0, Statement (.smaxB x0) := by
  intro x0
  exact of_some _ _ _ _ rfl (fun _ => rfl)
theorem lnF : ∀ x0 x1, Statement (.lnF x0 x1) := by
  intro x0 x1
  cases x0 <;> exact of_some _ _ _ _ rfl (fun _ => rfl)
theorem lnB : ∀ x0 x1, Statement (.lnB x0 x1) := by
  intro x0 x1
  cases x0 <;> exact of_some _ _ _ _ rfl (fun _ => rfl)
theorem lnBsum : ∀ x0 x1, Statement (.lnBsum x0 x1) := by
  intro x0 x1
  cases x0 <;> exact of_some _ _ _ _ rfl (fun _ => rfl)
theorem vdrop : ∀ x0, Statement (.vdrop x0) := by
  intro x0
  exact of_some _ _ _ _ rfl (fun _ => rfl)
theorem rdvf : ∀ x0, Statement (.rdvf x0) := by
  intro x0
  exact of_some _ _ _ _ rfl (fun _ => rfl)
theorem vecStatClear : ∀ x0, Statement (.vecStatClear x0) := fun _ => of_none _ rfl
theorem vecFlagsClear : ∀ x0 x1 x2, Statement (.vecFlagsClear x0 x1 x2) := fun _ _ _ => of_none _ rfl
theorem cchFill : ∀ x0 x1, Statement (.cchFill x0 x1) := fun _ _ => of_none _ rfl
theorem vergeRequest : ∀ x0 x1, Statement (.vergeRequest x0 x1) := fun _ _ => of_none _ rfl
theorem vergeFill : ∀ x0 x1 x2 x3, Statement (.vergeFill x0 x1 x2 x3) := fun _ _ _ _ => of_none _ rfl
theorem windowWaysWrite : ∀ x0 x1, Statement (.windowWaysWrite x0 x1) := fun _ _ => of_none _ rfl
theorem windowChangeDone : ∀ x0, Statement (.windowChangeDone x0) := fun _ => of_none _ rfl
theorem cchStatClear : Statement .cchStatClear := of_none _ rfl
theorem vrgStatClear : Statement .vrgStatClear := of_none _ rfl
theorem coreStallClear : ∀ x0, Statement (.coreStallClear x0) := fun _ => of_none _ rfl
theorem kcmd : ∀ x0, Statement (.kcmd x0) := by
  intro x0
  exact of_some _ _ _ _ rfl (fun _ => rfl)
theorem shardOpen : ∀ x0 x1, Statement (.shardOpen x0 x1) := fun _ _ => of_none _ rfl
theorem shardClose : ∀ x0 x1, Statement (.shardClose x0 x1) := fun _ _ => of_none _ rfl
theorem lease : ∀ x0 x1, Statement (.lease x0 x1) := fun _ _ => of_none _ rfl
theorem kerbRelease : ∀ x0 x1, Statement (.kerbRelease x0 x1) := fun _ _ => of_none _ rfl
theorem gradClose : ∀ x0 x1, Statement (.gradClose x0 x1) := fun _ _ => of_none _ rfl
theorem update : ∀ x0 x1, Statement (.update x0 x1) := fun _ _ => of_none _ rfl
theorem regen : ∀ x0 x1, Statement (.regen x0 x1) := fun _ _ => of_none _ rfl
theorem kerbUnpark : ∀ x0 x1, Statement (.kerbUnpark x0 x1) := fun _ _ => of_none _ rfl
theorem kerbCommandComplete : ∀ x0 x1, Statement (.kerbCommandComplete x0 x1) := fun _ _ => of_none _ rfl
theorem keeperPush : ∀ x0, Statement (.keeperPush x0) := fun _ => of_none _ rfl
theorem contributionBlock : ∀ x0, Statement (.contributionBlock x0) := fun _ => of_none _ rfl
theorem krbStatClear : Statement .krbStatClear := of_none _ rfl
theorem stepCtrlLoad : Statement .stepCtrlLoad := of_none _ rfl
theorem stepRun : Statement .stepRun := of_none _ rfl
theorem stepPause : Statement .stepPause := of_none _ rfl
theorem stepStop : Statement .stepStop := of_none _ rfl
theorem phaseEnable : Statement .phaseEnable := of_none _ rfl
theorem epochRequest : ∀ x0 x1, Statement (.epochRequest x0 x1) := fun _ _ => of_none _ rfl
theorem epochDrained : Statement .epochDrained := of_none _ rfl
theorem epochCommitWrite : ∀ x0, Statement (.epochCommitWrite x0) := fun _ => of_none _ rfl
theorem atnRegister : ∀ x0, Statement (.atnRegister x0) := fun _ => of_none _ rfl
theorem atnUnregister : ∀ x0, Statement (.atnUnregister x0) := fun _ => of_none _ rfl
theorem atnRead : ∀ x0, Statement (.atnRead x0) := fun _ => of_none _ rfl
theorem atnWrite : ∀ x0, Statement (.atnWrite x0) := fun _ => of_none _ rfl
theorem atnRelease : ∀ x0, Statement (.atnRelease x0) := fun _ => of_none _ rfl
theorem atnCommit : ∀ x0, Statement (.atnCommit x0) := fun _ => of_none _ rfl
theorem atnResync : ∀ x0, Statement (.atnResync x0) := fun _ => of_none _ rfl
theorem atnPrefetch : ∀ x0, Statement (.atnPrefetch x0) := fun _ => of_none _ rfl
theorem atnSpill : ∀ x0, Statement (.atnSpill x0) := fun _ => of_none _ rfl
theorem atnRingPoll : ∀ x0, Statement (.atnRingPoll x0) := fun _ => of_none _ rfl
theorem atnUnpark : ∀ x0, Statement (.atnUnpark x0) := fun _ => of_none _ rfl
theorem pageTransferDone : ∀ x0 x1 x2, Statement (.pageTransferDone x0 x1 x2) := fun _ _ _ => of_none _ rfl
theorem atnEnable : ∀ x0, Statement (.atnEnable x0) := fun _ => of_none _ rfl
theorem atnRingEnable : ∀ x0, Statement (.atnRingEnable x0) := fun _ => of_none _ rfl
theorem atnStatClear : Statement .atnStatClear := of_none _ rfl
theorem codeword : ∀ x0 x1 x2 x3 x4 x5, Statement (.codeword x0 x1 x2 x3 x4 x5) := fun _ _ _ _ _ _ => of_none _ rfl
theorem readFrame : ∀ x0 x1, Statement (.readFrame x0 x1) := fun _ _ => of_none _ rfl
theorem writeFrame : ∀ x0 x1 x2, Statement (.writeFrame x0 x1 x2) := fun _ _ _ => of_none _ rfl
theorem kerbFrame : ∀ x0 x1 x2, Statement (.kerbFrame x0 x1 x2) := fun _ _ _ => of_none _ rfl
theorem responseFrame : ∀ x0 x1 x2, Statement (.responseFrame x0 x1 x2) := fun _ _ _ => of_none _ rfl
theorem collectiveFrame : ∀ x0 x1 x2 x3 x4, Statement (.collectiveFrame x0 x1 x2 x3 x4) := fun _ _ _ _ _ => of_none _ rfl
theorem collectiveAck : ∀ x0 x1 x2, Statement (.collectiveAck x0 x1 x2) := fun _ _ _ => of_none _ rfl
theorem creditFrame : ∀ x0 x1 x2 x3, Statement (.creditFrame x0 x1 x2 x3) := fun _ _ _ _ => of_none _ rfl
theorem bringupFrame : ∀ x0 x1, Statement (.bringupFrame x0 x1) := fun _ _ => of_none _ rfl
theorem resendMarker : ∀ x0 x1 x2, Statement (.resendMarker x0 x1 x2) := fun _ _ _ => of_none _ rfl
theorem nakFrame : ∀ x0 x1 x2, Statement (.nakFrame x0 x1 x2) := fun _ _ _ => of_none _ rfl
theorem requestTimeout : ∀ x0, Statement (.requestTimeout x0) := fun _ => of_none _ rfl
theorem portEnable : ∀ x0, Statement (.portEnable x0) := fun _ => of_none _ rfl
theorem portDisable : ∀ x0, Statement (.portDisable x0) := fun _ => of_none _ rfl
theorem portRetrain : ∀ x0, Statement (.portRetrain x0) := fun _ => of_none _ rfl
theorem partnerDetected : ∀ x0 x1, Statement (.partnerDetected x0 x1) := fun _ _ => of_none _ rfl
theorem detectTimeout : ∀ x0, Statement (.detectTimeout x0) := fun _ => of_none _ rfl
theorem trainDone : ∀ x0 x1, Statement (.trainDone x0 x1) := fun _ _ => of_none _ rfl
theorem alignLock : ∀ x0, Statement (.alignLock x0) := fun _ => of_none _ rfl
theorem alignTimeout : ∀ x0, Statement (.alignTimeout x0) := fun _ => of_none _ rfl
theorem exchange : ∀ x0 x1 x2 x3, Statement (.exchange x0 x1 x2 x3) := fun _ _ _ _ => of_none _ rfl
theorem retrainDone : ∀ x0 x1 x2, Statement (.retrainDone x0 x1 x2) := fun _ _ _ => of_none _ rfl
theorem retrainTimeout : ∀ x0, Statement (.retrainTimeout x0) := fun _ => of_none _ rfl
theorem fabricStart : Statement .fabricStart := of_none _ rfl
theorem bringupPortsSettled : Statement .bringupPortsSettled := of_none _ rfl
theorem originSettled : Statement .originSettled := of_none _ rfl
theorem bringupComplete : ∀ x0 x1 x2, Statement (.bringupComplete x0 x1 x2) := fun _ _ _ => of_none _ rfl
theorem collectiveRecord : ∀ x0, Statement (.collectiveRecord x0) := fun _ => of_none _ rfl
theorem collectiveStepStart : ∀ x0, Statement (.collectiveStepStart x0) := fun _ => of_none _ rfl
theorem collectiveTimeout : ∀ x0, Statement (.collectiveTimeout x0) := fun _ => of_none _ rfl
theorem cwyStatClear : Statement .cwyStatClear := of_none _ rfl
theorem hostReset : ∀ x0, Statement (.hostReset x0) := fun _ => of_none _ rfl
theorem dataLinkDown : Statement .dataLinkDown := of_none _ rfl
theorem dataLinkUp : ∀ x0 x1 x2, Statement (.dataLinkUp x0 x1 x2) := fun _ _ _ => of_none _ rfl
theorem linkRetrainExpiry : Statement .linkRetrainExpiry := of_none _ rfl
theorem busMasterDisable : Statement .busMasterDisable := of_none _ rfl
theorem busMasterEnable : Statement .busMasterEnable := of_none _ rfl
theorem bar2Write : ∀ x0 x1 x2, Statement (.bar2Write x0 x1 x2) := fun _ _ _ => of_none _ rfl
theorem bar2Read : ∀ x0 x1, Statement (.bar2Read x0 x1) := fun _ _ => of_none _ rfl
theorem commandDoorbell : ∀ x0 x1, Statement (.commandDoorbell x0 x1) := fun _ _ => of_none _ rfl
theorem completionDoorbell : ∀ x0 x1, Statement (.completionDoorbell x0 x1) := fun _ _ => of_none _ rfl
theorem create : Statement .create := of_none _ rfl
theorem destroy : Statement .destroy := of_none _ rfl
theorem channelFreed : ∀ x0, Statement (.channelFreed x0) := fun _ => of_none _ rfl
theorem resume : Statement .resume := of_none _ rfl
theorem adopt : Statement .adopt := of_none _ rfl
theorem confirm : Statement .confirm := of_none _ rfl
theorem entryFetch : ∀ x0 x1, Statement (.entryFetch x0 x1) := fun _ _ => of_none _ rfl
theorem entryReread : ∀ x0 x1, Statement (.entryReread x0 x1) := fun _ _ => of_none _ rfl
theorem cmdNop : ∀ x0 x1, Statement (.cmdNop x0 x1) := fun _ _ => of_none _ rfl
theorem copy : ∀ x0 x1 x2, Statement (.copy x0 x1 x2) := fun _ _ _ => of_none _ rfl
theorem writeInline : ∀ x0 x1, Statement (.writeInline x0 x1) := fun _ _ => of_none _ rfl
theorem start : ∀ x0 x1, Statement (.start x0 x1) := fun _ _ => of_none _ rfl
theorem cmdHalt : ∀ x0 x1, Statement (.cmdHalt x0 x1) := fun _ _ => of_none _ rfl
theorem cmdKerb : ∀ x0 x1, Statement (.cmdKerb x0 x1) := fun _ _ => of_none _ rfl
theorem regionReg : ∀ x0 x1, Statement (.regionReg x0 x1) := fun _ _ => of_none _ rfl
theorem regionDereg : ∀ x0 x1, Statement (.regionDereg x0 x1) := fun _ _ => of_none _ rfl
theorem placeReg : ∀ x0 x1, Statement (.placeReg x0 x1) := fun _ _ => of_none _ rfl
theorem placeDereg : ∀ x0 x1, Statement (.placeDereg x0 x1) := fun _ _ => of_none _ rfl
theorem stepLoad : ∀ x0 x1, Statement (.stepLoad x0 x1) := fun _ _ => of_none _ rfl
theorem fillerUnit : ∀ x0 x1, Statement (.fillerUnit x0 x1) := fun _ _ => of_none _ rfl
theorem entryComplete : ∀ x0 x1 x2, Statement (.entryComplete x0 x1 x2) := fun _ _ _ => of_none _ rfl
theorem holdExpiry : Statement .holdExpiry := of_none _ rfl
theorem keepEnter : Statement .keepEnter := of_none _ rfl
theorem keepRelease : Statement .keepRelease := of_none _ rfl
theorem keepReclaim : ∀ x0, Statement (.keepReclaim x0) := fun _ => of_none _ rfl
theorem hstStatClear : Statement .hstStatClear := of_none _ rfl
theorem waybillReread : ∀ x0 x1, Statement (.waybillReread x0 x1) := fun _ _ => of_none _ rfl
theorem repairDone : ∀ x0, Statement (.repairDone x0) := fun _ => of_none _ rfl
theorem replicaRefetch : ∀ x0 x1, Statement (.replicaRefetch x0 x1) := fun _ _ => of_none _ rfl
theorem coreRetire : ∀ x0 x1, Statement (.coreRetire x0 x1) := fun _ _ => of_none _ rfl
theorem repLogEnable : Statement .repLogEnable := of_none _ rfl
theorem repStatClear : Statement .repStatClear := of_none _ rfl
theorem powerLoss : Statement .powerLoss := of_none _ rfl
theorem powerGood : ∀ x0, Statement (.powerGood x0) := fun _ => of_none _ rfl
theorem bootStepDone : ∀ x0, Statement (.bootStepDone x0) := fun _ => of_none _ rfl
theorem bootStepTimeout : ∀ x0, Statement (.bootStepTimeout x0) := fun _ => of_none _ rfl
theorem bootBackoffExpiry : Statement .bootBackoffExpiry := of_none _ rfl
theorem pwrResetDevice : ∀ x0, Statement (.pwrResetDevice x0) := fun _ => of_none _ rfl
theorem pwrResetRoadbed : ∀ x0, Statement (.pwrResetRoadbed x0) := fun _ => of_none _ rfl
theorem culvertHold : ∀ x0, Statement (.culvertHold x0) := fun _ => of_none _ rfl
theorem culvertRelease : Statement .culvertRelease := of_none _ rfl
theorem roadbedAuthDone : ∀ x0, Statement (.roadbedAuthDone x0) := fun _ => of_none _ rfl
theorem sysReset : Statement .sysReset := of_none _ rfl
theorem sysResetRelease : Statement .sysResetRelease := of_none _ rfl
theorem watchdogKick : Statement .watchdogKick := of_none _ rfl
theorem watchdogExpiry : Statement .watchdogExpiry := of_none _ rfl
theorem vrAlertAssert : Statement .vrAlertAssert := of_none _ rfl
theorem vrAlertRelease : Statement .vrAlertRelease := of_none _ rfl
theorem lowestStateEnd : Statement .lowestStateEnd := of_none _ rfl
theorem railRiseDone : ∀ x0, Statement (.railRiseDone x0) := fun _ => of_none _ rfl
theorem clusterPllUnlock : ∀ x0, Statement (.clusterPllUnlock x0) := fun _ => of_none _ rfl
theorem clusterPllRelock : ∀ x0, Statement (.clusterPllRelock x0) := fun _ => of_none _ rfl
theorem roadbedPllUnlock : Statement .roadbedPllUnlock := of_none _ rfl
theorem pwrStatClear : Statement .pwrStatClear := of_none _ rfl
theorem thermalSample : ∀ x0 x1, Statement (.thermalSample x0 x1) := fun _ _ => of_none _ rfl
theorem throttleEnd : Statement .throttleEnd := of_none _ rfl
theorem bandPendingTimeout : Statement .bandPendingTimeout := of_none _ rfl
theorem restartCountExpiry : Statement .restartCountExpiry := of_none _ rfl
theorem thmStatClear : Statement .thmStatClear := of_none _ rfl
theorem fwInstall : Statement .fwInstall := of_none _ rfl
theorem fwInstallDone : ∀ x0, Statement (.fwInstallDone x0) := fun _ => of_none _ rfl
theorem commitSvn : Statement .commitSvn := of_none _ rfl
theorem debugUnlock : ∀ x0, Statement (.debugUnlock x0) := fun _ => of_none _ rfl
theorem getVersion : ∀ x0, Statement (.getVersion x0) := fun _ => of_none _ rfl
theorem getCapabilities : ∀ x0, Statement (.getCapabilities x0) := fun _ => of_none _ rfl
theorem negotiateAlgorithms : ∀ x0 x1 x2 x3, Statement (.negotiateAlgorithms x0 x1 x2 x3) := fun _ _ _ _ => of_none _ rfl
theorem getDigests : ∀ x0, Statement (.getDigests x0) := fun _ => of_none _ rfl
theorem getCertificate : ∀ x0 x1 x2 x3, Statement (.getCertificate x0 x1 x2 x3) := fun _ _ _ _ => of_none _ rfl
theorem challenge : ∀ x0 x1 x2, Statement (.challenge x0 x1 x2) := fun _ _ _ => of_none _ rfl
theorem getMeasurements : ∀ x0 x1 x2 x3, Statement (.getMeasurements x0 x1 x2 x3) := fun _ _ _ _ => of_none _ rfl
theorem doeAbort : Statement .doeAbort := of_none _ rfl
theorem icuClaim : ∀ x0, Statement (.icuClaim x0) := fun _ => of_none _ rfl
theorem icuEoi : ∀ x0 x1, Statement (.icuEoi x0 x1) := fun _ _ => of_none _ rfl
theorem icuSwi : ∀ x0, Statement (.icuSwi x0) := fun _ => of_none _ rfl
theorem icuSrcWrite : ∀ x0 x1, Statement (.icuSrcWrite x0 x1) := fun _ _ => of_none _ rfl
theorem icuCountClear : ∀ x0, Statement (.icuCountClear x0) := fun _ => of_none _ rfl
theorem resourceClaim : ∀ x0 x1, Statement (.resourceClaim x0 x1) := fun _ _ => of_none _ rfl
theorem resourceRelease : ∀ x0 x1, Statement (.resourceRelease x0 x1) := fun _ _ => of_none _ rfl
theorem monId : ∀ x0, Statement (.monId x0) := fun _ => of_none _ rfl
theorem monRd : ∀ x0 x1, Statement (.monRd x0 x1) := fun _ _ => of_none _ rfl
theorem monWr : ∀ x0 x1 x2, Statement (.monWr x0 x1 x2) := fun _ _ _ => of_none _ rfl
theorem monSt : ∀ x0, Statement (.monSt x0) := fun _ => of_none _ rfl
theorem monTemp : ∀ x0, Statement (.monTemp x0) := fun _ => of_none _ rfl
theorem monToken : ∀ x0, Statement (.monToken x0) := fun _ => of_none _ rfl
theorem monBaud : ∀ x0 x1, Statement (.monBaud x0 x1) := fun _ _ => of_none _ rfl
theorem monHalt : ∀ x0 x1 x2, Statement (.monHalt x0 x1 x2) := fun _ _ _ => of_none _ rfl
theorem monResetRoadbed : ∀ x0, Statement (.monResetRoadbed x0) := fun _ => of_none _ rfl
theorem monResetDevice : ∀ x0, Statement (.monResetDevice x0) := fun _ => of_none _ rfl
theorem monStatClear : Statement .monStatClear := of_none _ rfl
theorem telExpEnable : Statement .telExpEnable := of_none _ rfl
theorem smbusIdentRead : Statement .smbusIdentRead := of_none _ rfl
theorem smbusBootRead : Statement .smbusBootRead := of_none _ rfl
theorem smbusThermalRead : Statement .smbusThermalRead := of_none _ rfl
theorem smbusPowerRead : Statement .smbusPowerRead := of_none _ rfl
theorem vectorInstructionComplete : ∀ x0 x1, Statement (.vectorInstructionComplete x0 x1) := fun _ _ => of_none _ rfl
theorem drainComplete : ∀ x0 x1, Statement (.drainComplete x0 x1) := fun _ _ => of_none _ rfl
theorem illegalInstruction : ∀ x0 x1 x2, Statement (.illegalInstruction x0 x1 x2) := fun _ _ _ => of_none _ rfl
theorem keepReleaseComplete : Statement .keepReleaseComplete := of_none _ rfl
theorem collectiveQueueEnable : ∀ x0, Statement (.collectiveQueueEnable x0) := fun _ => of_none _ rfl
theorem configurationWrite : ∀ x0 x1, Statement (.configurationWrite x0 x1) := fun _ _ => of_none _ rfl
theorem unsupportedRequest : ∀ x0, Statement (.unsupportedRequest x0) := fun _ => of_none _ rfl
theorem msixHoldoffExpiry : ∀ x0, Statement (.msixHoldoffExpiry x0) := fun _ => of_none _ rfl
theorem doeDiscovery : ∀ x0, Statement (.doeDiscovery x0) := fun _ => of_none _ rfl
theorem spdmUnsupportedRequest : ∀ x0 x1, Statement (.spdmUnsupportedRequest x0 x1) := fun _ _ => of_none _ rfl
theorem monitorUnknownCommand : ∀ x0, Statement (.monitorUnknownCommand x0) := fun _ => of_none _ rfl
theorem codewordLockLoss : ∀ x0, Statement (.codewordLockLoss x0) := fun _ => of_none _ rfl
theorem perstRelease : Statement .perstRelease := of_none _ rfl
theorem boundaryScanClock : ∀ x0 x1, Statement (.boundaryScanClock x0 x1) := fun _ _ => of_none _ rfl

end Sys2Proof.Laws.Encoding
end

