-- ==== Sys2Proof/Laws/Slices.lean ====
section
/-! SUPPORT. What an access to memory through the slices can do, said once (R264 to R277, R309, R457 to R465): it changes registers,
slices, memory, requests and their names, engines, the repair unit's records, the host side, free values and what is sent, and leaves
everything else. -/

namespace Sys2Proof.Laws
open Sys2Proof.Machine

variable (s : State)

/-- What no access to memory through the slices changes: everything but these eleven fields. -/
def aside (s : State) : State :=
  { s with cfg := [], slices := [], mem := {}, reqs := [], engines := [], rep := {}, nextId := 0, pcie := {}, host := {}
           free := 0, out := [] }

@[simp] theorem aside_nextId (x : Nat) : aside { s with nextId := x } = aside s := by rfl
@[simp] theorem aside_cfg (x : SMap Word) : aside { s with cfg := x } = aside s := by rfl
@[simp] theorem aside_slices (x : SMap Slice) : aside { s with slices := x } = aside s := by rfl
@[simp] theorem aside_mem (x : Mem) : aside { s with mem := x } = aside s := by rfl
@[simp] theorem aside_reqs (x : List Req) : aside { s with reqs := x } = aside s := by rfl
@[simp] theorem aside_engines (x : SMap Engine) : aside { s with engines := x } = aside s := by rfl
@[simp] theorem aside_rep (x : Rep) : aside { s with rep := x } = aside s := by rfl
@[simp] theorem aside_pcie (x : Pcie) : aside { s with pcie := x } = aside s := by rfl
@[simp] theorem aside_host (x : HostSt) : aside { s with host := x } = aside s := by rfl
@[simp] theorem aside_free (x : Nat) : aside { s with free := x } = aside s := by rfl
@[simp] theorem aside_out (x : List Output) : aside { s with out := x } = aside s := by rfl

@[simp] theorem aside_foldl {α : Type} (f : State → α → State) (h : ∀ s x, aside (f s x) = aside s) (l : List α) (s : State) :
    aside (l.foldl f s) = aside s := by
  induction l generalizing s with
  | nil => rfl
  | cons x r ih => simp [ih, h]

@[simp] theorem modMem_aside (f : Mem → Mem) : aside (modMem s f) = aside s := by simp [modMem]

@[simp] theorem breakSector_aside (sec : Nat) : aside (breakSector s sec) = aside s := by simp [breakSector]

@[simp] theorem dramWrite_aside (sec : Nat) (d : List Byte) : aside (dramWrite s sec d) = aside s := by simp [dramWrite]

@[simp] theorem dramStore_aside (sec : Nat) (d : List Byte) : aside (dramStore s sec d) = aside s := by simp [dramStore, apply_ite aside]

@[simp] theorem setSlice_aside (i : Nat) (x : Slice) : aside (setSlice s i x) = aside s := by simp [setSlice]

@[simp] theorem putLine_aside (v : VLine) : aside (putLine s v) = aside s := by simp [putLine]

@[simp] theorem invSector_aside (sec : Nat) : aside (invSector s sec) = aside s := by
  unfold invSector
  split <;> simp

@[simp] theorem wr_aside (off : Nat) (w : Word) : aside (wr s off w) = aside s := by simp [wr]

@[simp] theorem count_aside (off : Nat) (f : Fld) (n : Nat) : aside (count s off f n) = aside s := by simp [count]

@[simp] theorem setFlawV_aside (sec : Nat) (f : Flaw) : aside (setFlawV s sec f) = aside s := by
  unfold setFlawV
  split <;> simp

@[simp] theorem writeBackOk_aside (sec : Nat) (d : List Byte) : aside (writeBackOk s sec d).2 = aside s := by
  unfold writeBackOk
  dsimp only
  (repeat' split) <;> simp

@[simp] theorem cleanSector_aside (sec : Nat) : aside (cleanSector s sec) = aside s := by
  unfold cleanSector
  split
  · rename_i x hx
    split
    · have h := writeBackOk_aside s sec x.data
      generalize writeBackOk s sec x.data = w at h ⊢
      obtain ⟨ok, s1⟩ := w
      simp only at h ⊢
      (repeat' split) <;> simp [h]
    · rfl
  · rfl

@[simp] theorem keeperWriteSector_aside (a : Nat) (d : List Byte) : aside (keeperWriteSector s a d) = aside s := by
  unfold keeperWriteSector
  dsimp only
  (repeat' split) <;> simp

@[simp] theorem rawGet_aside (sec : Nat) : aside (rawGet s sec).2 = aside s := by simp [rawGet]

@[simp] theorem cleanLine_aside (l : Nat) : aside (cleanLine s l) = aside s := by simp [cleanLine]

@[simp] theorem dropLine_aside (l : Nat) : aside (dropLine s l) = aside s := by simp [dropLine]

@[simp] theorem setEng_aside (k : Nat) (e : Engine) : aside (setEng s k e) = aside s := by simp [setEng]

@[simp] theorem modEng_aside (k : Nat) (f : Engine → Engine) : aside (modEng s k f) = aside s := by simp [modEng]

theorem pushThrough_aside (l : Nat) (u : State) (h : pushThrough s l = some u) : aside u = aside s := by
  unfold pushThrough at h
  (repeat' split at h) <;> simp at h
  · rw [← h.2]; simp
  all_goals rw [h]

theorem freeWay_aside (i set : Nat) (u : State) (h : freeWay s i set = some u) : aside u = aside s := by
  unfold freeWay at h
  dsimp only at h
  split at h
  · simp at h; rw [← h]; simp
  · split at h
    · simp at h
      obtain ⟨a, ha, rfl⟩ := h
      simp [pushThrough_aside _ _ _ ha]
    · simp at h

@[simp] theorem touchLine_aside (l : Nat) : aside (touchLine s l) = aside s := by simp [touchLine]

theorem allocLine_aside (l : Nat) (u : State) (h : allocLine s l = some u) : aside u = aside s := by
  unfold allocLine at h
  dsimp only at h
  split at h
  · simp at h; rw [← h]; simp
  · split at h
    · simp at h; rw [← h]; simp
    · simp at h
      obtain ⟨a, ha, rfl⟩ := h
      simp [freeWay_aside _ _ _ _ ha]

@[simp] theorem putSector_aside (sec : Nat) (x : Sector) : aside (putSector s sec x) = aside s := by
  unfold putSector
  split <;> simp

@[simp] theorem readWith_aside (get : State → Nat → Option (List Byte) × State) (hg : ∀ s n, aside (get s n).2 = aside s)
    (who : Reader) (noAlloc : Bool) (sec : Nat) : aside (readWith get s who noAlloc sec).2 = aside s := by
  unfold readWith
  dsimp only
  split
  · split
    · split
      · simp [apply_ite aside]
      · split
        · rename_i q hq; have h := hg (if who = .merger then s
            else count s (VRG_EVENTS_0 (sliceOfLine (sec / 8))) VRG_EVENTS_0_dead_reads) sec
          rw [hq] at h; simp [apply_ite aside] at h; simp [h]
        · rename_i q hq; have h := hg (if who = .merger then s
            else count s (VRG_EVENTS_0 (sliceOfLine (sec / 8))) VRG_EVENTS_0_dead_reads) sec
          rw [hq] at h; simp [apply_ite aside] at h; simp [h]
    · simp
  · split
    · rename_i q hq; have h := hg s sec; rw [hq] at h; exact h
    · rename_i q hq; have h := hg s sec; rw [hq] at h; simp at h
      split
      · simpa using h
      · split
        · rename_i s2 h2; simp [allocLine_aside _ _ _ h2, h]
        · simpa using h

@[simp] theorem writeWith_aside (get : State → Nat → Option (List Byte) × State) (hg : ∀ s n, aside (get s n).2 = aside s)
    (noAlloc : Bool) (a : Nat) (d : List Byte) : aside (writeWith get s noAlloc a d) = aside s := by
  have key : ∀ o : VRes × State, aside o.2 = aside s →
      aside (match o.1 with
        | .data o' =>
          let whole := if d.length = 256 then d else merge o' (a % 256) d
          if noAlloc && (findLine o.2 (a / 256 / 8)).isNone then dramStore o.2 (a / 256) whole
          else match allocLine o.2 (a / 256 / 8) with
            | some s2 => putSector s2 (a / 256) ⟨.dirty, whole⟩
            | none => dramStore o.2 (a / 256) whole
        | _ => o.2) = aside s := by
    intro o ho
    split
    · dsimp only
      split
      · simp [ho]
      · split
        · rename_i s2 h2; simp [allocLine_aside _ _ _ h2, ho]
        · simp [ho]
    · exact ho
  unfold writeWith
  refine key (if d.length = 256 then (.data [], s)
    else match findSector s (a / 256) with
      | some x => if x.st = .dead then readWith get s .merger true (a / 256) else (.data x.data, s)
      | none => match get s (a / 256) with
        | (some o, s1) => (.data o, s1)
        | (none, s1) => (.poisoned, s1)) ?_
  by_cases hd : d.length = 256
  · rw [if_pos hd]
  · rw [if_neg hd]
    split
    · split
      · exact readWith_aside s get hg _ _ _
      · rfl
    · split
      all_goals rename_i q hq; have h := hg s (a / 256); rw [hq] at h; exact h

@[simp] theorem keeperPut_aside (k a : Nat) (d : List Byte) : aside (keeperPut s k a d) = aside s := by simp [keeperPut, apply_ite aside]

@[simp] theorem addElemBy_aside (k op a : Nat) (v : BitVec 32) : aside (addElemBy s k op a v) = aside s := by simp [addElemBy]

@[simp] theorem wrb_aside (off : Nat) (f : Fld) (b : Bool) : aside (wrb s off f b) = aside s := by simp [wrb]

@[simp] theorem endHotspot_aside (i : Nat) : aside (endHotspot s i) = aside s := by
  unfold endHotspot
  dsimp only
  (repeat' split) <;> simp

@[simp] theorem putReq_aside (r : Req) : aside (putReq s r) = aside s := by simp [putReq]

@[simp] theorem sendBack_aside (r : Req) (d : List Byte) (bad : Bool) : aside (sendBack s r d bad) = aside s := by simp [sendBack]

@[simp] theorem countSat_aside (off : Nat) (f : Fld) (n : Nat) : aside (countSat s off f n) = aside s := by simp [countSat]

@[simp] theorem emit_aside (o : Output) : aside (emit s o) = aside s := by simp [emit]

@[simp] theorem signalVector_aside (v : Nat) : aside (signalVector s v) = aside s := by simp [signalVector, apply_ite aside]

@[simp] theorem signalSource_aside (n : Nat) : aside (signalSource s n) = aside s := by simp [signalSource, apply_ite aside]

@[simp] theorem raiseLevel_aside (n off : Nat) (f : Fld) : aside (raiseLevel s n off f) = aside s := by simp [raiseLevel, apply_ite aside]

@[simp] theorem logLose_aside (g : LogId) : aside (logLose s g) = aside s := by
  unfold logLose
  exact (aside_rep _ _).trans (by simp)

@[simp] theorem noteOwn_aside (op a : Nat) (v : BitVec 32) : aside (noteOwn s op a v) = aside s := by
  unfold noteOwn
  (repeat' split) <;> simp

@[simp] theorem applySector_aside (p : Push) (sec to_ : Nat) : aside (applySector s p sec to_) = aside s := by simp [applySector]

@[simp] theorem remapSector_aside (older : Bool) (a : Nat) (f : State → Nat → State) (hf : ∀ s a, aside (f s a) = aside s) :
    aside (remapSector s older a f) = aside s := by
  unfold remapSector
  split <;> simp [hf]

@[simp] theorem applyPush_aside (p : Push) : aside (applyPush s p) = aside s := by
  unfold applyPush
  dsimp only
  rw [aside_foldl _ (fun s x => ?_)]
  · simp
  · split
    · split
      · simp
      · rw [remapSector_aside]; intro s a; simp
    · simp

@[simp] theorem drainPushes_aside (l : Nat) : aside (drainPushes s l) = aside s := by simp [drainPushes]

@[simp] theorem keeperRoom_aside (k : Nat) : aside (keeperRoom s k) = aside s := by
  unfold keeperRoom
  split <;> simp

theorem settleOnce_aside (l : Nat) (u : State) (h : settleOnce s l = some u) : aside u = aside s := by
  unfold settleOnce at h
  simp at h
  obtain ⟨a, ha, rfl⟩ := h
  simp [pushThrough_aside _ _ _ ha]

@[simp] theorem settleLine_aside (l : Nat) : aside (settleLine s l) = aside s := by
  unfold settleLine
  split
  · rename_i u hu; exact settleOnce_aside _ _ _ hu
  · rcases h : settleOnce (keeperRoom s (stackOfLine l)) l with _ | u
    · rfl
    · simpa using settleOnce_aside _ _ _ h

@[simp] theorem rawWrite_aside (a : Nat) (d : List Byte) : aside (rawWrite s a d) = aside s := by simp [rawWrite]

@[simp] theorem logPut_aside (g : LogId) (words : List Word) : aside (logPut s g words) = aside s := by simp [logPut]

@[simp] theorem logAppend_aside (g : LogId) (ty low : Nat) (a b : Word) : aside (logAppend s g ty low a b) = aside s := by
  unfold logAppend
  split
  · simp
  · have key : ∀ u : State, aside u = aside s →
        aside (if logRoom u g then logPut u g (logHead u ty low ++ [a, b]) else logLose u g) = aside s := by
      intro u hu; split <;> simp [hu]
    apply key
    split
    · rfl
    · simp

@[simp] theorem modRep_aside (f : Rep → Rep) : aside (modRep s f) = aside s := by simp [modRep]

@[simp] theorem raiseEvent_aside (n : Nat) : aside (raiseEvent s n) = aside s := by simp [raiseEvent, apply_ite aside]

@[simp] theorem loseChannel_aside (gpc : Nat) : aside (loseChannel s gpc) = aside s := by simp [loseChannel, apply_ite aside]

@[simp] theorem wrf_aside (off : Nat) (f : Fld) (v : Nat) : aside (wrf s off f v) = aside s := by simp [wrf]

@[simp] theorem countDegraded_aside : aside (countDegraded s) = aside s := by simp [countDegraded]

@[simp] theorem setDegraded_aside (gpc : Nat) (on : Bool) : aside (setDegraded s gpc on) = aside s := by simp [setDegraded]

@[simp] theorem failLane_aside (gpc die lane : Nat) : aside (failLane s gpc die lane) = aside s := by
  unfold failLane
  dsimp only
  split
  · rfl
  · split
    · simp [apply_ite aside]
    · have key : ∀ u : State, aside u = aside s →
          aside (if 4 < (deadSymbols u gpc die).length then loseChannel u gpc else u) = aside s := by
        intro u hu; split <;> simp [hu]
      apply key
      split <;> simp

@[simp] theorem symbolCorrected_aside (gpc die sym : Nat) : aside (symbolCorrected s gpc die sym) = aside s := by
  unfold symbolCorrected
  dsimp only
  (repeat' split) <;> simp

@[simp] theorem noteCorrected_aside (sec : Nat) (errs : List (List Nat)) : aside (noteCorrected s sec errs) = aside s := by
  simp [noteCorrected, apply_ite aside]

@[simp] theorem noteStored_aside (sec : Nat) (f : Flaw) : aside (noteStored s sec f) = aside s := by
  unfold noteStored
  split <;> simp

@[simp] theorem takeFree_aside : aside (takeFree s).2 = aside s := by simp [takeFree]

@[simp] theorem freeBytes_aside (n : Nat) : aside (freeBytes s n).2 = aside s := by
  simp [freeBytes]

@[simp] theorem restoreSector_aside (sec : Nat) (d : List Byte) : aside (restoreSector s sec d) = aside s := by simp [restoreSector, apply_ite aside]

@[simp] theorem refetchedAs_aside (sec : Nat) (d : List Byte) : aside (refetchedAs s sec d) = aside s := by simp [refetchedAs]

@[simp] theorem modHost_aside (f : HostSt → HostSt) : aside (modHost s f) = aside s := by simp [modHost]

@[simp] theorem setChan_aside (i : Nat) (c : Chan) : aside (setChan s i c) = aside s := by simp [setChan]

@[simp] theorem signalHeldOff_aside (v : Nat) : aside (signalHeldOff s v) = aside s := by simp [signalHeldOff, apply_ite aside]

@[simp] theorem putRecord_aside (i : Nat) (r : Record) : aside (putRecord s i r) = aside s := by
  unfold putRecord
  dsimp only
  (repeat' split) <;> simp [apply_ite aside]

@[simp] theorem putEvent_aside (i code seq : Nat) (value : Word) : aside (putEvent s i code seq value) = aside s := by
  simp [putEvent, apply_ite aside]

@[simp] theorem writesLost_aside (gone : List HeldWrite) : aside (writesLost s gone) = aside s := by simp [writesLost]

@[simp] theorem discardSector_aside (sec : Nat) : aside (discardSector s sec) = aside s := by
  unfold discardSector
  dsimp only
  (repeat' split) <;> simp

@[simp] theorem poisonSector_aside (sec : Nat) : aside (poisonSector s sec) = aside s := by simp [poisonSector]

@[simp] theorem recomputed_aside (sec : Nat) : aside (recomputed s sec) = aside s := by
  unfold recomputed
  (repeat' split) <;> simp

@[simp] theorem keeperRaw_aside (k a : Nat) (d : List Byte) : aside (keeperRaw s k a d) = aside s := by simp [keeperRaw]

@[simp] theorem zeroMoments_aside (k : Nat) (x : Shard) (b : Nat) : aside (zeroMoments s k x b) = aside s := by simp [zeroMoments, apply_ite aside]

@[simp] theorem zeroMomentSector_aside (sec : Nat) : aside (zeroMomentSector s sec) = aside s := by
  unfold zeroMomentSector
  (repeat' split) <;> simp

@[simp] theorem repairLocal_aside (sec : Nat) : aside (repairLocal s sec).2 = aside s := by
  unfold repairLocal
  split <;> simp

@[simp] theorem repairNow_aside (sec : Nat) : aside (repairNow s sec).2 = aside s := by
  unfold repairNow
  split
  · simp
  · split
    · split <;> simp
    · split
      · simp
      · simp

@[simp] theorem setFlaw_aside (sec : Nat) (f : Flaw) : aside (setFlaw s sec f) = aside s := by simp [setFlaw]

@[simp] theorem meetFlaw_aside (sec : Nat) : aside (meetFlaw s sec).2 = aside s := by
  unfold meetFlaw
  dsimp only
  (repeat' split) <;> simp

@[simp] theorem meet_aside (sec : Nat) : aside (meet s sec).2 = aside s := by
  unfold meet
  (repeat' split) <;> simp

@[simp] theorem vergeMeet_aside (sec : Nat) : aside (vergeMeet s sec) = aside s := by
  unfold vergeMeet
  dsimp only
  (repeat' split) <;> simp

@[simp] theorem writeHere_aside (noAlloc : Bool) (a : Nat) (d : List Byte) : aside (writeHere s noAlloc a d) = aside s := by
  simp [writeHere, apply_ite aside]

@[simp] theorem fillSector_aside (sec : Nat) (d : List Byte) : aside (fillSector s sec d) = aside s := by
  unfold fillSector
  dsimp only
  simp only [endHotspot_aside]
  rw [aside_foldl]
  · split
    · split
      · rename_i s2 h2
        split
        · split <;> simp [allocLine_aside _ _ _ h2]
        · simp [allocLine_aside _ _ _ h2]
      · rfl
    · rfl
  · intro s r
    split <;> simp

@[simp] theorem fillNow_aside (sec : Nat) : aside (fillNow s sec) = aside s := by
  unfold fillNow
  split
  · rfl
  · have h := meet_aside s sec
    split
    · rename_i d s1 hm; rw [hm] at h; simpa using h
    · rename_i s1 hm; rw [hm] at h; exact h

@[simp] theorem readHere_aside (who : Reader) (noAlloc : Bool) (sec : Nat) : aside (readHere s who noAlloc sec).2 = aside s := by
  simp [readHere]

@[simp] theorem keeperMeet_aside (sec : Nat) : aside (keeperMeet s sec) = aside s := by
  unfold keeperMeet
  split
  · simp
  · have h := meet_aside s sec
    split
    · rename_i d s1 hm
      rw [hm] at h; simp at h
      split
      · split
        · rename_i s2 h2; simp [allocLine_aside _ _ _ h2, h]
        · exact h
      · exact h
    · rename_i s1 hm; rw [hm] at h; exact h

@[simp] theorem soundLine_aside (l : Nat) : aside (soundLine s l) = aside s := by simp [soundLine, apply_ite aside]

@[simp] theorem vReadSector_aside (who : Reader) (noAlloc : Bool) (sec : Nat) : aside (vReadSector s who noAlloc sec).2 = aside s := by
  simp [vReadSector]

@[simp] theorem afterRead_aside (a n : Nat) : aside (afterRead s a n) = aside s := by simp [afterRead, apply_ite aside]

@[simp] theorem bitsRead_aside (t : RouteTable) : aside (bitsRead s t) = aside s := by simp [bitsRead]

@[simp] theorem frameRead_aside (t : RouteTable) (f : Nat) : aside (frameRead s t f) = aside s := by simp [frameRead]

@[simp] theorem imageRead_aside (a pagesMax : Nat) : aside (imageRead s a pagesMax) = aside s := by simp [imageRead]

@[simp] theorem vWriteSector_aside (noAlloc : Bool) (a : Nat) (d : List Byte) : aside (vWriteSector s noAlloc a d) = aside s := by
  simp [vWriteSector]

@[simp] theorem keeperWrite_aside (k a : Nat) (d : List Byte) : aside (keeperWrite s k a d) = aside s := by
  unfold keeperWrite
  rw [aside_foldl]
  intro s p
  split <;> simp [apply_ite aside]

@[simp] theorem meetBytes_aside (a n : Nat) : aside (meetBytes s a n) = aside s := by
  unfold meetBytes
  split <;> simp

@[simp] theorem pageRead_aside (t : RouteTable) (v p : Nat) : aside (pageRead s t v p) = aside s := by simp [pageRead]

@[simp] theorem refuseRetire_aside (c p : Nat) : aside (refuseRetire s c p) = aside s := by simp [refuseRetire]

@[simp] theorem requestRetire_aside (c p : Nat) : aside (requestRetire s c p) = aside s := by
  unfold requestRetire
  dsimp only
  (repeat' split) <;> simp

@[simp] theorem scrCorrected_aside (l n : Nat) : aside (scrCorrected s l n) = aside s := by simp [scrCorrected]

@[simp] theorem storedPart_aside (a n : Nat) : aside (storedPart s a n).2 = aside s := by
  unfold storedPart
  have h := meet_aside s (a / 256)
  split
  all_goals rename_i hm; rw [hm] at h; exact h

@[simp] theorem storedWrite_aside (a : Nat) (d : List Byte) : aside (storedWrite s a d) = aside s := by
  simp [storedWrite, apply_ite aside]

@[simp] theorem walkRead_aside (op : Nat) (t : RouteTable) : aside (walkRead s op t) = aside s := by simp [walkRead, apply_ite aside]

/-! ### Accesses that may also reach a scratchpad -/

/-- What no access to the memory of this device changes: as `aside`, without the cores, which a bad scratchpad word can halt (R97). -/
def outer (s : State) : State := { aside s with cores := [] }

theorem outer_of_aside {u : State} (h : aside u = aside s) : outer u = outer s := by simp [outer, h]

theorem atn_of_outer {u : State} (h : outer u = outer s) : u.atn = s.atn := by
  have h1 : (outer u).atn = (outer s).atn := by rw [h]
  exact h1

theorem atn_of_aside {u : State} (h : aside u = aside s) : u.atn = s.atn := atn_of_outer s (outer_of_aside s h)

@[simp] theorem setCore_outer (l : Nat) (c : CoreSt) : outer (setCore s l c) = outer s := by rfl
@[simp] theorem modCore_outer (l : Nat) (f : CoreSt → CoreSt) : outer (modCore s l f) = outer s := by rfl
@[simp] theorem modStr_outer (l : Nat) (t : StreamId) (f : Stream → Stream) : outer (modStr s l t f) = outer s := by rfl
@[simp] theorem wr_outer (o : Nat) (w : Word) : outer (wr s o w) = outer s := by rfl
@[simp] theorem countSat_outer (o : Nat) (f : Fld) (n : Nat) : outer (countSat s o f n) = outer s := by rfl
@[simp] theorem takeFree_outer : outer (takeFree s).2 = outer s := by rfl
@[simp] theorem modMem_outer (f : Mem → Mem) : outer (modMem s f) = outer s := by rfl
@[simp] theorem raiseEvent_outer (n : Nat) : outer (raiseEvent s n) = outer s := outer_of_aside s (raiseEvent_aside s n)
@[simp] theorem requestRetire_outer (c p : Nat) : outer (requestRetire s c p) = outer s := outer_of_aside s (requestRetire_aside s c p)
@[simp] theorem scrCorrected_outer (l n : Nat) : outer (scrCorrected s l n) = outer s := by simp [scrCorrected]

@[simp] theorem outer_foldl {α : Type} (f : State → α → State) (h : ∀ s x, outer (f s x) = outer s) (l : List α) (s : State) :
    outer (l.foldl f s) = outer s := by
  induction l generalizing s with
  | nil => rfl
  | cons x r ih => simp [ih, h]

@[simp] theorem haltStream_outer (l : Nat) (t : StreamId) (c : HaltCause) (k : Nat) : outer (haltStream s l t c k) = outer s := by
  unfold haltStream
  dsimp only
  split <;> simp

@[simp] theorem coreFault_outer (l : Nat) (t : StreamId) (k : Nat) (a : Word) : outer (coreFault s l t k a) = outer s := by
  unfold coreFault
  simp [apply_ite outer]

@[simp] theorem tiedFault_outer (l : Nat) (t : StreamId) (k : Nat) (a : Word) : outer (tiedFault s l t k a) = outer s := by
  unfold tiedFault
  simp [apply_ite outer]

@[simp] theorem lateFault_outer (l : Nat) (t : StreamId) (k : Nat) (a : Word) : outer (lateFault s l t k a) = outer s := by
  unfold lateFault
  dsimp only
  (repeat' split) <;> simp

@[simp] theorem scrUncorrectable_outer (l : Nat) (t : StreamId) (o : Nat) : outer (scrUncorrectable s l t o) = outer s := by
  simp [scrUncorrectable]

@[simp] theorem scrWrite_outer (l o : Nat) (d : List Byte) : outer (scrWrite s l o d) = outer s := by
  unfold scrWrite
  simp [apply_ite outer]

@[simp] theorem scrMerge_outer (l o : Nat) (d : List Byte) (e : Ecc) : outer (scrMerge s l o d e) = outer s := by
  unfold scrMerge
  simp [apply_ite outer]

@[simp] theorem sysWriteSector_outer (a : Nat) (d : List Byte) : outer (sysWriteSector s a d).2 = outer s := by
  unfold sysWriteSector
  split
  · split
    · exact outer_of_aside s (by simp)
    · rfl
  · split <;> simp
  · exact outer_of_aside s (by simp)
  · exact outer_of_aside s (by simp)
  · rfl

/-- A write of an agent outside the cores to this device changes neither the walker's records nor anything else beside memory. -/
@[simp] theorem sysWrite_outer (who : Requester) (a : Nat) (d : List Byte) : outer (sysWrite s who a d).2 = outer s := by
  have key : ∀ (l : List (Nat × List Byte)) (r : VRes × State),
      outer (l.foldl (fun (r : VRes × State) p => match r.1 with
        | .data _ => sysWriteSector r.2 p.1 p.2
        | _ => r) r).2 = outer r.2 := by
    intro l
    induction l with
    | nil => intro r; rfl
    | cons p l ih =>
      intro r
      rw [List.foldl_cons, ih]
      split <;> simp
  unfold sysWrite
  split
  · rfl
  · split
    · exact key _ _
    · rfl

/-! ### What the walker's accesses leave of its own records -/

@[simp] theorem afterRead_atn (a n : Nat) : (afterRead s a n).atn = s.atn := atn_of_aside s (afterRead_aside s a n)
@[simp] theorem walkRead_atn (op : Nat) (t : RouteTable) : (walkRead s op t).atn = s.atn := atn_of_aside s (walkRead_aside s op t)
@[simp] theorem pageRead_atn (t : RouteTable) (v p : Nat) : (pageRead s t v p).atn = s.atn := atn_of_aside s (pageRead_aside s t v p)
@[simp] theorem frameRead_atn (t : RouteTable) (f : Nat) : (frameRead s t f).atn = s.atn := atn_of_aside s (frameRead_aside s t f)
@[simp] theorem walkerWrite_atn (a : Nat) (d : List Byte) : (walkerWrite s a d).atn = s.atn := atn_of_outer s (sysWrite_outer s .engine a d)
@[simp] theorem putResid_atn (t : RouteTable) (f : Nat) (r : Resid) : (putResid s t f r).atn = s.atn := walkerWrite_atn s _ _
@[simp] theorem setWritten_atn (t : RouteTable) (p : Nat) (on : Bool) : (setWritten s t p on).atn = s.atn := walkerWrite_atn s _ _

end Sys2Proof.Laws
end

