-- ==== Sys2Proof/Tests/Slice0.lean ====
section
/-! SUPPORT. Tests: commands that name no instance, instruction words written out from the spec's encodings, single steps, and a
witness for the hypotheses of every statement. -/

namespace Sys2Proof.Tests

open Sys2Proof Sys2Proof.Machine

set_option maxRecDepth 8000

/-- An instruction of core 0's stream F with its four register fields and its low 24 bits. -/
def on0 (r0 r1 r2 r3 lo : Nat) : Insn :=
  { core := 0, stream := .F, rivals := [], pred := 0, pneg := false,
    body := BitVec.ofNat 48 (r0 * 2 ^ 42 + r1 * 2 ^ 36 + r2 * 2 ^ 30 + r3 * 2 ^ 24 + lo) }

/-- Where the words below are decoded. -/
def at0 : Site := { core := 0, stream := .F, rivals := [] }

/-- Core 0 with stream F running at 0x10000, its registers as listed. -/
def run (rs : SMap Word) : State :=
  { State.reset with boot := { pg := true }, cores := [(0, { f := { pc := 0x10000, st := .running, regs := rs } })] }

/-! ### Commands that name instances the part does not have -/

theorem test_illFormed_core : Instr.wf (.streamHaltRequest 18432 1) = false ∧ Instr.wf (.streamHaltRequest 18431 1) = true := by
  decide
theorem test_illFormed_instruction_core : Instr.wf (.nop { on0 0 0 0 0 0 with core := 18432 }) = false := by decide
theorem test_illFormed_port : Instr.wf (.portEnable 36) = false ∧ Instr.wf (.portEnable 35) = true := by decide
theorem test_illFormed_channel : Instr.wf (.commandDoorbell 4096 ⟨0, 8, 0⟩) = false ∧ Instr.wf (.commandDoorbell 4095 ⟨0, 8, 0⟩) = true := by decide
theorem test_illFormed_engine : Instr.wf (.keeperPush 36) = false ∧ Instr.wf (.lease 37 0) = false ∧ Instr.wf (.lease 35 0) = true := by
  decide
theorem test_illFormed_slice : Instr.wf (.windowWaysWrite 144 0) = false ∧ Instr.wf (.windowWaysWrite 143 0) = true := by decide
theorem test_illFormed_cluster : Instr.wf (.clusterPllUnlock 144) = false ∧ Instr.wf (.clusterPllUnlock 143) = true := by decide
theorem test_illFormed_managementCore : Instr.wf (.icuClaim 4) = false ∧ Instr.wf (.icuClaim 3) = true := by decide
theorem test_illFormed_source : Instr.wf (.icuCountClear 1024) = false ∧ Instr.wf (.icuCountClear 1023) = true := by decide

/-! ### Instruction words, their fields written out (R124, Tables 04-1 and 04-2) -/

/-- ADD s3, s1, s2 of opcode 0x10, function 0: rd, ra and rb in [47:42], [41:36] and [35:30]. -/
theorem test_decode_add : decodeWord at0 (0x10#8 ++ 0#3 ++ 0#1 ++ 0#4 ++ 3#6 ++ 1#6 ++ 2#6 ++ 0#30)
    = some (.scalarAlu 0 (on0 3 1 2 0 0)) := by decide
/-- A predicate field of 5, negated, on SUB. -/
theorem test_decode_predicate : decodeWord at0 (0x10#8 ++ 5#3 ++ 1#1 ++ 1#4 ++ 3#6 ++ 1#6 ++ 2#6 ++ 0#30)
    = some (.scalarAlu 1 { on0 3 1 2 0 0 with pred := 5, pneg := true }) := by decide
theorem test_decode_control :
    decodeWord at0 (0x01#8 ++ 0#3 ++ 0#1 ++ 1#4 ++ 31#6 ++ 0#6 ++ 0xFFFFFFFFF#36) = some (.jal (on0 31 0 63 63 0xFFFFFF))
    ∧ decodeWord at0 (0x02#8 ++ 0#3 ++ 0#1 ++ 5#4 ++ 1#6 ++ 2#6 ++ 4#36) = some (.branchCompare 5 (on0 1 2 0 0 4))
    ∧ decodeWord at0 (0x05#8 ++ 0#56) = some (.halt (on0 0 0 0 0 0)) := by decide
theorem test_decode_scratchpad :
    decodeWord at0 (0x20#8 ++ 0#3 ++ 0#1 ++ 6#4 ++ 4#6 ++ 5#6 ++ 8#36) = some (.ld 6 (on0 4 5 0 0 8) .clean)
    ∧ decodeWord at0 (0x22#8 ++ 0#3 ++ 0#1 ++ 2#4 ++ 4#6 ++ 5#6 ++ 6#6 ++ 7#6 ++ 0#24) = some (.atom 2 (on0 4 5 6 7 0) .clean) := by
  decide
theorem test_decode_movement_and_maintenance :
    decodeWord at0 (0x31#8 ++ 0#3 ++ 0#1 ++ 2#4 ++ 0#6 ++ 1#6 ++ 2#6 ++ 3#6 ++ 7#3 ++ 1#1 ++ 0#20)
      = some (.movr 2 (on0 0 1 2 3 0xF00000))
    ∧ decodeWord at0 (0x80#8 ++ 0#3 ++ 0#1 ++ 6#4 ++ 0#6 ++ 1#6 ++ 2#6 ++ 0#30) = some (.pin (on0 0 1 2 0 0)) := by decide
theorem test_decode_matrix :
    decodeWord at0 (0x40#8 ++ 0#8 ++ 1#6 ++ 2#6 ++ 3#6 ++ 0#6 ++ 2#2 ++ 0#22) = some (.mma (on0 1 2 3 0 0x800000) .clean)
    ∧ decodeWord at0 (0x42#8 ++ 0#3 ++ 0#1 ++ 3#4 ++ 1#6 ++ 2#6 ++ 0#36) = some (.drainBf16Sr (on0 1 2 0 0 0)) := by decide
theorem test_decode_vector :
    decodeWord at0 (0x50#8 ++ 0#3 ++ 0#1 ++ 5#4 ++ 1#6 ++ 2#6 ++ 3#6 ++ 0#30) = some (.vectorArith 5 (on0 1 2 3 0 0) .clean)
    ∧ decodeWord at0 (0x58#8 ++ 0#3 ++ 0#1 ++ 4#4 ++ 0#48) = some (.lnBsum false (on0 0 0 0 0 0))
    ∧ decodeWord at0 (0x58#8 ++ 0#3 ++ 0#1 ++ 1#4 ++ 0#48) = some (.lnF true (on0 0 0 0 0 0)) := by decide
theorem test_decode_waits_sections_kerb :
    decodeWord at0 (0x72#8 ++ 0#3 ++ 0#1 ++ 0#4 ++ 0#6 ++ 6#3 ++ 0#23 ++ 9#16) = some (.ctrWait (on0 0 48 0 0 9))
    ∧ decodeWord at0 (0x73#8 ++ 0#8 ++ 0x20003#48) = some (.layerBegin (on0 0 0 0 0 0x20003))
    ∧ decodeWord at0 (0x60#8 ++ 0#8 ++ 1#6 ++ 3#3 ++ 1#1 ++ 0#2 ++ 64#36) = some (.kcmd (on0 1 28 0 0 64)) := by decide
theorem test_decode_conversions :
    decodeWord at0 (0x90#8 ++ 0#3 ++ 0#1 ++ 3#4 ++ 0#6 ++ 1#6 ++ 2#6 ++ 3#6 ++ 0#24) = some (.cvtSrSat (on0 0 1 2 3 0))
    ∧ decodeWord at0 (0x92#8 ++ 0#3 ++ 0#1 ++ 1#4 ++ 0#6 ++ 1#6 ++ 0#6 ++ 3#6 ++ 0#24) = some (.rndF (on0 0 1 0 3 0)) := by decide
/-- An opcode that no instruction has, and a function that an opcode does not have (R125). -/
theorem test_decode_refuses_undefined :
    decodeWord at0 (0xF0#8 ++ 0#56) = none ∧ decodeWord at0 (0x10#8 ++ 0#4 ++ 12#4 ++ 0#48) = none := by decide

/-! ### Witnesses: the queue, scalar and control instructions -/

/-- The operands that the scalar witnesses share: destination s47's number is the last of its range, sources p7 and s1. -/
def xAlu : Insn := on0 47 55 1 0 0
/-- Core 0 running with a few values. -/
def sRun : State := run [(1, 0x10008), (2, 7), (3, 2 ^ 48), (4, 0x10001), (5, 1)]

theorem witness_EmptyQueueAdvancesTime :
    State.reset.pending = [] ∧ { State.reset with pow := { State.reset.pow with on := true } }.pending = [] := by decide
theorem witness_CommandsAnswer : Instr.wf .lateSample = true ∧ Instr.wf (.portEnable 36) = false := by decide
theorem witness_IntegerResults :
    issues sRun xAlu none = true ∧ (11#4).toNat < 12 ∧ (6#4).toNat < 7 ∧ bitsN xAlu.b 29 0 = 0 ∧ xAlu.r0 < 48 ∧ xAlu.r1 < 56
      ∧ xAlu.r2 < 56 ∧ issues sRun (on0 47 0 0 0 0xFFFFFF) none = true ∧ (on0 47 0 0 0 0xFFFFFF).r1 = 0
      ∧ (on0 47 0 0 0 0xFFFFFF).r0 < 48 := by decide
theorem witness_ComparisonsAndFloatResults_results :
    issues sRun (on0 49 55 1 0 0) none = true ∧ (5#4).toNat < 6 ∧ (3#4).toNat < 4 ∧ bitsN (on0 49 55 1 0 0).b 29 0 = 0
      ∧ isP (on0 49 55 1 0 0).r0 = true ∧ (on0 49 55 1 0 0).r1 < 56 ∧ (on0 49 55 1 0 0).r2 < 56
      ∧ (9#4).toNat < 10 ∧ (6 ≤ (9#4).toNat → (on0 47 55 0 0 0).r2 = 0) ∧ issues sRun (on0 47 55 0 0 0) none = true
      ∧ issues sRun (on0 47 55 1 2 0) none = true ∧ bitsN (on0 47 55 1 2 0).b 23 0 = 0 ∧ (on0 47 55 1 2 0).r3 < 56 := by decide
theorem witness_ComparisonsAndFloatResults_refuses :
    isP (on0 47 1 0 0 0).r0 = false ∧ issues sRun (on0 47 1 0 0 0) none = true ∧ issues sRun (on0 48 0 0 0 0) none = true
      ∧ 48 ≤ (on0 48 0 0 0 0).r0 ∧ (on0 48 0 0 0 0).r1 = 0 ∧ (on0 48 0 0 0 0).r2 = 0 ∧ bitsN (on0 48 0 0 0 0).b 29 0 = 0 := by decide
theorem witness_ControlTransfers :
    issues sRun (on0 0 0 0 0 0) none = true ∧ (on0 0 0 0 0 0).b = 0
      ∧ issues sRun (on0 0 0 63 63 0xFFFFFF) none = true ∧ (on0 0 0 63 63 0xFFFFFF).r0 = 0 ∧ (on0 0 0 63 63 0xFFFFFF).imm = -1
      ∧ issues sRun (on0 47 0 32 0 0) none = true ∧ (on0 47 0 32 0 0).r1 = 0 ∧ (on0 47 0 32 0 0).r0 < 48
      ∧ issues sRun (on0 55 1 0 0 2) none = true ∧ (on0 55 1 0 0 2).r0 < 56 ∧ (5#4).toNat < 6 := by decide
theorem witness_ControlTransfers_registers :
    issues sRun (on0 0 1 0 0 0) none = true ∧ (on0 0 1 0 0 0).r0 = 0 ∧ (on0 0 1 0 0 0).r2 = 0 ∧ bitsN (on0 0 1 0 0 0).b 29 0 = 0
      ∧ (on0 0 1 0 0 0).r1 < 56 ∧ ((strm sRun (on0 0 1 0 0 0)).reg 1).toNat % 8 = 0
      ∧ ((strm sRun (on0 0 1 0 0 0)).reg 1).toNat < 2 ^ 48 ∧ issues sRun (on0 1 1 0 0 0) none = true
      ∧ issues sRun (on0 5 0 0 0 4) none = true ∧ (strm sRun (on0 5 0 0 0 4)).reg 5 = 1 := by decide
theorem witness_HaltBreakAndIssueOrder :
    issues sRun (on0 0 0 0 0 0) none = true ∧ issues sRun { core := 0, stream := .F, rivals := [], pred := 0, pneg := false, body := 0 } none = true
      ∧ (on0 0 0 0 0 0x35).b / 64 = 0 ∧ bitsN (on0 0 0 0 0 0x35).b 3 3 = 0 ∧ bitsN (on0 0 0 0 0 0x35).b 2 0 < 6
      ∧ issues sRun (on0 0 0 0 0 0x35) none = true ∧ 6 ≤ bitsN (on0 0 0 0 0 6).b 2 0 ∧ (on0 0 0 0 0 6).b / 64 = 0
      ∧ (let s := modStr sRun 0 .B (fun x => { x with st := .running })
         issues s (on0 0 0 0 0 0) none = true ∧ (strOf s 0 .B).st = .running) := by decide
theorem witness_SuppressedInstructionsAndPreciseFaults :
    (let x : Insn := { on0 0 0 0 0 0 with pred := 1 }
     x.core < numCores ∧ (strm sRun x).st = .running ∧ (coreOf sRun x.core).held = false
      ∧ clockStopped sRun x.core = false ∧ heldBySlot sRun x.core = false
      ∧ fetchFails sRun x.core (strm sRun x).pc = false ∧ roReadable sRun (strm sRun x).pc 8 = true
      ∧ predHolds (strm sRun x) x = false ∧ x.b = 0)
    ∧ ((strm sRun (on0 0 4 0 0 0)).reg 4).toNat % 8 ≠ 0 ∧ issues sRun (on0 0 4 0 0 0) none = true
    ∧ ((strm sRun (on0 0 3 0 0 0)).reg 3).toNat % 8 = 0 ∧ 2 ^ 48 ≤ ((strm sRun (on0 0 3 0 0 0)).reg 3).toNat
    ∧ issues sRun (on0 0 3 0 0 0) none = true ∧ 56 ≤ (on0 47 56 0 0 0).r1 ∧ issues sRun (on0 47 56 0 0 0) none = true
    ∧ (on0 47 1 1 0 0).r0 < 48 ∧ bitsN (on0 1 1 1 0 1).b 29 0 ≠ 0 ∧ issues sRun (on0 1 1 1 0 1) none = true
    ∧ (on0 0 0 0 0 1).b ≠ 0 ∧ issues sRun (on0 0 0 0 0 1) none = true := by decide

/-- ADD of s1 and s2 into s6 (R134), the pc at the next instruction (R127). -/
theorem test_add : ∃ t, exec (.scalarAlu 0 (on0 6 1 2 0 0)) sRun = .next t ∧ (strm t xAlu).reg 6 = 0x1000F
    ∧ (strm t xAlu).pc = 0x10008 := ⟨_, rfl, by decide, by decide⟩
/-- DIV by zero gives all ones (R136): s0 is not written, and reads 0. -/
theorem test_div_by_zero : ∃ t, exec (.scalarMulDiv 3 (on0 6 1 0 0 0)) sRun = .next t ∧ (strm t xAlu).reg 6 = -1 :=
  ⟨_, rfl, by decide⟩
/-- A taken backward branch (R131). -/
theorem test_branch_back : ∃ t, exec (.br (on0 0 0 63 63 0xFFFFFF)) sRun = .next t ∧ (strm t xAlu).pc = 0xFFF8 :=
  ⟨_, rfl, by decide⟩
/-- A jump to an address that is no multiple of 8 faults with 0x03 (R132). -/
theorem test_jump_misaligned : ∃ t, exec (.jr (on0 0 4 0 0 0)) sRun = .next t ∧ (strm t xAlu).code = 3 ∧ (strm t xAlu).st = .halting :=
  ⟨_, rfl, by decide, by decide⟩
/-- The predicate register that suppresses leaves the registers and moves the pc (R128). -/
theorem test_suppressed : ∃ t, exec (.li { on0 6 0 0 0 9 with pred := 1 }) sRun = .next t ∧ (strm t xAlu).reg 6 = 0
    ∧ (strm t xAlu).pc = 0x10008 := ⟨_, rfl, by decide, by decide⟩

/-! ### Witnesses: the scratchpad, counters, sections, streams from outside -/

/-- Scratchpad offsets at the edges of the scratchpad in s1 to s4. -/
def sScr : State := run [(1, 0x1FFF8), (2, 0x20000), (3, 1), (4, 0x1FFFF)]
/-- Core 0 with an MMA and a vector operation outstanding. -/
def sOps : State := modCore sRun 0 (fun c => { c with ops := [{ id := 3, stream := .F, kind := .vector, addr := 0x8000 }] })
/-- The request of a line of the constant cache, at its end with a code. -/
def fillRq (n : Nat) : Req :=
  { id := 4, kind := .fill .const, core := 0, stream := .F, desc := 0, src := 0x10000, dst := 0, len := 256, op := 0, phase := .fin, code := n }
/-- A section of the stream at rung 2 with its overflow flag set. -/
def zOpen : Section := { sid := 1, rung := 2, cause := 1, beginPc := 0xFFF8, cpRegs := [], cpPreds := 1, cpDraw := 0 }
/-- The stream with a section open. -/
def sSect (z : Section) : State := modStr sRun 0 .F (fun x => { x with sect := some z })

theorem witness_ScratchpadAccess_completes :
    issues sScr (on0 47 1 0 0 0) (some 0) = true ∧ (6#4).toNat < 7 ∧ (on0 47 1 0 0 0).r0 < 48 ∧ (on0 47 1 0 0 0).r1 < 48
      ∧ atOffset ((strm sScr (on0 47 1 0 0 0)).reg 1) (on0 47 1 0 0 0).imm 0x1FFF8 ∧ 0x1FFF8 % ldSize 6 = 0
      ∧ goodWords sScr 0 0x1FFF8 8 ∧ (Ecc.corrected 1 ≠ .uncorrectable)
      ∧ atOffset ((strm sScr (on0 47 3 63 63 0xFFFFFF)).reg 3) (on0 47 3 63 63 0xFFFFFF).imm 0 := by
  unfold atOffset goodWords; decide
theorem witness_ScratchpadAccess_atomic :
    issues sScr (on0 1 1 2 3 0) (some 0) = true ∧ (2#4).toNat < 3 ∧ bitsN (on0 1 1 2 3 0).b 23 0 = 0
      ∧ ((strm sScr (on0 1 1 2 3 0)).reg 1).toNat % 8 = 0 ∧ ((strm sScr (on0 1 1 2 3 0)).reg 1).toNat < 0x20000
      ∧ goodWords sScr 0 0x1FFF8 8 ∧ (on0 1 1 2 0 0).r3 = 0 ∧ issues sScr (on0 1 1 2 0 0) (some 0) = true := by
  unfold goodWords; decide
theorem witness_ScratchpadAccess_faults :
    issues sScr (on0 5 2 0 0 0) (some 0) = true ∧ atOffset ((strm sScr (on0 5 2 0 0 0)).reg 2) (on0 5 2 0 0 0).imm 0x20000
      ∧ atOffset ((strm sScr (on0 5 4 0 0 0)).reg 4) (on0 5 4 0 0 0).imm 0x1FFFF ∧ 0x1FFFF % ldSize 6 ≠ 0 ∧ 0x1FFFF % 2 ^ 3 ≠ 0
      ∧ ((strm sScr (on0 5 3 0 0 0)).reg 3).toNat % 8 ≠ 0 := by unfold atOffset; decide
theorem witness_CountersAndWaits :
    issues sRun (on0 0 56 0 0 0xFFFF) none = true ∧ (on0 0 56 0 0 0xFFFF).r0 = 0 ∧ (on0 0 56 0 0 0xFFFF).ctrEn = false
      ∧ bitsN (on0 0 56 0 0 0xFFFF).b 37 16 = 0 ∧ bitsN (on0 0 56 0 0 0xFFFF).b 15 0 = 0xFFFF
      ∧ (∀ o ∈ (coreOf sRun 0).ops, o.stream = .F → o.kind = .mma)
      ∧ issues sOps (on0 0 0 0 0 1) none = true ∧ (∃ o ∈ (coreOf sOps 0).ops, o.stream = .F ∧ o.kind ≠ .mma)
      ∧ smGet 0 (coreOf sRun 0).ctrs (on0 0 0 0 0 9).e < 9 ∧ bitsN (on0 2 0 0 0 0).b 37 0 = 0 ∧ (on0 2 0 0 0 0).r0 < 48
      ∧ 48 ≤ (on0 48 0 0 0 0).r0 ∧ bitsN (on0 48 0 0 0 0).b 37 0 = 0 ∧ issues sRun (on0 48 0 0 0 0) none = true
      ∧ bitsN (on0 0 1 0 0 0).b 37 36 ≠ 0 ∧ issues sRun (on0 0 1 0 0 0) none = true ∧ (on0 0 1 0 0 0).ctrEn = false
      ∧ (let s := modStr sRun 0 .B (fun x => { x with st := .waiting, wait := some (7, 1) })
         (strOf s 0 .B).st = .waiting ∧ (strOf s 0 .B).wait = some ((on0 0 56 0 0 0xFFFF).e, 1)) := by decide
theorem witness_CountersAndWaits_milestone_and_deadlock :
    issues sRun (on0 0 0 0 0 0) none = true ∧ (strm sRun (on0 0 0 0 0 0)).sect = none
      ∧ (∀ o ∈ (coreOf sRun 0).ops, o.stream ≠ .F ∧ StreamId.F ∉ o.also) ∧ (on0 0 0 0 0 0).b = 0 ∧ (on0 0 0 0 0 0).pred = 0
      ∧ (let s : State := { State.reset with cores := [(0, { f := { st := .waiting, wait := some (0, 1) } })] }
         (strOf s 0 .F).st ≠ .running ∧ (strOf s 0 .B).st ≠ .running ∧ (strOf s 0 .U).st ≠ .running
          ∧ (∀ d ∈ (coreOf s 0).descs, d.dead = true ∨ d.ctr = none) ∧ (∀ m ∈ (coreOf s 0).maints, m.ctr = none)
          ∧ (∀ k ∈ (coreOf s 0).kcmds, k.2.2 = none) ∧ (coreOf s 0).incs = [] ∧ (strOf s 0 .F).st = .waiting
          ∧ (strOf s 0 .F).wait.isSome = true ∧ (strOf s 0 .B).wait = none)
      ∧ (let s := wrb sRun PWR_STATUS PWR_STATUS_lowest_state true
         rdb s PWR_STATUS PWR_STATUS_lowest_state = true ∧ doubled s 0 = false)
      ∧ { sRun with mst := { sRun.mst with due := some 5 } }.mst.due = some 5
      ∧ issues sRun (on0 47 0 0 0 0) none = true ∧ (6#4).toNat ≤ 6 ∧ bitsN (on0 47 0 0 0 0).b 29 0 = 0 := by decide
theorem witness_LayerSections :
    issues sRun (on0 0 0 0 0 0x30001) none = true ∧ (on0 0 0 0 0 0x30001).b < 2 ^ 18 ∧ (strm sRun (on0 0 0 0 0 0)).sect = none
      ∧ issues (sSect zOpen) (on0 0 0 0 0 0) none = true ∧ (strm (sSect zOpen) (on0 0 0 0 0 0)).sect = some zOpen
      ∧ sectionBusy (sSect zOpen) 0 .F zOpen = false ∧ zOpen.cause ≠ 0 ∧ zOpen.rung < 3
      ∧ issues (sSect { zOpen with rung := 3 }) (on0 0 0 0 0 0) none = true
      ∧ (strm (sSect zOpen) (on0 0 0 0 0 0)).sect.isSome = true := by decide
theorem witness_StreamRequestsAndHalts :
    sRun.boot.pg = true ∧ 17999 < numCores ∧ (3#3).getLsbD (strNum .F) = true ∧ (strOf State.reset 17999 .F).atRest = true
      ∧ (strOf sRun 0 .F).live = true
      ∧ (let s := modStr sRun 0 .F (fun x => x.halting .fault 1)
         (strOf s 0 .F).st = .halting ∧ clockStopped s 0 = false ∧ (∀ o ∈ (coreOf s 0).ops, o.stream ≠ .F ∧ StreamId.F ∉ o.also) ∧ (∀ q ∈ (coreOf s 0).maints, q.stream ≠ .F)
          ∧ (∀ r ∈ s.reqs, r.core = 0 → r.stream = .F → r.kind ≠ .move))
      ∧ clockStopped { sRun with pow := { sRun.pow with pllDown := [0] } } 0 = true := by decide
theorem witness_DebugWindowIssueOrderAndReadOnlyCaches :
    (∀ i ∈ [47, 48, 49], rdf (wrf sRun (CORE_DBG_SEL 0) CORE_DBG_SEL_index i) (CORE_DBG_SEL 0) CORE_DBG_SEL_index = i)
      ∧ (strOf sRun 0 .F).atRest = false ∧ (strOf State.reset 0 .F).atRest = true
      ∧ rdf State.reset (CORE_DBG_SEL 0) CORE_DBG_SEL_stream = strNum .F ∧ (5#3).toNat < 6 ∧ 6 ≤ (6#3).toNat
      ∧ (let s := setHalf sRun (halfKey (clusterOf 0) (halfOfCore sRun 0)) { lines := [⟨0x100, [], false⟩] }
         roReadable s (0x100 * 256) 256 = true ∧ (coreOf s 0).held = false ∧ clockStopped s 0 = false ∧ s.boot.pg = true
          ∧ (halfOf s (halfKey (clusterOf 0) (halfOfCore s 0))).lines.find? (fun z => z.sector == 0x100) = some ⟨0x100, [], false⟩
          ∧ s.reqs.find? (fun r => r.core == 0 && r.kind == .fill .const && r.src == 0x100 * 256) = none)
      ∧ (∀ n ∈ [0, 4], let r := fillRq n
         let s := { modCore sRun 0 (fun c => { c with fills := [(.const, 0x100)] }) with reqs := [r] }
         s.reqs.find? (fun r => r.core == 0 && r.kind == .fill .const && r.src == 0x100 * 256) = some r ∧ r.phase = .fin
          ∧ r.code = n ∧ r.bad = false ∧ (coreOf s 0).held = false ∧ clockStopped s 0 = false ∧ (RoKind.const, 0x100) ∈ (coreOf s 0).fills ∧ roReadable s (0x100 * 256) 256 = true) := by decide

/-- ATOM.ADD gives the old word and writes the sum (R139). -/
theorem test_atom_add : ∃ t, exec (.atom 0 (on0 6 1 3 0 0) .clean) sScr = .next t ∧ leNat (scrRead t 0 0x1FFF8 8) = 1
    ∧ (strm t xAlu).reg 6 = 0 := ⟨_, rfl, by decide, by decide⟩
/-- A byte store at the last byte of the scratchpad (R97). -/
theorem test_store_last_byte : ∃ t, exec (.st 0 (on0 3 4 0 0 0) .clean) sScr = .next t ∧ memByte t.mem (scratchAddr 0 0x1FFFF) = 1 :=
  ⟨_, rfl, by decide⟩
/-- A counter saturates at 0xFFFF (R91). -/
theorem test_counter_saturates : ∃ t, exec (.ctrInc (on0 0 0 0 0 2)) (modCore sRun 0 (fun c => { c with ctrs := [(0, 0xFFFE)] }))
    = .next t ∧ (coreOf t 0).ctrs = [(0, 0xFFFF)] := ⟨_, rfl, by decide⟩
/-- LAYER.END at rung 2 with the overflow flag set goes back to the LAYER.BEGIN at rung 3 (R156, R157). -/
theorem test_layer_end_retries : ∃ t, exec (.layerEnd (on0 0 0 0 0 0)) (sSect zOpen) = .next t ∧ (strm t xAlu).pc = 0x10000
    ∧ (strm t xAlu).sect.map (·.rung) = some 3 := ⟨_, rfl, by decide, by decide⟩

/-! ### Witnesses: movement, maintenance and the memory hierarchy -/

/-- A movement of 256 bytes from 0x30000 to 0x20000, and one of the whole scratchpad. -/
def sMov : State :=
  run [(1, 0x20000), (2, 0x30000), (3, 256), (4, BitVec.ofNat 64 (scratchAddr 0 0)), (5, 0x700020000), (6, 0x30000), (7, 0)]
/-- A line of the descriptor cache: a descriptor of 256 bytes, one row, from 0x30000 to 0x20000; an operation of 1 in the second. -/
def descLine (op : Nat) : RoLine :=
  ⟨.desc, 0x300, ([0x30000, 0x20000, 2 ^ 32 + 256, 0, 0, op, 0, 0].flatMap (fun w => bytesOf 8 w))⟩
/-- A copy of 256 bytes within or out of core 0's scratchpad. -/
def dCopy (dst : Nat) : Desc :=
  { id := 9, stream := .F, src := scratchAddr 0 0, dst := dst, rows := 1, rowBytes := 256, srcPitch := 0, dstPitch := 0, op := 0,
    epoch := 0, noAlloc := false, deadSrc := false, ctr := some 2 }
/-- Core 0 with that descriptor. -/
def sDesc (d : Desc) : State := modCore sRun 0 (fun c => { c with descs := [d] })
/-- A request of core 0 that stands at a phase. -/
def rq (p : ReqPhase) : Req :=
  { id := 4, kind := .move, core := 0, stream := .F, desc := 9, src := 0x30000, dst := scratchAddr 0 0, len := 256, op := 0, phase := p }
/-- Core 0 with its descriptor and one request. -/
def sReq (r : Req) : State := { sDesc { dCopy 0 with row := 1 } with reqs := [r] }
/-- 256 bytes. -/
def d256 : List Byte := List.replicate 256 1
/-- Core 0 with a range of one sector, and of eight, in s1 to s3, and line 0x60 (address 0x30000) in its slice. -/
def sLine (pin : Bool) (secs : SMap Sector) : State :=
  { run [(1, 0x30000), (2, 256), (3, 2048)] with slices := [(sliceOfLine 0x60, { lines := [{ line := 0x60, secs := secs, pin := pin }] })] }

theorem witness_MovementDescriptors_movr :
    issues sMov (on0 0 1 2 3 0) (some 1) = true ∧ (2#4).toNat < 3 ∧ bitsN (on0 0 1 2 3 0xF00000).b 19 0 = 0
      ∧ accepted (coreOf sMov 0) .F < 8 ∧ bits ((strm sMov (on0 0 1 2 3 0)).reg 3) 63 48 = 0
      ∧ 0 < bits ((strm sMov (on0 0 1 2 3 0)).reg 3) 31 0 ∧ bits ((strm sMov (on0 0 1 2 3 0)).reg 3) 47 32 = 0
      ∧ issues sMov (on0 0 1 4 5 0) (some 1) = true ∧ bits ((strm sMov (on0 0 1 4 5 0)).reg 5) 47 32 = 7
      ∧ scratchAddr 0 0 + bits ((strm sMov (on0 0 1 4 5 0)).reg 5) 31 0 = scratchAddr 0 0x20000
      ∧ bits ((strm sMov (on0 0 1 2 7 0)).reg 7) 31 0 = 0 ∧ issues sMov (on0 0 1 2 7 0xF00000) (some 1) = true
      ∧ bitsN (on0 0 1 2 7 0xF00000).b 20 20 = 1 := by decide
theorem witness_MovementDescriptors_movd :
    (let s := modCore sMov 0 (fun c => { c with ro := [descLine 0] })
     let x := on0 2 0 0 0 0
     issues s x (some 1) = true ∧ bitsN x.b 37 36 = 0 ∧ x.r0 < 48 ∧ roReadable s 0x30000 64 = true ∧ accepted (coreOf s 0) .F < 8
      ∧ (coreOf s 0).ro.find? (fun z => z.kind == .desc && z.line == localForm s 0x30000 / 256) = some (descLine 0) ∧ 0x30000 % 64 = 0)
    ∧ descOk sRun 0 (dCopy 0) = true ∧ descOk sRun 0 { dCopy 0 with op := 1, src := 1 } = false
    ∧ (∀ z ∈ (coreOf sMov 0).ro, z.kind = .desc → z.line ≠ localForm sMov 0x30000 / 256)
    ∧ (RoKind.desc, localForm sMov 0x30000 / 256) ∉ (coreOf sMov 0).roFailed
    ∧ (RoKind.desc, 0x300) ∈ (coreOf (modCore sMov 0 (fun c => { c with roFailed := [(.desc, 0x300)] })) 0).roFailed := by decide
theorem witness_MovementDescriptors_movd_offset : atOffset ((strm sMov (on0 2 0 0 0 0)).reg 2) (on0 2 0 0 0 0).imm 0x30000 := by
  unfold atOffset; decide
theorem witness_MovementRequestsIssue :
    (let s := sDesc (dCopy (scratchAddr 0 0x1FF00))
     (coreOf s 0).descs.find? (fun z => z.id == 9 && z.stream == .F) = some (dCopy (scratchAddr 0 0x1FF00))
      ∧ (dCopy 0).row < (dCopy 0).rows ∧ (dCopy 0).off < (dCopy 0).rowBytes ∧ (coreOf s 0).held = false ∧ clockStopped s 0 = false ∧ heldBySlot s 0 = false ∧ (dCopy 0).dead = false ∧ slotFree s 0 .F = true
      ∧ sideOf s 0 .F (scratchAddr 0 0) 256 false = .own 0 ∧ sideOf s 0 .F (scratchAddr 0 0x1FF00) 256 true = .own 0x1FF00
      ∧ (∀ r ∈ s.reqs, r.id ≠ s.nextId) ∧ (dCopy 0).prov = none)
    ∧ sideOf sRun 0 .F 0x20000 256 true = .verge 0x20000
    ∧ sideOf (wrb sRun CWY_SELF_ID CWY_SELF_ID_id_valid true) 0 .F (toGlobal 5 0x20000) 256 true = .peer (toGlobal 5 0x20000)
    ∧ sideOf sRun 0 .F reserveBase 256 false = .bad := by decide
theorem witness_MovementRequestsIssue_faults :
    ¬ tiedWith sRun 0 .F ∧ tiedWith (modCore sRun 0 (fun c => { c with faultAt := (rd sRun MST_TIME).toNat, f := c.f.halting .sibling 0 })) 0 .F := by
  unfold tiedWith; decide
theorem witness_MovementRequestsIssue_addresses :
    descAt (dCopy 0).src (dCopy 0).srcPitch 0 0 (scratchAddr 0 0) ∧ goodWords sRun 0 0 256 := by
  unfold descAt goodWords; decide
theorem witness_MovementRequestsEnd :
    (let r := { rq .fin with data := d256 }
     reqOf (sReq r) 4 = some r ∧ r.core = 0 ∧ r.kind = .move ∧ r.phase = .fin ∧ r.code = 0 ∧ r.data.length = r.len
      ∧ sideOf (sReq r) 0 r.stream r.dst r.len true = .own 0 ∧ clockStopped (sReq r) 0 = false ∧ r.bad = false ∧ 0 % 8 = 0 ∧ r.len % 8 = 0 ∧ cacheable scratchBase = false
      ∧ isGlobal scratchBase = false
      ∧ (coreOf (sReq r) 0).descs.find? (fun z => z.id == r.desc) = some { dCopy 0 with row := 1 }
      ∧ (dCopy 0).rows ≤ 1 ∧ (dCopy 0).ctr = some 2
      ∧ (∀ q ∈ (sReq r).reqs, q.id ≠ 4 → q.core = 0 → q.desc = r.desc → q.kind ≠ .move))
    ∧ (let r := { rq .fin with code := 0x04 }
       reqOf (sReq r) 4 = some r ∧ r.code ≠ 0)
    ∧ (let r := { rq .wrV with waiting := true, prov := some 1 }
       reqOf (sReq r) 4 = some r ∧ r.phase = .wrV ∧ r.waiting = true ∧ r.prov.isSome = true ∧ ¬ tiedWith (sReq r) 0 .F) := by
  unfold tiedWith; decide
theorem witness_MovementRequestsEnd_words : goodWords (sReq { rq .fin with data := d256 }) 0 0 256 := by unfold goodWords; decide
theorem no_reductions (pin : Bool) (secs : SMap Sector) : NoReductions (sLine pin secs) := by
  refine ⟨fun i v h => ?_, fun _ => rfl⟩
  change v ∈ (smGet ({} : Slice) [(sliceOfLine 0x60, _)] i).lines at h
  unfold smGet at h
  split at h
  · simp at h; subst h; rfl
  · cases h
theorem witness_MaintenanceAndPrefetchAreAccepted :
    maintAccepts (sLine false [(0, ⟨.clean, []⟩)]) (on0 0 1 2 0 0) 7 0x30000 256
      ∧ maintAccepts (sLine false [(0, ⟨.clean, []⟩)]) (on0 0 1 2 0 0) 0 0x30000 256
      ∧ findSector (sLine false [(0, ⟨.clean, []⟩)]) 0x300 = some ⟨.clean, []⟩ ∧ regionOf 0x30000 = .user ∧ 0x30000 % 256 + 256 ≤ 256
      ∧ maintAccepts (sLine false []) (on0 0 1 2 0 0) 1 0x30000 256 ∧ findSector (sLine false []) 0x300 = none
      ∧ poisoned (sLine false []) 0x300 = false ∧ onLostPc (sLine false []) 0x300 = false
      ∧ (allocLine (settleLine (sLine false []) 0x60) 0x60).isSome = true ∧ waitingFor (sLine false []) 0x300 = []
      ∧ (let s := modCore sRun 0 (fun c => { c with maints := [⟨5, .F, 2, some 7, true⟩] })
         (coreOf s 0).maints.find? (fun z => z.id == 5) = some ⟨5, .F, 2, some 7, true⟩)
      ∧ issues sRun (on0 0 0 0 0 7) (some 1) = true ∧ (on0 0 0 0 0 7).b < 8 := by unfold maintAccepts; decide
theorem witness_MaintenanceAndPrefetchAreAccepted_sound :
    flawV (sLine false [(0, ⟨.clean, []⟩)]) 0x300 = {} ∧ waitingFor (sLine false [(0, ⟨.clean, []⟩)]) 0x300 = []
      ∧ smHas (sLine false []).mem.flaws 0x300 = false ∧ 0x300 ∉ (sLine false []).mem.broken
      ∧ flushWaits (sLine false []) (rangeOp (sLine false []) 0 2 0x30000 256 []) 2 0x30000 256 = false ∧ clockStopped sRun 0 = false
      ∧ flawV (sLine false [(0, ⟨.dirty, d256⟩)]) 0x300 = {} ∧ onLostPc (sLine false [(0, ⟨.dirty, d256⟩)]) 0x300 = false := by decide
theorem witness_MaintenanceEffects :
    (∀ fn ∈ [2, 3, 4, 5, 6, 7], maintAccepts (sLine false [(0, ⟨.dirty, d256⟩)]) (on0 0 1 2 0 0) fn 0x30000 256)
      ∧ findSector (sLine false [(0, ⟨.dirty, d256⟩)]) 0x300 = some ⟨.dirty, d256⟩ ∧ d256.length = 256
      ∧ findLine (sLine false []) 0x60 = some { line := 0x60 } ∧ onLostPc (sLine false []) 0x300 = false
      ∧ 256 ≤ 2048 - 0x30000 % 2048
      ∧ windowHeld (sLine false []) (sliceOfLine 0x60) + 1 ≤ pinLimit (sliceOf (sLine false []) (sliceOfLine 0x60))
      ∧ (let s := wrf (sLine false []) (VRG_SLICE_CFG (sliceOfLine 0x60)) VRG_SLICE_CFG_window_active 14
         maintAccepts s (on0 0 1 2 0 0) 6 0x30000 256
          ∧ pinLimit (sliceOf s (sliceOfLine 0x60)) < windowHeld s (sliceOfLine 0x60) + 1) := by
  unfold maintAccepts; decide
theorem witness_SliceRequestsAndWindows_requests :
    (let s : State := { sLine false [(0, ⟨.clean, [7]⟩)] with reqs := [rq .rdV] }
     reqOf s 4 = some (rq .rdV) ∧ (rq .rdV).phase = .rdV ∧ (rq .rdV).waiting = false ∧ regionOf (rq .rdV).src = .user
      ∧ reaches s (rq .rdV) ∧ waitingFor s 0x300 = [] ∧ (rq .rdV).kind = .move ∧ findSector s 0x300 = some ⟨.clean, [7]⟩)
    ∧ (let s : State := { sLine false [] with reqs := [rq .rdV] }
       reaches s (rq .rdV) ∧ findSector s 0x300 = none ∧ sliceBusy s (sliceOfLine 0x60) < 300 ∧ (pcBusy s (gpcOf 0x300) 0).1 < 55
        ∧ smFind? (sliceOf s (sliceOfLine 0x60)).hot (pcOfLine 0x60) = none)
    ∧ (let r := { rq .wrV with dst := 0x30000, data := d256 }
       let s : State := { sLine false [] with reqs := [r] }
       reqOf s 4 = some r ∧ reaches s r ∧ waitingFor s 0x300 = [] ∧ r.phase = .wrV ∧ r.prov = none ∧ r.op = 0 ∧ regionOf r.dst = .user ∧ r.dst % 256 = 0
        ∧ r.data.length = 256 ∧ findLine s 0x60 = some { line := 0x60 })
    ∧ (let r := { rq .rdV with sent := 2 }
       let s : State := { sLine false [] with reqs := [{ rq .rdV with id := 3, sent := 1 }, r] }
       reqOf s 4 = some r ∧ heldBySlot s (18468 + sliceOfAddr r.target) = false ∧ r.here = false ∧ behind s r = true) := by
  unfold reaches; decide
theorem witness_SliceRequestsAndWindows_window :
    sRun.boot.pg = true ∧ (12#4).toNat ≤ 12 ∧ rdb sRun (VRG_SLICE_CFG 143) VRG_SLICE_CFG_busy = false
      ∧ rdf sRun (VRG_SLICE_CFG 143) VRG_SLICE_CFG_window_active ≠ (12#4).toNat ∧ 12 < (13#4).toNat
      ∧ rdf sRun (VRG_SLICE_CFG 143) VRG_SLICE_CFG_window_active = (0#4).toNat
      ∧ rdb (wrb sRun (VRG_SLICE_CFG 143) VRG_SLICE_CFG_busy true) (VRG_SLICE_CFG 143) VRG_SLICE_CFG_busy = true
      ∧ setsFit (shrinkSets sRun 143 12) 143 = true := by decide
/-- A slice whose set is full of provisional sectors, beside a line whose sums belong to a closed buffer and a keeper whose hold list is
full. -/
def sNoRoom (x : Shard) : State :=
  let p : Partials := { op := 1, epoch := 0, age := 0, elems := [(0, 1)] }
  let s : State := { sRun with
    slices := [(sliceOfLine 36, { lines := [{ line := 36, red := some p }], prov := List.replicate 16 ⟨0, .F, 1, 0, []⟩ })]
    engines := [(stackOfLine 36, { shards := [(5, { x with closed := true })], pushes := List.replicate 256 ⟨36, p, 1⟩ })] }
  wrb s (VRG_SLICE_CFG (sliceOfLine 36)) VRG_SLICE_CFG_busy true

theorem witness_SliceRequestsAndWindows_sound :
    (let s : State := { sLine false [(0, ⟨.clean, [7]⟩)] with reqs := [rq .rdV] }
     sectorFree s (rq .rdV) 0x300 ∧ flawV s 0x300 = {})
    ∧ sectorFree { sLine false [] with reqs := [rq .rdV] } (rq .rdV) 0x300
    ∧ (let r := { rq .wrV with dst := 0x30000, data := d256 }
       sectorFree { sLine false [] with reqs := [r] } r 0x300) := by unfold sectorFree; decide
theorem witness_SectorFills :
    (let s : State := { sLine false [] with reqs := [rq .rdD] }
     waitingFor s 0x300 = [rq .rdD] ∧ (rq .rdD).kind = .move ∧ (rq .rdD).phase = .rdD ∧ poisoned s 0x300 = false ∧ onLostPc s 0x300 = false
      ∧ stackEcc s 0x300 (joinErrs [] (flawOf s 0x300).errs) (false || (flawOf s 0x300).astray) = .clean ∧ 0x300 ∉ s.mem.broken
      ∧ (flawOf s 0x300).once = false ∧ billOk (flawOf s 0x300) (dramRead s 0x300) = true
      ∧ findSector s 0x300 = none)
    ∧ (let s (b : Bool) : State := { setHalf sRun (halfKey 0 0) { misses := [{ sector := 0x300, req := 4, stale := b }] } with
           reqs := [rq .back] }
       reqOf (s true) 4 = some (rq .back) ∧ clockStopped (s true) 0 = false ∧ behind (s true) (rq .back) = false ∧ behind (s false) (rq .back) = false
        ∧ ∀ b, (((halfOf (s b) (missHalf (s b) (rq .back))).misses.find? (fun m => m.req == 4)).map (·.stale)).getD true = b)
    ∧ (let r := { rq .back with kind := .prefetch, filled := true }
       let s : State := { sLine false [(0, ⟨.clean, d256⟩)] with reqs := [r] }
       reqOf s 4 = some r ∧ r.bad = false ∧ behind s r = false ∧ clockStopped s 0 = false ∧ findSector s (r.src / 256) = some ⟨.clean, d256⟩) := by decide

/-- PF.CCH of a sector that Verge holds puts it into the half of core 0 (Table 08-4). -/
theorem test_prefetch_installs : ∃ t, exec (.pfCch (on0 0 1 2 0 0) []) (sLine false [(0, ⟨.clean, [7]⟩)]) = .next t
    ∧ (halfOf t (halfKey 0 (halfOfCore t 0))).lines.head?.map (·.sector) = some 0x300 := ⟨_, rfl, by decide⟩

/-! ### Witnesses: the matrix unit, conversions and the vector engine -/

/-- What keeps an interval free of planes, checked byte by byte. -/
theorem apart_of (ps : List Plane) (lo hi : Nat) (h : ∀ p ∈ ps, ∀ k < hi - lo, p.covers (lo + k) = false) :
    planesApart ps lo hi := by
  intro p hp b h1 h2
  have := h p hp (b - lo) (by omega)
  rwa [show lo + (b - lo) = b by omega] at this
/-- The room of a destination, checked element by element. -/
theorem room_of (c : VCtx) (d : VOp) (clash : List Plane) (h1 : c.rows ≤ 1 ∨ c.w * d.size ≤ d.pitch)
    (h2 : ∀ i < c.n, ∀ p ∈ clash, ∀ k < vAt c d i + d.size - vAt c d i, p.covers (vAt c d i + k) = false) : vRoom c d clash :=
  ⟨h1, fun i hi => apart_of _ _ _ (h2 i hi)⟩

/-- Shapes of 64 × 64 × 64, 2 × 2 × 1 and none, and operands, for the matrix unit. -/
def sMat : State :=
  run [(1, 64 + 64 * 2 ^ 8 + 64 * 2 ^ 16), (2, 128 * 2 ^ 32), (3, 0x2000 + 128 * 2 ^ 32), (4, 2 + 2 * 2 ^ 8 + 2 ^ 16),
    (5, 0x100 + 16 * 2 ^ 32), (6, 0x200 + 16 * 2 ^ 32), (7, 2 ^ 8 + 2 ^ 16), (8, 0x4000 * 2 ^ 32 + 0x5000)]
/-- An MMA, and a drain, that are outstanding on tile 3. -/
def opOn3 (k : OpKind) : CoreOp := { id := 7, stream := .F, kind := k, addr := 0x8000, tile := some 3, nf := true, newly := true, cause := 1 }
/-- Core 0 with an operation outstanding. -/
def sHeld (o : CoreOp) : State := modCore sRun 0 (fun c => { c with ops := [o] })

theorem witness_MatrixMultiply :
    (let x := on0 1 2 3 0 (3 * 2 ^ 22 + 4 * 2 ^ 19 + 4 * 2 ^ 16)
     issues sMat x (some 2) = true ∧ bitsN x.b 12 0 = 0 ∧ shapeOf ((strm sMat x).reg x.r0) = some (64, 64, 64)
      ∧ tileOperand ((strm sMat x).reg x.r1) = some (0, 128) ∧ tileOperand ((strm sMat x).reg x.r2) = some (0x2000, 128)
      ∧ formatOf (strm sMat x) (mFa x) = some 4 ∧ formatOf (strm sMat x) (mFb x) = some 4 ∧ pairClass (mFa x) ≠ 1 ∧ x.r3 = 0
      ∧ 64 ≤ kLimit (mFa x) ∧ (strm sMat x).sect = none ∧ mTile x = 3
      ∧ planeCheck [mmaPlane false (mLa x) 2 0 128 64 64, mmaPlane false (mLb x) 2 0x2000 128 64 64] = none
      ∧ planesBad sMat 0 [mmaPlane false (mLa x) 2 0 128 64 64, mmaPlane false (mLb x) 2 0x2000 128 64 64] .clean = none)
    ∧ shapeOf ((strm sMat (on0 7 2 3 0 0)).reg 7) = some (0, 1, 1) := by decide
theorem witness_MatrixMultiply_scaled :
    let x := on0 4 5 6 8 (2 * 2 ^ 19 + 3 * 2 ^ 16)
    issues sMat x (some 2) = true ∧ pairClass (mFa x) = 1 ∧ pairClass (mFb x) = 1 ∧ mLa x = false ∧ mLb x = false ∧ x.r3 < 48
      ∧ onlyBits ((strm sMat x).reg x.r3) [(48, 32), (16, 0)] = true ∧ shapeOf ((strm sMat x).reg x.r0) = some (2, 2, 1)
      ∧ planeCheck ([mmaPlane false false 1 0x100 16 2 1, mmaPlane false false 1 0x200 16 2 1] ++ mmaScales x ((strm sMat x).reg 8) 2 2 1)
        = none := by decide
theorem witness_TilesAreSet :
    issues sMat (on0 0 0 0 0 0xC00000) (some 2) = true ∧ mPlain (on0 0 0 0 0 0xC00000) = true ∧ bitsN (on0 0 0 0 0 0xC00000).b 13 0 = 0
      ∧ (let x := on0 4 5 6 0 0xC00000
         issues sMat x (some 2) = true ∧ x.r3 = 0 ∧ mPlain x = true ∧ shapeOf ((strm sMat x).reg x.r0) = some (2, 2, 1)
          ∧ tileOperand ((strm sMat x).reg x.r1) = some (0x100, 16) ∧ tileOperand ((strm sMat x).reg x.r2) = some (0x200, 16)
          ∧ tileOps (coreOf sMat 0) (mTile x) = [] ∧ planeCheck [⟨0x100, 16, 2, 8, 4⟩, ⟨0x200, 16, 2, 4, 2⟩] = none
          ∧ planesBad sMat 0 [⟨0x100, 16, 2, 8, 4⟩, ⟨0x200, 16, 2, 4, 2⟩] .clean = none)
      ∧ issues sMat (on0 47 0 0 0 0xC00000) (some 2) = true ∧ (on0 47 0 0 0 0xC00000).r0 < 48 := by decide
theorem witness_TilesDrain :
    let x := on0 4 5 6 0 (3 * 2 ^ 22 + 2 ^ 13)
    issues sMat x (some 2) = true ∧ mPlain x = true ∧ bitsN x.b 12 0 = 0 ∧ shapeOf ((strm sMat x).reg x.r0) = some (2, 2, 1)
      ∧ tileOps (coreOf sMat 0) (mTile x) = [] ∧ planesEdge sMat 0 [⟨0x100, 16, 2, 8, 4⟩, ⟨0x200, 16, 2, 4, 2⟩] .clean = none
      ∧ shapeOf ((strm sMat (on0 7 5 6 0 0)).reg 7) = some (0, 1, 1) ∧ issues sMat (on0 4 5 0 0 0) (some 2) = true
      ∧ planeCheck [⟨0x100, 16, 2, 8, 4⟩, ⟨0x200, 16, 2, 4, 2⟩] = none ∧ linesApart ⟨0x100, 16, 2, 8, 4⟩
      ∧ linesApart ⟨0x200, 16, 2, 4, 2⟩ ∧ DrainForm.f32s.size = 4
      ∧ (∀ i < 2, ∀ i' < 2, 0x100 + i * 16 + 4 * 2 ≤ 0x200 + i' * 16 ∨ 0x200 + i' * 16 + 2 * 2 ≤ 0x100 + i * 16) := by
  unfold linesApart; decide
theorem witness_MatrixOperationsComplete :
    (∀ k ∈ [OpKind.mma, .drain], opOf (sHeld (opOn3 k)) 0 7 = some (opOn3 k) ∧ (opOn3 k).tile = some 3
      ∧ oldestOnTile (sHeld (opOn3 k)) 0 (opOn3 k) = true ∧ clockStopped (sHeld (opOn3 k)) 0 = false ∧ (strOf (sHeld (opOn3 k)) 0 .F).sect = none
      ∧ (strOf (sHeld (opOn3 k)) 0 .F).st = .running)
    ∧ rdb (wrb (sHeld (opOn3 .mma)) (CORE_MXU_CFG 0) CORE_MXU_CFG_nf_fault true) (CORE_MXU_CFG 0) CORE_MXU_CFG_nf_fault = true
    ∧ rdb (sHeld (opOn3 .mma)) (CORE_MXU_CFG 0) CORE_MXU_CFG_nf_fault = false
    ∧ (strOf (modStr (sHeld (opOn3 .mma)) 0 .F (fun x => { x with sect := some zOpen })) 0 .F).sect = some zOpen := by decide

/-- Operands of the conversions: FP32 at 0x100, MXFP8 at 0x400 with scales at 0x500, two elements. -/
def sCvt : State := run [(1, 0x400 + 0x500 * 2 ^ 32), (2, 0x100), (3, 2), (4, 0x3F800000), (5, 0x300), (6, 9)]

theorem witness_Conversions :
    (let x := on0 47 1 2 3 (2 * 2 ^ 20 + 6 * 2 ^ 16)
     issues sCvt x (some 3) = true ∧ bitsN x.b 15 0 = 0 ∧ cvtFormat (strm sCvt x) (xFd x) = some 2
      ∧ cvtFormat (strm sCvt x) (xFs x) = some 6 ∧ xOperand (blockLen 2 ≠ 0) ((strm sCvt x).reg 1) = some (0x400, 0x500)
      ∧ xOperand (blockLen 6 ≠ 0) ((strm sCvt x).reg 2) = some (0x100, 0) ∧ pairAllowed 2 6 = true
      ∧ onlyBits ((strm sCvt x).reg x.r3) [(31, 24), (13, 0)] = true ∧ bits ((strm sCvt x).reg x.r3) 13 0 = 2
      ∧ planeCheck (xPlanes 2 0x400 0x500 2 ++ xPlanes 6 0x100 0 2) = none
      ∧ wordsBad sCvt 0 (xPlanes 6 0x100 0 2) (xPlanes 2 0x400 0x500 2) .clean = none)
    ∧ planesApart (xPlanes 6 0x100 0 2) 0x400 (0x400 + 2 * cvtBytes 2)
    ∧ planesApart (xPlanes 6 0x100 0 2 ++ [⟨0x400, 0, 1, 2 * cvtBytes 2, 1⟩]) 0x500
        (0x500 + (2 + blockLen 2 - 1) / blockLen 2 * scaleBytes 2) :=
  ⟨by decide, apart_of _ _ _ (by decide), apart_of _ _ _ (by decide)⟩
theorem witness_ScalesAndRandomValues :
    (let x := on0 47 4 0 0 (5 * 2 ^ 12 + 7 * 2 ^ 8)
     issues sCvt x (some 3) = true ∧ bitsN x.b 35 0 < 65536 ∧ bitsN (bitsN x.b 35 0) 15 12 = 5 ∧ bitsN (bitsN x.b 35 0) 11 11 = 0
      ∧ f32 (bits ((strm sCvt x).reg x.r1) 30 0) = .fin false (2 ^ 23) (-23) ∧ isZero (f32 (bits ((strm sCvt x).reg 7) 30 0)) = true)
    ∧ (let x := on0 6 5 6 3 0
       issues sCvt x (some 3) = true ∧ bitsN x.b 23 0 = 0 ∧ xOperand false ((strm sCvt x).reg x.r1) = some (0x300, 0)
        ∧ onlyBits ((strm sCvt x).reg x.r3) [(13, 0)] = true ∧ bits ((strm sCvt x).reg x.r0) 63 48 ≠ 0xFFFF
        ∧ planeCheck [⟨0x300, 0, 1, 4, 2⟩] = none ∧ planesEdge sCvt 0 [⟨0x300, 0, 1, 4, 2⟩] .clean = none)
    ∧ issues sCvt (on0 0 5 0 3 0) (some 3) = true ∧ bits ((strm sCvt (on0 0 5 0 0 0)).reg 0) 13 0 = 0
    ∧ issues sCvt (on0 0 5 0 0 0) (some 3) = true := by decide

/-- Two rows of two FP32 elements at 0x100, 0x200, 0x300 and 0x400; the count register is s5, vectors and pairs above. -/
def sVec : State :=
  run [(1, 0x100 + 16 * 2 ^ 32), (2, 0x200 + 16 * 2 ^ 32), (3, 0x300 + 16 * 2 ^ 32), (4, 0x400 + 16 * 2 ^ 32),
    (5, 4 + 2 * 2 ^ 16), (6, 0x500), (7, 0x600), (10, 0x700 + 0x800 * 2 ^ 32), (12, 0x700)]
/-- The format fields of the instructions below: count register s5, FP32 to FP32. -/
def lo5 : Nat := 5 * 2 ^ 18 + 6 * 2 ^ 10 + 6 * 2 ^ 6
/-- Their context. -/
def c4 : VCtx := ⟨4, 2, 0, 6, 6, false⟩
/-- A tile of theirs at an offset. -/
def tl (off : Nat) : VOp := ⟨off, 16, 4, [⟨off, 16, 1, 8, 4⟩, ⟨off + 16, 0, 1, 8, 4⟩]⟩
/-- A tile of bytes. -/
def tlB (off : Nat) : VOp := ⟨off, 16, 1, [⟨off, 16, 1, 2, 1⟩, ⟨off + 16, 0, 1, 2, 1⟩]⟩

theorem witness_ElementwiseVectors_arith :
    (let x := on0 4 1 2 0 lo5
     x.r3 = 0 ∧ vBc x = 0 ∧ vTile c4 (strm sVec x) x.r1 4 false = some (tl 0x100)
      ∧ vSrc x c4 (strm sVec x) x.r2 (vBb x) = some ⟨some (tl 0x200), 0, 0⟩
      ∧ vTile c4 (strm sVec x) x.r0 (fmtBytes c4.fd) (vFd x == 7) = some (tl 0x400)
      ∧ vAccepts sVec x c4 false [tl 0x100, tl 0x200] [tl 0x400] .clean)
    ∧ vRoom c4 (tl 0x400) (clashOf (tl 0x400) [tl 0x100, tl 0x200]) :=
  ⟨by unfold vAccepts; decide, room_of _ _ _ (by decide) (by decide)⟩
theorem witness_ElementwiseVectors_fma :
    (let x := on0 4 1 2 3 lo5
     vSrc x c4 (strm sVec x) x.r3 (vBc x) = some ⟨some (tl 0x300), 0, 0⟩
      ∧ vAccepts sVec x c4 false [tl 0x100, tl 0x200, tl 0x300] [tl 0x400] .clean)
    ∧ vRoom c4 (tl 0x400) (clashOf (tl 0x400) [tl 0x100, tl 0x200, tl 0x300]) :=
  ⟨by unfold vAccepts; decide, room_of _ _ _ (by decide) (by decide)⟩
theorem witness_ElementwiseVectors_unary_and_drop :
    (let x := on0 4 1 0 0 lo5
     x.r2 = 0 ∧ x.r3 = 0 ∧ vBb x = 0 ∧ vBc x = 0 ∧ vAccepts sVec x c4 false [tl 0x100] [tl 0x400] .clean)
    ∧ (let x := on0 4 1 6 7 lo5
       x.r2 < 48 ∧ x.r3 < 48 ∧ vAccepts sVec x c4 true [tl 0x100] [tl 0x400] .clean
        ∧ bits ((strm sVec x).reg x.r2) 63 48 ≠ 0xFFFF)
    ∧ vRoom c4 (tl 0x400) (clashOf (tl 0x400) [tl 0x100]) :=
  ⟨by unfold vAccepts; decide, by unfold vAccepts; decide, room_of _ _ _ (by decide) (by decide)⟩
theorem witness_ActivationSlopes :
    (let x := on0 4 1 2 0 lo5
     vTile c4 (strm sVec x) x.r2 1 false = some (tlB 0x200) ∧ vAccepts sVec x c4 false [tl 0x100] [tl 0x400, tlB 0x200] .clean)
    ∧ vRoom c4 (tl 0x400) (clashOf (tl 0x400) [tl 0x100] ++ (tlB 0x200).planes)
    ∧ vRoom c4 (tlB 0x200) (clashOf (tlB 0x200) [tl 0x100] ++ (tl 0x400).planes) :=
  ⟨by unfold vAccepts; decide, room_of _ _ _ (by decide) (by decide), room_of _ _ _ (by decide) (by decide)⟩
theorem witness_ActivationSlopes_backward :
    (let x := on0 4 1 2 0 lo5
     vTile c4 (strm sVec x) x.r1 1 false = some (tlB 0x100) ∧ vTile c4 (strm sVec x) x.r2 4 false = some (tl 0x200)
      ∧ vAccepts sVec x c4 false [tlB 0x100, tl 0x200] [tl 0x400] .clean
      ∧ vAccepts sVec x c4 false [tl 0x100, tl 0x200] [tl 0x400] .clean)
    ∧ vRoom c4 (tl 0x400) (clashOf (tl 0x400) [tlB 0x100, tl 0x200])
    ∧ vRoom c4 (tl 0x400) (clashOf (tl 0x400) [tl 0x100, tl 0x200]) :=
  ⟨by unfold vAccepts; decide, room_of _ _ _ (by decide) (by decide), room_of _ _ _ (by decide) (by decide)⟩
theorem witness_RowReductionsAndSoftmax_rows :
    (let x := on0 6 1 0 0 lo5
     vVec (strm sVec x) x.r0 4 4 4 false = some ⟨0x500, 0, 4, [⟨0x500, 0, 1, 16, 4⟩]⟩
      ∧ vAccepts sVec x c4 false [tl 0x100] [⟨0x500, 0, 4, [⟨0x500, 0, 1, 16, 4⟩]⟩] .clean)
    ∧ planesApart (clashOf ⟨0x500, 0, 4, [⟨0x500, 0, 1, 16, 4⟩]⟩ [tl 0x100]) 0x500 (0x500 + 2 * c4.rows * 4)
    ∧ (let x := on0 4 1 6 0 lo5
       vVec (strm sVec x) x.r2 1 ((c4.n + 7) / 8) 0 false = some ⟨0x500, 0, 1, [⟨0x500, 0, 1, 1, 0⟩]⟩
        ∧ vAccepts sVec x c4 false [tl 0x100, ⟨0x500, 0, 1, [⟨0x500, 0, 1, 1, 0⟩]⟩] [tl 0x400] .clean)
    ∧ vRoom c4 (tl 0x400) (clashOf (tl 0x400) [tl 0x100, ⟨0x500, 0, 0, [⟨0x500, 0, 1, 1, 0⟩]⟩]) :=
  ⟨by unfold vAccepts; decide, apart_of _ _ _ (by decide), by unfold vAccepts; decide, room_of _ _ _ (by decide) (by decide)⟩
theorem witness_RowReductionsAndSoftmax_softmax :
    (let x := on0 4 1 0 6 lo5
     vVec (strm sVec x) x.r3 4 (2 * c4.rows) 4 false = some ⟨0x500, 0, 4, [⟨0x500, 0, 1, 16, 4⟩]⟩
      ∧ vAccepts sVec x c4 true [tl 0x100] [tl 0x400, ⟨0x500, 0, 4, [⟨0x500, 0, 1, 16, 4⟩]⟩] .clean)
    ∧ vRoom c4 (tl 0x400) (clashOf (tl 0x400) [tl 0x100] ++ [⟨0x500, 0, 1, 16, 4⟩])
    ∧ planesApart ((tl 0x100).planes ++ (tl 0x400).planes) 0x500 (0x500 + 8 * c4.rows) :=
  ⟨by unfold vAccepts; decide, room_of _ _ _ (by decide) (by decide), apart_of _ _ _ (by decide)⟩
theorem witness_Normalisations_forward :
    (let x := on0 4 1 0 10 lo5
     vBc x ≤ 1 ∧ normOps x (strm sVec x) true false = some ⟨0x700, 0x800, 0⟩
      ∧ vAccepts sVec x c4 true (tl 0x100 :: normAux ⟨0x700, 0x800, 0⟩ c4 false false) [tl 0x400] .clean)
    ∧ vRoom c4 (tl 0x400) (clashOf (tl 0x400) (tl 0x100 :: normAux ⟨0x700, 0x800, 0⟩ c4 false false))
    ∧ normOps (on0 4 1 0 12 lo5) (strm sVec (on0 4 1 0 12 lo5)) false false = some ⟨0x700, 0, 0⟩ :=
  ⟨by unfold vAccepts; decide, room_of _ _ _ (by decide) (by decide), by decide⟩
theorem witness_Normalisations_backward :
    (let x := on0 4 1 2 10 lo5
     vBb x = 0 ∧ vBc x = 0 ∧ normOps x (strm sVec x) true false = some ⟨0x700, 0x800, 0⟩
      ∧ vAccepts sVec x c4 true [tl 0x100, tl 0x200, planeOp ⟨0x700, 0, 1, 8, 4⟩, planeOp ⟨0x800, 0, 1, 8, 4⟩,
          planeOp ⟨0x808, 0, 1, 8, 4⟩] [tl 0x400] .clean)
    ∧ planesApart (clashOf (planeOp ⟨0x800, 0, 1, 8, 4⟩) [tl 0x100, tl 0x200, planeOp ⟨0x700, 0, 1, 8, 4⟩,
        planeOp ⟨0x800, 0, 1, 8, 4⟩, planeOp ⟨0x808, 0, 1, 8, 4⟩] ++ (tl 0x400).planes) 0x800 (0x800 + 4 * 2)
    ∧ (let x := on0 0 1 2 10 (lo5 + 2 ^ 14)
       x.r0 = 0 ∧ vBc x = 1 ∧ normOps x (strm sVec x) true true = some ⟨0x700, 0x800, 0⟩
        ∧ vAccepts sVec x c4 false [tl 0x100, tl 0x200, planeOp ⟨0x700, 0, 1, 8, 4⟩, planeOp ⟨0x800, 0, 1, 8, 4⟩,
            planeOp ⟨0x808, 0, 1, 8, 4⟩, planeOp ⟨0, 16, 2, 16, 4⟩] [] .clean) :=
  ⟨by unfold vAccepts; decide, apart_of _ _ _ (by decide), by unfold vAccepts; decide⟩
theorem witness_VectorFlags :
    issues sVec (on0 47 0 0 0 0) (some 3) = true ∧ bitsN (on0 47 0 0 0 0).b 41 0 = 0
      ∧ (∀ o ∈ (coreOf sVec 0).ops, o.stream = .F → o.kind ≠ .vector)
      ∧ (let o : CoreOp := { opOn3 .vector with vnf := some (8191, true, false), vempty := some (1, 2), fault := true }
         clockStopped (sHeld o) 0 = false ∧ opOf (sHeld o) 0 7 = some o ∧ o.kind = .vector
          ∧ ((coreOf (sHeld o) 0).ops.filter (fun q => q.kind == .vector)).head?.map (·.id) = some 7
          ∧ (strOf (sHeld o) 0 .F).sect = none ∧ (strOf (sHeld o) 0 .F).st = .running
          ∧ rdb (sHeld o) (CORE_VEC_FLAGS 0 0) CORE_VEC_FLAGS_nonfinite = false ∧ o.cause ≠ 0)
      ∧ bit (0x9000000000000000 : Word) 63 = true ∧ bit (0x9000000000000000 : Word) 60 = true ∧ bit (0 : Word) 63 = false := by decide

/-- ACC.ZERO initialises its tile (R189). -/
theorem test_acc_zero : ∃ t, exec (.accZero (on0 0 0 0 0 0xC00000)) sRun = .next t ∧ tileElem (coreOf t 0) 3 63 63 = (0, 0)
    ∧ (strm t xAlu).pc = 0x10008 := ⟨_, rfl, by decide, by decide⟩
/-- SCALE of a zero magnitude gives the fallback (R206). -/
theorem test_scale_fallback : ∃ t, exec (.scale (on0 7 8 0 0 0xFF)) sCvt = .next t ∧ (strm t xAlu).reg 7 = -1 :=
  ⟨_, rfl, by decide⟩

/-! ### Witnesses: configuration registers and milestones -/

/-- The device ready, its firmware running, its host link up. -/
def sReady : State :=
  { wrf State.reset PWR_BOOT PWR_BOOT_state 2 with
    pow := { on := true }, sec := { running := true }, host := { linkUp := true }, boot := { pg := true, perst := false, sampled := true, released := true } }
/-- The device ready and taking part in milestones, the next one due at 300000. -/
def sStage (m : Mst) : State := { wrb sReady MST_CTRL MST_CTRL_enable true with mst := { m with joined := true } }
/-- A device of a ring of two, with coordinate `me` where the other is the root or itself, its port 0 Active. -/
def sPair (me : Nat) : State :=
  let s := wrf (wrf (wrb (sStage {}) CWY_SELF_ID CWY_SELF_ID_id_valid true) CWY_SELF_ID CWY_SELF_ID_device_id me) (CWY_PORT_STATUS 0)
    CWY_PORT_STATUS_state 5
  wrb (wrf s CWY_FABRIC_CFG CWY_FABRIC_CFG_ring_m1 1) MST_STATUS MST_STATUS_is_root (me == 0)

/-- What the root announces. -/
def rw0 (t : Nat) : RootWord :=
  { time := t, stage := 7, period := 250000, slot := 20, lead := 200, limit := 100000, ext := false }

theorem witness_RegisterWrites :
    (pathWrites sReady .mgmt ∧ pathWrites sReady .host ∧ pathWrites sReady .monitor ∧ pathWrites sReady .peerMgmt) ∧ accessOk MST_STATUS 8 = true ∧ accessOk (MST_STATUS + 4) 4 = true
      ∧ (MST_STATUS + 4) / 8 * 8 ∈ heldRegs ∧ MST_STAGE / 8 * 8 ∈ shownRegs ∧ layoutAt MST_STATUS ≠ []
      ∧ 4 < configMapped ∧ accessOk 4 8 = false ∧ accessOk 0 2 = false ∧ hostArrives sReady = true
      ∧ sReady.pcie.d3hot = false ∧ sReady.boot.rb = 0 ∧ State.reset.sec.running = false := by
  refine ⟨?_, by decide, by decide, by decide, by decide, by decide, by decide, by decide, by decide, by decide, by decide, by decide,
    by decide⟩
  unfold pathWrites hostNow; decide
theorem witness_MilestonesOpenStages :
    fireTime State.reset (rw0 0) = none ∧ fireTime (sStage { due := some 300000, sampled := true }) (rw0 0) = some 300000
      ∧ fireTime (modMst (sPair 1) (fun m => { m with joined := false })) (rw0 5000) = some 5000
      ∧ fireTime (modMst (sPair 1) (fun m => { m with joined := false, enabledAt := 4001 })) (rw0 5000) = none
      ∧ keepState (sStage {}) ≠ 1 ∧ (sStage {}).mst.told = none ∧ takesPart (sStage {}) = true ∧ (sStage {}).mst.sampled = false
      ∧ member (sStage {}) = true ∧ member sReady = false ∧ keepState sReady ≠ 2 := by decide
theorem witness_MilestonesOpenStages_late_sample :
    lateHolds (planEvaluate (advanceTo { sStage {} with cores := [(0, { f := { st := .running } })] }
      (samplePoint { sStage {} with cores := [(0, { f := { st := .running } })] }))) ≠ [] := by decide
theorem witness_MilestonesOpenStages_stretch :
    (let s := sStage { due := some 300000, seen := true, late := [(0, 5, 0)] }
     s.mst.due = some 300000 ∧ member s = true ∧ s.mst.seen = true ∧ s.mst.limitHit = false ∧ s.mst.limit ≠ 0 ∧ (0, 5, 0) ∈ s.mst.late)
    ∧ (sStage {}).mst.seen = false ∧ deviceReady sReady = true ∧ rdb sReady MST_CTRL MST_CTRL_enable = false ∧ isRoot sReady = true
    ∧ inFabric sReady = false ∧ tickInput sReady = false
    ∧ (let s := wrb (sPair 1) MST_CTRL MST_CTRL_enable false
       deviceReady s = true ∧ rdb s MST_CTRL MST_CTRL_enable = false ∧ isRoot s = false) := by decide
theorem witness_LateTreeSignals :
    portActive (sPair 0) 0 = true ∧ member (sPair 0) = true ∧ stageNow (sPair 0) % 4096 = (0#12).toNat
      ∧ (sPair 0).fab.lateFor ≠ some (stageNow (sPair 0))
      ∧ (let s := wrb (sPair 1) MST_CTRL MST_CTRL_enable false
         portActive s 0 = true ∧ member s = false ∧ s.fab.lateFor ≠ some (3#12).toNat ∧ fromParent s 0 = true)
      ∧ (let s := modFab (sPair 0) (fun f => { f with lateFor := some 4097 })
         s.fab.lateFor.map (· % 4096) = some (1#12).toNat ∧ portNeighbour s 0 ∈ children s ∧ portNeighbour s 0 ∉ s.fab.clears
          ∧ portActive s 0 = true)
      ∧ portActive (sPair 1) 0 = true ∧ fromParent (sPair 1) 0 = true ∧ member (sPair 1) = true
      ∧ portNeighbour (sPair 1) 0 ∉ children (sPair 1)
      ∧ inFabric (sPair 1) = true ∧ isRoot (sPair 1) = false ∧ parentOf (sPair 1) (selfId (sPair 1)) = some 0 ∧ portTo (sPair 1) 0 = some 0
      ∧ inFabric sReady = false ∧ portActive (sPair 0) 35 = false := by decide
theorem witness_LateTreeSignals_frames : controlFits (sPair 1) 0 ∧ (sPair 1).mst.told = none := by unfold controlFits; decide
/-- The device with the tick pin as its input. -/
def sTick (m : Mst) : State := wrf (sStage m) MST_TICK_PIN MST_TICK_PIN_mode 1
theorem witness_TicksAndTimingRequests_edges :
    (let s := sTick { opened := 1000 }
     takesPart s = true ∧ isRoot s = true ∧ tickInput s = true ∧ s.mst.joined = true ∧ s.mst.due = none
      ∧ 2 * s.mst.opened + periodNs s ≤ 2 * 126000 ∧ 126000 < nominal s - leadNs s ∧ s.mst.sampled = false
      ∧ 2 * 125999 < 2 * s.mst.opened + periodNs s ∧ member s = true)
    ∧ (let s := sTick { opened := 1000, due := some 501000, tickLost := true }
       s.mst.tickLost = true ∧ s.mst.seen = false)
    ∧ (let s := sTick { opened := 1000, due := some 251000 }
       s.mst.due.isSome = true ∧ s.mst.tickLost = false)
    ∧ (let s := sTick { opened := 1000, due := some 251000, seen := true }
       s.mst.seen = true ∧ ∃ d ∈ s.mst.due, d ≤ 252000) := by
  refine ⟨by decide, by decide, by decide, by decide, 251000, rfl, by decide⟩
theorem witness_TicksAndTimingRequests :
    rdf sReady (SEC_OWN 0) SEC_OWN_owner = 0 ∧ deviceReady sReady = true
    ∧ (sStage {}).mst.release = none ∧ (sStage {}).mst.seen = false ∧ tickInput (sStage {}) = false ∧ isRoot (sStage {}) = true
    ∧ rdf (wrf sReady (SEC_OWN 0) SEC_OWN_owner 2) (SEC_OWN 0) SEC_OWN_owner = 2
    ∧ isRoot sReady = true ∧ timingCheck sReady .slot 100 = some 100 ∧ timingCheck sReady .slot 101 = none
    ∧ isRoot (sPair 1) = false ∧ inFabric (sPair 1) = true
    ∧ (electionWinner (candidates (sPair 1) [⟨0, false, 7, 3⟩])).isSome = true := by decide

/-- The first milestone opens stage 1 and the streams that wait for a milestone run (R58, R66). -/
theorem test_milestone_opens : ∃ t, exec (.milestone ⟨rw0 0, []⟩)
    { sStage { due := some 300000, sampled := true } with cores := [(0, { f := { st := .waiting } })] } = .next t
    ∧ stageNow t = 1 ∧ (strOf t 0 .F).st = .running := ⟨_, rfl, by decide, by decide⟩

/-! ### Witnesses: the Kerb engines -/

/-- A shard of one row and one column with one contribution expected. -/
def sh1 : Shard :=
  { gen := 0, rows := 1, cols := 1, master := 0x10000, moments := 0x11000, grad := 0x12000, set0 := 0x13000, set1 := 0, residual := 0,
    bitmap := 0, survey := 0, expected := 1, epoch := 0, salt := 0, fp8 := false, transp := false, twoSets := false, gradBf16 := false,
    q8 := false, opt := 0, replica := false, ownerDev := 0, ownerHdl := 0 }
/-- A Kerb command of core 0's stream F, with counter 2. -/
def kc (op : Nat) (a0 a1 : Word) : KCmd :=
  { id := 3, src := .core 0 .F (some 2), op := op, handle := 5, status := 0, arg0 := a0, arg1 := a1, arg2 := 0, span := 7 }
/-- Engine 0 with that command, shard 5 and the leases given, core 0 running. -/
def sKrb (c : KCmd) (x : Shard) (ls : SMap Lease) : State :=
  { sRun with engines := [(0, { shards := [(5, x)], leases := ls, cmds := [c] })] }
/-- A lease of shard 5. -/
def ls5 (v : Nat) (r : Bool) : Lease := { shard := 5, version := v, granted := 0, until_ := 0, replica := 0, holder := 0, revoked := r }
theorem witness_SliceRequestsAndWindows_no_room :
    rdb (sNoRoom sh1) (VRG_SLICE_CFG (sliceOfLine 36)) VRG_SLICE_CFG_busy = true ∧ sliceOfLine 36 < 144
      ∧ setsFit (shrinkSets (sNoRoom sh1) (sliceOfLine 36) 12) (sliceOfLine 36) = false := by decide +kernel
/-- The record of that shard (Table 09-2). -/
def rec1 : List Byte :=
  [2 ^ 32 + 1, 0x10000, 0x11000, 0x12000, 0x13000, 0, 0, 0, 0, 2 ^ 48, 0, 0, 0, 0, 0, 0].flatMap (fun w => bytesOf 8 w)
/-- The command block of a RELEASE for this device and engine 0. -/
def blk4 : RoLine := ⟨.desc, 0x300, ([4 * 2 ^ 56 + 5, 0, 0, 0, 0, 0, 7, 0].flatMap (fun w => bytesOf 8 w))⟩

theorem witness_KerbCommands_kcmd :
    let s := wrb (modCore sMov 0 (fun c => { c with ro := [blk4] })) CWY_SELF_ID CWY_SELF_ID_id_valid true
    let x := on0 2 28 0 0 0
    issues s x (some 1) = true ∧ bitsN x.b 37 36 = 0 ∧ x.r0 < 48 ∧ (strm s x).sect = none ∧ roReadable s 0x30000 64 = true
      ∧ kerbOpen s 0 .F < 8 ∧ slotFree s 0 .F = true
      ∧ (coreOf s 0).ro.find? (fun z => z.kind == .desc && z.line == localForm s 0x30000 / 256) = some blk4 ∧ 0x30000 % 64 = 0
      ∧ kblockOf ((upto 8).map (wordAt ((blk4.data.drop 0).take 64))) = some ⟨4, 0, 5, 0, 0, 0, 0, 0, 7⟩
      ∧ knownDevice s 0 = true ∧ selfId s = 0 ∧ rdb s CWY_SELF_ID CWY_SELF_ID_id_valid = true ∧ handleEngine 5 < 36
      ∧ cmdsIn s 0 .queued < 64 ∧ cmdsIn s 0 .offered = 0 := by decide
theorem witness_KerbCommands_open :
    (let s : State := { sKrb (kc 1 0x20000 0) sh1 [] with mem := memWrite {} 0x20000 rec1 }
     kerbRuns s 0 3 1 (kc 1 0x20000 0) ∧ (kc 1 0x20000 0).arg0.toNat % 128 = 0
      ∧ (upto 1024).find? (fun j => !smHas (engOf s 0).shards j) = some 0
      ∧ (engineRead s .kerb 0x20000 128).1 = some rec1 ∧ shardOfRecord (engineRead s .kerb 0x20000 128).2 rec1 0 = some sh1)
    ∧ (engineRead (sKrb (kc 1 0x20000 0) sh1 []) .kerb 0x20000 128).1 = some (List.replicate 128 0)
    ∧ shardOfRecord (engineRead (sKrb (kc 1 0x20000 0) sh1 []) .kerb 0x20000 128).2 (List.replicate 128 0) 0 = none := by unfold kerbRuns; decide
theorem witness_KerbCommands_close :
    kerbRuns (sKrb (kc 2 0 0) sh1 []) 0 3 2 (kc 2 0 0) ∧ kerbNames (sKrb (kc 2 0 0) sh1 []) 0 (kc 2 0 0) 5 sh1
      ∧ liveLeases (sKrb (kc 2 0 0) sh1 []) 0 5 = [] ∧ sh1.accepted = 0 ∧ sh1.partialsC = []
      ∧ liveLeases (sKrb (kc 2 0 0) sh1 [(0, ls5 0 false)]) 0 5 ≠ [] := by unfold kerbRuns kerbNames; decide
theorem witness_KerbCommands_lease :
    let c := kc 3 0xFFFFFFFF 0
    kerbRuns (sKrb c { sh1 with version := 2 } []) 0 3 3 c ∧ kerbNames (sKrb c { sh1 with version := 2 } []) 0 c 5 { sh1 with version := 2 }
      ∧ sh1.replica = false ∧ bits c.arg0 31 0 = 0xFFFFFFFF
      ∧ (upto 4096).find? (fun j => !smHas (engOf (sKrb c { sh1 with version := 2 } []) 0).leases j) = some 0
      ∧ c.value ≠ 1 ∧ bits (kc 3 1 0).arg0 31 0 ≠ 0xFFFFFFFE ∧ sh1.version = 0 := by unfold kerbRuns kerbNames; decide
theorem witness_KerbCommands_lease_parks :
    let c := kc 3 0xFFFFFFFE 0
    kerbRuns (sKrb c sh1 []) 0 3 3 c ∧ kerbNames (sKrb c sh1 []) 0 c 5 sh1 ∧ bits c.arg0 31 0 = 0xFFFFFFFE ∧ c.value = 0
      ∧ cmdsIn (sKrb c sh1 []) 0 .parked < 64 := by unfold kerbRuns kerbNames; decide
theorem witness_KerbCommands_release :
    (∀ r, kerbRuns (sKrb (kc 4 9 0) sh1 [(9, ls5 0 r)]) 0 3 4 (kc 4 9 0)
      ∧ smFind? (engOf (sKrb (kc 4 9 0) sh1 [(9, ls5 0 r)]) 0).leases 9 = some (ls5 0 r))
    ∧ smFind? (engOf (sKrb (kc 4 9 0) sh1 []) 0).leases (bits (kc 4 9 0).arg0 11 0) = none
    ∧ (let c : KCmd := { kc 6 0 0 with phase := .parked }
       let x := { sh1 with accepted := 1 }
       findCmd (sKrb c x []) 0 3 = some c ∧ mayUnpark (sKrb c x []) 0 c = true ∧ cmdsIn (sKrb c x []) 0 .queued < 64)
    ∧ findCmd (sKrb { kc 6 0 0 with phase := .finished } sh1 []) 0 3 = some { kc 6 0 0 with phase := .finished } := by
  unfold kerbRuns; decide
theorem witness_KerbCommands_release_names :
    ∀ r, kerbNames (sKrb (kc 4 9 0) sh1 [(9, ls5 0 r)]) 0 (kc 4 9 0) 5 sh1 ∧ (ls5 0 r).shard = 5 := by unfold kerbNames; decide
theorem witness_GradientsAndUpdates_close :
    (let c := kc 5 0 1
     kerbRuns (sKrb c sh1 []) 0 3 5 c ∧ kerbNames (sKrb c sh1 []) 0 c 5 sh1 ∧ sh1.epoch < bits c.arg1 15 0)
    ∧ bits (kc 5 0 0).arg1 15 0 = sh1.epoch ∧ sh1.replica = false := by unfold kerbRuns kerbNames; decide
/-- The shard under epoch 2, and one of a replica. -/
def sh2 (r : Bool) : Shard := { sh1 with epoch := 2, replica := r }
theorem witness_GradientsAndUpdates_close_other :
    let c := kc 5 0 1
    ∀ r, kerbRuns (sKrb c (sh2 r) []) 0 3 5 c ∧ kerbNames (sKrb c (sh2 r) []) 0 c 5 (sh2 r) ∧ bits c.arg1 15 0 < (sh2 r).epoch
      ∧ rdb (sKrb c (sh2 r) []) CWY_SELF_ID CWY_SELF_ID_id_valid = false := by unfold kerbRuns kerbNames; decide
theorem witness_GradientsAndUpdates_contribution :
    let p := KerbPayload.contribution 5 0 1 0 2 [] 0 true
    let b : KBlock := { dev := 1, tag := 0, local_ := none, p := p }
    let s := modFab (sKrb (kc 6 0 0) sh1 []) (fun f => { f with blocks := [b] })
    s.fab.blocks.find? (fun z => z.p == p) = some b ∧ (5, 2, 1, 0) ∉ s.fab.taken ∧ handleIndex 5 = 5
      ∧ smFind? (engOf s (handleEngine 5)).shards 5 = some sh1 ∧ sh1.gen = handleGen 5 ∧ 0 < sh1.blocks ∧ sh1.gradBf16 = false
      ∧ 0 = sh1.epoch ∧ (∀ q ∈ (engOf s (sh1.keeper 0)).pushes, q.held ≠ 0) ∧ heldBySlot s (18432 + sh1.keeper 0) = false
      ∧ (∀ z ∈ sRun.fab.blocks, z.p ≠ p) := by decide
/-- The shard with its one contribution in. -/
def sh3 : Shard := { sh1 with accepted := 1 }
theorem witness_GradientsAndUpdates_update_parks :
    (let c := kc 6 0x20000 0
     kerbRuns (sKrb c sh1 []) 0 3 6 c ∧ kerbNames (sKrb c sh1 []) 0 c 5 sh1 ∧ sh1.accepted < sh1.expected
      ∧ cmdsIn (sKrb c sh1 []) 0 .parked < 64)
    ∧ targetLeased (sKrb (kc 6 0x20000 0) sh3 [(0, ls5 0 false)]) 0 5 sh3 = true := by unfold kerbRuns kerbNames; decide
/-- The blocks of a gradient that is not finite, as UPDATE meets them. -/
def upd (x : Shard) (s : State) : List Nat :=
  let w := (engineRead s .kerb 0x20000 64).2
  let u := meetArrays w [(x.grad, x.gradLen), (x.master, 4 * x.n), (x.moments, x.momLen), x.bitmapArea]
  badGradBlocks { u with free := u.free + 1 } x
theorem witness_GradientsAndUpdates_update :
    (let c := kc 6 0x20000 0
     let s := sKrb c sh3 []
     kerbRuns s 0 3 6 c ∧ kerbNames s 0 c 5 sh3 ∧ sh3.expected ≤ sh3.accepted ∧ targetLeased s 0 5 sh3 = false
      ∧ (engineRead s .kerb 0x20000 64).1 = some (List.replicate 64 0) ∧ upd sh3 s = []
      ∧ upd sh3 { s with mem := memWrite {} 0x12000 [0, 0, 0xC0, 0x7F] } ≠ [])
    ∧ (updOf 0 0 (List.replicate 64 0)).isSome = true := by unfold kerbRuns kerbNames; decide
theorem witness_GradientsAndUpdates_regen_and_pushes :
    kerbRuns (sKrb (kc 7 0 0) sh1 []) 0 3 7 (kc 7 0 0) ∧ kerbNames (sKrb (kc 7 0 0) sh1 []) 0 (kc 7 0 0) 5 sh1
    ∧ targetLeased (sKrb (kc 7 0 0) sh1 []) 0 5 sh1 = false ∧ targetLeased (sKrb (kc 7 0 0) sh1 [(0, ls5 0 false)]) 0 5 sh1 = true
    ∧ heldBySlot (modMst sRun (fun m => { m with guar := [18467], slotOn := true })) (18432 + 35) = true
    ∧ (let p : Push := ⟨0x60, ⟨1, 0, 0, []⟩, 0⟩
       let s : State := { sRun with engines := [(35, { pushes := [p] })] }
       heldBySlot s (18432 + 35) = false ∧ (engOf s 35).pushes.find? (fun q => q.held == 0) = some p ∧ lineFlawed s p.line = false) := by
  unfold kerbRuns kerbNames; decide

/-- SHARD.CLOSE raises the generation of its index (R300). -/
theorem test_shard_close : ∃ t, exec (.shardClose 0 3) (sKrb (kc 2 0 0) sh1 []) = .next t ∧ shardGen (engOf t 0) 5 = 1 :=
  ⟨_, rfl, by decide⟩

/-! ### Witnesses: counters, logs, the training step, the walker -/

/-- A memory that holds what is listed, written in order. -/
def mems (l : List (Nat × List Byte)) : Mem := l.foldl (fun m p => memWrite m p.1 p.2) {}
/-- Little-endian words. -/
def words (l : List Nat) : List Byte := l.flatMap (fun w => bytesOf 8 w)
/-- A step plan of one leg with one micro-batch (Table 10-2). -/
def plan1 : List Byte :=
  words [2 ^ 48 + 2 ^ 16, 2 ^ 48 + 2 ^ 32, 2 ^ 32, 0, 0x10000, 0x10008, 0x10010, 0, 0, 0, 0, 0, 0, 0, 0, 0]
/-- The engine's read of the plan at 0x20000. -/
def planRead (d : List Byte) : Option (List Byte) × State :=
  let s := wrf { sReady with mem := mems [(0x20000, d)] } CMD_STEP_PLAN CMD_STEP_PLAN_plan 0x400
  engineRead (wr (wr (wr s CMD_STEP_COUNT 0) CMD_SURVEY_STAT 0) CMD_SURVEY_EST 0) .requester 0x20000 128
/-- The requested epoch's state and the epoch asked for. -/
def sEpoch (n : Nat) : State := wrf sReady CMD_EPOCH_STATUS CMD_EPOCH_STATUS_state n

theorem witness_CountersClearAndLogsStartEmpty :
    17999 < numCores
      ∧ rdb State.reset TEL_LOG_CTRL TEL_LOG_CTRL_enable = false ∧ rdb State.reset REP_LOG_CTRL TEL_LOG_CTRL_enable = false
      ∧ rdb State.reset CMD_PHASE CMD_PHASE_enable = false ∧ rdb State.reset TEL_EXP TEL_EXP_enable = false
      ∧ rdb (wrb State.reset TEL_LOG_CTRL TEL_LOG_CTRL_enable true) TEL_LOG_CTRL TEL_LOG_CTRL_enable = true
      ∧ rdb (wrb State.reset REP_LOG_CTRL TEL_LOG_CTRL_enable true) REP_LOG_CTRL TEL_LOG_CTRL_enable = true
      ∧ rdb (wrb State.reset CMD_PHASE CMD_PHASE_enable true) CMD_PHASE CMD_PHASE_enable = true
      ∧ rdb (wrb State.reset TEL_EXP TEL_EXP_enable true) TEL_EXP TEL_EXP_enable = true
      ∧ sReady.boot.pg = true
      ∧ ((0#32).toNat + 2 ^ 32 - rdf sReady TEL_LOG_HEAD TEL_LOG_HEAD_head) % 2 ^ 32 = 0
      ∧ 2 ^ 31 ≤ ((0x80000000#32).toNat + 2 ^ 32 - rdf sReady TEL_LOG_HEAD TEL_LOG_HEAD_head) % 2 ^ 32
      ∧ 0 < ((0x7FFFFFFF#32).toNat + 2 ^ 32 - rdf sReady TEL_LOG_HEAD TEL_LOG_HEAD_head) % 2 ^ 32
      ∧ ((0x7FFFFFFF#32).toNat + 2 ^ 32 - rdf sReady TEL_LOG_HEAD TEL_LOG_HEAD_head) % 2 ^ 32 < 2 ^ 31 := by decide
theorem witness_TrainingStepAndEpochs_plan :
    (∀ n ∈ [2, 3], stepState (wrf sReady CMD_STEP_STATUS CMD_STEP_STATUS_state n) = n) ∧ stepState sReady = 0
      ∧ (planRead plan1).1 = some plan1 ∧ planRefusal (planRead plan1).2 plan1 (planOfBytes 0x20000 plan1) = 0
      ∧ (planRead (words [])).1 = some (List.replicate 128 0)
      ∧ planRefusal (planRead (words [])).2 (List.replicate 128 0) (planOfBytes 0x20000 (List.replicate 128 0)) ≠ 0 := by decide
theorem witness_TrainingStepAndEpochs_epoch :
    (∀ n ∈ [0, 1, 2, 3, 4], epochState (sEpoch n) = n)
      ∧ (0#16).toNat = rdf (sEpoch 0) CMD_EPOCH_STATUS CMD_EPOCH_STATUS_in_force
      ∧ (7#16).toNat ≠ rdf (sEpoch 0) CMD_EPOCH_STATUS CMD_EPOCH_STATUS_in_force
      ∧ remapGood (sEpoch 0) 7 = true ∧ remapGood (wrf (sEpoch 0) CMD_REMAP CMD_REMAP_count 1) 7 = false
      ∧ epochDrained (sEpoch 2) = true ∧ epochDrained (wrf (sEpoch 2) CMD_EPOCH_REQ CMD_EPOCH_REQ_step 1) = false
      ∧ (0#48).toNat ≤ stageNow (sEpoch 0) ∧ stageNow (sEpoch 0) < (1#48).toNat := by decide

/-- A registered table of two pages and two homes, its image at 0x40000, its work area at 0x60000. -/
def rt : RouteTable :=
  { imageA := 0x40000, imageB := 0x41000, frames := 0x100000, work := 0x60000, layby := toGlobal 5 0, signposts := 0x70000,
    pagesMax := 2, kb := 64, vb := 64, kind := 0, homes := 2, ring := 0 }
/-- A request of a ring. -/
def rqA (op : Nat) (args : Nat) : AtnReq := { op := op, handle := 0, addr := 0x80000, args := args, status := 0, until_ := 0, bad := false }
/-- The walker with ring 0's queue, the tables and the memory given. -/
def sAtn (q : List AtnReq) (ts : SMap RouteTable) (m : Mem) : State :=
  { wrb (wrb sReady ATN_CTRL ATN_CTRL_enable true) (ATN_RING_CTRL 0) ATN_RING_CTRL_enable true with
    atn := { rings := [(0, q)], tables := ts }, mem := m }
/-- The table's record, and its image of 64 positions. -/
def mTable : Mem :=
  mems [(0x40000, words [64]), (0x50000, words [0x40000, 0x41000, 0x100000, 0x60000, toGlobal 5 0, 0x70000, 2 * 2 ^ 32 + 64 * 2 ^ 16 + 64, 2])]
/-- Page 1 at home in frame 1, clean. -/
def mHome : Mem := mems [(0x60010, words [2 ^ 62 + 1])]
/-- Ring 0 at 0x90000 with a producer count of one, and its first record, a RELEASE. -/
def mRing (n : Nat) : Mem := mems [(0x90000, words [n]), (0x90040, words [5 * 2 ^ 56, 0x80000])]
/-- The walker whose ring 0 lies at 0x90000. -/
def sRing (m : Mem) : State := wrf (sAtn [] [] m) (ATN_RING_BASE 0) ATN_RING_BASE_base (0x90000 / 64)

theorem witness_RouteTables_rings :
    rdb sReady (ATN_RING_CTRL 63) ATN_RING_CTRL_enable = false ∧ rdb (sAtn [] [] {}) (ATN_RING_CTRL 0) ATN_RING_CTRL_enable = true
      ∧ rdb sReady ATN_CTRL ATN_CTRL_enable = false ∧ (atnRing sReady 0).enable = false
      ∧ 2 ≤ keepState (wrf sReady HST_KEEP_STATUS HST_KEEP_STATUS_state 2) ∧ (atnRing (sRing {}) 0).enable = true
      ∧ keepState (sRing {}) < 2 ∧ ringNext (sRing {}) (atnRing (sRing {}) 0) = .empty
      ∧ ringNext (sRing (mRing 100000)) (atnRing (sRing (mRing 100000)) 0) = .overrun := by decide
theorem witness_RouteTables_record :
    let s := sRing (mRing 1)
    let d := words [5 * 2 ^ 56, 0x80000, 0, 0, 0, 0, 0, 0]
    ringNext s (atnRing s 0) = .record 0 d ∧ ringNext (ringConsumed s (atnRing s 0) 1) (atnRing s 0) = .empty
      ∧ (∀ z ∈ ringQueue s 0, z.bad = false) ∧ (atnReqOf s d).bad = false
      ∧ (let v := setQueue (ringConsumed (ringRead s (atnRing s 0)) (atnRing s 0) 1) 0 (ringQueue s 0 ++ [atnReqOf s d])
         ringNext v (atnRing v 0) = .empty) := by decide +kernel
theorem witness_RouteTables_requests :
    (∀ op ∈ [1, 2, 6], ringQueue (sAtn [rqA op 0] [] {}) 0 = [rqA op 0] ∧ (rqA op 0).op = op ∧ (rqA op 0).bad = false
        ∧ keepState (sAtn [rqA op 0] [] {}) < 2)
      ∧ tableRecord (recordRead (sAtn [rqA 1 0] [] {}) (rqA 1 0).addr) (rqA 1 0).addr 0 = none
      ∧ (upto 4096).find? (fun k => !smHas (sAtn [rqA 1 0] [] mTable).atn.tables k) = some 0
      ∧ tableOfHandle (sAtn [rqA 2 0] [] {}) 0 = none ∧ tableOfHandle (sAtn [rqA 2 0] [(0, rt)] {}) 0 = some (0, rt)
      ∧ (∀ m ∈ (sAtn [rqA 2 0] [(0, rt)] {}).atn.moves, m.table ≠ 0) ∧ rt.unsynced = none ∧ rt.marked = []
      ∧ tableOf (sAtn [] [(0, { rt with unsynced := some (2, 1, []) })] {}) 0 = some { rt with unsynced := some (2, 1, []) }
      ∧ (∀ q ∈ smVals (sAtn [] [(0, rt)] {}).atn.rings, ∀ r ∈ q, r.version = none) ∧ tableOf (sAtn [] [] {}) 0 = none := by decide
theorem witness_RouteTables_register :
    let r := { rqA 1 0 with addr := 0x50000 }
    tableRecord (recordRead (sAtn [r] [] mTable) r.addr) r.addr 0 = some rt := by decide +kernel
theorem witness_WalkRequests_parked :
    let r := { rqA 3 0 with version := some 1, todo := [1], parked := true }
    let s := sAtn [r] [(0, rt)] mHome
    atnFront s 0 3 r ∧ r.parked = true ∧ tableOfHandle s 0 = some (0, rt) ∧ atHome s rt 1 = true :=
  ⟨⟨⟨[], rfl⟩, by decide, by decide, by decide⟩, by decide, by decide, by decide⟩
theorem witness_WalkRequests_refused :
    (∀ op ∈ [3, 4, 7, 8], (rqA op 0).parked = false ∧ (rqA op 0).version = none ∧ tableOfHandle (sAtn [rqA op 0] [] {}) 0 = none)
      ∧ tableOfHandle (sAtn [rqA 4 3] [(0, rt)] {}) 0 = some (0, rt) ∧ rt.pagesMax < 3 % 2 ^ 32 + bitsN 3 62 32 := by decide
/-- A walk request of table 0 in a state, as the statements take it. -/
theorem new_of (s : State) (op : Nat) (r : AtnReq) (q : List AtnReq) (h : ringQueue s 0 = r :: q) (h1 : r.op = op) (h2 : r.bad = false)
    (h3 : keepState s < 2) (h4 : r.parked = false) (h5 : r.version = none) (h6 : tableOfHandle s r.handle = some (0, rt)) :
    atnNew s 0 op 0 r rt := ⟨⟨⟨q, h⟩, h1, h2, h3⟩, h4, h5, h6⟩
theorem witness_WalkRequests_read :
    atnNew (sAtn [rqA 3 0] [(0, rt)] mTable) 0 3 0 (rqA 3 0) rt
    ∧ (let s := sAtn [rqA 3 0] [(0, rt)] mTable
       let w := walkRead s 3 rt
       s.atn.lists.length < 4096 ∧ (rqA 3 0).args % 2 ^ 32 < ((imageHead w (rt.image rt.version)).length + 63) / 64
        ∧ readPages w rt (rt.image rt.version) (imageHead w (rt.image rt.version)) 0 = [] ∧ (rqA 3 0).held = [])
    ∧ (∀ par, let r := { rqA 3 0 with version := some 1, todo := [1], parked := par }
       let s := sAtn [r] [(0, rt)] mHome
       ringQueue s 0 = [r] ∧ r.parked = par ∧ tableOfHandle s 0 = some (0, rt) ∧ atHome s rt 1 = true ∧ s.atn.lists.length < 4096) :=
  ⟨new_of _ _ _ [] (by decide) rfl rfl (by decide) rfl rfl (by decide), by decide +kernel, by decide +kernel⟩
/-- Page 1, written, with nothing in its frame; and page 1 at home, dirty. -/
def mWritten (e : Nat) : Mem := mems [(0x60010, words [e * 2 ^ 62 + 1]), (0x60020, words [2])]
/-- A request for page 1 alone, its drop or backward bit given, on a memory. -/
def rqP (op top : Nat) : AtnReq := rqA op (top * 2 ^ 63 + 2 ^ 32 + 1)
theorem witness_WalkRequests_new (m : Mem) (op top : Nat) : atnNew (sAtn [rqP op top] [(0, rt)] m) 0 op 0 (rqP op top) rt :=
  new_of _ _ _ [] rfl rfl rfl (by change keepState (sAtn [] [] {}) < 2; decide) rfl rfl
    (by change tableOfHandle (sAtn [] [(0, rt)] {}) 0 = _; decide)
theorem witness_WalkRequests_write_and_prefetch :
    (∀ op ∈ [4, 7], let r := rqP op 0
     let s := sAtn [r] [(0, rt)] mTable
     let a := walkOpen s 0 r rt [1]
     bitsN r.args 62 32 = 1 ∧ r.args < 2 ^ 63 ∧ r.args % 2 ^ 32 + 1 ≤ rt.pagesMax ∧ r.held = [] ∧ r.done = 0 ∧ r.failed = false
      ∧ s.atn.lists.length < 4096 ∧ (residOf a rt 1).st = 0 ∧ pageWritten a rt 1 = false)
    ∧ (∀ op ∈ [7, 8], let s := sAtn [rqP op 1] [(0, rt)] (mWritten 1)
       2 ^ 63 ≤ (rqP op 1).args ∧ bitsN (rqP op 1).args 62 32 = 1
        ∧ atHome (walkOpen s 0 (rqP op 1) rt [1]) rt 1 = true) := by decide +kernel
theorem witness_WalkRequests_prefetch_starts :
    let r := rqP 7 0
    let s := sAtn [r] [(0, rt)] (mWritten 0)
    let a := walkOpen s 0 r rt [1]
    let b := pageRead a rt rt.version 1
    (upto (bitsN r.args 62 32)).map (fun j => r.args % 2 ^ 32 + j) = [1] ∧ pageWritten a rt 1 = true
      ∧ (residOf a rt 1).st = 0 ∧ (residOf a rt 1).pins = 0 ∧ b.atn.moves.length < 64 ∧ keepState b < 2 := by decide +kernel
theorem witness_WalkRequests_spill :
    (let r := rqP 8 0
     let s := sAtn [r] [(0, rt)] (mWritten 2)
     let a := walkOpen s 0 r rt [1]
     let b := pageRead a rt rt.version 1
     r.args < 2 ^ 63 ∧ (residOf a rt 1).st = 2 ∧ (residOf a rt 1).page = 1 ∧ b.atn.moves.length < 64 ∧ keepState b < 2)
    ∧ (let a := walkOpen (sAtn [rqP 8 0] [(0, rt)] {}) 0 (rqP 8 0) rt [1]
       (residOf a rt 1).st ≠ 3 ∧ atHome a rt 1 = false) := by decide +kernel
theorem witness_WalkRequests_end (op : Nat) (h : op = 7 ∨ op = 8) :
    let r := { rqP op 0 with version := some 1 }
    let s := sAtn [r] [(0, rt)] {}
    atnFront s 0 op r ∧ r.parked = false ∧ tableOfHandle s r.handle = some (0, rt) ∧ r.todo = [] ∧ (op = 7 ∨ op = 8) :=
  ⟨⟨⟨[], rfl⟩, rfl, rfl, by change keepState (sAtn [] [] {}) < 2; decide⟩, rfl,
    by change tableOfHandle (sAtn [] [(0, rt)] {}) 0 = _; decide, rfl, h⟩
theorem witness_WalkRequests_pages :
    (let l : WalkList := ⟨0x80000, 0, [], 0, 0⟩
       let s := { sAtn [rqA 5 0] [] {} with atn := { rings := [(0, [rqA 5 0])], lists := [l] } }
       s.atn.lists.find? (fun l => l.addr == (rqA 5 0).addr) = some l)
    ∧ ringQueue (sAtn [] [] {}) 0 = []
    ∧ (∀ b, let m : Transfer := { id := 1, table := 0, page := 1, frame := 1, slot := 0, out := b, ring := none }
       let s := { sAtn [] [] {} with atn := { tables := [(0, { rt with kind := 1 })], moves := [m] } }
       s.atn.moves.find? (fun x => x.id == m.id) = some m ∧ tableOf s m.table = some { rt with kind := 1 } ∧ m.next = none
        ∧ m.ring = none ∧ m.left = 0 ∧ m.bad = false ∧ transferWaits { s with pcie := { bme := true } } 1 = false
        ∧ (b = false → transferWaits s 1 = true))
    ∧ (let m : Transfer := { id := 1, table := 0, page := 1, frame := 1, slot := 0, out := true, ring := none, left := 3, bad := true }
       let s := { sAtn [] [] {} with atn := { tables := [(0, rt)], moves := [m] } }
       s.atn.moves.find? (fun x => x.id == m.id) = some m ∧ tableOf s m.table = some rt ∧ m.next = none ∧ 0 < m.left ∧ m.bad = true ∧ transferWaits s 1 = false)
    ∧ (List.replicate rt.pageBytes (0 : Byte)).length = rt.pageBytes := by
  refine ⟨by decide, by decide, by decide, by decide, List.length_replicate ..⟩

/-! ### Witnesses: the causeways and the fabric -/

/-- Port 0 of an unnumbered device in a state, with attempts made. -/
def sPort (n k : Nat) : State :=
  wrf { sReady with fab := { ports := [(0, { attempts := k })] } } (CWY_PORT_STATUS 0) CWY_PORT_STATUS_state n
/-- Bring-up in a state, coordinates as given. -/
def sFab (n : Nat) (c : Option Nat) (u : Option Word) : State :=
  wrf { sReady with fab := { coords := c, lowUid := u } } CWY_FABRIC_STATUS CWY_FABRIC_STATUS_state n
/-- A frame of a type from device 1 of the pair to device 0, over port 0. -/
def fr (type op len : Nat) : FrameHdr :=
  { type := type, cls := classOfType type, vc := 0, length := len, dst := 0, src := 1, tag := 3, op := op, status := 0, detour := 0,
    rsv := 0, addr := 0x20000 }
/-- A collective of the pair: a broadcast of 256 bytes from device 0 along dimension 0. -/
def col : Coll := { id := 1, key := ⟨4, 1, 1, 256, 0, 0⟩, src := 0x20000, dst := 0x30000, start := 0, status := 0 }
/-- The record of that collective (Table 12-8), in a ring at 0x90000. -/
def mColl (op : Nat) : Mem :=
  mems [(0x90000, words [1]), (0x90040, words [op * 2 ^ 56 + 2 ^ 52 + 2 ^ 46, 0x20000, 0x30000, 256, 0, 0, 1, 0])]
/-- Device 0 of the pair with collective queue 0 over that memory. -/
def sCq (m : Mem) : State :=
  wrf (wrb { sPair 0 with mem := m } (CWY_CQ_CTRL 0) CWY_CQ_CTRL_enable true) (CWY_CQ_BASE 0) ATN_RING_BASE_base (0x90000 / 64)

theorem witness_PortStates :
    (∀ n ∈ [0, 1, 2, 3, 4, 5, 6], portState (sPort n 0) 0 = n) ∧ ((upto 5).filter (fun i => bitsN (15#5).toNat i i == 1)).length = 4
      ∧ ((upto 5).filter (fun i => bitsN (7#5).toNat i i == 1)).length = 3 ∧ 4 ≤ (usableLanes (sPort 2 0) 0 15).length
      ∧ (usableLanes (sPort 6 0) 0 7).length < 4 ∧ (portOf (sPort 3 1) 0).attempts = 1 ∧ (portOf (sPort 6 2) 0).attempts = 2
      ∧ partnerCheck (sPort 4 0) 0 0 3 none = 0 ∧ partnerCheck (sPort 4 0) 0 1 3 none = 3 := by decide
theorem witness_FabricBringup :
    bringingUp (sFab 4 none none) = true ∧ bringingUp (sFab 5 none none) = false ∧ fabricState (sFab 1 none none) = 1
      ∧ (∀ p < 36, rdb (sFab 1 none none) (CWY_PORT_CTRL p) CWY_PORT_CTRL_enable = true →
          portState (wrf (sFab 1 none none) (CWY_PORT_STATUS p) CWY_PORT_STATUS_state 1) p ∈ [1, 5, 7, 8])
      ∧ activePorts (sFab 1 none none) = []
      ∧ activePorts (wrf (sFab 1 none none) (CWY_PORT_STATUS 7) CWY_PORT_STATUS_state 5) ≠ []
      ∧ fabricState (sFab 2 none (some 0)) = 2 ∧ (sFab 2 none (some 0)).fab.lowUid = some (rd (sFab 2 none (some 0)) CWY_UID)
      ∧ (sFab 2 none (some 9)).fab.lowUid ≠ some (rd (sFab 2 none (some 9)) CWY_UID)
      ∧ portActive (wrf (sFab 1 none (some 9)) (CWY_PORT_STATUS 7) CWY_PORT_STATUS_state 5) 7 = true ∧ (8 : Word).toNat < (9 : Word).toNat
      ∧ fabricState (sFab 5 none none) = 5 ∧ (sFab 1 (some 0) none).fab.coords = some 0 ∧ fabricState (sFab 4 (some 0) none) = 4
      ∧ fabricState (sFab 3 none none) = 3 ∧ (sFab 3 none (some 9)).fab.lowUid ≠ some (rd (sFab 3 none (some 9)) CWY_UID) := by decide
theorem witness_FabricBringup_frames :
    controlFits (wrf (sFab 1 none (some 9)) (CWY_PORT_STATUS 7) CWY_PORT_STATUS_state 5) 7
      ∧ controlFits (wrf (sFab 5 none none) (CWY_PORT_STATUS 7) CWY_PORT_STATUS_state 5) 7
      ∧ portActive (wrf (sFab 5 none none) (CWY_PORT_STATUS 7) CWY_PORT_STATUS_state 5) 7 = true := by unfold controlFits; decide
/-- Every enabled port of the device has settled. -/
theorem witness_FabricBringup_settled :
    let s := (upto 36).foldl (fun s p => wrf s (CWY_PORT_STATUS p) CWY_PORT_STATUS_state 1) (sFab 1 none none)
    fabricState s = 1 ∧ s.fab.coords = none ∧ activePorts s = [] ∧ ∀ p < 36, portState s p ∈ [1, 5, 7, 8] := by decide
theorem witness_FramesAreServed_asked (e n : Nat) : Asked.status ≠ .acked e n := by intro h; cases h
/-- A codeword numbered 1 with no frames and a good check. -/
def rx1 : RxWord :=
  { errors := 0, stream := [], first := 0, marker := false, signal := 0, stage := 0
    check := BitVec.ofNat 32 (linkCheck [] (linkLow { check := 0, seq := 1, ack := 0, first := 0, marker := false })) }
theorem witness_FramesAreServed_check :
    wordGood 1 0 false rx1 [1, 0] = true ∧ wordGood 1 0 false { rx1 with errors := 15 } [1, 0] = false
      ∧ 1 = ((portOf (modPort (sPair 0) 0 (fun x => { x with ack := 0 })) 0).ack + 1) % 4096
      ∧ portActive (modPort (sPair 0) 0 (fun x => { x with ack := 0 })) 0 = true ∧ controlFits (sPair 0) 0 := by
  unfold controlFits; decide +kernel
theorem witness_FramesAreServed_codewords :
    portActive (sPair 0) 0 = true ∧ portActive (addCorrected (sPair 0) 0 [1, 0]) 0 = true
      ∧ 0 = ((portOf (sPair 0) 0).ack + 1) % 4096 ∧ 5 ≠ ((portOf (sPair 0) 0).ack + 1) % 4096 ∧ (portOf (sPair 0) 0).wait = []
      ∧ (upto 3).find? (fun i => rdf (sPair 0) (CWY_PORT_PARTNER (groupBase (portDim 0) (portPlus 0) + i)) CWY_PORT_PARTNER_port == 0)
        = some 0
      ∧ (let s := modFab (sPair 0) (fun f => { f with sent := [(3, .status)] })
         bits (2 ^ 58 + 3 : Word) 28 11 = selfId s ∧ bits (2 ^ 58 + 3 : Word) 59 58 = 1
          ∧ smFind? s.fab.sent (bits (2 ^ 58 + 3 : Word) 10 0) = some .status)
      ∧ smFind? (sPair 0).fab.sent 3 = none := by decide
theorem witness_FramesAreServed_frames :
    frameServed (sPair 0) 0 (fr 1 0 256) 0 ∧ keepState (sPair 0) < 2 ∧ (fr 1 0 256).why = .plain ∧ (fr 2 0 256).why = .plain
      ∧ (let h : FrameHdr := { fr 1 0 8 with why := .mgmt, addr := configBase + MST_STAGE }
         frameServed (sPair 0) 0 h 0 ∧ peerConfig h = some MST_STAGE ∧ MST_STAGE < configMapped)
      ∧ (sysRead (frameTaken (sPair 0) 0 (fr 1 0 256)) .peer .requester 0x20000 256).1 = .data (List.replicate 256 0)
      ∧ frameServed (sPair 0) 0 (fr 2 0 256) d256.length
      ∧ (sysWrite (frameTaken (sPair 0) 0 (fr 2 0 256)) .peer 0x20000 d256).1 = .data []
      ∧ frameServed (sPair 0) 0 (fr 3 1 16) 16
      ∧ frameServed (wrf (sPair 0) HST_KEEP_STATUS HST_KEEP_STATUS_state 2) 0 (fr 1 0 256) 0
      ∧ 2 ≤ keepState (wrf (sPair 0) HST_KEEP_STATUS HST_KEEP_STATUS_state 2)
      ∧ frameServed (modFab (sPair 0) (fun f => { f with sent := [(3, .status)] })) 0 (fr 4 0 0) 0
      ∧ frameServed (sPair 0) 0 (fr 5 0 256) 256 ∧ frameServed (sPair 0) 0 (fr 6 0 0) 0 := by unfold frameServed; decide
theorem witness_FramesAreServed_violations :
    frameViolates (sPair 0) 0 (fr 1 9 256) 0 3 ∧ frameViolates (sPair 0) 0 (fr 2 15 256) 256 1 := by unfold frameViolates; decide
theorem witness_Collectives :
    rdb sReady (CWY_CQ_CTRL 15) CWY_CQ_CTRL_enable = false ∧ (cqRing (sCq {}) 0).enable = true ∧ keepState (sCq {}) < 2
      ∧ (cqRing sReady 0).enable = false
      ∧ (∀ op ∈ [4, 9], let s := sCq (mColl op)
          let d := words [op * 2 ^ 56 + 2 ^ 52 + 2 ^ 46, 0x20000, 0x30000, 256, 0, 0, 1, 0]
          ringNext s (cqRing s 0) = .record 0 d
            ∧ (let u := ringConsumed (ringRead s (cqRing s 0)) (cqRing s 0) 1
               collOf u d = (if op = 4 then some col else none) ∧ findColl u 1 = none ∧ u.fab.colls.length < 64
                ∧ rdb u CWY_SELF_ID CWY_SELF_ID_id_valid = true ∧ u.fab.early = [] ∧ bits (wordAt d 5) 63 0 = 0)) := by
  decide +kernel
theorem witness_Collectives_step :
    let s := modFab (sPair 0) (fun f => { f with colls := [col] })
    findColl s 1 = some col ∧ col.running = false ∧ (collSteps s col.key)[col.pos]? = some (2, 0, 0)
      ∧ stepFits s col (stepSends s col (2, 0, 0)) = true ∧ stepSends s col (2, 0, 0) ≠ []
      ∧ (∀ q ∈ stepSends s col (2, 0, 0), (pieceRoute s col.key q (pieceHdr s q 5 3 0 (pieceDst s col q) 0)).isSome = true)
      ∧ keepState s < 2 ∧ s.boot.rb = 0 ∧ portHeld s col (stepSends s col (2, 0, 0)) = false
      ∧ (∀ e ∈ s.fab.early, e.q.id ≠ 1) := by decide
theorem witness_Collectives_timeout :
    let c := { col with key := ⟨4, 1, 1, 256, 1, 0⟩ }
    let s := modFab (sPair 0) (fun f => { f with colls := [c] })
    findColl s 1 = some c ∧ (collSteps s c.key)[c.pos]? = some (2, 0, 0) ∧ stepExpects s c (2, 0, 0) ≠ [] ∧ c.got = [] := by decide

/-! ### Witnesses: the host interface -/

/-- The device ready with channel 5 as given, of generation 1. -/
def sChan (c : Chan) : State :=
  { sReady with host := { linkUp := true, gens := [(5, 1)], chans := [(5, c)] }, pcie := { bme := true } }
/-- The mailbox's arguments set, the third naming channel 5. -/
def sBox (c : Chan) (a0 a1 a2 : Word) : State :=
  [(0, a0), (1, a1), (2, a2), (3, 4101)].foldl (fun s p => wr s (CMD_MBOX_ARG p.1) p.2) (sChan c)
/-- An opened channel with a ring of 16 slots in host memory. -/
def ch5 : Chan := { st := .opened, ringLog2 := 4, cqLog2 := 5, producer := 1, consumer := 0 }
/-- A host region of 4096 bytes. -/
def reg5 (a : Bool) : HRegion := { w := hostBase, read := true, write := true, epoch := 3, extents := [(0x1000, 4096)], active := a }
/-- Entry 2 of a channel, started. -/
def en (op : Nat) (args : List Word) (payload : List Byte) : Entry :=
  { n := 2, op := op, tag := 0, args := args, payload := payload, fence := false, irq := false, cmpl := true, phase := .started }
/-- The device ready with that entry. -/
def sEn (op : Nat) (args : List Word) (payload : List Byte) : State := sChan { ch5 with entries := [en op args payload] }
/-- The slot of a NOP entry numbered 0, with its check. -/
def slotNop : List Byte :=
  let d := words [2 ^ 12, 0, 0, 0, 0, 0, 0, 0] ++ List.replicate 192 0
  merge d 0x38 (bytesOf 4 (crc32c d))
/-- Two streams of core 0, stopped. -/
def a0F : List (Nat × StreamId) := [(0, .F)]

theorem witness_HostLinkAndKeepState_link :
    linkServed sReady = true ∧ sReady.boot.rb = 0 ∧ ({ sReady with boot := { rb := 1 } } : State).boot.rb ≠ 0
      ∧ sReady.host.linkUp = true ∧ sReady.host.linkLoss = false
      ∧ (let s : State := { sReady with host := { linkUp := true, linkLoss := true } }
         linkServed s = true ∧ s.host.linkLoss = true)
      ∧ sReady.pcie.bme = false ∧ hostArrives sReady = true ∧ 0x24 < 0x28 ∧ 0x24 % 4 = 0
      ∧ (let s : State := { sReady with host := { msiSent := [7] } }
         7 ∈ s.host.msiSent ∧ 7 ∉ s.host.msiDue ∧ 8 ∉ s.host.msiSent) := by decide
theorem witness_HostLinkAndKeepState_bar2 :
    let p : PlaceSlot := ⟨5, 0x20000, 4096, true, true⟩
    let s : State := { sReady with host := { linkUp := true, slots := [(0, p)] } }
    hostNow s ∧ s.pcie.d3hot = false ∧ barsRefuse s = false ∧ 4096 ≤ 2 ^ s.pcie.bar2Log2
      ∧ slotAt s (4096 - 256) d256.length = some (p, 0x20F00) ∧ slotAt s 4095 2 = none
      ∧ (sysWrite s .host 0x20F00 d256).1 = .data [] ∧ (sysRead s .host .requester 0x20F00 256).1 = .data (List.replicate 256 0) := by
  unfold hostNow; decide
theorem witness_HostLinkAndKeepState_keep :
    suspended sReady = [] ∧ (let s := sChan { ch5 with regions := [reg5 false] }
      ((suspended s).map (fun r => holdUntil s r.2)).min? = some (600 * 10 ^ 9))
    ∧ (∀ n ∈ [0, 2, 3], keepState (wrf sReady HST_KEEP_STATUS HST_KEEP_STATUS_state n) = n)
    ∧ (1 : Word) ≠ rd sReady HST_KEEP_TOKEN ∧ (0 : Word) = rd sReady HST_KEEP_TOKEN := by decide
theorem witness_ChannelsAndMailbox_doorbells :
    hostNow (sChan ch5) ∧ bellMatches (sChan ch5) 5 (2 * 2 ^ 44) = false ∧ barsRefuse (sChan ch5) = false
      ∧ bellMatches (sChan ch5) 5 (2 ^ 44 + 16) = true ∧ bits (2 ^ 44 + 16 : Word) 31 0 = ((chanOf (sChan ch5) 5).producer + 15) % 2 ^ 32
      ∧ 0 < 15 ∧ (chanOf (sChan ch5) 5).producer + 15 ≤ (chanOf (sChan ch5) 5).consumer + 2 ^ (chanOf (sChan ch5) 5).ringLog2
      ∧ barsRefuse { sChan ch5 with pow := {} } = true
      ∧ (BellWrite.mk 4 8 0).at_ ≠ 0 ∧ (BellWrite.mk 0 8 0).at_ ≠ 8 ∧ (BellWrite.mk 0 4 0).width ≠ 8 := by unfold hostNow; decide
theorem witness_ChannelsAndMailbox_mailbox :
    mboxTakes (sBox ch5 0 0 0x504) ∧ mboxConfigOk (sBox ch5 0 0 0x504) = true ∧ mboxConfigOk (sBox ch5 1 0 0x504) = false
      ∧ freeIndex (sBox ch5 0 0 0x504) = some 0 ∧ mboxNames (sBox ch5 0 0 0x504) 5
      ∧ mboxNames (sBox { ch5 with st := .stopped } 0 0 0x504) 5 ∧ mboxNames (sBox { ch5 with st := .orphaned } 0 0 0x504) 5 := by
  unfold mboxNames mboxTakes; decide
theorem witness_ChannelsAndMailbox_confirm :
    let s := sBox { ch5 with regions := [reg5 false] } (BitVec.ofNat 64 hostBase) 3 0
    mboxNames s 5 ∧ (chanOf s 5).st = .opened ∧ (chanOf s 5).regions.find? (fun r => r.w == (mboxArg s 0).toNat) = some (reg5 false)
      ∧ (reg5 false).epoch = bits (mboxArg s 1) 31 0 ∧ (∀ r ∈ (chanOf (sBox ch5 0 0 0) 5).regions, r.w ≠ 0)
      ∧ (reg5 false).epoch ≠ bits (mboxArg (sBox ch5 0 4 0) 1) 31 0 := by unfold mboxNames mboxTakes; decide
theorem witness_ChannelsAndMailbox_entries :
    (let s := sChan { ch5 with st := .destroying }
     (chanOf s 5).st = .destroying ∧ (chanOf s 5).entries = [] ∧ (∀ c ∈ s.cores, ∀ u, (c.2.str u).owner = some 5 → (c.2.str u).atRest = true))
    ∧ reads (sChan ch5) 5 = true ∧ (chanOf (sChan ch5) 5).ringDev = false ∧ (chanOf (sChan ch5) 5).fetching = true
    ∧ visible 0 [] = false ∧ (chanOf (sChan ch5) 5).chain = []
    ∧ (chanOf (sChan { ch5 with fetching := false, reread := 62 }) 5).reread < 63
    ∧ 63 ≤ (chanOf (sChan { ch5 with fetching := false, reread := 63 }) 5).reread
    ∧ (let s := sChan { ch5 with entries := [{ en 0 [] [] with phase := .carried }] }
       (chanOf s 5).entries.find? (fun e => e.n == 2 && entryDone s e) = some { en 0 [] [] with phase := .carried }) := by
  refine ⟨⟨by decide, by decide, fun c h => by cases h⟩, by decide, by decide, by decide, by decide, by decide, by decide, by decide,
    by decide⟩
theorem witness_ChannelsAndMailbox_slot :
    visible 0 slotNop = true ∧ (slotOf 0 slotNop).zero = true ∧ (slotOf 0 slotNop).inline_ ≤ 192 ∧ (slotOf 0 slotNop).chain = false
      ∧ (slotOf 0 slotNop).op ≠ 0x7F ∧ canAccept (sChan ch5) 5 1 = true ∧ entryRefusal 0 (slotOf 0 slotNop).e = none
      ∧ (slotOf 0 slotNop).e.fence = false := by decide +kernel
theorem witness_CommandEntries_data :
    (∀ op ∈ [0x00, 0x01, 0x03, 0x04, 0x05, 0x06, 0x07, 0x08, 0x09, 0x0A, 0x0B], entryStarted (sEn op [] []) 5 2 op (en op [] []))
      ∧ (en 1 [] []).rows.rows = 0
      ∧ (let e := en 1 [0x20000, 0x30000, 2 ^ 32 + 256, 0, 0] []
         let s := sEn 1 e.args []
         let x := copyPieces 5 2 e.rows e.got (e.rows.pieces.drop e.pos) s e.pos e.value []
         entryStarted s 5 2 1 e ∧ unitHeld s e = true ∧ readsNow s e = [] ∧ x.code = some 0 ∧ entryOf x.st 5 2 = some e
          ∧ e.phase ≠ .ended ∧ e.asked = 0)
      ∧ (let e := en 1 [BitVec.ofNat 64 (toGlobal 1 0x20000), 0x30000, 2 ^ 32 + 256, 0, 0] []
         let s := wrf (wrb (sEn 1 e.args []) CWY_SELF_ID CWY_SELF_ID_id_valid true) CWY_FABRIC_CFG CWY_FABRIC_CFG_ring_m1 1
         entryStarted s 5 2 1 e ∧ unitHeld s e = true ∧ readsNow s e ≠ [])
      ∧ (let e : Entry := { en 1 [0x20000, 0x30000, 2 ^ 32 + 256, 0, 0] [] with asked := 1 }
         let s := sChan { ch5 with entries := [e] }
         let x := copyPieces 5 2 e.rows e.got (e.rows.pieces.drop e.pos) s e.pos e.value []
         entryStarted s 5 2 1 e ∧ readsNow s e = [] ∧ x.code = some 0 ∧ entryOf x.st 5 2 = some e ∧ 0 < e.asked)
      ∧ (let e := en 1 [BitVec.ofNat 64 hostBase, 0x30000, 2 ^ 32 + 256, 0, 0] []
         let s0 := sChan { ch5 with entries := [e], regions := [reg5 true] }
         let s : State := { s0 with host := { s0.host with linkLoss := true } }
         let x := copyPieces 5 2 e.rows e.got (e.rows.pieces.drop e.pos) s e.pos e.value []
         unitHeld s e = true ∧ readsNow s e = [] ∧ x.code = none ∧ x.pos = e.pos)
      ∧ (let e := en 1 [0x20000, BitVec.ofNat 64 hostBase, 2 * 2 ^ 32 + 256, BitVec.ofNat 64 (hostBase - 0x20000), 0x1000] []
         let s0 := sChan { ch5 with entries := [e], regions := [reg5 true] }
         let s : State := { s0 with host := { s0.host with linkLoss := true } }
         let x := copyPieces 5 2 e.rows e.got (e.rows.pieces.drop e.pos) s e.pos e.value []
         x.code = none ∧ x.pos ≠ e.pos)
      ∧ (let e : Entry := { en 1 [] [] with unit := 64 }
         unitHeld (sChan { ch5 with entries := e :: (upto 64).map (fun k => { en 1 [] [] with n := 3 + k, unit := k }) }) e = false)
      ∧ (let e := en 2 [0x20000] [1, 2]
         entryStarted (sEn 2 e.args e.payload) 5 2 2 e ∧ unitHeld (sEn 2 e.args e.payload) e = true ∧ e.pos = 0 ∧ e.value = 0 ∧ e.phase ≠ .ended ∧ entryOf (sEn 2 e.args e.payload) 5 2 = some e ∧ e.asked = 0 ∧ e.payload ≠ [] ∧ e.arg 0 % 256 + e.payload.length ≤ 256
          ∧ e.arg 0 + e.payload.length ≤ userEnd ∧ (sysWrite (sEn 2 e.args e.payload) .host (e.arg 0) e.payload).1 = .data []
          ∧ entryOf (sysWrite (sEn 2 e.args e.payload) .host (e.arg 0) e.payload).2 5 2 = some e)
      ∧ entryOf (sEn 2 [] []) 5 2 = some (en 2 [] []) ∧ (en 2 [] []).payload = [] := by
  unfold entryStarted; decide +kernel
theorem witness_CommandEntries_streams :
    (let e := en 3 [0x10000, 2 ^ 32, 1, 9] []
     namedStreams e = some [(0, .F)] ∧ (∀ q ∈ a0F, (strOf (sEn 3 e.args []) q.1 q.2).atRest = true) ∧ bitsN (e.arg 2) 3 3 = 0
      ∧ e.arg 0 % 8 = 0 ∧ e.arg 0 < 2 ^ 48 ∧ a0F ≠ [] ∧ (∃ q ∈ a0F, (strOf { sEn 3 e.args [] with cores := sRun.cores } q.1 q.2).atRest = false))
    ∧ (en 3 [0x10001] []).arg 0 % 8 ≠ 0 ∧ namedStreams (en 3 [0, 0, 1] []) = none
    ∧ kblockOf ((upto 8).map (wordAt [])) = none ∧ (kblockOf ((upto 8).map (wordAt blk4.data))).isSome = true := by decide
theorem witness_CommandEntries_regions :
    (let e := en 6 [BitVec.ofNat 64 hostBase, 3] (words [0x1000, 4096])
     e.arg 0 % 2 ^ 21 = 0 ∧ hostBase ≤ e.arg 0 ∧ e.arg 0 + ((extentsOf e.payload).map (·.2)).sum ≤ hostEnd
      ∧ (∀ x ∈ extentsOf e.payload, x.1 % 4096 = 0 ∧ x.2 ≠ 0 ∧ x.2 % 4096 = 0)
      ∧ (∀ r ∈ (chanOf (sEn 6 e.args e.payload) 5).regions, r.w + r.len ≤ e.arg 0) ∧ extentsUsed (sEn 6 e.args e.payload) + 1 ≤ 65536)
    ∧ (en 6 [1] []).arg 0 % 2 ^ 21 ≠ 0
    ∧ (let s := sChan { ch5 with entries := [en 7 [BitVec.ofNat 64 hostBase] []], regions := [reg5 true] }
       (chanOf s 5).regions.find? (fun r => r.w == (en 7 [BitVec.ofNat 64 hostBase] []).arg 0) = some (reg5 true) ∧ s.host.holdQ = [] ∧ s.reqs = [])
    ∧ (let e := en 8 [0, 2 ^ 30, 3 * 2 ^ 32 + 4095] []
       e.arg 0 % 2 ^ 21 = 0 ∧ e.arg 1 % 2 ^ 21 = 0 ∧ 0 < e.arg 1 ∧ e.arg 1 ≤ 2 ^ 30 ∧ e.arg 0 + e.arg 1 ≤ userEnd
        ∧ smFind? (sEn 8 e.args []).host.slots (bitsN (e.arg 2) 11 0) = none)
    ∧ (en 8 [0, 0] []).arg 1 = 0 ∧ (chanOf (sEn 6 [] []) 5).regions.length < 256
    ∧ (∀ r ∈ (chanOf (sEn 7 [1] []) 5).regions, r.w ≠ (en 7 [1] []).arg 0)
    ∧ (let p : PlaceSlot := ⟨5, 0, 4096, true, true⟩
       smFind? ({ sEn 9 [] [] with host.slots := [(0, p)] } : State).host.slots 0 = some p ∧ p.chan = 5)
    ∧ (∀ n ∈ [2, 3], stepState (wrf (sEn 10 [] []) CMD_STEP_STATUS CMD_STEP_STATUS_state n) = n) ∧ stepState (sEn 10 [] []) = 0
    ∧ (en 10 [1] []).arg 0 % 128 ≠ 0 ∧ (en 10 [128] []).arg 0 % 128 = 0 := by decide

/-! ### Witnesses: boot, power, temperature, repair, management -/

/-- Slot A passes, or not, or slot B. -/
def bIn (a b : Option Nat) : BootIn := { verdictA := a, verdictB := b, svnA := 1, svnB := 2, failedSens := [1075], lanes := [(0, upto 36)] }
/-- The device at a step of its boot sequence. -/
def sBoot (n : Nat) : State := { State.reset with boot := { pg := true, step := n } }
/-- The device with PWR_BOOT in a state, the last attempt begun at a time. -/
def sBst (n : Nat) (b : Option Nat) : State :=
  wrf { State.reset with boot := { pg := true, began := b } } PWR_BOOT PWR_BOOT_state n
/-- One reading of a die's sensor, cool, at the throttle ceiling, at the shutdown ceiling. -/
def rd1 (t : Int) : List (Nat × Int) := [(288, degC t)]
/-- Powered sensors. -/
def sThm : State := { sReady with boot := { pg := true, sampled := true } }
/-- A request that waits for a second read or for repair. -/
def sRep (p : ReqPhase) (a : Nat) : State := { sRun with reqs := [{ rq p with src := a }] }

theorem witness_BootAttempts :
    (sBoot 0).boot.pg = true ∧ State.reset.boot.pg = false ∧ State.reset.boot.rstLow = false ∧ State.reset.boot.began = none
      ∧ (∀ n ∈ [0, 1, 2, 3, 4, 5, 6, 7, 8, 9, 10], (sBoot n).boot.step = n) ∧ (sBoot 1).boot.sampled = false
      ∧ verdictOf (bIn (some 0) none) ((sBoot 4).sec.marked.getD (sBoot 4).sec.active) = some 0
      ∧ verdictOf (bIn none (some 0)) ((sBoot 4).sec.marked.getD (sBoot 4).sec.active) ≠ some 0
      ∧ verdictOf (bIn none (some 0)) (1 - (sBoot 4).sec.marked.getD (sBoot 4).sec.active) = some 0
      ∧ verdictOf (bIn none (some 5)) (1 - (sBoot 4).sec.marked.getD (sBoot 4).sec.active) ≠ some 0
      ∧ (∀ l ∈ (bIn none none).lanes, l.2.length ≤ 36) ∧ (∃ l ∈ [(0, upto 37)], 36 < l.2.length) ∧ State.reset.boot.vrLow = false
      ∧ (let s := modBoot State.reset (fun b => { b with vrLow := true })
         s.boot.pg = false ∧ s.boot.vrLow = true ∧ s.boot.trip = false)
      ∧ rdf (sBst 1 none) PWR_BOOT PWR_BOOT_state = 1 := by decide
theorem witness_BootAttempts_cool : coolEnough (sBoot 4) = true := by decide +kernel
theorem witness_BootAttempts_hot : coolEnough (wrf (sBoot 4) (THM_SENSOR 0) THM_SENSOR_temp 0x3C0) = false := by decide +kernel
theorem witness_ResetsOfTheDevice :
    (0xA4#8) ≠ 0xA5#8 ∧ (∀ n ∈ [0, 1, 2, 3], rdf (sBst n none) PWR_BOOT PWR_BOOT_state = n) ∧ (sBst 2 (some 0)).boot.rstLow = false
      ∧ wallNow (sBst 2 (some 0)) ≤ 0 + 60 * 10 ^ 9
      ∧ (let s := wr (sBst 2 (some 0)) MST_TIME (BitVec.ofNat 64 (60 * 10 ^ 9 + 1)); 0 + 60 * 10 ^ 9 < wallNow s)
      ∧ (sBst 2 none).boot.waits = false ∧ ({ sBst 2 none with boot := { pg := true, waits := true } } : State).boot.waits = true
      ∧ deviceReady sReady = true ∧ sReady.boot.rb = 0 ∧ rdf sReady PWR_CTRL PWR_CTRL_watchdog_ms ≠ 0
      ∧ rdf (wrf sReady PWR_CTRL PWR_CTRL_watchdog_ms 0) PWR_CTRL PWR_CTRL_watchdog_ms = 0 ∧ deviceReady State.reset = false := by decide
theorem witness_ResetsOfTheDevice_roadbed :
    (∀ n ∈ [1, 2], ({ sReady with boot := { rb := n } } : State).boot.rb = n) ∧ sReady.fab.sent = [] ∧ sReady.host.hostHeld = []
      ∧ sReady.fab.resend = [] ∧ sReady.fab.asks = [] ∧ sReady.fab.colls = [] ∧ sReady.mst.roadbed = false
      ∧ ({ sReady with boot := { authDue := true } } : State).boot.authDue = true ∧ sReady.boot.authDue = false := by decide
theorem witness_PowerEvents :
    State.reset.boot.pg = false ∧ sReady.boot.trip = false ∧ sReady.boot.pg = true ∧ rdb sReady PWR_STATUS PWR_STATUS_vr_alert = false
      ∧ rdb (wrb sReady PWR_STATUS PWR_STATUS_vr_alert true) PWR_STATUS PWR_STATUS_vr_alert = true
      ∧ (let s := wrb sReady PWR_STATUS PWR_STATUS_lowest_state true
         rdb s PWR_STATUS PWR_STATUS_lowest_state = true ∧ milestonesRun s = false ∧ rdb s THM_STATUS THM_STATUS_throttle = false)
      ∧ milestonesRun sReady = false
      ∧ (let s : State := { sReady with pow := { on := true, rising := [143], pllDown := [143] } }
         143 ∈ s.pow.rising ∧ rdb s PWR_STATUS PWR_STATUS_lowest_state = false ∧ 142 ∉ s.pow.rising ∧ 143 ∈ s.pow.pllDown ∧ 142 ∉ s.pow.pllDown) ∧ 143 < 144
      ∧ needsPower (.icuSrcWrite 1023 0) = true ∧ needsPower (.portEnable 35) = true ∧ needsPower (.portEnable 36) = false := by decide
theorem witness_TemperatureEvents_readings :
    State.reset.boot.sampled = false ∧ ((rd1 50).map (·.1)).Nodup ∧ (288, degC 50) ∈ rd1 50 ∧ 288 < numSensors
      ∧ sensorFailed sThm 288 = false ∧ 288 ∉ ([] : List Nat) ∧ degC (-40) ≤ degC 150 ∧ sThm.thermal.hist.head? = none
      ∧ degC 150 < degC 151 ∧ 288 ∈ [288] := by decide
theorem witness_TemperatureEvents_shutdown :
    sThm.boot.sampled = true ∧ rdf sThm PWR_BOOT PWR_BOOT_state ≠ 3
      ∧ shutdownCeiling (sensorClass 288) ≤ sensorTemp (takeSample sThm (rd1 105) []) 288 := by decide +kernel
theorem witness_TemperatureEvents_throttle :
    throttleCeiling (sensorClass 288) ≤ sensorTemp (takeSample sThm (rd1 95) []) 288
      ∧ ¬ ∃ i < numSensors, degC 5 ≤ sensorRate (takeSample sThm (rd1 95) []) i
          ∨ shutdownCeiling (sensorClass i) ≤ sensorTemp (takeSample sThm (rd1 95) []) i := by decide +kernel
theorem witness_TemperatureEvents_timers :
    (let s := wrb sReady THM_STATUS THM_STATUS_throttle true
     rdb s THM_STATUS THM_STATUS_throttle = true)
    ∧ (let s := wrf sReady (THM_STACK 35) THM_STACK_pending 2
       rdf s (THM_STACK 35) THM_STACK_band < rdf s (THM_STACK 35) THM_STACK_pending)
    ∧ (let s : State := { sBst 3 (some 0) with boot := { pg := true, cooling := true, trip := true } }
       rdf s PWR_BOOT PWR_BOOT_state = 3 ∧ s.boot.cooling = true ∧ s.boot.pg = true ∧ s.boot.rstLow = false ∧ now s + waitLeft s < 2 ^ 64)
    ∧ (let s : State := { sBst 3 (some 0) with boot := { pg := true, cooling := true, trip := true, began := some 0, until_ := 60 * 10 ^ 9 + 1 } }
       s.boot.began = some 0 ∧ 0 + 60 * 10 ^ 9 < max (wallNow s) s.boot.until_)
    ∧ rdb sReady THM_STATUS THM_STATUS_throttle = false ∧ rdb sReady PWR_STATUS PWR_STATUS_vr_alert = false
    ∧ (∀ k < 36, rdf sReady (THM_STACK k) THM_STACK_pending ≤ rdf sReady (THM_STACK k) THM_STACK_band) := by decide
theorem witness_TemperatureEvents_release : mayRelease (wrb sReady THM_STATUS THM_STATUS_throttle true) = true := by decide +kernel
theorem witness_RepairEvents :
    reqsAt sRun .reread 0x300 = [] ∧ reqsAt (sRep .reread 0x30000) .reread 0x300 ≠ []
      ∧ ((sRep .reread 0x30000).reqs.map (·.id)).Nodup ∧ reqsAt (sRep .repair 0x30000) .repair 0x300 ≠ []
      ∧ repairData (sRep .repair 0x30000) 0x300 none = none
      ∧ rdb sRun REP_LOG_CTRL TEL_LOG_CTRL_enable = false ∧ onLostPc sRun 0x300 = false
      ∧ isGlobal (0x300 * 256) = false ∧ otherCopy (sRep .repair 0x30000) 0x300 = none
      ∧ reqsAt (sRep .repair (toGlobal 5 0x30000)) .repair (toGlobal 5 0x30000 / 256) ≠ []
      ∧ isGlobal (toGlobal 5 0x30000 / 256 * 256) = true
      ∧ (let s : State := { sRep .repair 0x13000 with engines := [(0, { shards := [(5, sh1)] })] }
         (repairData s 0x130 none).isSome = true ∧ otherCopy s 0x130 = none ∧ isGlobal (0x130 * 256) = false) := by decide
/-- A replica at 0x40000 whose owner is device 3, and what its owner has answered. -/
def sRepl (f : SMap (Option (List Byte))) : State :=
  { sRep .repair 0x40000 with
    engines := [(0, { shards := [(5, sh1)], leases := [(0, { ls5 0 false with replica := 0x40000, len := 256, dev := 3, set := 0x50000 })] })]
    fab := { fetched := f } }
theorem witness_RepairEvents_copies :
    (∀ f ∈ [[], [(0x400, none)], [(0x400, some [])]], otherCopy (sRepl f) 0x400 = some (3, 0x50000)
      ∧ classOf (sRepl f) (0x400 * 256) = .replica 0 0 ∧ 3 ≠ selfId (sRepl f) ∧ isGlobal (0x400 * 256) = false
      ∧ reqsAt (sRepl f) .repair 0x400 ≠ [])
    ∧ smFind? (sRepl []).fab.fetched 0x400 = none ∧ smFind? (sRepl [(0x400, none)]).fab.fetched 0x400 = some none
    ∧ smFind? (sRepl [(0x400, some [])]).fab.fetched 0x400 = some (some [])
    ∧ (let s := modBoot (sRepl []) (fun b => { b with rb := 1 })
       tagNow s = none ∧ s.fab.sent.any (fun q => q.2 == .refetch 0x400) = false ∧ s.fab.asks.any (fun q => q.who == .refetch 0x400) = false)
    ∧ (modFab (sRepl []) (fun f => { f with sent := [(7, .refetch 0x400)] })).fab.sent.any (fun q => q.2 == .refetch 0x400) = true := by
  decide
/-- Cluster 0 with 32 physical cores that serve two logical cores each, and no free spare. -/
def sFull : State :=
  (upto 4).foldl (fun s j => wr s (REP_CORE_MAP 0 (8 + j)) (rd State.reset (REP_CORE_MAP 0 j)))
    { sReady with rep := { retired := (upto 8).map (fun p => 128 + p) ++ (upto 32).map (fun p => 64 + p) } }
theorem witness_RepairEvents_cores :
    143 < 144 ∧ 135 < 136 ∧ 136 * 143 + 135 ∉ sReady.rep.retired ∧ 136 * 143 + 135 ∉ sReady.rep.pendRet ∧ 135 ∈ freeSpares sReady 143
      ∧ sReady.rep.pendRet = [] ∧ (servedBy sReady 0 5).length ≤ (freeSpares sReady 0).length
      ∧ ((upto 136).filter (fun q => (servedBy sReady 0 q).length == 2 && q != 5)).length ≤ 32 := by decide +kernel
theorem witness_RepairEvents_cores_refused :
    136 * 0 + 40 ∉ sFull.rep.retired ∧ 136 * 0 + 40 ∉ sFull.rep.pendRet ∧ sFull.rep.pendRet = [] ∧ freeSpares sFull 0 = [] ∧ servedBy sFull 0 40 ≠ []
      ∧ 32 < ((upto 136).filter (fun q => (servedBy sFull 0 q).length == 2 && q != 40)).length + (servedBy sFull 0 40).length := by
  decide +kernel
theorem witness_RepairEvents_second_read :
    storedBad (sRep .reread 0x30000) 0x300 = false ∧ isGlobal (0x300 * 256) = false
      ∧ storedBad (modMem (sRep .reread 0x30000) (fun m => { m with flaws := [(0x300, { bill := some 1 })] })) 0x300 = true
      ∧ sRun.boot.pg = true ∧ inRepair sRun 0x300 = false ∧ inRepair (sRep .repair 0x30000) 0x300 = true
      ∧ inRepair (sRep .repair (toGlobal 5 0x30000)) (toGlobal 5 0x30000 / 256) = true
      ∧ (let s : State := { sRep .repair 0x13000 with engines := [(0, { shards := [(5, sh1)] })] }
         inRepair s 0x130 = true ∧ classOf s (0x130 * 256) = .workingSet 0 5 0)
      ∧ (∀ b, let s := wrb (sRepl []) CWY_SELF_ID CWY_SELF_ID_id_valid b
         inRepair s 0x400 = true ∧ otherCopy s 0x400 = some (3, 0x50000) ∧ 3 ≠ selfId s ∧ rdb s CWY_SELF_ID CWY_SELF_ID_id_valid = b
          ∧ s.boot.pg = true) := by decide +kernel

/-- Source 1023 enabled and pending for management core 3, of a priority, with the stack of that core. -/
def sIrq (c : List (Nat × Nat)) : State :=
  wr { sReady with sec := { running := true, claims := [(3, c)] } } (ICU_SRC 1023)
    (BitVec.ofNat 64 (putf ICU_SRC_priority 5 + putf ICU_SRC_target 3 + putf ICU_SRC_enable 1 + putf ICU_SRC_pending 1))
/-- The monitor with debug access, in the ready state and in the waiting one. -/
def sMon (locked : Bool) (st : Nat) : State :=
  wrb (wrf sReady PWR_BOOT PWR_BOOT_state st) SEC_FUSE SEC_FUSE_locked locked

theorem witness_InterruptController :
    (∀ n < 1024, deliverable sReady 0 n = false) ∧ deliverable (sIrq []) 3 1023 = true
      ∧ (∀ k < 1024, deliverable (sIrq []) 3 k = true → k ≠ 1023 →
          rdf (sIrq []) (ICU_SRC k) ICU_SRC_priority < rdf (sIrq []) (ICU_SRC 1023) ICU_SRC_priority)
      ∧ claimsOf (sIrq [(1023, 5)]) 3 = [(1023, 5)] ∧ claimsOf sReady 0 = [] ∧ 992 ≤ (1023#10).toNat ∧ (991#10).toNat < 992
      ∧ rdb (sIrq []) (ICU_SRC 1023) ICU_SRC_enable = true ∧ rdb sReady (ICU_SRC 1023) ICU_SRC_enable = false
      ∧ getb (0 : Word) ICU_SRC_enable = false := by decide +kernel
theorem witness_ResourcesAndFirmware :
    (debugOpen (sMon false 2) = true ∧ rdf sReady (SEC_OWN 2) SEC_OWN_owner = 0) ∧ debugOpen (sMon true 2) = false
      ∧ rdf (wrf sReady (SEC_OWN 2) SEC_OWN_owner 1) (SEC_OWN 2) SEC_OWN_owner = 1 ∧ rdf sReady (SEC_OWN 1) SEC_OWN_owner ≠ 2
      ∧ rdf (wrf sReady SEC_STATUS SEC_STATUS_fw_state 1) SEC_STATUS SEC_STATUS_fw_state = 1
      ∧ rdf sReady SEC_STATUS SEC_STATUS_fw_state ≠ 1 ∧ sReady.sec.install = none
      ∧ (∀ v ∈ [0, 5], ({ sReady with sec := { install := some (v, 1, 2, 3) } } : State).sec.install = some (v, 1, 2, 3))
      ∧ (∀ n ∈ [4, 11], ({ sReady with sec := { tap := n } } : State).sec.tap = n) ∧ Path.monitor ≠ .host ∧ Path.monitor ≠ .mgmt := by
  decide
theorem witness_Attestation :
    State.reset.sec.running = false ∧ sReady.sec.running = true ∧ spdmRequest 0x11 (.getDigests 0x11) ∧ (certChain sReady).length ≤ (certChain sReady).length
      ∧ 0 < (certChain sReady).length ∧ 5 < 6 ∧ 6 ≠ 0xFF :=
  ⟨rfl, rfl, .inr (.inr (.inl rfl)), le_refl _, Nat.succ_pos _, by decide, by decide⟩
theorem witness_MonitorAndTelemetry_lines :
    monitorLine 81 (.monSt 81) ∧ monLive State.reset = false ∧ monLive sReady = true ∧ debugOpen (sMon true 2) = false
      ∧ monLive (sMon true 2) = true ∧ 115200 ∈ baudRates ∧ 1 ∉ baudRates :=
  ⟨.inr (.inr (.inr (.inl rfl))), by decide, by decide, by decide, by decide, by decide, by decide⟩
theorem witness_MonitorAndTelemetry_accesses :
    (4 : Word).toNat % 8 ≠ 0 ∧ monReach (sMon false 1) 0x20000 = false ∧ monReach sReady 0x20000 = true
      ∧ regionOf (configBase + MST_TIME) = .config MST_TIME ∧ monReach sReady (configBase + MST_TIME) = true
      ∧ (sysRead sReady .mgmt .requester 0x20000 8).1 = .data (List.replicate 8 0)
      ∧ (sysWrite sReady .mgmt 0x20000 (bytesOf 8 5)).1 = .data [] ∧ debugOpen sReady = true ∧ deviceReady (sMon false 1) = false
      ∧ smbusOwned sReady = true ∧ smbusOwned State.reset = false := by decide
theorem witness_MonitorAndTelemetry_no_register : ∀ o, regionOf 0x20000 ≠ .config o := by
  intro o h
  have : regionOf 0x20000 = .user := by decide
  rw [this] at h; cases h
theorem witness_DecodeOfEncode :
    encodable (.scalarAlu 11 xAlu) = true ∧ decodeWord at0 (0x20#8 ++ 0#56) = some (.ld 0 (on0 0 0 0 0 0) .clean) := by decide
theorem witness_StepsKeepMemoryCanonical :
    memWf (mems [(5, [1, 2]), (9, [3])]) = true
      ∧ ∃ t, step { State.reset with mem := mems [(5, [1, 2])], pending := [.lateSample] } = .next t := ⟨by decide, _, rfl⟩

/-- A software source becomes pending (R537). -/
theorem test_software_interrupt : ∃ t, exec (.icuSwi 1000) sReady = .next t ∧ rdb t (ICU_SRC 1000) ICU_SRC_pending = true :=
  ⟨_, rfl, by decide⟩
/-- A command at the front of the queue is taken from it. -/
theorem test_step_takes_front : ∃ t, step { State.reset with pending := [.watchdogKick, .lateSample] } = .next t
    ∧ t.pending = [.lateSample] := ⟨_, rfl, by decide⟩
/-- A missing port faults. -/
theorem test_missing_port : step { State.reset with pending := [.portEnable 36] } = .fault .noSuchInstance := rfl

end Sys2Proof.Tests
end

section
/-! PROOFS. Scalar arithmetic (class 0x1_, R134 to R137): what an instruction that issues answers, the integer results, the
comparisons and the FP32 results. -/

namespace Sys2Proof.Machine

variable (s : State)

/-! ### What a scalar instruction that issues answers -/

/-- The state after an instruction that writes `w` to register `r` of its stream and goes on. -/
def wrote (s : State) (x : Insn) (r : Nat) (w : Word) : State :=
  issued s (modStr s x.core x.stream (·.setReg r w)) x none (pcAfter (strm s x).pc)

/-- The state after an instruction that names a register it may not name (R126). -/
def operandFaulted (s : State) (x : Insn) : State :=
  coreFault s x.core x.stream 0x02 (BitVec.ofNat 64 (strm s x).pc)

/-- The command answers a next state in which register `r` of its stream holds `w`, the pc is at the next instruction, and
nothing else has changed. -/
def Writes (i : Instr) (s : State) (x : Insn) (r : Nat) (w : Word) : Prop :=
  ∃ t, exec i s = .next t ∧ strm t x = { (strm s x).setReg r w with pc := pcAfter (strm s x).pc }
    ∧ OnlyStream s t x.core x.stream

/-- The command faults as an illegal operand (0x02), with the memory as it was. -/
def Refuses (i : Instr) (s : State) (x : Insn) : Prop :=
  ∃ t, exec i s = .next t ∧ strm t x = (strm s x).halting .fault 0x02 ∧ t.mem = s.mem

/-- A legal instruction whose body checks its register specifiers and writes one register answers the write or the fault. -/
theorem exec_checkedWrite {x : Insn} {legal bad : Bool} {r : Nat} {f : Stream → Word} (h : issues s x none = true)
    (hl : legal = true) :
    onCore x.core (issueInsn s x none legal (fun s st => if bad then badOperand st else goReg s x r (f st)))
      = .next (if bad then operandFaulted s x else wrote s x r (f (strm s x))) := by
  rw [exec_issue s h hl]
  cases bad with
  | false => rw [if_neg Bool.false_ne_true, if_neg Bool.false_ne_true, goReg, wrote]
  | true => rw [if_pos rfl, if_pos rfl, badOperand, operandFaulted]

variable {s}

theorem writes_of_exec {i : Instr} {x : Insn} {bad : Bool} {r : Nat} {w : Word}
    (e : exec i s = .next (if bad then operandFaulted s x else wrote s x r w)) (hb : bad = false) : Writes i s x r w := by
  rw [hb, if_neg Bool.false_ne_true, wrote] at e
  exact ⟨_, e, issued_modStr s x _ _⟩

theorem refuses_of_exec {i : Instr} {x : Insn} {bad : Bool} {r : Nat} {w : Word}
    (e : exec i s = .next (if bad then operandFaulted s x else wrote s x r w)) (hb : bad = true) : Refuses i s x := by
  rw [hb, if_pos rfl, operandFaulted] at e
  exact ⟨_, e, strOf_coreFault_self s _ _ _ _, coreFault_mem s _ _ _ _⟩

section Answers

variable {x : Insn} (h : issues s x none = true)
include h

theorem exec_scalarAlu_of_issues {fn : BitVec 4} (hf : fn.toNat < 12) (hz : bitsN x.b 29 0 = 0) :
    exec (.scalarAlu fn x) s = .next (if !isSA x.r0 || !isSAP x.r1 || !isSAP x.r2 then operandFaulted s x
      else wrote s x x.r0 (intAlu fn.toNat ((strm s x).reg x.r1) ((strm s x).reg x.r2))) :=
  exec_checkedWrite s h (by simp [hf, hz])

theorem exec_scalarAluImm_of_issues {fn : BitVec 4} (hf : fn.toNat < 12) :
    exec (.scalarAluImm fn x) s = .next (if !isSA x.r0 || !isSAP x.r1 then operandFaulted s x
      else wrote s x x.r0 (intAlu fn.toNat ((strm s x).reg x.r1) (wordOf x.imm))) :=
  exec_checkedWrite s h (by simp [hf])

theorem exec_scalarMulDiv_of_issues {fn : BitVec 4} (hf : fn.toNat < 7) (hz : bitsN x.b 29 0 = 0) :
    exec (.scalarMulDiv fn x) s = .next (if !isSA x.r0 || !isSAP x.r1 || !isSAP x.r2 then operandFaulted s x
      else wrote s x x.r0 (intMulDiv fn.toNat ((strm s x).reg x.r1) ((strm s x).reg x.r2))) :=
  exec_checkedWrite s h (by simp [hf, hz])

theorem exec_li_of_issues (hz : x.r1 = 0) :
    exec (.li x) s = .next (if !isSA x.r0 then operandFaulted s x else wrote s x x.r0 (wordOf x.imm)) :=
  exec_checkedWrite s h (by simp [hz])

theorem exec_lih_of_issues (hz : x.r1 = 0) :
    exec (.lih x) s = .next (if !isSA x.r0 then operandFaulted s x
      else wrote s x x.r0 (BitVec.ofNat 64 (bitsN x.b 27 0 * 2 ^ 36 + bits ((strm s x).reg x.r0) 35 0))) :=
  exec_checkedWrite s h (by simp [hz])

theorem exec_cmp_of_issues {fn : BitVec 4} (hf : fn.toNat < 6) (hz : bitsN x.b 29 0 = 0) :
    exec (.cmp fn x) s = .next (if !isP x.r0 || !isSAP x.r1 || !isSAP x.r2 then operandFaulted s x
      else wrote s x x.r0 (boolWord (intCmp fn.toNat ((strm s x).reg x.r1) ((strm s x).reg x.r2)))) :=
  exec_checkedWrite s h (by simp [hf, hz])

theorem exec_cmpi_of_issues {fn : BitVec 4} (hf : fn.toNat < 6) :
    exec (.cmpi fn x) s = .next (if !isP x.r0 || !isSAP x.r1 then operandFaulted s x
      else wrote s x x.r0 (boolWord (intCmp fn.toNat ((strm s x).reg x.r1) (wordOf x.imm)))) :=
  exec_checkedWrite s h (by simp [hf])

theorem exec_fcmp_of_issues {fn : BitVec 4} (hf : fn.toNat < 4) (hz : bitsN x.b 29 0 = 0) :
    exec (.fcmp fn x) s = .next (if !isP x.r0 || !isSAP x.r1 || !isSAP x.r2 then operandFaulted s x
      else wrote s x x.r0
        (boolWord (fpCmp fn.toNat (regF32 ((strm s x).reg x.r1)) (regF32 ((strm s x).reg x.r2))))) :=
  exec_checkedWrite s h (by simp [hf, hz])

theorem exec_scalarFp_of_issues {fn : BitVec 4} (hf : fn.toNat < 10) (hz : bitsN x.b 29 0 = 0)
    (hu : 6 ≤ fn.toNat → x.r2 = 0) :
    exec (.scalarFp fn x) s = .next (if !isSA x.r0 || !isSAP x.r1 || !isSAP x.r2 then operandFaulted s x
      else wrote s x x.r0 (scalarFpOp fn.toNat ((strm s x).reg x.r1) ((strm s x).reg x.r2))) :=
  exec_checkedWrite s h (by
    have hu' : fn.toNat < 6 ∨ x.r2 = 0 := (Nat.lt_or_ge _ 6).imp_right hu
    simpa [hf, hz] using hu')

theorem exec_fma_of_issues (hz : bitsN x.b 23 0 = 0) :
    exec (.fma x) s = .next (if !isSA x.r0 || !isSAP x.r1 || !isSAP x.r2 || !isSAP x.r3 then operandFaulted s x
      else wrote s x x.r0 (f32Word (fadd (fmul (regF32 ((strm s x).reg x.r1)) (regF32 ((strm s x).reg x.r2)))
        (regF32 ((strm s x).reg x.r3))))) :=
  exec_checkedWrite s h (by simp [hz])

end Answers

/-! ### Signed words -/

theorem sgn_eq_toInt (w : Word) : sgn w = w.toInt := by
  have := w.isLt
  simp only [sgn, sextN, BitVec.toInt_eq_toNat_cond]
  split <;> split <;> omega

theorem wordOf_eq_ofInt (i : Int) : wordOf i = BitVec.ofInt 64 i := by
  have hw : wrapN 64 i < 2 ^ 64 := by simp only [wrapN]; omega
  apply BitVec.eq_of_toNat_eq
  rw [wordOf, BitVec.toNat_ofNat, Nat.mod_eq_of_lt hw, BitVec.toNat_ofInt]
  rfl

theorem toInt_wordOf {i : Int} (h1 : -2 ^ 63 ≤ i) (h2 : i < 2 ^ 63) : (wordOf i).toInt = i := by
  rw [wordOf_eq_ofInt]
  exact BitVec.toInt_ofInt_eq_self (by decide) h1 h2

theorem toInt_wordOf_modEq (i : Int) : (wordOf i).toInt ≡ i [ZMOD 2 ^ 64] := by
  rw [wordOf_eq_ofInt, BitVec.toInt_ofInt]
  exact Int.bmod_emod

/-! ### Integer results (R134 to R136) -/

/-- The integer operations give what Table 04-4 says. -/
theorem aluRule_intAlu (fn : Nat) (a b : Word) : aluRule fn a b (intAlu fn a b) := by
  match fn with
  | 0 => exact BitVec.toNat_add a b
  | 1 =>
    have := a.isLt; have := b.isLt
    simp only [aluRule, intAlu, BitVec.toNat_sub]; omega
  | 2 => exact fun i => BitVec.getLsbD_and
  | 3 => exact fun i => BitVec.getLsbD_or
  | 4 => exact fun i => BitVec.getLsbD_xor
  | 5 => simp only [aluRule, intAlu, BitVec.toNat_shiftLeft, Nat.shiftLeft_eq]
  | 6 => simp only [aluRule, intAlu, BitVec.toNat_ushiftRight, Nat.shiftRight_eq_div_pow]
  | 7 => simp only [aluRule, intAlu, BitVec.toInt_sshiftRight, Int.shiftRight_eq_div_pow]; norm_cast
  | 8 => simp only [aluRule, intAlu, sgn_eq_toInt, apply_ite BitVec.toInt, min_def]
  | 9 => simp only [aluRule, intAlu, sgn_eq_toInt, apply_ite BitVec.toInt, max_comm a.toInt, max_def, ge_iff_le]
  | 10 => simp only [aluRule, intAlu, apply_ite BitVec.toNat, min_def]
  | n + 11 => simp only [aluRule, intAlu, apply_ite BitVec.toNat, max_comm a.toNat, max_def, ge_iff_le]

/-- The high half of a signed product fits a signed word. -/
theorem mulHigh_bounds (a b : Word) : -2 ^ 63 ≤ a.toInt * b.toInt / 2 ^ 64 ∧ a.toInt * b.toInt / 2 ^ 64 < 2 ^ 63 := by
  have := a.toInt_lt; have := a.le_toInt; have := b.toInt_lt; have := b.le_toInt
  have h : |a.toInt * b.toInt| ≤ 2 ^ 63 * 2 ^ 63 := by
    rw [abs_mul]
    exact mul_le_mul (abs_le.2 ⟨by omega, by omega⟩) (abs_le.2 ⟨by omega, by omega⟩) (abs_nonneg _) (by positivity)
  obtain ⟨hl, hu⟩ := abs_le.1 h
  omega

/-- A signed remainder is smaller than its divisor, so that it fits a signed word. -/
theorem tmod_bounds {a b : Word} (h : b ≠ 0) : -2 ^ 63 ≤ a.toInt.tmod b.toInt ∧ a.toInt.tmod b.toInt < 2 ^ 63 := by
  have := b.toInt_lt; have := b.le_toInt
  have hb : b.toInt ≠ 0 := fun e => h (BitVec.eq_of_toInt_eq (by simpa using e))
  have h1 := Int.natAbs_tmod a.toInt b.toInt
  have h2 : a.toInt.natAbs % b.toInt.natAbs < b.toInt.natAbs := Nat.mod_lt _ (by omega)
  omega

/-- Multiplication and division give what Table 04-4 and R136 say. -/
theorem mulDivRule_intMulDiv (fn : Nat) (a b : Word) : mulDivRule fn a b (intMulDiv fn a b) := by
  have ha := a.isLt
  match fn with
  | 0 => exact BitVec.toNat_mul a b
  | 1 =>
    obtain ⟨hl, hu⟩ := mulHigh_bounds a b
    simp only [mulDivRule, intMulDiv, sgn_eq_toInt, toInt_wordOf hl hu]
  | 2 =>
    have h : a.toNat * b.toNat / 2 ^ 64 < 2 ^ 64 :=
      Nat.div_lt_of_lt_mul (Nat.mul_lt_mul'' ha b.isLt)
    simp only [mulDivRule, intMulDiv, BitVec.toNat_ofNat, Nat.mod_eq_of_lt h]
  | 3 =>
    simp only [mulDivRule, intMulDiv, sgn_eq_toInt]
    split
    · rfl
    · exact toInt_wordOf_modEq _
  | 4 =>
    have h : a.toNat / b.toNat < 2 ^ 64 := (Nat.div_le_self _ _).trans_lt ha
    simp only [mulDivRule, intMulDiv]
    split
    · rfl
    · rw [BitVec.toNat_ofNat, Nat.mod_eq_of_lt h]
  | 5 =>
    simp only [mulDivRule, intMulDiv, sgn_eq_toInt]
    split
    · rfl
    · next hb =>
      obtain ⟨hl, hu⟩ := tmod_bounds (a := a) hb
      exact toInt_wordOf hl hu
  | n + 6 =>
    have h : a.toNat % b.toNat < 2 ^ 64 := (Nat.mod_le _ _).trans_lt ha
    simp only [mulDivRule, intMulDiv]
    split
    · rfl
    · rw [BitVec.toNat_ofNat, Nat.mod_eq_of_lt h]

/-- LIH puts its 28 bits above the 36 that the register keeps (R134). -/
theorem lihWord_parts (n : Nat) (w : Word) :
    (BitVec.ofNat 64 (bitsN n 27 0 * 2 ^ 36 + bits w 35 0)).toNat / 2 ^ 36 = bitsN n 27 0
      ∧ (BitVec.ofNat 64 (bitsN n 27 0 * 2 ^ 36 + bits w 35 0)).toNat % 2 ^ 36 = w.toNat % 2 ^ 36 := by
  simp only [bits, bitsN, BitVec.toNat_ofNat]
  omega

/-- The comparisons hold where R135 says. -/
theorem intCmp_iff_cmpRule (fn : Nat) (a b : Word) : intCmp fn a b = true ↔ cmpRule fn a b := by
  match fn with
  | 0 => exact beq_iff_eq
  | 1 => exact bne_iff_ne
  | 2 => simp [intCmp, cmpRule, sgn_eq_toInt]
  | 3 => simp [intCmp, cmpRule, sgn_eq_toInt]
  | 4 => simp [intCmp, cmpRule]
  | n + 5 => simp [intCmp, cmpRule]

theorem boolWord_eq_one_iff (b : Bool) : boolWord b = 1 ↔ b = true := by cases b <;> decide

theorem boolWord_zero_or_one (b : Bool) : boolWord b = 0 ∨ boolWord b = 1 := by cases b <;> decide

end Sys2Proof.Machine
end

section
/-! PROOFS. FP32 arithmetic (R135, R137): encodings fit 32 bits, what the operations give for a NaN, and comparison by exact
value. -/

namespace Sys2Proof.Machine

/-! ### FP32 encodings fit 32 bits (R137) -/

theorem roundShift_le (mode : Rmode) (m sh : Nat) : roundShift mode m sh ≤ m / 2 ^ sh + 1 := by
  cases mode <;> simp only [roundShift] <;> split <;> omega

/-- A quantized magnitude has at most one significant bit more than the fraction of its format, or is the power of two above. -/
theorem quantize_fst_le (f : Fmt) (mode : Rmode) (m : Nat) (e : Int) : (quantize f mode m e).1 ≤ 2 ^ (f.mb + 1) := by
  have hm : m < 2 ^ (m.log2 + 1) := Nat.lt_log2_self
  simp only [quantize]
  generalize hq : max ((m.log2 : Int) + e) (1 - f.bias) - f.mb = q
  split
  · next hle =>
    calc m * 2 ^ (e - q).toNat ≤ 2 ^ (m.log2 + 1) * 2 ^ (e - q).toNat := Nat.mul_le_mul_right _ hm.le
      _ = 2 ^ (m.log2 + 1 + (e - q).toNat) := (pow_add ..).symm
      _ ≤ 2 ^ (f.mb + 1) := Nat.pow_le_pow_right (by decide) (by omega)
  · next hlt =>
    have h : m / 2 ^ (q - e).toNat < 2 ^ (f.mb + 1) := by
      rw [Nat.div_lt_iff_lt_mul (by positivity), ← pow_add]
      exact hm.trans_le (Nat.pow_le_pow_right (by decide) (by omega))
    exact (roundShift_le ..).trans h

/-- A magnitude of 24 bits that is not beyond the largest finite FP32 number has at most that number's exponent. -/
theorem exponent_le_of_magGt_fFP32 {n : Nat} {q : Int} (hn : 2 ^ 23 ≤ n) (h : magGt (n, q) (maxFinite fFP32) = false) :
    q ≤ 104 := by
  by_contra hlt
  have hmax : maxFinite fFP32 = (2 ^ 24 - 1, 104) := by decide
  have hmin : min q 104 = 104 := by omega
  have hpow : 2 ^ 1 ≤ 2 ^ (q - 104).toNat := Nat.pow_le_pow_right (by decide) (by omega)
  simp only [magGt, hmax, hmin, decide_eq_false_iff_not, sub_self, Int.toNat_zero, pow_zero, mul_one] at h
  have := Nat.mul_le_mul hn hpow
  omega

/-- An FP32 magnitude that is not beyond the largest finite one packs below the sign bit. -/
theorem packMag_fFP32_lt {nq : Nat × Int} (hn : nq.1 ≤ 2 ^ 24) (h : magGt nq (maxFinite fFP32) = false) :
    packMag fFP32 nq.1 nq.2 < 2 ^ 31 := by
  obtain ⟨n, q⟩ := nq
  have hq : 2 ^ 23 ≤ n → q ≤ 104 := fun hn => exponent_le_of_magGt_fFP32 hn h
  have hcarry : n = 2 ^ 24 → q ≠ 104 := by
    rintro rfl rfl
    exact absurd h (by decide)
  simp only at hn
  simp only [packMag]
  split_ifs with hsub hmax <;> simp only [fFP32] at hsub ⊢
  · omega
  · simp only [fFP32] at hmax; omega
  · simp only [fFP32] at hmax; omega

/-- Every FP32 encoding has 32 bits. -/
theorem encodeFp_fFP32_lt (mode : Rmode) (sat : Bool) (x : Fp) : (encodeFp fFP32 mode sat x).1 < 2 ^ 32 := by
  have hsign (neg : Bool) : signBit fFP32 neg ≤ 2 ^ 31 := by cases neg <;> decide
  have hbig : packMag fFP32 (maxFinite fFP32).1 (maxFinite fFP32).2 < 2 ^ 31 := by decide
  have hinf : (2 ^ fFP32.eb - 1) * 2 ^ fFP32.mb < 2 ^ 31 := by decide
  have hinfs : fFP32.infs = true := rfl
  cases x with
  | nan => exact show fFP32.nan < 2 ^ 32 by decide
  | inf neg =>
    have := hsign neg
    simp only [encodeFp, hinfs, if_true, apply_ite Prod.fst]
    split_ifs <;> omega
  | fin neg m e =>
    have := hsign neg
    have hpack := packMag_fFP32_lt (quantize_fst_le fFP32 mode m e)
    simp only [encodeFp, hinfs, if_true, apply_ite Prod.fst]
    split_ifs with hm hg hs
    · omega
    · omega
    · omega
    · have := hpack (Bool.eq_false_of_not_eq_true hg)
      omega

/-- Bits [63:32] of an FP32 result are zero. -/
theorem f32Word_toNat_lt (x : Fp) : (f32Word x).toNat < 2 ^ 32 := by
  have h : to32 x < 2 ^ 32 := encodeFp_fFP32_lt ..
  rw [f32Word, BitVec.toNat_ofNat]
  omega

/-! ### FP32 results (R137) -/

theorem f32Word_of_nan {x : Fp} (h : x = .nan) : f32Word x = 0x7FC00000 := by rw [h]; rfl

theorem isNan_iff (x : Fp) : isNan x = true ↔ x = .nan := by cases x <;> simp [isNan]

theorem fneg_nan_iff (x : Fp) : fneg x = .nan ↔ x = .nan := by cases x <;> simp [fneg]

theorem fadd_nan {x y : Fp} (h : x = .nan ∨ y = .nan) : fadd x y = .nan := by
  obtain rfl | rfl := h
  · rfl
  · cases x <;> rfl

theorem fsub_nan {x y : Fp} (h : x = .nan ∨ y = .nan) : fsub x y = .nan :=
  fadd_nan (h.imp_right (fneg_nan_iff y).2)

theorem fmul_nan {x y : Fp} (h : x = .nan ∨ y = .nan) : fmul x y = .nan := by
  obtain rfl | rfl := h
  · rfl
  · cases x <;> rfl

theorem fdiv_nan {x y : Fp} (h : x = .nan ∨ y = .nan) : fdiv x y = .nan := by
  obtain rfl | rfl := h
  · rfl
  · cases x <;> rfl

/-- A saturated integer fits a signed word. -/
theorem toInt_wordOf_saturated (i : Int) :
    (wordOf (max (-2 ^ 63) (min (2 ^ 63 - 1) i))).toInt = max (-2 ^ 63) (min (2 ^ 63 - 1) i) :=
  toInt_wordOf (by omega) (by omega)

/-- The FP32 operations give what R137 says. -/
theorem floatRule_scalarFpOp (fn : Nat) (a b : Word) : floatRule fn a b (scalarFpOp fn a b) := by
  simp only [floatRule, scalarFpOp, isNan_iff, sgn_eq_toInt]
  generalize regF32 a = x
  generalize regF32 b = y
  match fn with
  | 0 => exact ⟨rfl, fun h => f32Word_of_nan (fadd_nan h)⟩
  | 1 => exact ⟨rfl, fun h => f32Word_of_nan (fsub_nan h)⟩
  | 2 => exact ⟨rfl, fun h => f32Word_of_nan (fmul_nan h)⟩
  | 3 => exact ⟨rfl, fun h => f32Word_of_nan (fdiv_nan h)⟩
  | 4 => exact ⟨rfl, by rintro rfl rfl; rfl⟩
  | 5 => exact ⟨rfl, by rintro rfl rfl; rfl⟩
  | 6 => exact ⟨rfl, by rintro rfl; rfl⟩
  | 7 => rfl
  | 8 => rfl
  | n + 9 =>
    refine ⟨by rintro rfl; rfl, by rintro rfl; rfl, by rintro rfl; rfl, ?_⟩
    rintro neg m e rfl
    exact toInt_wordOf_saturated _

/-! ### FP32 comparisons (R135) -/

/-- The value of a dyadic. -/
def dyVal (d : Dy) : ℚ := d.m * 2 ^ d.e

theorem dyVal_dyAdd (a b : Dy) : dyVal (dyAdd a b) = dyVal a + dyVal b := by
  have scale {e k : Int} (h : k ≤ e) : (2 : ℚ) ^ (e - k).toNat * 2 ^ k = 2 ^ e := by
    rw [← zpow_natCast, ← zpow_add₀ two_ne_zero]
    congr 1; omega
  simp only [dyVal, dyAdd]
  push_cast
  rw [add_mul, mul_assoc, mul_assoc, scale (min_le_left ..), scale (min_le_right ..)]

theorem dyVal_dyNeg (a : Dy) : dyVal (dyNeg a) = -dyVal a := by simp [dyVal, dyNeg]

theorem dyVal_neg_iff (d : Dy) : dyVal d < 0 ↔ d.m < 0 := by
  have h : (0 : ℚ) < 2 ^ d.e := by positivity
  rw [dyVal, ← not_le, mul_nonneg_iff_of_pos_right h, not_le]
  exact Int.cast_lt_zero

/-- Dyadics compare as the values that they stand for. -/
theorem dyLt_iff (a b : Dy) : dyLt a b = true ↔ dyVal a < dyVal b := by
  rw [dyLt, decide_eq_true_eq, ← dyVal_neg_iff, dyVal_dyAdd, dyVal_dyNeg, ← sub_eq_add_neg, sub_neg]

theorem fpPlace_fin (n : Bool) (m : Nat) (e : Int) : fpPlace (.fin n m e) = (0, dyVal (dyOf (.fin n m e))) := by
  cases n <;> simp [fpPlace, dyVal, dyOf]

/-- Two numbers compare as the places where they stand, infinities first, in lexicographic order. -/
theorem flt_iff (x y : Fp) : flt x y = true ↔ x ≠ .nan ∧ y ≠ .nan ∧ toLex (fpPlace x) < toLex (fpPlace y) := by
  cases x with
  | nan => simp [flt]
  | inf n =>
    cases y with
    | nan => simp [flt]
    | inf n' => cases n <;> cases n' <;> simp [flt, fpPlace, Prod.Lex.toLex_lt_toLex]
    | fin n' m' e' => cases n <;> simp [flt, fpPlace, Prod.Lex.toLex_lt_toLex]
  | fin n m e =>
    cases y with
    | nan => simp [flt]
    | inf n' => cases n' <;> simp [flt, fpPlace, Prod.Lex.toLex_lt_toLex]
    | fin n' m' e' => simp [flt, fpPlace_fin, Prod.Lex.toLex_lt_toLex, dyLt_iff]

theorem feq_iff (x y : Fp) : feq x y = true ↔ x ≠ .nan ∧ y ≠ .nan ∧ fpPlace x = fpPlace y := by
  have h : fpPlace x = fpPlace y
      ↔ ¬ toLex (fpPlace x) < toLex (fpPlace y) ∧ ¬ toLex (fpPlace y) < toLex (fpPlace x) := by
    rw [not_lt, not_lt, and_comm, ← le_antisymm_iff, toLex_inj]
  simp only [feq, Bool.and_eq_true, Bool.not_eq_true', ← Bool.not_eq_true, flt_iff, isNan_iff, h]
  tauto

theorem fpCmp_iff_fcmpRule (fn : Nat) (x y : Fp) : fpCmp fn x y = true ↔ fcmpRule fn x y := by
  simp only [fcmpRule, ← Prod.Lex.toLex_lt_toLex]
  match fn with
  | 0 => exact feq_iff x y
  | 1 => exact flt_iff x y
  | 2 =>
    simp only [fpCmp, Bool.or_eq_true, flt_iff, feq_iff]
    tauto
  | n + 3 => simp only [fpCmp, Bool.or_eq_true, isNan_iff]

end Sys2Proof.Machine
end

section
/-! PROOFS. The statements about integer results, comparisons and FP32 results, settled. -/

namespace Sys2Proof.Machine

/-- Settles O4: each instruction's one equation gives the write and what stays, and its arithmetic law gives the value. -/
theorem integerResults : Obligations.IntegerResults := by
  unfold Obligations.IntegerResults
  refine ⟨?alu, ?aluImm, ?mulDiv, ?li, ?lih⟩
  case alu =>
    intro fn x s h hf hz h0 h1 h2
    obtain ⟨t, e, hs, ho⟩ := writes_of_exec (exec_scalarAlu_of_issues h hf hz) (by simp [isSA, isSAP, h0, h1, h2])
    exact ⟨t, _, e, aluRule_intAlu .., hs, ho⟩
  case aluImm =>
    intro fn x s h hf h0 h1
    obtain ⟨t, e, hs, ho⟩ := writes_of_exec (exec_scalarAluImm_of_issues h hf) (by simp [isSA, isSAP, h0, h1])
    exact ⟨t, _, e, wordOf_eq_ofInt x.imm ▸ aluRule_intAlu .., hs, ho⟩
  case mulDiv =>
    intro fn x s h hf hz h0 h1 h2
    obtain ⟨t, e, hs, ho⟩ := writes_of_exec (exec_scalarMulDiv_of_issues h hf hz) (by simp [isSA, isSAP, h0, h1, h2])
    exact ⟨t, _, e, mulDivRule_intMulDiv .., hs, ho⟩
  case li =>
    intro x s h hz h0
    rw [← wordOf_eq_ofInt]
    exact writes_of_exec (exec_li_of_issues h hz) (by simp [isSA, h0])
  case lih =>
    intro x s h hz h0
    obtain ⟨t, e, hs, ho⟩ := writes_of_exec (exec_lih_of_issues h hz) (by simp [isSA, h0])
    obtain ⟨hhigh, hlow⟩ := lihWord_parts x.b ((strm s x).reg x.r0)
    exact ⟨t, _, e, hhigh, hlow, hs, ho⟩

/-- A comparison whose destination is no predicate faults (R135). -/
theorem comparisons_refuse {s : State} {x : Insn} (h : issues s x none = true) (fn : BitVec 4) (hp : isP x.r0 = false) :
    (fn.toNat < 6 → bitsN x.b 29 0 = 0 → Refuses (.cmp fn x) s x) ∧ (fn.toNat < 6 → Refuses (.cmpi fn x) s x)
      ∧ (fn.toNat < 4 → bitsN x.b 29 0 = 0 → Refuses (.fcmp fn x) s x) :=
  ⟨fun hf hz => refuses_of_exec (exec_cmp_of_issues h hf hz) (by simp [hp]),
    fun hf => refuses_of_exec (exec_cmpi_of_issues h hf) (by simp [hp]),
    fun hf hz => refuses_of_exec (exec_fcmp_of_issues h hf hz) (by simp [hp])⟩

/-- An operation whose destination is no s or a register faults (R126). -/
theorem results_refuse {s : State} {x : Insn} (h : issues s x none = true) (fn : BitVec 4) (hr : 48 ≤ x.r0) :
    (fn.toNat < 12 → bitsN x.b 29 0 = 0 → Refuses (.scalarAlu fn x) s x) ∧ (fn.toNat < 12 → Refuses (.scalarAluImm fn x) s x)
      ∧ (fn.toNat < 7 → bitsN x.b 29 0 = 0 → Refuses (.scalarMulDiv fn x) s x)
      ∧ (bitsN x.b 23 0 = 0 → Refuses (.fma x) s x)
      ∧ (x.r1 = 0 → Refuses (.li x) s x ∧ Refuses (.lih x) s x)
      ∧ (fn.toNat < 10 → bitsN x.b 29 0 = 0 → (6 ≤ fn.toNat → x.r2 = 0) → Refuses (.scalarFp fn x) s x) := by
  have hd : isSA x.r0 = false := decide_eq_false (by omega)
  exact ⟨fun hf hz => refuses_of_exec (exec_scalarAlu_of_issues h hf hz) (by simp [hd]),
    fun hf => refuses_of_exec (exec_scalarAluImm_of_issues h hf) (by simp [hd]),
    fun hf hz => refuses_of_exec (exec_scalarMulDiv_of_issues h hf hz) (by simp [hd]),
    fun hz => refuses_of_exec (exec_fma_of_issues h hz) (by simp [hd]),
    fun hz => ⟨refuses_of_exec (exec_li_of_issues h hz) (by simp [hd]),
      refuses_of_exec (exec_lih_of_issues h hz) (by simp [hd])⟩,
    fun hf hz hu => refuses_of_exec (exec_scalarFp_of_issues h hf hz hu) (by simp [hd])⟩

/-- Settles O5: each instruction's one equation gives the write or the fault, and its law of comparison or of FP32
arithmetic gives the value. -/
theorem comparisonsAndFloatResults : Obligations.ComparisonsAndFloatResults := by
  unfold Obligations.ComparisonsAndFloatResults
  refine ⟨?cmp, ?cmpi, ?fcmp, ?scalarFp, ?fma, ?refuses⟩
  case cmp =>
    intro fn x s h hf hz hp h1 h2
    obtain ⟨t, e, hs, ho⟩ := writes_of_exec (exec_cmp_of_issues h hf hz) (by simp [isSAP, hp, h1, h2])
    exact ⟨t, _, e, (boolWord_eq_one_iff _).trans (intCmp_iff_cmpRule ..), boolWord_zero_or_one _, hs, ho⟩
  case cmpi =>
    intro fn x s h hf hp h1
    obtain ⟨t, e, hs, ho⟩ := writes_of_exec (exec_cmpi_of_issues h hf) (by simp [isSAP, hp, h1])
    rw [← wordOf_eq_ofInt]
    exact ⟨t, _, e, (boolWord_eq_one_iff _).trans (intCmp_iff_cmpRule ..), boolWord_zero_or_one _, hs, ho⟩
  case fcmp =>
    intro fn x s h hf hz hp h1 h2
    obtain ⟨t, e, hs, ho⟩ := writes_of_exec (exec_fcmp_of_issues h hf hz) (by simp [isSAP, hp, h1, h2])
    exact ⟨t, _, e, boolWord_zero_or_one _, (boolWord_eq_one_iff _).trans (fpCmp_iff_fcmpRule ..), hs, ho⟩
  case scalarFp =>
    intro fn x s h hf hz hu h0 h1 h2
    obtain ⟨t, e, hs, ho⟩ := writes_of_exec (exec_scalarFp_of_issues h hf hz hu) (by simp [isSA, isSAP, h0, h1, h2])
    exact ⟨t, _, e, floatRule_scalarFpOp .., hs, ho⟩
  case fma =>
    intro x s h hz h0 h1 h2 h3
    obtain ⟨t, e, hs, ho⟩ := writes_of_exec (exec_fma_of_issues h hz) (by simp [isSA, isSAP, h0, h1, h2, h3])
    exact ⟨t, _, e, f32Word_toNat_lt _, rfl, hs, ho⟩
  case refuses =>
    exact fun fn x s h => ⟨comparisons_refuse h fn, results_refuse h fn⟩

end Sys2Proof.Machine
end

section
/-! PROOFS. The interrupt controller (R536 to R540, R551): what a signal leaves, the source that a claim takes, and what a
source's register holds after an event and after a write. -/

namespace Sys2Proof.Machine

variable (s : State)

/-! ### What a command answers -/

variable {s} in
theorem onlyIf_powered {t : State} {p : Prop} [Decidable p] (hp : s.boot.pg = true) (h : p) :
    onlyIf (decide p) (powered s t) = .next t := by
  rw [powered_on s t hp, onlyIf, if_pos (decide_eq_true h)]

/-- A command for something that the part lacks faults: the choice of the model, notes/assumptions/94. -/
theorem onlyIf_of_not {p : Prop} [Decidable p] (h : ¬ p) : onlyIf (decide p) s = .fault .noSuchInstance := by
  rw [onlyIf, decide_eq_false h, if_neg Bool.false_ne_true]

/-! ### Registers and fields -/

theorem onlyRegs_wr (o : Nat) (w : Word) : OnlyRegs s (wr s o w) [o] :=
  ⟨rfl, fun _ h => rd_wr_other s o _ w (List.ne_of_not_mem_cons h)⟩

theorem onlyRegs_wr_wr (o : Nat) (v w : Word) : OnlyRegs s (wr (wr s o v) o w) [o] := by
  refine ⟨rfl, fun _ h => ?_⟩
  have h := List.ne_of_not_mem_cons h
  rw [rd_wr_other _ _ _ _ h, rd_wr_other _ _ _ _ h]

theorem rdf_count_self (o : Nat) (f : Fld) (n : Nat) (h : f.lo + f.width ≤ 64) :
    rdf (count s o f n) o f = (rdf s o f + n) % 2 ^ f.width := by
  rw [rdf, count, rd_wr_self, addf, getf_setf_self _ _ _ h, rdf]

theorem getf_setb_other (w : Word) (f g : Fld) (b : Bool) (h : f.lo + f.width ≤ 64)
    (hd : g.lo + g.width ≤ f.lo ∨ f.lo + f.width ≤ g.lo) : getf (setb w f b) g = getf w g :=
  getf_setf_other w f g _ h hd

theorem getb_setb_other (w : Word) (f g : Fld) (b : Bool) (h : f.lo + f.width ≤ 64)
    (hd : g.lo + g.width ≤ f.lo ∨ f.lo + f.width ≤ g.lo) : getb (setb w f b) g = getb w g :=
  getb_setf_other w f g _ h hd

/-! ### What a signal leaves (R540) -/

/-- The vectors that a source can name pend below the sources' registers. -/
theorem rd_signalVector {v o : Nat} (hv : v < 2 ^ 11) (ho : 0x288100 ≤ o) : rd (signalVector s v) o = rd s o := by
  have hne : o ≠ 0x288000 + v / 64 * 8 := by omega
  simp only [signalVector]
  split_ifs
  · exact smGet_smPut_other _ _ _ _ _ _ hne
  · rfl
  · rfl
  · rfl

theorem rd_signalSource_src (n k : Nat) : rd (signalSource s n) (ICU_SRC k) = rd s (ICU_SRC k) := by
  rw [signalSource]
  split_ifs
  · exact rd_signalVector s (getf_lt _ ICU_SRC_target) (by rw [ICU_SRC]; omega)
  · rfl

variable {s} in
theorem OnlySignals.of_onlyRegs {u t : State} {offs : List Nat} (h : OnlySignals u t) (hu : OnlyRegs s u offs) :
    OnlySignals s t := by
  obtain ⟨hu, -⟩ := hu
  rw [OnlySignals, hu] at h
  exact h

theorem onlySignals_signalSource (n : Nat) : OnlySignals s (signalSource s n) := by
  obtain h | ⟨v, h⟩ := signalSource_cases s n
  · rw [h]; rfl
  · obtain ⟨_, hv⟩ | ⟨_, hv⟩ | hv | ⟨_, hv⟩ := signalVector_cases s v <;> rw [h, hv] <;> rfl

/-- A signal that a condition may hold back keeps to the registers, the held vectors and the outputs, and leaves the
sources' registers. -/
theorem signalSource_if (c : Prop) [Decidable c] (n : Nat) :
    OnlySignals s (if c then signalSource s n else s)
      ∧ ∀ k, rd (if c then signalSource s n else s) (ICU_SRC k) = rd s (ICU_SRC k) := by
  split_ifs
  · exact ⟨onlySignals_signalSource s n, rd_signalSource_src s n⟩
  · exact ⟨rfl, fun _ => rfl⟩

/-! ### Claims and ends of interrupts (R539) -/

theorem claimsOf_setClaims (m j : Nat) (c : List (Nat × Nat)) :
    claimsOf (setClaims s m c) j = if j = m then c else claimsOf s j :=
  smGet_smPut [] s.sec.claims m j c

theorem claimsOf_setClaims_self (m : Nat) (c : List (Nat × Nat)) : claimsOf (setClaims s m c) m = c := by
  rw [claimsOf_setClaims, if_pos rfl]

theorem claimsOf_setClaims_other {m j : Nat} (c : List (Nat × Nat)) (h : j ≠ m) :
    claimsOf (setClaims s m c) j = claimsOf s j := by
  rw [claimsOf_setClaims, if_neg h]

/-- Source `n` goes before source `k`: its priority is higher, or the same and its number lower. -/
def Outranks (n k : Nat) : Prop :=
  rdf s (ICU_SRC k) ICU_SRC_priority < rdf s (ICU_SRC n) ICU_SRC_priority
    ∨ (rdf s (ICU_SRC k) ICU_SRC_priority = rdf s (ICU_SRC n) ICU_SRC_priority ∧ n < k)

/-- Source `n` is deliverable to core `m` and goes before every other that is, of those below `b`. -/
def BestBelow (m b n : Nat) : Prop :=
  n < b ∧ deliverable s m n = true ∧ ∀ k < b, deliverable s m k = true → k ≠ n → Outranks s n k

/-- One source of the search of `bestSource`. -/
def betterOf (m : Nat) (o : Option Nat) (n : Nat) : Option Nat :=
  if !deliverable s m n then o
  else match o with
    | none => some n
    | some k => if rdf s (ICU_SRC k) ICU_SRC_priority < rdf s (ICU_SRC n) ICU_SRC_priority then some n else o

/-- What the search holds after the sources below `b`: the best of them, or nothing where none is deliverable. -/
def Found (m b : Nat) (o : Option Nat) : Prop :=
  (o = none → ∀ k < b, deliverable s m k = false) ∧ ∀ n, o = some n → BestBelow s m b n

theorem bestSource_eq_foldl (m : Nat) : bestSource s m = (List.range 1024).foldl (betterOf s m) none := rfl

variable {s}

theorem Outranks.asymm {n k : Nat} (h : Outranks s n k) : ¬ Outranks s k n := by
  unfold Outranks at *; omega

theorem Outranks.trans_lt {n k j : Nat} (h : Outranks s k j)
    (hn : rdf s (ICU_SRC k) ICU_SRC_priority < rdf s (ICU_SRC n) ICU_SRC_priority) : Outranks s n j := by
  unfold Outranks at *; omega

theorem BestBelow.unique {m b n k : Nat} (hn : BestBelow s m b n) (hk : BestBelow s m b k) : k = n := by
  obtain ⟨hnb, hnd, hn⟩ := hn
  obtain ⟨hkb, hkd, hk⟩ := hk
  by_contra h
  exact (hn k hkb hkd h).asymm (hk n hnb hnd (Ne.symm h))

theorem BestBelow.succ_same {m b n : Nat} (h : BestBelow s m b n) (hb : deliverable s m b = true → Outranks s n b) :
    BestBelow s m (b + 1) n := by
  obtain ⟨hnb, hnd, hn⟩ := h
  refine ⟨by omega, hnd, fun k hk hd hkn => ?_⟩
  obtain hlt | rfl := Nat.lt_succ_iff_lt_or_eq.1 hk
  · exact hn k hlt hd hkn
  · exact hb hd

theorem BestBelow.succ_new {m b n : Nat} (h : BestBelow s m b n) (hd : deliverable s m b = true)
    (hb : rdf s (ICU_SRC n) ICU_SRC_priority < rdf s (ICU_SRC b) ICU_SRC_priority) : BestBelow s m (b + 1) b := by
  obtain ⟨-, -, hn⟩ := h
  refine ⟨b.lt_succ_self, hd, fun k hk hkd hkb => ?_⟩
  by_cases hkn : k = n
  · exact .inl (hkn ▸ hb)
  · exact (hn k (by omega) hkd hkn).trans_lt hb

theorem Found.succ {m b : Nat} {o : Option Nat} (h : Found s m b o) : Found s m (b + 1) (betterOf s m o b) := by
  obtain ⟨hnone, hsome⟩ := h
  cases hd : deliverable s m b with
  | false =>
    have he : betterOf s m o b = o := by simp [betterOf, hd]
    rw [he]
    refine ⟨fun ho k hk => ?_, fun n hn => (hsome n hn).succ_same (by simp [hd])⟩
    obtain hlt | rfl := Nat.lt_succ_iff_lt_or_eq.1 hk
    · exact hnone ho k hlt
    · exact hd
  | true =>
    have hsingle {n : Nat} (he : betterOf s m o b = some n) (hn : BestBelow s m (b + 1) n) :
        Found s m (b + 1) (betterOf s m o b) := by
      rw [he]
      exact ⟨fun h => absurd h (Option.some_ne_none n), fun k hk => Option.some.inj hk ▸ hn⟩
    cases o with
    | none =>
      exact hsingle (by simp [betterOf, hd])
        ⟨b.lt_succ_self, hd, fun k hk hkd _ => absurd hkd (by simp [hnone rfl k (by omega)])⟩
    | some n =>
      have hn := hsome n rfl
      by_cases hp : rdf s (ICU_SRC n) ICU_SRC_priority < rdf s (ICU_SRC b) ICU_SRC_priority
      · exact hsingle (by simp [betterOf, hd, hp]) (hn.succ_new hd hp)
      · exact hsingle (by simp [betterOf, hd, hp]) (hn.succ_same fun _ => by
          obtain ⟨hnb, -⟩ := hn
          unfold Outranks; omega)

/-- The search keeps the best of the sources that it has seen, and nothing only while none was deliverable. -/
theorem found_foldl_betterOf (m b : Nat) : Found s m b ((List.range b).foldl (betterOf s m) none) := by
  induction b with
  | zero => exact ⟨fun _ k hk => absurd hk k.not_lt_zero, fun _ h => absurd h (Option.some_ne_none _).symm⟩
  | succ b ih =>
    rw [List.range_succ, List.foldl_append, List.foldl_cons, List.foldl_nil]
    exact ih.succ

theorem found_bestSource (m : Nat) : Found s m 1024 (bestSource s m) := by
  rw [bestSource_eq_foldl]
  exact found_foldl_betterOf m 1024

theorem bestSource_eq_none {m : Nat} (h : ∀ n < 1024, deliverable s m n = false) : bestSource s m = none := by
  obtain ⟨-, hsome⟩ := found_bestSource (s := s) m
  refine Option.eq_none_iff_forall_ne_some.2 fun n he => ?_
  obtain ⟨hn, hd, -⟩ := hsome n he
  exact absurd hd (by simp [h n hn])

theorem bestSource_eq_some {m n : Nat} (h : BestBelow s m 1024 n) : bestSource s m = some n := by
  obtain ⟨hnone, hsome⟩ := found_bestSource (s := s) m
  obtain ⟨hn, hd, -⟩ := id h
  have hne : bestSource s m ≠ none := fun he => absurd hd (by simp [hnone he n hn])
  obtain ⟨k, hk⟩ := Option.ne_none_iff_exists'.1 hne
  rw [hk, h.unique (hsome k hk)]

/-- The word that a claim of source `n` at priority `p` reads. -/
def claimWord (n p : Nat) : Word := BitVec.ofNat 64 (2 ^ 63 + p * 2 ^ 16 + n)

theorem claimWord_fields {n p : Nat} (hn : n < 2 ^ 10) (hp : p < 2 ^ 4) :
    getb (claimWord n p) ICU_CLAIM_valid = true ∧ getf (claimWord n p) ICU_CLAIM_source = n
      ∧ getf (claimWord n p) ICU_CLAIM_priority = p := by
  simp only [getb, getf, claimWord, ICU_CLAIM_valid, ICU_CLAIM_source, ICU_CLAIM_priority, BitVec.toNat_ofNat, beq_iff_eq]
  omega

theorem icuClaim_of_none {m : Nat} (h : bestSource s m = none) : icuClaim s m = (0, s) := by
  unfold icuClaim
  rw [h]

theorem icuClaim_of_some {m n : Nat} (h : bestSource s m = some n) :
    icuClaim s m = (claimWord n (rdf s (ICU_SRC n) ICU_SRC_priority),
      setClaims s m ((n, rdf s (ICU_SRC n) ICU_SRC_priority) :: claimsOf s m)) := by
  unfold icuClaim claimWord
  rw [h]

theorem exec_icuClaim {m : Nat} {w : Word} {u : State} (hp : s.boot.pg = true) (hm : m < 4) (h : icuClaim s m = (w, u)) :
    exec (.icuClaim m) s = .next (emit u (.regRead (ICU_CLAIM m) w)) := by
  show onlyIf (decide (m < 4)) (powered s _) = _
  rw [onlyIf_powered hp hm, h]

theorem exec_icuEoi {m : Nat} (n : BitVec 10) (hp : s.boot.pg = true) (hm : m < 4) :
    exec (.icuEoi m n) s = .next (icuEoi s m n.toNat) :=
  onlyIf_powered hp hm

theorem icuEoi_of_top {m n p : Nat} {r : List (Nat × Nat)} (h : claimsOf s m = (n, p) :: r) :
    icuEoi s m n = setClaims s m r := by
  simp only [icuEoi, h, if_true]

theorem icuEoi_of_not_top {m n : Nat} (h : ∀ p r, claimsOf s m ≠ (n, p) :: r) :
    icuEoi s m n = count s (ICU_PRIO m) ICU_PRIO_eoi_mismatch := by
  unfold icuEoi
  split
  · next e r he =>
    obtain ⟨k, p⟩ := e
    exact if_neg fun hk : k = n => h p r (hk ▸ he)
  · rfl

/-! ### Events of software sources (R537, R551) -/

variable (s)

/-- The state in which an event of source `n` is counted and pending, before any message. -/
def eventNoted (n : Nat) : State := wrb (countSat s (ICU_SRC n) ICU_SRC_count) (ICU_SRC n) ICU_SRC_pending true

theorem raiseEvent_eq (n : Nat) :
    raiseEvent s n
      = if !srcPending s n && rdb s (ICU_SRC n) ICU_SRC_enable then signalSource (eventNoted s n) n else eventNoted s n :=
  rfl

theorem onlyRegs_eventNoted (n : Nat) : OnlyRegs s (eventNoted s n) [ICU_SRC n] := by
  rw [eventNoted, wrb, countSat]
  exact onlyRegs_wr_wr ..

theorem rd_eventNoted (n : Nat) :
    rd (eventNoted s n) (ICU_SRC n) = setb (satf (rd s (ICU_SRC n)) ICU_SRC_count 1) ICU_SRC_pending true := by
  rw [eventNoted, wrb, rd_wr_self, countSat, rd_wr_self]

theorem raiseEvent_disabled {n : Nat} (h : rdb s (ICU_SRC n) ICU_SRC_enable = false) : raiseEvent s n = eventNoted s n := by
  rw [raiseEvent_eq, h, Bool.and_false, if_neg Bool.false_ne_true]

theorem onlySignals_raiseEvent (n : Nat) : OnlySignals s (raiseEvent s n) :=
  (signalSource_if (eventNoted s n) _ n).1.of_onlyRegs (onlyRegs_eventNoted s n)

theorem rd_raiseEvent_src (n : Nat) :
    rd (raiseEvent s n) (ICU_SRC n) = setb (satf (rd s (ICU_SRC n)) ICU_SRC_count 1) ICU_SRC_pending true := by
  rw [raiseEvent_eq, (signalSource_if (eventNoted s n) _ n).2, rd_eventNoted]

theorem rdb_raiseEvent_pending (n : Nat) : rdb (raiseEvent s n) (ICU_SRC n) ICU_SRC_pending = true := by
  rw [rdb, rd_raiseEvent_src, getb_setb_self _ _ _ (by decide) rfl]

theorem rdf_raiseEvent_count (n : Nat) :
    rdf (raiseEvent s n) (ICU_SRC n) ICU_SRC_count = min (rdf s (ICU_SRC n) ICU_SRC_count + 1) 255 := by
  rw [rdf, rd_raiseEvent_src, getf_setb_other _ _ _ _ (by decide) (by decide), satf, getf_setf_self _ _ _ (by decide), rdf]
  simp only [ICU_SRC_count]
  omega

variable {s}

theorem exec_icuSwi_software {n : BitVec 10} (hp : s.boot.pg = true) (hn : 992 ≤ n.toNat) :
    exec (.icuSwi n) s = .next (raiseEvent s n.toNat) := by
  show Host.Outcome.next (powered s (icuSwi s n.toNat)) = _
  rw [powered_on s _ hp, icuSwi, if_pos ⟨hn, n.isLt⟩]

theorem exec_icuSwi_ignored {n : BitVec 10} (hn : n.toNat < 992) : exec (.icuSwi n) s = .next s := by
  show Host.Outcome.next (powered s (icuSwi s n.toNat)) = _
  rw [icuSwi, if_neg (by omega), powered, ite_self]

/-! ### Writes of a source's register (R538) -/

/-- The static fields lie below bit 32, so that the fields above read as before. -/
theorem getf_srcStatics_high {f : Fld} (w d : Word) (h : 32 ≤ f.lo) : getf (srcStatics w d) f = getf w f := by
  have hv : ICU_SRC_to_vector.lo + ICU_SRC_to_vector.width ≤ f.lo := h
  have hp : ICU_SRC_priority.lo + ICU_SRC_priority.width ≤ f.lo := le_trans (by decide) h
  have ht : ICU_SRC_target.lo + ICU_SRC_target.width ≤ f.lo := le_trans (by decide) h
  have hw : getf (setf (setb w ICU_SRC_to_vector (getb d ICU_SRC_to_vector)) ICU_SRC_priority (getf d ICU_SRC_priority)) f
      = getf w f := by
    rw [getf_setf_other _ _ _ _ (by decide) (.inr hp), getf_setb_other _ _ _ _ (by decide) (.inr hv)]
  rw [srcStatics]
  split_ifs
  · rfl
  · exact (getf_setf_other _ _ _ _ (by decide) (.inr ht)).trans hw
  · exact hw

theorem srcStatics_of_enabled {w d : Word} (h : getb w ICU_SRC_enable = true ∨ getb d ICU_SRC_enable = true) :
    srcStatics w d = w :=
  if_pos (Bool.or_eq_true_iff.2 h)

theorem srcStatics_of_disabled {w d : Word} (hw : getb w ICU_SRC_enable = false) (hd : getb d ICU_SRC_enable = false) :
    getf (srcStatics w d) ICU_SRC_priority = getf d ICU_SRC_priority
      ∧ getb (srcStatics w d) ICU_SRC_to_vector = getb d ICU_SRC_to_vector
      ∧ getf (srcStatics w d) ICU_SRC_target
        = if getb d ICU_SRC_to_vector = true ∨ getf d ICU_SRC_target ≤ 3 then getf d ICU_SRC_target
          else getf w ICU_SRC_target := by
  have hp := Nat.mod_eq_of_lt (getf_lt d ICU_SRC_priority)
  have ht := Nat.mod_eq_of_lt (getf_lt d ICU_SRC_target)
  simp only [srcStatics, hw, hd, Bool.or_self, Bool.false_eq_true, if_false, Bool.or_eq_true, decide_eq_true_eq]
  split_ifs <;>
    simp (disch := decide) only [getf_setf_self, getf_setf_other, getf_setb_other, getb_setb_self, getb_setf_other, hp, ht,
      and_self]

theorem getb_srcStatics_high {f : Fld} (w d : Word) (h : 32 ≤ f.lo) : getb (srcStatics w d) f = getb w f := by
  rw [getb, getf_srcStatics_high w d h, getb]

/-- The word before its static fields are written: pending is cleared where the write asks for it. -/
def srcCleared (ev : Bool) (w d : Word) : Word := if ev && getb d ICU_SRC_pending then setb w ICU_SRC_pending false else w

theorem getf_srcCleared_low {f : Fld} (ev : Bool) (w d : Word) (h : f.lo + f.width ≤ 63) :
    getf (srcCleared ev w d) f = getf w f := by
  rw [srcCleared]
  split_ifs
  · exact getf_setb_other _ _ _ _ (by decide) (.inl h)
  · rfl

theorem getb_srcCleared_low {f : Fld} (ev : Bool) (w d : Word) (h : f.lo + f.width ≤ 63) :
    getb (srcCleared ev w d) f = getb w f := by
  rw [getb, getf_srcCleared_low ev w d h, getb]

theorem getb_srcCleared_pending (ev : Bool) (w d : Word) :
    getb (srcCleared ev w d) ICU_SRC_pending = (getb w ICU_SRC_pending && !(ev && getb d ICU_SRC_pending)) := by
  rw [srcCleared]
  split_ifs with h
  · rw [getb_setb_self _ _ _ (by decide) rfl, h, Bool.not_true, Bool.and_false]
  · rw [Bool.eq_false_of_not_eq_true h, Bool.not_false, Bool.and_true]

/-- The word of a source's register after a write of `d`; `ev` says whether the source is an event source. -/
def srcWord (ev : Bool) (w d : Word) : Word :=
  let enabled := setb (srcStatics (srcCleared ev w d) d) ICU_SRC_enable (getb d ICU_SRC_enable)
  if getb d ICU_SRC_count_clr then setf enabled ICU_SRC_count 0 else enabled

theorem getf_srcWord_other {f : Fld} (ev : Bool) (w d : Word)
    (he : f.lo + f.width ≤ ICU_SRC_enable.lo ∨ ICU_SRC_enable.lo + ICU_SRC_enable.width ≤ f.lo)
    (hc : f.lo + f.width ≤ ICU_SRC_count.lo ∨ ICU_SRC_count.lo + ICU_SRC_count.width ≤ f.lo) :
    getf (srcWord ev w d) f = getf (srcStatics (srcCleared ev w d) d) f := by
  simp only [srcWord]
  split_ifs
  · rw [getf_setf_other _ _ _ _ (by decide) hc, getf_setb_other _ _ _ _ (by decide) he]
  · exact getf_setb_other _ _ _ _ (by decide) he

theorem getb_srcWord_other {f : Fld} (ev : Bool) (w d : Word)
    (he : f.lo + f.width ≤ ICU_SRC_enable.lo ∨ ICU_SRC_enable.lo + ICU_SRC_enable.width ≤ f.lo)
    (hc : f.lo + f.width ≤ ICU_SRC_count.lo ∨ ICU_SRC_count.lo + ICU_SRC_count.width ≤ f.lo) :
    getb (srcWord ev w d) f = getb (srcStatics (srcCleared ev w d) d) f := by
  rw [getb, getf_srcWord_other ev w d he hc, getb]

theorem getb_srcWord_enable (ev : Bool) (w d : Word) : getb (srcWord ev w d) ICU_SRC_enable = getb d ICU_SRC_enable := by
  simp only [srcWord]
  split_ifs
  · rw [getb_setf_other _ _ _ _ (by decide) (by decide), getb_setb_self _ _ _ (by decide) rfl]
  · exact getb_setb_self _ _ _ (by decide) rfl

theorem getf_srcWord_count (ev : Bool) (w d : Word) :
    getf (srcWord ev w d) ICU_SRC_count = if getb d ICU_SRC_count_clr then 0 else getf w ICU_SRC_count := by
  simp only [srcWord]
  split_ifs
  · exact getf_setf_self _ _ _ (by decide)
  · rw [getf_setb_other _ _ _ _ (by decide) (by decide), getf_srcStatics_high _ _ (by decide),
      getf_srcCleared_low _ _ _ (by decide)]

theorem getb_srcWord_pending (ev : Bool) (w d : Word) :
    getb (srcWord ev w d) ICU_SRC_pending = (getb w ICU_SRC_pending && !(ev && getb d ICU_SRC_pending)) := by
  rw [getb_srcWord_other _ _ _ (by decide) (by decide), getb_srcStatics_high _ _ (by decide), getb_srcCleared_pending]

theorem srcWord_statics_of_enabled (ev : Bool) {w d : Word}
    (h : getb w ICU_SRC_enable = true ∨ getb d ICU_SRC_enable = true) :
    getf (srcWord ev w d) ICU_SRC_priority = getf w ICU_SRC_priority
      ∧ getf (srcWord ev w d) ICU_SRC_target = getf w ICU_SRC_target
      ∧ getb (srcWord ev w d) ICU_SRC_to_vector = getb w ICU_SRC_to_vector := by
  have hs : srcStatics (srcCleared ev w d) d = srcCleared ev w d :=
    srcStatics_of_enabled (h.imp_left (getb_srcCleared_low ev w d (by decide)).trans)
  simp (disch := decide) only [getf_srcWord_other, getb_srcWord_other, hs, getf_srcCleared_low, getb_srcCleared_low, and_self]

theorem srcWord_statics_of_disabled (ev : Bool) {w d : Word} (hw : getb w ICU_SRC_enable = false)
    (hd : getb d ICU_SRC_enable = false) :
    getf (srcWord ev w d) ICU_SRC_priority = getf d ICU_SRC_priority
      ∧ getb (srcWord ev w d) ICU_SRC_to_vector = getb d ICU_SRC_to_vector
      ∧ getf (srcWord ev w d) ICU_SRC_target
        = if getb d ICU_SRC_to_vector = true ∨ getf d ICU_SRC_target ≤ 3 then getf d ICU_SRC_target
          else getf w ICU_SRC_target := by
  have hs := srcStatics_of_disabled ((getb_srcCleared_low ev w d (by decide)).trans hw) hd
  rw [getf_srcCleared_low _ _ _ (by decide)] at hs
  simpa (disch := decide) only [getf_srcWord_other, getb_srcWord_other] using hs

/-- A write puts the word and then may signal. -/
theorem icuSrcWrite_leaves (s : State) (n : Nat) (d : Word) :
    OnlySignals s (icuSrcWrite s n d)
      ∧ rd (icuSrcWrite s n d) (ICU_SRC n) = srcWord (isEventSource n) (rd s (ICU_SRC n)) d := by
  obtain ⟨c, hc⟩ : ∃ c : Bool, icuSrcWrite s n d
      = if c then signalSource (wr s (ICU_SRC n) (srcWord (isEventSource n) (rd s (ICU_SRC n)) d)) n
        else wr s (ICU_SRC n) (srcWord (isEventSource n) (rd s (ICU_SRC n)) d) := ⟨_, rfl⟩
  rw [hc]
  obtain ⟨ho, hr⟩ := signalSource_if (wr s (ICU_SRC n) (srcWord (isEventSource n) (rd s (ICU_SRC n)) d)) (c = true) n
  exact ⟨ho.of_onlyRegs (onlyRegs_wr ..), (hr n).trans (rd_wr_self ..)⟩

theorem exec_icuSrcWrite {n : Nat} (d : Word) (hp : s.boot.pg = true) (hn : n < 1024) :
    exec (.icuSrcWrite n d) s = .next (icuSrcWrite s n d) :=
  onlyIf_powered hp hn

theorem exec_icuCountClear {n : Nat} (hp : s.boot.pg = true) (hn : n < 1024) :
    exec (.icuCountClear n) s = .next (wrf s (ICU_SRC n) ICU_SRC_count 0) :=
  onlyIf_powered hp hn

end Sys2Proof.Machine
end

section
/-! PROOFS. The statement about the interrupt controller, settled. -/

namespace Sys2Proof.Machine

/-- Settles O54: the search of a claim keeps the best source that it has seen, and the word that a write or an event leaves in
a source's register reads field by field as stated, the message that may follow being apart from it. -/
theorem interruptController : Obligations.InterruptController := by
  unfold Obligations.InterruptController
  refine ⟨?claimFault, ?claim, ?eoi, ?eoiFault, ?swi, ?swiIgnored, ?srcWrite, ?countClear, ?srcFault⟩
  case claimFault => exact fun m s hm => onlyIf_of_not _ (by omega)
  case claim =>
    intro m s hp hm
    refine ⟨fun h => ⟨_, exec_icuClaim hp hm (icuClaim_of_none (bestSource_eq_none h)), rfl⟩, fun n hn hd hbest => ?_⟩
    have hclaim := icuClaim_of_some (bestSource_eq_some ⟨hn, hd, hbest⟩)
    obtain ⟨hvalid, hsource, hpriority⟩ := claimWord_fields hn (getf_lt (rd s (ICU_SRC n)) ICU_SRC_priority)
    exact ⟨_, _, exec_icuClaim hp hm hclaim, rfl, hvalid, hsource, hpriority, claimsOf_setClaims_self .., rfl,
      fun j hj => claimsOf_setClaims_other s _ hj⟩
  case eoi =>
    intro m n s hp hm
    refine ⟨fun p r h => ⟨_, exec_icuEoi n hp hm, ?_⟩, fun h => ⟨_, exec_icuEoi n hp hm, ?_⟩⟩
    · rw [icuEoi_of_top h]
      exact ⟨claimsOf_setClaims_self .., fun j hj => claimsOf_setClaims_other s _ hj, rfl⟩
    · rw [icuEoi_of_not_top h]
      exact ⟨onlyRegs_wr .., rdf_count_self _ _ _ _ (by decide)⟩
  case eoiFault => exact fun m n s hm => onlyIf_of_not _ (by omega)
  case swi =>
    intro n s hp hn
    exact ⟨_, exec_icuSwi_software hp hn, onlySignals_raiseEvent .., rdb_raiseEvent_pending .., rdf_raiseEvent_count ..,
      fun h => raiseEvent_disabled s h ▸ onlyRegs_eventNoted ..⟩
  case swiIgnored => exact fun n s hn => exec_icuSwi_ignored hn
  case srcWrite =>
    intro n d s hp hn
    obtain ⟨hsignals, hword⟩ := icuSrcWrite_leaves s n d
    refine ⟨_, exec_icuSrcWrite d hp hn, hsignals, ?_⟩
    simp only [rdb, rdf, hword]
    exact ⟨getb_srcWord_enable .., getb_srcWord_pending .., getf_srcWord_count .., srcWord_statics_of_enabled _,
      srcWord_statics_of_disabled _⟩
  case countClear =>
    intro n s hp hn
    refine ⟨_, exec_icuCountClear hp hn, onlyRegs_wr .., ?_⟩
    simp only [rdb, rdf, wrf, rd_wr_self]
    exact ⟨getf_setf_self _ _ _ (by decide), getb_setf_other _ _ _ _ (by decide) (by decide),
      getb_setf_other _ _ _ _ (by decide) (by decide)⟩
  case srcFault => exact fun n d s hn => ⟨onlyIf_of_not _ (by omega), onlyIf_of_not _ (by omega)⟩

end Sys2Proof.Machine
end

section
/-! PROOFS. Instruction words (R124, R125): every command that is an instruction is its opcode, its function and its operands, and
the word they make decodes to it and to nothing else. -/

namespace Sys2Proof

/-- Every instruction stands for its opcode and function at its site: the laws of the single instructions, collected. -/
theorem statement_of_instr (i : Instr) : Laws.Encoding.Statement i := by
  cases i with
  | nop x0 => exact Laws.Encoding.nop x0
  | br x0 => exact Laws.Encoding.br x0
  | jal x0 => exact Laws.Encoding.jal x0
  | branchCompare x0 x1 => exact Laws.Encoding.branchCompare x0 x1
  | jr x0 => exact Laws.Encoding.jr x0
  | jalr x0 => exact Laws.Encoding.jalr x0
  | loop x0 => exact Laws.Encoding.loop x0
  | halt x0 => exact Laws.Encoding.halt x0
  | brk x0 => exact Laws.Encoding.brk x0
  | issue x0 => exact Laws.Encoding.issue x0
  | scalarAlu x0 x1 => exact Laws.Encoding.scalarAlu x0 x1
  | scalarAluImm x0 x1 => exact Laws.Encoding.scalarAluImm x0 x1
  | scalarMulDiv x0 x1 => exact Laws.Encoding.scalarMulDiv x0 x1
  | cmp x0 x1 => exact Laws.Encoding.cmp x0 x1
  | cmpi x0 x1 => exact Laws.Encoding.cmpi x0 x1
  | li x0 => exact Laws.Encoding.li x0
  | lih x0 => exact Laws.Encoding.lih x0
  | scalarFp x0 x1 => exact Laws.Encoding.scalarFp x0 x1
  | fma x0 => exact Laws.Encoding.fma x0
  | fcmp x0 x1 => exact Laws.Encoding.fcmp x0 x1
  | ld x0 x1 x2 => exact Laws.Encoding.ld x0 x1 x2
  | st x0 x1 x2 => exact Laws.Encoding.st x0 x1 x2
  | atom x0 x1 x2 => exact Laws.Encoding.atom x0 x1 x2
  | movd x0 => exact Laws.Encoding.movd x0
  | movr x0 x1 => exact Laws.Encoding.movr x0 x1
  | waitMs x0 => exact Laws.Encoding.waitMs x0
  | ctrInc x0 => exact Laws.Encoding.ctrInc x0
  | ctrWait x0 => exact Laws.Encoding.ctrWait x0
  | ctrWaitR x0 => exact Laws.Encoding.ctrWaitR x0
  | layerBegin x0 => exact Laws.Encoding.layerBegin x0
  | layerEnd x0 => exact Laws.Encoding.layerEnd x0
  | rdms x0 x1 => exact Laws.Encoding.rdms x0 x1
  | pfCch x0 x1 => exact Laws.Encoding.pfCch x0 x1
  | pfVrg x0 x1 => exact Laws.Encoding.pfVrg x0 x1
  | flush x0 => exact Laws.Encoding.flush x0
  | flushInv x0 => exact Laws.Encoding.flushInv x0
  | invCch x0 => exact Laws.Encoding.invCch x0
  | dead x0 => exact Laws.Encoding.dead x0
  | pin x0 => exact Laws.Encoding.pin x0
  | unpin x0 => exact Laws.Encoding.unpin x0
  | roinv x0 => exact Laws.Encoding.roinv x0
  | mma x0 x1 => exact Laws.Encoding.mma x0 x1
  | accZero x0 => exact Laws.Encoding.accZero x0
  | accLdF32 x0 => exact Laws.Encoding.accLdF32 x0
  | accLdF32s x0 => exact Laws.Encoding.accLdF32s x0
  | drainF32 x0 => exact Laws.Encoding.drainF32 x0
  | drainF32s x0 => exact Laws.Encoding.drainF32s x0
  | drainBf16 x0 => exact Laws.Encoding.drainBf16 x0
  | drainBf16Sr x0 => exact Laws.Encoding.drainBf16Sr x0
  | rdacc x0 => exact Laws.Encoding.rdacc x0
  | cvt x0 => exact Laws.Encoding.cvt x0
  | cvtSr x0 => exact Laws.Encoding.cvtSr x0
  | cvtSat x0 => exact Laws.Encoding.cvtSat x0
  | cvtSrSat x0 => exact Laws.Encoding.cvtSrSat x0
  | scale x0 => exact Laws.Encoding.scale x0
  | rndK x0 => exact Laws.Encoding.rndK x0
  | rndF x0 => exact Laws.Encoding.rndF x0
  | vectorArith x0 x1 x2 => exact Laws.Encoding.vectorArith x0 x1 x2
  | vfma x0 x1 => exact Laws.Encoding.vfma x0 x1
  | vectorUnary x0 x1 => exact Laws.Encoding.vectorUnary x0 x1
  | activation x0 x1 => exact Laws.Encoding.activation x0 x1
  | activationBackward x0 x1 => exact Laws.Encoding.activationBackward x0 x1
  | rowReduction x0 x1 => exact Laws.Encoding.rowReduction x0 x1
  | scan x0 x1 => exact Laws.Encoding.scan x0 x1
  | smaxF x0 => exact Laws.Encoding.smaxF x0
  | smaxB x0 => exact Laws.Encoding.smaxB x0
  | lnF x0 x1 => exact Laws.Encoding.lnF x0 x1
  | lnB x0 x1 => exact Laws.Encoding.lnB x0 x1
  | lnBsum x0 x1 => exact Laws.Encoding.lnBsum x0 x1
  | vdrop x0 => exact Laws.Encoding.vdrop x0
  | rdvf x0 => exact Laws.Encoding.rdvf x0
  | kcmd x0 => exact Laws.Encoding.kcmd x0
  | _ => exact Laws.Encoding.of_none _ rfl

/-- A site that issues a command carries what the command's operands name. -/
theorem siteOf_fields {i : Instr} {f : BitVec 8 × BitVec 4 × Insn} (h : opcodeOf i = some f) :
    (siteOf i).core = f.2.2.core ∧ (siteOf i).stream = f.2.2.stream ∧ (siteOf i).rivals = f.2.2.rivals
      ∧ (siteOf i).own = f.2.2.ecc ∧ (siteOf i).tied = f.2.2.tied := by
  cases i <;> first
    | (obtain rfl := Option.some.inj h; exact ⟨rfl, rfl, rfl, rfl, rfl⟩)
    | cases h

/-- An opcode and a function that the opcode has are those of the command they stand for. -/
theorem opcodeOf_commandOf {c : Site} {op : BitVec 8} {fn : BitVec 4} {x : Insn} {i : Instr} (hf : fn.toNat < fnCount op)
    (h : commandOf c op fn x = some i) : opcodeOf i = some (op, fn, x) := by
  have same : ∀ {op' : BitVec 8} {fn' : BitVec 4}, op'.toNat = op.toNat → fn'.toNat = fn.toNat →
      some (op', fn', x) = some (op, fn, x) := fun ho hn => by
    rw [BitVec.eq_of_toNat_eq ho, BitVec.eq_of_toNat_eq hn]
  unfold commandOf at h
  unfold fnCount at hf
  split at h <;> cases h <;> refine same (by simp [*]) ?_ <;>
    simp_all only [Bool.false_eq_true, if_true, if_false, BitVec.ofNat_eq_ofNat, BitVec.toNat_ofNat, imp_false] <;> omega

/-- The opcode, the function and the operands that are read from a word make that word again. -/
theorem wordOfFields_insnOf (c : Site) (w : Word) :
    wordOfFields (BitVec.ofNat 8 (w.toNat / 2 ^ 56)) (BitVec.ofNat 4 (w.toNat / 2 ^ 48)) (insnOf c w) = w := by
  apply BitVec.eq_of_toNat_eq
  have hw := w.isLt
  have hneg : (w.toNat / 2 ^ 52 % 2 == 1).toNat = w.toNat / 2 ^ 52 % 2 := by
    rcases Nat.mod_two_eq_zero_or_one (w.toNat / 2 ^ 52) with h | h <;> rw [h] <;> rfl
  simp only [wordOfFields_toNat, insnOf, BitVec.toNat_ofNat, hneg]
  omega

/-- Settles O58: an instruction's opcode and function name it (one law per instruction), its fields read back from its word, and
the opcode and the function of a word that decodes are those of the command. -/
theorem decodeOfEncode : Obligations.DecodeOfEncode := by
  unfold Obligations.DecodeOfEncode
  refine ⟨fun i hi => ?decodes, fun c w i h => ?encodes⟩
  case decodes =>
    obtain ⟨f, hf⟩ : ∃ f, opcodeOf i = some f := by
      unfold encodable at hi
      split at hi
      · exact ⟨_, ‹_›⟩
      · exact absurd hi Bool.false_ne_true
    obtain ⟨hfn, hcommand⟩ := statement_of_instr i hi f hf
    obtain ⟨hcore, hstream, hrivals, hown, htied⟩ := siteOf_fields hf
    exact ⟨_, by rw [encodeWord, hf, Option.map_some],
      (decodeWord_wordOfFields _ _ _ _ hcore hstream hrivals hown htied hfn).trans hcommand⟩
  case encodes =>
    rw [decodeWord] at h
    split at h
    · next hfn => rw [encodeWord, opcodeOf_commandOf hfn h, Option.map_some, wordOfFields_insnOf]
    · cases h

end Sys2Proof
end

section
/-! PROOFS. The queue, the outcome of a command and the state after reset. -/

namespace Sys2Proof.Machine

/-- Settles O1: a step is defined so. -/
theorem stepRunsTheFrontCommand : Obligations.StepRunsTheFrontCommand := fun _ _ _ => rfl

theorem step_of_empty {s : State} (h : s.pending = []) : step s = .next (idle s) := by rw [step, h]

/-- Settles O2: idling adds to the timebase where the rails are up, and is nothing else. -/
theorem emptyQueueAdvancesTime : Obligations.EmptyQueueAdvancesTime := by
  unfold Obligations.EmptyQueueAdvancesTime
  intro s hq
  refine ⟨idle s, step_of_empty hq, ?_⟩
  unfold idle
  cases s.pow.on with
  | true => exact ⟨onlyRegs_wr .., by rw [if_pos rfl, rd_wr_self, BitVec.toNat_add]; rfl⟩
  | false => exact ⟨⟨rfl, fun _ _ => rfl⟩, (Nat.mod_eq_of_lt (rd s MST_TIME).isLt).symm⟩

/-- Every command answers a next state, but for the one check of the instances that it names. -/
theorem exec_eq_onlyIf_wf (c : Instr) (s : State) : ∃ t, exec c s = onlyIf c.wf t := by
  cases c <;> exact ⟨_, rfl⟩

/-- Settles O3: every command is its check of the instances that it names. -/
theorem commandsAnswer : Obligations.CommandsAnswer := by
  unfold Obligations.CommandsAnswer
  intro c s
  obtain ⟨t, ht⟩ := exec_eq_onlyIf_wf c s
  refine ⟨fun h => ⟨t, ?_⟩, fun h => ?_⟩ <;> rw [ht, h] <;> rfl

/-! ### Reset -/

/-- The word of the core map that places eight logical cores of a cluster, as the part ships: each core on the physical core of
its own number. -/
def coreMapWord (j : Nat) : Word := BitVec.ofNat 64 ((upto 8).foldl (fun a i => a + (8 * j + i) * 256 ^ i) 0)

theorem resetWord_coreMap {i j : Nat} (hi : i < 144) (hj : j < 16) : resetWord (REP_CORE_MAP i j) = coreMapWord j := by
  have h : 0xA10000 ≤ REP_CORE_MAP i j ∧ REP_CORE_MAP i j < 0xA19000
      ∧ (REP_CORE_MAP i j - 0xA10000) % 0x100 < 0x80 := by unfold REP_CORE_MAP; omega
  have hk : (REP_CORE_MAP i j - 0xA10000) % 0x100 / 8 = j := by unfold REP_CORE_MAP; omega
  rw [resetWord, if_pos h, hk, coreMapWord]

theorem bits_coreMapWord : ∀ j < 16, ∀ m < 8, bits (coreMapWord j) (8 * m + 7) (8 * m) = 8 * j + m := by decide

/-- As the part ships, a logical core is the physical core of its number in its cluster. -/
theorem physOf_reset {l : Nat} (h : l < numCores) : physOf State.reset l = l % 128 := by
  unfold numCores at h
  rw [physOf, show rd State.reset (REP_CORE_MAP (l / 128) (l % 128 / 8)) = coreMapWord (l % 128 / 8) from
    resetWord_coreMap (by omega) (by omega), bits_coreMapWord _ (by omega) _ (by omega)]
  omega

/-- Settles O60: the registers hold their tables' reset values, by evaluation, and the core map is the identity. -/
theorem resetState : Obligations.ResetState := by
  unfold Obligations.ResetState
  refine ⟨rfl, rfl, rfl, rfl, rfl, rfl,
    by decide, by decide, by decide, by decide, by decide, by decide, by decide,
    by decide, by decide, by decide, by decide, by decide, by decide, by decide,
    by decide, by decide, by decide, by decide, by decide, by decide, by decide,
    by decide, by decide, by decide, by decide, by decide, by decide, by decide,
    fun l m hl hm => ?coreMap⟩
  case coreMap =>
    rw [physOf_reset hl, physOf_reset hm]
    exact ⟨by omega, by omega⟩

end Sys2Proof.Machine
end

section
/-! PROOFS. What faults, halts and the check for deadlock leave (R93, R162, R163), said once for the statements about streams. -/

namespace Sys2Proof.Machine

variable {s t r : State} {l : Nat}

/-- A fold of updates that each keep a view of the state keeps it. -/
theorem foldl_keeps {α β : Type} (view : State → β) {f : State → α → State} (h : ∀ s x, view (f s x) = view s)
    (xs : List α) (s : State) : view (xs.foldl f s) = view s := by
  induction xs generalizing s with
  | nil => rfl
  | cons x xs ih => exact (ih (f s x)).trans (h s x)

/-- Nothing but one logical core, and what raising an interrupt may do, has changed. -/
def OnlyCoreSignals (s t : State) (l : Nat) : Prop :=
  OnlySignals { s with cores := t.cores } t ∧ ∀ m, m ≠ l → coreOf t m = coreOf s m

theorem OnlyCoreSignals.refl (s : State) (l : Nat) : OnlyCoreSignals s s l := ⟨rfl, fun _ _ => rfl⟩

theorem OnlyCoreSignals.trans (h : OnlyCoreSignals s t l) (k : OnlyCoreSignals t r l) : OnlyCoreSignals s r l := by
  obtain ⟨h1, h2⟩ := h
  obtain ⟨k1, k2⟩ := k
  refine ⟨?_, fun m hm => (k2 m hm).trans (h2 m hm)⟩
  rw [OnlySignals, h1] at k1
  exact k1

theorem OnlyCore.onlyCoreSignals (h : OnlyCore s t l) : OnlyCoreSignals s t l := by
  obtain ⟨h1, h2⟩ := h
  refine ⟨?_, h2⟩
  rw [OnlySignals, h1]

theorem OnlySignals.onlyCoreSignals (h : OnlySignals s t) (l : Nat) : OnlyCoreSignals s t l := by
  have hc : t.cores = s.cores := by rw [h]
  refine ⟨?_, fun m _ => by rw [coreOf, hc, coreOf]⟩
  rw [OnlySignals, h]

theorem OnlyCoreSignals.foldl {α : Type} {f : State → α → State} (h : ∀ s x, OnlyCoreSignals s (f s x) l) (xs : List α)
    (s : State) : OnlyCoreSignals s (xs.foldl f s) l := by
  induction xs generalizing s with
  | nil => exact .refl s l
  | cons x xs ih => exact (h s x).trans (ih _)

section
variable (h : OnlyCoreSignals s t l)
include h

theorem OnlyCoreSignals.mem : t.mem = s.mem := by rw [h.1]
theorem OnlyCoreSignals.reqs : t.reqs = s.reqs := by rw [h.1]
theorem OnlyCoreSignals.slices : t.slices = s.slices := by rw [h.1]
theorem OnlyCoreSignals.halves : t.halves = s.halves := by rw [h.1]
theorem OnlyCoreSignals.engines : t.engines = s.engines := by rw [h.1]
theorem OnlyCoreSignals.strOf_other {m : Nat} (hm : m ≠ l) (u : StreamId) : strOf t m u = strOf s m u := by
  rw [strOf, h.2 m hm, strOf]

end

theorem onlyCoreSignals_wr (o : Nat) (w : Word) : OnlyCoreSignals s (wr s o w) l := ⟨rfl, fun _ _ => rfl⟩

theorem onlyCoreSignals_raiseEvent (n : Nat) : OnlyCoreSignals s (raiseEvent s n) l :=
  (onlySignals_raiseEvent s n).onlyCoreSignals l

theorem onlyCoreSignals_modCore (f : CoreSt → CoreSt) : OnlyCoreSignals s (modCore s l f) l :=
  (onlyCore_modCore s l f).onlyCoreSignals

theorem onlyCoreSignals_modStr (u : StreamId) (f : Stream → Stream) : OnlyCoreSignals s (modStr s l u f) l :=
  (onlyStream_modStr s l u f).1.onlyCoreSignals

theorem onlyCore_haltStream (u : StreamId) (c : HaltCause) (k : Nat) : OnlyCore s (haltStream s l u c k) l := by
  refine ⟨?_, fun m hm => coreOf_haltStream_other s l m u c k hm⟩
  simp only [haltStream]
  split_ifs <;> rfl

theorem onlyCoreSignals_haltStream (u : StreamId) (c : HaltCause) (k : Nat) : OnlyCoreSignals s (haltStream s l u c k) l :=
  (onlyCore_haltStream u c k).onlyCoreSignals

/-- A fault changes its core, and raises its interrupt. -/
theorem onlyCoreSignals_coreFault (u : StreamId) (code : Nat) (a : Word) : OnlyCoreSignals s (coreFault s l u code a) l := by
  have hhalts : OnlyCoreSignals s ((allStreams.filter (· ≠ u)).foldl (fun s v => haltStream s l v .sibling 0)
      (haltStream s l u .fault code)) l :=
    (onlyCoreSignals_haltStream u .fault code).trans (.foldl (fun _ _ => onlyCoreSignals_haltStream ..) _ _)
  simp only [coreFault]
  refine .trans ?_ (onlyCoreSignals_raiseEvent _)
  split_ifs
  · exact (hhalts.trans (onlyCoreSignals_wr _ _)).trans (onlyCoreSignals_modCore _)
  · exact hhalts

/-! ### The check for deadlock (R93) -/

/-- The streams of a core that wait on a counter. -/
def stuckOn (s : State) (l : Nat) : List StreamId :=
  allStreams.filter (fun t => (strOf s l t).st == .waiting && (strOf s l t).wait.isSome)

/-- A deadlocked stream halts, and raises the interrupt of its cluster. -/
def haltStuck (l : Nat) (s : State) (t : StreamId) : State := raiseEvent (haltStream s l t .deadlock 0x21) (32 + clusterOf l)

theorem mem_stuckOn {u : StreamId} : u ∈ stuckOn s l ↔ (strOf s l u).st = .waiting ∧ (strOf s l u).wait.isSome = true := by
  have hu : u ∈ allStreams := by cases u <;> decide
  simp [stuckOn, hu]

/-- Where the first of the deadlocked streams stands. -/
def stuckAt (s : State) (l : Nat) (u : StreamId) : Word := BitVec.ofNat 64 (((strOf s l u).pc + 2 ^ 48 - 8) % 2 ^ 48)

theorem deadlockCheck_eq (s : State) (l : Nat) : deadlockCheck s l = if deadlocked s l then
    (match stuckOn s l with
      | [] => s
      | u :: _ => (stuckOn s l).foldl (haltStuck l) (wr s (CORE_FAULT_ADDR l) (stuckAt s l u)))
    else s := rfl

/-- The check halts the streams that wait on a counter where nothing can wake them, and is nothing else but its fault address. -/
theorem deadlockCheck_cases (s : State) (l : Nat) :
    deadlockCheck s l = s ∧ (deadlocked s l = false ∨ stuckOn s l = [])
      ∨ deadlocked s l = true ∧ ∃ w, deadlockCheck s l = (stuckOn s l).foldl (haltStuck l) (wr s (CORE_FAULT_ADDR l) w) := by
  rw [deadlockCheck_eq]
  cases deadlocked s l with
  | false => exact .inl ⟨rfl, .inl rfl⟩
  | true =>
    cases hq : stuckOn s l with
    | nil => exact .inl ⟨rfl, .inr rfl⟩
    | cons u us => exact .inr ⟨rfl, stuckAt s l u, by rw [if_pos rfl]⟩

theorem onlyCoreSignals_haltStuck (u : StreamId) : OnlyCoreSignals s (haltStuck l s u) l :=
  (onlyCoreSignals_haltStream u .deadlock 0x21).trans (onlyCoreSignals_raiseEvent _)

theorem onlyCoreSignals_deadlockCheck (s : State) (l : Nat) : OnlyCoreSignals s (deadlockCheck s l) l := by
  obtain ⟨h, -⟩ | ⟨-, w, h⟩ := deadlockCheck_cases s l <;> rw [h]
  · exact .refl s l
  · exact (onlyCoreSignals_wr _ _).trans (.foldl (fun _ u => onlyCoreSignals_haltStuck u) _ _)

@[simp] theorem deadlockCheck_mem (s : State) (l : Nat) : (deadlockCheck s l).mem = s.mem :=
  (onlyCoreSignals_deadlockCheck s l).mem

theorem halting_idem (x : Stream) (c : HaltCause) (k : Nat) : (x.halting c k).halting c k = x.halting c k := by
  unfold Stream.halting
  split_ifs <;> rfl

theorem strOf_haltStuck (u v : StreamId) :
    strOf (haltStuck l s u) l v = if v = u then (strOf s l v).halting .deadlock 0x21 else strOf s l v := by
  rw [haltStuck, strOf_raiseEvent]
  split_ifs with h
  · rw [h, strOf_haltStream_self]
  · rw [strOf_haltStream_sibling _ _ _ _ _ _ h]

theorem strOf_foldl_haltStuck (us : List StreamId) (s : State) (v : StreamId) :
    strOf (us.foldl (haltStuck l) s) l v = if v ∈ us then (strOf s l v).halting .deadlock 0x21 else strOf s l v := by
  induction us generalizing s with
  | nil => simp
  | cons u us ih =>
    rw [List.foldl_cons, ih, strOf_haltStuck]
    by_cases h : v = u <;> by_cases hm : v ∈ us <;> simp [h, hm, halting_idem]

/-- A stream that waits on a counter halts where the core is deadlocked. -/
theorem strOf_deadlockCheck_stuck {u : StreamId} (hd : deadlocked s l = true) (hw : (strOf s l u).st = .waiting)
    (hs : (strOf s l u).wait.isSome = true) : strOf (deadlockCheck s l) l u = (strOf s l u).halting .deadlock 0x21 := by
  have hu : u ∈ stuckOn s l := mem_stuckOn.2 ⟨hw, hs⟩
  obtain ⟨-, h | h⟩ | ⟨-, w, h⟩ := deadlockCheck_cases s l
  · rw [hd] at h; cases h
  · rw [h] at hu; cases hu
  · rw [h, strOf_foldl_haltStuck, if_pos hu, strOf_wr]

/-- A stream that does not wait on a counter is as it was. -/
theorem strOf_deadlockCheck_other {u : StreamId} (h : (strOf s l u).st ≠ .waiting ∨ (strOf s l u).wait = none) :
    strOf (deadlockCheck s l) l u = strOf s l u := by
  have hu : u ∉ stuckOn s l := fun hm => by
    obtain ⟨h1, h2⟩ := mem_stuckOn.1 hm
    rcases h with h | h
    · exact h h1
    · rw [h] at h2; cases h2
  obtain ⟨h, -⟩ | ⟨-, w, h⟩ := deadlockCheck_cases s l
  · rw [h]
  · rw [h, strOf_foldl_haltStuck, if_neg hu, strOf_wr]

/-- A core one of whose streams runs is not deadlocked. -/
theorem deadlockCheck_of_running {v : StreamId} (h : (strOf s l v).st = .running) : deadlockCheck s l = s := by
  have hd : deadlocked s l = false := by
    have hv : ((coreOf s l).str v).st = .running := h
    cases v <;> simp [deadlocked, allStreams, hv]
  obtain ⟨h, -⟩ | ⟨h, -⟩ := deadlockCheck_cases s l
  · exact h
  · rw [hd] at h; cases h

end Sys2Proof.Machine
end

section
/-! PROOFS. What an instruction that issues, faults or is suppressed answers (R124 to R133, R162), for the statements about
control transfers, halts and precise faults. -/

namespace Sys2Proof.Machine

variable {s : State} {x : Insn}

/-! ### How an instruction that is offered ends -/

section Ends

variable {u : Option Nat} {legal : Bool} {body : State → Stream → Done} (h : issues s x u = true)
include h

theorem issueInsn_go {s1 : State} (hl : legal = true) (hb : body s (strm s x) = .go s1) :
    issueInsn s x u legal body = issued s s1 x u (pcAfter (strm s x).pc) := by
  rw [hl, issueInsn_of_issues s x u _ h, hb]

theorem exec_issue_go {s1 : State} (hl : legal = true) (hb : body s (strm s x) = .go s1) :
    onCore x.core (issueInsn s x u legal body) = .next (issued s s1 x u (pcAfter (strm s x).pc)) := by
  rw [issueInsn_go h hl hb, onCore_lt _ _ (issues_core s h)]

theorem issueInsn_jump {s1 : State} {pc : Nat} (hl : legal = true) (hb : body s (strm s x) = .jump s1 pc) :
    issueInsn s x u legal body = issued s s1 x u pc := by
  rw [hl, issueInsn_of_issues s x u _ h, hb]

theorem exec_issue_jump {s1 : State} {pc : Nat} (hl : legal = true) (hb : body s (strm s x) = .jump s1 pc) :
    onCore x.core (issueInsn s x u legal body) = .next (issued s s1 x u pc) := by
  rw [issueInsn_jump h hl hb, onCore_lt _ _ (issues_core s h)]

theorem issueInsn_fault {code a : Nat} (hl : legal = true) (hb : body s (strm s x) = .fault code a) :
    issueInsn s x u legal body = coreFault s x.core x.stream code (BitVec.ofNat 64 a) := by
  rw [hl, issueInsn_of_issues s x u _ h, hb]

theorem exec_issue_fault {code a : Nat} (hl : legal = true) (hb : body s (strm s x) = .fault code a) :
    onCore x.core (issueInsn s x u legal body) = .next (coreFault s x.core x.stream code (BitVec.ofNat 64 a)) := by
  rw [issueInsn_fault h hl hb, onCore_lt _ _ (issues_core s h)]

theorem issueInsn_stall (hl : legal = true) (hb : body s (strm s x) = .stall) :
    issueInsn s x u legal body = s := by
  rw [hl, issueInsn_of_issues s x u _ h, hb]

theorem exec_issue_stall (hl : legal = true) (hb : body s (strm s x) = .stall) :
    onCore x.core (issueInsn s x u legal body) = .next s := by
  rw [issueInsn_stall h hl hb, onCore_lt _ _ (issues_core s h)]

end Ends

/-- The conditions of an issue but for the predicate and the arbitration: the stream's next instruction is offered to the core. -/
structure Offered (s : State) (x : Insn) : Prop where
  core : x.core < numCores
  running : (strm s x).st = .running
  free : (coreOf s x.core).held = false
  clocked : clockStopped s x.core = false
  noSlot : heldBySlot s x.core = false
  filled : fetchFails s x.core (strm s x).pc = false
  readable : roReadable s (strm s x).pc 8 = true

theorem offered_of_issues {u : Option Nat} (h : issues s x u = true) : Offered s x := by
  simp only [issues, Bool.and_eq_true, decide_eq_true_eq, beq_iff_eq, Bool.not_eq_true'] at h
  obtain ⟨⟨⟨⟨⟨⟨⟨⟨h1, h2⟩, h3⟩, h4⟩, h5⟩, h6⟩, h7⟩, -⟩, -⟩ := h
  exact ⟨h1, h2, h3, h4, h5, h6, h7⟩

/-- An instruction that is offered runs, and is fetched. -/
theorem issueInsn_of_offered (h : Offered s x) (u : Option Nat) (legal : Bool) (body : State → Stream → Done) :
    issueInsn s x u legal body = issueRun s x u legal body := by
  obtain ⟨-, hr, hf, hc, hs, -, -⟩ := h
  simp [issueInsn, show (strOf s x.core x.stream).st = .running from hr, hf, hc, hs]

theorem issueInsn_illegal (h : Offered s x) (u : Option Nat) {legal : Bool} (hl : legal = false)
    (body : State → Stream → Done) :
    issueInsn s x u legal body = coreFault s x.core x.stream 0x01 (BitVec.ofNat 64 (strm s x).pc) := by
  rw [issueInsn_of_offered h]
  have hf : fetchFails s x.core (strOf s x.core x.stream).pc = false := h.filled
  have hr : roReadable s (strOf s x.core x.stream).pc 8 = true := h.readable
  simp [issueRun, hf, hr, hl]

theorem exec_issue_illegal (h : Offered s x) (u : Option Nat) {legal : Bool} (hl : legal = false)
    (body : State → Stream → Done) :
    onCore x.core (issueInsn s x u legal body)
      = .next (coreFault s x.core x.stream 0x01 (BitVec.ofNat 64 (strm s x).pc)) := by
  rw [issueInsn_illegal h u hl, onCore_lt _ _ h.core]

theorem exec_issue_suppressed (h : Offered s x) (u : Option Nat) {legal : Bool} (hl : legal = true)
    (hp : predHolds (strm s x) x = false) (body : State → Stream → Done) :
    onCore x.core (issueInsn s x u legal body)
      = .next (modStr s x.core x.stream (fun z => { z with pc := pcAfter z.pc })) := by
  rw [onCore_lt _ _ h.core, issueInsn_of_offered h]
  have hf : fetchFails s x.core (strOf s x.core x.stream).pc = false := h.filled
  have hr : roReadable s (strOf s x.core x.stream).pc 8 = true := h.readable
  have hp : predHolds (strOf s x.core x.stream) x = false := hp
  simp [issueRun, hf, hr, hl, hp, modStr]

/-! ### What the statements say of such an end -/

/-- The command answers a next state in which its stream is as given and nothing else has changed. -/
def LeavesStream (i : Instr) (s : State) (x : Insn) (z : Stream) : Prop :=
  ∃ t, exec i s = .next t ∧ strm t x = z ∧ OnlyStream s t x.core x.stream

/-- A precise fault (R162): the faulting stream halts with the code, its live siblings halt with it, the other cores and memory are
as they were. -/
def Faults (i : Instr) (s : State) (x : Insn) (code : Nat) : Prop :=
  ∃ t, exec i s = .next t ∧ strm t x = (strm s x).halting .fault code
    ∧ (∀ u, u ≠ x.stream → strOf t x.core u = (strOf s x.core u).halting .sibling 0)
    ∧ (∀ m, m ≠ x.core → coreOf t m = coreOf s m) ∧ t.mem = s.mem

theorem leavesStream_same {i : Instr} {pc : Nat} (e : exec i s = .next (issued s s x none pc)) :
    LeavesStream i s x { strm s x with pc := pc } := ⟨_, e, issued_same s x pc⟩

theorem leavesStream_modStr {i : Instr} {f : Stream → Stream} {pc : Nat}
    (e : exec i s = .next (issued s (modStr s x.core x.stream f) x none pc)) :
    LeavesStream i s x { f (strm s x) with pc := pc } := ⟨_, e, issued_modStr s x f pc⟩

theorem leavesStream_suppressed {i : Instr}
    (e : exec i s = .next (modStr s x.core x.stream (fun z => { z with pc := pcAfter z.pc }))) :
    LeavesStream i s x { strm s x with pc := pcAfter (strm s x).pc } :=
  ⟨_, e, strOf_modStr_self .., onlyStream_modStr ..⟩

theorem faults_of_exec {i : Instr} {code : Nat} {a : Word} (e : exec i s = .next (coreFault s x.core x.stream code a)) :
    Faults i s x code :=
  ⟨_, e, strOf_coreFault_self .., fun _ hu => strOf_coreFault_sibling _ _ _ _ _ _ hu, (onlyCoreSignals_coreFault ..).2,
    coreFault_mem ..⟩

/-! ### Branches (R131, R132) -/

theorem branchesTo_branchTarget (st : Stream) (x : Insn) : branchesTo st.pc x (branchTarget st x) := by
  unfold branchesTo branchTarget wrapN
  refine ⟨by omega, ?_⟩
  rw [Int.toNat_of_nonneg (by omega)]
  exact Int.mod_modEq _ _

theorem toNat_sub_one_add_one (w : Word) : ((w - 1).toNat + 1) % 2 ^ 64 = w.toNat := by
  have := w.isLt
  rw [BitVec.toNat_sub]
  simp only [BitVec.reduceToNat]
  omega

theorem jumpTo_of_fits (s : State) {a : Nat} (ha : a % 8 = 0) (hb : a < 2 ^ 48) : jumpTo s a = .jump s a := by
  rw [jumpTo, if_neg (not_not.2 ha), if_neg (Nat.not_le.2 hb)]

/-- Settles O6: each instruction's body goes on, or jumps, with its link register written. -/
theorem controlTransfers : Obligations.ControlTransfers := by
  unfold Obligations.ControlTransfers
  refine ⟨?nop, ?br, ?jal, ?branchCompare, ?jr, ?jalr, ?loop⟩
  case nop => exact fun x s h hz => leavesStream_same (exec_issue_go h (by simp [hz]) rfl)
  case br =>
    intro x s h h0 h1
    obtain ⟨t, e, hs, ho⟩ := leavesStream_same (i := .br x) (exec_issue_jump h (by simp [h0, h1]) rfl)
    exact ⟨t, _, e, branchesTo_branchTarget .., hs, ho⟩
  case jal =>
    intro x s h h1 h0
    obtain ⟨t, e, hs, ho⟩ := leavesStream_modStr (i := .jal x) (exec_issue_jump h (by simp [h1]) (if_neg (by simp [isSA, h0])))
    exact ⟨t, _, e, branchesTo_branchTarget .., hs, ho⟩
  case branchCompare =>
    intro fn x s h hf h0 h1
    have hb : ¬ (!isSAP x.r0 || !isSAP x.r1) = true := by simp [isSAP, h0, h1]
    rw [← intCmp_iff_cmpRule]
    by_cases hc : intCmp fn.toNat ((strm s x).reg x.r0) ((strm s x).reg x.r1) = true
    · obtain ⟨t, e, hs, ho⟩ := leavesStream_same (i := .branchCompare fn x)
        (exec_issue_jump h (by simp [hf]) ((if_neg hb).trans (if_pos hc)))
      exact ⟨t, _, e, fun _ => branchesTo_branchTarget .., fun hn => absurd hc hn, hs, ho⟩
    · obtain ⟨t, e, hs, ho⟩ := leavesStream_same (i := .branchCompare fn x)
        (exec_issue_go h (by simp [hf]) ((if_neg hb).trans (if_neg hc)))
      exact ⟨t, _, e, fun hn => absurd hn hc, fun _ => rfl, hs, ho⟩
  case jr =>
    intro x s h h0 h2 hz h1 ha hb
    exact leavesStream_same (exec_issue_jump h (by simp [h0, h2, hz])
      ((if_neg (by simp [isSAP, h1])).trans (jumpTo_of_fits s ha hb)))
  case jalr =>
    intro x s h h2 hz h0 h1 ha hb
    exact leavesStream_modStr (i := .jalr x) (exec_issue_jump h (by simp [h2, hz])
      ((if_neg (by simp [isSA, isSAP, h0, h1])).trans (jumpTo_of_fits _ ha hb)))
  case loop =>
    intro x s h h1 h0
    have hb : ¬ (!isSA x.r0) = true := by simp [isSA, h0]
    have hv := toNat_sub_one_add_one ((strm s x).reg x.r0)
    by_cases hc : (strm s x).reg x.r0 - 1 = 0
    · obtain ⟨t, e, hs, ho⟩ := leavesStream_modStr (i := .loop x) (f := fun st => st.setReg x.r0 (st.reg x.r0 - 1))
        (exec_issue_go h (by simp [h1]) ((if_neg hb).trans (if_neg (not_not.2 hc))))
      exact ⟨t, _, _, e, hv, fun hn => absurd hc hn, fun _ => rfl, hs, ho⟩
    · obtain ⟨t, e, hs, ho⟩ := leavesStream_modStr (i := .loop x) (f := fun st => st.setReg x.r0 (st.reg x.r0 - 1))
        (exec_issue_jump h (by simp [h1]) ((if_neg hb).trans (if_pos hc)))
      exact ⟨t, _, _, e, hv, fun _ => branchesTo_branchTarget .., fun hn => absurd hn hc, hs, ho⟩

end Sys2Proof.Machine
end

section
/-! PROOFS. Halts, breakpoints, illegal words and the issue order (R89, R93, R125, R131, R133), and the window of the debugger's
write of the issue order, which is the same one. -/

namespace Sys2Proof.Machine

variable {s : State} {x : Insn}

@[simp] theorem halting_pc (z : Stream) (c : HaltCause) (k : Nat) : (z.halting c k).pc = z.pc := by
  unfold Stream.halting; split_ifs <;> rfl

theorem halting_of_running {z : Stream} (h : z.st = .running) (c : HaltCause) (k : Nat) :
    z.halting c k = { z with st := .halting, cause := c, code := k, wait := none } := by
  rw [Stream.halting, if_pos (by simp [Stream.live, h])]

/-! ### The write of the issue order (R89) -/

/-- The word of CORE_ISSUE after a write of the order and the mode. -/
def issueWord (w : Word) (order rotate : Nat) : Word :=
  let w1 := setf w CORE_ISSUE_rotate rotate
  if order < 6 then setf (setf w1 CORE_ISSUE_order order) CORE_ISSUE_order_active order
  else if rotate = 2 then setf w1 CORE_ISSUE_order_active (getf w1 CORE_ISSUE_order) else w1

theorem writeIssue_eq (s : State) (l order rotate : Nat) : writeIssue s l order rotate
    = modCore (wr s (CORE_ISSUE l) (issueWord (rd s (CORE_ISSUE l)) order rotate)) l (fun c => { c with orders := [] }) := rfl

theorem getf_issueWord_rotate (w : Word) (order rotate : Nat) :
    getf (issueWord w order rotate) CORE_ISSUE_rotate = rotate % 4 := by
  unfold issueWord
  split_ifs <;> simp (disch := decide) only [getf_setf_other, getf_setf_self] <;> rfl

theorem getf_issueWord_order {order : Nat} (w : Word) (rotate : Nat) (h : order < 6) :
    getf (issueWord w order rotate) CORE_ISSUE_order = order
      ∧ getf (issueWord w order rotate) CORE_ISSUE_order_active = order := by
  have hm : order % 2 ^ 3 = order := Nat.mod_eq_of_lt (by omega)
  rw [issueWord, if_pos h]
  simp (disch := decide) only [getf_setf_other, getf_setf_self]
  exact ⟨hm, hm⟩

theorem getf_issueWord_kept {order : Nat} (w : Word) (rotate : Nat) (h : 6 ≤ order) :
    getf (issueWord w order rotate) CORE_ISSUE_order = getf w CORE_ISSUE_order
      ∧ getf (issueWord w order rotate) CORE_ISSUE_order_active
        = getf w (if rotate = 2 then CORE_ISSUE_order else CORE_ISSUE_order_active) := by
  have hm : getf w CORE_ISSUE_order % 2 ^ CORE_ISSUE_order_active.width = getf w CORE_ISSUE_order :=
    Nat.mod_eq_of_lt (getf_lt w CORE_ISSUE_order)
  rw [issueWord, if_neg (by omega)]
  split_ifs <;> simp (disch := decide) only [getf_setf_other, getf_setf_self, hm, true_and]

theorem rd_writeIssue_self (s : State) (l order rotate : Nat) :
    rd (writeIssue s l order rotate) (CORE_ISSUE l) = issueWord (rd s (CORE_ISSUE l)) order rotate := by
  rw [writeIssue_eq, rd_modCore, rd_wr_self]

theorem rd_writeIssue_other (s : State) {l o : Nat} (order rotate : Nat) (h : o ≠ CORE_ISSUE l) :
    rd (writeIssue s l order rotate) o = rd s o := by
  rw [writeIssue_eq, rd_modCore, rd_wr_other _ _ _ _ h]

theorem strOf_writeIssue (s : State) (l order rotate : Nat) (u : StreamId) :
    strOf (writeIssue s l order rotate) l u = strOf s l u := by
  rw [writeIssue_eq, strOf, coreOf_modCore_self]
  cases u <;> rfl

/-- Settles O7: HALT halts its stream and then checks for deadlock, which leaves every stream that waits for no counter; a
breakpoint and an illegal word are precise faults; ISSUE is one write of CORE_ISSUE. -/
theorem haltBreakAndIssueOrder : Obligations.HaltBreakAndIssueOrder := by
  unfold Obligations.HaltBreakAndIssueOrder
  refine ⟨?halt, ?brk, ?illegal, ?issue⟩
  case halt =>
    intro x s h hz
    have hr := (offered_of_issues h).running
    have hself := strOf_haltStream_self s x.core x.stream .haltInsn 0
    have hkept : ∀ u, u ≠ x.stream → (strOf s x.core u).st ≠ .waiting ∨ (strOf s x.core u).wait = none →
        strOf (deadlockCheck (haltStream s x.core x.stream .haltInsn 0) x.core) x.core u = strOf s x.core u := by
      intro u hu hw
      have hsib := strOf_haltStream_sibling s x.core x.stream u .haltInsn 0 hu
      rw [strOf_deadlockCheck_other (by rwa [hsib]), hsib]
    refine ⟨_, exec_issue_go h (by simp [hz]) rfl, ?_, fun u hu hw => ?_, fun m hm => ?_, ?_, fun ⟨v, hv, hrun⟩ => ?_⟩
    · rw [strm, strOf_issued_self, strOf_deadlockCheck_other, hself]
      rw [hself, halting_of_running hr]
      exact .inr rfl
    · rw [strOf_issued_other _ _ _ _ _ _ hu, hkept u hu hw]
    · rw [coreOf_issued_other _ _ _ _ _ _ hm, (onlyCoreSignals_deadlockCheck _ _).2 m hm, (onlyCore_haltStream ..).2 m hm]
    · rw [issued_mem, deadlockCheck_mem, haltStream_mem]
    · rw [deadlockCheck_of_running (v := v) (by rw [strOf_haltStream_sibling _ _ _ _ _ _ hv, hrun])]
      refine ⟨fun u hu => by rw [strOf_issued_other _ _ _ _ _ _ hu, strOf_haltStream_sibling _ _ _ _ _ _ hu], ?_⟩
      rw [issued_none]
      exact (onlyCore_haltStream ..).trans (onlyStream_modStr ..).1
  case brk =>
    intro x s h hz
    refine ⟨_, exec_issue_fault h (by simp [hz]) rfl, strOf_coreFault_self .., ?_,
      fun u hu => strOf_coreFault_sibling _ _ _ _ _ _ hu, (onlyCoreSignals_coreFault ..).2, (onlyCoreSignals_coreFault ..).1⟩
    rw [strm, strOf_coreFault_self, halting_pc]
  case illegal =>
    intro l u w s h
    refine ⟨_, exec_issue_illegal (offered_of_issues h) none rfl _, strOf_coreFault_self .., ?_,
      fun v hv => strOf_coreFault_sibling _ _ _ _ _ _ hv, (onlyCoreSignals_coreFault ..).2, (onlyCoreSignals_coreFault ..).1⟩
    rw [strOf_coreFault_self, halting_pc]
  case issue =>
    intro x s h hz h3
    have hrd (pc o : Nat) : rd (issued s (writeIssue s x.core (bitsN x.b 2 0) (bitsN x.b 5 4)) x none pc) o
        = rd (writeIssue s x.core (bitsN x.b 2 0) (bitsN x.b 5 4)) o := rd_congr (issued_cfg ..) o
    refine ⟨_, exec_issue_go h (by simp [hz, h3]) rfl, ?_, fun ho => ?_, fun ho => ?_, ?_, fun o ho => ?_, ?_⟩
    · rw [rdf, hrd, rd_writeIssue_self, getf_issueWord_rotate]
      exact Nat.mod_eq_of_lt (Nat.mod_lt _ (by decide))
    · rw [rdf, hrd, rd_writeIssue_self, (getf_issueWord_order _ _ ho).1]
    · rw [rdf, hrd, rd_writeIssue_self, (getf_issueWord_kept _ _ ho).1, rdf]
    · rw [strm, strOf_issued_self, strOf_writeIssue]
    · rw [hrd, rd_writeIssue_other _ _ _ ho]
    · rw [issued_mem, writeIssue_eq, modCore_mem, wr_mem]

end Sys2Proof.Machine
end

section
/-! PROOFS. Suppressed instructions and precise faults (R125, R126, R128, R132, R162). -/

namespace Sys2Proof.Machine

variable {s : State} {x : Insn}

/-- A suppressed instruction that is well formed moves the pc and does nothing else. -/
def Skips (i : Instr) (s : State) (x : Insn) : Prop := LeavesStream i s x { strm s x with pc := pcAfter (strm s x).pc }

/-- The suppressed instructions of classes 0x0_ and 0x1_ that the statement lists. -/
theorem skips_of_suppressed (h : Offered s x) (hp : predHolds (strm s x) x = false) (fn : BitVec 4) :
    (x.b = 0 → Skips (.nop x) s x ∧ Skips (.halt x) s x ∧ Skips (.brk x) s x)
      ∧ (x.r1 = 0 → Skips (.jal x) s x ∧ Skips (.loop x) s x ∧ Skips (.li x) s x ∧ Skips (.lih x) s x)
      ∧ (fn.toNat < 6 → Skips (.branchCompare fn x) s x ∧ Skips (.cmpi fn x) s x)
      ∧ (fn.toNat < 12 → Skips (.scalarAluImm fn x) s x ∧ (bitsN x.b 29 0 = 0 → Skips (.scalarAlu fn x) s x))
      ∧ (bitsN x.b 23 0 = 0 → Skips (.fma x) s x) := by
  have skips {i : Instr} {legal : Bool} {body} (he : exec i s = onCore x.core (issueInsn s x none legal body))
      (hl : legal = true) : Skips i s x := leavesStream_suppressed (he.trans (exec_issue_suppressed h none hl hp body))
  refine ⟨fun hz => ⟨skips rfl ?_, skips rfl ?_, skips rfl ?_⟩, fun hz => ⟨skips rfl ?_, skips rfl ?_, skips rfl ?_, skips rfl ?_⟩,
    fun hf => ⟨skips rfl ?_, skips rfl ?_⟩, fun hf => ⟨skips rfl ?_, fun hz => skips rfl ?_⟩, fun hz => skips rfl ?_⟩
  all_goals simp [*]

/-- The illegal words of the instructions that the statement lists. -/
theorem faults_of_illegal (h : Offered s x) (fn : BitVec 4) :
    ((12 ≤ fn.toNat ∨ bitsN x.b 29 0 ≠ 0) → Faults (.scalarAlu fn x) s x 0x01)
      ∧ (x.b ≠ 0 → Faults (.nop x) s x 0x01 ∧ Faults (.halt x) s x 0x01 ∧ Faults (.brk x) s x 0x01) := by
  have faults {i : Instr} {legal : Bool} {body} (he : exec i s = onCore x.core (issueInsn s x none legal body))
      (hl : legal = false) : Faults i s x 0x01 := faults_of_exec (he.trans (exec_issue_illegal h none hl body))
  refine ⟨fun hz => faults rfl ?_, fun hz => ⟨faults rfl ?_, faults rfl ?_, faults rfl ?_⟩⟩
  · simp only [Bool.and_eq_false_iff, decide_eq_false_iff_not, Nat.not_lt, beq_eq_false_iff_ne]
    exact hz
  all_goals simp [hz]

/-- Settles O8: a suppressed instruction ends before its body, an illegal one before its predicate is read, and the bodies raise
their faults at the instruction. -/
theorem suppressedInstructionsAndPreciseFaults : Obligations.SuppressedInstructionsAndPreciseFaults := by
  unfold Obligations.SuppressedInstructionsAndPreciseFaults
  refine ⟨fun fn x s hcore hrun hheld hclock hslot hfill hread hp =>
    skips_of_suppressed ⟨hcore, hrun, hheld, hclock, hslot, hfill, hread⟩ hp fn, fun fn x s h => ?_⟩
  obtain ⟨halu, hzero⟩ := faults_of_illegal (offered_of_issues h) fn
  refine ⟨fun h0 h2 hz h1 ha => ?misaligned, fun h0 h2 hz h1 ha hb => ?beyond, fun hf hz hr => ?operand, fun hf hz hr => ?predicate,
    halu, hzero⟩
  case misaligned =>
    exact faults_of_exec (exec_issue_fault h (by simp [h0, h2, hz]) ((if_neg (by simp [isSAP, h1])).trans (if_pos ha)))
  case beyond =>
    exact faults_of_exec (exec_issue_fault h (by simp [h0, h2, hz])
      ((if_neg (by simp [isSAP, h1])).trans ((if_neg (not_not.2 ha)).trans (if_pos hb))))
  case operand =>
    have hbad : (!isSA x.r0 || !isSAP x.r1 || !isSAP x.r2) = true := by
      simp only [isSA, isSAP, Bool.or_eq_true, Bool.not_eq_true', decide_eq_false_iff_not]
      omega
    exact faults_of_exec (exec_issue_fault h (by simp [hf, hz]) (if_pos hbad))
  case predicate =>
    have hbad : isP x.r0 = false := by
      simp only [isP, Bool.and_eq_false_iff, decide_eq_false_iff_not]
      omega
    exact faults_of_exec (exec_issue_fault h (by simp [hf, hz]) (if_pos (by simp [hbad])))

end Sys2Proof.Machine
end

section
/-! PROOFS. What an update of a stream leaves of its core, what an instruction that issues leaves of it, and the stream counters
(R90 to R92). -/

namespace Sys2Proof.Machine

variable {s : State} {x : Insn} {l : Nat}

/-! ### A stream and the rest of its core -/

@[simp] theorem coreSetStr_ctrs (c : CoreSt) (u : StreamId) (z : Stream) : (c.setStr u z).ctrs = c.ctrs := by cases u <;> rfl
@[simp] theorem coreSetStr_tiles (c : CoreSt) (u : StreamId) (z : Stream) : (c.setStr u z).tiles = c.tiles := by cases u <;> rfl
@[simp] theorem coreSetStr_tflags (c : CoreSt) (u : StreamId) (z : Stream) : (c.setStr u z).tflags = c.tflags := by cases u <;> rfl
@[simp] theorem coreSetStr_seed (c : CoreSt) (u : StreamId) (z : Stream) : (c.setStr u z).seed = c.seed := by cases u <;> rfl
@[simp] theorem coreSetStr_orders (c : CoreSt) (u : StreamId) (z : Stream) : (c.setStr u z).orders = c.orders := by cases u <;> rfl
@[simp] theorem coreSetStr_ro (c : CoreSt) (u : StreamId) (z : Stream) : (c.setStr u z).ro = c.ro := by cases u <;> rfl
@[simp] theorem coreSetStr_fills (c : CoreSt) (u : StreamId) (z : Stream) : (c.setStr u z).fills = c.fills := by cases u <;> rfl
@[simp] theorem coreSetStr_roFailed (c : CoreSt) (u : StreamId) (z : Stream) : (c.setStr u z).roFailed = c.roFailed := by cases u <;> rfl
@[simp] theorem coreSetStr_faultBy (c : CoreSt) (u : StreamId) (z : Stream) : (c.setStr u z).faultBy = c.faultBy := by cases u <;> rfl
@[simp] theorem coreSetStr_faultAt (c : CoreSt) (u : StreamId) (z : Stream) : (c.setStr u z).faultAt = c.faultAt := by cases u <;> rfl
@[simp] theorem coreSetStr_ops (c : CoreSt) (u : StreamId) (z : Stream) : (c.setStr u z).ops = c.ops := by cases u <;> rfl
@[simp] theorem coreSetStr_descs (c : CoreSt) (u : StreamId) (z : Stream) : (c.setStr u z).descs = c.descs := by cases u <;> rfl
@[simp] theorem coreSetStr_maints (c : CoreSt) (u : StreamId) (z : Stream) : (c.setStr u z).maints = c.maints := by cases u <;> rfl
@[simp] theorem coreSetStr_kcmds (c : CoreSt) (u : StreamId) (z : Stream) : (c.setStr u z).kcmds = c.kcmds := by cases u <;> rfl
@[simp] theorem coreSetStr_incs (c : CoreSt) (u : StreamId) (z : Stream) : (c.setStr u z).incs = c.incs := by cases u <;> rfl
@[simp] theorem coreSetStr_mmaPos (c : CoreSt) (u : StreamId) (z : Stream) : (c.setStr u z).mmaPos = c.mmaPos := by cases u <;> rfl
@[simp] theorem coreSetStr_bad (c : CoreSt) (u : StreamId) (z : Stream) : (c.setStr u z).bad = c.bad := by cases u <;> rfl
@[simp] theorem coreSetStr_soft (c : CoreSt) (u : StreamId) (z : Stream) : (c.setStr u z).soft = c.soft := by cases u <;> rfl
@[simp] theorem coreSetStr_held (c : CoreSt) (u : StreamId) (z : Stream) : (c.setStr u z).held = c.held := by cases u <;> rfl

@[simp] theorem coreOf_setStr_self (s : State) (l : Nat) (u : StreamId) (z : Stream) :
    coreOf (setStr s l u z) l = (coreOf s l).setStr u z := coreOf_modCore_self ..

@[simp] theorem coreOf_modStr_self (s : State) (l : Nat) (u : StreamId) (f : Stream → Stream) :
    coreOf (modStr s l u f) l = (coreOf s l).setStr u (f (strOf s l u)) := coreOf_modCore_self ..

/-- The core of an instruction that has issued: its stream at the next address, and perhaps another order of its unit. -/
theorem coreOf_issued_self (s s1 : State) (x : Insn) (u : Option Nat) (pc : Nat) :
    ∃ o, coreOf (issued s s1 x u pc) x.core
      = { (coreOf s1 x.core).setStr x.stream { strOf s1 x.core x.stream with pc := pc } with orders := o } := by
  have hsame : coreOf (modStr s1 x.core x.stream (fun z => { z with pc := pc })) x.core
      = { (coreOf s1 x.core).setStr x.stream { strOf s1 x.core x.stream with pc := pc } with
          orders := (coreOf s1 x.core).orders } := by
    rw [coreOf_modStr_self]
    cases x.stream <;> rfl
  unfold issued
  cases u with
  | none => exact ⟨_, hsame⟩
  | some n =>
    dsimp only
    split_ifs
    · exact ⟨_, hsame⟩
    · obtain ⟨f, ⟨hf, h⟩ | h⟩ := afterContention_only (modStr s1 x.core x.stream (fun z => { z with pc := pc })) x.core n x.stream
      · rw [h, coreOf_modCore_self, hf, hsame]
        exact ⟨_, rfl⟩
      · rw [h]
        exact ⟨_, hsame⟩

@[simp] theorem issued_ctrs (s s1 : State) (x : Insn) (u : Option Nat) (pc : Nat) :
    (coreOf (issued s s1 x u pc) x.core).ctrs = (coreOf s1 x.core).ctrs := by
  obtain ⟨_, h⟩ := coreOf_issued_self s s1 x u pc
  simp [h]

@[simp] theorem issued_tiles (s s1 : State) (x : Insn) (u : Option Nat) (pc : Nat) :
    (coreOf (issued s s1 x u pc) x.core).tiles = (coreOf s1 x.core).tiles := by
  obtain ⟨_, h⟩ := coreOf_issued_self s s1 x u pc
  simp [h]

@[simp] theorem issued_tflags (s s1 : State) (x : Insn) (u : Option Nat) (pc : Nat) :
    (coreOf (issued s s1 x u pc) x.core).tflags = (coreOf s1 x.core).tflags := by
  obtain ⟨_, h⟩ := coreOf_issued_self s s1 x u pc
  simp [h]

@[simp] theorem issued_seed (s s1 : State) (x : Insn) (u : Option Nat) (pc : Nat) :
    (coreOf (issued s s1 x u pc) x.core).seed = (coreOf s1 x.core).seed := by
  obtain ⟨_, h⟩ := coreOf_issued_self s s1 x u pc
  simp [h]

@[simp] theorem issued_ro (s s1 : State) (x : Insn) (u : Option Nat) (pc : Nat) :
    (coreOf (issued s s1 x u pc) x.core).ro = (coreOf s1 x.core).ro := by
  obtain ⟨_, h⟩ := coreOf_issued_self s s1 x u pc
  simp [h]

@[simp] theorem issued_fills (s s1 : State) (x : Insn) (u : Option Nat) (pc : Nat) :
    (coreOf (issued s s1 x u pc) x.core).fills = (coreOf s1 x.core).fills := by
  obtain ⟨_, h⟩ := coreOf_issued_self s s1 x u pc
  simp [h]

@[simp] theorem issued_roFailed (s s1 : State) (x : Insn) (u : Option Nat) (pc : Nat) :
    (coreOf (issued s s1 x u pc) x.core).roFailed = (coreOf s1 x.core).roFailed := by
  obtain ⟨_, h⟩ := coreOf_issued_self s s1 x u pc
  simp [h]

@[simp] theorem issued_faultBy (s s1 : State) (x : Insn) (u : Option Nat) (pc : Nat) :
    (coreOf (issued s s1 x u pc) x.core).faultBy = (coreOf s1 x.core).faultBy := by
  obtain ⟨_, h⟩ := coreOf_issued_self s s1 x u pc
  simp [h]

@[simp] theorem issued_faultAt (s s1 : State) (x : Insn) (u : Option Nat) (pc : Nat) :
    (coreOf (issued s s1 x u pc) x.core).faultAt = (coreOf s1 x.core).faultAt := by
  obtain ⟨_, h⟩ := coreOf_issued_self s s1 x u pc
  simp [h]

@[simp] theorem issued_ops (s s1 : State) (x : Insn) (u : Option Nat) (pc : Nat) :
    (coreOf (issued s s1 x u pc) x.core).ops = (coreOf s1 x.core).ops := by
  obtain ⟨_, h⟩ := coreOf_issued_self s s1 x u pc
  simp [h]

@[simp] theorem issued_descs (s s1 : State) (x : Insn) (u : Option Nat) (pc : Nat) :
    (coreOf (issued s s1 x u pc) x.core).descs = (coreOf s1 x.core).descs := by
  obtain ⟨_, h⟩ := coreOf_issued_self s s1 x u pc
  simp [h]

@[simp] theorem issued_maints (s s1 : State) (x : Insn) (u : Option Nat) (pc : Nat) :
    (coreOf (issued s s1 x u pc) x.core).maints = (coreOf s1 x.core).maints := by
  obtain ⟨_, h⟩ := coreOf_issued_self s s1 x u pc
  simp [h]

@[simp] theorem issued_kcmds (s s1 : State) (x : Insn) (u : Option Nat) (pc : Nat) :
    (coreOf (issued s s1 x u pc) x.core).kcmds = (coreOf s1 x.core).kcmds := by
  obtain ⟨_, h⟩ := coreOf_issued_self s s1 x u pc
  simp [h]

@[simp] theorem issued_incs (s s1 : State) (x : Insn) (u : Option Nat) (pc : Nat) :
    (coreOf (issued s s1 x u pc) x.core).incs = (coreOf s1 x.core).incs := by
  obtain ⟨_, h⟩ := coreOf_issued_self s s1 x u pc
  simp [h]

@[simp] theorem issued_mmaPos (s s1 : State) (x : Insn) (u : Option Nat) (pc : Nat) :
    (coreOf (issued s s1 x u pc) x.core).mmaPos = (coreOf s1 x.core).mmaPos := by
  obtain ⟨_, h⟩ := coreOf_issued_self s s1 x u pc
  simp [h]

@[simp] theorem issued_bad (s s1 : State) (x : Insn) (u : Option Nat) (pc : Nat) :
    (coreOf (issued s s1 x u pc) x.core).bad = (coreOf s1 x.core).bad := by
  obtain ⟨_, h⟩ := coreOf_issued_self s s1 x u pc
  simp [h]

@[simp] theorem issued_soft (s s1 : State) (x : Insn) (u : Option Nat) (pc : Nat) :
    (coreOf (issued s s1 x u pc) x.core).soft = (coreOf s1 x.core).soft := by
  obtain ⟨_, h⟩ := coreOf_issued_self s s1 x u pc
  simp [h]

@[simp] theorem issued_held (s s1 : State) (x : Insn) (u : Option Nat) (pc : Nat) :
    (coreOf (issued s s1 x u pc) x.core).held = (coreOf s1 x.core).held := by
  obtain ⟨_, h⟩ := coreOf_issued_self s s1 x u pc
  simp [h]

/-- Every other core is as the instruction's body left it, and so is every sibling. -/
theorem othersKept_issued {s s1 : State} {x : Insn} (h : OthersKept s s1 x.core x.stream) (u : Option Nat) (pc : Nat) :
    OthersKept s (issued s s1 x u pc) x.core x.stream := by
  obtain ⟨hc, hs⟩ := h
  exact ⟨fun m hm => (coreOf_issued_other _ _ _ _ _ _ hm).trans (hc m hm),
    fun v hv => (strOf_issued_other _ _ _ _ _ _ hv).trans (hs v hv)⟩

theorem OthersKept.refl (s : State) (l : Nat) (u : StreamId) : OthersKept s s l u := ⟨fun _ _ => rfl, fun _ _ => rfl⟩

theorem OthersKept.trans {s t r : State} {l : Nat} {u : StreamId} (h : OthersKept s t l u) (k : OthersKept t r l u) :
    OthersKept s r l u := by
  obtain ⟨h1, h2⟩ := h
  obtain ⟨k1, k2⟩ := k
  exact ⟨fun m hm => (k1 m hm).trans (h1 m hm), fun v hv => (k2 v hv).trans (h2 v hv)⟩

theorem OnlyStream.othersKept {s t : State} {l : Nat} {u : StreamId} (h : OnlyStream s t l u) : OthersKept s t l u := by
  obtain ⟨⟨-, hc⟩, hs⟩ := h
  refine ⟨hc, fun v hv => ?_⟩
  rw [strOf, hs, coreStr_setStr_other _ _ _ _ hv, strOf]

/-- An update of a core that rewrites no stream. -/
theorem strOf_modCore_of_keeps {f : CoreSt → CoreSt} (hf : ∀ u, (f (coreOf s l)).str u = (coreOf s l).str u) (u : StreamId) :
    strOf (modCore s l f) l u = strOf s l u := by
  rw [strOf, coreOf_modCore_self, hf, strOf]

/-! ### Stream counters (R90, Table 03-6) -/

/-- A stream once the counters have changed: one whose wait is satisfied runs. -/
def woken (c : CoreSt) (z : Stream) : Stream :=
  if z.st = .waiting ∧ waitDone c z = true then { z with st := .running, wait := none } else z

theorem wakeStreams_str (c : CoreSt) (u : StreamId) : (wakeStreams c).str u = woken c (c.str u) := by cases u <;> rfl

theorem woken_of_not_waiting {c : CoreSt} {z : Stream} (h : z.st ≠ .waiting) : woken c z = z := if_neg fun hw => h hw.1

/-- The core with one counter set. -/
def withCtr (c : CoreSt) (e v : Nat) : CoreSt := { c with ctrs := smPut 0 c.ctrs e v }

/-- The core once a counter has been raised. -/
def raised (c : CoreSt) (e n : Nat) : CoreSt := wakeStreams (withCtr c e (min (smGet 0 c.ctrs e + n) 0xFFFF))

theorem coreOf_raiseCtr (s : State) (l e n : Nat) : coreOf (raiseCtr s l e n) l = raised (coreOf s l) e n := by
  simp only [raiseCtr]
  split_ifs <;> simp [raised, withCtr]

theorem raised_ctrs (c : CoreSt) (e n : Nat) : (raised c e n).ctrs = smPut 0 c.ctrs e (min (smGet 0 c.ctrs e + n) 0xFFFF) := rfl

theorem onlyCoreSignals_raiseCtr (s : State) (l e n : Nat) : OnlyCoreSignals s (raiseCtr s l e n) l := by
  simp only [raiseCtr]
  split_ifs
  · exact (onlyCoreSignals_modCore _).trans (onlyCoreSignals_wr _ _)
  · exact onlyCoreSignals_modCore _

@[simp] theorem raiseCtr_mem (s : State) (l e n : Nat) : (raiseCtr s l e n).mem = s.mem := (onlyCoreSignals_raiseCtr s l e n).mem

theorem strOf_raiseCtr (s : State) (l e n : Nat) (u : StreamId) :
    strOf (raiseCtr s l e n) l u = woken (withCtr (coreOf s l) e (min (smGet 0 (coreOf s l).ctrs e + n) 0xFFFF)) (strOf s l u) := by
  rw [strOf, coreOf_raiseCtr, raised, wakeStreams_str, strOf]
  cases u <;> rfl

theorem smGet_raiseCtr_self (s : State) (l e n : Nat) :
    smGet 0 (coreOf (raiseCtr s l e n) l).ctrs e = min (smGet 0 (coreOf s l).ctrs e + n) 0xFFFF := by
  rw [coreOf_raiseCtr, raised_ctrs, smGet_smPut_self]

theorem smGet_raiseCtr_other (s : State) (l n : Nat) {e f : Nat} (h : f ≠ e) :
    smGet 0 (coreOf (raiseCtr s l e n) l).ctrs f = smGet 0 (coreOf s l).ctrs f := by
  rw [coreOf_raiseCtr, raised_ctrs, smGet_smPut_other _ _ _ _ _ _ h]

theorem bit_eq_testBit (w : Word) (i : Nat) : bit w i = w.toNat.testBit i := by
  rw [bit, bits, bitsN, Nat.testBit_eq_decide_div_mod_eq, Nat.add_sub_cancel_left]
  rfl

theorem bit_or_twoPow {w : Word} {i : Nat} (h : i < 64) : bit (w ||| BitVec.ofNat 64 (2 ^ i)) i = true := by
  have hi : 2 ^ i < 2 ^ 64 := Nat.pow_lt_pow_right (by decide) h
  rw [bit_eq_testBit, BitVec.toNat_or, BitVec.toNat_ofNat, Nat.mod_eq_of_lt hi, Nat.testBit_or, Nat.testBit_two_pow_self,
    Bool.or_true]

/-- A counter that would pass 0xFFFF sets its bit of CORE_STATUS, and no other raise touches a register. -/
theorem rd_raiseCtr_status (s : State) (l e n : Nat) : rd (raiseCtr s l e n) (CORE_STATUS l)
    = if smGet 0 (coreOf s l).ctrs e + n > 0xFFFF then rd s (CORE_STATUS l) ||| BitVec.ofNat 64 (2 ^ (56 + e))
      else rd s (CORE_STATUS l) := by
  simp only [raiseCtr]
  split_ifs
  · rw [rd_wr_self, rd_modCore]
  · rw [rd_modCore]

end Sys2Proof.Machine
end

section
/-! PROOFS. Counters and waits (R90 to R93, R149 to R153). -/

namespace Sys2Proof.Machine

variable {s : State} {x : Insn}

theorem e_lt (x : Insn) : x.e < 8 := Nat.mod_lt _ (by decide)

/-- The bits that an instruction of format C keeps zero, and those above its value, are zero together. -/
theorem bitsN_zero_of_wide {b : Nat} (h : bitsN b 37 16 = 0) : bitsN b 37 36 = 0 ∧ bitsN b 35 16 = 0 := by
  unfold bitsN at *; omega

theorem strOf_of_running_raiseCtr {l e n : Nat} {u : StreamId} (h : (strOf s l u).st = .running) :
    strOf (raiseCtr s l e n) l u = strOf s l u := by
  rw [strOf_raiseCtr, woken_of_not_waiting (by rw [h]; decide)]

/-- A stream that waits on the counter runs exactly where the counter has reached its value. -/
theorem strOf_raiseCtr_waiting {l e n w : Nat} {v : StreamId} (hs : (strOf s l v).st = .waiting)
    (hw : (strOf s l v).wait = some (e, w)) : strOf (raiseCtr s l e n) l v
      = if w ≤ min (smGet 0 (coreOf s l).ctrs e + n) 0xFFFF then { strOf s l v with st := .running, wait := none }
        else strOf s l v := by
  rw [strOf_raiseCtr, woken]
  simp only [waitDone, hw, withCtr, smGet_smPut_self, hs, true_and, decide_eq_true_eq, ge_iff_le]

/-! ### CTR.INC -/

/-- The writes that an increment waits for: the stream's operations that are no MMA. -/
def writesDue (s : State) (x : Insn) : List Nat :=
  ((coreOf s x.core).ops.filter (fun o => o.stream == x.stream && o.kind != .mma)).map (·.id)

theorem mem_writesDue {i : Nat} :
    i ∈ writesDue s x ↔ ∃ o ∈ (coreOf s x.core).ops, o.id = i ∧ o.stream = x.stream ∧ o.kind ≠ .mma := by
  simp only [writesDue, List.mem_map, List.mem_filter, Bool.and_eq_true, beq_iff_eq, bne_iff_ne]
  exact ⟨fun ⟨o, ⟨hm, hs, hk⟩, hi⟩ => ⟨o, hm, hi, hs, hk⟩, fun ⟨o, hm, hi, hs, hk⟩ => ⟨o, ⟨hm, hs, hk⟩, hi⟩⟩

theorem writesDue_eq_nil (h : ∀ o ∈ (coreOf s x.core).ops, o.stream = x.stream → o.kind = .mma) : writesDue s x = [] :=
  List.eq_nil_iff_forall_not_mem.2 fun i hi => by
    obtain ⟨o, hm, -, hs, hk⟩ := mem_writesDue.1 hi
    exact hk (h o hm hs)

section Inc

variable (h : issues s x none = true) (h0 : x.r0 = 0) (hc : x.ctrEn = false) (hz : bitsN x.b 37 16 = 0)
include h h0 hc hz

theorem exec_ctrInc_of_issues {s1 : State} (hb : ctrIncBody x s (strm s x) = .go s1) :
    exec (.ctrInc x) s = .next (issued s s1 x none (pcAfter (strm s x).pc)) :=
  exec_issue_go h (by simp [h0, hc, (bitsN_zero_of_wide hz).1]) hb

theorem ctrInc_zero (hn : bitsN x.b 15 0 = 0) :
    exec (.ctrInc x) s = .next (issued s s x none (pcAfter (strm s x).pc)) :=
  exec_ctrInc_of_issues h h0 hc hz ((if_neg (not_not.2 (bitsN_zero_of_wide hz).2)).trans (if_pos hn))

theorem ctrInc_raises (hn : bitsN x.b 15 0 ≠ 0) (hw : writesDue s x = []) :
    exec (.ctrInc x) s = .next (issued s (raiseCtr s x.core x.e (bitsN x.b 15 0)) x none (pcAfter (strm s x).pc)) :=
  exec_ctrInc_of_issues h h0 hc hz
    ((if_neg (not_not.2 (bitsN_zero_of_wide hz).2)).trans ((if_neg hn).trans (if_pos hw)))

theorem ctrInc_defers (hn : bitsN x.b 15 0 ≠ 0) (hw : writesDue s x ≠ []) :
    exec (.ctrInc x) s = .next (issued s (modCore s x.core (fun c => { c with
      incs := c.incs ++ [(x.e, bitsN x.b 15 0, writesDue s x)] })) x none (pcAfter (strm s x).pc)) :=
  exec_ctrInc_of_issues h h0 hc hz
    ((if_neg (not_not.2 (bitsN_zero_of_wide hz).2)).trans ((if_neg hn).trans (if_neg hw)))

end Inc

/-! ### CTR.WAIT -/

/-- What a wait on a counter answers: the next instruction where the counter has reached the value, and otherwise a stream that waits,
which may leave its core deadlocked. -/
def Waits (i : Instr) (s : State) (x : Insn) (v : Nat) : Prop :=
  (v ≤ smGet 0 (coreOf s x.core).ctrs x.e → LeavesStream i s x { strm s x with pc := pcAfter (strm s x).pc })
    ∧ (smGet 0 (coreOf s x.core).ctrs x.e < v → ∃ u, exec i s = .next (deadlockCheck u x.core)
      ∧ strm u x = { strm s x with st := .waiting, wait := some (x.e, v), pc := pcAfter (strm s x).pc }
      ∧ OnlyStream s u x.core x.stream)

theorem waits_of_body (h : issues s x none = true) {i : Instr} {v : Nat} {legal : Bool} {body : State → Stream → Done}
    (he : exec i s = onCore x.core (deadlockCheck (issueInsn s x none legal body) x.core)) (hl : legal = true)
    (hb : body s (strm s x) = ctrWaitOn x v s (strm s x)) : Waits i s x v := by
  rw [onCore_lt _ _ (issues_core s h)] at he
  refine ⟨fun hv => ?_, fun hv => ?_⟩
  · rw [issueInsn_go h hl (hb.trans (if_pos hv))] at he
    obtain ⟨hs, ho⟩ := issued_same s x (pcAfter (strm s x).pc)
    have hrun : (strm (issued s s x none (pcAfter (strm s x).pc)) x).st = .running := by
      rw [hs]; exact (offered_of_issues h).running
    rw [deadlockCheck_of_running hrun] at he
    exact ⟨_, he, hs, ho⟩
  · rw [issueInsn_jump h hl (hb.trans (if_neg (Nat.not_le.2 hv)))] at he
    obtain ⟨hs, ho⟩ := issued_modStr s x (fun z => { z with st := .waiting, wait := some (x.e, v) }) (pcAfter (strm s x).pc)
    exact ⟨_, he, hs, ho⟩

/-- A fault of a wait, and the check for deadlock after it. -/
theorem faults_then_check (h : issues s x none = true) {i : Instr} {code : Nat} {a : Word} {t : State}
    (he : exec i s = onCore x.core (deadlockCheck t x.core)) (ht : t = coreFault s x.core x.stream code a) :
    ∃ u, exec i s = .next (deadlockCheck u x.core) ∧ strm u x = (strm s x).halting .fault code := by
  rw [onCore_lt _ _ (issues_core s h), ht] at he
  exact ⟨_, he, strOf_coreFault_self ..⟩

/-! ### RDMS -/

theorem coreMhz_lowest {l : Nat} (free : Nat) (hl : rdb s PWR_STATUS PWR_STATUS_lowest_state = true) (hd : doubled s l = false) :
    coreMhz s l free = 275 := by
  simp [coreMhz, hl, hd]

theorem deadlocked_of_nothing_outstanding {l : Nat} (hr : ∀ u, (strOf s l u).st ≠ .running)
    (hd : ∀ d ∈ (coreOf s l).descs, d.dead = true ∨ d.ctr = none) (hm : ∀ m ∈ (coreOf s l).maints, m.ctr = none)
    (hk : ∀ k ∈ (coreOf s l).kcmds, k.2.2 = none) (hi : (coreOf s l).incs = []) : deadlocked s l = true := by
  have hr : ∀ u, ((coreOf s l).str u).st ≠ .running := hr
  simp only [deadlocked, Bool.and_eq_true, List.all_eq_true, bne_iff_ne, Bool.or_eq_true, Option.isNone_iff_eq_none, hi,
    List.isEmpty_nil, and_true]
  exact ⟨⟨⟨fun u _ => hr u, hd⟩, hm⟩, hk⟩

/-- Settles O10: an increment is a raise of its counter, or stands in the core's list until its writes are made; a wait goes on, or
waits and then the core is checked for deadlock. -/
theorem countersAndWaits : Obligations.CountersAndWaits := by
  unfold Obligations.CountersAndWaits
  refine ⟨?inc, ?wait, ?waitMs, ?deadlock, ?rdms⟩
  case inc =>
    intro x s h h0 hc hz
    have hrun := (offered_of_issues h).running
    refine ⟨fun hops => ?now, fun ⟨o, hm, hs, hk⟩ hn => ?later⟩
    case now =>
      have hw := writesDue_eq_nil hops
      by_cases hn : bitsN x.b 15 0 = 0
      · obtain ⟨hs, ⟨ho, -⟩, -⟩ := issued_same s x (pcAfter (strm s x).pc)
        refine ⟨_, ctrInc_zero h h0 hc hz hn, hs, fun h' => absurd hn (by omega), fun _ => by rw [issued_ctrs],
          fun h' => absurd hn (by omega), fun _ => rd_congr (issued_cfg ..) _, fun e _ => by rw [issued_ctrs],
          fun v w _ h' => absurd hn (by omega)⟩
      · refine ⟨_, ctrInc_raises h h0 hc hz hn hw, ?_, fun _ => by rw [issued_ctrs, smGet_raiseCtr_self],
          fun h' => absurd h' hn, fun _ hp => ?_, fun hp => ?_, fun e he => by rw [issued_ctrs, smGet_raiseCtr_other _ _ _ he],
          fun v w hv _ hst hwt => ?_⟩
        · rw [strm, strOf_issued_self, strOf_of_running_raiseCtr hrun]
        · rw [rd_congr (issued_cfg ..), rd_raiseCtr_status, if_pos hp]
          exact bit_or_twoPow (by have := e_lt x; omega)
        · rw [rd_congr (issued_cfg ..), rd_raiseCtr_status, if_neg (by omega)]
        · rw [strOf_issued_other _ _ _ _ _ _ hv, strOf_raiseCtr_waiting hst hwt]
    case later =>
      have hw : writesDue s x ≠ [] := List.ne_nil_of_mem (mem_writesDue.2 ⟨o, hm, rfl, hs, hk⟩)
      refine ⟨_, _, ctrInc_defers h h0 hc hz (by omega) hw, ?_, by rw [issued_ctrs, coreOf_modCore_self],
        by rw [issued_incs, coreOf_modCore_self], fun i => mem_writesDue⟩
      rw [strm, strOf_issued_self, strOf_modCore_of_keeps (fun u => by cases u <;> rfl)]
  case wait =>
    intro x s h hc
    refine ⟨fun h0 hz => waits_of_body h rfl ?_ (if_neg (not_not.2 (bitsN_zero_of_wide hz).2)),
      fun h0 hz => waits_of_body h rfl ?_ (if_neg ?_), fun h0 hz => ?_, fun hz => ?_⟩
    · simp [h0, hc, (bitsN_zero_of_wide hz).1]
    · simp [hc, hz]
    · simp [isSA, h0]
    · exact faults_then_check h rfl (issueInsn_fault h (by simp [hc, hz]) (if_pos (by simp [isSA, h0])))
    · exact faults_then_check h rfl (issueInsn_illegal (offered_of_issues h) none (by simp [hz]) _)
  case waitMs =>
    intro x s h hz hp hn hsect hops
    have hbusy : ¬ (coreOf s x.core).ops.any (fun o => o.stream == x.stream || o.also.contains x.stream) = true := by
      simp only [List.any_eq_true, Bool.or_eq_true, beq_iff_eq, List.contains_iff_mem, not_exists, not_and, not_or]
      exact hops
    have he := issueInsn_jump h (legal := x.b == 0 && unpredicated x) (body := waitMsBody x) (by simp [hz, unpredicated, hp, hn])
      ((if_neg (by simp [hsect])).trans (if_neg hbusy))
    refine ⟨_, ?_, issued_modStr s x (fun z => { z with st := .waiting, wait := none }) (pcAfter (strm s x).pc)⟩
    rw [← he]
    exact onCore_lt _ _ (issues_core s h)
  case deadlock =>
    intro s l hr hd hm hk hi
    exact ⟨fun u hw hs => strOf_deadlockCheck_stuck (deadlocked_of_nothing_outstanding hr hd hm hk hi) hw hs,
      fun u hu => strOf_deadlockCheck_other hu, (onlyCoreSignals_deadlockCheck s l).2, deadlockCheck_mem s l⟩
  case rdms =>
    intro fn x s h hf h1 h2 hz h0
    obtain ⟨hs, ho⟩ := issued_modStr { s with free := s.free + 1 } x (·.setReg x.r0 (BitVec.ofNat 64
      (rdmsValue s s.free x.core x.stream fn.toNat))) (pcAfter (strm s x).pc)
    have small {n : Nat} (hn : n < 2 ^ 64) : (BitVec.ofNat 64 n).toNat = n := by
      rw [BitVec.toNat_ofNat, Nat.mod_eq_of_lt hn]
    refine ⟨_, _, exec_issue_go h (by simp [hf, h1, h2, hz]) (if_neg (by simp [isSA, h0])), hs, ho, fun e => ?_, fun e => ?_,
      fun e d hd => ?_, fun e hl hdb => ?_, fun e => ?_, fun e => ?_, fun e => ?_⟩ <;> rw [e]
    · exact small ((getf_lt ..).trans_le (by decide))
    · exact BitVec.eq_of_toNat_eq (small (rd s MST_TIME).isLt)
    · rw [show rdmsValue s s.free x.core x.stream 2 = s.mst.due.getD (nominal s) from rfl, hd, Option.getD_some]
    · rw [show rdmsValue s s.free x.core x.stream 3 = coreMhz s x.core s.free from rfl, coreMhz_lowest _ hl hdb]; rfl
    · exact small ((issues_core s h).trans (by decide))
    · cases x.stream <;> rfl
    · exact small ((getf_lt ..).trans_le (by decide))

end Sys2Proof.Machine
end

section
/-! PROOFS. What memory accesses and halts leave of the streams: the registers, the predicates, the draw counter and the pc, and a
section that is open (R97, R158, R162). -/

namespace Sys2Proof.Machine
open Sys2Proof.Laws

variable {s : State} {l : Nat}

theorem cores_of_aside {u : State} (h : aside u = aside s) : u.cores = s.cores := by
  have h1 : (aside u).cores = (aside s).cores := by rw [h]
  exact h1

theorem halves_of_aside {u : State} (h : aside u = aside s) : u.halves = s.halves := by
  have h1 : (aside u).halves = (aside s).halves := by rw [h]
  exact h1

theorem coreOf_of_cores {u : State} (h : u.cores = s.cores) (l : Nat) : coreOf u l = coreOf s l := by rw [coreOf, h, coreOf]

theorem strOf_of_cores {u : State} (h : u.cores = s.cores) (l : Nat) (t : StreamId) : strOf u l t = strOf s l t := by
  rw [strOf, coreOf_of_cores h, strOf]

/-- What a halt leaves of a stream: everything but its state, its wait, and the cause and code of the halt. -/
def Stream.program (z : Stream) : Stream := { z with st := .idle, cause := .none, code := 0, wait := none }

/-- A view of one stream that halts do not change. -/
def programOf (l : Nat) (t : StreamId) (s : State) : Stream := (strOf s l t).program

@[simp] theorem program_halting (z : Stream) (c : HaltCause) (k : Nat) : (z.halting c k).program = z.program := by
  unfold Stream.halting
  split_ifs <;> rfl

theorem programOf_of_cores {u : State} (h : u.cores = s.cores) (l : Nat) (t : StreamId) : programOf l t u = programOf l t s := by
  rw [programOf, strOf_of_cores h, programOf]

/-- An update of one stream keeps every program, where it keeps its own. -/
theorem programOf_modStr {m : Nat} {u : StreamId} {f : Stream → Stream} (hf : (f (strOf s m u)).program = (strOf s m u).program)
    (t : StreamId) : programOf l t (modStr s m u f) = programOf l t s := by
  by_cases hl : l = m
  · subst hl
    by_cases ht : t = u
    · subst ht
      rw [programOf, strOf_modStr_self, hf, programOf]
    · rw [programOf, modStr, strOf_setStr_sibling _ _ _ _ _ ht, programOf]
  · rw [programOf, modStr, strOf_setStr_other _ _ _ _ _ _ hl, programOf]

/-- An update of a core that rewrites no stream keeps every program. -/
theorem programOf_modCore {m : Nat} {f : CoreSt → CoreSt} (hf : ∀ u, (f (coreOf s m)).str u = (coreOf s m).str u) (t : StreamId) :
    programOf l t (modCore s m f) = programOf l t s := by
  by_cases hl : l = m
  · subst hl
    rw [programOf, strOf_modCore_of_keeps hf, programOf]
  · rw [programOf, strOf, coreOf_modCore_other _ _ _ _ hl, programOf, strOf]

@[simp] theorem programOf_haltStream (s : State) (m : Nat) (u t : StreamId) (c : HaltCause) (k : Nat) :
    programOf l t (haltStream s m u c k) = programOf l t s := by
  by_cases hl : l = m
  · subst hl
    by_cases ht : t = u
    · subst ht
      rw [programOf, strOf_haltStream_self, program_halting, programOf]
    · rw [programOf, strOf_haltStream_sibling _ _ _ _ _ _ ht, programOf]
  · rw [programOf, strOf, coreOf_haltStream_other _ _ _ _ _ _ hl, programOf, strOf]

@[simp] theorem programOf_raiseEvent (s : State) (n : Nat) (t : StreamId) : programOf l t (raiseEvent s n) = programOf l t s :=
  programOf_of_cores (raiseEvent_cores s n) l t

@[simp] theorem programOf_coreFault (s : State) (m : Nat) (u t : StreamId) (k : Nat) (a : Word) :
    programOf l t (coreFault s m u k a) = programOf l t s := by
  have hhalts : programOf l t ((allStreams.filter (· ≠ u)).foldl (fun s v => haltStream s m v .sibling 0)
      (haltStream s m u .fault k)) = programOf l t s :=
    (foldl_keeps (programOf l t) (fun _ _ => programOf_haltStream ..) _ _).trans (programOf_haltStream ..)
  simp only [coreFault, programOf_raiseEvent]
  split_ifs
  · rw [programOf_modCore (fun v => by cases v <;> rfl), programOf_of_cores (wr_cores ..), hhalts]
  · exact hhalts

@[simp] theorem programOf_tiedFault (s : State) (m : Nat) (u t : StreamId) (k : Nat) (a : Word) :
    programOf l t (tiedFault s m u k a) = programOf l t s := by
  have hfault : programOf l t (modStr s m u (fun z => { z with cause := .fault, code := k })) = programOf l t s :=
    programOf_modStr rfl t
  simp only [tiedFault, programOf_raiseEvent]
  generalize (match (coreOf s m).faultBy with | some v => decide (strNum u < strNum v) | none => false) = first
  split_ifs
  · rw [programOf_modCore (fun v => by cases v <;> rfl), programOf_of_cores (wr_cores ..), hfault]
  · exact hfault

@[simp] theorem programOf_lateFault (s : State) (m : Nat) (u t : StreamId) (k : Nat) (a : Word) :
    programOf l t (lateFault s m u k a) = programOf l t s := by
  simp only [lateFault]
  split_ifs
  · rw [programOf_tiedFault]; rfl
  · rw [programOf_coreFault]; rfl
  · rw [programOf_coreFault]

@[simp] theorem programOf_scrUncorrectable (s : State) (m : Nat) (u t : StreamId) (o : Nat) :
    programOf l t (scrUncorrectable s m u o) = programOf l t s := by
  simp only [scrUncorrectable]
  rw [programOf_of_cores (cores_of_aside (requestRetire_aside ..)), programOf_lateFault,
    programOf_modCore (fun v => by cases v <;> rfl), programOf_of_cores (wr_cores ..)]

@[simp] theorem programOf_scrWrite (s : State) (m o : Nat) (d : List Byte) (t : StreamId) :
    programOf l t (scrWrite s m o d) = programOf l t s := by
  simp only [scrWrite]
  split_ifs
  · rfl
  · rw [programOf_modCore (fun v => by cases v <;> rfl)]; rfl

@[simp] theorem programOf_scrMerge (s : State) (m o : Nat) (d : List Byte) (e : Ecc) (t : StreamId) :
    programOf l t (scrMerge s m o d e) = programOf l t s := by
  have hwrite (n : Nat) : programOf l t (scrWrite (scrCorrected s m n) m o d) = programOf l t s := by
    rw [programOf_scrWrite, programOf_of_cores (cores_of_aside (scrCorrected_aside ..))]
  simp only [scrMerge]
  split_ifs
  · exact hwrite _
  · rw [programOf_modCore (fun v => by cases v <;> rfl), hwrite]

/-- A write of an agent outside the cores may halt the core whose scratchpad it meets; every program stays. -/
@[simp] theorem programOf_sysWriteSector (s : State) (a : Nat) (d : List Byte) (t : StreamId) :
    programOf l t (sysWriteSector s a d).2 = programOf l t s := by
  unfold sysWriteSector
  split
  · split
    · exact programOf_of_cores (cores_of_aside (storedWrite_aside ..)) l t
    · rfl
  · split
    · exact programOf_scrUncorrectable ..
    · exact programOf_scrMerge ..
  · exact programOf_of_cores (cores_of_aside (storedWrite_aside ..)) l t
  · exact programOf_of_cores (cores_of_aside (vWriteSector_aside ..)) l t
  · rfl

theorem vReduce_aside {op epoch a : Nat} {d : List Byte} {u : State} (h : vReduce s op epoch a d = some u) : aside u = aside s := by
  have hpush {v : State} : (match findLine s (lineOf a) with
      | some w => (match w.red with
        | some r => if r.op = op ∧ r.epoch = epoch then some s else pushThrough s (lineOf a)
        | none => some s)
      | none => some s) = some v → aside v = aside s := by
    intro hv
    split at hv
    · split at hv
      · split at hv
        · cases hv; rfl
        · exact pushThrough_aside _ _ _ hv
      · cases hv; rfl
    · cases hv; rfl
  unfold vReduce at h
  dsimp only at h
  split at h
  · cases h
  · next s2 hs2 =>
    obtain ⟨s1, h1, h2⟩ := Option.bind_eq_some_iff.1 hs2
    have h2 : aside s2 = aside s := (allocLine_aside _ _ _ h2).trans (hpush h1)
    split at h
    · cases h; exact h2
    · next v _ =>
      cases h
      split <;> simp [h2]

@[simp] theorem reduceNow_aside (s : State) (op epoch a : Nat) (d : List Byte) : aside (reduceNow s op epoch a d) = aside s := by
  unfold reduceNow
  dsimp only
  split
  · next h => rw [vReduce_aside h, soundLine_aside]
  · split
    · next h => rw [vReduce_aside h, keeperRoom_aside, soundLine_aside]
    · rw [foldl_keeps aside, keeperRoom_aside, soundLine_aside]
      intro u p
      split_ifs <;> simp

@[simp] theorem cchInvalidate_cores (s : State) (c sec : Nat) : (cchInvalidate s c sec).cores = s.cores := by
  unfold cchInvalidate
  exact foldl_keeps State.cores (fun _ _ => setHalf_cores ..) _ _

end Sys2Proof.Machine
end

section
/-! PROOFS. Layer sections (R154 to R158, R211 to R214). -/

namespace Sys2Proof.Machine
open Sys2Proof.Laws

variable {s : State} {l : Nat}

@[simp] theorem dropProv_cores (s : State) (l : Nat) (t : StreamId) : (dropProv s l t).cores = s.cores := by
  unfold dropProv
  exact foldl_keeps State.cores (fun _ _ => setSlice_cores ..) _ _

@[simp] theorem dropProv_mem (s : State) (l : Nat) (t : StreamId) : (dropProv s l t).mem = s.mem := by
  unfold dropProv
  exact foldl_keeps State.mem (fun _ _ => setSlice_mem ..) _ _

/-- A commit writes memory, and halts at most the core whose scratchpad it meets: every program stays. -/
theorem programOf_commitSector (s : State) (p : Prov) (t : StreamId) : programOf l t (commitSector s p) = programOf l t s := by
  unfold commitSector
  dsimp only [takeFree]
  rw [programOf_of_cores (cchInvalidate_cores ..),
    foldl_keeps (programOf l t) (fun _ _ => programOf_of_cores (cores_of_aside (reduceNow_aside ..)) l t),
    foldl_keeps (programOf l t) (fun _ _ => programOf_sysWriteSector ..)]
  rfl

theorem programOf_commitProv (s : State) (m : Nat) (u : StreamId) (pass : Nat) (t : StreamId) :
    programOf l t (commitProv s m u pass) = programOf l t s := by
  unfold commitProv
  rw [foldl_keeps (programOf l t) (fun s p => programOf_commitSector s p t), programOf_of_cores (dropProv_cores ..)]

/-- A section that has closed: it is gone, and the stream's registers, predicates, draw counter and pc stay. -/
theorem closeSection_leaves (s : State) (l : Nat) (t : StreamId) (z : Section) :
    (strOf (closeSection s l t z) l t).program = { programOf l t s with sect := none } := by
  have h := programOf_commitProv (l := l) s l t z.retries t
  rw [closeSection, strOf_modStr_self, ← h]
  rfl

theorem sectionLog_cores (s : State) (l : Nat) (t : StreamId) (z : Section) (ty next retries : Nat) :
    (sectionLog s l t z ty next retries).cores = s.cores := by
  unfold sectionLog
  exact cores_of_aside (logAppend_aside ..)

/-- The section that LAYER.BEGIN opens in a stream (R154). -/
def opened (x : Insn) (s : State) (st : Stream) : Section :=
  { sid := bitsN x.b 15 0, rung := bitsN x.b 17 16, beginPc := st.pc, since := s.nextId, cpRegs := st.regs
    cpPreds := st.preds, cpDraw := st.draw }

/-- The section of a retry (R156). -/
def retried (z : Section) : Section := { z with rung := z.rung + 1, retries := z.retries + 1, cause := 0, pos := 0, inits := [] }

theorem strOf_retrySection (s : State) (l : Nat) (t : StreamId) (z : Section) : strOf (retrySection s l t z) l t
    = { strOf s l t with regs := z.cpRegs, preds := z.cpPreds, draw := z.cpDraw, sect := some (retried z) } := by
  unfold retrySection
  rw [strOf_modStr_self, strOf_of_cores (dropProv_cores ..), strOf_of_cores (countSat_cores ..), strOf_of_cores (sectionLog_cores ..)]
  rfl

/-- What LAYER.END says of a stream once its section has closed. -/
theorem closed_fields {z y : Stream} {pc : Nat} (h : y.program = { z.program with sect := none }) :
    ({ y with pc := pc } : Stream).sect = none ∧ ({ y with pc := pc } : Stream).regs = z.regs
      ∧ ({ y with pc := pc } : Stream).preds = z.preds ∧ ({ y with pc := pc } : Stream).draw = z.draw := by
  simp only [Stream.program, Stream.mk.injEq] at h
  obtain ⟨-, hr, hp, hd, -, -, -, -, -, hs, -⟩ := h
  exact ⟨hs, hr, hp, hd⟩

theorem layerBeginBody_opens {x : Insn} (hs : (strm s x).sect = none) : layerBeginBody x s (strm s x)
    = .go (modStr s x.core x.stream fun st => { st with sect := some (opened x s st) }) :=
  if_neg (by simp [hs])

/-- Settles O11: LAYER.BEGIN writes the section into its stream; LAYER.END closes it or runs it again; where no section, or one too
many, is open the body faults. -/
theorem layerSections : Obligations.LayerSections := by
  unfold Obligations.LayerSections
  refine ⟨?opens, ?ends, ?faults⟩
  case opens =>
    intro x s h hb hp hn hs
    obtain ⟨t, e, hstr, ho⟩ := leavesStream_modStr (i := .layerBegin x) (f := fun st => { st with sect := some (opened x s st) })
      (exec_issue_go h (by simpa [unpredicated, hp, hn] using hb) (layerBeginBody_opens hs))
    exact ⟨t, _, e, rfl, rfl, rfl, rfl, rfl, rfl, rfl, rfl, rfl, hstr, ho⟩
  case ends =>
    intro x s z h hb hp hn hs hbusy
    have legal : (x.b == 0 && unpredicated x) = true := by simp [hb, unpredicated, hp, hn]
    have hbody {d : Done} (hd : (if z.cause = 0 then Done.go (closeSection s x.core x.stream z)
        else if z.rung ≥ 3 then .go (closeSection (countSat (sectionLog s x.core x.stream z 2 3 z.retries) TEL_LADDER_COUNT
          TEL_LADDER_COUNT_forced) x.core x.stream z)
        else .jump (retrySection s x.core x.stream z) (pcAfter z.beginPc)) = d) : layerEndBody x s (strm s x) = d := by
      rw [layerEndBody, hs]
      exact (if_neg (by simp [hbusy])).trans hd
    have closes {u : State} (hu : u.cores = s.cores) (hg : layerEndBody x s (strm s x) = .go (closeSection u x.core x.stream z)) :
        ∃ t, exec (.layerEnd x) s = .next t ∧ (strm t x).sect = none ∧ (strm t x).regs = (strm s x).regs
          ∧ (strm t x).preds = (strm s x).preds ∧ (strm t x).draw = (strm s x).draw ∧ (strm t x).pc = pcAfter (strm s x).pc := by
      have hl := closeSection_leaves u x.core x.stream z
      rw [programOf_of_cores hu] at hl
      obtain ⟨h1, h2, h3, h4⟩ := closed_fields (pc := pcAfter (strm s x).pc) hl
      refine ⟨_, exec_issue_go h legal hg, ?_⟩
      rw [strm, strOf_issued_self]
      exact ⟨h1, h2, h3, h4, rfl⟩
    refine ⟨fun hc => ?_, fun hc hr => ⟨_, retried z, exec_issue_jump h legal (hbody ((if_neg hc).trans (if_neg (by omega)))), ?_⟩⟩
    · by_cases h0 : z.cause = 0
      · exact closes rfl (hbody (if_pos h0))
      · exact closes ((countSat_cores ..).trans (sectionLog_cores s x.core x.stream z 2 3 z.retries)) (hbody ((if_neg h0).trans (if_pos (hc.resolve_left h0))))
    · rw [strm, strOf_issued_self, strOf_retrySection]
      exact ⟨rfl, rfl, rfl, rfl, rfl, rfl, rfl, rfl, rfl, rfl, rfl, rfl, rfl, rfl⟩
  case faults =>
    intro x s h hp hn
    have hu : unpredicated x = true := by simp [unpredicated, hp, hn]
    refine ⟨fun hs hb => ?_, fun hs hb => ?_, fun hs hb => ?_⟩
    · have he : issueInsn s x none (x.b == 0 && unpredicated x) (waitMsBody x) = _ :=
        issueInsn_fault h (by simp [hb, hu]) (if_pos hs)
      exact ⟨_, (onCore_lt _ _ (issues_core s h)).trans (by rw [he]), strOf_coreFault_self ..⟩
    · exact ⟨_, exec_issue_fault h (by simpa [hu] using hb) (if_pos hs), strOf_coreFault_self ..⟩
    · exact ⟨_, exec_issue_fault h (by simp [hb, hu]) (by rw [layerEndBody, hs]), strOf_coreFault_self ..⟩

end Sys2Proof.Machine
end

section
/-! PROOFS. Start and halt requests, and a halting stream that halts (R100, R111 to R113, R162). -/

namespace Sys2Proof.Machine

variable {s : State} {l : Nat}

theorem mem_streamsOf {m : BitVec 3} {u : StreamId} : u ∈ streamsOf m.toNat ↔ m.getLsbD (strNum u) = true := by
  revert m
  cases u <;> decide

/-- A stream that a start request names. -/
def startAsked (z : Stream) : Stream := if z.atRest = true then { z with start := true, owner := none, work := .none } else z

theorem startAsked_idem (z : Stream) : startAsked (startAsked z) = startAsked z := by
  unfold startAsked
  split_ifs <;> rfl

theorem OnlyCore.foldl {α : Type} {f : State → α → State} (h : ∀ s x, OnlyCore s (f s x) l) (xs : List α) (s : State) :
    OnlyCore s (xs.foldl f s) l := by
  induction xs generalizing s with
  | nil => exact .refl s l
  | cons x xs ih => exact (h s x).trans (ih _)

/-- A fold of updates, one stream each, of which a second on the same stream does nothing. -/
theorem strOf_foldl_of_self {f : State → StreamId → State} {g : Stream → Stream} (hg : ∀ z, g (g z) = g z)
    (hf : ∀ s u v, strOf (f s u) l v = if v = u then g (strOf s l v) else strOf s l v) (us : List StreamId) (s : State)
    (v : StreamId) : strOf (us.foldl f s) l v = if v ∈ us then g (strOf s l v) else strOf s l v := by
  induction us generalizing s with
  | nil => simp
  | cons u us ih =>
    rw [List.foldl_cons, ih, hf]
    by_cases h : v = u <;> by_cases hm : v ∈ us <;> simp [h, hm, hg]

theorem strOf_requestStart (s : State) (u v : StreamId) :
    strOf (requestStart s l u none .none) l v = if v = u then startAsked (strOf s l v) else strOf s l v := by
  rw [requestStart]
  split_ifs with h
  · rw [h, strOf_modStr_self, startAsked]
  · rw [modStr, strOf_setStr_sibling _ _ _ _ _ h]

theorem strOf_requestHalt (s : State) (u v : StreamId) :
    strOf (requestHalt s l u) l v = if v = u then (strOf s l v).halting .external 0 else strOf s l v := by
  rw [requestHalt]
  split_ifs with h
  · rw [h, strOf_haltStream_self]
  · rw [strOf_haltStream_sibling _ _ _ _ _ _ h]

/-- The starts of a write of CORE_CTRL. -/
def startsOf (s : State) (l : Nat) (m : BitVec 3) : State := (streamsOf m.toNat).foldl (fun s u => requestStart s l u none .none) s

theorem ctrlRequests_starts (s : State) (l : Nat) (m : BitVec 3) : ctrlRequests s l m.toNat 0 = startsOf s l m := by
  have h0 : streamsOf 0 = [] := by decide
  simp [ctrlRequests, h0, haltAll, startsOf]

/-- The halts of a write of CORE_CTRL, before the check for deadlock. -/
def haltsOf (s : State) (l : Nat) (m : BitVec 3) : State := (streamsOf m.toNat).foldl (fun s u => requestHalt s l u) s

theorem dedup_map_const (us : List StreamId) (l : Nat) : ((us.map fun u => (l, u)).map (·.1)).dedup = if us = [] then [] else [l] := by
  rw [List.map_map, show ((fun x : Nat × StreamId => x.1) ∘ fun u => (l, u)) = fun _ => l from rfl, List.map_const']
  cases us with
  | nil => rfl
  | cons u us => rw [if_neg (List.cons_ne_nil _ _), List.length_cons, List.replicate_dedup (Nat.succ_ne_zero _)]

theorem streamsOf_eq_nil {m : BitVec 3} : streamsOf m.toNat = [] ↔ m = 0 := by revert m; decide

theorem ctrlRequests_halts (s : State) (l : Nat) (m : BitVec 3) :
    ctrlRequests s l 0 m.toNat = if m = 0 then haltsOf s l m else deadlockCheck (haltsOf s l m) l := by
  have h0 : streamsOf 0 = [] := by decide
  simp only [ctrlRequests, h0, List.filter_nil, List.foldl_nil, haltAll, dedup_map_const, streamsOf_eq_nil, List.foldl_map]
  split_ifs <;> rfl

/-- The descriptors of a stream that have not moved everything are dead. -/
def AbandonedBy (u : StreamId) (c : CoreSt) : Prop := ∀ d ∈ c.descs, d.stream = u → d.row < d.rows → d.dead = true

theorem abandonedBy_abandon (c : CoreSt) (u : StreamId) : AbandonedBy u (c.abandon u) := by
  intro d hd hs hr
  obtain ⟨e, -, rfl⟩ := List.mem_map.1 hd
  split_ifs at hs hr ⊢ with h
  · rfl
  · exact absurd ⟨hs, hr⟩ h

/-- Abandoning another stream's descriptors leaves the dead ones dead. -/
theorem AbandonedBy.abandon {c : CoreSt} {u : StreamId} (h : AbandonedBy u c) (v : StreamId) : AbandonedBy u (c.abandon v) := by
  intro d hd hs hr
  obtain ⟨e, he, rfl⟩ := List.mem_map.1 hd
  split_ifs at hs hr ⊢ with hv
  · rfl
  · exact h e he hs hr

theorem abandonedBy_of_descs {c k : CoreSt} {u : StreamId} (h : c.descs = k.descs) : AbandonedBy u c ↔ AbandonedBy u k := by
  rw [AbandonedBy, h, AbandonedBy]

theorem coreOf_haltStream_live {u : StreamId} (c : HaltCause) (k : Nat) (h : (strOf s l u).live = true) :
    coreOf (haltStream s l u c k) l = ((coreOf s l).setStr u ((strOf s l u).halting c k)).abandon u := by
  simp only [haltStream, show ((coreOf s l).str u).live = true from h, if_true, coreOf_setCore_self]
  rfl

theorem haltStream_not_live {u : StreamId} (c : HaltCause) (k : Nat) (h : (strOf s l u).live = false) :
    haltStream s l u c k = s := by
  simp [haltStream, show ((coreOf s l).str u).live = false from h]

theorem live_halting (z : Stream) (c : HaltCause) (k : Nat) : (z.halting c k).live = false := by
  by_cases h : z.live = true
  · rw [Stream.halting, if_pos h]; rfl
  · rw [Stream.halting, if_neg h]; simpa using h

theorem abandonedBy_haltStream {u v : StreamId} (c : HaltCause) (k : Nat) (h : AbandonedBy u (coreOf s l)) :
    AbandonedBy u (coreOf (haltStream s l v c k) l) := by
  by_cases hl : (strOf s l v).live = true
  · rw [coreOf_haltStream_live c k hl]
    exact ((abandonedBy_of_descs (coreSetStr_descs ..)).2 h).abandon v
  · rw [haltStream_not_live c k (by simpa using hl)]
    exact h

/-- A live stream among those asked to halt leaves no descriptor that goes on. -/
theorem abandonedBy_requestHalts {u : StreamId} (us : List StreamId) (s : State)
    (h : AbandonedBy u (coreOf s l) ∨ u ∈ us ∧ (strOf s l u).live = true) :
    AbandonedBy u (coreOf (us.foldl (fun s u => requestHalt s l u) s) l) := by
  induction us generalizing s with
  | nil => exact h.resolve_right fun hu => by cases hu.1
  | cons v us ih =>
    refine ih _ ?_
    obtain h | ⟨hm, hl⟩ := h
    · exact .inl (abandonedBy_haltStream _ _ h)
    · by_cases hv : u = v
      · subst hv
        refine .inl ?_
        change AbandonedBy u (coreOf (haltStream s l u .external 0) l)
        rw [coreOf_haltStream_live _ _ hl]
        exact abandonedBy_abandon _ _
      · rw [strOf_requestHalt, if_neg hv]
        exact .inr ⟨(List.mem_cons.1 hm).resolve_left hv, hl⟩

/-! ### A halting stream halts -/

theorem sliceOf_setSlice (s : State) (i k : Nat) (x : Slice) : sliceOf (setSlice s i x) k = if k = i then x else sliceOf s k :=
  smGet_smPut ..

theorem smGet_of_not_mem {α : Type} {d : α} {m : SMap α} {k : Nat} (h : k ∉ m.map (·.1)) : smGet d m k = d := by
  induction m with
  | nil => rfl
  | cons p r ih =>
    obtain ⟨a, v⟩ := p
    rw [List.map_cons, List.mem_cons, not_or] at h
    rw [smGet, if_neg (Ne.symm h.1), ih h.2]

/-- No provisional sector of a slice is the stream's. -/
def NoProv (l : Nat) (u : StreamId) (z : Slice) : Prop := ∀ p ∈ z.prov, ¬ (p.core = l ∧ p.stream = u)

theorem noProv_foldl {u : StreamId} (xs : SMap Slice) (s : State) (k : Nat)
    (h : NoProv l u (sliceOf s k) ∨ k ∈ xs.map (·.1)) :
    NoProv l u (sliceOf (xs.foldl (fun s x => setSlice s x.1
      { sliceOf s x.1 with prov := (sliceOf s x.1).prov.filter (fun p => !(p.core == l && p.stream == u)) }) s) k) := by
  induction xs generalizing s with
  | nil => exact h.resolve_right fun hk => by cases hk
  | cons x xs ih =>
    refine ih _ ?_
    rw [sliceOf_setSlice]
    split_ifs with hk
    · refine .inl fun p hp => ?_
      have hkept := (List.mem_filter.1 hp).2
      simpa [Decidable.imp_iff_not_or] using hkept
    · rw [List.map_cons, List.mem_cons] at h
      exact h.imp_right fun hm => hm.resolve_left hk

theorem noProv_dropProv (s : State) (l : Nat) (u : StreamId) (k : Nat) : NoProv l u (sliceOf (dropProv s l u) k) := by
  refine noProv_foldl _ _ _ ?_
  by_cases hk : k ∈ s.slices.map (·.1)
  · exact .inr hk
  · refine .inl fun p hp => ?_
    rw [sliceOf, smGet_of_not_mem hk] at hp
    cases hp

/-- The core of a stream that has halted: its descriptors and its section are gone. -/
def withHalted (c : CoreSt) (u : StreamId) : CoreSt :=
  ({ c with descs := c.descs.filter (fun d => d.stream ≠ u) } : CoreSt).setStr u { c.str u with st := .halted, sect := none }

theorem withHalted_str (c : CoreSt) (u v : StreamId) :
    (withHalted c u).str v = if v = u then { c.str u with st := .halted, sect := none } else c.str v := by
  cases u <;> cases v <;> rfl

/-- The state once a halting stream has halted, before the halt is reported. -/
def haltedOf (s : State) (l : Nat) (u : StreamId) : State := dropProv (setCore s l (withHalted (coreOf s l) u)) l u

theorem streamHalted_of_quiet {u : StreamId} (hst : (strOf s l u).st = .halting)
    (ho : ∀ o ∈ (coreOf s l).ops, o.stream ≠ u ∧ u ∉ o.also) (hm : ∀ q ∈ (coreOf s l).maints, q.stream ≠ u)
    (hr : ∀ r ∈ s.reqs, r.core = l → r.stream = u → r.kind ≠ .move) :
    streamHalted s l u = deadlockCheck (reportHalt (haltedOf s l u) l u) l := by
  have h1 : (coreOf s l).ops.any (fun o => o.stream == u || o.also.contains u) = false := by
    rw [List.any_eq_false]
    exact fun o h => by simpa using ho o h
  have h2 : (coreOf s l).maints.any (fun m => m.stream == u) = false := by
    rw [List.any_eq_false]
    exact fun o h => by simpa using hm o h
  have h3 : s.reqs.any (fun r => r.core == l && r.stream == u && r.kind == .move) = false := by
    rw [List.any_eq_false]
    exact fun r h => by simpa using hr r h
  have hst' : ((coreOf s l).str u).st = .halting := hst
  simp only [streamHalted, hst', h1, h2, h3]
  rfl

theorem strOf_haltedOf (s : State) (l : Nat) (u v : StreamId) :
    strOf (haltedOf s l u) l v = if v = u then { strOf s l u with st := .halted, sect := none } else strOf s l v := by
  rw [haltedOf, strOf_of_cores (dropProv_cores ..), strOf, coreOf_setCore_self, withHalted_str]
  rfl

theorem clocked_on (t : State) (h : clockStopped s l = false) : clocked s l t = t := by simp [clocked, h]

theorem clocked_off (t : State) (h : clockStopped s l = true) : clocked s l t = s := by simp [clocked, h]

/-- Settles O12. -/
theorem streamRequestsAndHalts : Obligations.StreamRequestsAndHalts := by
  unfold Obligations.StreamRequestsAndHalts
  refine ⟨fun l m s hl hp => ⟨⟨startsOf s l m, ?_, ?_, ?_⟩, haltsOf s l m, ?_, ?_, ?_, ?_⟩, ?_, ?_⟩
  · exact (onCore_lt _ _ hl).trans (by rw [powered_on _ _ hp, ctrlRequests_starts])
  · exact .foldl (fun s u => (onlyStream_modStr s l u _).1) _ _
  · intro u
    rw [startsOf, strOf_foldl_of_self startAsked_idem strOf_requestStart]
    simp only [mem_streamsOf, startAsked]
    by_cases h : m.getLsbD (strNum u) = true <;> simp [h]
  · exact (onCore_lt _ _ hl).trans (by rw [powered_on _ _ hp, ctrlRequests_halts])
  · exact .foldl (fun s u => onlyCore_haltStream u _ _) _ _
  · intro u
    rw [haltsOf, strOf_foldl_of_self (g := fun z => z.halting .external 0) (fun z => halting_idem z _ _) strOf_requestHalt]
    simp only [mem_streamsOf]
  · exact fun u hu hlive => abandonedBy_requestHalts _ _ (.inr ⟨mem_streamsOf.2 hu, hlive⟩)
  · exact fun l u s hl hc => (onCore_lt _ _ hl).trans (by rw [clocked_off _ hc])
  · intro l u s hl hc hst ho hm hr
    refine ⟨haltedOf s l u, ?_, ?_, ?_, noProv_dropProv _ l u, ⟨fun m hm => ?_, fun v hv => ?_⟩, ?_⟩
    · exact (onCore_lt _ _ hl).trans (by rw [clocked_on _ hc, streamHalted_of_quiet hst ho hm hr])
    · rw [strOf_haltedOf, if_pos rfl]
    · rw [haltedOf, coreOf_of_cores (dropProv_cores ..), coreOf_setCore_self, withHalted, coreSetStr_descs]
      exact fun d hd => by simpa using (List.mem_filter.1 hd).2
    · rw [haltedOf, coreOf_of_cores (dropProv_cores ..), coreOf_setCore, if_neg hm]
    · rw [strOf_haltedOf, if_neg hv]
    · rw [haltedOf, dropProv_mem]; rfl

end Sys2Proof.Machine
end

section
/-! PROOFS. The debug window, the issue order from outside, and the read-only caches (R89, R98 to R100, R118 to R123). -/

namespace Sys2Proof.Machine
open Sys2Proof.Laws

variable {s : State} {l : Nat}

/-! ### The debug window (R119, R120) -/

/-- A stream after a write of the debug window's index `i`. -/
def dbgWritten (i : Nat) (d : Word) (z : Stream) : Stream :=
  if !z.atRest then z else if i < 48 then z.setReg i d else if i = 48 then { z with preds := d.setWidth 8 ||| 1 } else z

theorem dbgWrite_eq (s : State) (l : Nat) (d : Word) : dbgWrite s l d =
    if rdf s (CORE_DBG_SEL l) CORE_DBG_SEL_stream = 3 then s
    else modStr s l (strOfNum (rdf s (CORE_DBG_SEL l) CORE_DBG_SEL_stream)) (dbgWritten (rdf s (CORE_DBG_SEL l) CORE_DBG_SEL_index) d) :=
  rfl

theorem strOfNum_strNum (u : StreamId) : strOfNum (strNum u) = u := by cases u <;> rfl

theorem strNum_strOfNum {n : Nat} (h : n < 3) : strNum (strOfNum n) = n := by
  revert n
  decide

theorem strNum_ne_three (u : StreamId) : strNum u ≠ 3 := by cases u <;> decide

theorem strOf_dbgWrite_named {u : StreamId} (d : Word) (h : strNum u = rdf s (CORE_DBG_SEL l) CORE_DBG_SEL_stream) :
    strOf (dbgWrite s l d) l u = dbgWritten (rdf s (CORE_DBG_SEL l) CORE_DBG_SEL_index) d (strOf s l u) := by
  rw [dbgWrite_eq, ← h, if_neg (strNum_ne_three u), strOfNum_strNum, strOf_modStr_self]

theorem strOf_dbgWrite_other {u : StreamId} (d : Word) (h : strNum u ≠ rdf s (CORE_DBG_SEL l) CORE_DBG_SEL_stream) :
    strOf (dbgWrite s l d) l u = strOf s l u := by
  rw [dbgWrite_eq]
  split_ifs with h3
  · rfl
  · have hn : rdf s (CORE_DBG_SEL l) CORE_DBG_SEL_stream < 4 := getf_lt (rd s (CORE_DBG_SEL l)) CORE_DBG_SEL_stream
    rw [modStr, strOf_setStr_sibling]
    rintro rfl
    exact h (strNum_strOfNum (by omega))

theorem onlyCore_dbgWrite (s : State) (l : Nat) (d : Word) : OnlyCore s (dbgWrite s l d) l := by
  rw [dbgWrite_eq]
  split_ifs
  · exact .refl s l
  · exact (onlyStream_modStr ..).1

theorem dbgWritten_live {i : Nat} {d : Word} {z : Stream} (h : z.atRest = false) : dbgWritten i d z = z := by
  simp [dbgWritten, h]

theorem dbgWritten_reg {i : Nat} {d : Word} {z : Stream} (h : z.atRest = true) (hi : i < 48) : dbgWritten i d z = z.setReg i d := by
  simp [dbgWritten, h, hi]

theorem dbgWritten_preds {d : Word} {z : Stream} (h : z.atRest = true) :
    dbgWritten 48 d z = { z with preds := d.setWidth 8 ||| 1 } := by
  simp [dbgWritten, h]

theorem dbgWritten_beyond {i : Nat} {d : Word} {z : Stream} (hi : 48 < i) : dbgWritten i d z = z := by
  unfold dbgWritten
  split_ifs <;> first | rfl | omega

/-! ### Invalidation (R99) -/

/-- A request once the read-only caches of its core are empty: a fill brings its sector to the cluster cache alone. -/
def unfilled (l : Nat) (ks : List RoKind) (r : Req) : Bool := match r.kind with
  | .fill k => r.core == l && ks.contains k
  | _ => false

theorem unfilled_all {r : Req} : unfilled l [.instr, .const, .desc] r = true ↔ r.core = l ∧ ∃ k, r.kind = .fill k := by
  unfold unfilled
  split
  · next k hk => cases k <;> simp [hk]
  · next h => simpa using fun _ => h

theorem roInvalidateAll_reqs (s : State) (l : Nat) : (roInvalidateAll s l).reqs
    = (s.reqs.filter (fun r => !(unfilled l [.instr, .const, .desc] r && r.phase == .fin))).map (fun r =>
      if unfilled l [.instr, .const, .desc] r then { r with kind := .prefetch } else r) := rfl

theorem coreOf_roInvalidateAll (s : State) (l : Nat) :
    coreOf (roInvalidateAll s l) l = { coreOf s l with ro := [], fills := [], roFailed := [] } := by
  have hall (k : RoKind) : [RoKind.instr, .const, .desc].contains k = true := by cases k <;> rfl
  rw [roInvalidateAll, roInvalidateKinds, coreOf_modCore_self]
  simp only [hall, Bool.not_true, List.filter_false]
  rfl

theorem onlyCore_roInvalidateAll (s : State) (l : Nat) :
    OnlyCore { s with reqs := (roInvalidateAll s l).reqs } (roInvalidateAll s l) l :=
  ⟨rfl, fun _ hm => coreOf_modCore_other _ _ _ _ hm⟩

/-! ### Fills (R98, R143, R259) -/

/-- A line has entered a read-only cache, and neither a stream nor memory has changed. -/
def RoHolds (s t : State) (l : Nat) (k : RoKind) (line : Nat) (d : List Byte) : Prop :=
  (coreOf t l).ro.head? = some ⟨k, line, d⟩ ∧ (k, line) ∉ (coreOf t l).fills ∧ (∀ u, strOf t l u = strOf s l u) ∧ t.mem = s.mem

theorem roHolds_roInstall {t : State} (h : t.cores = s.cores) (hm : t.mem = s.mem) (k : RoKind) (line : Nat) (d : List Byte) :
    RoHolds s (roInstall t l k line d) l k line d := by
  refine ⟨?_, ?_, fun u => ?_, hm⟩
  · rw [roInstall, coreOf_modCore_self]; rfl
  · rw [roInstall, coreOf_modCore_self]
    simp
  · rw [roInstall, strOf_modCore_of_keeps (fun v => by cases v <;> rfl), strOf_of_cores h]

/-- A sector that the core's own half of the cluster cache holds. -/
theorem cchLookup_own {sec : Nat} {y : CchLine}
    (hy : (halfOf s (halfKey (clusterOf l) (halfOfCore s l))).lines.find? (fun z => z.sector == sec) = some y) :
    ∃ h, cchLookup s l sec = some (y, setHalf s (halfKey (clusterOf l) (halfOfCore s l)) h) :=
  ⟨_, by simp only [cchLookup, cchHit, hy]; rfl⟩

/-- The fill that waits for a line of a read-only cache. -/
def fillFor (s : State) (l : Nat) (k : RoKind) (line : Nat) : Option Req :=
  s.reqs.find? (fun r => r.core == l && r.kind == .fill k && r.src == line * 256)

section
variable {k : RoKind} {line : Nat} {b : Bool} (ha : k = .instr ∨ (k, line) ∈ (coreOf s l).fills)
  (hr : roReadable s (line * 256) 256 = true) (hh : (coreOf s l).held = false) (hc : clockStopped s l = false)
include ha hr hh hc

theorem roFill_asked : ¬ ((!(k == .instr || (coreOf s l).fills.contains (k, line))) = true
    ∨ (!roReadable s (line * 256) 256) = true ∨ (coreOf s l).held = true ∨ clockStopped s l = true) := by
  simpa [hr, hh, hc, or_iff_not_imp_left] using ha

/-- A fill whose sector the core's half of the cluster cache holds. -/
theorem roHolds_roFill_hit {y : CchLine} (hn : fillFor s l k line = none)
    (hy : (halfOf s (halfKey (clusterOf l) (halfOfCore s l))).lines.find? (fun z => z.sector == line) = some y) (hb : y.bad = false) :
    RoHolds s (roFill s l k line true) l k line y.data := by
  obtain ⟨h, hlook⟩ := cchLookup_own hy
  simp only [roFill]
  rw [if_neg (roFill_asked ha hr hh hc), show s.reqs.find? _ = none from hn]
  simp only [hlook, hb, Bool.not_false, Bool.and_self, if_true]
  exact roHolds_roInstall rfl rfl k line y.data

/-- A fill whose request has brought its data. -/
theorem roHolds_roFill_fetched {r : Req} (hn : fillFor s l k line = some r) (hp : r.phase = .fin) (hk : r.code = 0)
    (hb : r.bad = false) : RoHolds s (roFill s l k line true) l k line r.data := by
  simp only [roFill]
  rw [if_neg (roFill_asked ha hr hh hc), show s.reqs.find? _ = some r from hn]
  simp only [hp, hk, hb, ne_eq, not_true_eq_false, if_false, Bool.not_false, Bool.and_self, if_true]
  exact roHolds_roInstall rfl rfl k line r.data

/-- A fill whose request brought no data is noted for the instruction that waits. -/
theorem coreOf_roFill_failed {r : Req} (hn : fillFor s l k line = some r) (hp : r.phase = .fin) (hk : r.code ≠ 0) :
    coreOf (roFill s l k line b) l = { coreOf s l with
      fills := (coreOf s l).fills.filter (fun x => x ≠ (k, line))
      roFailed := if (coreOf s l).roFailed.contains (k, line) then (coreOf s l).roFailed else (coreOf s l).roFailed ++ [(k, line)] } := by
  simp only [roFill]
  rw [if_neg (roFill_asked ha hr hh hc), show s.reqs.find? _ = some r from hn]
  simp only [hp, hk, ne_eq, not_true_eq_false, not_false_eq_true, if_false, if_true]
  exact coreOf_modCore_self ..

end

/-- Settles O13. -/
theorem debugWindowIssueOrderAndReadOnlyCaches : Obligations.DebugWindowIssueOrderAndReadOnlyCaches := by
  unfold Obligations.DebugWindowIssueOrderAndReadOnlyCaches
  refine ⟨?debug, ?issue, ?invalidate, ?fill⟩
  case debug =>
    intro l d s hl hp
    refine ⟨dbgWrite s l d, (onCore_lt _ _ hl).trans (by rw [powered_on _ _ hp]), onlyCore_dbgWrite .., fun h3 => ?_,
      fun u hu => strOf_dbgWrite_other d hu, fun u hu hw => ?_, fun u hu hw hi => ?_, fun u hu hw hi => ?_, fun u hu hi => ?_⟩
    · rw [dbgWrite_eq, if_pos h3]
    · rw [strOf_dbgWrite_named d hu, dbgWritten_live hw]
    · rw [strOf_dbgWrite_named d hu, dbgWritten_reg hw hi]
    · refine ⟨_, by rw [strOf_dbgWrite_named d hu, hi, dbgWritten_preds hw], ?_, fun k h0 h8 => ?_⟩
      · simp
      · simp [h8, Nat.ne_of_gt h0]
    · rw [strOf_dbgWrite_named d hu, dbgWritten_beyond hi]
  case issue =>
    intro l o r s hl hp
    have hr : r.toNat < 4 := r.isLt
    have hr2 : r.toNat = 2 ↔ r = 2 := ⟨fun h => BitVec.eq_of_toNat_eq h, fun h => by rw [h]; rfl⟩
    refine ⟨writeIssue s l o.toNat r.toNat, (onCore_lt _ _ hl).trans (by rw [powered_on _ _ hp]), ?_, fun ho => ?_, fun ho => ?_,
      fun p hp => ?_, strOf_writeIssue s l o.toNat r.toNat, rfl⟩
    · rw [rdf, rd_writeIssue_self, getf_issueWord_rotate, Nat.mod_eq_of_lt hr]
    · rw [rdf, rdf, rd_writeIssue_self]
      exact getf_issueWord_order _ _ ho
    · simpa only [rdf, rd_writeIssue_self, hr2] using getf_issueWord_kept (rd s (CORE_ISSUE l)) r.toNat ho
    · exact rd_writeIssue_other _ _ _ (by simpa using hp)
  case invalidate =>
    intro l s hl hp
    refine ⟨roInvalidateAll s l, (onCore_lt _ _ hl).trans (by rw [powered_on _ _ hp]), onlyCore_roInvalidateAll s l,
      coreOf_roInvalidateAll s l, fun r hr hc k hk => ?_, fun r hr hk => ?_⟩
    · rw [roInvalidateAll_reqs] at hr
      obtain ⟨q, -, rfl⟩ := List.mem_map.1 hr
      split_ifs at hc hk with hq
      exact hq (unfilled_all.2 ⟨hc, k, hk⟩)
    · have hq : unfilled l [.instr, .const, .desc] r = false := by
        rw [Bool.eq_false_iff, ne_eq, unfilled_all]
        rintro ⟨hc, k, hk'⟩
        rcases hk with h | h | h
        · exact h hc
        all_goals rw [h] at hk'; cases hk'
      rw [roInvalidateAll_reqs]
      exact List.mem_map.2 ⟨r, List.mem_filter.2 ⟨hr, by simp [hq]⟩, by simp [hq]⟩
  case fill =>
    intro l k line s hl hp ha hr hh hc
    have runs (b : Bool) : exec (.roCacheFill l k line b) s = .next (roFill s l k line b) :=
      (onCore_lt _ _ hl).trans (by rw [powered_on _ _ hp])
    refine ⟨fun y hn hy hb => ⟨_, runs true, roHolds_roFill_hit ha hr hh hc hn hy hb⟩,
      fun r hn hf hk hb => ⟨_, runs true, roHolds_roFill_fetched ha hr hh hc hn hf hk hb⟩, fun r b hn hf hk => ⟨_, runs b, ?_⟩⟩
    rw [coreOf_roFill_failed ha hr hh hc hn hf hk]
    refine ⟨?_, by simp, rfl⟩
    dsimp only
    split_ifs with hm
    · simpa using hm
    · simp

end Sys2Proof.Machine
end

section
/-! PROOFS. Descriptors (R101, R142 to R146, Tables 04-6 and 04-7). -/

namespace Sys2Proof.Machine

variable {s : State} {l : Nat} {x : Insn}

/-- The offset of an address operand, ra + imm36 in 64 bits. -/
theorem toNat_add_wordOf {a : Word} {imm : Int} {o : Nat} (h : atOffset a imm o) : (a + wordOf imm).toNat = o := by
  obtain ⟨ho, hm⟩ := h
  have hw : ((wordOf imm).toNat : Int) = imm % 2 ^ 64 := by
    have h0 : (0 : Int) ≤ imm % 2 ^ 64 := Int.emod_nonneg _ (by decide)
    have h1 : imm % 2 ^ 64 < 2 ^ 64 := Int.emod_lt_of_pos _ (by decide)
    rw [wordOf, wrapN, BitVec.toNat_ofNat, Nat.mod_eq_of_lt (by omega), Int.toNat_of_nonneg h0]
  have hm' : (o : Int) % 2 ^ 64 = ((a.toNat : Int) + imm) % 2 ^ 64 := hm
  rw [BitVec.toNat_add]
  omega

@[simp] theorem issued_reqs (s s1 : State) (x : Insn) (u : Option Nat) (pc : Nat) : (issued s s1 x u pc).reqs = s1.reqs := by
  rw [issued_all]

/-! ### A side of one row -/

theorem localForm_below {a : Nat} (h : a < 2 ^ 63) : localForm s a = a := by
  have h0 : isGlobal a = false := by rw [isGlobal, Nat.div_eq_of_lt h]; rfl
  simp [localForm, h0]

/-- One row that lies in [lo, hi) makes a side that does. -/
theorem sideIn_one_row {base n lo hi : Nat} (hb : 0 < n → lo ≤ base ∧ base + n ≤ hi) (hh : hi ≤ 2 ^ 63) :
    sideIn s base 0 1 n lo hi = true := by
  have heven : halfSide base 0 1 false = (base, 0, 1) := rfl
  have hodd : halfSide base 0 1 true = (wrapN 64 base, 0, 0) := by simp [halfSide]; rfl
  simp only [sideIn, List.all_cons, List.all_nil, heven, hodd, Bool.and_true, Bool.and_eq_true]
  refine ⟨?_, by simp [rowsIn]⟩
  obtain rfl | hn := Nat.eq_zero_or_pos n
  · simp [rowsIn]
  · obtain ⟨h1, h2⟩ := hb hn
    rw [localForm_below (by omega)]
    simp [rowsIn, rowsSpan, h1]
    omega

/-! ### A descriptor that is accepted -/

theorem acceptDesc_moves {d : Desc} (hr : d.rows ≠ 0) (hb : d.rowBytes ≠ 0) : acceptDesc s l d
    = modCore { s with nextId := s.nextId + 1 } l (fun c => { c with descs := c.descs ++ [d] }) :=
  if_neg (by simp [hr, hb])

theorem acceptDesc_empty {d : Desc} {e : Nat} (h : d.rows = 0 ∨ d.rowBytes = 0) (hc : d.ctr = some e) :
    acceptDesc s l d = raiseCtr s l e 1 := by
  simp [acceptDesc, h, hc]

/-- What a descriptor that is accepted and moves something leaves, once the instruction has gone on. -/
theorem issued_acceptDesc {s1 : State} (u : Option Nat) (pc : Nat) {d : Desc} (hr : d.rows ≠ 0) (hb : d.rowBytes ≠ 0)
    (hm : s1.mem = s.mem) (hq : s1.reqs = s.reqs) (hd : (coreOf s1 x.core).descs = (coreOf s x.core).descs)
    (hs : strOf s1 x.core x.stream = strm s x) :
    let t := issued s (acceptDesc s1 x.core d) x u pc
    (coreOf t x.core).descs = (coreOf s x.core).descs ++ [d] ∧ strm t x = { strm s x with pc := pc } ∧ t.mem = s.mem
      ∧ t.reqs = s.reqs := by
  rw [acceptDesc_moves hr hb]
  refine ⟨?_, ?_, ?_, ?_⟩
  · rw [issued_descs, coreOf_modCore_self, ← hd]; rfl
  · rw [strm, strOf_issued_self, strOf_modCore_of_keeps (fun u => by cases u <;> rfl), ← hs]; rfl
  · rw [issued_mem]; exact hm
  · rw [issued_reqs]; exact hq

/-! ### MOVR -/

/-- The descriptor that MOVR starts. -/
def movrDesc (fn : BitVec 4) (x : Insn) (s : State) : Desc :=
  { id := s.nextId, stream := x.stream, src := ((strm s x).reg x.r2).toNat, dst := ((strm s x).reg x.r1).toNat, rows := 1
    rowBytes := bits ((strm s x).reg x.r3) 31 0, srcPitch := 0, dstPitch := 0, op := fn.toNat
    epoch := bits ((strm s x).reg x.r3) 47 32, noAlloc := false, deadSrc := false
    ctr := if bitsN x.b 20 20 = 1 then some (bitsN x.b 23 21) else none, prov := passOf (strm s x) }

theorem exec_movr {fn : BitVec 4} (h : issues s x (some 1) = true) (hf : fn.toNat < 3) (hz : bitsN x.b 19 0 = 0) (h0 : x.r0 = 0)
    (h1 : x.r1 < 48) (h2 : x.r2 < 48) (h3 : x.r3 < 48) (ha : accepted (coreOf s x.core) x.stream < 8)
    (hw : bits ((strm s x).reg x.r3) 63 48 = 0) (he : fn.toNat = 0 → bits ((strm s x).reg x.r3) 47 32 = 0)
    (hd : descOk s x.core (movrDesc fn x s) = true) : exec (.movr fn x) s
      = .next (issued s (acceptDesc s x.core (movrDesc fn x s)) x (some 1) (pcAfter (strm s x).pc)) := by
  refine exec_issue_go h (by simp [hf, hz, h0]) ?_
  rw [if_neg (by simp [isSA, h1, h2, h3])]
  dsimp only
  rw [if_neg (by rintro (hb | ⟨h0, hb⟩); exacts [hb hw, hb (he h0)]), if_neg (by omega)]
  have hmk : ({ id := s.nextId, stream := x.stream, src := ((strm s x).reg x.r2).toNat, dst := ((strm s x).reg x.r1).toNat, rows := 1
                rowBytes := bits ((strm s x).reg x.r3) 31 0, srcPitch := 0, dstPitch := 0, op := fn.toNat
                epoch := bits ((strm s x).reg x.r3) 47 32, noAlloc := false, deadSrc := false
                ctr := if (bitsN x.b 20 20 == 1) = true then some (bitsN x.b 23 21) else none, prov := passOf (strm s x) } : Desc)
      = movrDesc fn x s := by simp only [beq_iff_eq]; rfl
  rw [hmk, if_pos hd]

/-- MOVR's one row passes the checks of R145. -/
theorem descOk_movrDesc {fn : BitVec 4} (hf : fn.toNat < 3) (hc : x.core < numCores) (hb : fn.toNat ≠ 0 →
    scratchAddr x.core 0 ≤ ((strm s x).reg x.r2).toNat
      ∧ ((strm s x).reg x.r2).toNat + bits ((strm s x).reg x.r3) 31 0 ≤ scratchAddr x.core 0x20000
      ∧ ((strm s x).reg x.r1).toNat + bits ((strm s x).reg x.r3) 31 0 ≤ userEnd
      ∧ ((strm s x).reg x.r2).toNat % (if fn.toNat = 1 then 4 else 2) = 0
      ∧ ((strm s x).reg x.r1).toNat % (if fn.toNat = 1 then 4 else 2) = 0
      ∧ bits ((strm s x).reg x.r3) 31 0 % (if fn.toNat = 1 then 4 else 2) = 0) : descOk s x.core (movrDesc fn x s) = true := by
  have hcore : scratchAddr x.core 0x20000 ≤ 2 ^ 63 := by
    have hn : x.core < 2 ^ 20 := lt_of_lt_of_le hc (by decide)
    simp only [scratchAddr, scratchBase]
    omega
  by_cases h0 : fn.toNat = 0
  · exact if_pos h0
  · obtain ⟨hlo, hhi, hdst, hs4, hd4, hn4⟩ := hb h0
    have hsrc := sideIn_one_row (s := s) (base := ((strm s x).reg x.r2).toNat) (n := bits ((strm s x).reg x.r3) 31 0)
      (fun _ => ⟨hlo, hhi⟩) hcore
    have hdst := sideIn_one_row (s := s) (lo := 0) (fun _ => ⟨Nat.zero_le _, hdst⟩) (by decide : userEnd ≤ 2 ^ 63)
    rw [descOk, if_neg (show (movrDesc fn x s).op ≠ 0 from h0)]
    simp [movrDesc, hf, hsrc, hdst]
    exact ⟨⟨hs4, hd4⟩, hn4⟩

/-! ### MOVD -/

/-- The address that MOVD reads. -/
def descAddr (x : Insn) (s : State) : Nat := ((strm s x).reg x.r0 + wordOf x.imm).toNat

theorem descLine_eq (x : Insn) (s : State) : descLine x s = localForm s (descAddr x s) / 256 := rfl

theorem missesDesc_eq (x : Insn) (s : State) : missesDesc x s = ((strm s x).st == .running && isSA x.r0 && descAddr x s % 64 == 0
    && roReadable s (descAddr x s) 64 && predHolds (strm s x) x
    && !(coreOf s x.core).ro.any (fun z => z.kind == .desc && z.line == descLine x s)) := rfl

/-- MOVD and KCMD ask for a line only where the cache holds it not. -/
theorem askDesc_hit {y : RoLine} (h : (coreOf s x.core).ro.find? (fun z => z.kind == .desc && z.line == descLine x s) = some y) :
    askDesc x s = s := by
  have hany : (coreOf s x.core).ro.any (fun z => z.kind == .desc && z.line == descLine x s) = true :=
    List.any_eq_true.2 ⟨y, List.mem_of_find?_eq_some h, by simpa using List.find?_some h⟩
  have hmiss : missesDesc x s = false := by
    rw [missesDesc_eq, hany, Bool.not_true, Bool.and_false]
  simp [askDesc, hmiss]

/-- A core's read-only caches in another order: what a hit leaves. -/
def withRo (s : State) (l : Nat) (ro : List RoLine) : State := setCore s l { coreOf s l with ro := ro }

theorem descs_withRo (s : State) (l : Nat) (ro : List RoLine) : (coreOf (withRo s l ro) l).descs = (coreOf s l).descs := by
  rw [withRo, coreOf_setCore_self]

theorem roRead_hit {k : RoKind} {a n : Nat} {y : RoLine} (hr : roReadable s a n = true) (got : State → List Byte → Done)
    (h : (coreOf s l).ro.find? (fun z => z.kind == k && z.line == localForm s a / 256) = some y) :
    ∃ ro, roRead s l k a n got = got (withRo s l ro) ((y.data.drop (a % 256)).take n) := by
  refine ⟨y :: (coreOf s l).ro.filter (fun z => !(z.kind == k && z.line == localForm s a / 256)), ?_⟩
  simp [roRead, hr, roHit, h, withRo]

theorem roRead_miss {k : RoKind} {a n : Nat} (hr : roReadable s a n = true) (got : State → List Byte → Done)
    (h : (coreOf s l).ro.find? (fun z => z.kind == k && z.line == localForm s a / 256) = none) :
    roRead s l k a n got = if (coreOf s l).roFailed.contains (k, localForm s a / 256) then .fault 0x04 a else .stall := by
  simp [roRead, hr, roHit, h]

/-- What the 64 bytes of a descriptor line make of MOVD. -/
def startDesc (x : Insn) (a : Nat) (st : Stream) (s1 : State) (d : List Byte) : Done :=
  match descOfBytes d s1.nextId x.stream (if x.ctrEn then some x.e else none) (passOf st) with
  | some dd => if descOk s1 x.core dd then .go (acceptDesc s1 x.core dd) else .fault 0x09 a
  | none => .fault 0x09 a

/-- The checks on a descriptor look at no cache. -/
theorem descOk_withRo {ro : List RoLine} {d : Desc} : descOk (withRo s x.core ro) x.core d = descOk s x.core d := rfl

theorem startDesc_some {a : Nat} {st : Stream} {s1 : State} {d : List Byte} {dd : Desc}
    (h : descOfBytes d s1.nextId x.stream (if x.ctrEn then some x.e else none) (passOf st) = some dd) :
    startDesc x a st s1 d = if descOk s1 x.core dd then .go (acceptDesc s1 x.core dd) else .fault 0x09 a := by
  rw [startDesc, h]

theorem movdBody_eq (h0 : x.r0 < 48) (ha : descAddr x s % 64 = 0) (hn : accepted (coreOf s x.core) x.stream < 8) :
    movdBody x s (strm s x) = roRead s x.core .desc (descAddr x s) 64 (startDesc x (descAddr x s) (strm s x)) := by
  unfold movdBody
  rw [if_neg (by simp [isSA, h0])]
  exact (if_neg (by simpa [descAddr] using ha)).trans (if_neg (by omega))

theorem usedDesc_of_live {t : State} (h : (strOf t x.core x.stream).live = true) : usedDesc x s t = t := by
  simp [usedDesc, h]

/-- A used record of a failed fill changes no stream. -/
theorem strOf_usedDesc (s t : State) (u : StreamId) : strOf (usedDesc x s t) x.core u = strOf t x.core u := by
  unfold usedDesc
  split_ifs
  · exact strOf_modCore_of_keeps (fun v => by cases v <;> rfl) u
  · rfl

theorem usedDesc_mem (s t : State) : (usedDesc x s t).mem = t.mem := by
  unfold usedDesc
  split_ifs <;> rfl

/-- Which descriptor 64 bytes give. -/
def descOf (w : Nat → Nat) (id : Nat) (t : StreamId) (ctr prov : Option Nat) : Desc :=
  { id := id, stream := t, src := w 0, dst := w 1, rows := w 2 / 2 ^ 32, rowBytes := w 2 % 2 ^ 32
    srcPitch := sextN 64 (w 3), dstPitch := sextN 64 (w 4), op := bitsN (w 5) 3 0, epoch := bitsN (w 5) 47 32
    noAlloc := bitsN (w 5) 9 9 == 1, deadSrc := bitsN (w 5) 8 8 == 1, ctr := ctr, prov := prov }

/-- The i-th word of a descriptor (Table 04-7). -/
def descWord (d : List Byte) (i : Nat) : Nat := leNat ((d.drop (8 * i)).take 8)

theorem descOfBytes_eq {d : List Byte} (id : Nat) (t : StreamId) (ctr prov : Option Nat) (h1 : bitsN (descWord d 5) 63 48 = 0)
    (h2 : bitsN (descWord d 5) 31 10 = 0) (h3 : bitsN (descWord d 5) 7 4 = 0) (h4 : bitsN (descWord d 5) 3 0 ≤ 2)
    (h5 : descWord d 6 = 0) (h6 : descWord d 7 = 0) : descOfBytes d id t ctr prov = some (descOf (descWord d) id t ctr prov) := by
  unfold descWord at h1 h2 h3 h4 h5 h6
  refine if_neg ?_
  simp only [h1, h2, h3, h5, h6, ne_eq, not_true_eq_false, or_false, false_or, not_lt]
  exact h4

theorem live_of_running {z : Stream} (h : z.st = .running) : z.live = true := by simp [Stream.live, h]

theorem strm_acceptDesc (d : Desc) (h : (strm s x).st = .running) : strOf (acceptDesc s x.core d) x.core x.stream = strm s x := by
  unfold acceptDesc
  split_ifs
  · split
    · rw [strOf_raiseCtr, woken_of_not_waiting (by rw [show (strOf s x.core x.stream).st = .running from h]; decide)]
    · rfl
  · rw [strOf_modCore_of_keeps (fun u => by cases u <;> rfl)]
    rfl

/-- MOVD at a descriptor the cache holds: what the body makes of its bytes. -/
theorem exec_movd_hit {a : Nat} {y : RoLine} (hz : bitsN x.b 37 36 = 0) (h0 : x.r0 < 48) (ha : descAddr x s = a) (h64 : a % 64 = 0)
    (hr : roReadable s a 64 = true) (h : issues s x (some 1) = true) (hn : accepted (coreOf s x.core) x.stream < 8)
    (hy : (coreOf s x.core).ro.find? (fun z => z.kind == .desc && z.line == localForm s a / 256) = some y) :
    ∃ ro, ∀ d, startDesc x a (strm s x) (withRo s x.core ro) ((y.data.drop (a % 256)).take 64) = d →
      movdBody x s (strm s x) = d ∧ exec (.movd x) s
        = .next (usedDesc x s (issueInsn s x (some 1) (bitsN x.b 37 36 == 0) (movdBody x))) := by
  subst ha
  obtain ⟨ro, hro⟩ := roRead_hit hr (startDesc x (descAddr x s) (strm s x)) hy
  refine ⟨ro, fun d hd => ⟨by rw [movdBody_eq h0 h64 hn, hro, hd], ?_⟩⟩
  refine (onCore_lt _ _ (issues_core s h)).trans ?_
  simp only [hz, beq_self_eq_true, if_true, askDesc_hit (x := x) hy]

/-- MOVD at a descriptor that the cache does not hold. -/
theorem exec_movd_failed {a : Nat} (hz : bitsN x.b 37 36 = 0) (h0 : x.r0 < 48) (ha : descAddr x s = a) (h64 : a % 64 = 0)
    (hr : roReadable s a 64 = true) (h : issues s x (some 1) = true) (hn : accepted (coreOf s x.core) x.stream < 8)
    (hy : (coreOf s x.core).ro.find? (fun z => z.kind == .desc && z.line == localForm s a / 256) = none)
    (hf : (RoKind.desc, localForm s a / 256) ∈ (coreOf s x.core).roFailed) : exec (.movd x) s
      = .next (clearFailed (coreFault s x.core x.stream 0x04 (BitVec.ofNat 64 a)) x.core .desc (localForm s a / 256)) := by
  subst ha
  have hc : (coreOf s x.core).roFailed.contains (RoKind.desc, localForm s (descAddr x s) / 256) = true := by simpa using hf
  have hb : movdBody x s (strm s x) = .fault 0x04 (descAddr x s) := by
    rw [movdBody_eq h0 h64 hn, roRead_miss hr _ hy, if_pos hc]
  have hask : askDesc x s = s := by
    unfold askDesc
    split_ifs with h1 h2
    · rfl
    · exact absurd hc h2
    · rfl
  refine (onCore_lt _ _ (issues_core s h)).trans ?_
  simp only [hz, beq_self_eq_true, if_true, hask]
  rw [issueInsn_fault h rfl hb, usedDesc, descLine_eq, if_pos ⟨hc, by rw [strOf_coreFault_self, live_halting]⟩]

theorem askFill_keeps_str (s : State) (l : Nat) (k : RoKind) (line : Nat) (u : StreamId) :
    strOf (askFill s l k line) l u = strOf s l u := strOf_modCore_of_keeps (fun v => by cases v <;> rfl) u

theorem coreOf_askFill (s : State) (l : Nat) (k : RoKind) (line : Nat) : coreOf (askFill s l k line) l = { coreOf s l with
    fills := if (coreOf s l).fills.contains (k, line) then (coreOf s l).fills else (coreOf s l).fills ++ [(k, line)] } :=
  coreOf_modCore_self ..

/-- Asking for a fill leaves the instruction offered. -/
theorem Offered.askFill (h : Offered s x) (k : RoKind) (line : Nat) : Offered (askFill s x.core k line) x := by
  obtain ⟨h1, h2, h3, h4, h5, h6, h7⟩ := h
  have hs : strm (Machine.askFill s x.core k line) x = strm s x := askFill_keeps_str ..
  refine ⟨h1, by rw [hs, h2], by rw [coreOf_askFill, ← h3], h4, h5, ?_, by rw [hs]; exact h7⟩
  rw [hs, fetchFails, coreOf_askFill]
  exact h6

/-- An offered instruction whose body cannot go on changes nothing, whoever has the unit. -/
theorem issueInsn_stalls (h : Offered s x) (u : Option Nat) {body : State → Stream → Done} (hp : predHolds (strm s x) x = true)
    (hb : body s (strm s x) = .stall) : issueInsn s x u true body = s := by
  rw [issueInsn_of_offered h]
  have hf : fetchFails s x.core (strOf s x.core x.stream).pc = false := h.filled
  have hr : roReadable s (strOf s x.core x.stream).pc 8 = true := h.readable
  have hp : predHolds (strOf s x.core x.stream) x = true := hp
  have hb : body s (strOf s x.core x.stream) = .stall := hb
  simp [issueRun, hf, hr, hp, hb]

/-- MOVD at a descriptor that no fill has brought: it asks for the line and waits. -/
theorem exec_movd_asks {a : Nat} (hz : bitsN x.b 37 36 = 0) (h0 : x.r0 < 48) (ha : descAddr x s = a) (h64 : a % 64 = 0)
    (hr : roReadable s a 64 = true) (h : issues s x (some 1) = true) (hn : accepted (coreOf s x.core) x.stream < 8)
    (hy : (coreOf s x.core).ro.find? (fun z => z.kind == .desc && z.line == localForm s a / 256) = none)
    (hf : (RoKind.desc, localForm s a / 256) ∉ (coreOf s x.core).roFailed) :
    exec (.movd x) s = .next (askFill s x.core .desc (localForm s a / 256)) := by
  subst ha
  have hc : (coreOf s x.core).roFailed.contains (RoKind.desc, localForm s (descAddr x s) / 256) = false := by simpa using hf
  have hany : (coreOf s x.core).ro.any (fun z => z.kind == .desc && z.line == localForm s (descAddr x s) / 256) = false := by
    simpa [List.any_eq_false, List.find?_eq_none] using hy
  have hp : predHolds (strm s x) x = true := by
    simp only [issues, Bool.and_eq_true] at h
    exact h.1.2
  have hrun := (offered_of_issues h).running
  have hmiss : missesDesc x s = true := by
    rw [missesDesc_eq, descLine_eq, hany, hp, hr]
    simp [hrun, h64, isSA, h0]
  have hask : askDesc x s = askFill s x.core .desc (localForm s (descAddr x s) / 256) := by
    simp only [askDesc, hmiss, if_true, descLine_eq, hc]
    rfl
  have hs : strm (askFill s x.core .desc (localForm s (descAddr x s) / 256)) x = strm s x := askFill_keeps_str ..
  have hcore := coreOf_askFill s x.core .desc (localForm s (descAddr x s) / 256)
  have hoff := (offered_of_issues h).askFill .desc (localForm s (descAddr x s) / 256)
  generalize hgen : askFill s x.core .desc (localForm s (descAddr x s) / 256) = s1 at hs hcore hoff hask
  have haddr : descAddr x s1 = descAddr x s := by rw [descAddr, hs, descAddr]
  have hform (a : Nat) : localForm s1 a = localForm s a := by rw [← hgen]; rfl
  have hstall : movdBody x s1 (strm s1 x) = .stall := by
    rw [movdBody_eq h0 (by rwa [haddr]) (by rw [hcore]; exact hn), haddr, roRead_miss (by rw [← hgen]; exact hr) _
      (by rw [hcore, hform]; exact hy), hcore, hform]
    exact if_neg (by simpa using hf)
  refine (onCore_lt _ _ (issues_core s h)).trans ?_
  simp only [hz, beq_self_eq_true, if_true, hask]
  rw [issueInsn_stalls hoff (some 1) (by rwa [hs]) hstall, usedDesc, descLine_eq, haddr, hform, hcore]
  exact congrArg _ (if_neg (by simp [hf]))

/-- Settles O14. -/
theorem movementDescriptors : Obligations.MovementDescriptors := by
  unfold Obligations.MovementDescriptors
  refine ⟨?movr, ?movd⟩
  case movr =>
    intro fn x s h hf hz h0 h1 h2 h3 ha src dst n ep w ctr hw he hb
    have hd := descOk_movrDesc hf (issues_core s h) hb
    have hrun := (offered_of_issues h).running
    refine ⟨fun hn => ?_, fun hn e hc => ?_⟩
    · obtain ⟨hdescs, hstr, hmem, hreqs⟩ := issued_acceptDesc (s := s) (s1 := s) (x := x) (some 1) (pcAfter (strm s x).pc)
        (d := movrDesc fn x s) Nat.one_ne_zero (Nat.ne_of_gt hn) rfl rfl rfl rfl
      exact ⟨_, movrDesc fn x s, exec_movr h hf hz h0 h1 h2 h3 ha hw he hd, hdescs, rfl, rfl, rfl, rfl, rfl, rfl, rfl, rfl, rfl,
        rfl, rfl, rfl, hstr, hmem, hreqs⟩
    · have hacc : acceptDesc s x.core (movrDesc fn x s) = raiseCtr s x.core e 1 := acceptDesc_empty (.inr hn) hc
      refine ⟨_, exec_movr h hf hz h0 h1 h2 h3 ha hw he hd, ?_, ?_, ?_, ?_⟩
      · rw [issued_descs, hacc, coreOf_raiseCtr]; rfl
      · rw [issued_ctrs, hacc, smGet_raiseCtr_self]
      · rw [strm, strOf_issued_self, strm_acceptDesc _ hrun]
      · rw [issued_mem, hacc, raiseCtr_mem]
  case movd =>
    intro x s a hz h0 ha h64 hr
    have haddr : descAddr x s = a := toNat_add_wordOf ha
    refine ⟨?hit, ?miss⟩
    case hit =>
      intro y h hn hy w h1 h2 h3 h4 h5 h6
      have hrun := (offered_of_issues h).running
      obtain ⟨ro, hex⟩ := exec_movd_hit hz h0 haddr h64 hr h hn hy
      have hdesc := descOfBytes_eq (withRo s x.core ro).nextId x.stream (if x.ctrEn then some x.e else none) (passOf (strm s x)) h1 h2 h3 h4 h5 h6
      have hs : strOf (withRo s x.core ro) x.core x.stream = strm s x := by
        rw [strOf, withRo, coreOf_setCore_self, strm]
        cases x.stream <;> rfl
      refine ⟨descOf w s.nextId x.stream (if x.ctrEn then some x.e else none) (passOf (strm s x)), rfl, rfl, rfl, rfl, rfl, rfl, rfl,
        rfl, rfl, rfl, rfl, rfl, rfl, rfl, rfl, fun hok hrows hbytes => ?_, fun hbad => ?_⟩
      · obtain ⟨hb, he⟩ := hex _ ((startDesc_some hdesc).trans (if_pos (descOk_withRo.trans hok)))
        rw [issueInsn_go h (by simp [hz]) hb, usedDesc_of_live] at he
        · obtain ⟨hdescs, hstr, hmem, hreqs⟩ := issued_acceptDesc (s := s) (x := x) (some 1) (pcAfter (strm s x).pc) hrows hbytes
            (setCore_mem ..) (setCore_reqs ..) (descs_withRo ..) hs
          exact ⟨_, he, hdescs, hstr, hmem, hreqs⟩
        · have hrun1 : (strm (withRo s x.core ro) x).st = .running := (congrArg Stream.st hs).trans hrun
          rw [strOf_issued_self, strm_acceptDesc _ hrun1]
          exact live_of_running hrun1
      · obtain ⟨hb, he⟩ := hex _ ((startDesc_some hdesc).trans (if_neg (ne_true_of_eq_false (descOk_withRo.trans hbad))))
        rw [issueInsn_fault h (by simp [hz]) hb] at he
        exact ⟨_, he, by rw [strm, strOf_usedDesc, strOf_coreFault_self], by rw [usedDesc_mem, coreFault_mem]⟩
    case miss =>
      intro h hn hmiss
      have hy : (coreOf s x.core).ro.find? (fun z => z.kind == .desc && z.line == localForm s a / 256) = none := by
        simpa [List.find?_eq_none] using hmiss
      by_cases hf : (RoKind.desc, localForm s a / 256) ∈ (coreOf s x.core).roFailed
      · refine ⟨_, exec_movd_failed hz h0 haddr h64 hr h hn hy hf, coreFault_mem .., fun hnf => absurd hf hnf, fun _ => ⟨?_, ?_⟩⟩
        · rw [strm, clearFailed, strOf_modCore_of_keeps (fun v => by cases v <;> rfl), strOf_coreFault_self]
        · rw [clearFailed, coreOf_modCore_self]
          simp
      · refine ⟨_, exec_movd_asks hz h0 haddr h64 hr h hn hy hf, rfl, fun _ => ⟨askFill_keeps_str .., ?_⟩, fun hm => absurd hm hf⟩
        rw [coreOf_askFill]
        dsimp only
        split_ifs with hc
        · simpa using hc
        · simp

end Sys2Proof.Machine
end

section
/-! PROOFS. What the sending of frames leaves (R385 to R398): it changes the fabric, the counters' registers and what is sent, and
nothing else. -/

namespace Sys2Proof.Machine

variable {s : State}

/-- What no frame that is sent changes: everything but the fabric, the registers and what is sent. -/
def besideFabric (s : State) : State := { s with cfg := [], fab := {}, out := [] }

theorem besideFabric_foldl {α : Type} {f : State → α → State} (h : ∀ s x, besideFabric (f s x) = besideFabric s) (xs : List α)
    (s : State) : besideFabric (xs.foldl f s) = besideFabric s := foldl_keeps besideFabric h xs s

section
variable {t : State} (h : besideFabric t = besideFabric s)
include h

theorem reqs_of_besideFabric : t.reqs = s.reqs := (congrArg State.reqs h : (besideFabric t).reqs = _)
theorem mem_of_besideFabric : t.mem = s.mem := (congrArg State.mem h : (besideFabric t).mem = _)
theorem cores_of_besideFabric : t.cores = s.cores := (congrArg State.cores h : (besideFabric t).cores = _)
theorem nextId_of_besideFabric : t.nextId = s.nextId := (congrArg State.nextId h : (besideFabric t).nextId = _)
theorem boot_of_besideFabric : t.boot = s.boot := (congrArg State.boot h : (besideFabric t).boot = _)
theorem engines_of_besideFabric : t.engines = s.engines := (congrArg State.engines h : (besideFabric t).engines = _)

end

@[simp] theorem modFab_besideFabric (s : State) (f : Fab → Fab) : besideFabric (modFab s f) = besideFabric s := rfl
@[simp] theorem setPort_besideFabric (s : State) (p : Nat) (x : Port) : besideFabric (setPort s p x) = besideFabric s := rfl
@[simp] theorem modPort_besideFabric (s : State) (p : Nat) (f : Port → Port) : besideFabric (modPort s p f) = besideFabric s := rfl
@[simp] theorem emit_besideFabric (s : State) (o : Output) : besideFabric (emit s o) = besideFabric s := rfl
@[simp] theorem wr_besideFabric (s : State) (o : Nat) (w : Word) : besideFabric (wr s o w) = besideFabric s := rfl
@[simp] theorem wrf_besideFabric (s : State) (o : Nat) (f : Fld) (n : Nat) : besideFabric (wrf s o f n) = besideFabric s := rfl
@[simp] theorem wrb_besideFabric (s : State) (o : Nat) (f : Fld) (b : Bool) : besideFabric (wrb s o f b) = besideFabric s := rfl
@[simp] theorem count_besideFabric (s : State) (o : Nat) (f : Fld) (n : Nat) : besideFabric (count s o f n) = besideFabric s := rfl
@[simp] theorem countSat_besideFabric (s : State) (o : Nat) (f : Fld) (n : Nat) :
    besideFabric (countSat s o f n) = besideFabric s := rfl
@[simp] theorem emitWord_besideFabric (s : State) (p : Nat) (b : List Byte) (l : LinkFields) :
    besideFabric (emitWord s p b l) = besideFabric s := rfl
@[simp] theorem useCredit_besideFabric (s : State) (p k : Nat) : besideFabric (useCredit s p k) = besideFabric s := rfl
@[simp] theorem countDropped_besideFabric (s : State) : besideFabric (countDropped s) = besideFabric s := rfl
@[simp] theorem closeWord_besideFabric (s : State) (p : Nat) (nak : Bool) (g e : Nat) :
    besideFabric (closeWord s p nak g e) = besideFabric s := rfl

@[simp] theorem transmit_besideFabric (s : State) (p : Nat) (h : FrameHdr) (b : Body) :
    besideFabric (transmit s p h b) = besideFabric s := by
  unfold transmit
  exact besideFabric_foldl (fun _ _ => emitWord_besideFabric ..) _ _

@[simp] theorem sendOrWait_besideFabric (s : State) (p : Nat) (w : WaitFrame) : besideFabric (sendOrWait s p w) = besideFabric s := by
  unfold sendOrWait
  split_ifs
  · cases w.mark <;> simp
  · simp

@[simp] theorem sendCredit_besideFabric (s : State) (p k n : Nat) : besideFabric (sendCredit s p k n) = besideFabric s := by
  unfold sendCredit
  split_ifs <;> simp

@[simp] theorem creditBack_besideFabric (s : State) (q : Option (Nat × Nat)) : besideFabric (creditBack s q) = besideFabric s := by
  unfold creditBack
  cases q with
  | none => rfl
  | some k => dsimp only; split_ifs <;> simp

@[simp] theorem putOnPort_besideFabric (s : State) (p : Nat) (w : WaitFrame) : besideFabric (putOnPort s p w) = besideFabric s := by
  unfold putOnPort
  split_ifs <;> simp

@[simp] theorem sendControl_besideFabric (s : State) (p op : Nat) (args : List Nat) :
    besideFabric (sendControl s p op args) = besideFabric s := putOnPort_besideFabric ..

@[simp] theorem creditOwed_besideFabric (s : State) (p : Nat) : besideFabric (creditOwed s p) = besideFabric s := by
  unfold creditOwed
  dsimp only
  split_ifs <;> simp

@[simp] theorem flushLoop_besideFabric (n : Nat) (s : State) (p : Nat) : besideFabric (flushLoop n s p) = besideFabric s := by
  induction n generalizing s with
  | zero => rfl
  | succ n ih =>
    rw [flushLoop]
    split
    · rw [ih]; simp
    · rfl

@[simp] theorem flushPort_besideFabric (s : State) (p : Nat) : besideFabric (flushPort s p) = besideFabric s :=
  flushLoop_besideFabric ..

@[simp] theorem sendPlain_besideFabric (s : State) (h : FrameHdr) (b : Body) (a : Option Nat) (q : Option (Nat × Nat)) :
    besideFabric (sendPlain s h b a q) = besideFabric s := by
  unfold sendPlain
  split <;> simp

@[simp] theorem respond_besideFabric (s : State) (h : FrameHdr) (n : Nat) (d : List Byte) :
    besideFabric (respond s h n d) = besideFabric s := sendPlain_besideFabric ..

/-! ### Tables that may lack a key -/

section
variable {α : Type}

theorem smFind?_smErase_other (m : SMap α) {k j : Nat} (h : j ≠ k) : smFind? (smErase m k) j = smFind? m j := by
  induction m with
  | nil => rfl
  | cons p r ih =>
    obtain ⟨a, v⟩ := p
    by_cases ha : a = k
    · subst ha
      rw [smErase, if_pos rfl, ih, smFind?, if_neg (Ne.symm h)]
    · rw [smErase, if_neg ha, smFind?, smFind?, ih]

@[simp] theorem smFind?_smErase_self (m : SMap α) (k : Nat) : smFind? (smErase m k) k = none := by
  induction m with
  | nil => rfl
  | cons p r ih =>
    obtain ⟨a, v⟩ := p
    by_cases ha : a = k
    · rw [smErase, if_pos ha, ih]
    · rw [smErase, if_neg ha, smFind?, if_neg ha, ih]

theorem smFind?_smInsert_self (m : SMap α) (k : Nat) (v : α) (h : smFind? m k = none) : smFind? (smInsert m k v) k = some v := by
  induction m with
  | nil => simp [smInsert, smFind?]
  | cons p r ih =>
    obtain ⟨a, w⟩ := p
    rw [smFind?] at h
    split_ifs at h with ha
    rw [smInsert]
    split_ifs
    · rw [smFind?, if_pos rfl]
    · rw [smFind?, if_neg ha, ih h]

theorem smFind?_smInsert_other (m : SMap α) {k j : Nat} (v : α) (h : j ≠ k) : smFind? (smInsert m k v) j = smFind? m j := by
  induction m with
  | nil => simp [smInsert, smFind?, Ne.symm h]
  | cons p r ih =>
    obtain ⟨a, w⟩ := p
    rw [smInsert]
    split_ifs
    · rw [smFind?, if_neg (Ne.symm h)]
    · rw [smFind?, smFind?, ih]

@[simp] theorem smFind?_smSet_self (m : SMap α) (k : Nat) (v : α) : smFind? (smSet m k v) k = some v :=
  smFind?_smInsert_self _ _ _ (smFind?_smErase_self m k)

theorem smFind?_smSet_other (m : SMap α) {k j : Nat} (v : α) (h : j ≠ k) : smFind? (smSet m k v) j = smFind? m j :=
  (smFind?_smInsert_other _ v h).trans (smFind?_smErase_other m h)

end

/-! ### Requests to another device (R398) -/

/-- A request of a movement engine once its answer has come. -/
def answeredMove (id status : Nat) (d : List Byte) (q : Req) : Req :=
  if q.id = id then { q with phase := .ans, data := if q.fresh then d else q.data, code := statusFault status } else q

/-- A movement engine's request either goes out, or waits for a tag, or, where nothing leads to the device, has been answered. -/
theorem ask_move_reqs {a : Ask} {id : Nat} (h : a.who = .move id) :
    (ask s a).reqs = s.reqs ∨ (ask s a).reqs = s.reqs.map (answeredMove id 2 []) := by
  unfold ask
  cases tagNow s with
  | none => exact .inl rfl
  | some t =>
    dsimp only [sendOn]
    split
    · exact .inl (reqs_of_besideFabric (by simp))
    · split_ifs with hcls
      · exact absurd rfl hcls
      · exact .inl (reqs_of_besideFabric (by simp))
      · split
        · next who hw =>
          have hwho : some a.who = some who := (smFind?_smSet_self s.fab.sent t a.who).symm.trans hw
          rw [← Option.some.inj hwho, h]
          exact .inr rfl
        · exact .inl rfl

end Sys2Proof.Machine
end

section
/-! PROOFS. What ends a movement request and its descriptor leave (R102, R111, R147, R277). -/

namespace Sys2Proof.Machine
open Sys2Proof.Laws

variable {s : State} {l : Nat}

@[simp] theorem putLine_mem (s : State) (v : VLine) : (putLine s v).mem = s.mem := rfl
@[simp] theorem putLine_cores (s : State) (v : VLine) : (putLine s v).cores = s.cores := rfl
@[simp] theorem putLine_reqs (s : State) (v : VLine) : (putLine s v).reqs = s.reqs := rfl

@[simp] theorem putSector_mem (s : State) (sec : Nat) (x : Sector) : (putSector s sec x).mem = s.mem := by
  unfold putSector
  split <;> rfl

@[simp] theorem putSector_cores (s : State) (sec : Nat) (x : Sector) : (putSector s sec x).cores = s.cores := by
  unfold putSector
  split <;> rfl

@[simp] theorem putSector_reqs (s : State) (sec : Nat) (x : Sector) : (putSector s sec x).reqs = s.reqs := by
  unfold putSector
  split <;> rfl

@[simp] theorem cchInvalidateIf_mem (s : State) (c : Nat) (p : Nat → Bool) : (cchInvalidateIf s c p).mem = s.mem := rfl
@[simp] theorem cchInvalidateIf_cores (s : State) (c : Nat) (p : Nat → Bool) : (cchInvalidateIf s c p).cores = s.cores := rfl
@[simp] theorem cchInvalidateIf_reqs (s : State) (c : Nat) (p : Nat → Bool) : (cchInvalidateIf s c p).reqs = s.reqs := rfl

/-- A view that a change of one sector and a count keep, dead-line hints keep. -/
theorem deadHint_keeps {β : Type} {view : State → β} (hc : ∀ s c p, view (cchInvalidateIf s c p) = view s)
    (hp : ∀ s sec x, view (putSector s sec x) = view s) (hn : ∀ s o f n, view (count s o f n) = view s) (s : State) (l : Nat) (d : Desc) :
    view (deadHint s l d) = view s := by
  unfold deadHint
  dsimp only
  rw [hc, foldl_keeps view, foldl_keeps view]
  · intro s sec
    split
    · split_ifs
      · rfl
      · exact hp ..
    · rfl
  · intro s p
    refine foldl_keeps view (fun s v => ?_) _ _
    split_ifs
    · exact hn ..
    · rfl

@[simp] theorem deadHint_mem (s : State) (l : Nat) (d : Desc) : (deadHint s l d).mem = s.mem :=
  deadHint_keeps (view := State.mem) (fun _ _ _ => rfl) putSector_mem (fun _ _ _ _ => rfl) s l d

@[simp] theorem deadHint_cores (s : State) (l : Nat) (d : Desc) : (deadHint s l d).cores = s.cores :=
  deadHint_keeps (view := State.cores) (fun _ _ _ => rfl) putSector_cores (fun _ _ _ _ => rfl) s l d

@[simp] theorem deadHint_reqs (s : State) (l : Nat) (d : Desc) : (deadHint s l d).reqs = s.reqs :=
  deadHint_keeps (view := State.reqs) (fun _ _ _ => rfl) putSector_reqs (fun _ _ _ _ => rfl) s l d

@[simp] theorem deadlockCheck_reqs (s : State) (l : Nat) : (deadlockCheck s l).reqs = s.reqs := (onlyCoreSignals_deadlockCheck s l).reqs
@[simp] theorem raiseCtr_reqs (s : State) (l e n : Nat) : (raiseCtr s l e n).reqs = s.reqs := (onlyCoreSignals_raiseCtr s l e n).reqs

/-! ### A descriptor that may be complete -/

/-- The core without the descriptor `id`. -/
def withoutDesc (id : Nat) (c : CoreSt) : CoreSt := { c with descs := c.descs.filter (fun d => d.id ≠ id) }

/-- A descriptor that has ended: its hints, then its counter. -/
def descEnded (s : State) (l : Nat) (d : Desc) (id : Nat) : State :=
  let s2 := modCore (if d.deadSrc && d.op == 0 then deadHint s l d else s) l (withoutDesc id)
  match d.ctr with
  | some e => raiseCtr s2 l e 1
  | none => s2

/-- What the end of a request makes of its descriptor: nothing, its removal, or its completion. -/
theorem finishDesc_cases (s : State) (l id : Nat) : finishDesc s l id = s
    ∨ finishDesc s l id = deadlockCheck (modCore s l (withoutDesc id)) l
    ∨ ∃ d, (coreOf s l).descs.find? (fun d => d.id == id) = some d ∧ finishDesc s l id = deadlockCheck (descEnded s l d id) l := by
  unfold finishDesc
  split
  · exact .inl rfl
  · next d hd =>
    split
    · exact .inl rfl
    split
    · exact .inr (.inl rfl)
    split
    · exact .inl rfl
    · exact .inr (.inr ⟨d, hd, rfl⟩)

theorem strOf_withoutDesc (s : State) (l id : Nat) (u : StreamId) : strOf (modCore s l (withoutDesc id)) l u = strOf s l u :=
  strOf_modCore_of_keeps (fun v => by cases v <;> rfl) u

theorem descEnded_mem (s : State) (l : Nat) (d : Desc) (id : Nat) : (descEnded s l d id).mem = s.mem := by
  unfold descEnded
  dsimp only
  cases d.ctr <;> split_ifs <;> simp

theorem descEnded_reqs (s : State) (l : Nat) (d : Desc) (id : Nat) : (descEnded s l d id).reqs = s.reqs := by
  unfold descEnded
  dsimp only
  cases d.ctr <;> split_ifs <;> simp

theorem strOf_descEnded {u : StreamId} (d : Desc) (id : Nat) (h : (strOf s l u).st ≠ .waiting) :
    strOf (descEnded s l d id) l u = strOf s l u := by
  have hwithout : strOf (modCore (if d.deadSrc && d.op == 0 then deadHint s l d else s) l (withoutDesc id)) l u = strOf s l u := by
    rw [strOf_withoutDesc]
    split_ifs
    · exact strOf_of_cores (deadHint_cores ..) l u
    · rfl
  unfold descEnded
  dsimp only
  split
  · rw [strOf_raiseCtr, hwithout, woken_of_not_waiting h]
  · exact hwithout

@[simp] theorem finishDesc_mem (s : State) (l id : Nat) : (finishDesc s l id).mem = s.mem := by
  obtain h | h | ⟨d, -, h⟩ := finishDesc_cases s l id <;> simp [h, descEnded_mem]

@[simp] theorem finishDesc_reqs (s : State) (l id : Nat) : (finishDesc s l id).reqs = s.reqs := by
  obtain h | h | ⟨d, -, h⟩ := finishDesc_cases s l id <;> simp [h, descEnded_reqs]

/-- A stream that does not wait is as it was. -/
theorem strOf_finishDesc {u : StreamId} (id : Nat) (h : (strOf s l u).st ≠ .waiting) :
    strOf (finishDesc s l id) l u = strOf s l u := by
  obtain hf | hf | ⟨d, -, hf⟩ := finishDesc_cases s l id <;> rw [hf]
  · rw [strOf_deadlockCheck_other, strOf_withoutDesc]
    rw [strOf_withoutDesc]
    exact .inl h
  · have hd := strOf_descEnded (s := s) (l := l) d id h
    rw [strOf_deadlockCheck_other (by rw [hd]; exact .inl h), hd]

/-! ### A fault of a request (R147) -/

theorem strOf_killDesc (s : State) (l id : Nat) (u : StreamId) : strOf (killDesc s l id) l u = strOf s l u :=
  strOf_modCore_of_keeps (fun v => by cases v <;> rfl) u

@[simp] theorem tiedFault_mem (s : State) (l : Nat) (t : StreamId) (k : Nat) (a : Word) : (tiedFault s l t k a).mem = s.mem := by
  simp only [tiedFault, raiseEvent_mem]
  split_ifs <;> rfl

@[simp] theorem tiedFault_reqs (s : State) (l : Nat) (t : StreamId) (k : Nat) (a : Word) : (tiedFault s l t k a).reqs = s.reqs := by
  simp only [tiedFault, raiseEvent_reqs]
  split_ifs <;> rfl

@[simp] theorem lateFault_mem (s : State) (l : Nat) (t : StreamId) (k : Nat) (a : Word) : (lateFault s l t k a).mem = s.mem := by
  simp only [lateFault]
  split_ifs <;> simp [takeFree]

@[simp] theorem lateFault_reqs (s : State) (l : Nat) (t : StreamId) (k : Nat) (a : Word) : (lateFault s l t k a).reqs = s.reqs := by
  simp only [lateFault]
  split_ifs <;> simp [takeFree]

theorem strOf_tiedFault (s : State) (l : Nat) (t : StreamId) (k : Nat) (a : Word) :
    strOf (tiedFault s l t k a) l t = { strOf s l t with cause := .fault, code := k } := by
  simp only [tiedFault, strOf_raiseEvent]
  generalize (match (coreOf s l).faultBy with | some v => decide (strNum t < strNum v) | none => false) = first
  split_ifs
  · rw [strOf_modCore_of_keeps (fun v => by cases v <;> rfl), strOf_wr, strOf_modStr_self]
  · rw [strOf_modStr_self]

theorem halting_of_not_live {z : Stream} (h : z.live = false) (c : HaltCause) (k : Nat) : z.halting c k = z := by
  simp [Stream.halting, h]

theorem strOf_lateFault_untied {t : StreamId} (h : ¬ tiedWith s l t) (k : Nat) (a : Word) :
    strOf (lateFault s l t k a) l t = (strOf s l t).halting .fault k := by
  rw [show lateFault s l t k a = coreFault s l t k a from if_neg h, strOf_coreFault_self]

theorem strOf_lateFault_tied {t : StreamId} (h : tiedWith s l t) (k : Nat) (a : Word) :
    strOf (lateFault s l t k a) l t = strOf s l t ∨ strOf (lateFault s l t k a) l t = { strOf s l t with cause := .fault, code := k } := by
  have hlive : (strOf s l t).live = false := by
    obtain ⟨h1, -⟩ := h
    simp [Stream.live, h1]
  rw [show lateFault s l t k a = if Config.freeNat (takeFree s).1 % 2 = 1 then tiedFault (takeFree s).2 l t k a
    else coreFault (takeFree s).2 l t k a from if_pos h]
  split_ifs
  · exact .inr (strOf_tiedFault ..)
  · exact .inl ((strOf_coreFault_self ..).trans (halting_of_not_live hlive ..))

theorem tiedWith_killDesc {t : StreamId} (id : Nat) : tiedWith (killDesc s l id) l t ↔ tiedWith s l t := by
  rw [tiedWith, strOf_killDesc, killDesc, coreOf_modCore_self, rd_modCore, tiedWith]

theorem halting_not_waiting (z : Stream) (c : HaltCause) (k : Nat) : (z.halting c k).st ≠ .waiting := by
  by_cases h : z.live = true
  · rw [Stream.halting, if_pos h]
    exact fun hw => by cases hw
  · rw [Stream.halting, if_neg h]
    intro hw
    simp [Stream.live, hw] at h

@[simp] theorem killDesc_mem (s : State) (l id : Nat) : (killDesc s l id).mem = s.mem := rfl
@[simp] theorem killDesc_reqs (s : State) (l id : Nat) : (killDesc s l id).reqs = s.reqs := rfl

@[simp] theorem reqFault_mem (s : State) (l : Nat) (t : StreamId) (d k a : Nat) : (reqFault s l t d k a).mem = s.mem := by
  rw [reqFault, finishDesc_mem, lateFault_mem, killDesc_mem]

@[simp] theorem reqFault_reqs (s : State) (l : Nat) (t : StreamId) (d k a : Nat) : (reqFault s l t d k a).reqs = s.reqs := by
  rw [reqFault, finishDesc_reqs, lateFault_reqs, killDesc_reqs]

/-- The fault of a request halts its stream with the code. -/
theorem strOf_reqFault_untied {t : StreamId} (h : ¬ tiedWith s l t) (d k a : Nat) :
    strOf (reqFault s l t d k a) l t = (strOf s l t).halting .fault k := by
  have hlate : strOf (lateFault (killDesc s l d) l t k (BitVec.ofNat 64 a)) l t = (strOf s l t).halting .fault k := by
    rw [strOf_lateFault_untied ((tiedWith_killDesc d).not.2 h), strOf_killDesc]
  rw [reqFault, strOf_finishDesc _ (by rw [hlate]; exact halting_not_waiting _ _ _), hlate]

/-- A stream that a sibling's fault has halted at the same time records the request's fault, or does not. -/
theorem strOf_reqFault_tied {t : StreamId} (h : tiedWith s l t) (d k a : Nat) :
    strOf (reqFault s l t d k a) l t = strOf s l t ∨ strOf (reqFault s l t d k a) l t = { strOf s l t with cause := .fault, code := k } := by
  have hst : (strOf s l t).st ≠ .waiting := by rw [h.1]; decide
  rw [reqFault]
  obtain hk | hk := strOf_lateFault_tied ((tiedWith_killDesc d).2 h) k (BitVec.ofNat 64 a) <;> rw [strOf_killDesc] at hk
  · exact .inl (by rw [strOf_finishDesc _ (by rw [hk]; exact hst), hk])
  · exact .inr (by rw [strOf_finishDesc _ (by rw [hk]; exact hst), hk])

end Sys2Proof.Machine
end

section
/-! PROOFS. The requests of a descriptor (R101, R147, R211 to R213). -/

namespace Sys2Proof.Machine
open Sys2Proof.Laws

variable {s t : State} {l : Nat} {u : StreamId}

/-! ### Where the sides lie -/

theorem wrapN_of_descAt {base row off a : Nat} {pitch : Int} (h : descAt base pitch row off a) :
    wrapN 64 ((base : Int) + pitch * row + off) = a := by
  obtain ⟨ha, hm⟩ := h
  have hm' : (a : Int) % 2 ^ 64 = ((base : Int) + pitch * row + off) % 2 ^ 64 := hm
  rw [wrapN, ← hm']
  omega

/-- The registers that say where an address leads: the device's own ID and the windows of the slices. -/
def SameMap (s t : State) : Prop := rd t CWY_SELF_ID = rd s CWY_SELF_ID ∧ ∀ i, rd t (VRG_SLICE_CFG i) = rd s (VRG_SLICE_CFG i)

theorem SameMap.windowOk (h : SameMap s t) (sl o : Nat) : windowOk t sl o = windowOk s sl o := by
  simp only [Machine.windowOk, windowWays, rdf, h.2]
  rfl

theorem SameMap.selfId (h : SameMap s t) : selfId t = selfId s := by
  rw [Machine.selfId, rdf, h.1]
  rfl

theorem SameMap.localForm (h : SameMap s t) (a : Nat) : localForm t a = localForm s a := by
  rw [Machine.localForm, h.selfId]
  rfl

/-- Where an address of this device's local form leads. -/
def localSide (s : State) (l : Nat) (u : StreamId) (a n : Nat) (glob write : Bool) : Side :=
  if !rangeOk .core a n then .bad
  else match regionOf a with
    | .user => .verge a
    | .window sl o => if windowOk s sl o then .verge a else .bad
    | .scratch c o => if c = l then .own o else .scratch c o
    | .host => if glob then .bad else .host (hostXlat s (strOf s l u).owner a write)
    | _ => .bad

theorem sideOf_eq (s : State) (l : Nat) (u : StreamId) (a n : Nat) (w : Bool) : sideOf s l u a n w =
    if isGlobal a then
      if globalDev a = selfId s then localSide s l u (globalLocal a) n true w
      else if rdb s CWY_SELF_ID CWY_SELF_ID_id_valid then .peer a else .bad
    else localSide s l u a n false w := rfl

/-- Where a side leads depends on the map, the stream's channel and the host regions alone. -/
theorem SameMap.sideOf (h : SameMap s t) (hh : t.host = s.host) (ho : (strOf t l u).owner = (strOf s l u).owner) (a n : Nat)
    (w : Bool) : sideOf t l u a n w = sideOf s l u a n w := by
  have hx (a : Nat) (w : Bool) : hostXlat t (strOf t l u).owner a w = hostXlat s (strOf s l u).owner a w := by
    rw [ho]
    unfold hostXlat chanOf
    rw [hh]
  have hlocal (a : Nat) (g : Bool) : localSide t l u a n g w = localSide s l u a n g w := by
    unfold localSide
    simp only [hx, h.windowOk]
  rw [sideOf_eq, sideOf_eq, h.selfId, hlocal, hlocal, rdb, h.1, rdb]

theorem CORE_ECC_ne_of_mod {o : Nat} (h : o % 1024 = 0) (l : Nat) : o ≠ CORE_ECC l := by
  unfold CORE_ECC
  omega

/-- The counters of a core's scratchpad say nothing about the map. -/
theorem sameMap_scrCorrected (s : State) (l n : Nat) : SameMap s (scrCorrected s l n) := by
  refine ⟨rd_wr_other _ _ _ _ (CORE_ECC_ne_of_mod (by decide) l), fun i => rd_wr_other _ _ _ _ (CORE_ECC_ne_of_mod ?_ l)⟩
  unfold VRG_SLICE_CFG
  omega

theorem regionOf_of_localSide {a n o : Nat} {g w : Bool} (h : localSide s l u a n g w = .own o) : regionOf a = .scratch l o := by
  unfold localSide at h
  split at h
  · cases h
  split at h
  · cases h
  · split_ifs at h
  · next c o' hr =>
    split_ifs at h with hc
    rw [hr, hc, Side.own.inj h]
  · cases g <;> cases h
  · cases h

theorem isGlobal_globalLocal (a : Nat) : isGlobal (globalLocal a) = false := by
  have hlt : globalLocal a < 2 ^ 63 := lt_of_lt_of_le (Nat.mod_lt a (by decide)) (by decide)
  rw [isGlobal, Nat.div_eq_of_lt hlt]
  rfl

/-- A side in the core's own scratchpad is its own address, local or global. -/
theorem isOwn_of_sideOf {a n o : Nat} {w : Bool} (h : sideOf s l u a n w = .own o) : isOwn s l a = true := by
  have hown : ∀ b, localForm s a = b → isGlobal b = false → regionOf b = .scratch l o → isOwn s l a = true := by
    intro b hb hg hr
    rw [isOwn, hb, hg, hr]
    simp
  rw [sideOf_eq] at h
  split_ifs at h with hg hs
  · refine hown (globalLocal a) ?_ (isGlobal_globalLocal a) (regionOf_of_localSide h)
    simp [localForm, hg, hs]
  · refine hown a ?_ (by simpa using hg) (regionOf_of_localSide h)
    simp [localForm, hg]

/-! ### The next request -/

theorem nextLen_le (d : Desc) (a b : Bool) (src dst : Nat) : nextLen d a b src dst ≤ d.rowBytes - d.off := by
  cases a <;> cases b <;> simp [nextLen]

theorem nextLen_pos {d : Desc} (h : d.off < d.rowBytes) (a b : Bool) (src dst : Nat) : 0 < nextLen d a b src dst := by
  cases a <;> cases b <;> simp only [nextLen] <;> simp <;> omega

theorem nextLen_src (d : Desc) (b : Bool) (src dst : Nat) : src % 256 + nextLen d false b src dst ≤ 256 := by
  cases b <;> simp only [nextLen] <;> simp <;> omega

theorem nextLen_dst (d : Desc) (a : Bool) (src dst : Nat) : dst % 256 + nextLen d a false src dst ≤ 256 := by
  cases a <;> simp only [nextLen] <;> simp <;> omega

/-- The request that moves the next bytes of a descriptor outside a section. -/
def nextReq (s : State) (l : Nat) (u : StreamId) (id : Nat) (d : Desc) (src dst n : Nat) : Req :=
  { id := s.nextId, kind := .move, core := l, stream := u, desc := id, src := src, dst := dst, len := n, op := d.op
    epoch := d.epoch, noAlloc := d.noAlloc, prov := none, phase := .rdV }

/-- The request is listed, and its descriptor stands past it. -/
def listed (s : State) (l id n : Nat) (r : Req) : State :=
  modCore { s with nextId := s.nextId + 1, reqs := s.reqs ++ [r] } l
    (fun c => { c with descs := c.descs.map (fun x => if x.id = id then stepDesc x n else x) })

theorem strOf_listed (s : State) (l id n : Nat) (r : Req) (u : StreamId) : strOf (listed s l id n r) l u = strOf s l u := by
  rw [listed, strOf_modCore_of_keeps (fun v => by cases v <;> rfl)]
  rfl

/-- The conditions under which a descriptor's next request takes a slot. -/
structure Requests (s : State) (l : Nat) (u : StreamId) (id : Nat) (d : Desc) (src dst : Nat) : Prop where
  found : (coreOf s l).descs.find? (fun z => z.id == id && z.stream == u) = some d
  alive : d.dead = false
  row : d.row < d.rows
  free : (coreOf s l).held = false
  clocked : clockStopped s l = false
  noSlot : heldBySlot s l = false
  slot : slotFree s l u = true
  src_at : descAt d.src d.srcPitch d.row d.off src
  dst_at : descAt d.dst d.dstPitch d.row d.off dst

section
variable {id src dst : Nat} {d : Desc} {ecc : Ecc} (h : Requests s l u id d src dst)
include h

theorem Requests.goes : ¬ (d.dead = true ∨ d.row ≥ d.rows ∨ (coreOf s l).held = true ∨ clockStopped s l = true
    ∨ heldBySlot s l = true ∨ (!slotFree s l u) = true) := by
  obtain ⟨-, h1, h2, h3, h4, h5, h6, -, -⟩ := h
  simp [h1, h2, h3, h4, h5, h6]

/-- A source outside the address map is an address fault. -/
theorem requestIssue_bad (hs : sideOf s l u src (nextLen d (isOwn s l src) (isOwn s l dst) src dst) false = .bad) :
    requestIssue s l u id ecc = reqFault s l u id 0x04 src := by
  unfold requestIssue
  rw [h.found]
  dsimp only
  rw [if_neg h.goes]
  have hsrc := wrapN_of_descAt h.src_at
  have hdst := wrapN_of_descAt h.dst_at
  subst hsrc hdst
  exact if_pos hs

/-- A request from the core's own scratchpad: it is listed and goes to its destination with the bytes read. -/
theorem requestIssue_own {o n : Nat} (hn : n = nextLen d (isOwn s l src) (isOwn s l dst) src dst)
    (hs : sideOf s l u src n false = .own o) (hp : (if isOwn s l dst then none else d.prov) = none)
    (hd : sideOf s l u dst n true ≠ .bad) (hr : sideOf s l u dst n true ≠ .host .refused) (hg : goodWords s l o n)
    (he : ecc ≠ .uncorrectable) : ∃ k, requestIssue s l u id ecc
      = toDest (scrCorrected (listed s l id n (nextReq s l u id d src dst n)) l k) (nextReq s l u id d src dst n)
          (scrRead (listed s l id n (nextReq s l u id d src dst n)) l o n) := by
  have hbad : scrBad (listed s l id n (nextReq s l u id d src dst n)) l o n ecc = none := by
    have hfind : (coreOf (listed s l id n (nextReq s l u id d src dst n)) l).bad.find?
        (fun w => decide (w < o + n) && decide (o < w + 8)) = none := by
      rw [listed, coreOf_modCore_self, List.find?_eq_none]
      intro w hw
      have := hg w hw
      simp
      omega
    rw [scrBad, hfind]
    exact if_neg he
  refine ⟨eccCorrected ecc + scrSoft (listed s l id n (nextReq s l u id d src dst n)) l o n, ?_⟩
  unfold requestIssue
  rw [h.found]
  dsimp only
  rw [if_neg h.goes]
  have hsrc := wrapN_of_descAt h.src_at
  have hdst := wrapN_of_descAt h.dst_at
  subst hsrc hdst
  simp only [listed, nextReq] at hbad ⊢
  simp only [← hn, hp, hs, reduceCtorEq, if_false, Option.isSome_none, Bool.false_and, Bool.false_eq_true, hd, hr]
  rw [hbad]

end

/-! ### Where a request goes with its bytes -/

/-- The bytes of a request leave memory and every register as they were; a free value may stand in for bytes that overlap. -/
theorem carried_cases (t : State) (r : Req) (d0 : List Byte) : ∃ d k,
    (if r.op = 0 then movedData t r.core r d0 else (d0, t)) = (d, { t with free := k }) := by
  split_ifs
  · unfold movedData
    split
    · exact ⟨_, t.free, rfl⟩
    · dsimp only
      split_ifs
      · exact ⟨_, _, rfl⟩
      · exact ⟨_, t.free, rfl⟩
  · exact ⟨_, t.free, rfl⟩

theorem sideOf_free (t : State) (k l : Nat) (u : StreamId) (a n : Nat) (w : Bool) :
    sideOf { t with free := k } l u a n w = sideOf t l u a n w := rfl

theorem cchUpdate_only (t : State) (c a : Nat) (d : List Byte) : cchUpdate t c a d = { t with halves := (cchUpdate t c a d).halves } := by
  simp only [cchUpdate, List.foldl_cons, List.foldl_nil]
  split_ifs <;> rfl

section
variable {r : Req} (d0 : List Byte) (hb : r.bad = false)
include hb

theorem toDest_own {o : Nat} (h : sideOf t r.core r.stream r.dst r.len true = .own o) : ∃ d k, toDest t r d0
    = putReq { t with free := k, nextId := t.nextId + 1 } { r with data := d, fresh := false, phase := .fin, sent := t.nextId } := by
  obtain ⟨d, k, hc⟩ := carried_cases t r d0
  refine ⟨d, k, ?_⟩
  simp only [toDest, hc, hb, Bool.false_and, Bool.false_eq_true, if_false, sideOf_free, h]

theorem toDest_verge {a : Nat} (h : sideOf t r.core r.stream r.dst r.len true = .verge a) : ∃ d k halves, toDest t r d0
    = enterMesh { t with free := k, halves := halves } { r with data := d, fresh := false, dst := a } .wrV := by
  obtain ⟨d, k, hc⟩ := carried_cases t r d0
  simp only [toDest, hc, hb, Bool.false_and, Bool.false_eq_true, if_false, sideOf_free, h]
  split_ifs
  · exact ⟨d, k, _, congrArg (enterMesh · _ .wrV) (cchUpdate_only ..)⟩
  · exact ⟨d, k, t.halves, rfl⟩

theorem toDest_peer {a : Nat} (h : sideOf t r.core r.stream r.dst r.len true = .peer a) : ∃ d k q, toDest t r d0
    = askMove (putReq { t with free := k } q) q true ∧ q = { r with data := d, fresh := false, phase := .ext, tag := q.tag } := by
  obtain ⟨d, k, hc⟩ := carried_cases t r d0
  refine ⟨d, k, { Req.stick { r with data := d, fresh := false } 6 with phase := .ext }, ?_, ?_⟩
  · simp only [toDest, hc, hb, Bool.false_and, Bool.false_eq_true, if_false, sideOf_free, h]
  · simp only [Req.stick]
    split_ifs <;> rfl

end

/-- A listed request that has not met its number before is the one that a change of it changes. -/
theorem map_append_fresh {rs : List Req} {r q : Req} (hf : ∀ p ∈ rs, p.id ≠ r.id) :
    (rs ++ [r]).map (fun p => if p.id = r.id then q else p) = rs ++ [q] := by
  have hrs : rs.map (fun p => if p.id = r.id then q else p) = rs := by
    conv_rhs => rw [← List.map_id rs]
    exact List.map_congr_left fun p hp => if_neg (hf p hp)
  rw [List.map_append, hrs, List.map_singleton, if_pos rfl]

theorem putReq_reqs (t : State) (r : Req) : (putReq t r).reqs = t.reqs.map (fun q => if q.id = r.id then r else q) := rfl

/-- The descriptor after its request: past it. -/
theorem find_stepped {ds : List Desc} {id n : Nat} {d : Desc} (h : ds.find? (fun z => z.id == id && z.stream == u) = some d) :
    (ds.map (fun x => if x.id = id then stepDesc x n else x)).find? (fun z => z.id == id && z.stream == u) = some (stepDesc d n) := by
  have hstep (x : Desc) : (stepDesc x n).id = x.id ∧ (stepDesc x n).stream = x.stream := by
    unfold stepDesc
    split_ifs <;> exact ⟨rfl, rfl⟩
  have hcomp : (fun z : Desc => z.id == id && z.stream == u) ∘ (fun x => if x.id = id then stepDesc x n else x)
      = fun z => z.id == id && z.stream == u := by
    funext x
    dsimp only [Function.comp]
    split_ifs
    · rw [(hstep x).1, (hstep x).2]
    · rfl
  have hid : d.id = id := by
    have := List.find?_some h
    simp only [Bool.and_eq_true, beq_iff_eq] at this
    exact this.1
  rw [List.find?_map, hcomp, h, Option.map_some, if_pos hid]

/-- A corrected scratchpad word changes its counter alone. -/
theorem scrCorrected_only (s : State) (l k : Nat) : scrCorrected s l k = { s with cfg := (scrCorrected s l k).cfg } := by
  rw [scrCorrected, countSat]
  rfl

theorem scrCorrected_cores (s : State) (l k : Nat) : (scrCorrected s l k).cores = s.cores := by rw [scrCorrected, countSat_cores]

theorem scrCorrected_host (s : State) (l k : Nat) : (scrCorrected s l k).host = s.host := by rw [scrCorrected, countSat_host]

theorem scrCorrected_nextId (s : State) (l k : Nat) : (scrCorrected s l k).nextId = s.nextId := by
  rw [scrCorrected, countSat_nextId]

theorem listed_reqs (s : State) (l id m : Nat) (r : Req) : (listed s l id m r).reqs = s.reqs ++ [r] := rfl

theorem scrCorrected_reqs (s : State) (l k : Nat) : (scrCorrected s l k).reqs = s.reqs := by rw [scrCorrected, countSat_reqs]

/-- A listed request changes nothing that its sides depend on. -/
theorem sideOf_listed (s : State) (l id m k : Nat) (r : Req) (u : StreamId) (a n : Nat) (w : Bool) :
    sideOf (scrCorrected (listed s l id m r) l k) l u a n w = sideOf s l u a n w := by
  have hmap : SameMap s (scrCorrected (listed s l id m r) l k) := sameMap_scrCorrected (listed s l id m r) l k
  have hstr : strOf (scrCorrected (listed s l id m r) l k) l u = strOf s l u :=
    (strOf_of_cores (scrCorrected_cores ..) l u).trans (strOf_listed ..)
  exact hmap.sideOf (scrCorrected_host ..) (congrArg Stream.owner hstr) a n w

/-- A state in which a request has been listed: nothing else of the requests, and nothing of memory, has changed. -/
def HasListed (s t : State) (l id n : Nat) (r : Req) : Prop :=
  t.reqs = s.reqs ++ [r] ∧ t.mem = s.mem ∧ s.nextId < t.nextId ∧ coreOf t l = coreOf (listed s l id n r) l

theorem hasListed_of (s : State) (l id n k f : Nat) (halves : SMap Half) (m : Nat) (r : Req) :
    HasListed s { scrCorrected (listed s l id n r) l k with
      halves := halves, free := f, nextId := (scrCorrected (listed s l id n r) l k).nextId + m } l id n r := by
  have hreqs := (scrCorrected_reqs (listed s l id n r) l k).trans (listed_reqs s l id n r)
  have hmem : (scrCorrected (listed s l id n r) l k).mem = s.mem := by rw [scrCorrected, countSat_mem, listed, modCore_mem]
  have hid : (scrCorrected (listed s l id n r) l k).nextId = s.nextId + 1 := by rw [scrCorrected_nextId, listed, modCore_nextId]
  have hcores := scrCorrected_cores (listed s l id n r) l k
  generalize scrCorrected (listed s l id n r) l k = v at hreqs hmem hid hcores
  exact ⟨hreqs, hmem, by dsimp only; omega, coreOf_of_cores hcores l⟩

section
variable {id src dst n o : Nat} {d : Desc} {ecc : Ecc} (h : Requests s l u id d src dst)
  (hn : n = nextLen d (isOwn s l src) (isOwn s l dst) src dst) (hs : sideOf s l u src n false = .own o)
  (hg : goodWords s l o n) (he : ecc ≠ .uncorrectable)
include h hn hs hg he

/-- A request from the own scratchpad to the own scratchpad has its data. -/
theorem requestIssue_own_own {o' : Nat} (hd : sideOf s l u dst n true = .own o') : ∃ t q,
    requestIssue s l u id ecc = putReq t q ∧ HasListed s t l id n (nextReq s l u id d src dst n)
      ∧ ∃ b i, q = { nextReq s l u id d src dst n with data := b, fresh := false, phase := .fin, sent := i } := by
  have hown : (if isOwn s l dst then none else d.prov) = none := if_pos (isOwn_of_sideOf hd)
  obtain ⟨k, hk⟩ := requestIssue_own h hn hs hown (by rw [hd]; exact Side.noConfusion) (by rw [hd]; exact Side.noConfusion) hg he
  have hside := (sideOf_listed s l id n k (nextReq s l u id d src dst n) u dst n true).trans hd
  obtain ⟨b, f, hto⟩ := toDest_own (r := nextReq s l u id d src dst n)
    (scrRead (listed s l id n (nextReq s l u id d src dst n)) l o n) rfl hside
  exact ⟨_, _, hk.trans hto, hasListed_of s l id n k f _ 1 _, b, _, rfl⟩

/-- A request from the own scratchpad to memory is on its way to its slice. -/
theorem requestIssue_own_verge {a : Nat} (hp : d.prov = none) (hd : sideOf s l u dst n true = .verge a) : ∃ t q,
    requestIssue s l u id ecc = putReq t q ∧ HasListed s t l id n (nextReq s l u id d src dst n)
      ∧ ∃ b i, q = { nextReq s l u id d src dst n with
        data := b, fresh := false, dst := a, phase := .wrV, sent := i, here := false, hold := 0 } := by
  obtain ⟨k, hk⟩ := requestIssue_own h hn hs (by rw [hp, ite_self]) (by rw [hd]; exact Side.noConfusion)
    (by rw [hd]; exact Side.noConfusion) hg he
  have hside := (sideOf_listed s l id n k (nextReq s l u id d src dst n) u dst n true).trans hd
  obtain ⟨b, f, halves, hto⟩ := toDest_verge (r := nextReq s l u id d src dst n)
    (scrRead (listed s l id n (nextReq s l u id d src dst n)) l o n) rfl hside
  exact ⟨_, _, hk.trans hto, hasListed_of s l id n k f halves 1 _, b, _, rfl⟩

/-- A request from the own scratchpad to another device is asked of it. -/
theorem requestIssue_own_peer {a : Nat} (hp : d.prov = none) (hd : sideOf s l u dst n true = .peer a) : ∃ t q,
    requestIssue s l u id ecc = askMove (putReq t q) q true ∧ HasListed s t l id n (nextReq s l u id d src dst n)
      ∧ ∃ b, q = { nextReq s l u id d src dst n with data := b, fresh := false, phase := .ext, tag := q.tag } := by
  obtain ⟨k, hk⟩ := requestIssue_own h hn hs (by rw [hp, ite_self]) (by rw [hd]; exact Side.noConfusion)
    (by rw [hd]; exact Side.noConfusion) hg he
  have hside := (sideOf_listed s l id n k (nextReq s l u id d src dst n) u dst n true).trans hd
  obtain ⟨b, f, q, hto, hq⟩ := toDest_peer (r := nextReq s l u id d src dst n)
    (scrRead (listed s l id n (nextReq s l u id d src dst n)) l o n) rfl hside
  exact ⟨_, q, hk.trans hto, hasListed_of s l id n k f _ 0 _, b, hq⟩

end

/-- The listed request, once it has gone on. -/
theorem HasListed.reqs_putReq {id n : Nat} {r q : Req} (h : HasListed s t l id n r) (hq : q.id = r.id)
    (hf : ∀ p ∈ s.reqs, p.id ≠ r.id) : (putReq t q).reqs = s.reqs ++ [q] := by
  obtain ⟨hr, -⟩ := h
  rw [putReq_reqs, hr, hq]
  exact map_append_fresh hf

theorem HasListed.mem {id n : Nat} {r : Req} (h : HasListed s t l id n r) : t.mem = s.mem := h.2.1

theorem HasListed.nextId {id n : Nat} {r : Req} (h : HasListed s t l id n r) : s.nextId < t.nextId := h.2.2.1

theorem HasListed.descs {id n : Nat} {r : Req} (h : HasListed s t l id n r) :
    (coreOf t l).descs = (coreOf s l).descs.map (fun x => if x.id = id then stepDesc x n else x) := by
  obtain ⟨-, -, -, hc⟩ := h
  rw [hc, listed, coreOf_modCore_self]
  rfl

theorem askMove_reqs {q : Req} {w : Bool} :
    (askMove t q w).reqs = t.reqs ∨ (askMove t q w).reqs = t.reqs.map (answeredMove q.id 2 []) := by
  unfold askMove
  exact ask_move_reqs rfl

/-- Settles O15. -/
theorem movementRequestsIssue : Obligations.MovementRequestsIssue := by
  unfold Obligations.MovementRequestsIssue
  intro l u id ecc d src dst s hl hfound hdead hrow hoff hheld hclk hslot hfree hsrc hdst n
  have h : Requests s l u id d src dst := ⟨hfound, hdead, hrow, hheld, hclk, hslot, hfree, hsrc, hdst⟩
  have runs : exec (.movementRequestIssue l u id ecc) s = .next (requestIssue s l u id ecc) := onCore_lt _ _ hl
  have hn : n = nextLen d (isOwn s l src) (isOwn s l dst) src dst := rfl
  have hle : n ≤ d.rowBytes - d.off := nextLen_le ..
  clear_value n
  refine ⟨hn ▸ nextLen_pos hoff .., by omega, fun ho => ?_, fun ho => ?_, ?own, ?peer, ?verge, fun hs => ?bad⟩
  · rw [hn, ho]
    exact nextLen_src ..
  · rw [hn, ho]
    exact nextLen_dst ..
  case own =>
    intro o o' hs hd hg he hf
    obtain ⟨t, q, ht, hlist, b, i, hq⟩ := requestIssue_own_own h hn hs hg he hd
    have hdescs := find_stepped (n := n) hfound
    rw [← hlist.descs] at hdescs
    have hmem := hlist.mem
    have hid := hlist.nextId
    subst hq
    rw [ht] at runs
    refine ⟨_, _, stepDesc d n, runs, hlist.reqs_putReq rfl hf, rfl, rfl, rfl, rfl, rfl, rfl, rfl, rfl, hid, hmem, hdescs,
      fun hlt => if_neg (by omega), fun heq => if_pos (by omega)⟩
  case peer =>
    intro o p hs hd hp hg he hf
    obtain ⟨t, q, ht, hlist, b, hq⟩ := requestIssue_own_peer h hn hs hg he hp hd
    have hasked := askMove_reqs (t := putReq t q) (q := q) (w := true)
    rw [hlist.reqs_putReq (by rw [hq]) hf] at hasked
    rw [ht] at runs
    rcases hasked with hasked | hasked
    · exact ⟨_, q, runs, by rw [hasked]; simp, by rw [hq]; rfl, by rw [hq]; rfl, by rw [hq]; rfl, by rw [hq]; rfl, by rw [hq]; rfl,
        by rw [hq]; rfl, .inl (by rw [hq])⟩
    · refine ⟨_, answeredMove q.id 2 [] q, runs, ?_, ?_⟩
      · rw [hasked, List.map_append]
        simp
      · rw [answeredMove, if_pos rfl]
        exact ⟨by rw [hq]; rfl, by rw [hq]; rfl, by rw [hq]; rfl, by rw [hq]; rfl, by rw [hq]; rfl, by rw [hq]; rfl, .inr rfl⟩
  case verge =>
    intro o a hs hd hp hg he hf
    obtain ⟨t, q, ht, hlist, b, i, hq⟩ := requestIssue_own_verge h hn hs hg he hp hd
    have hmem := hlist.mem
    subst hq
    rw [ht] at runs
    exact ⟨_, _, runs, hlist.reqs_putReq rfl hf, rfl, rfl, rfl, rfl, rfl, rfl, rfl, hmem⟩
  case bad =>
    rw [hn] at hs
    refine ⟨_, runs, ?_, fun ht => ?_, fun ht => ?_⟩
    · rw [requestIssue_bad h hs, reqFault_mem]
    · rw [requestIssue_bad h hs, strOf_reqFault_untied ht]
    · rw [requestIssue_bad h hs]
      exact strOf_reqFault_tied ht ..

end Sys2Proof.Machine
end

section
/-! PROOFS. The ends of movement requests (R97, R102, R103, R147, R270). -/

namespace Sys2Proof.Machine
open Sys2Proof.Laws

variable {s t : State} {l : Nat} {u : StreamId}

/-! ### What the check for deadlock keeps of its core -/

/-- Descriptors of the same numbers: halts may end some, and take none away. -/
def descIds (c : CoreSt) : List Nat := c.descs.map (·.id)

theorem descIds_abandon (c : CoreSt) (u : StreamId) : descIds (c.abandon u) = descIds c := by
  simp only [descIds, CoreSt.abandon, List.map_map]
  refine List.map_congr_left fun d _ => ?_
  simp only [Function.comp]
  split_ifs <;> rfl

theorem descIds_setStr (c : CoreSt) (u : StreamId) (z : Stream) : descIds (c.setStr u z) = descIds c := by
  rw [descIds, coreSetStr_descs, descIds]

theorem descIds_haltStream (s : State) (l : Nat) (u : StreamId) (c : HaltCause) (k : Nat) :
    descIds (coreOf (haltStream s l u c k) l) = descIds (coreOf s l) := by
  by_cases h : (strOf s l u).live = true
  · rw [coreOf_haltStream_live c k h, descIds_abandon, descIds_setStr]
  · rw [haltStream_not_live c k (by simpa using h)]

theorem ctrs_haltStream (s : State) (l : Nat) (u : StreamId) (c : HaltCause) (k : Nat) :
    (coreOf (haltStream s l u c k) l).ctrs = (coreOf s l).ctrs := by
  by_cases h : (strOf s l u).live = true
  · rw [coreOf_haltStream_live c k h, CoreSt.abandon, coreSetStr_ctrs]
  · rw [haltStream_not_live c k (by simpa using h)]

/-- A view of a core that a halt keeps, the check for deadlock keeps. -/
theorem deadlockCheck_keeps {β : Type} {view : CoreSt → β}
    (h : ∀ s u c k, view (coreOf (haltStream s l u c k) l) = view (coreOf s l)) (s : State) :
    view (coreOf (deadlockCheck s l) l) = view (coreOf s l) := by
  obtain ⟨hd, -⟩ | ⟨-, w, hd⟩ := deadlockCheck_cases s l <;> rw [hd]
  refine (foldl_keeps (fun s => view (coreOf s l)) (fun s u => ?_) _ _).trans (by rw [coreOf_wr])
  rw [haltStuck, coreOf_raiseEvent, h]

@[simp] theorem deadlockCheck_ctrs (s : State) (l : Nat) : (coreOf (deadlockCheck s l) l).ctrs = (coreOf s l).ctrs :=
  deadlockCheck_keeps (view := CoreSt.ctrs) (fun s u c k => ctrs_haltStream s l u c k) s

@[simp] theorem deadlockCheck_descIds (s : State) (l : Nat) : descIds (coreOf (deadlockCheck s l) l) = descIds (coreOf s l) :=
  deadlockCheck_keeps (fun s u c k => descIds_haltStream s l u c k) s

/-! ### A descriptor whose last request has ended (R102) -/

theorem not_mem_descIds_withoutDesc (id : Nat) (c : CoreSt) : id ∉ descIds (withoutDesc id c) := by
  simp [descIds, withoutDesc]

theorem coreOf_withoutDesc_deadHint (s : State) (l : Nat) (d : Desc) (id : Nat) :
    coreOf (modCore (if d.deadSrc && d.op == 0 then deadHint s l d else s) l (withoutDesc id)) l = withoutDesc id (coreOf s l) := by
  rw [coreOf_modCore_self]
  split_ifs
  · rw [coreOf_of_cores (deadHint_cores ..)]
  · rfl

/-- With the last request of a descriptor its counter rises by one, and it is gone. -/
theorem finishDesc_completes {id e : Nat} {d : Desc} (hd : (coreOf s l).descs.find? (fun z => z.id == id) = some d)
    (hdead : d.dead = false) (hrows : d.rows ≤ d.row) (hctr : d.ctr = some e) (ho : outstanding s l id = []) :
    smGet 0 (coreOf (finishDesc s l id) l).ctrs e = min (smGet 0 (coreOf s l).ctrs e + 1) 0xFFFF
      ∧ ∀ z ∈ (coreOf (finishDesc s l id) l).descs, z.id ≠ id := by
  have hfin : finishDesc s l id = deadlockCheck (raiseCtr (modCore (if d.deadSrc && d.op == 0 then deadHint s l d else s) l
      (withoutDesc id)) l e 1) l := by
    simp only [finishDesc, hd, ho, List.isEmpty_nil, Bool.not_true, Bool.false_eq_true, if_false, hdead, hctr,
      if_neg (Nat.not_lt.2 hrows)]
    rfl
  have hcore := coreOf_withoutDesc_deadHint s l d id
  rw [hfin]
  refine ⟨?_, fun z hz hid => ?_⟩
  · rw [deadlockCheck_ctrs, smGet_raiseCtr_self, hcore]
    rfl
  · have hin : z.id ∈ descIds (coreOf (deadlockCheck (raiseCtr (modCore (if d.deadSrc && d.op == 0 then deadHint s l d else s) l
        (withoutDesc id)) l e 1) l) l) := List.mem_map_of_mem hz
    rw [deadlockCheck_descIds, coreOf_raiseCtr, hid, hcore] at hin
    exact not_mem_descIds_withoutDesc id _ hin

/-! ### Bytes that arrive in a scratchpad (R97) -/

theorem memRead_memWrite (m : Mem) (a : Nat) (d : List Byte) : memRead (memWrite m a d) a d.length = d := by
  have hlen : (memRead (memWrite m a d) a d.length).length = d.length := by simp [memRead, upto]
  refine List.ext_getElem hlen fun i h1 h2 => ?_
  simp only [memRead, upto, List.getElem_map, List.getElem_range]
  exact memByte_memWrite_inside m a i d h2

theorem scrWrite_mem (s : State) (l o : Nat) (d : List Byte) : (scrWrite s l o d).mem = memWrite s.mem (scratchAddr l o) d := by
  simp only [scrWrite]
  split_ifs <;> rfl

theorem scrMerge_mem (s : State) (l o : Nat) (d : List Byte) (e : Ecc) : (scrMerge s l o d e).mem = memWrite s.mem (scratchAddr l o) d := by
  have hmem (k : Nat) : (scrWrite (scrCorrected s l k) l o d).mem = memWrite s.mem (scratchAddr l o) d := by
    rw [scrWrite_mem, scrCorrected, countSat_mem]
  simp only [scrMerge]
  split_ifs
  · exact hmem _
  · rw [modCore_mem, hmem]

theorem scrMerge_reqs (s : State) (l o : Nat) (d : List Byte) (e : Ecc) : (scrMerge s l o d e).reqs = s.reqs := by
  have hreqs (k : Nat) : (scrWrite (scrCorrected s l k) l o d).reqs = s.reqs := by
    simp only [scrWrite]
    split_ifs
    · rw [modMem_reqs, scrCorrected_reqs]
    · rw [modCore_reqs, modMem_reqs, scrCorrected_reqs]
  simp only [scrMerge]
  split_ifs
  · exact hreqs _
  · rw [modCore_reqs, hreqs]

/-- A write of a scratchpad changes of its core at most which words are bad or soft. -/
theorem coreOf_scrMerge (s : State) (l o : Nat) (d : List Byte) (e : Ecc) :
    ∃ b f, coreOf (scrMerge s l o d e) l = { coreOf s l with bad := b, soft := f } := by
  have hwrite (k : Nat) : ∃ b f, coreOf (scrWrite (scrCorrected s l k) l o d) l = { coreOf s l with bad := b, soft := f } := by
    have hc : coreOf (scrCorrected s l k) l = coreOf s l := coreOf_of_cores (scrCorrected_cores ..) l
    simp only [scrWrite]
    split_ifs
    · exact ⟨(coreOf s l).bad, (coreOf s l).soft, by rw [coreOf_modMem, hc]⟩
    · rw [coreOf_modCore_self, coreOf_modMem, hc]
      exact ⟨_, _, rfl⟩
  simp only [scrMerge]
  split_ifs
  · exact hwrite _
  · obtain ⟨b, f, h⟩ := hwrite (eccCorrected e + ((coreOf s l).soft.filter (fun w => decide (w < o + d.length) && decide (o < w + 8)
      && !(decide (o ≤ w) && decide (w + 8 ≤ o + d.length)))).length)
    rw [coreOf_modCore_self, h]
    exact ⟨_, _, rfl⟩

/-- No word that a write fills in part is uncorrectable. -/
theorem scrEdge_none {o n : Nat} {e : Ecc} (hg : goodWords s l o n) (he : e ≠ .uncorrectable ∨ o % 8 = 0 ∧ n % 8 = 0) :
    scrEdge s l o n e = none := by
  have hfind : (([o / 8 * 8, (o + n - 1) / 8 * 8].filter (fun w => decide (0 < n) && !(decide (o ≤ w) && decide (w + 8 ≤ o + n)))).dedup).find?
      ((coreOf s l).bad.contains ·) = none := by
    rw [List.find?_eq_none]
    intro w hw hbad
    have hmem := List.mem_dedup.1 hw
    simp only [List.mem_filter, List.mem_cons, List.not_mem_nil, or_false, Bool.and_eq_true, decide_eq_true_eq] at hmem
    obtain ⟨hw, hn, -⟩ := hmem
    have := hg w (by simpa using hbad)
    omega
  simp only [scrEdge, hfind]
  split_ifs with hu
  · obtain ⟨h1, h2⟩ := he.resolve_left (not_not.2 hu)
    have hnone : [o / 8 * 8, (o + n - 1) / 8 * 8].filter (fun w => decide (0 < n) && !(decide (o ≤ w) && decide (w + 8 ≤ o + n))) = [] := by
      rw [List.filter_eq_nil_iff]
      intro w hw
      simp only [List.mem_cons, List.not_mem_nil, or_false] at hw
      simp only [Bool.and_eq_true, decide_eq_true_eq, Bool.not_eq_true', Bool.and_eq_false_iff, decide_eq_false_iff_not, not_and]
      omega
    rw [hnone]
    rfl
  · rfl

/-! ### A request is found by its number -/

theorem reqOf_id {id : Nat} {r : Req} (h : reqOf s id = some r) : r.id = id := by simpa using List.find?_some h

theorem dropReq_reqs (s : State) (id : Nat) : (dropReq s id).reqs = s.reqs.filter (fun q => q.id ≠ id) := rfl

theorem mem_dropReq {id : Nat} {q : Req} : q ∈ (dropReq s id).reqs ↔ q ∈ s.reqs ∧ q.id ≠ id := by
  rw [dropReq_reqs, List.mem_filter]
  simp

theorem coreOf_dropReq (s : State) (id l : Nat) : coreOf (dropReq s id) l = coreOf s l := rfl

theorem strOf_dropReq (s : State) (id l : Nat) (u : StreamId) : strOf (dropReq s id) l u = strOf s l u := rfl

theorem tiedWith_dropReq {id : Nat} : tiedWith (dropReq s id) l u ↔ tiedWith s l u := Iff.rfl

section
variable {id : Nat} {r : Req} (hr : reqOf s id = some r) (hc : r.core = l) (hk : r.kind = .move) (hp : r.phase = .fin)
  (hclk : clockStopped s l = false)
include hr hc hk hp hclk

/-- A request that ended with a fault faults. -/
theorem movementDone_failed (a : Answer) (hcode : r.code ≠ 0) : ∃ b, movementDone s l id a
    = reqFault (dropReq s id) l r.stream r.desc r.code b := by
  refine ⟨if r.fresh then r.src else r.dst, ?_⟩
  simp only [movementDone, hr, hc, hk, hclk, hp]
  simp [hcode]

/-- A request whose bytes are sound writes them to the core's own scratchpad and gives up its slot. -/
theorem movementDone_own (a : Answer) {o : Nat} (hcode : r.code = 0) (hs : sideOf s l r.stream r.dst r.len true = .own o)
    (hw : r.bad = false ∧ a.wbOk = true ∨ cacheable r.src = false ∧ isGlobal r.src = false)
    (he : scrEdge s l o r.data.length a.ecc = none) : movementDone s l id a = retireReq (scrMerge s l o r.data a.ecc) r := by
  have hsound : ((r.bad || !a.wbOk) && (cacheable r.src || isGlobal r.src)) = false := by
    rcases hw with ⟨h1, h2⟩ | ⟨h1, h2⟩ <;> simp [h1, h2]
  simp only [movementDone, hr, hc, hk, hclk, hp, hcode, hs, hsound]
  simp [brought, he]

end

/-- Settles O16. -/
theorem movementRequestsEnd : Obligations.MovementRequestsEnd := by
  unfold Obligations.MovementRequestsEnd
  refine ⟨?own, ?failed, ?waited⟩
  case own =>
    intro l id o a r s hl hr hc hk hp hcode hlen hs hclk hw hg he
    have hid := reqOf_id hr
    have hdone := movementDone_own hr hc hk hp hclk a hcode hs hw (scrEdge_none (by rwa [hlen]) (by rwa [hlen]))
    have hmem : (movementDone s l id a).mem = memWrite s.mem (scratchAddr l o) r.data := by
      rw [hdone, retireReq, finishDesc_mem]
      exact scrMerge_mem ..
    refine ⟨movementDone s l id a, onCore_lt _ _ hl, fun q hq => ?_, ?_, fun b hb => ?_, fun d e hd hdead hrows hctr hlast => ?_⟩
    · rw [hdone, retireReq, finishDesc_reqs, hid] at hq
      exact (mem_dropReq.1 hq).2
    · rw [scrRead, hmem, ← hlen, memRead_memWrite]
    · rw [hmem]
      exact memByte_memWrite_outside _ _ _ _ (by rwa [hlen])
    · obtain ⟨w, f, hcore⟩ := coreOf_scrMerge s l o r.data a.ecc
      have hout : outstanding (dropReq (scrMerge s l o r.data a.ecc) id) l r.desc = [] := by
        rw [outstanding, List.filter_eq_nil_iff]
        intro q hq
        obtain ⟨hq, hne⟩ := mem_dropReq.1 hq
        rw [scrMerge_reqs] at hq
        simpa using hlast q hq hne
      have hdesc : (coreOf (dropReq (scrMerge s l o r.data a.ecc) id) l).descs.find? (fun z => z.id == r.desc) = some d := by
        rw [coreOf_dropReq, hcore]
        exact hd
      have hctrs : (coreOf (dropReq (scrMerge s l o r.data a.ecc) id) l).ctrs = (coreOf s l).ctrs := by rw [coreOf_dropReq, hcore]
      rw [hdone, retireReq, hid, hc, ← hctrs]
      exact finishDesc_completes hdesc hdead hrows hctr hout
  case failed =>
    intro l id a r s hl hr hc hk hp hcode hclk ht
    obtain ⟨b, hdone⟩ := movementDone_failed hr hc hk hp hclk a hcode
    refine ⟨movementDone s l id a, onCore_lt _ _ hl, ?_, fun q hq => ?_, ?_⟩
    · rw [hdone, strOf_reqFault_untied (tiedWith_dropReq.not.2 ht), strOf_dropReq]
    · rw [hdone, reqFault_reqs] at hq
      exact (mem_dropReq.1 hq).2
    · rw [hdone, reqFault_mem]; rfl
  case waited =>
    intro id r s hr hp hw hprov ht
    have hdone : provTimeout s id = reqFault (dropReq s id) r.core r.stream r.desc 0x70 r.dst := by
      simp only [provTimeout, hr]
      exact if_pos ⟨hp, hw, hprov⟩
    refine ⟨provTimeout s id, rfl, ?_, fun q hq => ?_, ?_⟩
    · rw [hdone, strOf_reqFault_untied (tiedWith_dropReq.not.2 ht), strOf_dropReq]
    · rw [hdone, reqFault_reqs] at hq
      exact (mem_dropReq.1 hq).2
    · rw [hdone, reqFault_mem]; rfl

end Sys2Proof.Machine
end

section
/-! PROOFS. Lines and sectors of Verge (R264 to R269): what a slice reads after a change of it, and what an access does where no
reduction is pending. -/

namespace Sys2Proof.Machine
open Sys2Proof.Laws

variable {s t : State} {l : Nat}

/-! ### Lines -/

theorem findLine_line {v : VLine} (h : findLine s l = some v) : v.line = l := by simpa using List.find?_some h

theorem findLine_of_slices (h : t.slices = s.slices) (l : Nat) : findLine t l = findLine s l := by
  simp only [findLine, sliceOf, h]

theorem findSector_of_slices (h : t.slices = s.slices) (sec : Nat) : findSector t sec = findSector s sec := by
  simp only [findSector, findLine_of_slices h]

theorem flawV_of_slices (h : t.slices = s.slices) (sec : Nat) : flawV t sec = flawV s sec := by
  simp only [flawV, findLine_of_slices h]

/-- A change of the lines of one slice that keeps, for line `l`, what is found. -/
theorem findLine_setSlice_keeps {i : Nat} {x : Slice} {l : Nat}
    (h : sliceOfLine l = i → x.lines.find? (fun v => v.line == l) = (sliceOf s i).lines.find? (fun v => v.line == l)) :
    findLine (setSlice s i x) l = findLine s l := by
  rw [findLine, sliceOf_setSlice, findLine]
  split_ifs with hi
  · rw [h hi, hi]
  · rfl

theorem find_map_replace {ls : List VLine} {v w : VLine} (h : ls.find? (fun z => z.line == v.line) = some w) :
    (ls.map (fun z => if z.line = v.line then v else z)).find? (fun z => z.line == v.line) = some v := by
  induction ls with
  | nil => cases h
  | cons z zs ih =>
    rw [List.map_cons]
    by_cases hz : z.line = v.line
    · rw [if_pos hz, List.find?_cons_of_pos (by simp)]
    · rw [if_neg hz, List.find?_cons_of_neg (by simpa using hz)]
      rw [List.find?_cons_of_neg (by simpa using hz)] at h
      exact ih h

theorem find_map_replace_other {ls : List VLine} {v : VLine} {l : Nat} (h : l ≠ v.line) :
    (ls.map (fun z => if z.line = v.line then v else z)).find? (fun z => z.line == l) = ls.find? (fun z => z.line == l) := by
  induction ls with
  | nil => rfl
  | cons z zs ih =>
    rw [List.map_cons]
    by_cases hz : z.line = v.line
    · rw [if_pos hz, List.find?_cons_of_neg (by simpa using Ne.symm h), List.find?_cons_of_neg (by rw [hz]; simpa using Ne.symm h), ih]
    · rw [if_neg hz]
      by_cases hl : z.line = l
      · rw [List.find?_cons_of_pos (by simpa using hl), List.find?_cons_of_pos (by simpa using hl)]
      · rw [List.find?_cons_of_neg (by simpa using hl), List.find?_cons_of_neg (by simpa using hl), ih]

/-- A line that has been put is found. -/
theorem findLine_putLine_self {v w : VLine} (hl : v.line = l) (h : findLine s l = some w) : findLine (putLine s v) l = some v := by
  subst hl
  rw [findLine, putLine, sliceOf_setSlice, if_pos rfl]
  exact find_map_replace h

theorem findLine_putLine_other (s : State) {v : VLine} {l : Nat} (h : l ≠ v.line) : findLine (putLine s v) l = findLine s l := by
  refine findLine_setSlice_keeps fun hi => ?_
  exact find_map_replace_other h

theorem findLine_putLine_none (v : VLine) (h : findLine s v.line = none) : findLine (putLine s v) v.line = none := by
  rw [findLine, putLine, sliceOf_setSlice, if_pos rfl, List.find?_eq_none]
  rw [findLine, List.find?_eq_none] at h
  intro w hw
  obtain ⟨z, hz, rfl⟩ := List.mem_map.1 hw
  rw [if_neg (by simpa using h z hz)]
  exact h z hz

theorem findLine_dropLine_self (s : State) (l : Nat) : findLine (dropLine s l) l = none := by
  rw [findLine, dropLine, sliceOf_setSlice, if_pos rfl, List.find?_eq_none]
  intro w hw
  simpa using (List.mem_filter.1 hw).2

theorem find_filter_ne {ls : List VLine} {l m : Nat} (h : m ≠ l) :
    (ls.filter (fun w => w.line ≠ l)).find? (fun v => v.line == m) = ls.find? (fun v => v.line == m) := by
  rw [List.find?_filter]
  congr 1
  funext v
  by_cases hv : v.line = m
  · simp [hv, h]
  · simp [hv]

theorem findLine_dropLine_other (s : State) {l m : Nat} (h : m ≠ l) : findLine (dropLine s l) m = findLine s m :=
  findLine_setSlice_keeps fun _ => find_filter_ne h

theorem find_first_moved (ls : List VLine) (l m : Nat) : (ls.filter (fun w => w.line == l) ++ ls.filter (fun w => w.line != l)).find?
    (fun v => v.line == m) = ls.find? (fun v => v.line == m) := by
  rw [List.find?_append]
  by_cases h : m = l
  · have hnone : (ls.filter (fun w => w.line != l)).find? (fun v => v.line == m) = none := by
      rw [List.find?_eq_none]
      intro v hv
      simpa [h] using (List.mem_filter.1 hv).2
    rw [hnone, Option.or_none, List.find?_filter]
    simp only [h, and_self, Bool.decide_eq_true]
  · have hnone : (ls.filter (fun w => w.line == l)).find? (fun v => v.line == m) = none := by
      rw [List.find?_eq_none]
      intro v hv
      have hl : v.line = l := by simpa using (List.mem_filter.1 hv).2
      simpa [hl] using Ne.symm h
    have hne : ls.filter (fun w => w.line != l) = ls.filter (fun w => w.line ≠ l) :=
      List.filter_congr fun w _ => by simp [bne, BEq.beq]
    rw [hnone, Option.none_or, hne, find_filter_ne h]

/-- The order of use says nothing about what a line holds. -/
theorem findLine_touchLine (s : State) (l m : Nat) : findLine (touchLine s l) m = findLine s m := by
  refine findLine_setSlice_keeps fun _ => ?_
  exact find_first_moved _ _ _

theorem findSector_touchLine (s : State) (l sec : Nat) : findSector (touchLine s l) sec = findSector s sec := by
  simp only [findSector, findLine_touchLine]

theorem flawV_touchLine (s : State) (l sec : Nat) : flawV (touchLine s l) sec = flawV s sec := by
  simp only [flawV, findLine_touchLine]

/-! ### Sectors -/

theorem findSector_of_line {sec : Nat} {v : VLine} (h : findLine s (sec / 8) = some v) : findSector s sec = smFind? v.secs (sec % 8) := by
  rw [findSector, h]

theorem findSector_of_no_line {sec : Nat} (h : findLine s (sec / 8) = none) : findSector s sec = none := by
  rw [findSector, h]

theorem isSome_line_of_sector {sec : Nat} {x : Sector} (h : findSector s sec = some x) : ∃ v, findLine s (sec / 8) = some v ∧ smFind? v.secs (sec % 8) = some x := by
  cases hv : findLine s (sec / 8) with
  | none => rw [findSector_of_no_line hv] at h; cases h
  | some v => exact ⟨v, rfl, (findSector_of_line hv).symm.trans h⟩

theorem sector_ne {sec m : Nat} (h : m ≠ sec) (hl : m / 8 = sec / 8) : m % 8 ≠ sec % 8 := by omega

/-- A line with sector `i` as put: sound. -/
def withSector (v : VLine) (i : Nat) (x : Sector) : VLine := { v with secs := smSet v.secs i x, flaws := smErase v.flaws i }

theorem putSector_of_line {sec : Nat} {v : VLine} (h : findLine s (sec / 8) = some v) (x : Sector) :
    putSector s sec x = putLine s (withSector v (sec % 8) x) := by
  rw [putSector, h]
  rfl

theorem findLine_putSector_self {sec : Nat} {v : VLine} (h : findLine s (sec / 8) = some v) (x : Sector) :
    findLine (putSector s sec x) (sec / 8) = some (withSector v (sec % 8) x) := by
  rw [putSector_of_line h]
  have hl : (withSector v (sec % 8) x).line = sec / 8 := (findLine_line h :)
  exact findLine_putLine_self hl h

theorem findLine_putSector_other (s : State) {sec l : Nat} (h : l ≠ sec / 8) (x : Sector) :
    findLine (putSector s sec x) l = findLine s l := by
  cases hv : findLine s (sec / 8) with
  | none => rw [putSector, hv]
  | some v => rw [putSector_of_line hv, findLine_putLine_other _ (by rw [withSector, findLine_line hv]; exact h)]

/-- What is put is found. -/
theorem findSector_putSector_self {sec : Nat} {v : VLine} (h : findLine s (sec / 8) = some v) (x : Sector) :
    findSector (putSector s sec x) sec = some x := by
  rw [findSector_of_line (findLine_putSector_self h x), withSector, smFind?_smSet_self]

theorem findSector_putSector_other (s : State) {sec m : Nat} (h : m ≠ sec) (x : Sector) :
    findSector (putSector s sec x) m = findSector s m := by
  by_cases hm : m / 8 = sec / 8
  · cases hv : findLine s (sec / 8) with
    | none => rw [putSector, hv]
    | some v =>
      have hput := findLine_putSector_self hv x
      rw [← hm] at hv hput
      rw [findSector_of_line hput, withSector, smFind?_smSet_other _ _ (sector_ne h hm), findSector_of_line hv]
  · rw [findSector, findLine_putSector_other _ hm, findSector]

/-! ### Room for a line (R268) -/

/-- A line at the front of a slice. -/
def addLine (s : State) (l : Nat) : State :=
  setSlice s (sliceOfLine l) { sliceOf s (sliceOfLine l) with lines := { line := l } :: (sliceOf s (sliceOfLine l)).lines }

theorem findLine_addLine_self (s : State) (l : Nat) : findLine (addLine s l) l = some { line := l } := by
  rw [findLine, addLine, sliceOf_setSlice, if_pos rfl, List.find?_cons_of_pos (by simp)]

/-- Room is made for a line that is there already, in a free way, or in the place of another line. -/
theorem allocLine_cases (h : allocLine s l = some t) : (findLine s l).isSome = true ∧ t = touchLine s l
    ∨ (findLine s l).isSome = false ∧ ∃ u, t = addLine u l ∧ (u = s ∨ freeWay s (sliceOfLine l) (setOfLine l) = some u) := by
  unfold allocLine at h
  dsimp only at h
  split_ifs at h with h1 h2
  · exact .inl ⟨h1, (Option.some.inj h).symm⟩
  · exact .inr ⟨by simpa using h1, s, (Option.some.inj h).symm, .inl rfl⟩
  · obtain ⟨u, hu, he⟩ := Option.map_eq_some_iff.1 h
    exact .inr ⟨by simpa using h1, u, he.symm, .inr hu⟩

/-- A line that has been allocated is there. -/
theorem findLine_allocLine (h : allocLine s l = some t) : ∃ v, findLine t l = some v := by
  obtain ⟨h1, rfl⟩ | ⟨-, u, rfl, -⟩ := allocLine_cases h
  · rw [findLine_touchLine]
    exact Option.isSome_iff_exists.1 h1
  · exact ⟨_, findLine_addLine_self u l⟩

/-! ### Where no reduction is pending -/

theorem NoReductions.red {v : VLine} (h : NoReductions s) (hv : findLine s l = some v) : v.red = none :=
  h.1 _ v (List.mem_of_find?_eq_some hv)

theorem NoReductions.bind_red (h : NoReductions s) (l : Nat) : (findLine s l).bind (·.red) = none := by
  cases hv : findLine s l with
  | none => rfl
  | some v => exact h.red hv

theorem NoReductions.owesSums (h : NoReductions s) (l : Nat) : owesSums s l = false := by
  simp [Machine.owesSums, h.bind_red, h.2]

theorem NoReductions.soundLine (h : NoReductions s) (l : Nat) : soundLine s l = s := by
  simp [Machine.soundLine, h.owesSums]

theorem NoReductions.pushThrough (h : NoReductions s) (l : Nat) : pushThrough s l = some s := by
  unfold Machine.pushThrough
  split
  · next v hv => rw [h.red hv]
  · rfl

/-- The engines as a settled line leaves them: as they were, but for how their table is written. -/
def settled (s : State) (l : Nat) : State :=
  modEng s (stackOfLine l) (fun e => { e with pushes := e.pushes.filter (fun p => !(p.line == l && p.held == 0)) })

theorem NoReductions.drainPushes (h : NoReductions s) (l : Nat) : drainPushes s l = settled s l := by
  simp [Machine.drainPushes, h.2, settled]

theorem NoReductions.settleOnce (h : NoReductions s) (l : Nat) : settleOnce s l = some (settled s l) := by
  rw [Machine.settleOnce, h.pushThrough, Option.map_some, h.drainPushes]

theorem NoReductions.settleLine (h : NoReductions s) (l : Nat) : settleLine s l = settled s l := by
  rw [Machine.settleLine, h.settleOnce]

theorem settled_slices (s : State) (l : Nat) : (settled s l).slices = s.slices := rfl
theorem settled_mem (s : State) (l : Nat) : (settled s l).mem = s.mem := rfl
theorem settled_reqs (s : State) (l : Nat) : (settled s l).reqs = s.reqs := rfl
theorem settled_cores (s : State) (l : Nat) : (settled s l).cores = s.cores := rfl
theorem settled_halves (s : State) (l : Nat) : (settled s l).halves = s.halves := rfl
theorem settled_cfg (s : State) (l : Nat) : (settled s l).cfg = s.cfg := rfl

theorem waitingFor_of_reqs (h : t.reqs = s.reqs) (sec : Nat) : waitingFor t sec = waitingFor s sec := by
  rw [waitingFor, h, waitingFor]

theorem fillNow_of_none {sec : Nat} (h : waitingFor s sec = []) : fillNow s sec = s := if_pos h

/-- A read through a slice where no reduction is pending and no request waits for the sector. -/
theorem NoReductions.vReadSector (h : NoReductions s) {sec : Nat} (hw : waitingFor s sec = []) (who : Reader) (n : Bool) :
    vReadSector s who n sec = readHere (settled s (sec / 8)) who n sec := by
  rw [Machine.vReadSector, h.soundLine, h.settleLine, fillNow_of_none ((waitingFor_of_reqs (settled_reqs ..) sec).trans hw)]

theorem vergeMeet_sound {sec : Nat} (h : flawV s sec = {}) : vergeMeet s sec = s := if_pos h

theorem vergeMeet_absent {sec : Nat} (h : findSector s sec = none) : vergeMeet s sec = s := by
  simp only [vergeMeet, h]
  split_ifs <;> rfl

/-- A read that finds its sector. -/
theorem readHere_hit {sec : Nat} {y : Sector} (h : findSector s sec = some y) (hd : y.st ≠ .dead) (hf : flawV s sec = {}) (who : Reader)
    (n : Bool) : readHere s who n sec = (.data y.data, touchLine s (sec / 8)) := by
  rw [readHere, vergeMeet_sound hf, readWith, h]
  exact if_neg hd

/-- A sector of DRAM that is sound reads as its bytes. -/
theorem meet_sound {sec : Nat} (hp : poisoned s sec = false) (hl : onLostPc s sec = false) (hf : smHas s.mem.flaws sec = false)
    (hb : sec ∉ s.mem.broken) : meet s sec = (some (storedRead s sec), s) := by
  have hb' : s.mem.broken.contains sec = false := by simpa using hb
  simp only [meet, hp, hf, hb', hl]
  rfl

/-- A read that finds its sector nowhere but in DRAM fills it. -/
theorem readHere_fill {sec : Nat} {u : State} (h : findSector s sec = none) (hp : poisoned s sec = false) (hl : onLostPc s sec = false)
    (hf : smHas s.mem.flaws sec = false) (hb : sec ∉ s.mem.broken) (ha : allocLine s (sec / 8) = some u) (who : Reader) :
    readHere s who false sec = (.data (storedRead s sec), putSector u sec ⟨.clean, storedRead s sec⟩) := by
  rw [readHere, vergeMeet_absent h, readWith, h]
  simp only [meet_sound hp hl hf hb, Bool.false_and, Bool.false_eq_true, if_false, ha]

end Sys2Proof.Machine
end

section
/-! PROOFS. Range operations that the movement engine accepts, ROINV and prefetches (R159 to R161, R274, R276, R280; Table 08-4). -/

namespace Sys2Proof.Machine
open Sys2Proof.Laws

variable {s t : State} {x : Insn} {l : Nat}

/-! ### What the work on the sectors keeps -/

@[simp] theorem cchInstall_cores (s : State) (k sec : Nat) (d : List Byte) (b : Bool) : (cchInstall s k sec d b).cores = s.cores := rfl

@[simp] theorem vReadSector_cores (s : State) (w : Reader) (b : Bool) (sec : Nat) : (vReadSector s w b sec).2.cores = s.cores :=
  cores_of_aside (vReadSector_aside ..)

@[simp] theorem pfSector_cores (s : State) (l : Nat) (cch dropped : Bool) (sec : Nat) :
    (pfSector s l cch dropped sec).cores = s.cores := by
  have hread := vReadSector_cores s .requester false sec
  rw [pfSector]
  split
  · rfl
  · split
    · exact count_cores ..
    · generalize vReadSector s .requester false sec = r at hread ⊢
      split
      · split
        · rw [cchInstall_cores]; exact hread
        · exact hread
      · exact count_cores ..

@[simp] theorem settleLine_cores (s : State) (l : Nat) : (settleLine s l).cores = s.cores := cores_of_aside (settleLine_aside ..)
@[simp] theorem soundLine_cores (s : State) (l : Nat) : (soundLine s l).cores = s.cores := cores_of_aside (soundLine_aside ..)
@[simp] theorem cleanSector_cores (s : State) (sec : Nat) : (cleanSector s sec).cores = s.cores := cores_of_aside (cleanSector_aside ..)

@[simp] theorem flushLine_cores (s : State) (inv : Bool) (a b l : Nat) : (flushLine s inv a b l).cores = s.cores := by
  have hclean : ((sectorsIn l a b).foldl cleanSector (settleLine (soundLine s l) l)).cores = s.cores := by
    rw [foldl_keeps State.cores cleanSector_cores, settleLine_cores, soundLine_cores]
  unfold flushLine
  split_ifs
  · exact hclean
  · dsimp only
    split
    · exact hclean
    · split_ifs
      · exact hclean
      · exact (cores_of_aside (dropLine_aside ..)).trans hclean
      · exact (putLine_cores ..).trans hclean

@[simp] theorem deadLine_cores (s : State) (a b l : Nat) : (deadLine s a b l).cores = s.cores := by
  unfold deadLine
  split
  · rfl
  · split_ifs
    · rfl
    · exact putLine_cores ..

@[simp] theorem pinLine_cores (s : State) (l : Nat) : (pinLine s l).cores = s.cores := by
  unfold pinLine
  dsimp only
  split_ifs
  · rfl
  · exact count_cores ..
  · split
    · exact count_cores ..
    · next s1 h =>
      have h1 := cores_of_aside (allocLine_aside s l s1 h)
      split
      · exact (putLine_cores ..).trans h1
      · exact h1

theorem pfOwn_cores (s : State) (l : Nat) (b : Bool) (sec : Nat) :
    (if (findSector s sec).isSome then s else pfSector s l false b sec).cores = s.cores := by
  split_ifs
  · rfl
  · rw [pfSector_cores]

/-- A range operation works on sectors and lines alone. -/
@[simp] theorem rangeOp_cores (s : State) (l fn a n : Nat) (drops : List Nat) : (rangeOp s l fn a n drops).cores = s.cores := by
  unfold rangeOp
  dsimp only
  split
  · rw [foldl_keeps State.cores (fun s i => pfSector_cores ..)]
  · rw [foldl_keeps State.cores (fun s i => pfOwn_cores ..)]
  · rw [foldl_keeps State.cores (fun s i => flushLine_cores ..)]
  · rw [foldl_keeps State.cores (fun s i => flushLine_cores ..)]
  · rw [cchInvalidateIf_cores]
  · rw [cchInvalidateIf_cores, foldl_keeps State.cores (fun s i => deadLine_cores ..)]
  · rw [foldl_keeps State.cores (fun s i => pinLine_cores ..)]
  · refine foldl_keeps State.cores (fun s i => ?_) _ _
    split
    · rw [putLine_cores]
    · rfl

/-! ### Acceptance -/

/-- The range operation that an instruction leaves with the movement engine. -/
def maintOf (fn : Nat) (x : Insn) (id : Nat) : Maint :=
  { id := id, stream := x.stream, fn := fn, ctr := if bitsN x.b 20 20 = 1 then some (bitsN x.b 23 21) else none }

/-- The state with a range operation held. -/
def withMaint (s : State) (fn : Nat) (x : Insn) : State :=
  modCore { s with nextId := s.nextId + 1 } x.core (fun c => { c with maints := c.maints ++ [maintOf fn x s.nextId] })

/-- The sector work of an accepted range operation: on user stack memory alone. -/
def workOf (s : State) (fn : Nat) (x : Insn) (a n : Nat) (drops : List Nat) : State :=
  match regionOf (localForm s a) with
  | .user => rangeOp s x.core fn (localForm s a) n drops
  | _ => s

theorem workOf_user {fn a n : Nat} {drops : List Nat} (h : regionOf (localForm s a) = .user) :
    workOf s fn x a n drops = rangeOp s x.core fn (localForm s a) n drops := by rw [workOf, h]

@[simp] theorem workOf_cores (s : State) (fn : Nat) (x : Insn) (a n : Nat) (drops : List Nat) :
    (workOf s fn x a n drops).cores = s.cores := by
  unfold workOf
  split
  · exact rangeOp_cores ..
  · rfl

theorem maintBody_go {fn a n : Nat} {drops : List Nat} (hn : 0 < n) (h : maintAccepts s x fn a n)
    (hw : flushWaits s (workOf s fn x a n drops) fn (localForm s a) n = false) :
    maintBody x fn drops s (strm s x) = .go (withMaint (workOf s fn x a n drops) fn x) := by
  obtain ⟨-, -, -, -, h1, h2, ha, hb, hal, hr, hacc, hslot, hpf⟩ := h
  subst ha hb
  rw [maintBody, if_neg (by simp [isSA, h1, h2])]
  dsimp only
  rw [if_neg (by rintro ⟨h, h'⟩; obtain ⟨e1, e2⟩ := hal h; omega), if_neg (by omega), if_neg (by simp [hr]),
    if_neg (by simp [hslot]; omega), if_neg (by simp [hpf])]
  exact if_neg (Bool.eq_false_iff.1 hw)

/-- A range operation that is accepted is held, its sector work done. -/
theorem maintInsn_accepted {fn a n : Nat} {drops : List Nat} (hn : 0 < n) (h : maintAccepts s x fn a n)
    (hw : flushWaits s (workOf s fn x a n drops) fn (localForm s a) n = false) :
    maintInsn fn x drops s = issued s (withMaint (workOf s fn x a n drops) fn x) x (some 1) (pcAfter (strm s x).pc) :=
  issueInsn_go h.1 (by simp [h.2.1, h.2.2.1, h.2.2.2.1]) (maintBody_go hn h hw)

theorem maintHeld_issued {s1 : State} (h : s1.cores = s.cores) (fn : Nat) :
    maintHeld s (issued s (withMaint s1 fn x) x (some 1) (pcAfter (strm s x).pc)) x fn := by
  have hcore : coreOf s1 x.core = coreOf s x.core := coreOf_of_cores h _
  refine ⟨?_, maintOf fn x s1.nextId, ?_, rfl, rfl, rfl⟩
  · rw [strm, strOf_issued_self, withMaint, strOf_modCore_of_keeps (fun u => by cases u <;> rfl), strm]
    exact congrArg (fun c : CoreSt => { c.str x.stream with pc := pcAfter (strOf s x.core x.stream).pc }) hcore
  · rw [issued_maints, withMaint, coreOf_modCore_self]
    exact congrArg (fun c : CoreSt => c.maints ++ [maintOf fn x s1.nextId]) hcore

theorem flushWaits_of_other {fn : Nat} (h2 : fn ≠ 2) (h3 : fn ≠ 3) (u t : State) (a n : Nat) : flushWaits u t fn a n = false := by
  simp [flushWaits, h2, h3]

/-- The range operations as instructions: FLUSH and FLUSH.INV look at the stage's late sums at the end. -/
theorem exec_maintOp {fn : Nat} (hf : fn < 8) (x : Insn) (drops : List Nat) (hc : x.core < numCores) (s : State) :
    exec (maintOp fn x drops) s = .next (if fn = 2 ∨ fn = 3 then lateSettle (maintInsn fn x [] s)
      else maintInsn fn x (if fn < 2 then drops else []) s) := by
  interval_cases fn <;> exact onCore_lt _ _ hc

/-! ### What an issue keeps beside its core -/

@[simp] theorem issued_slices (s s1 : State) (x : Insn) (u : Option Nat) (pc : Nat) : (issued s s1 x u pc).slices = s1.slices := by
  rw [issued_all]

@[simp] theorem issued_halves (s s1 : State) (x : Insn) (u : Option Nat) (pc : Nat) : (issued s s1 x u pc).halves = s1.halves := by
  rw [issued_all]

theorem rdf_of_cfg {u : State} (h : u.cfg = s.cfg) (o : Nat) (f : Fld) : rdf u o f = rdf s o f := by
  rw [rdf, rd, h, rdf, rd]

theorem halfOf_of_halves {u : State} (h : u.halves = s.halves) (k : Nat) : halfOf u k = halfOf s k := by rw [halfOf, h, halfOf]

/-! ### Accepted, complete, and the read-only caches -/

/-- From opcode FLUSH on no drops are read. -/
theorem rangeOp_drops {fn : Nat} (h : 2 ≤ fn) (s : State) (l a n : Nat) (d d' : List Nat) :
    rangeOp s l fn a n d = rangeOp s l fn a n d' := by
  match fn, h with
  | 2, _ | 3, _ | 4, _ | 5, _ | 6, _ | _ + 7, _ => rfl

theorem region_of_rangeRegion {fn a n : Nat} (h : rangeRegion s fn a n = true) (hf : fn < 6) : regionOf (localForm s a) = .user := by
  unfold rangeRegion at h
  obtain ⟨-, h⟩ := Bool.and_eq_true_iff.1 h
  split at h
  · assumption
  · exact absurd (of_decide_eq_true h) (by omega)
  · cases h

/-- No sums keep an operation other than a flush waiting. -/
theorem flushWaits_workOf {fn a n : Nat} {drops : List Nat} (h : maintAccepts s x fn a n)
    (hw : regionOf (localForm s a) = .user → flushWaits s (rangeOp s x.core fn (localForm s a) n drops) fn (localForm s a) n = false) :
    flushWaits s (workOf s fn x a n drops) fn (localForm s a) n = false := by
  by_cases h2 : fn = 2 ∨ fn = 3
  · obtain ⟨-, -, -, -, -, -, -, -, -, hr, -⟩ := h
    have hu := region_of_rangeRegion hr (by omega)
    rw [workOf_user hu]
    exact hw hu
  · exact flushWaits_of_other (fun e => h2 (.inl e)) (fun e => h2 (.inr e)) ..

theorem exec_maintOp_held {fn a n : Nat} {drops : List Nat} (hf : fn < 8) (hn : 0 < n) (h : maintAccepts s x fn a n)
    (hw : regionOf (localForm s a) = .user → flushWaits s (rangeOp s x.core fn (localForm s a) n drops) fn (localForm s a) n = false) :
    ∃ t, exec (maintOp fn x drops) s = .next (if fn = 2 ∨ fn = 3 then lateSettle t else t) ∧ maintHeld s t x fn := by
  have hd : fn < 2 ∨ rangeOp s x.core fn (localForm s a) n drops = rangeOp s x.core fn (localForm s a) n [] := by
    obtain h2 | h2 := Nat.lt_or_ge fn 2
    · exact .inl h2
    · exact .inr (rangeOp_drops h2 ..)
  rw [exec_maintOp hf x drops (issues_core s h.1)]
  obtain h2 | h2 := Nat.lt_or_ge fn 2
  · rw [if_pos h2, maintInsn_accepted hn h (flushWaits_workOf h hw)]
    exact ⟨_, by rw [if_neg (by omega), if_neg (by omega)], maintHeld_issued (workOf_cores ..) fn⟩
  · rw [rangeOp_drops h2 s x.core (localForm s a) n drops []] at hw
    rw [if_neg (Nat.not_lt.2 h2), maintInsn_accepted hn h (flushWaits_workOf h hw)]
    exact ⟨_, rfl, maintHeld_issued (workOf_cores ..) fn⟩

/-- The core with an operation's entry taken out. -/
def withoutMaint (op : Nat) (c : CoreSt) : CoreSt := { c with maints := c.maints.filter (fun z => z.id ≠ op) }

/-- The counter of a range operation that is complete, where it has one. -/
def raiseOf (s : State) (l : Nat) (ctr : Option Nat) : State :=
  match ctr with
  | some e => raiseCtr s l e 1
  | none => s

theorem maintDone_found {op : Nat} {m : Maint} (h : (coreOf s l).maints.find? (fun z => z.id == op) = some m) :
    maintDone s l op = deadlockCheck (raiseOf (modCore s l (withoutMaint op)) l m.ctr) l := by
  rw [maintDone, h]
  rfl

theorem maints_haltStream (s : State) (l : Nat) (u : StreamId) (c : HaltCause) (k : Nat) :
    (coreOf (haltStream s l u c k) l).maints = (coreOf s l).maints := by
  by_cases h : (strOf s l u).live = true
  · rw [coreOf_haltStream_live c k h, CoreSt.abandon, coreSetStr_maints]
  · rw [haltStream_not_live c k (by simpa using h)]

@[simp] theorem deadlockCheck_maints (s : State) (l : Nat) : (coreOf (deadlockCheck s l) l).maints = (coreOf s l).maints :=
  deadlockCheck_keeps (view := CoreSt.maints) (fun s u c k => maints_haltStream s l u c k) s

@[simp] theorem raiseOf_maints (s : State) (l : Nat) (e : Option Nat) : (coreOf (raiseOf s l e) l).maints = (coreOf s l).maints := by
  cases e with
  | none => rfl
  | some e => rw [raiseOf, coreOf_raiseCtr]; rfl

@[simp] theorem raiseOf_mem (s : State) (l : Nat) (e : Option Nat) : (raiseOf s l e).mem = s.mem := by
  cases e with
  | none => rfl
  | some e => exact raiseCtr_mem ..

/-- MAINTENANCE_COMPLETE ends the operation and raises its counter. -/
theorem maintDone_ends {op : Nat} {m : Maint} (h : (coreOf s l).maints.find? (fun z => z.id == op) = some m) :
    (∀ z ∈ (coreOf (maintDone s l op) l).maints, z.id ≠ op)
      ∧ (∀ e, m.ctr = some e → smGet 0 (coreOf (maintDone s l op) l).ctrs e = min (smGet 0 (coreOf s l).ctrs e + 1) 0xFFFF)
      ∧ (m.ctr = none → (coreOf (maintDone s l op) l).ctrs = (coreOf s l).ctrs) ∧ (maintDone s l op).mem = s.mem := by
  have hctrs : (coreOf (modCore s l (withoutMaint op)) l).ctrs = (coreOf s l).ctrs := by rw [coreOf_modCore_self, withoutMaint]
  rw [maintDone_found h]
  refine ⟨fun z hz => ?_, fun e he => ?_, fun he => ?_, ?_⟩
  · rw [deadlockCheck_maints, raiseOf_maints, coreOf_modCore_self, withoutMaint] at hz
    simpa using (List.mem_filter.1 hz).2
  · rw [deadlockCheck_ctrs, he, raiseOf, smGet_raiseCtr_self, hctrs]
  · rw [deadlockCheck_ctrs, he, raiseOf, hctrs]
  · rw [deadlockCheck_mem, raiseOf_mem, modCore_mem]

/-- The bit of ROINV that names a read-only cache (Table 04-10). -/
def roBit (k : RoKind) : Nat := match k with
  | .instr => 0
  | .const => 1
  | .desc => 2

theorem roKindsOf_contains (b : Nat) (k : RoKind) : (roKindsOf b).contains k = b.testBit (roBit k) := by
  have hbit (i : Nat) : bitsN b i i = 1 ↔ b.testBit i = true := by
    rw [bitsN, Nat.testBit_eq_decide_div_mod_eq, Nat.add_sub_cancel_left, decide_eq_true_iff, pow_one]
  rw [Bool.eq_iff_iff]
  cases k <;> simp [roKindsOf, hbit, roBit]

theorem mem_ro_roInvalidateKinds (s : State) (l : Nat) (ks : List RoKind) (y : RoLine) :
    y ∈ (coreOf (roInvalidateKinds s l ks) l).ro ↔ y ∈ (coreOf s l).ro ∧ ¬ ks.contains y.kind = true := by
  rw [roInvalidateKinds, coreOf_modCore_self, List.mem_filter, Bool.not_eq_true', Bool.not_eq_true]
  rfl

theorem strOf_roInvalidateKinds (s : State) (l : Nat) (ks : List RoKind) (u : StreamId) :
    strOf (roInvalidateKinds s l ks) l u = strOf s l u := by
  rw [roInvalidateKinds, strOf_modCore_of_keeps (fun u => by cases u <;> rfl)]
  rfl

theorem coreOf_roInvalidateKinds_other (s : State) {l m : Nat} (ks : List RoKind) (h : m ≠ l) :
    coreOf (roInvalidateKinds s l ks) m = coreOf s m := by
  rw [roInvalidateKinds, coreOf_modCore_other _ _ _ _ h]
  rfl

theorem roInvalidateKinds_mem (s : State) (l : Nat) (ks : List RoKind) : (roInvalidateKinds s l ks).mem = s.mem := rfl

/-- ROINV empties the read-only caches it names. -/
theorem exec_roinv (h : issues s x (some 1) = true) (hb : x.b < 8) :
    exec (.roinv x) s = .next (issued s (roInvalidateKinds s x.core (roKindsOf x.b)) x (some 1) (pcAfter (strm s x).pc)) :=
  exec_issue_go h (by simp [Nat.div_eq_of_lt hb]) rfl

end Sys2Proof.Machine
end

section
/-! PROOFS. Prefetches of one sector (Table 08-4, R276, R280), and O17. -/

namespace Sys2Proof.Machine
open Sys2Proof.Laws

variable {s t : State} {x : Insn} {l sec : Nat}

theorem lt_userEnd_of_user {a : Nat} (h : regionOf a = .user) : a < userEnd := by
  unfold regionOf at h
  split_ifs at h
  · assumption
  · dsimp only at h
    split_ifs at h

theorem localForm_user {a : Nat} (h : regionOf a = .user) : localForm s a = a :=
  localForm_below (lt_trans (lt_userEnd_of_user h) (by decide))

theorem sector_user {a : Nat} (h : regionOf a = .user) : a / 256 * 256 < userEnd :=
  lt_of_le_of_lt (Nat.div_mul_le_self a 256) (lt_userEnd_of_user h)

theorem storedRead_user (h : sec * 256 < userEnd) : storedRead s sec = dramRead s sec := if_pos h

theorem upto_one : upto 1 = [0] := rfl

theorem rangeOp_zero (s : State) (l a n : Nat) (drops : List Nat) : rangeOp s l 0 a n drops = (upto ((a + n + 255) / 256 - a / 256)).foldl
    (fun s i => pfSector s l true (drops.contains (a / 256 + i)) (a / 256 + i)) s := rfl

theorem rangeOp_one (s : State) (l a n : Nat) (drops : List Nat) : rangeOp s l 1 a n drops = (upto ((a + n + 255) / 256 - a / 256)).foldl
    (fun s i => if (findSector s (a / 256 + i)).isSome then s
      else pfSector s l false (drops.contains (a / 256 + i)) (a / 256 + i)) s := rfl

/-- A range within one sector is one prefetch. -/
theorem rangeOp_pfCch {a n : Nat} {drops : List Nat} (hn : 0 < n) (hone : a % 256 + n ≤ 256) :
    rangeOp s l 0 a n drops = pfSector s l true (drops.contains (a / 256)) (a / 256) := by
  have h1 : (a + n + 255) / 256 - a / 256 = 1 := by omega
  rw [rangeOp_zero, h1, upto_one, List.foldl_cons, List.foldl_nil, Nat.add_zero]

theorem rangeOp_pfVrg {a n : Nat} {drops : List Nat} (hn : 0 < n) (hone : a % 256 + n ≤ 256) (hno : findSector s (a / 256) = none) :
    rangeOp s l 1 a n drops = pfSector s l false (drops.contains (a / 256)) (a / 256) := by
  have h1 : (a + n + 255) / 256 - a / 256 = 1 := by omega
  rw [rangeOp_one, h1, upto_one, List.foldl_cons, List.foldl_nil, Nat.add_zero, hno]
  rfl

theorem NoReductions.pfSkips (h : NoReductions s) (hd : ∀ y, findSector s sec = some y → y.st ≠ .dead) : pfSkips s sec = false := by
  rw [Machine.pfSkips, Bool.or_eq_false_iff]
  constructor
  · split
    · next v hv => rw [h.red hv]; rfl
    · rfl
  · split
    · next y hy => simpa using hd y hy
    · rfl

theorem pfSector_dropped {cch dropped : Bool} (hs : pfSkips s sec = false) (h : (dropped || pfFails s sec) = true) :
    pfSector s l cch dropped sec = count s (CCH_PF (clusterOf l)) CCH_PF_dropped := by
  rw [pfSector, hs, h]
  rfl

theorem pfSector_reads {cch : Bool} {d : List Byte} {u : State} (hs : pfSkips s sec = false) (hf : pfFails s sec = false)
    (hr : vReadSector s .requester false sec = (.data d, u)) : pfSector s l cch false sec = if cch
      then cchInstall u (halfKey (clusterOf l) (halfOfCore s l)) sec (withWrites d (writesUnderWay s (clusterOf l) sec)) (!billOk (flawV u sec) d)
      else u := by
  rw [pfSector, hs, hf, hr]
  rfl

theorem inVerge_of_sector {y : Sector} (h : findSector s sec = some y) (hd : y.st ≠ .dead) : inVerge s sec = true := by
  rw [inVerge, h]
  simpa using hd

theorem inVerge_of_none (h : findSector s sec = none) : inVerge s sec = false := by rw [inVerge, h]

theorem pfFails_of_sound {y : Sector} (h : findSector s sec = some y) (hd : y.st ≠ .dead) (hf : flawV s sec = {}) :
    pfFails s sec = false := by
  rw [pfFails, if_pos (inVerge_of_sector h hd), hf]
  rfl

theorem pfFails_of_dram (h : findSector s sec = none) (hp : poisoned s sec = false) (hl : onLostPc s sec = false)
    (hf : smHas s.mem.flaws sec = false) (hb : sec ∉ s.mem.broken) : pfFails s sec = false := by
  have hflaw : flawOf s sec = {} := by
    refine smGet_of_not_mem fun hm => ?_
    obtain ⟨p, hmem, rfl⟩ := List.mem_map.1 hm
    simp only [smHas, List.any_eq_false, beq_iff_eq] at hf
    exact hf p hmem rfl
  rw [pfFails, if_neg (by simp [inVerge_of_none h]), hflaw, sectorGone, sectorFlawed, hp, hl, hf]
  simp [hb]

/-- The errors that drop a prefetch: those the environment names, an uncorrectable sector in Verge, a lost one in DRAM. -/
theorem pfFails_or {ds : List Nat} (h : ds = [sec] ∨ (inVerge s sec = true ∧ vergeEcc (flawV s sec).errs = .uncorrectable)
    ∨ (inVerge s sec = false ∧ (poisoned s sec = true ∨ onLostPc s sec = true))) : (ds.contains sec || pfFails s sec) = true := by
  obtain rfl | ⟨hv, he⟩ | ⟨hv, hp⟩ := h
  · simp
  · rw [pfFails, if_pos hv, he]
    simp
  · rw [pfFails, if_neg (by simp [hv]), sectorGone, hv]
    rcases hp with hp | hp <;> simp [hp]

theorem halfOf_cchInstall_head (s : State) (k sec : Nat) (d : List Byte) (b : Bool) :
    (halfOf (cchInstall s k sec d b) k).lines.head? = some ⟨sec, d, b⟩ := by
  rw [halfOf, cchInstall, setHalf, smGet_smPut_self]
  rfl

/-- What an accepted range operation of user memory leaves beside its core is what its sector work leaves. -/
theorem maintInsn_user {fn a n : Nat} {drops : List Nat} (hn : 0 < n) (h : maintAccepts s x fn a n) (hu : regionOf a = .user)
    (h2 : fn ≠ 2) (h3 : fn ≠ 3) : ∃ t, maintInsn fn x drops s = t ∧ t.mem = (rangeOp s x.core fn a n drops).mem
      ∧ t.slices = (rangeOp s x.core fn a n drops).slices ∧ t.halves = (rangeOp s x.core fn a n drops).halves
      ∧ t.cfg = (rangeOp s x.core fn a n drops).cfg := by
  have hw : workOf s fn x a n drops = rangeOp s x.core fn a n drops := by
    rw [workOf_user (by rw [localForm_user hu]; exact hu), localForm_user hu]
  refine ⟨_, maintInsn_accepted hn h (flushWaits_of_other h2 h3 ..), ?_, ?_, ?_, ?_⟩
  · rw [issued_mem, hw]; rfl
  · rw [issued_slices, hw]; rfl
  · rw [issued_halves, hw]; rfl
  · rw [issued_cfg, hw]; rfl

theorem exec_pfCch (h : issues s x (some 1) = true) (drops : List Nat) : exec (.pfCch x drops) s = .next (maintInsn 0 x drops s) :=
  onCore_lt _ _ (issues_core s h)

theorem exec_pfVrg (h : issues s x (some 1) = true) (drops : List Nat) : exec (.pfVrg x drops) s = .next (maintInsn 1 x drops s) :=
  onCore_lt _ _ (issues_core s h)

section Prefetch
variable {a n : Nat} (hn : 0 < n) (hone : a % 256 + n ≤ 256) (hr : NoReductions s) (hu : regionOf a = .user)
include hn hone hr hu

/-- PF.CCH of a sector that Verge holds. -/
theorem exec_pfCch_held (hw : waitingFor s (a / 256) = []) {y : Sector} (h : maintAccepts s x 0 a n) (hy : findSector s (a / 256) = some y)
    (hd : y.st ≠ .dead) (hf : flawV s (a / 256) = {}) : ∃ t, exec (.pfCch x []) s = .next t ∧ t.mem = s.mem
      ∧ (halfOf t (halfKey (clusterOf x.core) (halfOfCore s x.core))).lines.head?
        = some ⟨a / 256, withWrites y.data (writesUnderWay s (clusterOf x.core) (a / 256)), false⟩ := by
  obtain ⟨t, ht, hmem, -, hhalves, -⟩ := maintInsn_user (drops := []) hn h hu (by decide) (by decide)
  have hsl (sec : Nat) : findSector (settled s (a / 256 / 8)) sec = findSector s sec := findSector_of_slices (settled_slices ..) sec
  have hfl (sec : Nat) : flawV (settled s (a / 256 / 8)) sec = flawV s sec := flawV_of_slices (settled_slices ..) sec
  have hread : vReadSector s .requester false (a / 256) = (.data y.data, touchLine (settled s (a / 256 / 8)) (a / 256 / 8)) := by
    rw [hr.vReadSector hw, readHere_hit ((hsl _).trans hy) hd ((hfl _).trans hf)]
  have hskip := hr.pfSkips (sec := a / 256) (fun z hz => by rw [hy] at hz; cases hz; exact hd)
  have hbill : (!billOk (flawV (touchLine (settled s (a / 256 / 8)) (a / 256 / 8)) (a / 256)) y.data) = false := by
    rw [flawV_touchLine, hfl, hf]
    rfl
  rw [rangeOp_pfCch hn hone, List.contains_nil, pfSector_reads hskip (pfFails_of_sound hy hd hf) hread, if_pos rfl, hbill] at hmem hhalves
  refine ⟨t, (exec_pfCch h.1 []).trans (congrArg _ ht), hmem, ?_⟩
  rw [halfOf_of_halves hhalves, halfOf_cchInstall_head]

/-- PF.VRG of a sector that Verge does not hold. -/
theorem exec_pfVrg_fills (hw : waitingFor s (a / 256) = []) {s1 : State} (h : maintAccepts s x 1 a n)
    (hno : findSector s (a / 256) = none) (hp : poisoned s (a / 256) = false) (hl : onLostPc s (a / 256) = false)
    (hf : smHas s.mem.flaws (a / 256) = false) (hb : a / 256 ∉ s.mem.broken) (ha : allocLine (settleLine s (a / 2048)) (a / 2048) = some s1) :
    ∃ t, exec (.pfVrg x []) s = .next t ∧ findSector t (a / 256) = some ⟨.clean, dramRead s (a / 256)⟩ := by
  obtain ⟨t, ht, -, hslices, -, -⟩ := maintInsn_user (drops := []) hn h hu (by decide) (by decide)
  have h8 : a / 256 / 8 = a / 2048 := by omega
  rw [hr.settleLine, ← h8] at ha
  have hread : vReadSector s .requester false (a / 256) = (.data (dramRead s (a / 256)), putSector s1 (a / 256) ⟨.clean, dramRead s (a / 256)⟩) := by
    rw [hr.vReadSector hw, readHere_fill (u := s1) ((findSector_of_slices (settled_slices ..) _).trans hno) hp hl hf hb ha,
      storedRead_user (sector_user hu)]
    rfl
  have hskip := hr.pfSkips (sec := a / 256) (fun z hz => by rw [hno] at hz; cases hz)
  obtain ⟨v, hv⟩ := findLine_allocLine ha
  rw [rangeOp_pfVrg hn hone hno, List.contains_nil, pfSector_reads hskip (pfFails_of_dram hno hp hl hf hb) hread, if_neg (by decide)] at hslices
  exact ⟨t, (exec_pfVrg h.1 []).trans (congrArg _ ht), (findSector_of_slices hslices _).trans (findSector_putSector_self hv _)⟩

/-- A prefetch that meets an error is dropped and counted. -/
theorem exec_pfCch_dropped {ds : List Nat} (h : maintAccepts s x 0 a n) (hd : ∀ y, findSector s (a / 256) = some y → y.st ≠ .dead)
    (he : ds = [a / 256] ∨ (inVerge s (a / 256) = true ∧ vergeEcc (flawV s (a / 256)).errs = .uncorrectable)
      ∨ (inVerge s (a / 256) = false ∧ (poisoned s (a / 256) = true ∨ onLostPc s (a / 256) = true))) :
    ∃ t, exec (.pfCch x ds) s = .next t ∧ t.mem = s.mem ∧ t.slices = s.slices ∧ t.halves = s.halves
      ∧ rdf t (CCH_PF (clusterOf x.core)) CCH_PF_dropped
          = (rdf s (CCH_PF (clusterOf x.core)) CCH_PF_dropped + 1) % 2 ^ CCH_PF_dropped.width := by
  obtain ⟨t, ht, hmem, hslices, hhalves, hcfg⟩ := maintInsn_user (drops := ds) hn h hu (by decide) (by decide)
  rw [rangeOp_pfCch hn hone, pfSector_dropped (hr.pfSkips hd) (pfFails_or he)] at hmem hslices hhalves hcfg
  rw [count_mem] at hmem
  rw [count_slices] at hslices
  rw [count_halves] at hhalves
  exact ⟨t, (exec_pfCch h.1 ds).trans (congrArg _ ht), hmem, hslices, hhalves,
    (rdf_of_cfg hcfg ..).trans (rdf_count_self _ _ _ _ (by decide))⟩

end Prefetch

/-- Settles O17. -/
theorem maintenanceAndPrefetchAreAccepted : Obligations.MaintenanceAndPrefetchAreAccepted := by
  unfold Obligations.MaintenanceAndPrefetchAreAccepted
  refine ⟨fun fn a n x drops s hf hn h hw => exec_maintOp_held hf hn h hw, fun l op m s hl hc hm => ?_, fun x s h hb => ?_,
    fun a n x s hn hone hr hu hw => ⟨fun y h hy hd hf => exec_pfCch_held hn hone hr hu hw h hy hd hf,
      fun s1 h hno hp hl hf hb ha => exec_pfVrg_fills hn hone hr hu hw h hno hp hl hf hb ha,
      fun ds h hd he => exec_pfCch_dropped hn hone hr hu h hd he⟩⟩
  · exact ⟨maintDone s l op, (onCore_lt _ _ hl).trans (by rw [clocked_on _ hc]), maintDone_ends hm⟩
  · refine ⟨_, exec_roinv h hb, ?_, othersKept_issued ⟨fun m hm => coreOf_roInvalidateKinds_other _ _ hm,
      fun v _ => strOf_roInvalidateKinds ..⟩ _ _, fun y => ?_, (issued_mem ..).trans (roInvalidateKinds_mem ..)⟩
    · rw [strm, strOf_issued_self, strOf_roInvalidateKinds, strm]
    · rw [issued_ro, mem_ro_roInvalidateKinds, roKindsOf_contains]
      rfl

end Sys2Proof.Machine
end

section
/-! PROOFS. What the evaluation of a plan (R331 to R337) leaves alone: it reads memory, prefetches and starts items. -/

namespace Sys2Proof.Machine
open Sys2Proof.Laws

variable {s t : State}

/-- What the evaluation of a plan changes nothing of: as `outer`, without the halves of the cluster caches and the training state. -/
def offPlan (s : State) : State := { outer s with halves := [], train := {} }

theorem offPlan_of_outer (h : outer t = outer s) : offPlan t = offPlan s := by rw [offPlan, h, offPlan]

theorem offPlan_of_aside (h : aside t = aside s) : offPlan t = offPlan s := offPlan_of_outer (outer_of_aside s h)

theorem mst_of_offPlan (h : offPlan t = offPlan s) : t.mst = s.mst := (congrArg State.mst h : (offPlan t).mst = _)

theorem offPlan_foldl {α : Type} {f : State → α → State} (h : ∀ s x, offPlan (f s x) = offPlan s) (xs : List α) (s : State) :
    offPlan (xs.foldl f s) = offPlan s := foldl_keeps offPlan h xs s

@[simp] theorem count_offPlan (s : State) (o : Nat) (f : Fld) (n : Nat) : offPlan (count s o f n) = offPlan s :=
  offPlan_of_aside (count_aside ..)
@[simp] theorem wr_offPlan (s : State) (o : Nat) (w : Word) : offPlan (wr s o w) = offPlan s := offPlan_of_aside (wr_aside ..)
@[simp] theorem wrf_offPlan (s : State) (o : Nat) (f : Fld) (n : Nat) : offPlan (wrf s o f n) = offPlan s :=
  offPlan_of_aside (wrf_aside ..)
@[simp] theorem modTrain_offPlan (s : State) (f : Train → Train) : offPlan (modTrain s f) = offPlan s := rfl
@[simp] theorem modStr_offPlan (s : State) (l : Nat) (u : StreamId) (f : Stream → Stream) : offPlan (modStr s l u f) = offPlan s := rfl
@[simp] theorem setHalf_offPlan (s : State) (k : Nat) (h : Half) : offPlan (setHalf s k h) = offPlan s := rfl
@[simp] theorem cchInstall_offPlan (s : State) (k sec : Nat) (d : List Byte) (b : Bool) : offPlan (cchInstall s k sec d b) = offPlan s := rfl
@[simp] theorem vReadSector_offPlan (s : State) (w : Reader) (b : Bool) (sec : Nat) : offPlan (vReadSector s w b sec).2 = offPlan s :=
  offPlan_of_aside (vReadSector_aside ..)
@[simp] theorem storedPart_offPlan (s : State) (a n : Nat) : offPlan (storedPart s a n).2 = offPlan s :=
  offPlan_of_aside (storedPart_aside ..)
@[simp] theorem scrCorrected_offPlan (s : State) (l n : Nat) : offPlan (scrCorrected s l n) = offPlan s :=
  offPlan_of_aside (scrCorrected_aside ..)
@[simp] theorem scrUncorrectable_offPlan (s : State) (l : Nat) (u : StreamId) (o : Nat) : offPlan (scrUncorrectable s l u o) = offPlan s :=
  offPlan_of_outer (scrUncorrectable_outer ..)

@[simp] theorem sysReadSector_offPlan (s : State) (w : Reader) (a n : Nat) : offPlan (sysReadSector s w a n).2 = offPlan s := by
  have hread := vReadSector_offPlan s w false (a / 256)
  rw [sysReadSector]
  split
  · split_ifs
    · simp
    · rfl
  · split <;> simp
  · simp
  · generalize vReadSector s w false (a / 256) = r at hread ⊢
    split <;> exact hread
  · rfl

theorem sysReadFrom_offPlan (k : Nat) (s : State) (w : Reader) (a n : Nat) : offPlan (sysReadFrom k s w a n).2 = offPlan s := by
  induction k generalizing s a n with
  | zero => rfl
  | succ k ih =>
    rw [sysReadFrom]
    split_ifs
    · rfl
    · dsimp only
      have hone := sysReadSector_offPlan s w a (min n (256 - a % 256))
      generalize sysReadSector s w a (min n (256 - a % 256)) = r at hone ⊢
      split
      · next d s1 =>
        have hrest := ih s1 (a + min n (256 - a % 256)) (n - min n (256 - a % 256))
        generalize sysReadFrom k s1 w (a + min n (256 - a % 256)) (n - min n (256 - a % 256)) = q at hrest ⊢
        split <;> exact hrest.trans hone
      · exact hone

@[simp] theorem sysRead_offPlan (s : State) (q : Requester) (w : Reader) (a n : Nat) : offPlan (sysRead s q w a n).2 = offPlan s := by
  rw [sysRead]
  split_ifs
  · rfl
  · exact sysReadFrom_offPlan ..
  · rfl

@[simp] theorem engineRead_offPlan (s : State) (w : Reader) (a n : Nat) : offPlan (engineRead s w a n).2 = offPlan s := by
  have hread := sysRead_offPlan s .engine w (localForm s a) n
  rw [engineRead]
  split_ifs
  · generalize sysRead s .engine w (localForm s a) n = r at hread ⊢
    split <;> exact hread
  · rfl

@[simp] theorem takeFree_offPlan (s : State) : offPlan (takeFree s).2 = offPlan s := rfl

@[simp] theorem arrived_offPlan (s : State) (b n k : Nat) : offPlan (arrived s b n k).2 = offPlan s := by
  have hread := engineRead_offPlan s .requester b (8 * n)
  rw [arrived]
  generalize engineRead s .requester b (8 * n) = r at hread ⊢
  split <;> exact hread

@[simp] theorem surveyRecord_offPlan (s : State) (a : Nat) : offPlan (surveyRecord s a).2 = offPlan s := by
  rw [surveyRecord]
  split
  · next l _ =>
    have hread := engineRead_offPlan s .requester l 32
    generalize engineRead s .requester l 32 = r at hread ⊢
    split <;> exact hread
  · split
    · exact takeFree_offPlan s
    · rfl

@[simp] theorem surveyRecords_offPlan (s : State) (p : Plan) : offPlan (surveyRecords s p).2 = offPlan s := by
  have hread := engineRead_offPlan s .requester p.surveyList (8 * p.surveyN)
  rw [surveyRecords]
  generalize engineRead s .requester p.surveyList (8 * p.surveyN) = r at hread ⊢
  split
  · exact hread
  · next d s1 =>
    refine List.foldlRecOn (motive := fun q : Option (List (List Word)) × State => offPlan q.2 = offPlan s) _ _ hread fun q hq i _ => ?_
    have hone := (surveyRecord_offPlan q.2 (wordAt d i).toNat).trans hq
    generalize surveyRecord q.2 (wordAt d i).toNat = r at hone ⊢
    split <;> exact hone

@[simp] theorem survey_offPlan (s : State) (p : Plan) (i : Nat) : offPlan (survey s p i) = offPlan s := by
  have hread := surveyRecords_offPlan s p
  rw [survey]
  split
  · rfl
  · generalize surveyRecords s p = r at hread ⊢
    obtain ⟨rs, s2⟩ := r
    dsimp only
    split
    · rw [wrf_offPlan, modTrain_offPlan, count_offPlan, modTrain_offPlan]
      exact hread
    · rw [wrf_offPlan, modTrain_offPlan, count_offPlan, wr_offPlan, modTrain_offPlan]
      exact hread

@[simp] theorem startAll_offPlan (s : State) (u : StreamId) (pc : Nat) (g : List (Nat × Word)) (o : Option Nat) (w : Work) :
    offPlan (startAll s u pc g o w) = offPlan s := by
  rw [startAll]
  exact (offPlan_foldl (fun s l => by simp [loadStream, requestStart]) _ _).trans (takeFree_offPlan s)

@[simp] theorem restoreDraws_offPlan (s : State) : offPlan (restoreDraws s) = offPlan s := by
  rw [restoreDraws]
  split <;> rfl

@[simp] theorem startItem_offPlan (s : State) (p : Plan) (u : StreamId) (i : Item) : offPlan (startItem s p u i) = offPlan s := by
  have h1 : offPlan (if i.kind = 1 ∧ s.train.bNext.2 = 0 then survey s p i.s else s) = offPlan s := by split <;> simp
  rw [startItem]
  generalize (if i.kind = 1 ∧ s.train.bNext.2 = 0 then survey s p i.s else s) = s1 at h1 ⊢
  have h2 : offPlan (if u = .F then restoreDraws s1 else s1) = offPlan s := by split <;> simp [h1]
  generalize (if u = .F then restoreDraws s1 else s1) = s2 at h2 ⊢
  dsimp only
  split
  · rw [wrf_offPlan, wrf_offPlan, modTrain_offPlan, startAll_offPlan, h2]
  · rw [modTrain_offPlan, startAll_offPlan, h2]

/-! ### Prefetches -/

@[simp] theorem pfSector_offPlan (s : State) (l : Nat) (cch dropped : Bool) (sec : Nat) : offPlan (pfSector s l cch dropped sec) = offPlan s := by
  have hread := vReadSector_offPlan s .requester false sec
  rw [pfSector]
  split
  · rfl
  · split
    · exact count_offPlan ..
    · generalize vReadSector s .requester false sec = r at hread ⊢
      split
      · split
        · rw [cchInstall_offPlan]; exact hread
        · exact hread
      · exact count_offPlan ..

theorem pfOwn_offPlan (s : State) (l : Nat) (b : Bool) (sec : Nat) :
    offPlan (if (findSector s sec).isSome then s else pfSector s l false b sec) = offPlan s := by
  split_ifs
  · rfl
  · rw [pfSector_offPlan]

@[simp] theorem waitPrefetch_offPlan (s : State) (p : Plan) (e : Nat) : offPlan (waitPrefetch s p e) = offPlan s := by
  have hread := engineRead_offPlan s .requester (p.pfTable + 16 * e) 16
  rw [waitPrefetch]
  generalize engineRead s .requester (p.pfTable + 16 * e) 16 = r at hread ⊢
  split
  · exact hread
  · dsimp only
    split_ifs
    · exact hread
    · rw [count_offPlan]; exact hread
    · rw [modTrain_offPlan, rangeOp_one, offPlan_foldl (fun s i => pfOwn_offPlan ..)]
      exact hread

/-! ### The choice of the next items -/

@[simp] theorem nextForward_offPlan (s : State) (p : Plan) : offPlan (nextForward s p).2.2 = offPlan s := by
  have harr (k : Nat) : offPlan (if p.leg = 0 then (true, s) else arrived s p.fwdArrival p.fwdN k).2 = offPlan s := by
    split
    · rfl
    · exact arrived_offPlan ..
  simp only [nextForward, apply_ite (fun q : Item × Ready × State => offPlan q.2.2), apply_ite offPlan, wrf_offPlan, harr, ite_self]

@[simp] theorem nextBackward_offPlan (s : State) (p : Plan) : offPlan (nextBackward s p).2.2 = offPlan s := by
  rw [nextBackward]
  dsimp only
  split
  · rfl
  · split
    · rfl
    · exact arrived_offPlan ..

theorem next_offPlan (s : State) (p : Plan) (u : StreamId) :
    offPlan (if u = .F then nextForward s p else nextBackward s p).2.2 = offPlan s := by
  split <;> simp

@[simp] theorem choose_offPlan (s : State) (p : Plan) (u : StreamId) : offPlan (choose s p u) = offPlan s := by
  simp only [choose, apply_ite offPlan, startItem_offPlan, count_offPlan, modTrain_offPlan, waitPrefetch_offPlan, next_offPlan, ite_self]

@[simp] theorem startFiller_offPlan (s : State) (p : Plan) : offPlan (startFiller s p) = offPlan s := by
  rw [startFiller]
  split
  · rfl
  · split
    · rfl
    · dsimp only
      rw [count_offPlan, modTrain_offPlan, startAll_offPlan]
      split <;> rfl

@[simp] theorem endItems_offPlan (s : State) : offPlan (endItems s) = offPlan s := by
  refine offPlan_foldl (fun s u => ?_) _ _
  split
  · split <;> rfl
  · rfl

/-- The evaluation of a plan leaves the milestones, the fabric and the rest of `offPlan` alone. -/
@[simp] theorem planEvaluate_offPlan (s : State) : offPlan (planEvaluate s) = offPlan s := by
  have h0 := endItems_offPlan s
  unfold planEvaluate
  generalize endItems s = r at h0 ⊢
  rw [← h0]
  clear h0
  dsimp only
  split
  · rfl
  · next p _ =>
    split
    · rfl
    · have h1 : offPlan (if r.train.onU.isNone && streamFree r .U && (nextUpdate r p).2 == .yes then startItem r p .U (nextUpdate r p).1 else r)
          = offPlan r := by split <;> simp
      generalize (if r.train.onU.isNone && streamFree r .U && (nextUpdate r p).2 == .yes then startItem r p .U (nextUpdate r p).1 else r)
        = r1 at h1 ⊢
      have h2 : offPlan (choose (choose r1 p .F) p .B) = offPlan r := by rw [choose_offPlan, choose_offPlan, h1]
      generalize choose (choose r1 p .F) p .B = r2 at h2 ⊢
      split
      · rw [startFiller_offPlan, h2]
      · exact h2

end Sys2Proof.Machine
end

section
/-! PROOFS. The stage's late sums are looked at again (R67, R71): what that leaves alone. And the refutation of O18. -/

namespace Sys2Proof.Machine
open Sys2Proof.Laws Sys2Proof.Tests

variable {s t : State}

theorem mst_of_besideFabric (h : besideFabric t = besideFabric s) : t.mst = s.mst := (congrArg State.mst h : (besideFabric t).mst = _)

@[simp] theorem controlTo_besideFabric (s : State) (d op : Nat) (args : List Nat) : besideFabric (controlTo s d op args) = besideFabric s := by
  unfold controlTo
  split <;> simp

@[simp] theorem announce_besideFabric (s : State) (args : List Nat) : besideFabric (announce s args) = besideFabric s :=
  besideFabric_foldl (fun _ _ => controlTo_besideFabric ..) _ _

theorem releaseAt_cleared (s : State) (r n : Nat) : (releaseAt s r n).mst.cleared = s.mst.cleared := by
  rw [releaseAt, mst_of_besideFabric (announce_besideFabric ..)]
  rfl

/-- The end of a stage is told on; the last member that was late stays known. -/
theorem tryClear_cleared (s : State) : (tryClear s).mst.cleared = s.mst.cleared := by
  rw [tryClear]
  split
  · rfl
  · split
    · split
      · rfl
      · split
        · rfl
        · exact releaseAt_cleared ..
    · split
      · rw [mst_of_besideFabric (closeWord_besideFabric ..)]
        rfl
      · rfl

/-- Where nothing is late and no clearing has been noted, no look at the late sums has led. -/
theorem eq_of_lateSettle (h : lateSettle t = s) (hl : s.mst.late = []) (hc : s.mst.cleared = none) : t = s := by
  unfold lateSettle at h
  split at h
  · exact h
  · next hne =>
    exfalso
    dsimp only at h
    split at h
    · next hg =>
      rw [List.getLast?_eq_none_iff] at hg
      subst h
      have hstill : List.filter (fun m => t.mst.late.any fun q => q.1 == m.1 && q.2.1 == m.2.1) (lateHolds t) = [] := hl
      rw [hstill] at hg
      exact hne (by simpa using hg)
    · split at h
      · next hs => exact hs (by rw [← h] at hl; exact hl)
      · rw [← h, tryClear_cleared, mst_of_offPlan (planEvaluate_offPlan _), wrb_mst] at hc
        cases hc

/-! ### FLUSH where a shadowed slice holds sums -/

/-- Core 0 that flushes the one dirty sector of line 0x60. The table of slices lists slice 97 twice: the first entry is what the slice
reads as, empty; the second, which no access sees, holds line 0x60 with sums pending, and FLUSH, which goes through the list of the
slices, waits for it. -/
def sShadowed : State :=
  { sLine false [(0, ⟨.dirty, []⟩)] with slices := [(96, { lines := [{ line := 0x60, secs := [(0, ⟨.dirty, []⟩)] }] }),
      (97, {}), (97, { lines := [{ line := 0x60, red := some { op := 1, epoch := 0, age := 0 } }] })] }

theorem noReductions_sShadowed : NoReductions sShadowed := by
  refine ⟨fun i v h => ?_, fun _ => rfl⟩
  simp only [sliceOf, sShadowed, smGet] at h
  split_ifs at h
  · rw [List.mem_singleton.1 h]
  · cases h
  · cases h

theorem maintAccepts_sShadowed : maintAccepts sShadowed (on0 0 1 2 0 0) 2 0x30000 256 := by
  unfold maintAccepts
  decide

/-- FLUSH stalls: the line that no access sees still holds sums after its work. -/
theorem maintBody_sShadowed : maintBody (on0 0 1 2 0 0) 2 [] sShadowed (strm sShadowed (on0 0 1 2 0 0)) = .stall := by
  decide

theorem exec_flush_sShadowed : exec (.flush (on0 0 1 2 0 0)) sShadowed = .next sShadowed := by
  have hstall : maintInsn 2 (on0 0 1 2 0 0) [] sShadowed = sShadowed :=
    issueInsn_stall maintAccepts_sShadowed.1 rfl maintBody_sShadowed
  refine (onCore_lt _ _ (issues_core _ maintAccepts_sShadowed.1)).trans ?_
  rw [hstall]
  rfl

/-- Refutes O18: in a state whose table of slices lists slice 97 twice, FLUSH of a dirty sector waits for sums of the shadowed entry,
which no access sees and `NoReductions` does not speak of, and the sector stays dirty. -/
theorem not_maintenanceEffects : ¬ Obligations.MaintenanceEffects := by
  unfold Obligations.MaintenanceEffects
  intro h
  obtain ⟨-, -, -, hflush, -⟩ := h 0x30000 256 (on0 0 1 2 0 0) sShadowed (by decide) noReductions_sShadowed (by decide)
  obtain ⟨t, ht, hclean, -⟩ := hflush maintAccepts_sShadowed
  rw [exec_flush_sShadowed] at ht
  have hsame : t = sShadowed := eq_of_lateSettle (Eq.symm (by simpa using ht)) rfl rfl
  have hsec : findSector sShadowed 0x300 = some ⟨.dirty, []⟩ := by decide
  have := hclean 0x300 _ (by decide) (by decide) hsec rfl
  rw [hsame, hsec] at this
  exact absurd this (by decide)

end Sys2Proof.Machine
end

section
/-! PROOFS. Attestation (R534, R535): what the mailbox holds after a request. -/

namespace Sys2Proof.Machine

variable {s : State} {v : Nat} {body : State}

theorem doeHolds_answerDoe (s : State) (code : Nat) (vs : List Nat) : doeHolds s (answerDoe s (.response code vs)) code vs := rfl

theorem doeHolds_spdmError (s : State) (code data : Nat) : doeHolds s (spdmError s code data) 0x7F [code, data] := rfl

theorem spdm_busy (body : State) (h : s.sec.running = false ∨ s.boot.rb ≠ 0) (v : Nat) : spdm s v body = spdmError s 0x03 0 :=
  if_pos (by rcases h with h | h <;> simp [h])

theorem spdm_mismatch (body : State) (hr : s.sec.running = true) (hb : s.boot.rb = 0) (hv : v ≠ 0x12) :
    spdm s v body = spdmError s 0x41 0 := by
  rw [spdm, if_neg (by simp [hr, hb]), if_pos hv]

theorem spdm_served (body : State) (hr : s.sec.running = true) (hb : s.boot.rb = 0) : spdm s 0x12 body = body := by
  rw [spdm, if_neg (by simp [hr, hb]), if_neg (by decide)]

/-- Every request is judged by `spdm` before it is answered as it states. -/
theorem exec_spdmRequest {i : Instr} (s : State) (h : spdmRequest v i) : ∃ body, exec i s = .next (powered s (spdm s v body)) := by
  obtain rfl | ⟨a, b, c, rfl⟩ | rfl | ⟨k, o, n, rfl⟩ | ⟨k, x, rfl⟩ | ⟨k, g, x, rfl⟩ | ⟨c, rfl⟩ := h <;> exact ⟨_, rfl⟩

theorem exec_getVersion (v : Nat) (s : State) : exec (.getVersion v) s
    = .next (powered s (spdm s (if v = 0x10 then 0x12 else v) (answerDoe s (.response 0x04 [0x12])))) := rfl

section Ready
variable (hp : s.boot.pg = true) (hr : s.sec.running = true) (hb : s.boot.rb = 0)
include hp hr hb

/-- A request of version 1.2 that the firmware serves is answered as it states. -/
theorem served {i : Instr} (h : exec i s = .next (powered s (spdm s 0x12 body))) : exec i s = .next body := by
  rw [h, powered_on _ _ hp, spdm_served body hr hb]

theorem exec_getVersion_served (h : v = 0x10 ∨ v = 0x12) : exec (.getVersion v) s = .next (answerDoe s (.response 0x04 [0x12])) := by
  have hv : (if v = 0x10 then 0x12 else v) = 0x12 := by rcases h with rfl | rfl <;> rfl
  exact served hp hr hb (by rw [exec_getVersion, hv])

theorem exec_getCertificate_refused {k o : Nat} (n : Nat) (h : k ≠ 0 ∨ (certChain s).length ≤ o) :
    exec (.getCertificate 0x12 k o n) s = .next (spdmError s 0x01 0) := by
  rw [served hp hr hb (i := .getCertificate 0x12 k o n) rfl]
  exact congrArg _ (if_pos h)

theorem exec_getCertificate_part {o : Nat} (n : Nat) (h : o < (certChain s).length) :
    exec (.getCertificate 0x12 0 o n) s = .next (answerDoe s (.response 0x02 ([0, (((certChain s).drop o).take n).length,
      (certChain s).length - (o + (((certChain s).drop o).take n).length)] ++ (((certChain s).drop o).take n).map (·.toNat)))) := by
  rw [served hp hr hb (i := .getCertificate 0x12 0 o n) rfl]
  exact congrArg _ (if_neg (by omega))

theorem exec_challenge_refused {k : Nat} (x : BitVec 256) (h : k ≠ 0) :
    exec (.challenge 0x12 k x) s = .next (spdmError s 0x01 0) := by
  rw [served hp hr hb (i := .challenge 0x12 k x) rfl]
  exact congrArg _ (if_pos h)

theorem exec_challenge_signed (x : BitVec 256) :
    ∃ g, exec (.challenge 0x12 0 x) s = .next (answerDoe s (.response 0x03 [0, Config.sha384 (certChain s), g])) :=
  ⟨_, (served hp hr hb (i := .challenge 0x12 0 x) rfl).trans (congrArg _ (if_neg (by decide)))⟩

end Ready

/-- The measurements that an index asks for. -/
def measured (i : Nat) : List Nat := if i = 0 then [] else if i = 0xFF then [1, 2, 3, 4, 5] else [i]

/-- The signature over the measurements, where it is asked for. -/
def signature (s : State) (i : Nat) (g : Bool) (x : BitVec 256) : List Nat :=
  if g then [Config.sign s.sec.aliasOf (Config.sha384 (((measured i).map (measurement s)).flatMap (bytesOf 48) ++ bytesOf 32 x.toNat))]
  else []

section Ready
variable (hp : s.boot.pg = true) (hr : s.sec.running = true) (hb : s.boot.rb = 0)
include hp hr hb

theorem exec_getMeasurements_refused {i : Nat} (g : Bool) (x : BitVec 256) (h : 5 < i) (hf : i ≠ 0xFF) :
    exec (.getMeasurements 0x12 i g x) s = .next (spdmError s 0x01 0) := by
  rw [served hp hr hb (i := .getMeasurements 0x12 i g x) rfl]
  exact congrArg _ (if_pos ⟨by omega, hf, h⟩)

theorem exec_getMeasurements {i : Nat} (g : Bool) (x : BitVec 256) (h : i ≤ 5 ∨ i = 0xFF) :
    exec (.getMeasurements 0x12 i g x) s = .next (answerDoe s (.response 0x60 ([if i = 0 then 5 else (measured i).length]
      ++ (measured i).map (measurement s) ++ signature s i g x))) := by
  rw [served hp hr hb (i := .getMeasurements 0x12 i g x) rfl]
  exact congrArg _ (if_neg (by omega))

theorem exec_getMeasurements_one {i : Nat} (g : Bool) (x : BitVec 256) (h1 : 1 ≤ i) (h5 : i ≤ 5) :
    exec (.getMeasurements 0x12 i g x) s = .next (answerDoe s (.response 0x60 ([1, measurement s i] ++ signature s i g x))) := by
  have hone : measured i = [i] := by rw [measured, if_neg (by omega), if_neg (by omega)]
  rw [exec_getMeasurements hp hr hb g x (.inl h5), if_neg (by omega), hone]
  rfl

end Ready

/-- Settles O56. -/
theorem attestation : Obligations.Attestation := by
  unfold Obligations.Attestation
  refine ⟨fun s v i hp hi h => ?_, fun s v hp hr hb hv => ⟨fun i hi => ?_, fun hv' => ?_⟩, fun s v hp hr hb hv =>
    ⟨_, exec_getVersion_served hp hr hb hv, doeHolds_answerDoe ..⟩, fun s hp hr hb => ⟨?_, fun a b c => ?_, ?_, fun k o n h => ?_,
      fun o n h => ?_, fun k x h => ?_, fun x => ?_, fun i g x h hf => ?_, fun x => ?_, fun i x h1 h5 => ?_, fun x => ?_,
      fun i x h1 h5 => ?_, fun c => ?_⟩, fun s hp => ?_, fun i s hp => ?_⟩
  · rcases hi with hi | rfl
    · obtain ⟨body, he⟩ := exec_spdmRequest s hi
      exact ⟨_, by rw [he, powered_on _ _ hp, spdm_busy body h], doeHolds_spdmError ..⟩
    · exact ⟨_, by rw [exec_getVersion, powered_on _ _ hp, spdm_busy _ h], doeHolds_spdmError ..⟩
  · obtain ⟨body, he⟩ := exec_spdmRequest s hi
    exact ⟨_, by rw [he, powered_on _ _ hp, spdm_mismatch body hr hb hv], doeHolds_spdmError ..⟩
  · exact ⟨_, by rw [exec_getVersion, powered_on _ _ hp, if_neg hv', spdm_mismatch _ hr hb hv], doeHolds_spdmError ..⟩
  · exact ⟨_, served hp hr hb rfl, doeHolds_answerDoe ..⟩
  · exact ⟨_, served hp hr hb rfl, doeHolds_answerDoe ..⟩
  · exact ⟨_, served hp hr hb rfl, doeHolds_answerDoe ..⟩
  · exact ⟨_, exec_getCertificate_refused hp hr hb n h, doeHolds_answerDoe ..⟩
  · exact ⟨_, exec_getCertificate_part hp hr hb n h, _, rfl, doeHolds_answerDoe ..⟩
  · exact ⟨_, exec_challenge_refused hp hr hb x h, doeHolds_answerDoe ..⟩
  · obtain ⟨g, hg⟩ := exec_challenge_signed hp hr hb x
    exact ⟨_, g, hg, doeHolds_answerDoe ..⟩
  · exact ⟨_, exec_getMeasurements_refused hp hr hb g x h hf, doeHolds_answerDoe ..⟩
  · exact ⟨_, exec_getMeasurements hp hr hb false x (.inl (by decide)), doeHolds_answerDoe ..⟩
  · exact ⟨_, exec_getMeasurements_one hp hr hb false x h1 h5, doeHolds_answerDoe ..⟩
  · exact ⟨_, exec_getMeasurements hp hr hb false x (.inr rfl), doeHolds_answerDoe ..⟩
  · exact ⟨_, _, exec_getMeasurements_one hp hr hb true x h1 h5, doeHolds_answerDoe ..⟩
  · exact ⟨_, served hp hr hb rfl, doeHolds_answerDoe ..⟩
  · exact ⟨_, congrArg Host.Outcome.next (powered_on _ _ hp), rfl⟩
  · exact ⟨_, congrArg Host.Outcome.next (powered_on _ _ hp), doeHolds_answerDoe ..⟩

end Sys2Proof.Machine
end

section
/-! PROOFS. Registers: what a field reads as after a write of a field, and what writes of registers keep. -/

namespace Sys2Proof.Machine

variable {s t u : State} {o p : Nat} {f g : Fld}

/-! ### Words of registers -/

theorem rd_wrf_self (s : State) (o : Nat) (f : Fld) (n : Nat) : rd (wrf s o f n) o = setf (rd s o) f n := rd_wr_self ..
theorem rd_wrb_self (s : State) (o : Nat) (f : Fld) (b : Bool) : rd (wrb s o f b) o = setb (rd s o) f b := rd_wr_self ..
theorem rd_count_self (s : State) (o : Nat) (f : Fld) (n : Nat) : rd (count s o f n) o = addf (rd s o) f n := rd_wr_self ..
theorem rd_countSat_self (s : State) (o : Nat) (f : Fld) (n : Nat) : rd (countSat s o f n) o = satf (rd s o) f n := rd_wr_self ..

theorem rd_wrf_other (s : State) (f : Fld) (n : Nat) (h : p ≠ o) : rd (wrf s o f n) p = rd s p := rd_wr_other _ _ _ _ h
theorem rd_wrb_other (s : State) (f : Fld) (b : Bool) (h : p ≠ o) : rd (wrb s o f b) p = rd s p := rd_wr_other _ _ _ _ h
theorem rd_count_other (s : State) (f : Fld) (n : Nat) (h : p ≠ o) : rd (count s o f n) p = rd s p := rd_wr_other _ _ _ _ h
theorem rd_countSat_other (s : State) (f : Fld) (n : Nat) (h : p ≠ o) : rd (countSat s o f n) p = rd s p := rd_wr_other _ _ _ _ h

/-! ### Fields -/

theorem getf_addf_self (w : Word) (n : Nat) (h : f.lo + f.width ≤ 64) : getf (addf w f n) f = (getf w f + n) % 2 ^ f.width :=
  getf_setf_self _ _ _ h

theorem getf_satf_self (w : Word) (n : Nat) (h : f.lo + f.width ≤ 64) : getf (satf w f n) f = min (getf w f + n) (2 ^ f.width - 1) := by
  rw [satf, getf_setf_self _ _ _ h]
  exact Nat.mod_eq_of_lt (lt_of_le_of_lt (Nat.min_le_right ..) (Nat.sub_lt (by positivity) (by decide)))

theorem rdf_wrf_self (s : State) (o n : Nat) (h : f.lo + f.width ≤ 64) : rdf (wrf s o f n) o f = n % 2 ^ f.width := by
  rw [rdf, rd_wrf_self, getf_setf_self _ _ _ h]

theorem rdb_wrb_self (s : State) (o : Nat) (b : Bool) (h : f.lo + f.width ≤ 64) (h1 : f.width = 1) : rdb (wrb s o f b) o f = b := by
  rw [rdb, rd_wrb_self, getb_setb_self _ _ _ h h1]

/-- A saturating counter, its largest value written out. -/
theorem rdf_countSat_self (s : State) (o n : Nat) {m : Nat} (h : f.lo + f.width ≤ 64) (hm : 2 ^ f.width - 1 = m) :
    rdf (countSat s o f n) o f = min (rdf s o f + n) m := by
  rw [rdf, rd_countSat_self, getf_satf_self _ _ h, hm, rdf]

/-- Another field of the register written. -/
theorem rdf_wrf_field (s : State) (o n : Nat) (h : f.lo + f.width ≤ 64) (hd : g.lo + g.width ≤ f.lo ∨ f.lo + f.width ≤ g.lo) :
    rdf (wrf s o f n) o g = rdf s o g := by
  rw [rdf, rd_wrf_self, getf_setf_other _ _ _ _ h hd, rdf]

theorem rdf_wrb_field (s : State) (o : Nat) (b : Bool) (h : f.lo + f.width ≤ 64)
    (hd : g.lo + g.width ≤ f.lo ∨ f.lo + f.width ≤ g.lo) : rdf (wrb s o f b) o g = rdf s o g := by
  rw [rdf, rd_wrb_self, getf_setb_other _ _ _ _ h hd, rdf]

theorem rdb_wrf_field (s : State) (o n : Nat) (h : f.lo + f.width ≤ 64) (hd : g.lo + g.width ≤ f.lo ∨ f.lo + f.width ≤ g.lo) :
    rdb (wrf s o f n) o g = rdb s o g := by
  rw [rdb, rd_wrf_self, getb_setf_other _ _ _ _ h hd, rdb]

theorem rdb_wrb_field (s : State) (o : Nat) (b : Bool) (h : f.lo + f.width ≤ 64)
    (hd : g.lo + g.width ≤ f.lo ∨ f.lo + f.width ≤ g.lo) : rdb (wrb s o f b) o g = rdb s o g := by
  rw [rdb, rd_wrb_self, getb_setb_other _ _ _ _ h hd, rdb]

theorem rdf_countSat_field (s : State) (o n : Nat) (h : f.lo + f.width ≤ 64) (hd : g.lo + g.width ≤ f.lo ∨ f.lo + f.width ≤ g.lo) :
    rdf (countSat s o f n) o g = rdf s o g := rdf_wrf_field s o _ h hd

theorem rdf_count_field (s : State) (o n : Nat) (h : f.lo + f.width ≤ 64) (hd : g.lo + g.width ≤ f.lo ∨ f.lo + f.width ≤ g.lo) :
    rdf (count s o f n) o g = rdf s o g := rdf_wrf_field s o _ h hd

theorem rdb_countSat_field (s : State) (o n : Nat) (h : f.lo + f.width ≤ 64) (hd : g.lo + g.width ≤ f.lo ∨ f.lo + f.width ≤ g.lo) :
    rdb (countSat s o f n) o g = rdb s o g := rdb_wrf_field s o _ h hd

theorem rdb_count_field (s : State) (o n : Nat) (h : f.lo + f.width ≤ 64) (hd : g.lo + g.width ≤ f.lo ∨ f.lo + f.width ≤ g.lo) :
    rdb (count s o f n) o g = rdb s o g := rdb_wrf_field s o _ h hd

theorem rdf_of_rd (h : rd t o = rd s o) (f : Fld) : rdf t o f = rdf s o f := by rw [rdf, h, rdf]

theorem rdb_of_rd (h : rd t o = rd s o) (f : Fld) : rdb t o f = rdb s o f := by rw [rdb, h, rdb]

/-! ### What has changed beside the registers named -/

theorem OnlyRegs.refl (s : State) : OnlyRegs s s [] := ⟨rfl, fun _ _ => rfl⟩

theorem OnlyRegs.mono {as bs : List Nat} (h : OnlyRegs s t as) (hs : as ⊆ bs) : OnlyRegs s t bs := by
  obtain ⟨h1, h2⟩ := h
  exact ⟨h1, fun o ho => h2 o fun hm => ho (hs hm)⟩

theorem OnlyRegs.trans {as : List Nat} (h : OnlyRegs s t as) (k : OnlyRegs t u as) : OnlyRegs s u as := by
  obtain ⟨h1, h2⟩ := h
  obtain ⟨k1, k2⟩ := k
  refine ⟨?_, fun o ho => (k2 o ho).trans (h2 o ho)⟩
  rw [h1] at k1
  exact k1

theorem onlyRegs_wrf (s : State) (o : Nat) (f : Fld) (n : Nat) : OnlyRegs s (wrf s o f n) [o] := onlyRegs_wr ..
theorem onlyRegs_wrb (s : State) (o : Nat) (f : Fld) (b : Bool) : OnlyRegs s (wrb s o f b) [o] := onlyRegs_wr ..
theorem onlyRegs_count (s : State) (o : Nat) (f : Fld) (n : Nat) : OnlyRegs s (count s o f n) [o] := onlyRegs_wr ..
theorem onlyRegs_countSat (s : State) (o : Nat) (f : Fld) (n : Nat) : OnlyRegs s (countSat s o f n) [o] := onlyRegs_wr ..

theorem OnlyRegs.regsKept {as : List Nat} (h : OnlyRegs s t as) : RegsKept s t as := h.2

theorem RegsKept.refl (s : State) (as : List Nat) : RegsKept s s as := fun _ _ => rfl

theorem RegsKept.of_cfg {as : List Nat} (h : t.cfg = s.cfg) : RegsKept s t as := fun o _ => rd_congr h o

theorem RegsKept.trans {as : List Nat} (h : RegsKept s t as) (k : RegsKept t u as) : RegsKept s u as :=
  fun o ho => (k o ho).trans (h o ho)

theorem RegsKept.mono {as bs : List Nat} (h : RegsKept s t as) (hs : as ⊆ bs) : RegsKept s t bs := fun o ho => h o fun hm => ho (hs hm)

/-! ### Events -/

/-- Registers outside the table of pending vectors. -/
def NotPba (o : Nat) : Prop := o < 0x288000 ∨ 0x288100 ≤ o

theorem rd_signalVector_other (s : State) {v : Nat} (hv : v < 2 ^ 11) (h : NotPba o) : rd (signalVector s v) o = rd s o := by
  have hne : o ≠ 0x288000 + v / 64 * 8 := by rcases h with h | h <;> omega
  simp only [signalVector]
  split_ifs
  · exact smGet_smPut_other _ _ _ _ _ _ hne
  · rfl
  · rfl
  · rfl

theorem rd_signalSource_other (s : State) (n : Nat) (h : NotPba o) : rd (signalSource s n) o = rd s o := by
  rw [signalSource]
  split_ifs
  · exact rd_signalVector_other s (getf_lt _ ICU_SRC_target) h
  · rfl

theorem rd_signalSource_if (s : State) (c : Prop) [Decidable c] (n : Nat) (h : NotPba o) :
    rd (if c then signalSource s n else s) o = rd s o := by
  split_ifs
  · exact rd_signalSource_other s n h
  · rfl

/-- An event changes its source's register and those of the pending vectors. -/
theorem rd_raiseEvent_other (s : State) {n : Nat} (h : NotPba o) (hn : o ≠ ICU_SRC n) : rd (raiseEvent s n) o = rd s o := by
  rw [raiseEvent_eq, rd_signalSource_if _ _ _ h, (onlyRegs_eventNoted s n).2 o (by simpa using hn)]

theorem sec_of_onlySignals (h : OnlySignals s t) : t.sec = s.sec := (congrArg State.sec h : t.sec = _)

end Sys2Proof.Machine
end

section
/-! PROOFS. The shared resources (R542, R565), firmware installation (R529 to R533) and debug access (R543). -/

namespace Sys2Proof.Machine
open Sys2Proof.Laws

variable {s t : State}

theorem powered_same (s : State) : powered s s = s := by rw [powered, ite_self]

theorem next_powered_same {u : State} (h : u = s) : Host.Outcome.next (powered s u) = (.next s : Out) := by rw [h, powered_same]

theorem next_powered_on {u : State} (hp : s.boot.pg = true) : Host.Outcome.next (powered s u) = (.next u : Out) := by
  rw [powered_on _ _ hp]

/-! ### Claims (R542) -/

/-- Whether a claim of a resource by an owner code succeeds. -/
def Wins (s : State) (r c : Nat) : Prop :=
  (c = 1 ∨ c = 2) ∧ ¬ (r = 2 ∧ c = 2 ∧ debugOpen s = false)
    ∧ (rdf s (SEC_OWN r) SEC_OWN_owner = 0 ∨ rdf s (SEC_OWN r) SEC_OWN_owner = c)

theorem wins_iff {r c : Nat} : Wins s r c ↔ ((c == 1 || c == 2) && !(r == 2 && c == 2 && !debugOpen s)
    && (rdf s (SEC_OWN r) SEC_OWN_owner == 0 || rdf s (SEC_OWN r) SEC_OWN_owner == c)) = true := by
  rw [Wins]
  generalize rdf s (SEC_OWN r) SEC_OWN_owner = o
  generalize debugOpen s = d
  simp only [Bool.and_eq_true, Bool.or_eq_true, beq_iff_eq, Bool.not_eq_true', ← Bool.not_eq_true]
  tauto

theorem claimRes_won {r c : Nat} (h : Wins s r c) : claimRes s r c = (true, wrf s (SEC_OWN r) SEC_OWN_owner c) :=
  if_pos (wins_iff.1 h)

theorem claimRes_lost {r c : Nat} (h : ¬ Wins s r c) : claimRes s r c
    = (false, countSat (wrf s (SEC_OWN r) SEC_OWN_last_refused c) (SEC_OWN r) SEC_OWN_conflicts) :=
  if_neg (mt wins_iff.2 h)

theorem resourceClaim_of {r c : Nat} (hr : r = 1 ∨ r = 2) (h0 : 0 < c) (hc : c < 256) :
    resourceClaim s r c = wrb (claimRes s r c).2 (SEC_OWN r) SEC_OWN_conflict (!(claimRes s r c).1) := by
  rw [resourceClaim, if_neg (by omega), Nat.mod_eq_of_lt hc]

theorem resourceClaim_none {r c : Nat} (h : r ≠ 1 ∧ r ≠ 2 ∨ c = 0) : resourceClaim s r c = s := if_pos h

theorem resourceClaim_won {r c : Nat} (h0 : 0 < c) (hc : c < 256) (hr : r = 1 ∨ r = 2) (h : Wins s r c) :
    OnlyRegs s (resourceClaim s r c) [SEC_OWN r] ∧ rdf (resourceClaim s r c) (SEC_OWN r) SEC_OWN_owner = c
      ∧ rdb (resourceClaim s r c) (SEC_OWN r) SEC_OWN_conflict = false := by
  rw [resourceClaim_of hr h0 hc, claimRes_won h]
  dsimp only [Bool.not_true]
  refine ⟨(onlyRegs_wrf ..).trans (onlyRegs_wrb ..), ?_, rdb_wrb_self _ _ _ (by decide) rfl⟩
  rw [rdf_wrb_field _ _ _ (by decide) (by decide), rdf_wrf_self _ _ _ (by decide)]
  exact Nat.mod_eq_of_lt hc

theorem resourceClaim_lost {r c : Nat} (h0 : 0 < c) (hc : c < 256) (hr : r = 1 ∨ r = 2) (h : ¬ Wins s r c) :
    OnlyRegs s (resourceClaim s r c) [SEC_OWN r]
      ∧ rdf (resourceClaim s r c) (SEC_OWN r) SEC_OWN_owner = rdf s (SEC_OWN r) SEC_OWN_owner
      ∧ rdf (resourceClaim s r c) (SEC_OWN r) SEC_OWN_last_refused = c
      ∧ rdf (resourceClaim s r c) (SEC_OWN r) SEC_OWN_conflicts = min (rdf s (SEC_OWN r) SEC_OWN_conflicts + 1) 255
      ∧ rdb (resourceClaim s r c) (SEC_OWN r) SEC_OWN_conflict = true := by
  rw [resourceClaim_of hr h0 hc, claimRes_lost h]
  dsimp only [Bool.not_false]
  refine ⟨?_, ?_, ?_, ?_, ?_⟩
  · exact ((onlyRegs_wrf ..).trans (onlyRegs_countSat ..)).trans (onlyRegs_wrb ..)
  · rw [rdf_wrb_field _ _ _ (by decide) (by decide), rdf_countSat_field _ _ _ (by decide) (by decide),
      rdf_wrf_field _ _ _ (by decide) (by decide)]
  · rw [rdf_wrb_field _ _ _ (by decide) (by decide), rdf_countSat_field _ _ _ (by decide) (by decide), rdf_wrf_self _ _ _ (by decide)]
    exact Nat.mod_eq_of_lt hc
  · rw [rdf_wrb_field _ _ _ (by decide) (by decide), rdf_countSat_self _ _ _ (by decide) (by decide : _ = 255),
      rdf_wrf_field _ _ _ (by decide) (by decide)]
  · rw [rdb_wrb_self _ _ _ (by decide) rfl, Bool.not_false]

/-! ### Releases and the test logic -/

theorem resourceRelease_owner {r p : Nat} (hr : r = 1 ∨ r = 2) (hp : p ≠ 0) (ho : rdf s (SEC_OWN r) SEC_OWN_owner = p) :
    rdf (resourceRelease s r p) (SEC_OWN r) SEC_OWN_owner = 0 ∧ RegsKept s (resourceRelease s r p) [SEC_OWN r]
      ∧ (resourceRelease s r p).sec = (if r = 2 then { s.sec with tap := 0 } else s.sec) := by
  have hw : rdf (wrf s (SEC_OWN r) SEC_OWN_owner 0) (SEC_OWN r) SEC_OWN_owner = 0 := rdf_wrf_self _ _ _ (by decide)
  have hk : RegsKept s (wrf s (SEC_OWN r) SEC_OWN_owner 0) [SEC_OWN r] := (onlyRegs_wrf ..).regsKept
  rw [resourceRelease, if_pos ⟨hr, hp, ho⟩]
  dsimp only
  split_ifs
  · refine ⟨?_, hk.trans (.of_cfg rfl), ?_⟩
    · rw [rdf, rd_modSec]; exact hw
    · rw [modSec, wrf_sec]
  · exact ⟨hw, hk, wrf_sec ..⟩

theorem resourceRelease_ignored {r p : Nat} (h : r ≠ 1 ∧ r ≠ 2 ∨ p = 0 ∨ rdf s (SEC_OWN r) SEC_OWN_owner ≠ p) :
    resourceRelease s r p = s := if_neg (by rintro ⟨h1, h2, h3⟩; omega)

/-- The test logic after a clock that its owner gives. -/
def tapMoved (s : State) (a : Bool) : State := modSec s (fun x => { x with tap := tapNext s.sec.tap a })

theorem exec_boundaryScanClock_free (a b : Bool) (h : rdf s (SEC_OWN 2) SEC_OWN_owner = 0) :
    exec (.boundaryScanClock a b) s = .next (modSec s (fun x => { x with tap := 0 })) := congrArg Host.Outcome.next (if_pos h)

theorem exec_boundaryScanClock_shifts (a b : Bool) (h : rdf s (SEC_OWN 2) SEC_OWN_owner ≠ 0) (ht : s.sec.tap = 4 ∨ s.sec.tap = 11) :
    ∃ v, exec (.boundaryScanClock a b) s = .next (emit (takeFree (tapMoved s a)).2 (.pin 2 v)) :=
  ⟨_, congrArg Host.Outcome.next ((if_neg h).trans (if_pos ht))⟩

theorem exec_boundaryScanClock_moves (a b : Bool) (h : rdf s (SEC_OWN 2) SEC_OWN_owner ≠ 0) (ht : ¬ (s.sec.tap = 4 ∨ s.sec.tap = 11)) :
    exec (.boundaryScanClock a b) s = .next (tapMoved s a) := congrArg Host.Outcome.next ((if_neg h).trans (if_neg ht))

/-! ### Firmware (R530 to R533) -/

/-- The state once the image has been read, header first. -/
def imageMet (s : State) (a : Nat) : State :=
  afterRead (afterRead s a 512) (a + 512) (min 8384512 (leNat (hdrBytes (seen s a 512) 0x18 8)))

/-- What an installation remembers of an image: its verdict, its version, its digest and its header. -/
def imageTold (s : State) (a : Nat) : Nat × Nat × Nat × Nat :=
  (imageVerdict s a, leNat (hdrBytes (seen s a 512) 0x10 4), leNat (hdrBytes (seen s a 512) 0x40 48), leNat (hdrBytes (seen s a 512) 8 16))

theorem fwInstall_of_idle (h : rdf s SEC_STATUS SEC_STATUS_fw_state ≠ 1) : fwInstall s
    = modSec (wrf (imageMet s (rdf s SEC_FW_ADDR SEC_FW_ADDR_addr * 4096)) SEC_STATUS SEC_STATUS_fw_state 1)
        (fun y => { y with install := some (imageTold s (rdf s SEC_FW_ADDR SEC_FW_ADDR_addr * 4096)) }) := by
  rw [fwInstall, if_neg h, imageMet, imageTold]

theorem installEnd_eq (s : State) (st reason : Nat) : installEnd s st reason
    = raiseEvent (modSec (wrf (wrf s SEC_STATUS SEC_STATUS_fw_state st) SEC_STATUS SEC_STATUS_reason reason)
        (fun x => { x with install := none })) 19 := rfl

/-- An installation that has ended: the outcome in SEC_STATUS and the security source. -/
theorem installEnd_leaves (s : State) (st reason : Nat) :
    (installEnd s st reason).sec = { s.sec with install := none }
      ∧ rdb (installEnd s st reason) (ICU_SRC 19) ICU_SRC_pending = true
      ∧ rdf (installEnd s st reason) SEC_STATUS SEC_STATUS_fw_state = st % 2 ^ SEC_STATUS_fw_state.width
      ∧ rdf (installEnd s st reason) SEC_STATUS SEC_STATUS_reason = reason % 2 ^ SEC_STATUS_reason.width
      ∧ rdb (installEnd s st reason) SEC_STATUS SEC_STATUS_next_valid = rdb s SEC_STATUS SEC_STATUS_next_valid := by
  have hrd (v : State) : rd (raiseEvent v 19) SEC_STATUS = rd v SEC_STATUS :=
    rd_raiseEvent_other v (.inr (by decide)) (by decide)
  rw [installEnd_eq]
  refine ⟨?_, rdb_raiseEvent_pending .., ?_, ?_, ?_⟩
  · rw [sec_of_onlySignals (onlySignals_raiseEvent _ 19), modSec, wrf_sec, wrf_sec]
  · rw [rdf, hrd, rd_modSec, ← rdf, rdf_wrf_field _ _ _ (by decide) (by decide), rdf_wrf_self _ _ _ (by decide)]
  · rw [rdf, hrd, rd_modSec, ← rdf, rdf_wrf_self _ _ _ (by decide)]
  · rw [rdb, hrd, rd_modSec, ← rdb, rdb_wrf_field _ _ _ (by decide) (by decide), rdb_wrf_field _ _ _ (by decide) (by decide)]

/-- The slot that was not booted, without an image. -/
def slotEmptied (s : State) : State :=
  modSec s (fun x => { x with svn := smErase x.svn (1 - s.sec.active), image := smErase x.image (1 - s.sec.active)
                              marked := if x.marked = some (1 - s.sec.active) then none else x.marked })

/-- The slot that was not booted, with the image that has been installed, marked next. -/
def slotFilled (s : State) (n d h : Nat) : State :=
  modSec s (fun x => { x with svn := smSet x.svn (1 - s.sec.active) n, image := smSet x.image (1 - s.sec.active) (d, h)
                              marked := some (1 - s.sec.active) })

/-- The end of an installation, in its three cases. -/
theorem fwInstallDone_of {v n d h : Nat} (hi : s.sec.install = some (v, n, d, h)) (ok : Bool) : fwInstallDone s ok
    = if v ≠ 0 then installEnd s 3 v
      else if !ok then installEnd (wrb (slotEmptied s) SEC_STATUS SEC_STATUS_next_valid (slotEmptied s).sec.marked.isSome) 3 7
      else installEnd (wrb (slotFilled s n d h) SEC_STATUS SEC_STATUS_next_valid true) 2 0 := by
  rw [fwInstallDone, hi]
  rfl

theorem fwInstallDone_bad {v n d h : Nat} (hi : s.sec.install = some (v, n, d, h)) (hv : v ≠ 0) (ok : Bool) :
    fwInstallDone s ok = installEnd s 3 v := by rw [fwInstallDone_of hi, if_pos hv]

theorem fwInstallDone_lost {n d h : Nat} (hi : s.sec.install = some (0, n, d, h)) : fwInstallDone s false
    = installEnd (wrb (slotEmptied s) SEC_STATUS SEC_STATUS_next_valid (slotEmptied s).sec.marked.isSome) 3 7 := by
  rw [fwInstallDone_of hi, if_neg (by decide), if_pos (by decide)]

theorem fwInstallDone_good {n d h : Nat} (hi : s.sec.install = some (0, n, d, h)) : fwInstallDone s true
    = installEnd (wrb (slotFilled s n d h) SEC_STATUS SEC_STATUS_next_valid true) 2 0 := by
  rw [fwInstallDone_of hi, if_neg (by decide), if_neg (by decide)]

theorem onlyRegs_modSec_wrf (w : State) (o : Nat) (f : Fld) (n : Nat) (g : Sec → Sec) :
    OnlyRegs { w with sec := (modSec (wrf w o f n) g).sec } (modSec (wrf w o f n) g) [o] := by
  refine ⟨rfl, fun p hp => ?_⟩
  rw [rd_modSec, rd_wrf_other _ _ _ (List.ne_of_not_mem_cons hp), rd, rd]

/-- The state of an installation that begins: the image has been read, SEC_STATUS tells, and the verdict waits. -/
theorem fwInstall_begins (h : rdf s SEC_STATUS SEC_STATUS_fw_state ≠ 1) :
    let a := rdf s SEC_FW_ADDR SEC_FW_ADDR_addr * 4096
    OnlyRegs { imageMet s a with sec := (fwInstall s).sec } (fwInstall s) [SEC_STATUS]
      ∧ rdf (fwInstall s) SEC_STATUS SEC_STATUS_fw_state = 1
      ∧ (fwInstall s).sec = { (imageMet s a).sec with install := some (imageTold s a) } := by
  dsimp only
  rw [fwInstall_of_idle h]
  generalize imageMet s (rdf s SEC_FW_ADDR SEC_FW_ADDR_addr * 4096) = w
  generalize imageTold s (rdf s SEC_FW_ADDR SEC_FW_ADDR_addr * 4096) = x
  refine ⟨onlyRegs_modSec_wrf .., ?_, ?_⟩
  · rw [rdf, rd_modSec, ← rdf, rdf_wrf_self _ _ _ (by decide), Nat.mod_eq_of_lt (by decide)]
  · rw [modSec, wrf_sec]

theorem exec_fwInstall (hp : s.boot.pg = true) : exec .fwInstall s = .next (fwInstall s) := next_powered_on hp

theorem exec_fwInstall_busy (h : rdf s SEC_STATUS SEC_STATUS_fw_state = 1) : exec .fwInstall s = .next s := by
  have hbusy : fwInstall s = s := by rw [fwInstall, if_pos h]
  exact next_powered_same (u := fwInstall s) hbusy

theorem exec_fwInstallDone (ok : Bool) (s : State) : exec (.fwInstallDone ok) s = .next (fwInstallDone s ok) := rfl

theorem fwInstallDone_none (h : s.sec.install = none) (ok : Bool) : fwInstallDone s ok = s := by rw [fwInstallDone, h]

/-- A part of an installed slot that a later update keeps. -/
theorem slotEmptied_sec (s : State) : (slotEmptied s).sec.active = s.sec.active
    ∧ smFind? (slotEmptied s).sec.image (1 - s.sec.active) = none ∧ (slotEmptied s).sec.marked ≠ some (1 - s.sec.active) := by
  refine ⟨rfl, smFind?_smErase_self .., ?_⟩
  dsimp only [slotEmptied, modSec]
  split_ifs with h
  · exact Option.some_ne_none _ |>.symm
  · exact h

theorem slotFilled_sec (s : State) (n d h : Nat) : (slotFilled s n d h).sec.active = s.sec.active
    ∧ (slotFilled s n d h).sec.marked = some (1 - s.sec.active)
    ∧ smFind? (slotFilled s n d h).sec.image (1 - s.sec.active) = some (d, h)
    ∧ smFind? (slotFilled s n d h).sec.svn (1 - s.sec.active) = some n :=
  ⟨rfl, rfl, smFind?_smSet_self .., smFind?_smSet_self ..⟩

/-- What the end of an installation leaves. -/
theorem fwInstallDone_leaves {v n d h : Nat} (ok : Bool) (hi : s.sec.install = some (v, n, d, h)) :
    let t := fwInstallDone s ok
    t.sec.install = none ∧ t.sec.active = s.sec.active ∧ rdb t (ICU_SRC 19) ICU_SRC_pending = true
      ∧ rdf t SEC_STATUS SEC_STATUS_fw_state = (if v = 0 ∧ ok = true then 2 else 3)
      ∧ rdf t SEC_STATUS SEC_STATUS_reason = (if v ≠ 0 then v % 16 else if ok then 0 else 7)
      ∧ (v = 0 → ok = true → t.sec.marked = some (1 - s.sec.active) ∧ smFind? t.sec.image (1 - s.sec.active) = some (d, h)
        ∧ smFind? t.sec.svn (1 - s.sec.active) = some n ∧ rdb t SEC_STATUS SEC_STATUS_next_valid = true)
      ∧ (v = 0 → ok = false → smFind? t.sec.image (1 - s.sec.active) = none ∧ t.sec.marked ≠ some (1 - s.sec.active))
      ∧ (v ≠ 0 → t.sec = { s.sec with install := none }) := by
  dsimp only
  by_cases hv : v = 0
  · subst hv
    cases ok
    · obtain ⟨ha, himg, hmark⟩ := slotEmptied_sec s
      obtain ⟨hsec, hpend, hst, hre, -⟩ := installEnd_leaves (wrb (slotEmptied s) SEC_STATUS SEC_STATUS_next_valid
        (slotEmptied s).sec.marked.isSome) 3 7
      rw [wrb_sec] at hsec
      rw [fwInstallDone_lost hi, hsec]
      exact ⟨rfl, ha, hpend, hst, hre, fun _ h => absurd h (by decide), fun _ _ => ⟨himg, hmark⟩, fun h => absurd rfl h⟩
    · obtain ⟨ha, hmark, himg, hsvn⟩ := slotFilled_sec s n d h
      obtain ⟨hsec, hpend, hst, hre, hnv⟩ := installEnd_leaves (wrb (slotFilled s n d h) SEC_STATUS SEC_STATUS_next_valid true) 2 0
      rw [wrb_sec] at hsec
      rw [rdb_wrb_self _ _ _ (by decide) rfl] at hnv
      rw [fwInstallDone_good hi, hsec]
      exact ⟨rfl, ha, hpend, hst, hre, fun _ _ => ⟨hmark, himg, hsvn, hnv⟩, fun _ h => absurd h (by decide), fun h => absurd rfl h⟩
  · obtain ⟨hsec, hpend, hst, hre, -⟩ := installEnd_leaves s 3 v
    rw [fwInstallDone_bad hi hv, hsec, if_neg (by tauto), if_pos hv]
    exact ⟨rfl, rfl, hpend, hst, hre, fun h => absurd h hv, fun h => absurd h hv, fun _ => rfl⟩

/-! ### Fuses and debug access (R533, R543) -/

theorem commitSvn_leaves (s : State) : OnlyRegs s (commitSvn s) [SEC_FUSE]
    ∧ rdf (commitSvn s) SEC_FUSE SEC_FUSE_min_svn = max (rdf s SEC_FUSE SEC_FUSE_min_svn) (min 128 (rdf s SEC_STATUS SEC_STATUS_running_svn))
    ∧ rdb (commitSvn s) SEC_FUSE SEC_FUSE_locked = rdb s SEC_FUSE SEC_FUSE_locked := by
  have hlt : rdf s SEC_FUSE SEC_FUSE_min_svn < 2 ^ 8 := getf_lt (rd s SEC_FUSE) SEC_FUSE_min_svn
  rw [commitSvn]
  refine ⟨onlyRegs_wrf .., ?_, rdb_wrf_field _ _ _ (by decide) (by decide)⟩
  rw [rdf_wrf_self _ _ _ (by decide)]
  exact Nat.mod_eq_of_lt (max_lt hlt (lt_of_le_of_lt (Nat.min_le_left ..) (by decide)))

theorem debugUnlock_trusted {p : Path} (h : p = .host ∨ p = .mgmt) (s : State) :
    debugUnlock s p = wrb s SEC_STATUS SEC_STATUS_debug_open true := by rcases h with rfl | rfl <;> rfl

theorem debugUnlock_other {p : Path} (h : p ≠ .host) (h' : p ≠ .mgmt) (s : State) : debugUnlock s p = s := by
  cases p
  · exact absurd rfl h
  · exact absurd rfl h'
  · rfl
  · rfl

theorem debugUnlock_opens {p : Path} (h : p = .host ∨ p = .mgmt) (s : State) : OnlyRegs s (debugUnlock s p) [SEC_STATUS]
    ∧ rdb (debugUnlock s p) SEC_STATUS SEC_STATUS_debug_open = true := by
  rw [debugUnlock_trusted h]
  exact ⟨onlyRegs_wrb .., rdb_wrb_self _ _ _ (by decide) rfl⟩

/-- The boundary-scan clock moves the test logic of its owner and holds that of nobody in Test-Logic-Reset. -/
theorem exec_boundaryScanClock (a b : Bool) (s : State) : ∃ t, exec (.boundaryScanClock a b) s = .next t
    ∧ t = { s with sec := t.sec, free := t.free, out := t.out } ∧ t.sec = { s.sec with tap := t.sec.tap }
    ∧ (rdf s (SEC_OWN 2) SEC_OWN_owner = 0 → t.sec.tap = 0 ∧ t.out = s.out)
    ∧ (rdf s (SEC_OWN 2) SEC_OWN_owner ≠ 0 → t.sec.tap = tapNext s.sec.tap a
      ∧ ((s.sec.tap = 4 ∨ s.sec.tap = 11) → ∃ v, t.out = s.out ++ [.pin 2 v])
      ∧ (s.sec.tap ≠ 4 → s.sec.tap ≠ 11 → t.out = s.out)) := by
  by_cases h : rdf s (SEC_OWN 2) SEC_OWN_owner = 0
  · exact ⟨_, exec_boundaryScanClock_free a b h, rfl, rfl, fun _ => ⟨rfl, rfl⟩, fun hn => absurd h hn⟩
  · by_cases ht : s.sec.tap = 4 ∨ s.sec.tap = 11
    · obtain ⟨v, hv⟩ := exec_boundaryScanClock_shifts a b h ht
      exact ⟨_, hv, rfl, rfl, fun h0 => absurd h0 h, fun _ => ⟨rfl, fun _ => ⟨v, rfl⟩, fun h4 h11 => by tauto⟩⟩
    · exact ⟨_, exec_boundaryScanClock_moves a b h ht, rfl, rfl, fun h0 => absurd h0 h,
        fun _ => ⟨rfl, fun h' => absurd h' ht, fun _ _ => rfl⟩⟩

/-- Settles O55. -/
theorem resourcesAndFirmware : Obligations.ResourcesAndFirmware := by
  unfold Obligations.ResourcesAndFirmware
  refine ⟨fun r c s h => next_powered_same (resourceClaim_none h), fun r c s hp hr h0 hc =>
      ⟨fun h => ⟨_, next_powered_on hp, resourceClaim_won h0 hc hr h⟩, fun h => ⟨_, next_powered_on hp, resourceClaim_lost h0 hc hr h⟩⟩,
    fun r p s hp hr h0 ho => ⟨_, next_powered_on hp, resourceRelease_owner hr h0 ho⟩,
    fun r p s h => next_powered_same (resourceRelease_ignored h), exec_boundaryScanClock,
    fun s h => exec_fwInstall_busy h, ?_, fun ok s h => by rw [exec_fwInstallDone, fwInstallDone_none h],
    fun ok v n d h s hi => ⟨_, exec_fwInstallDone .., fwInstallDone_leaves ok hi⟩, fun s hp => ⟨_, next_powered_on hp, commitSvn_leaves s⟩,
    fun p s hp h => ⟨_, next_powered_on hp, debugUnlock_opens h s⟩,
    fun p s h h' => next_powered_same (debugUnlock_other h h' s)⟩
  intro s hp h
  obtain ⟨hregs, hst, hsec⟩ := fwInstall_begins h
  exact ⟨fwInstall s, imageTold s _, exec_fwInstall hp, hregs, hst, hsec, by rw [imageTold]⟩

end Sys2Proof.Machine
end

section
/-! PROOFS. Power (R499 to R502): the lowest state, the rails and the PLLs; what a command of a register does with the rails down. -/

namespace Sys2Proof.Machine
open Sys2Proof.Laws

variable {s t u : State} {o : Nat} {f : Fld}

/-! ### The same field of many registers -/

theorem mem_upto {n i : Nat} : i ∈ upto n ↔ i < n := List.mem_range

/-- Writes of one field of the registers of a family leave every other register. -/
theorem rd_foldl_wrf_other (reg : Nat → Nat) (f : Fld) (v : Nat) {xs : List Nat} (h : ∀ c ∈ xs, o ≠ reg c) (s : State) :
    rd (xs.foldl (fun s c => wrf s (reg c) f v) s) o = rd s o := by
  induction xs generalizing s with
  | nil => rfl
  | cons x xs ih => rw [List.foldl_cons, ih (fun c hc => h c (List.mem_cons_of_mem _ hc)), rd_wrf_other _ _ _ (h x List.mem_cons_self)]

/-- Each register of the family shows the value. -/
theorem rdf_foldl_wrf_mem (reg : Nat → Nat) (hinj : ∀ a b, reg a = reg b → a = b) (v : Nat) {xs : List Nat} {c : Nat} (hc : c ∈ xs)
    (hf : f.lo + f.width ≤ 64) (s : State) : rdf (xs.foldl (fun s c => wrf s (reg c) f v) s) (reg c) f = v % 2 ^ f.width := by
  induction xs generalizing s with
  | nil => cases hc
  | cons x xs ih =>
    rw [List.foldl_cons]
    by_cases hm : c ∈ xs
    · exact ih hm _
    · obtain rfl : c = x := (List.mem_cons.1 hc).resolve_right hm
      have hne : ∀ y ∈ xs, reg c ≠ reg y := fun y hy he => hm (hinj _ _ he ▸ hy)
      rw [rdf_of_rd (rd_foldl_wrf_other reg f v hne _), rdf_wrf_self _ _ _ hf]

theorem OnlyRegs.foldl {α : Type} {g : State → α → State} {as : List Nat} {xs : List α} (h : ∀ x ∈ xs, ∀ s, OnlyRegs s (g s x) as) (s : State) :
    OnlyRegs s (xs.foldl g s) as := by
  induction xs generalizing s with
  | nil => exact (OnlyRegs.refl s).mono (List.nil_subset _)
  | cons x xs ih => exact (h x List.mem_cons_self s).trans (ih (fun y hy => h y (List.mem_cons_of_mem _ hy)) (g s x))

section Parts
variable {as : List Nat} (h : OnlyRegs s t as)
include h

theorem OnlyRegs.eq : t = { s with cfg := t.cfg } := h.1
theorem OnlyRegs.pow : t.pow = s.pow := by rw [h.1]
theorem OnlyRegs.boot : t.boot = s.boot := by rw [h.1]
theorem OnlyRegs.mem : t.mem = s.mem := by rw [h.1]
theorem OnlyRegs.out : t.out = s.out := by rw [h.1]
theorem OnlyRegs.sec : t.sec = s.sec := by rw [h.1]
theorem OnlyRegs.rep : t.rep = s.rep := by rw [h.1]
theorem OnlyRegs.cores : t.cores = s.cores := by rw [h.1]
theorem OnlyRegs.fab : t.fab = s.fab := by rw [h.1]
theorem OnlyRegs.host : t.host = s.host := by rw [h.1]
theorem OnlyRegs.mst : t.mst = s.mst := by rw [h.1]
theorem OnlyRegs.thermal : t.thermal = s.thermal := by rw [h.1]

end Parts

/-! ### The lowest state (R499, R500) -/

theorem clStatus_inj (a b : Nat) (h : PWR_CL_STATUS a = PWR_CL_STATUS b) : a = b := by
  simp only [PWR_CL_STATUS] at h
  omega

/-- The registers that the lowest state shows in. -/
def lowestRegs : List Nat := PWR_STATUS :: (upto 144).map PWR_CL_STATUS

theorem not_mem_lowestRegs : o ∉ lowestRegs ↔ o ≠ PWR_STATUS ∧ ∀ c, c < 144 → o ≠ PWR_CL_STATUS c := by
  simp only [lowestRegs, List.mem_cons, List.mem_map, mem_upto, not_or, not_exists, not_and]
  exact and_congr_right fun _ => forall_congr' fun c => forall_congr' fun _ => ne_comm

theorem ne_clStatus_of_not_mem (h : o < 0x410008 ∨ 0x419000 ≤ o) {c : Nat} (hc : c < 144) : o ≠ PWR_CL_STATUS c := by
  simp only [PWR_CL_STATUS]
  omega

theorem rd_lowestState_other (h : o ≠ PWR_STATUS) (hc : ∀ c, c < 144 → o ≠ PWR_CL_STATUS c) : rd (lowestState s) o = rd s o := by
  rw [lowestState, rd_foldl_wrf_other PWR_CL_STATUS _ _ (fun c hm => hc c (mem_upto.1 hm)), rd_wrb_other _ _ _ h]

theorem rd_lowestState_status (s : State) : rd (lowestState s) PWR_STATUS = rd (wrb s PWR_STATUS PWR_STATUS_lowest_state true) PWR_STATUS := by
  rw [lowestState, rd_foldl_wrf_other PWR_CL_STATUS _ _ (fun c hm => ne_clStatus_of_not_mem (.inl (by decide)) (mem_upto.1 hm))]

theorem onlyRegs_lowestState (s : State) : OnlyRegs s (lowestState s) lowestRegs := by
  refine ((onlyRegs_wrb ..).mono (List.cons_subset_cons _ (List.nil_subset _))).trans (OnlyRegs.foldl (fun c hc s => ?_) _)
  exact (onlyRegs_wrf ..).mono (List.cons_subset.2 ⟨List.mem_cons_of_mem _ (List.mem_map_of_mem hc), List.nil_subset _⟩)

theorem rdb_lowestState (s : State) : rdb (lowestState s) PWR_STATUS PWR_STATUS_lowest_state = true := by
  rw [rdb_of_rd (rd_lowestState_status s), rdb_wrb_self _ _ _ (by decide) rfl]

theorem rdb_lowestState_field (s : State) {g : Fld} (hd : g.lo + g.width ≤ PWR_STATUS_lowest_state.lo
    ∨ PWR_STATUS_lowest_state.lo + PWR_STATUS_lowest_state.width ≤ g.lo) : rdb (lowestState s) PWR_STATUS g = rdb s PWR_STATUS g := by
  rw [rdb_of_rd (rd_lowestState_status s), rdb_wrb_field _ _ _ (by decide) hd]

theorem rdf_lowestState_rail (s : State) {c : Nat} (hc : c < 144) : rdf (lowestState s) (PWR_CL_STATUS c) PWR_CL_STATUS_rail_mv = 600 := by
  rw [lowestState, rdf_foldl_wrf_mem PWR_CL_STATUS clStatus_inj _ (mem_upto.2 hc) (by decide), Nat.mod_eq_of_lt (by decide)]

/-! ### VR_ALERT_N -/

@[simp] theorem rd_vrPin (s : State) (b : Bool) (o : Nat) : rd (vrPin s b) o = rd s o := rfl

/-- The state of an alert that is taken, before its event. -/
def alerted (s : State) : State :=
  count (modPow (lowestState (wrb (vrPin s true) PWR_STATUS PWR_STATUS_vr_alert true)) (fun p => { p with highAt := none }))
    PWR_COUNT PWR_COUNT_vr_alerts

theorem exec_vrAlertAssert_ignored (h : s.boot.trip = true ∨ s.boot.pg = false ∨ rdb s PWR_STATUS PWR_STATUS_vr_alert = true) :
    exec .vrAlertAssert s = .next (vrPin s true) := by
  refine congrArg Host.Outcome.next (if_pos ?_)
  rcases h with h | h | h <;> simp [h]

theorem exec_vrAlertAssert_taken (h : s.boot.trip = false) (hp : s.boot.pg = true) (ha : rdb s PWR_STATUS PWR_STATUS_vr_alert = false) :
    exec .vrAlertAssert s = .next (raiseEvent (alerted s) 12) := by
  refine congrArg Host.Outcome.next (if_neg ?_)
  simp [h, hp, ha]

theorem pow_of_onlySignals (h : OnlySignals s t) : t.pow = s.pow := by rw [h]

theorem rd_alerted_other (h : o ≠ PWR_COUNT) : rd (alerted s) o = rd (lowestState (wrb (vrPin s true) PWR_STATUS PWR_STATUS_vr_alert true)) o := by
  rw [alerted, rd_count_other _ _ _ h, rd_modPow]

theorem ne_icuSrc_of_lt (h : o < 0x710000) (n : Nat) : o ≠ ICU_SRC n := by
  simp only [ICU_SRC]
  omega

/-- Registers of the power and thermal blocks are as before an event. -/
theorem rd_raiseEvent_low (s : State) (n : Nat) (h : o < 0x710000) (h' : NotPba o) : rd (raiseEvent s n) o = rd s o :=
  rd_raiseEvent_other s h' (ne_icuSrc_of_lt h n)

theorem clStatus_bounds {c : Nat} (hc : c < 144) : 0x410008 ≤ PWR_CL_STATUS c ∧ PWR_CL_STATUS c < 0x419000 := by
  simp only [PWR_CL_STATUS]
  omega

theorem alert_leaves (s : State) : let t := raiseEvent (alerted s) 12
    rdb t PWR_STATUS PWR_STATUS_vr_alert = true ∧ rdb t PWR_STATUS PWR_STATUS_lowest_state = true ∧ t.pow.highAt = none
      ∧ rdb t (ICU_SRC 12) ICU_SRC_pending = true ∧ (∀ c, c < 144 → rdf t (PWR_CL_STATUS c) PWR_CL_STATUS_rail_mv = 600)
      ∧ rdf t PWR_COUNT PWR_COUNT_vr_alerts = (rdf s PWR_COUNT PWR_COUNT_vr_alerts + 1) % 2 ^ 16 := by
  have hst : rd (raiseEvent (alerted s) 12) PWR_STATUS = rd (lowestState (wrb (vrPin s true) PWR_STATUS PWR_STATUS_vr_alert true)) PWR_STATUS := by
    rw [rd_raiseEvent_low _ _ (by decide) (.inr (by decide)), rd_alerted_other (by decide)]
  have hcount : rd (raiseEvent (alerted s) 12) PWR_COUNT = rd (alerted s) PWR_COUNT :=
    rd_raiseEvent_low _ _ (by decide) (.inr (by decide))
  refine ⟨?_, ?_, ?_, rdb_raiseEvent_pending .., fun c hc => ?_, ?_⟩
  · rw [rdb_of_rd hst, rdb_lowestState_field _ (by decide), rdb_wrb_self _ _ _ (by decide) rfl]
  · rw [rdb_of_rd hst, rdb_lowestState]
  · rw [pow_of_onlySignals (onlySignals_raiseEvent ..), alerted, count_pow, modPow]
  · obtain ⟨h1, h2⟩ := clStatus_bounds hc
    have hrail : rd (raiseEvent (alerted s) 12) (PWR_CL_STATUS c)
        = rd (lowestState (wrb (vrPin s true) PWR_STATUS PWR_STATUS_vr_alert true)) (PWR_CL_STATUS c) := by
      rw [rd_raiseEvent_low _ _ (by omega) (.inr (by omega)), rd_alerted_other (by simp only [PWR_COUNT]; omega)]
    rw [rdf_of_rd hrail, rdf_lowestState_rail _ hc]
  · rw [rdf_of_rd hcount, alerted, rdf_count_self _ _ _ _ (by decide)]
    have h0 : rd (lowestState (wrb (vrPin s true) PWR_STATUS PWR_STATUS_vr_alert true)) PWR_COUNT = rd s PWR_COUNT := by
      rw [rd_lowestState_other (by decide) (fun c hc => ne_clStatus_of_not_mem (.inl (by decide)) hc), rd_wrb_other _ _ _ (by decide), rd_vrPin]
    rw [rdf, rd_modPow, h0, rdf]
    rfl

/-- The line is high again: the alert is over. -/
def alertOver (s : State) : State :=
  modPow (wrb (vrPin s false) PWR_STATUS PWR_STATUS_vr_alert false) (fun p => { p with highAt := some (now s) })

theorem exec_vrAlertRelease (h : rdb s PWR_STATUS PWR_STATUS_vr_alert = true) : exec .vrAlertRelease s = .next (alertOver s) :=
  congrArg Host.Outcome.next (if_pos h)

theorem exec_vrAlertRelease_ignored (h : rdb s PWR_STATUS PWR_STATUS_vr_alert = false) : exec .vrAlertRelease s = .next (vrPin s false) :=
  congrArg Host.Outcome.next (if_neg (by simp [h]))

theorem alertOver_leaves (s : State) : rdb (alertOver s) PWR_STATUS PWR_STATUS_vr_alert = false ∧ (alertOver s).pow.highAt = some (now s)
    ∧ RegsKept s (alertOver s) [PWR_STATUS]
    ∧ rdb (alertOver s) PWR_STATUS PWR_STATUS_lowest_state = rdb s PWR_STATUS PWR_STATUS_lowest_state := by
  refine ⟨?_, ?_, fun o ho => ?_, ?_⟩
  · rw [alertOver, rdb, rd_modPow, ← rdb, rdb_wrb_self _ _ _ (by decide) rfl]
  · rw [alertOver, modPow]
  · rw [alertOver, rd_modPow, rd_wrb_other _ _ _ (List.ne_of_not_mem_cons ho), rd_vrPin]
  · rw [alertOver, rdb, rd_modPow, ← rdb, rdb_wrb_field _ _ _ (by decide) (by decide), rdb, rd_vrPin, rdb]

/-! ### The end of the lowest state (R500) -/

theorem rd_advanceTo_other (s : State) (n : Nat) (h : o ≠ MST_TIME) : rd (advanceTo s n) o = rd s o := rd_wr_other _ _ _ _ h

theorem now_advanceTo (s : State) (n : Nat) : now (advanceTo s n) = max (now s) n % 2 ^ 64 := by
  rw [now, advanceTo, rd_wr_self, BitVec.toNat_ofNat]

theorem advanceTo_pow (s : State) (n : Nat) : (advanceTo s n).pow = s.pow := wr_pow ..

theorem now_lt (s : State) : now s < 2 ^ 64 := (rd s MST_TIME).isLt

/-- The rails that rise once normal clocks return. -/
theorem mem_rising_normalClocks (s : State) {c : Nat} (hc : c < 144) :
    c ∈ (normalClocks s).pow.rising ↔ 600 < smGet 600 s.pow.rails c := by
  have hr : (normalClocks s).pow.rising = (upto 144).filter (fun c => decide (600 < smGet 600 s.pow.rails c)) := by rw [normalClocks, modPow]
  rw [hr, List.mem_filter, mem_upto, decide_eq_true_iff]
  exact and_iff_right hc

theorem rd_normalClocks_other (h : o ≠ PWR_STATUS) : rd (normalClocks s) o = rd s o := by
  rw [normalClocks, rd_modPow, rd_wrb_other _ _ _ h]

theorem exec_lowestStateEnd (hl : rdb s PWR_STATUS PWR_STATUS_lowest_state = true) (hm : milestonesRun s = false)
    (ha : rdb s PWR_STATUS PWR_STATUS_vr_alert = false) (ht : rdb s THM_STATUS THM_STATUS_throttle = false) :
    exec .lowestStateEnd s = .next (normalClocks (advanceTo s (s.pow.highAt.getD 0 + 100000))) :=
  congrArg Host.Outcome.next (if_pos ⟨hl, hm, ha, ht⟩)

theorem exec_lowestStateEnd_ignored (h : rdb s PWR_STATUS PWR_STATUS_lowest_state = false ∨ milestonesRun s = true
    ∨ rdb s PWR_STATUS PWR_STATUS_vr_alert = true ∨ rdb s THM_STATUS THM_STATUS_throttle = true) : exec .lowestStateEnd s = .next s := by
  refine congrArg Host.Outcome.next (if_neg ?_)
  rintro ⟨hl, hm, ha, ht⟩
  rcases h with h | h | h | h
  · rw [h] at hl; cases hl
  · rw [h] at hm; cases hm
  · rw [h] at ha; cases ha
  · rw [h] at ht; cases ht

theorem normalClocks_leaves (s : State) : let t := normalClocks (advanceTo s (s.pow.highAt.getD 0 + 100000))
    rdb t PWR_STATUS PWR_STATUS_lowest_state = false
      ∧ (∀ h, s.pow.highAt = some h → h + 100000 < 2 ^ 64 → h + 100000 ≤ now t)
      ∧ (∀ c, c < 144 → (c ∈ t.pow.rising ↔ 600 < smGet 600 s.pow.rails c)) ∧ t.pow.slow = t.pow.rising
      ∧ RegsKept s t [PWR_STATUS, MST_TIME] := by
  refine ⟨?_, fun h hh hlt => ?_, fun c hc => ?_, ?_, fun o ho => ?_⟩
  · rw [normalClocks, rdb, rd_modPow, ← rdb, rdb_wrb_self _ _ _ (by decide) rfl]
  · have hn := now_lt s
    rw [now, rd_normalClocks_other (by decide), ← now, now_advanceTo, hh, Option.getD_some, Nat.mod_eq_of_lt (max_lt hn hlt)]
    exact le_max_right ..
  · rw [mem_rising_normalClocks _ hc, advanceTo_pow]
  · rw [normalClocks, modPow]
  · rw [rd_normalClocks_other (List.ne_of_not_mem_cons ho),
      rd_advanceTo_other _ _ (List.ne_of_not_mem_cons (List.not_mem_of_not_mem_cons ho))]

/-! ### Rails and PLLs (R495, R502) -/

/-- The rail of a cluster at its new voltage. -/
def railUp (s : State) (c : Nat) : State :=
  wrf (modPow s (fun p => { p with rising := p.rising.filter (· ≠ c), slow := p.slow.filter (· ≠ c) })) (PWR_CL_STATUS c)
    PWR_CL_STATUS_rail_mv (smGet 600 s.pow.rails c)

theorem onlyIf_of {p : Prop} [Decidable p] (h : p) (s : State) : onlyIf (decide p) s = .next s := by
  rw [onlyIf, decide_eq_true h, if_pos rfl]

theorem exec_railRiseDone {c : Nat} (hc : c < 144) (hr : c ∈ s.pow.rising) (hl : rdb s PWR_STATUS PWR_STATUS_lowest_state = false) :
    exec (.railRiseDone c) s = .next (railUp s c) :=
  (onlyIf_of hc _).trans (congrArg Host.Outcome.next (if_pos (by simp [hr, hl])))

theorem exec_railRiseDone_ignored {c : Nat} (hc : c < 144) (h : c ∉ s.pow.rising ∨ rdb s PWR_STATUS PWR_STATUS_lowest_state = true) :
    exec (.railRiseDone c) s = .next s :=
  (onlyIf_of hc _).trans (congrArg Host.Outcome.next (if_neg (by rcases h with h | h <;> simp [h])))

theorem railUp_leaves (s : State) (c : Nat) : c ∉ (railUp s c).pow.rising ∧ c ∉ (railUp s c).pow.slow
    ∧ rdf (railUp s c) (PWR_CL_STATUS c) PWR_CL_STATUS_rail_mv = smGet 600 s.pow.rails c % 2 ^ 12
    ∧ RegsKept s (railUp s c) [PWR_CL_STATUS c] := by
  refine ⟨?_, ?_, ?_, fun o ho => ?_⟩
  · rw [railUp, wrf_pow, modPow]
    simp
  · rw [railUp, wrf_pow, modPow]
    simp
  · exact rdf_wrf_self _ _ _ (by decide)
  · rw [railUp, rd_wrf_other _ _ _ (List.ne_of_not_mem_cons ho), rd_modPow]

/-- The clocks of a cluster stop. -/
def pllLost (s : State) (c : Nat) : State :=
  modPow s (fun p => { p with pllDown := if p.pllDown.contains c then p.pllDown else p.pllDown ++ [c] })

theorem exec_clusterPllUnlock {c : Nat} (hc : c < 144) (hp : s.boot.pg = true) : exec (.clusterPllUnlock c) s = .next (pllLost s c) :=
  onlyIf_powered hp hc

theorem mem_pllLost (s : State) (c d : Nat) : d ∈ (pllLost s c).pow.pllDown ↔ d ∈ s.pow.pllDown ∨ d = c := by
  rw [pllLost, modPow]
  dsimp only
  split_ifs with h
  · have hc : c ∈ s.pow.pllDown := by simpa using h
    exact ⟨.inl, fun h' => h'.elim id (· ▸ hc)⟩
  · rw [List.mem_append, List.mem_singleton]

/-- The clocks of a cluster run again. -/
def pllBack (s : State) (c : Nat) : State :=
  count (modPow s (fun p => { p with pllDown := p.pllDown.filter (· ≠ c) })) PWR_COUNT PWR_COUNT_pll_relock

theorem exec_clusterPllRelock {c : Nat} (hc : c < 144) (hp : s.boot.pg = true) (hd : c ∈ s.pow.pllDown) :
    exec (.clusterPllRelock c) s = .next (lateSettle (pllBack s c)) :=
  (onlyIf_powered hp hc).trans (congrArg Host.Outcome.next (if_pos (by simpa using hd)))

theorem exec_clusterPllRelock_ignored {c : Nat} (hc : c < 144) (hd : c ∉ s.pow.pllDown) : exec (.clusterPllRelock c) s = .next s := by
  refine (onlyIf_of hc _).trans (congrArg Host.Outcome.next ?_)
  rw [if_neg (by simpa using hd), powered_same]

theorem pllBack_leaves (s : State) (c : Nat) : c ∉ (pllBack s c).pow.pllDown ∧ RegsKept s (pllBack s c) [PWR_COUNT]
    ∧ rdf (pllBack s c) PWR_COUNT PWR_COUNT_pll_relock = (rdf s PWR_COUNT PWR_COUNT_pll_relock + 1) % 2 ^ 16 := by
  refine ⟨?_, fun o ho => ?_, ?_⟩
  · rw [pllBack, count_pow, modPow]
    simp
  · rw [pllBack, rd_count_other _ _ _ (List.ne_of_not_mem_cons ho), rd_modPow]
  · rw [pllBack, rdf_count_self _ _ _ _ (by decide), rdf, rd_modPow, rdf]
    rfl

theorem exec_clusterPower_missing {c : Nat} (hc : 144 ≤ c) {i : Instr} (h : i = .railRiseDone c ∨ i = .clusterPllUnlock c ∨ i = .clusterPllRelock c)
    (s : State) : exec i s = .fault .noSuchInstance := by
  have hn : ¬ c < 144 := Nat.not_lt.2 hc
  rcases h with rfl | rfl | rfl <;> exact onlyIf_of_not _ hn

/-! ### Commands with the rails down (R3) -/

theorem next_powered_off {u : State} (hp : s.boot.pg = false) : Host.Outcome.next (powered s u) = (.next s : Out) := by
  rw [powered_off _ _ hp]

theorem onlyIf_powered_off {u : State} {p : Prop} [Decidable p] (hp : s.boot.pg = false) (h : decide p = true) :
    onlyIf (decide p) (powered s u) = .next s := by
  rw [powered_off _ _ hp, onlyIf, h, if_pos rfl]

/-- With the rails down a command of a register has no effect. -/
theorem exec_unpowered {i : Instr} (h : needsPower i = true) (hp : s.boot.pg = false) : exec i s = .next s := by
  cases i
  case clusterPllRelock | clusterPllUnlock | windowWaysWrite | coreIssueWrite | coreStallClear | dbgDataWrite | mxuStatClear | roCacheFill
    | roInvalidate | streamHaltRequest | streamStartRequest | vecFlagsClear | vecStatClear | icuClaim | icuEoi | icuCountClear | icuSrcWrite
    | portDisable | portEnable | portRetrain => exact onlyIf_powered_off hp h
  case atnEnable | atnRingEnable | atnStatClear | auditClear | busMasterDisable | busMasterEnable | cchStatClear | challenge
    | getCapabilities | getCertificate | getDigests | getMeasurements | getVersion | negotiateAlgorithms | spdmUnsupportedRequest | doeAbort
    | doeDiscovery | collectiveQueueEnable | commitSvn | coreRetire | cwyStatClear | debugUnlock | fabricStart | fwInstall
    | epochCommitWrite | epochRequest | hstStatClear | keepEnter | keepReclaim | keepRelease | krbStatClear | icuSwi | logEnable
    | logTailWrite | monStatClear | phaseEnable | pwrStatClear | repLogEnable | repStatClear | resourceClaim | resourceRelease
    | stepCtrlLoad | stepPause | stepRun | stepStop | telExpEnable | thmStatClear | unsupportedRequest | vrgStatClear
    | watchdogKick => exact next_powered_off hp
  case repairDone => exact congrArg Host.Outcome.next (if_neg (by simp [hp]))
  all_goals exact absurd h Bool.false_ne_true

/-- Settles O51. -/
theorem powerEvents : Obligations.PowerEvents := by
  unfold Obligations.PowerEvents
  refine ⟨fun s h => exec_vrAlertAssert_ignored h, fun s ht hp ha => ⟨_, exec_vrAlertAssert_taken ht hp ha, alert_leaves s⟩,
    fun s h => ⟨_, exec_vrAlertRelease h, alertOver_leaves s⟩, fun s h => exec_vrAlertRelease_ignored h,
    fun s hl hm ha ht => ⟨_, exec_lowestStateEnd hl hm ha ht, normalClocks_leaves s⟩, fun s h => exec_lowestStateEnd_ignored h,
    fun c s hc hr hl => ⟨_, exec_railRiseDone hc hr hl, railUp_leaves s c⟩, fun c s hc h => exec_railRiseDone_ignored hc h,
    fun c s hc hp => ⟨_, exec_clusterPllUnlock hc hp, (mem_pllLost ..).2 (.inr rfl), fun d hd => ?_, rfl⟩,
    fun c s hc hp hd => ⟨_, exec_clusterPllRelock hc hp hd, pllBack_leaves s c⟩, fun c s hc hd => exec_clusterPllRelock_ignored hc hd,
    fun c s hc i hi => exec_clusterPower_missing hc hi s, fun i s h hp => exec_unpowered h hp⟩
  rw [mem_pllLost]
  exact or_iff_left hd

end Sys2Proof.Machine
end

section
/-! PROOFS. Device resets and the boot sequencer (R488 to R491, R510, R563; Table 15-5). -/

namespace Sys2Proof.Machine
open Sys2Proof.Laws

variable {s t u : State} {o n : Nat}

/-! ### The boot sequencer alone -/

/-- Nothing but the boot sequencer and its register PWR_BOOT has changed. -/
def OnlyBoot (s t : State) : Prop := t = { s with cfg := t.cfg, boot := t.boot } ∧ RegsKept s t [PWR_BOOT]

theorem OnlyBoot.refl (s : State) : OnlyBoot s s := ⟨rfl, RegsKept.refl s _⟩

theorem OnlyBoot.trans (h : OnlyBoot s t) (k : OnlyBoot t u) : OnlyBoot s u := by
  obtain ⟨h1, h2⟩ := h
  obtain ⟨k1, k2⟩ := k
  refine ⟨?_, h2.trans k2⟩
  rw [h1] at k1
  exact k1

theorem onlyBoot_modBoot (s : State) (f : Boot → Boot) : OnlyBoot s (modBoot s f) := ⟨rfl, fun _ _ => rfl⟩

theorem OnlyRegs.onlyBoot (h : OnlyRegs s t [PWR_BOOT]) : OnlyBoot s t := by
  obtain ⟨h1, h2⟩ := h
  refine ⟨?_, h2⟩
  rw [h1]

theorem onlyBoot_wr (s : State) (w : Word) : OnlyBoot s (wr s PWR_BOOT w) := (onlyRegs_wr ..).onlyBoot
theorem onlyBoot_wrf (s : State) (f : Fld) (v : Nat) : OnlyBoot s (wrf s PWR_BOOT f v) := (onlyRegs_wrf ..).onlyBoot

@[simp] theorem modBoot_boot (s : State) (f : Boot → Boot) : (modBoot s f).boot = f s.boot := rfl

theorem now_of_regsKept (h : RegsKept s t [PWR_BOOT]) : now t = now s := by rw [now, h MST_TIME (by decide), now]

theorem now_wr_boot (s : State) (w : Word) : now (wr s PWR_BOOT w) = now s := now_of_regsKept (onlyBoot_wr s w).2

theorem now_wrf_boot (s : State) (f : Fld) (v : Nat) : now (wrf s PWR_BOOT f v) = now s := now_of_regsKept (onlyBoot_wrf s f v).2

/-! ### An attempt begins, or waits (R489, R491) -/

/-- PWR_BOOT where attempt n begins. -/
def attemptStart (s0 : State) (n : Nat) : State := if n = 1 then wr s0 PWR_BOOT 0 else s0

theorem attemptNow_eq (s : State) (n : Nat) : attemptNow s n
    = modBoot (wrf (wrf (wrf (attemptStart s n) PWR_BOOT PWR_BOOT_attempt n) PWR_BOOT PWR_BOOT_state 0) PWR_BOOT PWR_BOOT_wait_s 0)
        (fun b => { b with step := if b.sampled then 2 else 1, began := some (wallNow (attemptStart s n)), waits := false }) := rfl

theorem onlyBoot_attemptStart (s : State) (n : Nat) : OnlyBoot s (attemptStart s n) := by
  rw [attemptStart]
  split_ifs
  · exact onlyBoot_wr ..
  · exact .refl s

theorem attemptStart_boot (s : State) (n : Nat) : (attemptStart s n).boot = s.boot := by
  rw [attemptStart]
  split_ifs
  · rw [wr_boot]
  · rfl

theorem onlyBoot_attemptNow (s : State) (n : Nat) : OnlyBoot s (attemptNow s n) := by
  rw [attemptNow_eq]
  exact ((((onlyBoot_attemptStart s n).trans (onlyBoot_wrf ..)).trans (onlyBoot_wrf ..)).trans (onlyBoot_wrf ..)).trans (onlyBoot_modBoot ..)

theorem attemptNow_boot (s : State) (n : Nat) : (attemptNow s n).boot
    = { s.boot with step := if s.boot.sampled then 2 else 1, began := some (wallNow s), waits := false } := by
  have hw : wallNow (attemptStart s n) = wallNow s := by
    rw [wallNow, attemptStart_boot, now_of_regsKept (onlyBoot_attemptStart s n).2, wallNow]
  rw [attemptNow_eq, modBoot_boot, wrf_boot, wrf_boot, wrf_boot, attemptStart_boot, hw]

theorem wallNow_attemptNow (s : State) (n : Nat) : wallNow (attemptNow s n) = wallNow s := by
  rw [wallNow, attemptNow_boot, now_of_regsKept (onlyBoot_attemptNow s n).2, wallNow]

/-- An attempt that begins now. -/
theorem attemptBegins_attemptNow (h : s.boot.sampled = t.boot.sampled) (n : Nat) : attemptBegins s (attemptNow t n) n := by
  refine ⟨?_, ?_, ?_, ?_, ?_, ?_⟩
  · rw [attemptNow_boot, h]
  · rw [attemptNow_boot]
  · rw [attemptNow_boot, wallNow_attemptNow]
  · rw [attemptNow_eq, rdf, rd_modBoot, ← rdf, rdf_wrf_field _ _ _ (by decide) (by decide), rdf_wrf_field _ _ _ (by decide) (by decide),
      rdf_wrf_self _ _ _ (by decide)]
    rfl
  · rw [attemptNow_eq, rdf, rd_modBoot, ← rdf, rdf_wrf_field _ _ _ (by decide) (by decide), rdf_wrf_self _ _ _ (by decide), Nat.zero_mod]
  · rw [attemptNow_eq, rdf, rd_modBoot, ← rdf, rdf_wrf_self _ _ _ (by decide), Nat.zero_mod]

theorem backoffOf_lt (n : Nat) : backoffOf n < 2 ^ 16 := by
  rw [backoffOf]
  split_ifs
  · decide
  · exact lt_of_le_of_lt (Nat.min_le_right ..) (by decide)

/-- The registers of a wait. -/
def backoffRegs (s : State) : State :=
  wrf (wrf s PWR_BOOT PWR_BOOT_state 1) PWR_BOOT PWR_BOOT_wait_s (backoffOf (rdf s PWR_BOOT PWR_BOOT_attempt + 1))

theorem backoff_eq (s : State) : backoff s = modBoot (backoffRegs s)
    (fun b => { b with step := 0, until_ := wallNow s + backoffOf (rdf s PWR_BOOT PWR_BOOT_attempt + 1) * 10 ^ 9 }) := by
  rw [backoff, backoffRegs]

theorem onlyBoot_backoff (s : State) : OnlyBoot s (backoff s) := by
  rw [backoff_eq, backoffRegs]
  exact ((onlyBoot_wrf ..).trans (onlyBoot_wrf ..)).trans (onlyBoot_modBoot ..)

theorem attemptWaits_backoff (s : State) : attemptWaits (backoff s) (rdf s PWR_BOOT PWR_BOOT_attempt + 1) := by
  rw [backoff_eq]
  refine ⟨rfl, ?_, ?_⟩
  · rw [rdf, rd_modBoot, ← rdf, backoffRegs, rdf_wrf_field _ _ _ (by decide) (by decide), rdf_wrf_self _ _ _ (by decide),
      Nat.mod_eq_of_lt (by decide)]
  · rw [rdf, rd_modBoot, ← rdf, backoffRegs, rdf_wrf_self _ _ _ (by decide)]
    exact Nat.mod_eq_of_lt (backoffOf_lt _)

/-- The other fields of PWR_BOOT stay over a wait. -/
theorem rdf_backoff_other (s : State) {f : Fld} (h1 : f.lo + f.width ≤ PWR_BOOT_state.lo ∨ PWR_BOOT_state.lo + PWR_BOOT_state.width ≤ f.lo)
    (h2 : PWR_BOOT_wait_s.lo + PWR_BOOT_wait_s.width ≤ f.lo) : rdf (backoff s) PWR_BOOT f = rdf s PWR_BOOT f := by
  rw [backoff_eq, rdf, rd_modBoot, ← rdf, backoffRegs, rdf_wrf_field _ _ _ (by decide) (.inr h2), rdf_wrf_field _ _ _ (by decide) h1]

/-! ### When an attempt is due (R491, R563) -/

theorem beginAttempt_low (hp : s.boot.pg = true) (hl : s.boot.rstLow = true) :
    beginAttempt s = modBoot s (fun b => { b with waits := true }) := by
  rw [beginAttempt, if_neg (by simp [hp]), if_pos hl]

theorem beginAttempt_now (hp : s.boot.pg = true) (hl : s.boot.rstLow = false)
    (hb : ∀ b, s.boot.began = some b → b + 60 * 10 ^ 9 < wallNow s) : beginAttempt s = attemptNow s 1 := by
  rw [beginAttempt, if_neg (by simp [hp]), if_neg (by simp [hl])]
  split
  · next b hs => exact if_neg (Nat.not_le.2 (hb b hs))
  · rfl

theorem beginAttempt_again (hp : s.boot.pg = true) (hl : s.boot.rstLow = false) {b : Nat} (hs : s.boot.began = some b)
    (hb : wallNow s ≤ b + 60 * 10 ^ 9) : beginAttempt s = backoff (modBoot s (fun b => { b with waits := false })) := by
  rw [beginAttempt, if_neg (by simp [hp]), if_neg (by simp [hl]), hs]
  exact if_pos hb

theorem onlyBoot_beginAttempt (s : State) : OnlyBoot s (beginAttempt s) := by
  by_cases hp : s.boot.pg = true
  · by_cases hl : s.boot.rstLow = true
    · rw [beginAttempt_low hp hl]
      exact onlyBoot_modBoot ..
    · by_cases hb : ∀ b, s.boot.began = some b → b + 60 * 10 ^ 9 < wallNow s
      · rw [beginAttempt_now hp (by simpa using hl) hb]
        exact onlyBoot_attemptNow ..
      · simp only [not_forall, not_lt] at hb
        obtain ⟨b, hs, hb⟩ := hb
        rw [beginAttempt_again hp (by simpa using hl) hs hb]
        exact (onlyBoot_modBoot ..).trans (onlyBoot_backoff ..)
  · rw [beginAttempt, if_pos (by simpa using hp)]
    exact .refl s

end Sys2Proof.Machine
end

section
/-! PROOFS. What a device reset leaves (Table 15-5, R488). -/

namespace Sys2Proof.Machine
open Sys2Proof.Laws

variable {s t u : State} {o n : Nat}

/-! ### Registers cleared by their offsets -/

theorem smGet_filter {α : Type} (d : α) (m : SMap α) (p : Nat → Bool) (k : Nat) :
    smGet d (m.filter (fun e => p e.1)) k = if p k = true then smGet d m k else d := by
  induction m with
  | nil => simp [smGet]
  | cons e m ih =>
    obtain ⟨j, v⟩ := e
    by_cases hp : p j = true
    · rw [List.filter_cons_of_pos (p := fun e : Nat × α => p e.1) hp]
      by_cases hk : j = k
      · subst hk
        simp [smGet, hp]
      · simp only [smGet, if_neg hk, ih]
    · rw [List.filter_cons_of_neg (p := fun e : Nat × α => p e.1) hp, ih]
      by_cases hk : j = k
      · subst hk
        simp [hp]
      · simp only [smGet, if_neg hk]

theorem rd_filter {p : Nat → Bool} (h : t.cfg = s.cfg.filter (fun e => p e.1)) (o : Nat) : rd t o = if p o = true then rd s o else resetWord o := by
  rw [rd, h, smGet_filter, rd]

theorem rd_clearIf (s : State) (p : Nat → Bool) (o : Nat) : rd (clearIf s p) o = if p o = true then resetWord o else rd s o := by
  rw [rd_filter (s := s) (p := fun k => !p k) rfl]
  cases p o <;> rfl

/-! ### The state a device reset leaves, before the repair registers are set -/

/-- The device after a reset, but for the pointers of the stacks, the count of refusals and VR_ALERT_N. -/
def clearedBase (s : State) : State :=
  { cfg := s.cfg.filter (fun e => keptReg e.1)
    mem := { base := some s.free, lostPcs := s.mem.lostPcs, gone := s.mem.gone }
    rep := { retired := s.rep.retired, pendRet := s.rep.pendRet, tsvFailed := s.rep.tsvFailed, tsvSpared := s.rep.tsvSpared
             lost := s.rep.lost, groups := s.rep.groups, replaced := s.rep.replaced, halfWidth := s.rep.halfWidth }
    boot := { pg := s.boot.pg, rstLow := s.boot.rstLow, perst := s.boot.perst, straps := s.boot.straps, sampled := s.boot.sampled
              wall := s.boot.wall + now s, began := s.boot.began, trip := s.boot.trip, cooling := s.boot.cooling
              vrLow := s.boot.vrLow, tripNv := s.boot.tripNv }
    thermal := s.thermal
    sec := { active := s.sec.active, marked := s.sec.marked
             svn := (match s.sec.install with
               | some _ => smErase s.sec.svn (1 - s.sec.active)
               | none => s.sec.svn)
             image := (match s.sec.install with
               | some _ => smErase s.sec.image (1 - s.sec.active)
               | none => s.sec.image) }
    nextId := s.nextId, free := s.free + 1, out := s.out, pending := s.pending }

/-- The repair registers at the end of a reset. -/
def repairRegs (s : State) : State :=
  wrf ((upto 36).foldl (fun s k => wrf s (REP_STACK k) REP_STACK_pointer 0) s) REP_STATUS REP_STATUS_refused 0

theorem deviceReset_eq (s : State) : deviceReset s = vrLevel (repairRegs (clearedBase s)) := rfl

/-- The registers that repairRegs writes. -/
def stackRegs : List Nat := REP_STATUS :: (upto 36).map REP_STACK

theorem onlyRegs_repairRegs (s : State) : OnlyRegs s (repairRegs s) stackRegs := by
  refine (OnlyRegs.foldl (fun k hk s => ?_) _).trans ((onlyRegs_wrf ..).mono (List.cons_subset_cons _ (List.nil_subset _)))
  exact (onlyRegs_wrf ..).mono (List.cons_subset.2 ⟨List.mem_cons_of_mem _ (List.mem_map_of_mem hk), List.nil_subset _⟩)

theorem keptReg_stack {k : Nat} (hk : k < 36) : keptReg (REP_STACK k) = true := by
  have h0 : REP_STACK 0 ≤ REP_STACK k := Nat.add_le_add_left (Nat.mul_le_mul_right _ k.zero_le) _
  have h1 : REP_STACK k < REP_STACK 36 := Nat.add_lt_add_left (Nat.mul_lt_mul_of_pos_right hk (by decide)) _
  rw [keptReg, decide_eq_true h0, decide_eq_true h1]
  simp

theorem not_mem_stackRegs (h : keptReg o = false) : o ∉ stackRegs := by
  simp only [stackRegs, List.mem_cons, List.mem_map, mem_upto, not_or, not_exists, not_and]
  refine ⟨fun he => ?_, fun k hk he => ?_⟩
  · rw [he] at h
    exact absurd h (by decide)
  · rw [← he, keptReg_stack hk] at h
    exact Bool.noConfusion h

theorem onlyRegs_vrLevel (s : State) : OnlyRegs s (vrLevel s) lowestRegs := by
  rw [vrLevel]
  split_ifs
  · exact ((onlyRegs_wrb ..).mono (List.cons_subset_cons _ (List.nil_subset _))).trans (onlyRegs_lowestState _)
  · exact (OnlyRegs.refl s).mono (List.nil_subset _)

theorem vrLevel_of_high (h : s.boot.vrLow = false) : vrLevel s = s := by rw [vrLevel, h]; rfl

theorem onlyRegs_deviceReset (s : State) : OnlyRegs (clearedBase s) (deviceReset s) (stackRegs ++ lowestRegs) := by
  rw [deviceReset_eq]
  exact ((onlyRegs_repairRegs _).mono (List.subset_append_left ..)).trans ((onlyRegs_vrLevel _).mono (List.subset_append_right ..))

theorem rd_clearedBase (s : State) (o : Nat) : rd (clearedBase s) o = if keptReg o = true then rd s o else resetWord o := rd_filter rfl o

/-- A register that a reset clears holds its reset value, those of the lowest state where VR_ALERT_N is high. -/
theorem rd_deviceReset_cleared (h : keptReg o = false) (hv : s.boot.vrLow = true → o ∉ lowestRegs) :
    rd (deviceReset s) o = resetWord o := by
  have hb : rd (clearedBase s) o = resetWord o := by rw [rd_clearedBase, if_neg (by simp [h])]
  by_cases hl : s.boot.vrLow = true
  · rw [(onlyRegs_deviceReset s).2 o (by simp [not_mem_stackRegs h, hv hl]), hb]
  · have hq : (repairRegs (clearedBase s)).boot.vrLow = false := by
      rw [(onlyRegs_repairRegs _).boot]
      exact eq_false_of_ne_true hl
    rw [deviceReset_eq, vrLevel_of_high hq, (onlyRegs_repairRegs _).2 o (not_mem_stackRegs h), hb]

theorem now_deviceReset (s : State) : now (deviceReset s) = 0 := by
  rw [now, rd_deviceReset_cleared (by decide) (fun _ => not_mem_lowestRegs.2 ⟨by decide, fun c hc => ne_clStatus_of_not_mem (.inl (by decide)) hc⟩)]
  decide

theorem rd_deviceReset_boot (s : State) : rd (deviceReset s) PWR_BOOT = rd s PWR_BOOT := by
  have hn : PWR_BOOT ∉ stackRegs ++ lowestRegs := by
    simp only [List.mem_append, not_or]
    refine ⟨?_, not_mem_lowestRegs.2 ⟨by decide, fun c hc => ne_clStatus_of_not_mem (.inl (by decide)) hc⟩⟩
    decide
  rw [(onlyRegs_deviceReset s).2 _ hn, rd_clearedBase, if_pos (by decide)]

theorem deviceReset_boot (s : State) : (deviceReset s).boot = (clearedBase s).boot := (onlyRegs_deviceReset s).boot

/-- The time since power-good goes on over a reset. -/
theorem wallNow_deviceReset (s : State) : wallNow (deviceReset s) = wallNow s := by
  rw [wallNow, deviceReset_boot, now_deviceReset, wallNow]
  rfl

theorem deviceReset_out (s : State) : (deviceReset s).out = s.out := by rw [(onlyRegs_deviceReset s).out]; rfl

theorem deviceCleared_deviceReset (s : State) : deviceCleared s (deviceReset s) := by
  refine ⟨fun o h hv => rd_deviceReset_cleared h (fun hl => not_mem_lowestRegs.2 (hv hl)), ?_⟩
  rw [(onlyRegs_deviceReset s).1]
  exact ⟨rfl, rfl, rfl, rfl, rfl, rfl, rfl, rfl, rfl, rfl, rfl, rfl, rfl⟩

theorem keptReg_boot : keptReg PWR_BOOT = true := by decide

/-- The boot sequencer may go on: what has been cleared stays so. -/
theorem deviceCleared.onlyBoot (h : deviceCleared s t) (k : OnlyBoot t u) : deviceCleared s u := by
  obtain ⟨hr, hrest⟩ := h
  obtain ⟨ku, kr⟩ := k
  refine ⟨fun o ho hv => ?_, ?_⟩
  · rw [kr o (fun hm => by simp [List.mem_singleton.1 hm, keptReg_boot] at ho), hr o ho hv]
  · rw [ku]
    exact hrest

theorem deviceCleared_of_same {s' : State} (h : deviceCleared s' t) (hv : s'.boot.vrLow = s.boot.vrLow) (hm : s'.mem = s.mem)
    (hr : s'.rep = s.rep) : deviceCleared s t := by
  rw [deviceCleared, hv, hm, hr] at h
  exact h

end Sys2Proof.Machine
end

section
/-! PROOFS. The end of a Roadbed partial reset (Table 15-6 step 6), on a state whose function holds a message of a vector that no
MSI-X table has: pcie.heldMsi is a list of any numbers. -/

namespace Sys2Proof.Machine

variable {s : State}

theorem sendPending_masked (h : s.pcie.msixMask = true) (v : Nat) : sendPending s v = s := by
  have hm : msixMasked s v = true := by rw [msixMasked, h, Bool.true_or]
  simp [sendPending, hm]

/-- With the function masked no pending message goes. -/
theorem sendAllPending_masked (h : s.pcie.msixMask = true) : sendAllPending s = s := by
  rw [sendAllPending]
  induction upto 2048 with
  | nil => rfl
  | cons v vs ih => rw [List.foldl_cons, sendPending_masked h, ih]

/-- The pending bit of a masked vector is set in the word of its number, whatever register stands there. -/
theorem signalVector_masked (hb : s.pcie.bme = true) (hx : s.pcie.msixOn = true) (hm : s.pcie.msixMask = true) (v : Nat) :
    signalVector s v = { s with cfg := (signalVector s v).cfg } ∧ (signalVector s v).cfg
      = smPut 0 s.cfg (0x288000 + v / 64 * 8) (smGet 0 s.cfg (0x288000 + v / 64 * 8) ||| BitVec.ofNat 64 (2 ^ (v % 64))) := by
  have hk : msixMasked s v = true := by rw [msixMasked, hm, Bool.true_or]
  rw [signalVector, if_pos (by simp [hb, hx]), if_pos hk]
  exact ⟨rfl, rfl⟩

/-- A vector whose pending bit falls on bit 56 of SEC_OWN[0]. -/
def strayVector : Nat := 64 * 454664 + 56

/-- Culverts in hold, the link up, the function masked with one message held. -/
def strayHeld : State :=
  { boot := { rb := 2 }, host := { linkUp := true }, pcie := { bme := true, msixOn := true, msixMask := true, heldMsi := [strayVector] } }

/-- The device once the culverts have left hold, before its requests flow. -/
def culvertsBack (s : State) : State :=
  let s1 := rebuildOwner (enabledPorts (modBoot (modHost s (fun h => { h with hostHeld := [] })) (fun b => { b with rb := 0 })))
  sendWaiting (roadbedBack (resendAll (if rdf s PWR_RESET_STATUS PWR_RESET_STATUS_last_cause = 4 then
    count s1 PWR_COUNT PWR_COUNT_pll_relock else s1)))

theorem culvertRelease_eq (hb : s.boot.rb = 2) (hh : s.host.hostHeld = []) : culvertRelease s = requestsFlow (culvertsBack s) := by
  rw [culvertRelease, if_neg (by simp [hb]), hh]
  rfl

theorem sendHeldMsi_masked (hb : s.pcie.bme = true) (hx : s.pcie.msixOn = true) (hm : s.pcie.msixMask = true) {v : Nat}
    (hv : s.pcie.heldMsi = [v]) : (sendHeldMsi s).pcie.msixMask = true ∧ (sendHeldMsi s).cfg
      = smPut 0 s.cfg (0x288000 + v / 64 * 8) (smGet 0 s.cfg (0x288000 + v / 64 * 8) ||| BitVec.ofNat 64 (2 ^ (v % 64))) := by
  obtain ⟨h1, h2⟩ := signalVector_masked (s := modPcie s (fun p => { p with heldMsi := [] })) hb hx hm v
  rw [sendHeldMsi, if_pos (by simp [hb, hx]), hv, List.foldl_cons, List.foldl_nil]
  refine ⟨?_, h2⟩
  rw [h1]
  exact hm

theorem requestsFlow_masked (ho : hostOpen s = true) (hq : s.host.holdQ = []) (hc : s.host.chans = []) (hb : s.pcie.bme = true)
    (hx : s.pcie.msixOn = true) (hm : s.pcie.msixMask = true) {v : Nat} (hv : s.pcie.heldMsi = [v]) : (requestsFlow s).cfg
      = smPut 0 s.cfg (0x288000 + v / 64 * 8) (smGet 0 s.cfg (0x288000 + v / 64 * 8) ||| BitVec.ofNat 64 (2 ^ (v % 64))) := by
  have hr : (replayHeld s).host.chans = s.host.chans ∧ (replayHeld s).pcie = s.pcie ∧ (replayHeld s).cfg = s.cfg := by
    rw [replayHeld, if_neg (by simp [ho]), hq]
    exact ⟨rfl, rfl, rfl⟩
  obtain ⟨rc, rp, rf⟩ := hr
  rw [← rp] at hb hx hm hv
  obtain ⟨h1, h2⟩ := sendHeldMsi_masked hb hx hm hv
  rw [requestsFlow, if_pos ho]
  simp only [rc, hc, List.foldl_nil]
  rw [sendAllPending_masked h1, h2, rf]

theorem strayHeld_back : hostOpen (culvertsBack strayHeld) = true ∧ (culvertsBack strayHeld).host.holdQ = []
    ∧ (culvertsBack strayHeld).host.chans = [] ∧ (culvertsBack strayHeld).pcie = strayHeld.pcie
    ∧ smGet 0 (culvertsBack strayHeld).cfg (SEC_OWN 0) = 0 := by decide +kernel

/-- The held message changes the owner that step 6 has just rebuilt. -/
theorem strayHeld_owner : rdf (culvertRelease strayHeld) (SEC_OWN 0) SEC_OWN_owner = 1 := by
  obtain ⟨ho, hq, hc, hp, hw⟩ := strayHeld_back
  have hm : (culvertsBack strayHeld).pcie.msixMask = true := by rw [hp]; rfl
  have hx : (culvertsBack strayHeld).pcie.msixOn = true := by rw [hp]; rfl
  have hb : (culvertsBack strayHeld).pcie.bme = true := by rw [hp]; rfl
  have hc' := requestsFlow_masked ho hq hc hb hx hm (v := strayVector) (by rw [hp]; rfl)
  have ha : 0x288000 + strayVector / 64 * 8 = SEC_OWN 0 := by decide
  rw [ha, hw] at hc'
  have h0 : resetWord (SEC_OWN 0) = 0 := by decide
  rw [culvertRelease_eq rfl rfl, rdf, rd, hc', h0, smGet_smPut_self]
  decide

/-- Refutes O50: the clause of CULVERT_RELEASE promises that entry 0 of the ownership table ends as step 6 rebuilds it; in the state
`strayHeld` a held message of a vector beyond the MSI-X table, sent when the requests flow, changes that entry. -/
theorem not_resetsOfTheDevice : ¬ Obligations.ResetsOfTheDevice := by
  unfold Obligations.ResetsOfTheDevice
  rintro ⟨-, -, -, -, -, -, -, -, -, -, -, -, -, -, h, -⟩
  obtain ⟨t, ht, -, -, ho⟩ := h strayHeld rfl rfl rfl rfl rfl rfl
  have hp : rdb strayHeld MST_TICK_PIN MST_TICK_PIN_claimed = false := by decide
  have ht' : t = culvertRelease strayHeld := by
    have he : exec .culvertRelease strayHeld = .next (culvertRelease strayHeld) := rfl
    rw [he] at ht
    exact (Host.Outcome.next.inj ht).symm
  rw [ht', strayHeld_owner, hp] at ho
  exact absurd ho (by decide)

end Sys2Proof.Machine
end

section
/-! PROOFS. A fill of a sector of the reserve that a relocated user line stands in (R473): the line that gives way to it writes over
the bytes that the answer has been read from. -/

namespace Sys2Proof.Machine

/-- A user line of the stacks. -/
def movedLine : Nat := 32831

/-- The line of the reserve where it stands once its pseudo-channel is retired; it falls in the same set of the same slice. -/
def reserveLine : Nat := relocated (stackOfLine movedLine) (pcOfLine movedLine) (locOfLine movedLine) / 2048

/-- A read of the first sector of that line, waiting for its fill. -/
def reserveRead : Req :=
  { id := 7, kind := .move, core := 0, stream := .F, desc := 0, src := reserveLine * 2048, dst := 0, len := 256, op := 0, phase := .rdD }

/-- The pseudo-channel of `movedLine` is retired; the set holds that line alone, dirty, all other ways standing in for repair. -/
def sOverlaid : State :=
  { cfg := [(REP_STACK (stackOfLine movedLine), setf (setb 0 REP_STACK_retired true) REP_STACK_retired_pc (pcOfLine movedLine))],
    slices := [(sliceOfLine movedLine,
      { lines := [{ line := movedLine, secs := [(0, ⟨.dirty, List.replicate 256 1⟩)] }],
        repair := List.replicate 16 (setOfLine movedLine / 64, 0) })],
    reqs := [reserveRead] }

/-- The fill, with an error in one symbol that ECC corrects. -/
def tOverlaid : State := vergeFill sOverlaid (reserveLine * 8) [[0]] true false

theorem tOverlaid_answer : (reqOf tOverlaid 7).map (fun q => q.data.head?) = some (some 0) := by decide +kernel

theorem tOverlaid_byte : (dramRead tOverlaid (reserveLine * 8)).head? = some 1 := by decide +kernel

theorem tOverlaid_late : tOverlaid.mst.late = [] ∧ tOverlaid.mst.cleared = none := by decide +kernel

theorem lateSettle_of_none {s : State} (h : s.mst.late = []) : lateSettle s = s := by
  rw [lateSettle, if_pos h]

theorem exec_fill_overlaid : exec (.vergeFill (reserveLine * 8) [[0]] true false) sOverlaid = .next tOverlaid := by
  have h : exec (.vergeFill (reserveLine * 8) [[0]] true false) sOverlaid = .next (lateSettle tOverlaid) := rfl
  rw [h, lateSettle_of_none tOverlaid_late.1]

/-- Refutes O20: where the fill makes room by writing back a line that is relocated onto the sector itself, the answer holds the
bytes that memory held before, and not, as the clause for corrected errors has it, those it holds afterwards. -/
theorem not_sectorFills : ¬ Obligations.SectorFills := by
  unfold Obligations.SectorFills
  rintro ⟨h, -⟩
  obtain ⟨hgood, -, -⟩ := h (reserveLine * 8) [[0]] true false reserveRead sOverlaid (by decide +kernel) rfl rfl
    (by decide +kernel) (by decide +kernel)
  obtain ⟨t, n, ht, hr⟩ := hgood (by decide +kernel) (by decide +kernel)
  rw [exec_fill_overlaid] at ht
  have hsame : t = tOverlaid :=
    eq_of_lateSettle (Host.Outcome.next.inj ht).symm tOverlaid_late.1 tOverlaid_late.2
  have hne : ¬ (([[0]] : List (List Nat)) = [] ∧ (flawOf sOverlaid (reserveLine * 8)).errs = []
      ∨ (findLine sOverlaid (reserveLine * 8 / 8)).isSome = true) := by decide +kernel
  rw [if_neg hne, hsame] at hr
  have ha := tOverlaid_answer
  rw [show reserveRead.id = 7 from rfl] at hr
  rw [hr, Option.map_some, tOverlaid_byte] at ha
  exact absurd ha (by decide)

end Sys2Proof.Machine
end

section
/-! PROOFS. What an access to memory through the slices keeps, said once for every predicate: one that looks at the written bytes of
memory and at the cores that retire, and that a write of bytes keeps, is kept by every access. The laws of `aside` say the same of the
fields that an access does not touch. -/

namespace Sys2Proof.Machine
open Sys2Proof.Laws

/-- The records of the repair unit that milestones and commands alone change. -/
def roster (s : State) : List Nat × List Nat × List Nat × List Nat := (s.rep.retired, s.rep.pendRet, s.rep.suspect, s.rep.halfWidth)

/-- Whether the bytes of memory are the same: what is listed, and what an unlisted byte reads as. -/
def SameBytes (m m' : Mem) : Prop := m'.cells = m.cells ∧ m'.base = m.base ∧ m'.zeroed = m.zeroed

/-- The registers that an access to memory may write: the pending vectors, the interrupt sources, those of repair, of Verge, of the
kerb engines and of the cores, and the count of remapped sums. -/
def noisy (o : Nat) : Bool :=
  decide (0x288000 ≤ o ∧ o < 0x288100) || decide (0x710000 ≤ o ∧ o < 0x712000) || decide (0xA00000 ≤ o ∧ o < 0xB00000) || decide (0xE10000 ≤ o)
    || o == CMD_REMAP_COUNT

theorem notPba_of_quiet {o : Nat} (h : noisy o = false) : NotPba o := by
  simp only [noisy, Bool.or_eq_false_iff, decide_eq_false_iff_not] at h
  obtain ⟨⟨⟨⟨h, -⟩, -⟩, -⟩, -⟩ := h
  unfold NotPba
  omega

theorem ne_icuSrc_of_quiet {o n : Nat} (h : noisy o = false) (hn : n < 1024) : o ≠ ICU_SRC n := by
  simp only [noisy, Bool.or_eq_false_iff, decide_eq_false_iff_not] at h
  obtain ⟨⟨⟨⟨-, h⟩, -⟩, -⟩, -⟩ := h
  simp only [ICU_SRC]
  omega

theorem noisy_of_high {o : Nat} (h : 0xE10000 ≤ o) : noisy o = true := by simp [noisy, h]
theorem noisy_of_repair {o : Nat} (h : 0xA00000 ≤ o) (h' : o < 0xB00000) : noisy o = true := by simp [noisy, h, h']

/-- A level changes its own register, its source's and those of the pending vectors. -/
theorem rd_raiseLevel_other (s : State) {n off o : Nat} (f : Fld) (h : NotPba o) (hn : o ≠ ICU_SRC n) (ho : o ≠ off) :
    rd (raiseLevel s n off f) o = rd s o := by
  rw [raiseLevel]
  rw [rd_signalSource_if _ _ _ h, rd_wrb_other _ _ _ ho, rd_countSat_other _ _ _ hn]

/-- A predicate that an access to the sectors it can `reach` keeps: it looks at the bytes of memory, at `roster`, at registers that no
such access writes, and at the host side if it says so, and a write of bytes keeps it. -/
structure AccessInv where
  holds : State → Prop
  look : Nat → Bool
  seesHost : Bool
  reach : Nat → Prop
  quiet : ∀ {o : Nat}, look o = true → noisy o = false
  line : ∀ {a b : Nat}, a / 8 = b / 8 → reach a → reach b
  place : ∀ {sec : Nat} (s : State), reach sec → look (REP_STACK ((placeOf s sec).1 / 32)) = false
  frame : ∀ {s t : State}, holds s → SameBytes s.mem t.mem → roster t = roster s → (∀ o, look o = true → rd t o = rd s o) →
    (seesHost = true → t.host = s.host) → holds t
  write : ∀ {s : State} (a : Nat) (d : List Byte), holds s → holds (modMem s (fun m => memWrite m a d))
  lost : ∀ {s : State} {sec : Nat}, reach sec → holds s → holds (discardSector s sec)

variable (I : AccessInv) {s t u : State}

theorem SameBytes.refl (m : Mem) : SameBytes m m := ⟨rfl, rfl, rfl⟩

/-- What changes neither the bytes of memory, the roster nor what the predicate sees of registers and host does not touch it. -/
theorem AccessInv.iff (s : State) (hm : SameBytes s.mem t.mem) (hr : roster t = roster s) (hc : ∀ o, I.look o = true → rd t o = rd s o)
    (hh : t.host = s.host) : I.holds t ↔ I.holds s :=
  ⟨fun h => I.frame h ⟨hm.1.symm, hm.2.1.symm, hm.2.2.symm⟩ hr.symm (fun o ho => (hc o ho).symm) (fun _ => hh.symm),
    fun h => I.frame h hm hr hc (fun _ => hh)⟩

/-- What changes neither memory, the repair unit's records, the registers nor the host side does not touch the predicate. -/
theorem AccessInv.same (s : State) (hm : t.mem = s.mem) (hr : t.rep = s.rep) (hc : t.cfg = s.cfg) (hh : t.host = s.host) :
    I.holds t ↔ I.holds s :=
  I.iff s (by rw [hm]; exact SameBytes.refl _) (by rw [roster, hr, roster]) (fun o _ => rd_congr hc o) hh

/-- As `iff`, the registers and the host side unchanged. -/
theorem AccessInv.bytes (s : State) (hm : SameBytes s.mem t.mem) (hr : roster t = roster s) (hc : t.cfg = s.cfg) (hh : t.host = s.host) :
    I.holds t ↔ I.holds s := I.iff s hm hr (fun o _ => rd_congr hc o) hh

theorem AccessInv.foldl {α : Type} {f : State → α → State} (hf : ∀ s x, I.holds s → I.holds (f s x)) (xs : List α) (h : I.holds s) :
    I.holds (xs.foldl f s) := by
  induction xs generalizing s with
  | nil => exact h
  | cons x xs ih => exact ih (hf s x h)

theorem AccessInv.ite {p : Prop} [Decidable p] (hs : I.holds s) (ht : I.holds t) : I.holds (if p then s else t) := by
  split_ifs <;> assumption

/-! ### The registers of an access -/

theorem AccessInv.blind {o : Nat} (h : noisy o = true) : I.look o = false :=
  Bool.eq_false_iff.2 fun hl => Bool.false_ne_true ((I.quiet hl).symm.trans h)

@[simp] theorem look_vrgEvents0 (i : Nat) : I.look (VRG_EVENTS_0 i) = false :=
  I.blind (noisy_of_high (le_trans (by decide) (Nat.le_add_right 0xe10010 (i * 0x1000))))
@[simp] theorem look_vrgEvents1 (i : Nat) : I.look (VRG_EVENTS_1 i) = false :=
  I.blind (noisy_of_high (le_trans (by decide) (Nat.le_add_right 0xe10018 (i * 0x1000))))
@[simp] theorem look_vrgHotspot (i : Nat) : I.look (VRG_HOTSPOT i) = false :=
  I.blind (noisy_of_high (le_trans (by decide) (Nat.le_add_right 0xe10020 (i * 0x1000))))
@[simp] theorem look_krbCount0 (i : Nat) : I.look (KRB_COUNT_0 i) = false :=
  I.blind (noisy_of_high (le_trans (by decide) (Nat.le_add_right 0xf10008 (i * 0x4000))))
@[simp] theorem look_krbCount2 (i : Nat) : I.look (KRB_COUNT_2 i) = false :=
  I.blind (noisy_of_high (le_trans (by decide) (Nat.le_add_right 0xf10018 (i * 0x4000))))
@[simp] theorem look_coreEcc (l : Nat) : I.look (CORE_ECC l) = false :=
  I.blind (noisy_of_high (by simp only [CORE_ECC]; omega))
@[simp] theorem look_remapCount : I.look CMD_REMAP_COUNT = false := I.blind rfl
@[simp] theorem look_repCount0 : I.look REP_COUNT_0 = false := I.blind (by decide)
@[simp] theorem look_repCount1 : I.look REP_COUNT_1 = false := I.blind (by decide)
@[simp] theorem look_repStatus : I.look REP_STATUS = false := I.blind (by decide)

/-- The registers that an entry of a log writes are none that the predicate looks at. -/
def LogUnseen (g : LogId) : Prop := I.look (g.base + 16) = false ∧ I.look (g.base + 32) = false ∧ g.src < 1024

@[simp] theorem repairLog_unseen : LogUnseen I repairLog := ⟨I.blind (by decide), I.blind (by decide), by decide⟩

/-! ### Updates of the state -/

section
variable {o : Nat} (ho : I.look o = false)
include ho

@[simp] theorem wr_kept (w : Word) : I.holds (wr s o w) ↔ I.holds s :=
  I.iff s (SameBytes.refl _) rfl (fun _ hp => rd_wr_other _ _ _ _ fun he => Bool.false_ne_true (ho.symm.trans (he ▸ hp))) rfl
@[simp] theorem wrf_kept (f : Fld) (v : Nat) : I.holds (wrf s o f v) ↔ I.holds s := wr_kept I ho _
@[simp] theorem wrb_kept (f : Fld) (b : Bool) : I.holds (wrb s o f b) ↔ I.holds s := wr_kept I ho _
@[simp] theorem count_kept (f : Fld) (n : Nat) : I.holds (count s o f n) ↔ I.holds s := wr_kept I ho _
@[simp] theorem countSat_kept (f : Fld) (n : Nat) : I.holds (countSat s o f n) ↔ I.holds s := wr_kept I ho _

end

@[simp] theorem setSlice_kept (i : Nat) (x : Slice) : I.holds (setSlice s i x) ↔ I.holds s := I.same s rfl rfl rfl rfl
@[simp] theorem putLine_kept (v : VLine) : I.holds (putLine s v) ↔ I.holds s := I.same s rfl rfl rfl rfl
@[simp] theorem dropLine_kept (l : Nat) : I.holds (dropLine s l) ↔ I.holds s := I.same s rfl rfl rfl rfl
@[simp] theorem touchLine_kept (l : Nat) : I.holds (touchLine s l) ↔ I.holds s := I.same s rfl rfl rfl rfl
@[simp] theorem modEng_kept (k : Nat) (f : Engine → Engine) : I.holds (modEng s k f) ↔ I.holds s := I.same s rfl rfl rfl rfl
@[simp] theorem putReq_kept (r : Req) : I.holds (putReq s r) ↔ I.holds s := I.same s rfl rfl rfl rfl
@[simp] theorem sendBack_kept (r : Req) (d : List Byte) (b : Bool) : I.holds (sendBack s r d b) ↔ I.holds s := I.same s rfl rfl rfl rfl
@[simp] theorem emit_kept (o : Output) : I.holds (emit s o) ↔ I.holds s := I.same s rfl rfl rfl rfl
@[simp] theorem freeBytes_kept (n : Nat) : I.holds (freeBytes s n).2 ↔ I.holds s := I.same s rfl rfl rfl rfl
@[simp] theorem scrCorrected_kept (l n : Nat) : I.holds (scrCorrected s l n) ↔ I.holds s := countSat_kept I (look_coreEcc I l) ..
@[simp] theorem breakSector_kept (sec : Nat) : I.holds (breakSector s sec) ↔ I.holds s := I.bytes s ⟨rfl, rfl, rfl⟩ rfl rfl rfl
@[simp] theorem setFlaw_kept (sec : Nat) (f : Flaw) : I.holds (setFlaw s sec f) ↔ I.holds s := I.bytes s ⟨rfl, rfl, rfl⟩ rfl rfl rfl

@[simp] theorem raiseEvent_kept {n : Nat} (hn : n < 1024) : I.holds (raiseEvent s n) ↔ I.holds s :=
  I.iff s (by rw [raiseEvent_mem]; exact SameBytes.refl _) (by rw [roster, raiseEvent_rep, roster])
    (fun _ ho => rd_raiseEvent_other s (notPba_of_quiet (I.quiet ho)) (ne_icuSrc_of_quiet (I.quiet ho) hn)) (raiseEvent_host ..)

@[simp] theorem raiseLevel_kept {n o : Nat} (hn : n < 1024) (ho : I.look o = false) (f : Fld) : I.holds (raiseLevel s n o f) ↔ I.holds s :=
  I.iff s (by rw [raiseLevel_mem]; exact SameBytes.refl _) (by rw [roster, raiseLevel_rep, roster])
    (fun _ hp => rd_raiseLevel_other s f (notPba_of_quiet (I.quiet hp)) (ne_icuSrc_of_quiet (I.quiet hp) hn)
      fun he => Bool.false_ne_true (ho.symm.trans (he ▸ hp))) (raiseLevel_host ..)

/-- A change of the repair unit's records that leaves the roster. -/
theorem modRep_kept {f : Rep → Rep} (hf : roster (modRep s f) = roster s) : I.holds (modRep s f) ↔ I.holds s :=
  I.bytes s ⟨rfl, rfl, rfl⟩ hf rfl rfl

@[simp] theorem invSector_kept (sec : Nat) : I.holds (invSector s sec) ↔ I.holds s := by
  rw [invSector]
  split <;> simp

@[simp] theorem setFlawV_kept (sec : Nat) (f : Flaw) : I.holds (setFlawV s sec f) ↔ I.holds s := by
  rw [setFlawV]
  split <;> simp

@[simp] theorem putSector_kept (sec : Nat) (x : Sector) : I.holds (putSector s sec x) ↔ I.holds s := by
  rw [putSector]
  split <;> simp

@[simp] theorem endHotspot_kept (i : Nat) : I.holds (endHotspot s i) ↔ I.holds s := by
  rw [endHotspot]
  split_ifs <;> simp

/-! ### Sectors in DRAM -/

@[simp] theorem dramWrite_kept (h : I.holds s) (sec : Nat) (d : List Byte) : I.holds (dramWrite s sec d) :=
  I.frame (I.write (dramAddr s (sec * 256)) d h) ⟨rfl, rfl, rfl⟩ rfl (fun _ _ => rfl) (fun _ => rfl)

@[simp] theorem dramStore_kept (h : I.holds s) (sec : Nat) (d : List Byte) : I.holds (dramStore s sec d) := by
  rw [dramStore]
  split
  · exact I.frame (dramWrite_kept I h sec d) ⟨rfl, rfl, rfl⟩ rfl (fun _ _ => rfl) (fun _ => rfl)
  · split
    · exact I.frame h ⟨rfl, rfl, rfl⟩ rfl (fun _ _ => rfl) (fun _ => rfl)
    · exact dramWrite_kept I h sec d

@[simp] theorem writeBackOk_kept (sec : Nat) (d : List Byte) : I.holds (writeBackOk s sec d).2 ↔ I.holds s := by
  rw [writeBackOk]
  dsimp only
  (repeat' split) <;> simp

@[simp] theorem cleanSector_kept (h : I.holds s) (sec : Nat) : I.holds (cleanSector s sec) := by
  rw [cleanSector]
  split
  · rename_i x hx
    have hw := (writeBackOk_kept I sec x.data).2 h
    generalize writeBackOk s sec x.data = w at hw ⊢
    dsimp only
    (repeat' split) <;> simp [h, hw]
  · exact h

@[simp] theorem cleanLine_kept (h : I.holds s) (l : Nat) : I.holds (cleanLine s l) :=
  I.foldl (fun _ _ hs => cleanSector_kept I hs _) _ h

@[simp] theorem keeperWriteSector_kept (h : I.holds s) (a : Nat) (d : List Byte) : I.holds (keeperWriteSector s a d) := by
  rw [keeperWriteSector]
  split_ifs <;> simp [h]

/-! ### Lines -/

theorem pushThrough_kept {l : Nat} (hu : pushThrough s l = some u) (h : I.holds s) : I.holds u := by
  unfold pushThrough at hu
  split at hu
  · split at hu
    · dsimp only at hu
      split_ifs at hu
      rw [← Option.some.inj hu]
      simp [h]
    · exact Option.some.inj hu ▸ h
  · exact Option.some.inj hu ▸ h

theorem freeWay_kept {i set : Nat} (hu : freeWay s i set = some u) (h : I.holds s) : I.holds u := by
  unfold freeWay at hu
  dsimp only at hu
  split at hu
  · rw [← Option.some.inj hu]
    simp [h]
  · split at hu
    · obtain ⟨v, hv, rfl⟩ := Option.map_eq_some_iff.1 hu
      simp [pushThrough_kept I hv h]
    · exact nomatch hu

theorem allocLine_kept {l : Nat} (hu : allocLine s l = some u) (h : I.holds s) : I.holds u := by
  unfold allocLine at hu
  dsimp only at hu
  split_ifs at hu
  · rw [← Option.some.inj hu]
    simp [h]
  · rw [← Option.some.inj hu]
    simp [h]
  · obtain ⟨v, hv, rfl⟩ := Option.map_eq_some_iff.1 hu
    simp [freeWay_kept I hv h]

/-- A way of getting the bytes of a sector that keeps the predicate. -/
def GetKept (get : State → Nat → Option (List Byte) × State) (sec : Nat) : Prop := ∀ s, I.holds s → I.holds (get s sec).2

theorem rawGet_kept (sec : Nat) : GetKept I rawGet sec := fun _ h => h

/-- The state before a dead sector is read: such a read is counted. -/
def deadRead (s : State) (who : Reader) (sec : Nat) : State :=
  if who = .merger then s else count s (VRG_EVENTS_0 (sliceOfLine (sec / 8))) VRG_EVENTS_0_dead_reads

@[simp] theorem deadRead_kept (who : Reader) (sec : Nat) : I.holds (deadRead s who sec) ↔ I.holds s := by
  rw [deadRead]
  split_ifs <;> simp

theorem readWith_kept {get : State → Nat → Option (List Byte) × State} {sec : Nat} (hg : GetKept I get sec) (h : I.holds s) (who : Reader)
    (n : Bool) : I.holds (readWith get s who n sec).2 := by
  have hs := hg s h
  have h' := (deadRead_kept I who sec).2 h
  have hd := hg _ h'
  rw [readWith]
  dsimp only
  rw [← deadRead]
  split
  · split_ifs
    · exact h'
    · split
      · rename_i hr
        rw [hr] at hd
        exact (putSector_kept I ..).2 hd
      · rename_i hr
        rw [hr] at hd
        exact hd
    · exact (touchLine_kept I _).2 h
  · split
    · rename_i hr
      rw [hr] at hs
      exact hs
    · rename_i hr
      rw [hr] at hs
      split_ifs
      · exact hs
      · split
        · exact (putSector_kept I ..).2 (allocLine_kept I ‹_› hs)
        · exact hs

/-! ### Writes -/

/-- Where the bytes of a write have come from: nowhere for a whole sector, else the sector, from Verge or from DRAM. -/
def oldBytes (get : State → Nat → Option (List Byte) × State) (s : State) (sec : Nat) (d : List Byte) : VRes × State :=
  if d.length = 256 then (.data [], s)
  else match findSector s sec with
    | some x => if x.st = .dead then readWith get s .merger true sec else (.data x.data, s)
    | none => match get s sec with
      | (some o, s1) => (.data o, s1)
      | (none, s1) => (.poisoned, s1)

theorem oldBytes_kept {get : State → Nat → Option (List Byte) × State} {sec : Nat} (hg : GetKept I get sec) (h : I.holds s) (d : List Byte) :
    I.holds (oldBytes get s sec d).2 := by
  have hs := hg s h
  rw [oldBytes]
  split
  · exact h
  · split
    · split
      · exact readWith_kept I hg h ..
      · exact h
    · split
      all_goals
        rename_i hr
        rw [hr] at hs
        exact hs

theorem writeWith_kept {get : State → Nat → Option (List Byte) × State} {a : Nat} (hg : GetKept I get (a / 256)) (h : I.holds s) (n : Bool)
    (d : List Byte) : I.holds (writeWith get s n a d) := by
  have ho := oldBytes_kept I hg h d
  change I.holds (match (oldBytes get s (a / 256) d).1 with
    | .data o =>
      let whole := if d.length = 256 then d else merge o (a % 256) d
      if n && (findLine (oldBytes get s (a / 256) d).2 (a / 256 / 8)).isNone then dramStore (oldBytes get s (a / 256) d).2 (a / 256) whole
      else match allocLine (oldBytes get s (a / 256) d).2 (a / 256 / 8) with
        | some s2 => putSector s2 (a / 256) ⟨.dirty, whole⟩
        | none => dramStore (oldBytes get s (a / 256) d).2 (a / 256) whole
    | _ => (oldBytes get s (a / 256) d).2)
  generalize oldBytes get s (a / 256) d = o at ho ⊢
  split
  · dsimp only
    split
    · exact dramStore_kept I ho ..
    · split
      · exact (putSector_kept I ..).2 (allocLine_kept I ‹_› ho)
      · exact dramStore_kept I ho ..
  · exact ho

/-! ### Keepers and reductions -/

@[simp] theorem keeperPut_kept (h : I.holds s) (k a : Nat) (d : List Byte) : I.holds (keeperPut s k a d) := by
  rw [keeperPut]
  split
  · exact keeperWriteSector_kept I h ..
  · exact writeWith_kept I (rawGet_kept I _) h ..

@[simp] theorem addElemBy_kept (h : I.holds s) (k op a : Nat) (v : BitVec 32) : I.holds (addElemBy s k op a v) := keeperPut_kept I h ..

@[simp] theorem noteOwn_kept (op a : Nat) (v : BitVec 32) : I.holds (noteOwn s op a v) ↔ I.holds s := by
  rw [noteOwn]
  (repeat' split) <;> simp

@[simp] theorem applySector_kept (h : I.holds s) (p : Push) (sec b : Nat) : I.holds (applySector s p sec b) :=
  I.foldl (fun _ _ hs => (noteOwn_kept I ..).2 (addElemBy_kept I hs ..)) _ h

@[simp] theorem remapSector_kept {f : State → Nat → State} (hf : ∀ s a, I.holds s → I.holds (f s a)) (h : I.holds s) (older : Bool) (a : Nat) :
    I.holds (remapSector s older a f) := by
  rw [remapSector]
  split <;> simp [h, hf]

@[simp] theorem applyPush_kept (h : I.holds s) (p : Push) : I.holds (applyPush s p) := by
  refine I.foldl (fun _ _ hs => ?_) _ ((count_kept I (look_krbCount0 I _) ..).2 h)
  split
  · split
    · exact applySector_kept I hs ..
    · exact remapSector_kept I (fun s a h => applySector_kept I h ..) hs ..
  · exact applySector_kept I hs ..

@[simp] theorem drainPushes_kept (h : I.holds s) (l : Nat) : I.holds (drainPushes s l) :=
  I.foldl (fun _ _ hs => applyPush_kept I hs _) _ ((modEng_kept I ..).2 h)

@[simp] theorem keeperRoom_kept (h : I.holds s) (k : Nat) : I.holds (keeperRoom s k) := by
  rw [keeperRoom]
  split <;> simp [h]

theorem settleOnce_kept {l : Nat} (hu : settleOnce s l = some u) (h : I.holds s) : I.holds u := by
  obtain ⟨v, hv, rfl⟩ := Option.map_eq_some_iff.1 hu
  exact drainPushes_kept I (pushThrough_kept I hv h) l

@[simp] theorem settleLine_kept (h : I.holds s) (l : Nat) : I.holds (settleLine s l) := by
  rw [settleLine]
  split
  · exact settleOnce_kept I ‹_› h
  · rcases hr : settleOnce (keeperRoom s (stackOfLine l)) l with _ | v
    · exact h
    · exact settleOnce_kept I hr (keeperRoom_kept I h _)

/-! ### The logs -/

@[simp] theorem rawWrite_kept (h : I.holds s) (a : Nat) (d : List Byte) : I.holds (rawWrite s a d) :=
  I.foldl (fun _ _ hs => writeWith_kept I (rawGet_kept I _) (settleLine_kept I hs _) ..) _ h

@[simp] theorem logPut_kept (h : I.holds s) {g : LogId} (hg : LogUnseen I g) (ws : List Word) : I.holds (logPut s g ws) :=
  (count_kept I hg.1 ..).2 (rawWrite_kept I h ..)

/-- What is noted of the entries a log has lost is no part of the roster. -/
theorem lostSince_kept (m : SMap Nat) : I.holds { s with rep := { s.rep with lostSince := m } } ↔ I.holds s :=
  I.bytes s ⟨rfl, rfl, rfl⟩ rfl rfl rfl

@[simp] theorem logLose_kept {g : LogId} (hg : LogUnseen I g) : I.holds (logLose s g) ↔ I.holds s := by
  obtain ⟨-, hstat, hsrc⟩ := hg
  rw [logLose]
  exact (lostSince_kept I _).trans (by simp [hstat, hsrc])

/-- The log once the entries lost before are told. -/
def lossTold (s : State) (g : LogId) : State :=
  if smGet 0 s.rep.lostSince g.base = 0 then s
  else
    let s2 := logPut s g (logHead s g.lostT 0 ++
      (if g.lostT = 4 then [BitVec.ofNat 64 (smGet 0 s.rep.lostSince g.base), 0] else [0, BitVec.ofNat 64 (smGet 0 s.rep.lostSince g.base)]))
    { s2 with rep := { s2.rep with lostSince := smErase s2.rep.lostSince g.base } }

@[simp] theorem lossTold_kept (h : I.holds s) {g : LogId} (hg : LogUnseen I g) : I.holds (lossTold s g) := by
  rw [lossTold]
  split
  · exact h
  · exact (lostSince_kept I _).2 (logPut_kept I h hg _)

@[simp] theorem logAppend_kept (h : I.holds s) {g : LogId} (hg : LogUnseen I g) (ty low : Nat) (a b : Word) : I.holds (logAppend s g ty low a b) := by
  rw [logAppend]
  split
  · exact (logLose_kept I hg).2 h
  · change I.holds (if logRoom (lossTold s g) g then logPut (lossTold s g) g (logHead (lossTold s g) ty low ++ [a, b])
      else logLose (lossTold s g) g)
    split
    · exact logPut_kept I (lossTold_kept I h hg) hg _
    · exact (logLose_kept I hg).2 (lossTold_kept I h hg)

/-! ### Failing lanes and channels -/

section
variable {gpc : Nat} (hg : I.look (REP_STACK (gpc / 32)) = false)
include hg

@[simp] theorem loseChannel_kept (h : I.holds s) : I.holds (loseChannel s gpc) := by
  rw [loseChannel]
  split
  · exact h
  · refine (raiseEvent_kept I (by decide)).2 (logAppend_kept I ((wrb_kept I hg ..).2 ?_) (repairLog_unseen I) ..)
    exact I.frame h ⟨rfl, rfl, rfl⟩ rfl (fun _ _ => rfl) (fun _ => rfl)

@[simp] theorem setDegraded_kept (on : Bool) : I.holds (setDegraded s gpc on) ↔ I.holds s := by
  simp [setDegraded, countDegraded, hg]

@[simp] theorem failLane_kept (h : I.holds s) (die lane : Nat) : I.holds (failLane s gpc die lane) := by
  rw [failLane]
  split
  · exact h
  · dsimp only
    generalize hs1 : modRep s _ = s1
    have h1 : I.holds s1 := hs1 ▸ (modRep_kept I rfl).2 h
    split
    · exact I.ite (loseChannel_kept I hg h1) h1
    · generalize hs2 : (if (sparesOf s1 gpc die).length < lanesOpen s1 gpc die ∧
          bitsN (rdf s (REP_STACK (gpc / 32)) REP_STACK_degraded) (gpc % 32) (gpc % 32) = 0 then
          setDegraded (logAppend s1 repairLog 5 (repSite (gpc / 32) (gpc % 32) lane 0) 0 0) gpc true else s1) = s2
      have h2 : I.holds s2 := hs2 ▸ I.ite ((setDegraded_kept I hg ..).2 (logAppend_kept I h1 (repairLog_unseen I) ..)) h1
      exact I.ite (loseChannel_kept I hg h2) h2

@[simp] theorem symbolCorrected_kept (h : I.holds s) (die sym : Nat) : I.holds (symbolCorrected s gpc die sym) := by
  have h1 (n : Nat) : I.holds (modRep s (fun r => { r with laneCorr := smPut 0 r.laneCorr ((gpc * 16 + die) * 256 + sym) n })) :=
    (modRep_kept I rfl).2 h
  exact I.ite (failLane_kept I hg (failLane_kept I hg (h1 _) ..) ..) (h1 _)

end

section
variable {sec : Nat} (hk : I.reach sec)
include hk

@[simp] theorem noteCorrected_kept (h : I.holds s) (errs : List (List Nat)) : I.holds (noteCorrected s sec errs) := by
  have hp := I.place s hk
  rw [noteCorrected]
  split
  · exact h
  · exact I.foldl (fun _ _ hs => I.foldl (fun _ _ hs => symbolCorrected_kept I hp hs ..) _ hs) _ ((count_kept I (look_repCount1 I) ..).2 h)

@[simp] theorem noteStored_kept (h : I.holds s) (f : Flaw) : I.holds (noteStored s sec f) := by
  rw [noteStored]
  split <;> simp [h, hk]

end

/-! ### Repair -/

@[simp] theorem restoreSector_kept (h : I.holds s) (sec : Nat) (d : List Byte) : I.holds (restoreSector s sec d) := by
  have h1 : I.holds (invSector (modMem s (fun m => { m with
      poison := m.poison.filter (· ≠ sec), flaws := smErase m.flaws sec, broken := m.broken.filter (· ≠ sec) })) sec) :=
    (invSector_kept I sec).2 (I.frame h ⟨rfl, rfl, rfl⟩ rfl (fun _ _ => rfl) (fun _ => rfl))
  exact logAppend_kept I ((count_kept I (look_repCount0 I) ..).2 (I.ite h1 (dramStore_kept I h1 ..))) (repairLog_unseen I) ..

@[simp] theorem refetchedAs_kept (h : I.holds s) (sec : Nat) (d : List Byte) : I.holds (refetchedAs s sec d) :=
  (count_kept I (look_krbCount2 I _) ..).2 (restoreSector_kept I h ..)

@[simp] theorem poisonSector_kept (h : I.holds s) (sec : Nat) : I.holds (poisonSector s sec) := by
  have h1 : I.holds (modMem (invSector s sec) (fun m => { m with
      poison := if m.poison.contains sec then m.poison else m.poison ++ [sec]
      flaws := smErase m.flaws sec, broken := m.broken.filter (· ≠ sec) })) :=
    I.frame ((invSector_kept I sec).2 h) ⟨rfl, rfl, rfl⟩ rfl (fun _ _ => rfl) (fun _ => rfl)
  rw [poisonSector]
  exact logAppend_kept I ((count_kept I (look_repCount0 I) ..).2 h1) (repairLog_unseen I) ..

theorem stackOfLine_lt (l : Nat) : stackOfLine l < 36 := by
  have h : sliceOfLine l < 144 := Nat.mod_lt _ (by decide)
  rw [stackOfLine]
  omega

@[simp] theorem recomputed_kept (sec : Nat) : I.holds (recomputed s sec) ↔ I.holds s := by
  have hn : 176 + stackOfLine (sec / 8) < 1024 := by
    have := stackOfLine_lt (sec / 8)
    omega
  rw [recomputed]
  (repeat' split) <;> simp [hn]

@[simp] theorem keeperRaw_kept (h : I.holds s) (k a : Nat) (d : List Byte) : I.holds (keeperRaw s k a d) :=
  I.foldl (fun _ _ hs => keeperPut_kept I hs ..) _ h

@[simp] theorem zeroMoments_kept (h : I.holds s) (k : Nat) (x : Shard) (b : Nat) : I.holds (zeroMoments s k x b) :=
  I.foldl (fun _ _ hs => I.ite (keeperRaw_kept I (keeperRaw_kept I hs ..) ..) (keeperRaw_kept I hs ..)) _ h

@[simp] theorem zeroMomentSector_kept (h : I.holds s) (sec : Nat) : I.holds (zeroMomentSector s sec) := by
  rw [zeroMomentSector]
  split
  · split
    · exact I.foldl (fun _ _ hs => zeroMoments_kept I hs ..) _ h
    · exact h
  · exact h

section
variable {sec : Nat} (hk : I.reach sec)
include hk

@[simp] theorem repairLocal_kept (h : I.holds s) : I.holds (repairLocal s sec).2 := by
  rw [repairLocal]
  split
  · exact (recomputed_kept I _).2 (restoreSector_kept I (zeroMomentSector_kept I (I.lost hk h) _) ..)
  · exact poisonSector_kept I h _

@[simp] theorem repairNow_kept (h : I.holds s) : I.holds (repairNow s sec).2 := by
  rw [repairNow]
  split
  · exact repairLocal_kept I hk h
  · split
    · split
      · exact refetchedAs_kept I h ..
      · exact repairLocal_kept I hk h
    · split
      · exact refetchedAs_kept I ((freeBytes_kept I _).2 h) ..
      · exact repairLocal_kept I hk h

@[simp] theorem meetFlaw_kept (h : I.holds s) : I.holds (meetFlaw s sec).2 := by
  rw [meetFlaw]
  dsimp only
  (repeat' split) <;> simp [h, hk]

theorem meet_kept : GetKept I meet sec := by
  intro s h
  rw [meet]
  (repeat' split) <;> simp [h, hk]

@[simp] theorem vergeMeet_kept (h : I.holds s) : I.holds (vergeMeet s sec) := by
  rw [vergeMeet]
  dsimp only
  (repeat' split) <;> simp [h, hk]

@[simp] theorem readHere_kept (h : I.holds s) (who : Reader) (n : Bool) : I.holds (readHere s who n sec).2 :=
  readWith_kept I (meet_kept I hk) (vergeMeet_kept I hk h) ..

end

/-! ### Accesses -/

@[simp] theorem writeHere_kept {a : Nat} (hk : I.reach (a / 256)) (h : I.holds s) (n : Bool) (d : List Byte) : I.holds (writeHere s n a d) :=
  writeWith_kept I (meet_kept I hk) (I.ite (vergeMeet_kept I hk h) h) ..

/-- A request that waits for a sector to be written there is one for that sector. -/
theorem dst_of_waitingFor {r : Req} {sec : Nat} (h : r ∈ waitingFor s sec) (hr : r.phase ≠ .rdD) : r.dst / 256 = sec := by
  rw [waitingFor, List.mem_insertionSort, List.mem_filter] at h
  have h2 : r.phase = ReqPhase.wrD ∧ r.dst / 256 = sec := by simpa [hr] using h.2
  exact h2.2

theorem AccessInv.foldl_mem {α : Type} {f : State → α → State} {xs : List α} (hf : ∀ s, ∀ x ∈ xs, I.holds s → I.holds (f s x)) (h : I.holds s) :
    I.holds (xs.foldl f s) := by
  induction xs generalizing s with
  | nil => exact h
  | cons x xs ih => exact ih (fun s y hy => hf s y (List.mem_cons_of_mem _ hy)) (hf s x List.mem_cons_self h)

section
variable {sec : Nat} (hk : I.reach sec)
include hk

@[simp] theorem fillSector_kept (h : I.holds s) (d : List Byte) : I.holds (fillSector s sec d) := by
  rw [fillSector]
  refine (endHotspot_kept I _).2 (I.foldl_mem (fun s r hm hs => ?_) ?_)
  · split
    · exact (sendBack_kept I ..).2 hs
    · next hr => exact (putReq_kept I _).2 (writeHere_kept I ((dst_of_waitingFor hm hr).symm ▸ hk) hs ..)
  · split
    · split
      · have h2 := allocLine_kept I ‹_› h
        split
        · exact I.ite ((putSector_kept I ..).2 h2) h2
        · exact (putSector_kept I ..).2 h2
      · exact h
    · exact h

@[simp] theorem fillNow_kept (h : I.holds s) : I.holds (fillNow s sec) := by
  have hm := meet_kept I hk s h
  rw [fillNow]
  split
  · exact h
  · split
    all_goals
      rename_i hr
      rw [hr] at hm
    · exact fillSector_kept I hk hm ..
    · exact hm

@[simp] theorem keeperMeet_kept (h : I.holds s) : I.holds (keeperMeet s sec) := by
  have hm := meet_kept I hk s h
  rw [keeperMeet]
  split
  · exact vergeMeet_kept I hk h
  · split
    all_goals
      rename_i hr
      rw [hr] at hm
    · split
      · split
        · exact (putSector_kept I ..).2 (allocLine_kept I ‹_› hm)
        · exact hm
      · exact hm
    · exact hm

end

/-- The sectors of a line are reached together. -/
@[simp] theorem soundLine_kept {l sec : Nat} (hl : sec / 8 = l) (hk : I.reach sec) (h : I.holds s) : I.holds (soundLine s l) := by
  refine I.ite (I.foldl_mem (fun _ i hi hs => keeperMeet_kept I (I.line ?_ hk) hs) h) h
  have := List.mem_range.1 hi
  omega

section
variable {sec : Nat} (hk : I.reach sec)
include hk

@[simp] theorem vReadSector_kept (h : I.holds s) (who : Reader) (n : Bool) : I.holds (vReadSector s who n sec).2 :=
  readHere_kept I hk (fillNow_kept I hk (settleLine_kept I (soundLine_kept I rfl hk h) _)) ..

end

@[simp] theorem vWriteSector_kept {a : Nat} (hk : I.reach (a / 256)) (h : I.holds s) (n : Bool) (d : List Byte) :
    I.holds (vWriteSector s n a d) :=
  writeHere_kept I hk (fillNow_kept I hk (settleLine_kept I (soundLine_kept I (by omega) hk h) _)) ..

@[simp] theorem storedPart_kept {a : Nat} (hk : I.reach (a / 256)) (h : I.holds s) (n : Nat) : I.holds (storedPart s a n).2 := by
  have hm := meet_kept I hk s h
  rw [storedPart]
  split
  all_goals
    rename_i hr
    rw [hr] at hm
    exact hm

@[simp] theorem storedWrite_kept {a : Nat} (hk : I.reach (a / 256)) (h : I.holds s) (d : List Byte) : I.holds (storedWrite s a d) := by
  rw [storedWrite]
  dsimp only
  generalize hs1 : (if d.length < 256 ∧ smHas s.mem.flaws (a / 256) = true then (meet s (a / 256)).2 else s) = s1
  have h1 : I.holds s1 := hs1 ▸ I.ite (meet_kept I hk s h) h
  exact I.frame (I.write a d h1) ⟨rfl, rfl, rfl⟩ rfl (fun _ _ => rfl) (fun _ => rfl)

/-! ### Sets that shrink -/

@[simp] theorem giveUp_kept (hk : ∀ sec, I.reach sec) (h : I.holds s) (i : Nat) (v : VLine) : I.holds (giveUp s i v) := by
  have h1 := settleLine_kept I (soundLine_kept I (Nat.mul_div_cancel v.line (by decide : 0 < 8)) (hk _) h) v.line
  rw [giveUp]
  dsimp only
  split
  · exact h
  · exact I.ite ((count_kept I (look_vrgEvents1 I _) ..).2 ((dropLine_kept I _).2 (cleanLine_kept I h1 _))) ((dropLine_kept I _).2 (cleanLine_kept I h1 _))

@[simp] theorem shrinkSet_kept (hk : ∀ sec, I.reach sec) (h : I.holds s) (i n set : Nat) : I.holds (shrinkSet s i n set) := by
  rw [shrinkSet]
  refine I.foldl (fun _ _ hs => giveUp_kept I hk hs ..) _ (I.foldl (fun s v hs => ?_) _ h)
  exact (count_kept I (look_vrgEvents1 I _) ..).2 ((putLine_kept I _).2 hs)

end Sys2Proof.Machine
end

section
/-! PROOFS. The attempts of a boot (chapter 15): how one begins, goes on and fails, and what its steps leave. -/

namespace Sys2Proof.Machine
open Sys2Proof.Laws

variable {s t u : State}

/-! ### Power (R488, R489) -/

theorem exec_powerGood_on (h : s.boot.pg = true) (p : BitVec 5) : exec (.powerGood p) s = .next s :=
  congrArg Host.Outcome.next (if_pos h)

/-- The sequencer once the rails are up. -/
def railsUp (s : State) (p : BitVec 5) : State := modBoot s (fun b => { b with pg := true, straps := p.toNat })

theorem exec_powerGood_off (h : s.boot.pg = false) (p : BitVec 5) : exec (.powerGood p) s = .next (beginAttempt (vrLevel (railsUp s p))) :=
  congrArg Host.Outcome.next (if_neg (by simp [h]))

theorem rdb_of_onlyBoot (h : OnlyBoot s t) {o : Nat} (ho : o ≠ PWR_BOOT) (f : Fld) : rdb t o f = rdb s o f :=
  rdb_of_rd (h.2 o (by simpa using ho)) f

/-- VR_ALERT_N low at power-good: the device is in the lowest state. -/
theorem vrLevel_low (hv : s.boot.vrLow = true) (hp : s.boot.pg = true) (ht : s.boot.trip = false) :
    vrLevel s = lowestState (wrb s PWR_STATUS PWR_STATUS_vr_alert true) := by rw [vrLevel, hv, hp, ht]; rfl

/-- An attempt that begins or waits leaves the rails up. -/
theorem pg_beginAttempt (s : State) : (beginAttempt s).boot.pg = s.boot.pg := by
  by_cases hp : s.boot.pg = true
  · by_cases hl : s.boot.rstLow = true
    · rw [beginAttempt_low hp hl]
      rfl
    · by_cases hb : ∀ b, s.boot.began = some b → b + 60 * 10 ^ 9 < wallNow s
      · rw [beginAttempt_now hp (by simpa using hl) hb, attemptNow_boot]
      · simp only [not_forall, not_lt] at hb
        obtain ⟨b, hs, hb⟩ := hb
        rw [beginAttempt_again hp (by simpa using hl) hs hb, backoff_eq, modBoot_boot, backoffRegs, wrf_boot, wrf_boot]
        rfl
  · rw [beginAttempt, if_pos (by simpa using hp)]

theorem powerGood_low (p : BitVec 5) (hp : s.boot.pg = false) (hv : s.boot.vrLow = true) (ht : s.boot.trip = false) :
    ∃ t, exec (.powerGood p) s = .next t ∧ t.boot.pg = true ∧ rdb t PWR_STATUS PWR_STATUS_vr_alert = true
      ∧ rdb t PWR_STATUS PWR_STATUS_lowest_state = true := by
  have hl : vrLevel (railsUp s p) = lowestState (wrb (railsUp s p) PWR_STATUS PWR_STATUS_vr_alert true) := vrLevel_low hv rfl ht
  have hb := onlyBoot_beginAttempt (vrLevel (railsUp s p))
  have hpg : (vrLevel (railsUp s p)).boot.pg = true := by rw [(onlyRegs_vrLevel _).boot]; rfl
  refine ⟨_, exec_powerGood_off hp p, ?_, ?_, ?_⟩
  · rw [pg_beginAttempt, hpg]
  · rw [rdb_of_onlyBoot hb (by decide), hl, rdb_lowestState_field _ (by decide), rdb_wrb_self _ _ _ (by decide) (by decide)]
  · rw [rdb_of_onlyBoot hb (by decide), hl, rdb_lowestState]

theorem powerGood_begins (p : BitVec 5) (hp : s.boot.pg = false) (hv : s.boot.vrLow = false) (hr : s.boot.rstLow = false)
    (hb : s.boot.began = none) : ∃ t, exec (.powerGood p) s = .next t ∧ attemptBegins s t 1 ∧ t.boot.pg = true
      ∧ t.boot.straps = p.toNat ∧ RegsKept s t [PWR_BOOT] ∧ t.mem = s.mem := by
  have hl : vrLevel (railsUp s p) = railsUp s p := vrLevel_of_high hv
  have hs : (railsUp s p).boot.began = none := hb
  have hn : beginAttempt (railsUp s p) = attemptNow (railsUp s p) 1 :=
    beginAttempt_now rfl hr (fun b h => by rw [hs] at h; exact nomatch h)
  have ho : OnlyBoot s (attemptNow (railsUp s p) 1) := (onlyBoot_modBoot s _).trans (onlyBoot_attemptNow ..)
  refine ⟨_, exec_powerGood_off hp p, ?_⟩
  rw [hl, hn, attemptNow_boot]
  exact ⟨attemptBegins_attemptNow (t := railsUp s p) rfl 1, rfl, rfl, ho.2, by rw [ho.1]⟩

theorem powerGood_waits (p : BitVec 5) (hp : s.boot.pg = false) (hv : s.boot.vrLow = false) (hr : s.boot.rstLow = true) :
    exec (.powerGood p) s = .next { s with boot := { s.boot with pg := true, straps := p.toNat, waits := true } } := by
  have hl : vrLevel (railsUp s p) = railsUp s p := vrLevel_of_high hv
  rw [exec_powerGood_off hp, hl, beginAttempt_low (s := railsUp s p) rfl hr]
  rfl

/-- The device once its power is lost, before the sequencer's own record is cleared. -/
def unpowered (s : State) : State := wr (wr (deviceReset (modBoot s (fun b => { b with pg := false }))) PWR_BOOT 0) PWR_STRAP 0

/-- What a loss of power leaves of the boot sequencer: the levels of the package's pins. -/
def pinsOnly (s : State) : State :=
  { unpowered s with
    boot := { rstLow := s.boot.rstLow, perst := s.boot.perst, vrLow := s.boot.vrLow, tripNv := s.boot.tripNv }, thermal := {} }

theorem exec_powerLoss (s : State) : exec .powerLoss s = .next (pinsOnly s) := rfl

/-- Without power VR_ALERT_N does nothing. -/
theorem vrLevel_unpowered (h : s.boot.pg = false) : vrLevel s = s := by
  rw [vrLevel, h]
  cases s.boot.vrLow <;> rfl

theorem rd_unpowered (h : keptReg o = false) (s : State) : rd (pinsOnly s) o = resetWord o := by
  have hb : o ≠ PWR_BOOT := fun he => by rw [he] at h; exact absurd h (by decide)
  have hs : o ≠ PWR_STRAP := fun he => by rw [he] at h; exact absurd h (by decide)
  generalize hs0 : modBoot s (fun b => { b with pg := false }) = s0
  have hv : vrLevel (repairRegs (clearedBase s0)) = repairRegs (clearedBase s0) :=
    vrLevel_unpowered (by rw [(onlyRegs_repairRegs _).boot, ← hs0]; rfl)
  have hd : rd (deviceReset s0) o = resetWord o := by
    rw [deviceReset_eq, hv, (onlyRegs_repairRegs _).2 o (not_mem_stackRegs h), rd_clearedBase, if_neg (by simp [h])]
  rw [show rd (pinsOnly s) o = rd (unpowered s) o from rfl, unpowered, hs0, rd_wr_other _ _ _ _ hs, rd_wr_other _ _ _ _ hb, hd]

theorem powerLoss_clears (s : State) : deviceCleared s (pinsOnly s) := by
  refine ⟨fun o h _ => rd_unpowered h s, ?_⟩
  have hb := (deviceCleared_deviceReset (modBoot s (fun b => { b with pg := false }))).2
  rw [pinsOnly, unpowered]
  generalize deviceReset (modBoot s (fun b => { b with pg := false })) = u at hb ⊢
  simp only [wr_cores, wr_slices, wr_halves, wr_reqs, wr_engines, wr_fab, wr_host, wr_pow, wr_mem, wr_rep, wr_sec]
  exact hb

/-! ### A step that fails (R490, R491) -/

/-- The registers of a failed attempt. -/
def failRegs (s : State) (cause : Nat) : State :=
  wrf (wrf (railsOff s) PWR_BOOT PWR_BOOT_last_step s.boot.step) PWR_BOOT PWR_BOOT_cause cause

theorem rd_railsOff (s : State) (o : Nat) : rd (railsOff s) o = rd s o := rd_congr rfl o

theorem regsKept_failRegs (s : State) (cause : Nat) : RegsKept s (failRegs s cause) [PWR_BOOT] :=
  RegsKept.trans (t := railsOff s) (fun o _ => rd_railsOff s o) ((onlyBoot_wrf ..).trans (onlyBoot_wrf ..)).2

theorem failAttempt_eq (s : State) (cause : Nat) : failAttempt s cause = emit (backoff (failRegs s cause))
    (.uart (.bootFail (rdf (backoff (failRegs s cause)) PWR_BOOT PWR_BOOT_attempt) s.boot.step cause
      (rdf (backoff (failRegs s cause)) PWR_BOOT PWR_BOOT_wait_s))) := rfl

theorem rdf_failRegs_attempt (s : State) (cause : Nat) : rdf (failRegs s cause) PWR_BOOT PWR_BOOT_attempt = rdf s PWR_BOOT PWR_BOOT_attempt := by
  rw [failRegs, rdf_wrf_field _ _ _ (by decide) (by decide), rdf_wrf_field _ _ _ (by decide) (by decide), rdf_of_rd (rd_railsOff s _)]

/-- What a failed attempt leaves of the rest of the state. -/
theorem failRegs_rest (s : State) (cause : Nat) : OnlyBoot (railsOff s) (backoff (failRegs s cause)) :=
  ((onlyBoot_wrf ..).trans (onlyBoot_wrf ..)).trans (onlyBoot_backoff _)

theorem attemptFails_failAttempt (s : State) (cause : Nat) : attemptFails s (failAttempt s cause) s.boot.step cause := by
  have hw := attemptWaits_backoff (failRegs s cause)
  have ho := (failRegs_rest s cause).1
  have ha : rdf (backoff (failRegs s cause)) PWR_BOOT PWR_BOOT_attempt = rdf s PWR_BOOT PWR_BOOT_attempt := by
    rw [rdf_backoff_other _ (by decide) (by decide), rdf_failRegs_attempt]
  have hl : rdf (backoff (failRegs s cause)) PWR_BOOT PWR_BOOT_last_step = s.boot.step % 16 := by
    rw [rdf_backoff_other _ (by decide) (by decide), failRegs, rdf_wrf_field _ _ _ (by decide) (by decide), rdf_wrf_self _ _ _ (by decide)]
    rfl
  have hc : rdf (backoff (failRegs s cause)) PWR_BOOT PWR_BOOT_cause = cause % 16 := by
    rw [rdf_backoff_other _ (by decide) (by decide), failRegs, rdf_wrf_self _ _ _ (by decide)]
    rfl
  rw [rdf_failRegs_attempt] at hw
  rw [failAttempt_eq, ha]
  generalize backoff (failRegs s cause) = u at hw ho ha hl hc ⊢
  have hcores : u.cores = [] := by rw [ho]; rfl
  have heng : u.engines = [] := by rw [ho]; rfl
  have hpow : u.pow = {} := by rw [ho]; rfl
  have hmem : u.mem.cells = [] := by rw [ho]; rfl
  have hout : u.out = s.out := by rw [ho]; rfl
  obtain ⟨hstep, hstate, hwait⟩ := hw
  have hr (o : Output) (f : Fld) : rdf (emit u o) PWR_BOOT f = rdf u PWR_BOOT f := by rw [rdf, rd_emit, rdf]
  simp only [attemptFails, attemptWaits, hr]
  refine ⟨⟨?_, hstate, hwait⟩, ha, hl, hc, ?_, ?_, ?_, ?_, ?_⟩
  · rw [emit_boot, hstep]
  · rw [emit_cores, hcores]
  · rw [emit_engines, heng]
  · rw [emit_pow, hpow]
  · rw [emit_mem, hmem]
  · rw [emit, hout]

theorem regsKept_failAttempt (s : State) (cause : Nat) : RegsKept s (failAttempt s cause) [PWR_BOOT] := by
  intro o ho
  rw [failAttempt_eq, rd_emit, (onlyBoot_backoff _).2 o ho, regsKept_failRegs s cause o ho]

/-- A failure of a later step, in a state that differs from the first in what a failure clears or sets. -/
theorem attemptFails.of_same {k cause : Nat} (h : attemptFails t u k cause) (hr : rdf t PWR_BOOT PWR_BOOT_attempt = rdf s PWR_BOOT PWR_BOOT_attempt)
    (ho : t.out = s.out) : attemptFails s u k cause := by
  rw [attemptFails, hr, ho] at h
  exact h

/-! ### A step that completes (Table 15-2) -/

theorem exec_bootStepDone (b : BootIn) (s : State) : exec (.bootStepDone b) s = .next (bootStep s b) := rfl

/-- The sequencer at its next step. -/
def stepped (s : State) : State := modBoot s (fun b => { b with step := b.step + 1 })

theorem nextStep_eq (s : State) : nextStep s
    = if (stepped s).boot.step = 5 ∧ ¬ coolEnough (stepped s) = true then failAttempt (stepped s) 7 else stepped s := rfl

theorem stepped_step (s : State) : (stepped s).boot.step = s.boot.step + 1 := rfl

theorem coolEnough_stepped (s : State) : coolEnough (stepped s) = coolEnough s := rfl

theorem nextStep_other (h : s.boot.step ≠ 4) : nextStep s = stepped s := by
  rw [nextStep_eq, stepped_step]
  exact if_neg (by omega)

theorem nextStep_cool (h : coolEnough s = true) : nextStep s = stepped s := by
  rw [nextStep_eq, coolEnough_stepped, h]
  exact if_neg (by simp)

theorem nextStep_warm (h : s.boot.step = 4) (hc : coolEnough s = false) : nextStep s = failAttempt (stepped s) 7 := by
  rw [nextStep_eq, stepped_step, coolEnough_stepped, h, hc]
  rfl

theorem rd_stepped (s : State) (o : Nat) : rd (stepped s) o = rd s o := rfl

/-- The record of the straps, made once (R548). -/
def strapped (s : State) : State :=
  if s.boot.sampled then modBoot s (fun x => { x with sampled := true })
  else wrf (wrf (modBoot s (fun x => { x with sampled := true })) PWR_STRAP PWR_STRAP_pcie_sep (bitsN s.boot.straps 4 4))
    PWR_STRAP PWR_STRAP_smb_addr (bitsN s.boot.straps 2 0)

theorem strapped_boot (s : State) : (strapped s).boot = { s.boot with sampled := true } := by
  rw [strapped]
  split_ifs
  · rfl
  · rw [wrf_boot, wrf_boot]
    rfl

theorem regsKept_strapped (s : State) : RegsKept s (strapped s) [PWR_STRAP] := by
  have h0 : RegsKept s (modBoot s (fun x => { x with sampled := true })) [PWR_STRAP] := fun _ _ => rfl
  rw [strapped]
  split_ifs
  · exact h0
  · exact (h0.trans (onlyRegs_wrf ..).2).trans (onlyRegs_wrf ..).2

theorem rdf_strapped (h : s.boot.sampled = false) : rdf (strapped s) PWR_STRAP PWR_STRAP_smb_addr = s.boot.straps % 8
    ∧ rdf (strapped s) PWR_STRAP PWR_STRAP_pcie_sep = s.boot.straps / 16 % 2 := by
  rw [strapped, if_neg (by simp [h])]
  constructor
  · rw [rdf_wrf_self _ _ _ (by decide), bitsN]
    change s.boot.straps / 1 % 8 % 8 = s.boot.straps % 8
    omega
  · rw [rdf_wrf_field _ _ _ (by decide) (by decide), rdf_wrf_self _ _ _ (by decide), bitsN]
    change s.boot.straps / 16 % 2 % 2 = s.boot.straps / 16 % 2
    omega

theorem bootStep_straps (b : BootIn) (h : s.boot.step = 1) : bootStep s b = stepped (strapped s) := by
  have hn : bootStep s b = nextStep (strapped s) := by simp only [bootStep, h, strapped]
  rw [hn, nextStep_other (by rw [strapped_boot, h]; decide)]

theorem bootStep_idle (b : BootIn) (h : s.boot.step = 0 ∨ 9 < s.boot.step) : bootStep s b = s := by
  unfold bootStep
  split
  case h_7 => exact if_neg (by omega)
  all_goals omega

theorem bootStep_plain (b : BootIn) (h : s.boot.step ∈ [2, 5, 6]) : bootStep s b = stepped s := by
  simp only [List.mem_cons, List.not_mem_nil, or_false] at h
  unfold bootStep
  split
  case h_7 => rw [if_pos (by omega), nextStep_other (by omega)]
  all_goals omega

end Sys2Proof.Machine
end
section
/-! PROOFS. What the steps of a boot attempt leave (Table 15-2): the sensors, the firmware, the cores, the lanes and the ports. -/

namespace Sys2Proof.Machine
open Sys2Proof.Laws

variable {s t u : State}

/-- What each step of a fold over a list keeps, the fold keeps. -/
theorem foldl_keeps_of {α β : Type} (view : State → β) {f : State → α → State} {xs : List α} (h : ∀ x ∈ xs, ∀ s, view (f s x) = view s)
    (s : State) : view (xs.foldl f s) = view s := by
  induction xs generalizing s with
  | nil => rfl
  | cons x xs ih =>
    exact (ih (fun y hy => h y (List.mem_cons_of_mem _ hy)) (f s x)).trans (h x List.mem_cons_self s)

/-! ### Sensors (step 3) -/

theorem notPba_sensor (i : Nat) : NotPba (THM_SENSOR i) := by
  refine .inr (le_trans (by decide) (Nat.le_add_right 0x510000 (i * 8)))

theorem sensor_ne_of_lt {o : Nat} (h : o < 0x510000) (i : Nat) : THM_SENSOR i ≠ o :=
  (lt_of_lt_of_le h (Nat.le_add_right 0x510000 (i * 8))).ne'

theorem sensor_inj {i j : Nat} (h : THM_SENSOR i = THM_SENSOR j) : i = j := by
  simp only [THM_SENSOR] at h
  omega

theorem sensor_ne_of_ge {o : Nat} (h : 0x510000 + numSensors * 8 ≤ o) {i : Nat} (hi : i < numSensors) : THM_SENSOR i ≠ o :=
  (lt_of_lt_of_le (Nat.add_lt_add_left (Nat.mul_lt_mul_of_pos_right hi (by decide)) _) h).ne

/-- A sensor that fails is marked so, and one marked stays so. -/
theorem sensorFailed_failSensor (i : Nat) {j : Nat} (hj : j < numSensors) :
    sensorFailed (failSensor s i) j = (sensorFailed s j || decide (j = i)) := by
  rw [failSensor]
  split_ifs with h
  · by_cases hij : j = i
    · rw [hij, h]
      rfl
    · rw [decide_eq_false hij, Bool.or_false]
  · rw [sensorFailed, rdb, rd_raiseLevel_other _ _ (notPba_sensor j) (sensor_ne_of_ge (by decide) hj) (sensor_ne_of_lt (by decide) j),
      rd_count_other _ _ _ (sensor_ne_of_lt (by decide) j), ← rdb]
    by_cases hij : j = i
    · rw [hij, rdb_wrb_self _ _ _ (by decide) rfl, decide_eq_true rfl, Bool.or_true]
    · rw [rdb, rd_wrb_other _ _ _ (fun he => hij (sensor_inj he)), ← rdb, decide_eq_false hij, Bool.or_false, sensorFailed]

theorem sensorFailed_foldl_failSensor (xs : List Nat) {j : Nat} (hj : j < numSensors) (s : State) :
    sensorFailed (xs.foldl failSensor s) j = (sensorFailed s j || decide (j ∈ xs)) := by
  induction xs generalizing s with
  | nil => simp
  | cons x xs ih => simp [ih, sensorFailed_failSensor x hj, Bool.or_assoc]

theorem sensorFailed_putSensor (s : State) (i j : Nat) (a r : Int) : sensorFailed (putSensor s i a r) j = sensorFailed s j := by
  rw [sensorFailed, putSensor]
  by_cases hij : THM_SENSOR j = THM_SENSOR i
  · rw [hij, rdb_wrf_field _ _ _ (by decide) (by decide), rdb_wrf_field _ _ _ (by decide) (by decide), ← hij, sensorFailed]
  · rw [rdb, rd_wrf_other _ _ _ hij, rd_wrf_other _ _ _ hij, ← rdb, sensorFailed]

theorem sensorFailed_wrf_other (s : State) {o : Nat} (f : Fld) (v j : Nat) (h : o < 0x510000) :
    sensorFailed (wrf s o f v) j = sensorFailed s j := by
  rw [sensorFailed, rdb_of_rd (rd_wrf_other _ _ _ (sensor_ne_of_lt h j)), sensorFailed]

/-- The readings taken for failed sensors fail and mend none. -/
theorem sensorFailed_replaceFailed (s : State) (j : Nat) : sensorFailed (replaceFailed s) j = sensorFailed s j := by
  rw [replaceFailed]
  refine (foldl_keeps_of (fun u => sensorFailed u j) (fun k hk u => ?_) _).trans ?_
  · exact sensorFailed_wrf_other _ _ _ _ (by
      have h : THM_STACK k < 0x500200 + 36 * 8 := Nat.add_lt_add_left (Nat.mul_lt_mul_of_pos_right (mem_upto.1 hk) (by decide)) _
      exact lt_trans h (by decide))
  · rw [sensorFailed_wrf_other _ _ _ _ (by decide), sensorFailed_wrf_other _ _ _ _ (by decide), sensorFailed_wrf_other _ _ _ _ (by decide)]
    exact foldl_keeps_of (fun u => sensorFailed u j) (fun k _ u => sensorFailed_putSensor ..) _

theorem boot_of_aside (h : aside t = aside s) : t.boot = s.boot := (congrArg State.boot h : (aside t).boot = _)

@[simp] theorem failSensor_aside (s : State) (i : Nat) : aside (failSensor s i) = aside s := by
  rw [failSensor]
  split_ifs <;> simp

@[simp] theorem retestSensors_aside (s : State) (failed : List Nat) : aside (retestSensors s failed) = aside s := by
  rw [retestSensors, replaceFailed]
  rw [aside_foldl _ (fun s k => wrf_aside ..), wrf_aside, wrf_aside, wrf_aside, aside_foldl _ (fun s i => by rw [putSensor, wrf_aside, wrf_aside]),
    aside_foldl _ failSensor_aside]

/-- The sensors once step 3 has tested them again. -/
def retested (s : State) (b : BootIn) : State :=
  modBoot (modSec (wr (retestSensors s b.failedSens) THM_LAST_TRIP s.boot.tripNv) (fun x => { x with running := false }))
    (fun x => { x with released := true })

theorem retested_step (s : State) (b : BootIn) : (retested s b).boot.step = s.boot.step := by
  have h := boot_of_aside (retestSensors_aside s b.failedSens)
  rw [retested, modBoot_boot, modSec, wr_boot, h]

theorem sensorFailed_retested (s : State) (b : BootIn) {i : Nat} (hi : i < numSensors) (hm : i ∈ b.failedSens) :
    sensorFailed (retested s b) i = true := by
  have hf : sensorFailed (retestSensors s b.failedSens) i = true := by
    rw [retestSensors, sensorFailed_replaceFailed, sensorFailed_foldl_failSensor _ hi]
    simp [hm, hi]
  rw [sensorFailed, rdb, retested, rd_modBoot, rd_modSec, rd_wr_other _ _ _ _ (sensor_ne_of_lt (by decide) i), ← rdb]
  exact hf

theorem bootStep_sensors (b : BootIn) (h : s.boot.step = 3) : bootStep s b = stepped (retested s b) := by
  have hn : bootStep s b = nextStep (retested s b) := by simp only [bootStep, h, retested]
  rw [hn, nextStep_other (by rw [retested_step, h]; decide)]

/-! ### Firmware (step 4) -/

theorem chooseSlot_first {b : BootIn} (h : verdictOf b (s.sec.marked.getD s.sec.active) = some 0) :
    chooseSlot s b = some (s.sec.marked.getD s.sec.active, false) := if_pos h

theorem chooseSlot_other {b : BootIn} (h : verdictOf b (s.sec.marked.getD s.sec.active) ≠ some 0)
    (h' : verdictOf b (1 - s.sec.marked.getD s.sec.active) = some 0) :
    chooseSlot s b = some (1 - s.sec.marked.getD s.sec.active, true) := (if_neg h).trans (if_pos h')

theorem chooseSlot_none {b : BootIn} (h : verdictOf b (s.sec.marked.getD s.sec.active) ≠ some 0)
    (h' : verdictOf b (1 - s.sec.marked.getD s.sec.active) ≠ some 0) : chooseSlot s b = none := (if_neg h).trans (if_neg h')

/-- The management complex with the firmware of a slot. -/
def slotRecorded (s : State) (b : BootIn) (slot : Nat) : State := modSec s (fun x => { x with
  active := slot, running := true, marked := if x.marked = some slot then none else x.marked
  svn := smSet (smSet x.svn 0 b.svnA) 1 b.svnB })

/-- The status of the firmware before its slot is shown. -/
def slotWord (s : State) (b : BootIn) (slot : Nat) (fallback : Bool) : Word :=
  if fallback then setf (rd (slotRecorded s b slot) SEC_STATUS) SEC_STATUS_reason ((verdictOf b (1 - slot)).getD 0)
  else rd (slotRecorded s b slot) SEC_STATUS

/-- The device with its slot shown, before the alias key is derived. -/
def slotShown (s : State) (b : BootIn) (slot : Nat) (fallback : Bool) : State :=
  wr (slotRecorded s b slot) SEC_STATUS (setf (setf (setb (setb (slotWord s b slot fallback) SEC_STATUS_fallback fallback)
    SEC_STATUS_next_valid (slotRecorded s b slot).sec.marked.isSome) SEC_STATUS_booted_slot slot) SEC_STATUS_running_svn
      (if slot = 0 then b.svnA else b.svnB))

theorem bootSlot_eq (s : State) (b : BootIn) (slot : Nat) (fallback : Bool) :
    bootSlot s b slot fallback = deriveAlias (slotShown s b slot fallback) := rfl

theorem regsKept_bootSlot (s : State) (b : BootIn) (slot : Nat) (fb : Bool) : RegsKept s (bootSlot s b slot fb) [SEC_STATUS] := by
  intro o ho
  rw [bootSlot_eq, deriveAlias, rd_modSec, slotShown, rd_wr_other _ _ _ _ (by simpa using ho), slotRecorded, rd_modSec]

theorem deriveAlias_boot (s : State) : (deriveAlias s).boot = s.boot := rfl
theorem deriveAlias_out (s : State) : (deriveAlias s).out = s.out := rfl
theorem rd_deriveAlias (s : State) (o : Nat) : rd (deriveAlias s) o = rd s o := rfl

theorem bootSlot_boot (s : State) (b : BootIn) (slot : Nat) (fb : Bool) : (bootSlot s b slot fb).boot = s.boot := by
  rw [bootSlot_eq, deriveAlias_boot, slotShown, wr_boot]
  rfl

theorem bootSlot_out (s : State) (b : BootIn) (slot : Nat) (fb : Bool) : (bootSlot s b slot fb).out = s.out := by
  rw [bootSlot_eq, deriveAlias_out, slotShown, wr_out]
  rfl

theorem deriveAlias_active (s : State) : (deriveAlias s).sec.active = s.sec.active := rfl
theorem deriveAlias_running (s : State) : (deriveAlias s).sec.running = s.sec.running := rfl

theorem bootSlot_sec (s : State) (b : BootIn) (slot : Nat) (fb : Bool) :
    (bootSlot s b slot fb).sec.active = slot ∧ (bootSlot s b slot fb).sec.running = true := by
  rw [bootSlot_eq, deriveAlias_active, deriveAlias_running, slotShown, wr_sec]
  exact ⟨rfl, rfl⟩

/-- A slot that is booted is shown with its version, and under the fallback why the other was refused. -/
theorem slotBooted_bootSlot (s : State) (b : BootIn) (slot : Nat) (fb : Bool) : slotBooted (bootSlot s b slot fb) b slot fb := by
  obtain ⟨ha, hr⟩ := bootSlot_sec s b slot fb
  have hw : rd (bootSlot s b slot fb) SEC_STATUS = setf (setf (setb (setb (slotWord s b slot fb) SEC_STATUS_fallback fb)
      SEC_STATUS_next_valid (slotRecorded s b slot).sec.marked.isSome) SEC_STATUS_booted_slot slot) SEC_STATUS_running_svn
      (if slot = 0 then b.svnA else b.svnB) := by rw [bootSlot_eq, rd_deriveAlias, slotShown, rd_wr_self]
  refine ⟨ha, hr, ?_, ?_, ?_, fun hf => ?_⟩
  · rw [rdb, hw, getb_setf_other _ _ _ _ (by decide) (by decide), getb_setf_other _ _ _ _ (by decide) (by decide),
      getb_setb_other _ _ _ _ (by decide) (by decide), getb_setb_self _ _ _ (by decide) rfl]
  · rw [rdf, hw, getf_setf_other _ _ _ _ (by decide) (by decide), getf_setf_self _ _ _ (by decide)]
    rfl
  · rw [rdf, hw, getf_setf_self _ _ _ (by decide)]
    rfl
  · rw [rdf, hw, getf_setf_other _ _ _ _ (by decide) (by decide), getf_setf_other _ _ _ _ (by decide) (by decide),
      getf_setb_other _ _ _ _ (by decide) (by decide), getf_setb_other _ _ _ _ (by decide) (by decide), slotWord, if_pos hf,
      getf_setf_self _ _ _ (by decide)]

theorem stepped_out (s : State) : (stepped s).out = s.out := rfl

theorem slotBooted_stepped {b : BootIn} {slot : Nat} {fb : Bool} (h : slotBooted t b slot fb) : slotBooted (stepped t) b slot fb := h

/-- The sensors read the same once the firmware's slot is shown. -/
theorem coolEnough_of_sensors (h : ∀ i, i < numSensors → rd t (THM_SENSOR i) = rd s (THM_SENSOR i)) : coolEnough t = coolEnough s := by
  rw [Bool.eq_iff_iff, coolEnough, coolEnough, List.all_eq_true, List.all_eq_true]
  refine forall₂_congr fun i hi => ?_
  rw [sensorTemp, rdf_of_rd (h i (mem_upto.1 hi)), sensorTemp]

theorem coolEnough_bootSlot (s : State) (b : BootIn) (slot : Nat) (fb : Bool) : coolEnough (bootSlot s b slot fb) = coolEnough s :=
  coolEnough_of_sensors fun _ hi => regsKept_bootSlot s b slot fb _ (List.mem_singleton.not.2 (sensor_ne_of_ge (by decide) hi))

/-- Step 4 with a slot to boot. -/
theorem bootStep_slot {b : BootIn} {slot : Nat} {fb : Bool} (h : s.boot.step = 4) (hc : chooseSlot s b = some (slot, fb)) :
    bootStep s b = nextStep (bootSlot s b slot fb) := by simp only [bootStep, h, hc]

theorem bootStep_noSlot {b : BootIn} (h : s.boot.step = 4) (hc : chooseSlot s b = none) : bootStep s b = failAttempt s 3 := by
  simp only [bootStep, h, hc]

theorem firmware_boots {b : BootIn} {slot : Nat} {fb : Bool} (h : s.boot.step = 4) (hc : chooseSlot s b = some (slot, fb))
    (hcool : coolEnough s = true) : ∃ t, exec (.bootStepDone b) s = .next t ∧ t.boot.step = 5 ∧ slotBooted t b slot fb := by
  refine ⟨_, exec_bootStepDone b s, ?_⟩
  rw [bootStep_slot h hc, nextStep_cool (by rw [coolEnough_bootSlot, hcool])]
  exact ⟨by rw [stepped_step, bootSlot_boot, h], slotBooted_stepped (slotBooted_bootSlot ..)⟩

theorem firmware_warm {b : BootIn} {slot : Nat} {fb : Bool} (h : s.boot.step = 4) (hc : chooseSlot s b = some (slot, fb))
    (hwarm : coolEnough s = false) : ∃ t, exec (.bootStepDone b) s = .next t ∧ attemptFails s t 5 7 := by
  refine ⟨_, exec_bootStepDone b s, ?_⟩
  have hf := attemptFails_failAttempt (stepped (bootSlot s b slot fb)) 7
  rw [stepped_step, bootSlot_boot, h] at hf
  rw [bootStep_slot h hc, nextStep_warm (by rw [bootSlot_boot, h]) (by rw [coolEnough_bootSlot, hwarm])]
  refine hf.of_same ?_ (by rw [stepped_out, bootSlot_out])
  rw [rdf_of_rd (rd_stepped ..), rdf_of_rd (regsKept_bootSlot s b slot fb _ (by decide))]

theorem firmware_refused {b : BootIn} (h : s.boot.step = 4) (hc : chooseSlot s b = none) :
    ∃ t, exec (.bootStepDone b) s = .next t ∧ attemptFails s t 4 3 := by
  refine ⟨_, exec_bootStepDone b s, ?_⟩
  have hf := attemptFails_failAttempt s 3
  rw [h] at hf
  rwa [bootStep_noSlot h hc]

/-! ### The core maps (step 7) -/

theorem rep_signalHeldOff (s : State) (v : Nat) : (signalHeldOff s v).rep = s.rep := by
  rw [signalHeldOff]
  split
  · rfl
  · exact signalVector_rep ..

theorem rep_putEvent (s : State) (i code seq : Nat) (w : Word) : (putEvent s i code seq w).rep = s.rep := by
  rw [putEvent]
  split
  · rfl
  · split
    · exact countSat_rep ..
    · rw [putRecord]
      dsimp only
      split
      · split
        · rw [rep_signalHeldOff]
          rfl
        · rfl
      · rfl

/-- What is lost of the held writes is no part of the roster. -/
theorem roster_discardSector (s : State) (sec : Nat) : roster (discardSector s sec) = roster s := by
  have hlost : ∀ (v : State) (gone : List HeldWrite), (writesLost v gone).rep = v.rep := fun v gone => by
    rw [writesLost, foldl_keeps State.rep (fun w i => by rw [rep_putEvent, wrb_rep]), count_rep]
  rw [discardSector]
  dsimp only
  split
  · rfl
  · split
    · rfl
    · rw [roster, hlost]
      rfl

/-- The roster is what it was. -/
def rosterInv (r : List Nat × List Nat × List Nat × List Nat) : AccessInv where
  holds s := roster s = r
  look _ := false
  seesHost := false
  reach _ := True
  quiet h := (Bool.false_ne_true h).elim
  line _ _ := trivial
  place _ _ := rfl
  frame h _ hr _ _ := hr.trans h
  write _ _ h := h
  lost _ h := (roster_discardSector ..).trans h

theorem roster_takeSlot (s : State) (l : Nat) : roster (takeSlot s l) = roster s := by
  rw [takeSlot]
  dsimp only
  split
  · rfl
  · split
    · rfl
    · exact (rosterInv (roster s)).foldl (fun _ _ hs => shrinkSet_kept (rosterInv (roster s)) (fun _ => trivial) hs ..) _ rfl

theorem roster_logAppend (s : State) (g : LogId) (ty low : Nat) (a b : Word) (hg : g.src < 1024) : roster (logAppend s g ty low a b) = roster s :=
  logAppend_kept (rosterInv (roster s)) (s := s) rfl ⟨rfl, rfl, hg⟩ ..

theorem roster_relocateCore (s : State) (c p l : Nat) : roster (relocateCore s c p l) = roster s := by
  rw [relocateCore]
  dsimp only
  split
  · exact roster_logAppend _ _ _ _ _ _ (by decide)
  · split
    · rw [roster_logAppend _ _ _ _ _ _ (by decide), roster_takeSlot]
      have hmove : ∀ (v : State) (q : Nat), roster (moveCore v l q) = roster v := fun v q => rfl
      refine (hmove _ _).trans ((foldl_keeps roster (f := roHalve) (fun v l => rfl) _ _).trans ?_)
      exact roster_logAppend _ _ _ _ _ _ (by decide)
    · rfl

/-- A physical core marked suspect. -/
def markSuspect (s : State) (id : Nat) : State :=
  { s with rep := { s.rep with suspect := if s.rep.suspect.contains id then s.rep.suspect else s.rep.suspect ++ [id] } }

theorem roster_markSuspect (h : roster t = roster s) (id : Nat) : roster (markSuspect t id) = (s.rep.retired, s.rep.pendRet,
    if s.rep.suspect.contains id then s.rep.suspect else s.rep.suspect ++ [id], s.rep.halfWidth) := by
  simp only [roster, Prod.mk.injEq] at h
  obtain ⟨h1, h2, h3, h4⟩ := h
  rw [roster, markSuspect, h1, h2, h3, h4]

theorem refuseRetire_eq (s : State) (c p : Nat) : refuseRetire s c p = raiseEvent (markSuspect (logAppend (countSat s REP_STATUS REP_STATUS_refused)
    repairLog 3 (repSite c p 0 0) (BitVec.ofNat 64 ((servedBy s c p).headD 0)) 0) (136 * c + p)) 17 := rfl

theorem roster_refuseRetire (s : State) (c p : Nat) : roster (refuseRetire s c p) = (s.rep.retired, s.rep.pendRet,
    if s.rep.suspect.contains (136 * c + p) then s.rep.suspect else s.rep.suspect ++ [136 * c + p], s.rep.halfWidth) := by
  have hr : ∀ v : State, roster (raiseEvent v 17) = roster v := fun v => by rw [roster, raiseEvent_rep, roster]
  rw [refuseRetire_eq, hr]
  refine roster_markSuspect ?_ _
  rw [roster_logAppend _ _ _ _ _ _ (by decide), roster, countSat_rep, roster]

/-- A retirement is carried out or refused; it is no longer pending. -/
theorem roster_retireCore (s : State) (id : Nat) : roster (retireCore s id) = (s.rep.retired ++ [id], s.rep.pendRet.erase id, s.rep.suspect, s.rep.halfWidth)
    ∨ roster (retireCore s id) = (s.rep.retired, s.rep.pendRet.erase id,
        if s.rep.suspect.contains id then s.rep.suspect else s.rep.suspect ++ [id], s.rep.halfWidth) := by
  have hid : 136 * (id / 136) + id % 136 = id := Nat.div_add_mod id 136
  rw [retireCore]
  dsimp only
  split
  · refine .inr ((roster_refuseRetire ..).trans ?_)
    rw [hid]
    rfl
  · refine .inl ?_
    generalize hr : (s.rep.retired ++ [id], s.rep.pendRet.erase id, s.rep.suspect, s.rep.halfWidth) = r
    have hw : ∀ (v : State) (c : Nat), roster (clusterCounts v c) = roster v := fun v c => rfl
    rw [hw]
    split
    · exact (roster_logAppend _ _ _ _ _ _ (by decide)).trans hr
    · exact (foldl_keeps roster (fun v l => roster_relocateCore ..) _ _).trans hr

/-- Whether a core has retired, or its retirement was refused. -/
def settledCore (s : State) (id : Nat) : Prop := id ∈ s.rep.retired ∨ id ∈ s.rep.suspect

theorem pendRet_retireCore (s : State) (id : Nat) : (retireCore s id).rep.pendRet = s.rep.pendRet.erase id := by
  obtain h | h := roster_retireCore s id <;> exact congrArg (fun r => r.2.1) h

theorem settledCore_retireCore (s : State) (id j : Nat) (h : j = id ∨ settledCore s j) : settledCore (retireCore s id) j := by
  obtain hr | hr := roster_retireCore s id
  · have h1 : (retireCore s id).rep.retired = s.rep.retired ++ [id] := congrArg (fun r => r.1) hr
    have h2 : (retireCore s id).rep.suspect = s.rep.suspect := congrArg (fun r => r.2.2.1) hr
    rw [settledCore, h1, h2, List.mem_append, List.mem_singleton]
    unfold settledCore at h
    tauto
  · have h1 : (retireCore s id).rep.retired = s.rep.retired := congrArg (fun r => r.1) hr
    have h2 : (retireCore s id).rep.suspect = if s.rep.suspect.contains id then s.rep.suspect else s.rep.suspect ++ [id] :=
      congrArg (fun r => r.2.2.1) hr
    rw [settledCore, h1, h2]
    unfold settledCore at h
    split_ifs with hc
    · have hm : id ∈ s.rep.suspect := by simpa using hc
      obtain rfl | h := h
      · exact .inr hm
      · exact h
    · rw [List.mem_append, List.mem_singleton]
      tauto

theorem pendRet_foldl_retireCore (xs : List Nat) (s : State) : (xs.foldl retireCore s).rep.pendRet = xs.foldl List.erase s.rep.pendRet := by
  induction xs generalizing s with
  | nil => rfl
  | cons x xs ih => rw [List.foldl_cons, ih, pendRet_retireCore, List.foldl_cons]

theorem foldl_erase_self (xs : List Nat) : xs.foldl List.erase xs = [] := by
  induction xs with
  | nil => rfl
  | cons x xs ih => rw [List.foldl_cons, List.erase_cons_head, ih]

theorem settledCore_foldl_retireCore (xs : List Nat) (s : State) (j : Nat) (h : j ∈ xs ∨ settledCore s j) :
    settledCore (xs.foldl retireCore s) j := by
  induction xs generalizing s with
  | nil => simpa using h
  | cons x xs ih =>
    refine ih _ ?_
    obtain h | h := h
    · obtain rfl | h := List.mem_cons.1 h
      · exact .inr (settledCore_retireCore s j j (.inl rfl))
      · exact .inl h
    · exact .inr (settledCore_retireCore s x j (.inr h))

/-! ### What the milestone's repairs leave alone -/

@[simp] theorem giveUp_aside (s : State) (i : Nat) (v : VLine) : aside (giveUp s i v) = aside s := by
  simp [giveUp, apply_ite aside]

@[simp] theorem shrinkSet_aside (s : State) (i n set : Nat) : aside (shrinkSet s i n set) = aside s := by
  rw [shrinkSet]
  rw [aside_foldl _ (fun s v => giveUp_aside ..), aside_foldl _ (fun s v => by rw [count_aside, putLine_aside])]

@[simp] theorem takeSlot_aside (s : State) (l : Nat) : aside (takeSlot s l) = aside s := by
  rw [takeSlot]
  dsimp only
  split
  · rfl
  · split
    · rfl
    · rw [aside_foldl _ (fun s v => shrinkSet_aside ..), setSlice_aside]

@[simp] theorem roInvalidateKinds_outer (s : State) (l : Nat) (ks : List RoKind) : outer (roInvalidateKinds s l ks) = outer s := rfl

@[simp] theorem roHalve_outer (s : State) (l : Nat) : outer (roHalve s l) = outer s := rfl

@[simp] theorem moveCore_outer (s : State) (l p : Nat) : outer (moveCore s l p) = outer s := by
  rw [moveCore, roInvalidateKinds_outer, setPhys]
  exact outer_of_aside _ (wrf_aside ..)

@[simp] theorem logAppend_outer (s : State) (g : LogId) (ty low : Nat) (a b : Word) : outer (logAppend s g ty low a b) = outer s :=
  outer_of_aside s (logAppend_aside ..)

theorem relocateCore_outer (s : State) (c p l : Nat) : outer (relocateCore s c p l) = outer s := by
  rw [relocateCore]
  dsimp only
  split
  · rw [logAppend_outer, freeSlot]
    exact (outer_of_aside _ (setSlice_aside ..)).trans (moveCore_outer ..)
  · split
    · rw [logAppend_outer, outer_of_aside _ (takeSlot_aside ..), moveCore_outer, foldl_keeps outer (fun s l => roHalve_outer s l),
        logAppend_outer]
    · rfl

theorem retireCore_outer (s : State) (id : Nat) : outer (retireCore s id) = outer s := by
  rw [retireCore]
  dsimp only
  split
  · exact outer_of_aside _ ((refuseRetire_aside ..).trans (modRep_aside ..))
  · rw [clusterCounts]
    refine (outer_of_aside _ (wr_aside ..)).trans ?_
    split
    · rw [logAppend_outer]
      exact outer_of_aside _ ((modRep_aside ..).trans (modRep_aside ..))
    · rw [foldl_keeps outer (fun s l => relocateCore_outer s _ _ l)]
      exact outer_of_aside _ ((modRep_aside ..).trans (modRep_aside ..))

theorem boot_of_outer (h : outer t = outer s) : t.boot = s.boot := (congrArg State.boot h : (outer t).boot = _)

theorem coreMapsAtMilestone_boot (s : State) : (coreMapsAtMilestone s).boot = s.boot :=
  boot_of_outer (foldl_keeps outer (fun s id => retireCore_outer s id) _ s)

theorem bootStep_cores (b : BootIn) (h : s.boot.step = 7) : bootStep s b = stepped (coreMapsAtMilestone s) := by
  have hn : bootStep s b = nextStep (coreMapsAtMilestone s) := by simp only [bootStep, h]
  rw [hn, nextStep_other (by rw [coreMapsAtMilestone_boot, h]; decide)]

/-! ### The lanes (step 8) -/

/-- A group that goes to half width is recorded so, once. -/
theorem halfWidth_halveGroup (s : State) (g lane : Nat) : (halveGroup s g lane).rep.halfWidth
    = if s.rep.halfWidth.contains g then s.rep.halfWidth else s.rep.halfWidth ++ [g] := by
  rw [halveGroup]
  split
  · rfl
  · rw [raiseEvent_rep]
    exact congrArg (fun r => r.2.2.2) (roster_logAppend _ repairLog _ _ _ _ (by decide))

@[simp] theorem halveGroup_aside (s : State) (g lane : Nat) : aside (halveGroup s g lane) = aside s := by
  rw [halveGroup]
  split <;> simp

@[simp] theorem groupAtMilestone_aside (s : State) (g : Nat) (failed : List Nat) : aside (groupAtMilestone s g failed) = aside s := by
  rw [groupAtMilestone]
  split <;> simp

theorem mem_halveGroup (s : State) (g lane x : Nat) : x ∈ (halveGroup s g lane).rep.halfWidth ↔ x ∈ s.rep.halfWidth ∨ x = g := by
  rw [halfWidth_halveGroup]
  split_ifs with h
  · have hg : g ∈ s.rep.halfWidth := by simpa using h
    exact ⟨.inl, fun hx => hx.elim id (fun he => he ▸ hg)⟩
  · rw [List.mem_append, List.mem_singleton]

theorem mem_groupAtMilestone (s : State) (g : Nat) (failed : List Nat) (x : Nat) :
    x ∈ (groupAtMilestone s g failed).rep.halfWidth ↔ x ∈ s.rep.halfWidth ∨ (4 < failed.length ∧ x = g) := by
  have hl (xs : List Nat) (n : Nat) : (xs.foldl (fun s lane => logAppend s repairLog 4 (groupSite g lane) 0 0)
      (modRep s (fun r => { r with replaced := smPut 0 r.replaced g n }))).rep.halfWidth = s.rep.halfWidth :=
    congrArg (fun r => r.2.2.2) (foldl_keeps roster (fun s lane => roster_logAppend s repairLog 4 (groupSite g lane) 0 0 (by decide)) xs _)
  rw [groupAtMilestone]
  split
  · next h =>
    rw [mem_halveGroup, hl]
    simp [h]
  · next h =>
    rw [hl]
    simp [h]

/-- One group of the test of step 8. -/
def groupTested (s : State) (l : Nat × List Nat) : State :=
  groupAtMilestone (modRep s (fun r => { r with groups := smPut [] r.groups l.1 l.2 })) l.1 l.2

theorem bootLanes_none {ls : List (Nat × List Nat)} (h : ∃ l ∈ ls, 36 < l.2.length) : bootLanes s ls = none :=
  if_pos (List.any_eq_true.2 (by simpa using h))

theorem bootLanes_some {ls : List (Nat × List Nat)} (h : ∀ l ∈ ls, l.2.length ≤ 36) : bootLanes s ls = some (ls.foldl groupTested s) :=
  if_neg (by simpa using h)

theorem mem_groupsTested (ls : List (Nat × List Nat)) (s : State) (x : Nat)
    (h : x ∈ s.rep.halfWidth ∨ ∃ l ∈ ls, 4 < l.2.length ∧ x = l.1) : x ∈ (ls.foldl groupTested s).rep.halfWidth := by
  induction ls generalizing s with
  | nil => simpa using h
  | cons l ls ih =>
    refine ih _ ?_
    rw [groupTested, mem_groupAtMilestone]
    obtain h | ⟨m, hm, h⟩ := h
    · exact .inl (.inl h)
    · obtain rfl | hm := List.mem_cons.1 hm
      · exact .inl (.inr h)
      · exact .inr ⟨m, hm, h⟩

theorem groupsTested_aside (ls : List (Nat × List Nat)) (s : State) : aside (ls.foldl groupTested s) = aside s :=
  foldl_keeps aside (fun s l => by rw [groupTested, groupAtMilestone_aside, modRep_aside]) ls s

theorem bootStep_lanes {b : BootIn} (h : s.boot.step = 8) (hl : ∀ l ∈ b.lanes, l.2.length ≤ 36) :
    bootStep s b = stepped (b.lanes.foldl groupTested s) := by
  have hn : bootStep s b = nextStep (b.lanes.foldl groupTested s) := by simp only [bootStep, h, bootLanes_some hl]
  rw [hn, nextStep_other (by rw [boot_of_aside (groupsTested_aside ..), h]; decide)]

theorem bootStep_lanesFailed {b : BootIn} (h : s.boot.step = 8) (hl : ∃ l ∈ b.lanes, 36 < l.2.length) :
    bootStep s b = failAttempt s 5 := by simp only [bootStep, h, bootLanes_none hl]

/-! ### The ports (step 9) -/

/-- What the ports of the device change: registers of theirs, and the fabric's records. -/
def OnlyPorts (s t : State) : Prop := (∃ c f, t = { s with cfg := c, fab := f }) ∧ ∀ o, o < 0xC10000 → rd t o = rd s o

theorem OnlyPorts.refl (s : State) : OnlyPorts s s := ⟨⟨_, _, rfl⟩, fun _ _ => rfl⟩

theorem OnlyPorts.trans (h : OnlyPorts s t) (k : OnlyPorts t u) : OnlyPorts s u := by
  obtain ⟨⟨c, f, rfl⟩, hr⟩ := h
  obtain ⟨⟨c', f', rfl⟩, kr⟩ := k
  exact ⟨⟨_, _, rfl⟩, fun o ho => (kr o ho).trans (hr o ho)⟩

theorem onlyPorts_wr (s : State) {o : Nat} (w : Word) (h : 0xC10000 ≤ o) : OnlyPorts s (wr s o w) :=
  ⟨⟨_, s.fab, rfl⟩, fun _ hp => rd_wr_other _ _ _ _ (lt_of_lt_of_le hp h).ne⟩

theorem onlyPorts_setPort (s : State) (p : Nat) (x : Port) : OnlyPorts s (setPort s p x) := ⟨⟨s.cfg, _, rfl⟩, fun _ _ => rfl⟩

theorem onlyPorts_detectPort (s : State) (p : Nat) : OnlyPorts s (detectPort s p) := by
  have hs : 0xC10000 ≤ CWY_PORT_STATUS p := le_trans (by decide) (Nat.le_add_right 0xc10008 (p * 0x4000))
  have hp : 0xC10000 ≤ CWY_PORT_PARTNER p := le_trans (by decide) (Nat.le_add_right 0xc10010 (p * 0x4000))
  have h1 : OnlyPorts s (setPortState s p 1) := (onlyPorts_wr _ _ hs).trans (onlyPorts_wr _ _ hs)
  rw [detectPort]
  exact (h1.trans (onlyPorts_setPort ..)).trans (onlyPorts_wr _ _ hp)

theorem onlyPorts_enabledPorts (s : State) : OnlyPorts s (enabledPorts s) := by
  rw [enabledPorts]
  generalize upto 36 = ps
  induction ps generalizing s with
  | nil => exact OnlyPorts.refl s
  | cons p ps ih =>
    refine OnlyPorts.trans ?_ (ih _)
    dsimp only
    split_ifs
    · exact onlyPorts_detectPort s p
    · exact OnlyPorts.refl s

/-- The device with its sequencer done. -/
def bootedBase (s : State) : State := modPow (wrf s PWR_BOOT PWR_BOOT_state 2) (fun p => { p with on := true })

/-- The ports of the device that has booted are up, and it is its own root. -/
def rooted (s : State) : State := wrb (enabledPorts (bootedBase s)) MST_STATUS MST_STATUS_is_root true

theorem bootStep_ready (b : BootIn) (h : s.boot.step = 9) : bootStep s b
    = emit (modBoot (rooted s) (fun x => { x with step := 0 })) (.uart (.bootReady (rdf s PWR_BOOT PWR_BOOT_attempt))) := by
  simp only [bootStep, h, rooted, bootedBase]

theorem bootedBase_on (s : State) : (bootedBase s).pow.on = true := by
  rw [bootedBase]
  generalize wrf s PWR_BOOT PWR_BOOT_state 2 = u
  rfl

theorem bootedBase_out (s : State) : (bootedBase s).out = s.out := by rw [bootedBase, modPow_out, wrf_out]

theorem onlyPorts_rooted (s : State) : (∃ c f, rooted s = { bootedBase s with cfg := c, fab := f })
    ∧ rd (rooted s) PWR_BOOT = rd (bootedBase s) PWR_BOOT := by
  obtain ⟨⟨c, f, he⟩, hr⟩ := onlyPorts_enabledPorts (bootedBase s)
  refine ⟨⟨(rooted s).cfg, f, ?_⟩, ?_⟩
  · have h := (onlyRegs_wrb (enabledPorts (bootedBase s)) MST_STATUS MST_STATUS_is_root true).1
    rw [← rooted] at h
    rw [h, he]
  · rw [rooted, rd_wrb_other _ _ _ (by decide), hr _ (by decide)]

theorem deviceReady_told (f : Boot → Boot) (o : Output) (hon : u.pow.on = true) (hs : rdf u PWR_BOOT PWR_BOOT_state = 2) :
    deviceReady (emit (modBoot u f) o) = true := by
  rw [deviceReady, bootState, rdf, rd_emit, rd_modBoot, ← rdf, hs, emit_pow, modBoot_pow, hon]
  rfl

theorem boot_ready (b : BootIn) (h : s.boot.step = 9) : ∃ t, exec (.bootStepDone b) s = .next t ∧ deviceReady t = true
    ∧ t.boot.step = 0 ∧ rdb t MST_STATUS MST_STATUS_is_root = true
    ∧ t.out = s.out ++ [.uart (.bootReady (rdf s PWR_BOOT PWR_BOOT_attempt))] := by
  obtain ⟨⟨c, f, he⟩, hr⟩ := onlyPorts_rooted s
  have hroot : rdb (rooted s) MST_STATUS MST_STATUS_is_root = true := by rw [rooted, rdb_wrb_self _ _ _ (by decide) (by decide)]
  have hstate : rdf (rooted s) PWR_BOOT PWR_BOOT_state = 2 := by
    rw [rdf_of_rd hr, bootedBase, rdf, rd_modPow, ← rdf, rdf_wrf_self _ _ _ (by decide)]
    rfl
  have hon : (rooted s).pow.on = true := by rw [he, ← bootedBase_on s]
  have hout : (rooted s).out = s.out := by rw [he, ← bootedBase_out s]
  refine ⟨_, exec_bootStepDone b s, ?_⟩
  rw [bootStep_ready b h]
  generalize rooted s = u at hroot hstate hon hout ⊢
  refine ⟨?_, rfl, ?_, ?_⟩
  · exact deviceReady_told _ _ hon hstate
  · rw [rdb, rd_emit, rd_modBoot, ← rdb, hroot]
  · rw [emit, modBoot_out, hout]

/-! ### The obligation -/

theorem sensorFailed_stepped (s : State) (i : Nat) : sensorFailed (stepped s) i = sensorFailed s i := rfl
theorem stepped_rep (s : State) : (stepped s).rep = s.rep := rfl
theorem stepped_cores (s : State) : (stepped s).cores = s.cores := rfl

theorem bootStep_sensorsLeave (b : BootIn) (h : s.boot.step = 3) : ∃ t, exec (.bootStepDone b) s = .next t ∧ t.boot.step = 4
    ∧ ∀ i ∈ b.failedSens, i < numSensors → sensorFailed t i = true := by
  refine ⟨_, exec_bootStepDone b s, ?_⟩
  rw [bootStep_sensors b h]
  exact ⟨by rw [stepped_step, retested_step, h], fun i hm hi => by rw [sensorFailed_stepped, sensorFailed_retested s b hi hm]⟩

theorem bootStep_strapsLeave (b : BootIn) (h : s.boot.step = 1) : ∃ t, exec (.bootStepDone b) s = .next t ∧ t.boot.step = 2
    ∧ t.boot.sampled = true ∧ RegsKept s t [PWR_STRAP] ∧ (s.boot.sampled = false →
      rdf t PWR_STRAP PWR_STRAP_smb_addr = s.boot.straps % 8 ∧ rdf t PWR_STRAP PWR_STRAP_pcie_sep = s.boot.straps / 16 % 2) := by
  have hb := strapped_boot s
  refine ⟨_, exec_bootStepDone b s, ?_⟩
  rw [bootStep_straps b h]
  refine ⟨by rw [stepped_step, hb, h], congrArg Boot.sampled hb, fun o ho => ?_, fun hs => ?_⟩
  · rw [rd_stepped, regsKept_strapped s o ho]
  · rw [rdf_of_rd (rd_stepped ..), rdf_of_rd (rd_stepped ..)]
    exact rdf_strapped hs

theorem bootStep_coresLeave (b : BootIn) (h : s.boot.step = 7) : ∃ t, exec (.bootStepDone b) s = .next t ∧ t.boot.step = 8
    ∧ t.rep.pendRet = [] ∧ ∀ id ∈ s.rep.pendRet, id ∈ t.rep.retired ∨ id ∈ t.rep.suspect := by
  refine ⟨_, exec_bootStepDone b s, ?_⟩
  rw [bootStep_cores b h]
  rw [stepped_rep, coreMapsAtMilestone]
  refine ⟨by rw [stepped_step, ← coreMapsAtMilestone, coreMapsAtMilestone_boot, h], ?_, fun id hm => settledCore_foldl_retireCore _ s id (.inl hm)⟩
  exact (pendRet_foldl_retireCore ..).trans (foldl_erase_self _)

theorem bootStep_lanesLeave {b : BootIn} (h : s.boot.step = 8) (hl : ∀ l ∈ b.lanes, l.2.length ≤ 36) :
    ∃ t, exec (.bootStepDone b) s = .next t ∧ t.boot.step = 9 ∧ t.cores = s.cores
      ∧ ∀ l ∈ b.lanes, 4 < l.2.length → l.1 ∈ t.rep.halfWidth := by
  refine ⟨_, exec_bootStepDone b s, ?_⟩
  rw [bootStep_lanes h hl]
  rw [stepped_rep, stepped_cores]
  refine ⟨by rw [stepped_step, boot_of_aside (groupsTested_aside ..), h], ?_, fun l hm hn => ?_⟩
  · exact cores_of_aside (groupsTested_aside ..)
  · exact mem_groupsTested _ s _ (.inr ⟨l, hm, hn, rfl⟩)

theorem exec_bootBackoffExpiry_due (h : rdf s PWR_BOOT PWR_BOOT_state = 1) : exec .bootBackoffExpiry s
    = .next (attemptNow (advanceTo s (now s + waitLeft s)) (rdf s PWR_BOOT PWR_BOOT_attempt + 1)) := congrArg Host.Outcome.next (if_pos h)

theorem exec_bootBackoffExpiry_idle (h : rdf s PWR_BOOT PWR_BOOT_state ≠ 1) : exec .bootBackoffExpiry s = .next s :=
  congrArg Host.Outcome.next (if_neg h)

theorem bootBackoff_ends (h : rdf s PWR_BOOT PWR_BOOT_state = 1) : ∃ t, exec .bootBackoffExpiry s = .next t
    ∧ attemptBegins s t (rdf s PWR_BOOT PWR_BOOT_attempt + 1)
    ∧ now t = (now s + waitLeft s) % 2 ^ 64 ∧ RegsKept s t [PWR_BOOT, MST_TIME] := by
  have hb := onlyBoot_attemptNow (advanceTo s (now s + waitLeft s)) (rdf s PWR_BOOT PWR_BOOT_attempt + 1)
  have hs : s.boot.sampled = (advanceTo s (now s + waitLeft s)).boot.sampled := by rw [advanceTo, wr_boot]
  refine ⟨_, exec_bootBackoffExpiry_due h, attemptBegins_attemptNow hs _, ?_, fun o ho => ?_⟩
  · rw [now_of_regsKept hb.2, now_advanceTo, Nat.max_eq_right (Nat.le_add_right ..)]
  · simp only [List.mem_cons, List.not_mem_nil, or_false, not_or] at ho
    rw [hb.2 o (by simpa using ho.1), rd_advanceTo_other _ _ ho.2]

theorem bootStepTimeout_idle (h : s.boot.step = 0) (c : Nat) : exec (.bootStepTimeout c) s = .next s := congrArg Host.Outcome.next (if_pos h)

theorem bootStepTimeout_fails (h : s.boot.step ≠ 0) (c : Nat) : exec (.bootStepTimeout c) s = .next (failAttempt s c) :=
  congrArg Host.Outcome.next (if_neg h)

theorem powerLoss_boot (s : State) : deviceReady (pinsOnly s) = false ∧ rd (pinsOnly s) PWR_BOOT = 0 := by
  have h : rd (pinsOnly s) PWR_BOOT = 0 := by
    rw [show rd (pinsOnly s) PWR_BOOT = rd (unpowered s) PWR_BOOT from rfl, unpowered, rd_wr_other _ _ _ _ (by decide), rd_wr_self]
  refine ⟨?_, h⟩
  rw [deviceReady, bootState, rdf, h, Bool.and_eq_false_iff]
  exact .inr (by decide)

/-- Settles O49: loss and return of power, the steps of an attempt, its failures and its waits. -/
theorem bootAttempts : Obligations.BootAttempts := by
  unfold Obligations.BootAttempts
  refine ⟨fun s => ⟨_, exec_powerLoss s, rfl, powerLoss_clears s, fun o h => rd_unpowered h s, (powerLoss_boot s).1, (powerLoss_boot s).2, rfl⟩,
    fun p s h => exec_powerGood_on h p, fun p s hp hv ht => powerGood_low p hp hv ht,
    fun p s hp hv => ⟨powerGood_begins p hp hv, fun hr => ⟨_, powerGood_waits p hp hv hr, rfl⟩⟩,
    fun b s h => by rw [exec_bootStepDone, bootStep_idle b h], fun b s h => bootStep_strapsLeave b h,
    fun b s h => ⟨stepped s, by rw [exec_bootStepDone, bootStep_plain b h], rfl⟩, fun b s h => bootStep_sensorsLeave b h,
    fun b s h => ⟨?_, ?_, ?_, ?_⟩, fun b s h => bootStep_coresLeave b h,
    fun b s h => ⟨bootStep_lanesLeave h, fun hl => ⟨_, by rw [exec_bootStepDone, bootStep_lanesFailed h hl], ?_⟩⟩,
    fun b s h => boot_ready b h, fun c s h => bootStepTimeout_idle h c,
    fun c s h => ⟨_, bootStepTimeout_fails h c, attemptFails_failAttempt s c, regsKept_failAttempt s c⟩,
    fun s h => bootBackoff_ends h, fun s h => exec_bootBackoffExpiry_idle h, fun s => ⟨_, rfl, rfl⟩⟩
  · exact fun hc hv => firmware_boots h (chooseSlot_first hv) hc
  · exact fun hc hv hv' => firmware_boots h (chooseSlot_other hv hv') hc
  · exact fun hv hv' => firmware_refused h (chooseSlot_none hv hv')
  · exact fun hc hv => firmware_warm h (chooseSlot_first hv) hc
  · have hf := attemptFails_failAttempt s 5
    rwa [h] at hf

end Sys2Proof.Machine
end
section
/-! PROOFS. The monitor's lines (R543 to R545, R552) and the telemetry responder (R548). -/

namespace Sys2Proof.Machine
open Sys2Proof.Laws

variable {s t u : State} {n : LineLen}

/-! ### A line -/

theorem monLine_dead (h : monLive s = false) (w : Bool) (act : State → State) : monLine n w act s = .next s :=
  congrArg Host.Outcome.next (if_pos (by simp [h]))

theorem monLine_long (h : monLive s = true) (hn : 80 < n) (w : Bool) (act : State → State) : monLine n w act s = .next (monErr s 4) :=
  congrArg Host.Outcome.next ((if_neg (by simp [h])).trans (if_pos hn))

theorem monLine_locked (h : monLive s = true) (hn : n ≤ 80) (hd : debugOpen s = false) (act : State → State) :
    monLine n true act s = .next (monErr s 5) :=
  congrArg Host.Outcome.next ((if_neg (by simp [h])).trans ((if_neg (Nat.not_lt.2 hn)).trans (if_pos (by simp [hd]))))

theorem monLine_read (h : monLive s = true) (hn : n ≤ 80) (act : State → State) : monLine n false act s = .next (act s) :=
  congrArg Host.Outcome.next ((if_neg (by simp [h])).trans ((if_neg (Nat.not_lt.2 hn)).trans (if_neg (by simp))))

theorem monLine_open (h : monLive s = true) (hn : n ≤ 80) (hd : debugOpen s = true) (act : State → State) :
    monLine n true act s = .next (act s) :=
  congrArg Host.Outcome.next ((if_neg (by simp [h])).trans ((if_neg (Nat.not_lt.2 hn)).trans (if_neg (by simp [hd]))))

section Commands
variable (n s)

/-- MON_ID and its like say one thing of the state. -/
theorem exec_monId : exec (.monId n) s = monLine n false (fun s => monOk s (.okId (rd s SEC_IDENT) (bootState s))) s := rfl
theorem exec_monSt : exec (.monSt n) s
    = monLine n false (fun s => monOk s (.okSt (stageNow s) (rd s MST_TIME) (rd s MST_STATUS) (keepState s))) s := rfl
theorem exec_monTemp : exec (.monTemp n) s = monLine n false (fun s => monOk s (.okTemp (rdf s THM_STATUS THM_STATUS_hottest_sensor)
    (sextN 16 (rdf s THM_STATUS THM_STATUS_hottest_t)) (rdb s THM_STATUS THM_STATUS_throttle))) s := rfl
theorem exec_monToken : exec (.monToken n) s = monLine n false (fun s => monOk s (.okToken (rd s HST_KEEP_TOKEN))) s := rfl
theorem exec_monitorUnknownCommand : exec (.monitorUnknownCommand n) s = monLine n false (fun s => monErr s 1) s := rfl
theorem exec_monRd (a : Word) : exec (.monRd n a) s = monLine n false (fun s => monRead s a.toNat) s := rfl
theorem exec_monWr (a v : Word) : exec (.monWr n a v) s = monLine n true (fun s => monWrite s a.toNat v) s := rfl
theorem exec_monResetRoadbed : exec (.monResetRoadbed n) s = monLine n true (fun s => roadbedReset (monOk s .ok) 3) s := rfl
theorem exec_monResetDevice : exec (.monResetDevice n) s = monLine n true (fun s => pwrResetDevice (monOk s .ok) 0xA5) s := rfl

/-- A change of the rate, after the answer. -/
def baudSet (s : State) (r : Nat) : State :=
  if baudRates.contains r then wrf (monOk s .ok) MON_STATUS MON_STATUS_baud r else monErr s 2

theorem exec_monBaud (r : Nat) : exec (.monBaud n r) s = monLine n false (fun s => baudSet s r) s := rfl

/-- A halt request of the streams of a core. -/
def monHalted (s : State) (l m : Nat) : State :=
  if l ≥ numCores ∨ m = 0 ∨ m > 7 then monErr s 2
  else if !deviceReady s then monErr s 3
  else monOk (ctrlRequests s l 0 m) .ok

theorem exec_monHalt (l m : Nat) : exec (.monHalt n l m) s = monLine n true (fun s => monHalted s l m) s := rfl

end Commands

/-- Every line of the monitor is taken as one. -/
theorem exec_monitorLine {i : Instr} (h : monitorLine n i) (s : State) : ∃ w act, exec i s = monLine n w act s := by
  obtain rfl | ⟨a, rfl⟩ | ⟨a, v, rfl⟩ | rfl | rfl | rfl | ⟨r, rfl⟩ | ⟨l, m, rfl⟩ | rfl | rfl | rfl := h
  · exact ⟨_, _, exec_monId s n⟩
  · exact ⟨_, _, exec_monRd s n a⟩
  · exact ⟨_, _, exec_monWr s n a v⟩
  · exact ⟨_, _, exec_monSt s n⟩
  · exact ⟨_, _, exec_monTemp s n⟩
  · exact ⟨_, _, exec_monToken s n⟩
  · exact ⟨_, _, exec_monBaud s n r⟩
  · exact ⟨_, _, exec_monHalt s n l m⟩
  · exact ⟨_, _, exec_monResetRoadbed s n⟩
  · exact ⟨_, _, exec_monResetDevice s n⟩
  · exact ⟨_, _, exec_monitorUnknownCommand s n⟩

/-! ### Answers -/

theorem monSays_monOk (s : State) (l : MonLine) : monSays s (monOk s l) l := by
  refine ⟨?_, ?_, fun o ho => ?_, ?_⟩
  · rw [monOk, emit, count_out]
  · rw [monOk, rdf, rd_emit, rd_count_self, getf_addf_self _ _ (by decide), ← rdf]
    rfl
  · rw [monOk, rd_emit, rd_count_other _ _ _ (by simpa using ho)]
  · rw [monOk, emit_mem, count_mem]

theorem monFails_monErr (s : State) (k : Nat) : monFails s (monErr s k) k := by
  have hc := (onlyRegs_count s MON_STATUS MON_STATUS_errors 1).1
  refine ⟨?_, fun o ho => ?_, ?_⟩
  · rw [monErr]
    generalize count s MON_STATUS MON_STATUS_errors 1 = u at hc ⊢
    rw [emit, hc]
  · rw [monErr, rd_emit, rd_count_other _ _ _ (by simpa using ho)]
  · rw [monErr, rdf, rd_emit, rd_count_self, getf_addf_self _ _ (by decide), ← rdf]
    rfl

theorem monRead_misaligned {a : Nat} (h : a % 8 ≠ 0) : monRead s a = monErr s 2 := if_pos h

theorem monRead_waiting {a : Nat} (h : a % 8 = 0) (hr : monReach s a = false) : monRead s a = monErr s 3 :=
  (if_neg (not_not.2 h)).trans (if_pos (by simp [hr]))

theorem monRead_config {a o : Nat} (h : a % 8 = 0) (hr : monReach s a = true) (hc : regionOf a = .config o) :
    monRead s a = monOk (readReg s o).2 (.okRd (readReg s o).1) := by
  rw [monRead, if_neg (not_not.2 h), if_neg (by simp [hr]), hc]

theorem monRead_memory {a : Nat} {d : List Byte} (h : a % 8 = 0) (hr : monReach s a = true) (hc : ∀ o, regionOf a ≠ .config o)
    (hd : sysRead s .mgmt .requester a 8 = (.data d, u)) : monRead s a = monOk u (.okRd (BitVec.ofNat 64 (leNat d))) := by
  rw [monRead, if_neg (not_not.2 h), if_neg (by simp [hr])]
  split
  · next o ho => exact absurd ho (hc o)
  · rw [hd]

theorem monWrite_misaligned {a : Nat} (h : a % 8 ≠ 0) (v : Word) : monWrite s a v = monErr s 2 := if_pos h

theorem monWrite_waiting {a : Nat} (h : a % 8 = 0) (hr : monReach s a = false) (v : Word) : monWrite s a v = monErr s 3 :=
  (if_neg (not_not.2 h)).trans (if_pos (by simp [hr]))

theorem monWrite_config {a o : Nat} (h : a % 8 = 0) (hr : monReach s a = true) (hc : regionOf a = .config o) (v : Word) :
    monWrite s a v = monOk (configWrite s .monitor o 8 v) .ok := by
  rw [monWrite, if_neg (not_not.2 h), if_neg (by simp [hr]), hc]

theorem monWrite_memory {a : Nat} {v : Word} {d : List Byte} (h : a % 8 = 0) (hr : monReach s a = true) (hc : ∀ o, regionOf a ≠ .config o)
    (hd : sysWrite s .mgmt a (bytesOf 8 v.toNat) = (.data d, u)) : monWrite s a v = monOk u .ok := by
  rw [monWrite, if_neg (not_not.2 h), if_neg (by simp [hr])]
  split
  · next o ho => exact absurd ho (hc o)
  · rw [hd]

/-! ### Resets asked for by the monitor -/

theorem pg_of_monLive (h : monLive s = true) : s.boot.pg = true := by
  simp only [monLive, Bool.and_eq_true] at h
  exact h.1.1.1.1.1

/-- The record of a Roadbed reset. -/
def roadbedNoted (s : State) (cause : Nat) : State :=
  wrf (count s PWR_RESET_STATUS PWR_RESET_STATUS_roadbed_resets) PWR_RESET_STATUS PWR_RESET_STATUS_last_cause cause

/-- The sequencer once a Roadbed reset has begun. -/
def roadbedHeld (s : State) (cause : Nat) : State :=
  modBoot (roadbedNoted s cause) (fun b => { b with rb := 1, rbPorts := activePorts s })

theorem roadbedReset_begins (hd : deviceReady s = true) (hb : s.boot.rb = 0) (cause : Nat) : roadbedReset s cause
    = if 1 < fabricDevices s then modMst (roadbedHeld s cause) (fun m => { m with roadbed := true }) else roadbedHeld s cause :=
  if_neg (by simp [hd, hb])

theorem roadbedBegins_held (s : State) {cause : Nat} (hc : cause < 2 ^ 4) : roadbedBegins s (roadbedHeld s cause) cause := by
  have ho : OnlyRegs s (roadbedNoted s cause) [PWR_RESET_STATUS] := (onlyRegs_count ..).trans (onlyRegs_wrf ..)
  refine ⟨rfl, ?_, ?_, fun o h => ?_, ?_, ?_⟩
  · rw [roadbedHeld, rdf, rd_modBoot, ← rdf, roadbedNoted, rdf_wrf_self _ _ _ (by decide)]
    exact Nat.mod_eq_of_lt hc
  · rw [roadbedHeld, rdf, rd_modBoot, ← rdf, roadbedNoted, rdf_wrf_field _ _ _ (by decide) (by decide), rdf, rd_count_self,
      getf_addf_self _ _ (by decide), ← rdf]
    rfl
  · rw [roadbedHeld, rd_modBoot, ho.2 o h]
  · rw [roadbedHeld, modBoot_cores, ho.cores]
  · rw [roadbedHeld, modBoot_mem, ho.mem]

theorem roadbedBegins_modMst {cause : Nat} {f : Mst → Mst} (h : roadbedBegins s t cause) : roadbedBegins s (modMst t f) cause := h

/-- A Roadbed reset that begins. -/
theorem roadbedBegins_roadbedReset (hd : deviceReady s = true) (hb : s.boot.rb = 0) {cause : Nat} (hc : cause < 2 ^ 4) :
    roadbedBegins s (roadbedReset s cause) cause := by
  rw [roadbedReset_begins hd hb]
  split
  · exact roadbedBegins_modMst (roadbedBegins_held s hc)
  · exact roadbedBegins_held s hc

theorem deviceReady_monOk (s : State) (l : MonLine) : deviceReady (monOk s l) = deviceReady s := by
  rw [deviceReady, bootState, rdf, monOk, rd_emit, rd_count_other _ _ _ (by decide), emit_pow, count_pow, ← rdf, ← bootState, deviceReady]

theorem monOk_boot (s : State) (l : MonLine) : (monOk s l).boot = s.boot := by rw [monOk, emit_boot, count_boot]

/-- A trip that the reset of the device ends. -/
def tripEnded (s : State) : State :=
  if s.boot.trip then modBoot (emit s (.pin 1 true)) (fun b => { b with trip := false, cooling := false }) else s

theorem pwrResetDevice_boots (hp : s.boot.pg = true) (hs : bootState s ≠ 2) :
    pwrResetDevice s 0xA5 = attemptNow (modBoot (deviceReset (tripEnded s)) (fun b => { b with began := none })) 1 :=
  (if_neg (by simp [hp])).trans (if_neg hs)

theorem tripEnded_keeps (s : State) : (tripEnded s).boot.vrLow = s.boot.vrLow ∧ (tripEnded s).mem = s.mem ∧ (tripEnded s).rep = s.rep
    ∧ (tripEnded s).boot.sampled = s.boot.sampled := by
  rw [tripEnded]
  split_ifs <;> exact ⟨rfl, rfl, rfl, rfl⟩

theorem monReset_begins (hp : s.boot.pg = true) (hs : rdf s PWR_BOOT PWR_BOOT_state ≠ 2) :
    deviceCleared s (pwrResetDevice (monOk s .ok) 0xA5) ∧ attemptBegins s (pwrResetDevice (monOk s .ok) 0xA5) 1 := by
  have hb := monOk_boot s .ok
  have hst : bootState (monOk s .ok) ≠ 2 := by
    rw [bootState, rdf, monOk, rd_emit, rd_count_other _ _ _ (by decide), ← rdf]
    exact hs
  have hm : (monOk s .ok).mem = s.mem := by rw [monOk, emit_mem, count_mem]
  have hr : (monOk s .ok).rep = s.rep := by rw [monOk, emit_rep, count_rep]
  rw [pwrResetDevice_boots (by rw [hb, hp]) hst]
  generalize monOk s .ok = m at hb hm hr
  obtain ⟨hv, htm, htr, hts⟩ := tripEnded_keeps m
  have hc : deviceCleared s (deviceReset (tripEnded m)) := deviceCleared_of_same (deviceCleared_deviceReset _)
    (by rw [hv, hb]) (by rw [htm, hm]) (by rw [htr, hr])
  have hsam : s.boot.sampled = (modBoot (deviceReset (tripEnded m)) (fun b => { b with began := none })).boot.sampled := by
    rw [modBoot_boot, deviceReset_boot, clearedBase, hts, hb]
  exact ⟨(hc.onlyBoot (onlyBoot_modBoot ..)).onlyBoot (onlyBoot_attemptNow ..), attemptBegins_attemptNow hsam 1⟩

/-! ### The telemetry responder -/

theorem smbusAnswer_owned (h : smbusOwned s = true) (code : Nat) (vs : List (Nat × Nat)) :
    smbusAnswer s code vs = emit s (.response code (vs.flatMap (fun v => (bytesOf v.1 v.2).map (·.toNat)))) := if_pos h

theorem smbusAnswer_other (h : smbusOwned s = false) (code : Nat) (vs : List (Nat × Nat)) : smbusAnswer s code vs = s :=
  if_neg (by simp [h])

section Reads
variable (s)

theorem exec_smbusIdentRead : exec .smbusIdentRead s
    = .next (smbusAnswer s 0x10 [(2, vendorId), (2, deviceId), (1, revisionId), (8, (rd s SEC_IDENT).toNat)]) := rfl
theorem exec_smbusBootRead : exec .smbusBootRead s
    = .next (smbusAnswer s 0x11 [(8, (bootWord s).toNat), (1, keepState s), (1, rdf s THM_STATUS THM_STATUS_throttle)]) := rfl
theorem exec_smbusThermalRead : exec .smbusThermalRead s = .next (smbusAnswer s 0x12 [(2, rdf s THM_STATUS THM_STATUS_hottest_t),
    (2, rdf s THM_STATUS THM_STATUS_hottest_sensor), (8, (rd s THM_LAST_TRIP).toNat)]) := rfl
theorem exec_smbusPowerRead : exec .smbusPowerRead s
    = .next (smbusAnswer s 0x13 [(2, rdf s PWR_STATUS PWR_STATUS_stage_power_w), (8, (rd s PWR_ENERGY).toNat)]) := rfl

end Reads

/-! ### The obligation -/

/-- A line that is read is answered. -/
theorem line_says {i : Instr} {act : State → State} {l : MonLine} (he : exec i s = monLine n false act s) (hl : monLive s = true)
    (hn : n ≤ 80) (ha : act s = monOk s l) : ∃ t, exec i s = .next t ∧ monSays s t l :=
  ⟨_, by rw [he, monLine_read hl hn, ha], monSays_monOk s l⟩

/-- A line that is not carried out is answered with an error. -/
theorem line_fails {i : Instr} {w : Bool} {act : State → State} {k : Nat} (he : exec i s = monLine n w act s)
    (ha : monLine n w act s = .next (monErr s k)) : ∃ t, exec i s = .next t ∧ monFails s t k :=
  ⟨_, by rw [he, ha], monFails_monErr s k⟩

theorem monBaud_ok {r : Nat} (hl : monLive s = true) (hn : n ≤ 80) (hr : r ∈ baudRates) :
    ∃ t, exec (.monBaud n r) s = .next t ∧ monSays s t .ok ∧ rdf t MON_STATUS MON_STATUS_baud = r := by
  have hlt : ∀ r ∈ baudRates, r < 2 ^ 23 := by decide
  obtain ⟨ho, hc, hk, hm⟩ := monSays_monOk s .ok
  refine ⟨wrf (monOk s .ok) MON_STATUS MON_STATUS_baud r, ?_, ⟨?_, ?_, hk.trans (onlyRegs_wrf ..).2, ?_⟩, ?_⟩
  · rw [exec_monBaud, monLine_read hl hn, baudSet, if_pos (by simpa using hr)]
  · rw [wrf_out, ho]
  · rw [rdf_wrf_field _ _ _ (by decide) (by decide), hc]
  · rw [wrf_mem, hm]
  · rw [rdf_wrf_self _ _ _ (by decide)]
    exact Nat.mod_eq_of_lt (hlt r hr)

theorem monBaud_bad {r : Nat} (hl : monLive s = true) (hn : n ≤ 80) (hr : r ∉ baudRates) :
    ∃ t, exec (.monBaud n r) s = .next t ∧ monFails s t 2 :=
  line_fails (exec_monBaud s n r) (by rw [monLine_read hl hn, baudSet, if_neg (by simpa using hr)])

theorem monHalted_bad {l m : Nat} (h : numCores ≤ l ∨ m = 0 ∨ 7 < m) : monHalted s l m = monErr s 2 := if_pos h

theorem monHalted_waiting {l m : Nat} (hl : l < numCores) (h0 : 0 < m) (h7 : m ≤ 7) (hd : deviceReady s = false) :
    monHalted s l m = monErr s 3 := (if_neg (by omega)).trans (if_pos (by simp [hd]))

theorem monHalted_ready {l m : Nat} (hl : l < numCores) (h0 : 0 < m) (h7 : m ≤ 7) (hd : deviceReady s = true) :
    monHalted s l m = monOk (ctrlRequests s l 0 m) .ok := (if_neg (by omega)).trans (if_neg (by simp [hd]))

/-- Settles O57: the answer to each line of the monitor, and the telemetry responder's. -/
theorem monitorAndTelemetry : Obligations.MonitorAndTelemetry := by
  unfold Obligations.MonitorAndTelemetry
  refine ⟨fun n s i h hd => ?_, fun n s i h hl hn => ?_, fun n s hl hn hd => ⟨?_, ?_, ?_, ?_⟩,
    fun n s hl hn => ⟨?_, ?_, ?_, ?_, ?_, fun r => monBaud_ok hl hn, fun r => monBaud_bad hl hn, ?_, ?_, ?_, ?_⟩,
    fun n s hl hn hd => ⟨?_, ?_, ?_, ?_, ?_, ?_, ?_, ?_, ?_⟩, fun s ho => ⟨?_, ?_, ?_, ?_⟩, fun s ho => ⟨?_, ?_, ?_, ?_⟩⟩
  · obtain ⟨w, act, he⟩ := exec_monitorLine h s
    rw [he, monLine_dead hd]
  · obtain ⟨w, act, he⟩ := exec_monitorLine h s
    exact line_fails he (monLine_long hl hn w act)
  · exact fun a v => line_fails (exec_monWr s n a v) (monLine_locked hl hn hd _)
  · exact fun l m => line_fails (exec_monHalt s n l m) (monLine_locked hl hn hd _)
  · exact line_fails (exec_monResetRoadbed s n) (monLine_locked hl hn hd _)
  · exact line_fails (exec_monResetDevice s n) (monLine_locked hl hn hd _)
  · exact line_says (exec_monId s n) hl hn rfl
  · exact line_says (exec_monSt s n) hl hn rfl
  · exact line_says (exec_monTemp s n) hl hn rfl
  · exact line_says (exec_monToken s n) hl hn rfl
  · exact line_fails (exec_monitorUnknownCommand s n) (monLine_read hl hn _)
  · exact fun a h => line_fails (exec_monRd s n a) (by rw [monLine_read hl hn, monRead_misaligned h])
  · exact fun a h hr => line_fails (exec_monRd s n a) (by rw [monLine_read hl hn, monRead_waiting h hr])
  · intro a o h hr hc
    refine ⟨_, by rw [exec_monRd, monLine_read hl hn, monRead_config h hr hc], (monSays_monOk ..).1⟩
  · intro a d u h hr hc hd
    exact ⟨_, by rw [exec_monRd, monLine_read hl hn, monRead_memory h hr hc hd], monSays_monOk ..⟩
  · exact fun a v h => line_fails (exec_monWr s n a v) (by rw [monLine_open hl hn hd, monWrite_misaligned h])
  · exact fun a v h hr => line_fails (exec_monWr s n a v) (by rw [monLine_open hl hn hd, monWrite_waiting h hr])
  · exact fun a v o h hr hc => ⟨_, by rw [exec_monWr, monLine_open hl hn hd, monWrite_config h hr hc], monSays_monOk ..⟩
  · exact fun a v d u h hr hc hw => ⟨_, by rw [exec_monWr, monLine_open hl hn hd, monWrite_memory h hr hc hw], monSays_monOk ..⟩
  · exact fun l m h => line_fails (exec_monHalt s n l m) (by rw [monLine_open hl hn hd, monHalted_bad h])
  · exact fun l m h h0 h7 hw => line_fails (exec_monHalt s n l m) (by rw [monLine_open hl hn hd, monHalted_waiting h h0 h7 hw])
  · exact fun l m h h0 h7 hw => ⟨_, by rw [exec_monHalt, monLine_open hl hn hd, monHalted_ready h h0 h7 hw], monSays_monOk ..⟩
  · exact fun hr hb => ⟨_, by rw [exec_monResetRoadbed, monLine_open hl hn hd],
      roadbedBegins_roadbedReset (by rw [deviceReady_monOk, hr]) (by rw [monOk_boot, hb]) (by decide)⟩
  · exact fun hs => ⟨_, by rw [exec_monResetDevice, monLine_open hl hn hd], monReset_begins (pg_of_monLive hl) hs⟩
  · rw [exec_smbusIdentRead, smbusAnswer_owned ho]
    simp [vendorId, deviceId, revisionId]
  · rw [exec_smbusBootRead, smbusAnswer_owned ho]
    simp
  · rw [exec_smbusThermalRead, smbusAnswer_owned ho]
    simp
  · rw [exec_smbusPowerRead, smbusAnswer_owned ho]
    simp
  · rw [exec_smbusIdentRead, smbusAnswer_other ho]
  · rw [exec_smbusBootRead, smbusAnswer_other ho]
  · rw [exec_smbusThermalRead, smbusAnswer_other ho]
  · rw [exec_smbusPowerRead, smbusAnswer_other ho]

end Sys2Proof.Machine
end

section
/-! PROOFS. A sample of the sensors (R514 to R516): which it fails, what the others show, and what it leaves alone. -/

namespace Sys2Proof.Machine
open Sys2Proof.Laws

variable {s t u : State}

/-! ### Readings in two's complement -/

theorem sextN_wrapN {r : Int} (h : -2 ^ 15 ≤ r) (h' : r < 2 ^ 15) : sextN 16 (wrapN 16 r) = r := by
  simp only [sextN, wrapN]
  omega

theorem sextN_wrapN_modEq (r : Int) : sextN 16 (wrapN 16 r) ≡ r [ZMOD 2 ^ 16] := by
  simp only [sextN, wrapN, Int.ModEq]
  omega

theorem wrapN_mod (r : Int) : wrapN 16 r % 2 ^ 16 = wrapN 16 r := Nat.mod_eq_of_lt (by simp only [wrapN]; omega)

/-! ### The parts of a sample -/

/-- The readings of a sample, over those of the last. -/
def sampleRaw (s : State) (rs : List (Nat × Int)) : SMap Int := rs.foldl (fun m r => smPut 0 m r.1 r.2) (s.thermal.hist.head?.getD [])

/-- Whether a sample fails a sensor. -/
def sampleBad (s : State) (rs : List (Nat × Int)) (bad : List Nat) (i : Nat) : Bool :=
  badSample (smGet 0 (sampleRaw s rs) i) (s.thermal.hist.head?.map (fun p => smGet 0 p i)) (bad.contains i)

/-- The sensors once the sample has been judged. -/
def sampleJudged (s : State) (rs : List (Nat × Int)) (bad : List Nat) : State :=
  (upto numSensors).foldl (fun u i => if sampleBad s rs bad i then failSensor u i else u) s

/-- The rate of a sensor over the last ten samples. -/
def sampleRate (s : State) (rs : List (Nat × Int)) (i : Nat) : Int :=
  match (if 10 ≤ s.thermal.hist.length then s.thermal.hist.getLast? else none) with
  | some o => smGet 0 (sampleRaw s rs) i - smGet 0 o i
  | none => 0

/-- The sensors that work show the sample. -/
def sampleShown (s : State) (rs : List (Nat × Int)) (bad : List Nat) : State :=
  ((upto numSensors).filter (fun i => !sensorFailed (sampleJudged s rs bad) i)).foldl
    (fun u i => putSensor u i (smGet 0 (sampleRaw s rs) i) (sampleRate s rs i)) (sampleJudged s rs bad)

/-- The history of the sensors with another sample. -/
def sampleKept (u : State) (h : List (SMap Int)) : State := { u with thermal := { u.thermal with hist := h } }

theorem takeSample_eq (s : State) (rs : List (Nat × Int)) (bad : List Nat) : takeSample s rs bad
    = sampleKept (replaceFailed (sampleShown s rs bad)) ((sampleRaw s rs :: s.thermal.hist).take 10) := rfl

theorem smGet_sampleRaw_foldl (rs : List (Nat × Int)) (m : SMap Int) {i : Nat} {r : Int} (hn : (rs.map (·.1)).Nodup) (h : (i, r) ∈ rs) :
    smGet 0 (rs.foldl (fun m r => smPut 0 m r.1 r.2) m) i = r := by
  have hkeep (xs : List (Nat × Int)) (hx : i ∉ xs.map (·.1)) (m : SMap Int) :
      smGet 0 (xs.foldl (fun m r => smPut 0 m r.1 r.2) m) i = smGet 0 m i := by
    induction xs generalizing m with
    | nil => rfl
    | cons x xs ih =>
      simp only [List.map_cons, List.mem_cons, not_or] at hx
      rw [List.foldl_cons, ih hx.2, smGet_smPut_other _ _ _ _ _ _ hx.1]
  induction rs generalizing m with
  | nil => cases h
  | cons x xs ih =>
    rw [List.map_cons, List.nodup_cons] at hn
    obtain rfl | h := List.mem_cons.1 h
    · rw [List.foldl_cons, hkeep xs hn.1, smGet_smPut_self]
    · exact ih _ hn.2 h

/-! ### Which sensors a sample fails -/

theorem sensorFailed_judged_foldl (p : Nat → Bool) {xs : List Nat} (hx : ∀ i ∈ xs, i < numSensors) {j : Nat} (hj : j < numSensors) (s : State) :
    sensorFailed (xs.foldl (fun u i => if p i then failSensor u i else u) s) j = (sensorFailed s j || (decide (j ∈ xs) && p j)) := by
  induction xs generalizing s with
  | nil => simp
  | cons x xs ih =>
    rw [List.foldl_cons, ih (fun i hi => hx i (List.mem_cons_of_mem _ hi))]
    by_cases hp : p x = true
    · rw [if_pos hp, sensorFailed_failSensor x hj]
      by_cases hjx : j = x
      · subst hjx
        simp [hp]
      · simp [hjx]
    · rw [if_neg hp]
      by_cases hjx : j = x
      · subst hjx
        simp [eq_false_of_ne_true hp]
      · simp [hjx]

theorem sensorFailed_judged (s : State) (rs : List (Nat × Int)) (bad : List Nat) {j : Nat} (hj : j < numSensors) :
    sensorFailed (sampleJudged s rs bad) j = (sensorFailed s j || sampleBad s rs bad j) := by
  rw [sampleJudged, sensorFailed_judged_foldl _ (fun i hi => mem_upto.1 hi) hj, decide_eq_true (mem_upto.2 hj), Bool.true_and]

theorem sensorFailed_takeSample (s : State) (rs : List (Nat × Int)) (bad : List Nat) {j : Nat} (hj : j < numSensors) :
    sensorFailed (takeSample s rs bad) j = (sensorFailed s j || sampleBad s rs bad j) := by
  have hk (u : State) (h : List (SMap Int)) : sensorFailed (sampleKept u h) j = sensorFailed u j := rfl
  rw [takeSample_eq, hk, sensorFailed_replaceFailed, sampleShown, foldl_keeps (fun u => sensorFailed u j) (fun u i => sensorFailed_putSensor ..),
    sensorFailed_judged s rs bad hj]

/-! ### What a sample leaves alone -/

/-- A register that no sample writes. -/
def OffSensors (o : Nat) : Prop := NotPba o ∧ o ≠ ICU_SRC 13 ∧ (o < THM_STATUS ∨ 0x510000 + numSensors * 8 ≤ o)

theorem OffSensors.ne_sensor {o i : Nat} (h : OffSensors o) (hi : i < numSensors) : o ≠ THM_SENSOR i := by
  obtain h | h := h.2.2
  · exact (sensor_ne_of_lt (lt_trans h (by decide)) i).symm
  · exact (sensor_ne_of_ge h hi).symm

theorem OffSensors.ne_of {o p : Nat} (h : OffSensors o) (hl : THM_STATUS ≤ p) (hu : p < 0x510000 + numSensors * 8) : o ≠ p := by
  obtain h | h := h.2.2
  · exact (lt_of_lt_of_le h hl).ne
  · exact (lt_of_lt_of_le hu h).ne'

theorem stackReg_bounds {k : Nat} (hk : k < 36) : THM_STACK 0 ≤ THM_STACK k ∧ THM_STACK k < THM_STACK 36 :=
  ⟨Nat.add_le_add_left (Nat.mul_le_mul_right _ k.zero_le) _, Nat.add_lt_add_left (Nat.mul_lt_mul_of_pos_right hk (by decide)) _⟩

/-- What of the registers a part of a sample keeps: a view of one register. -/
theorem rd_failSensor_other (h : NotPba o) (hs : o ≠ ICU_SRC 13) {i : Nat} (hi : o ≠ THM_SENSOR i) (ht : o ≠ THM_STATUS) (hc : o ≠ THM_COUNT)
    (s : State) : rd (failSensor s i) o = rd s o := by
  rw [failSensor]
  split_ifs
  · rfl
  · rw [rd_raiseLevel_other _ _ h hs ht, rd_count_other _ _ _ hc, rd_wrb_other _ _ _ hi]

theorem rd_putSensor_other {i : Nat} (hi : o ≠ THM_SENSOR i) (s : State) (a r : Int) : rd (putSensor s i a r) o = rd s o := by
  rw [putSensor, rd_wrf_other _ _ _ hi, rd_wrf_other _ _ _ hi]

theorem rd_replaceFailed_other (hi : ∀ i, i < numSensors → o ≠ THM_SENSOR i) (ht : o ≠ THM_STATUS) (hk : ∀ k, k < 36 → o ≠ THM_STACK k)
    (s : State) : rd (replaceFailed s) o = rd s o := by
  rw [replaceFailed]
  refine (foldl_keeps_of (fun u => rd u o) (fun k hm u => rd_wrf_other _ _ _ (hk k (mem_upto.1 hm))) _).trans ?_
  rw [rd_wrf_other _ _ _ ht, rd_wrf_other _ _ _ ht, rd_wrf_other _ _ _ ht]
  exact foldl_keeps_of (fun u => rd u o) (fun i hm u => rd_putSensor_other (hi i (mem_upto.1 (List.mem_filter.1 hm).1)) u ..) _

theorem rd_sampleShown_other (h : NotPba o) (hs : o ≠ ICU_SRC 13) (hi : ∀ i, i < numSensors → o ≠ THM_SENSOR i) (ht : o ≠ THM_STATUS)
    (hc : o ≠ THM_COUNT) (s : State) (rs : List (Nat × Int)) (bad : List Nat) : rd (sampleShown s rs bad) o = rd s o := by
  rw [sampleShown, foldl_keeps_of (fun u => rd u o) (fun i hm u => rd_putSensor_other (hi i (mem_upto.1 (List.mem_filter.1 hm).1)) u ..)]
  rw [sampleJudged]
  refine foldl_keeps_of (fun u => rd u o) (fun i hm u => ?_) s
  split_ifs
  · exact rd_failSensor_other h hs (hi i (mem_upto.1 hm)) ht hc u
  · rfl

theorem rd_sampleKept (u : State) (h : List (SMap Int)) (o : Nat) : rd (sampleKept u h) o = rd u o := rfl

theorem rd_takeSample_other (h : OffSensors o) (s : State) (rs : List (Nat × Int)) (bad : List Nat) : rd (takeSample s rs bad) o = rd s o := by
  have ht : o ≠ THM_STATUS := h.ne_of (by decide) (by decide)
  have hk (k : Nat) (hk : k < 36) : o ≠ THM_STACK k := h.ne_of (le_trans (by decide) (stackReg_bounds hk).1) (lt_trans (stackReg_bounds hk).2 (by decide))
  rw [takeSample_eq, rd_sampleKept, rd_replaceFailed_other (fun i hi => h.ne_sensor hi) ht hk,
    rd_sampleShown_other h.1 h.2.1 (fun i hi => h.ne_sensor hi) ht (h.ne_of (by decide) (by decide))]

/-- The fields of a stack's register above its hottest die stay. -/
theorem rdf_takeSample_stack (s : State) (rs : List (Nat × Int)) (bad : List Nat) {k : Nat} (hk : k < 36) {f : Fld}
    (hf : THM_STACK_hottest_die.lo + THM_STACK_hottest_die.width ≤ f.lo) : rdf (takeSample s rs bad) (THM_STACK k) f = rdf s (THM_STACK k) f := by
  obtain ⟨hl, hu⟩ := stackReg_bounds hk
  have hi (i : Nat) : THM_STACK k ≠ THM_SENSOR i := (sensor_ne_of_lt (lt_trans hu (by decide)) i).symm
  have ht : THM_STACK k ≠ THM_STATUS := (lt_of_lt_of_le (by decide) hl).ne'
  have hc : THM_STACK k ≠ THM_COUNT := (lt_of_lt_of_le (by decide) hl).ne'
  have hr : rdf (replaceFailed (sampleShown s rs bad)) (THM_STACK k) f = rdf (sampleShown s rs bad) (THM_STACK k) f := by
    rw [replaceFailed]
    refine (foldl_keeps_of (fun u => rdf u (THM_STACK k) f) (fun j hm u => ?_) _).trans ?_
    · by_cases hj : THM_STACK k = THM_STACK j
      · rw [hj, rdf_wrf_field _ _ _ (by decide) (.inr hf)]
      · rw [rdf_of_rd (rd_wrf_other _ _ _ hj)]
    · rw [rdf_of_rd (rd_wrf_other _ _ _ ht), rdf_of_rd (rd_wrf_other _ _ _ ht), rdf_of_rd (rd_wrf_other _ _ _ ht)]
      exact foldl_keeps_of (fun u => rdf u (THM_STACK k) f) (fun i _ u => rdf_of_rd (rd_putSensor_other (hi i) u ..) f) _
  have hn : NotPba (THM_STACK k) := .inr (le_trans (by decide) hl)
  have hs : THM_STACK k ≠ ICU_SRC 13 := (lt_trans hu (by decide)).ne
  rw [takeSample_eq, rdf_of_rd (rd_sampleKept ..), hr, rdf_of_rd (rd_sampleShown_other hn hs (fun i _ => hi i) ht hc s rs bad)]

/-- The throttle and its cause stay over a sample. -/
theorem rdf_takeSample_status (s : State) (rs : List (Nat × Int)) (bad : List Nat) {f : Fld}
    (hf : THM_STATUS_sensor_failed.lo + THM_STATUS_sensor_failed.width ≤ f.lo) : rdf (takeSample s rs bad) THM_STATUS f = rdf s THM_STATUS f := by
  have hlow (g : Fld) (hg : g.lo + g.width ≤ THM_STATUS_sensor_failed.lo + THM_STATUS_sensor_failed.width) : f.lo + f.width ≤ g.lo ∨ g.lo + g.width ≤ f.lo :=
    .inr (le_trans hg hf)
  have hi (i : Nat) : THM_STATUS ≠ THM_SENSOR i := (sensor_ne_of_lt (by decide) i).symm
  have hfail (u : State) (i : Nat) : rdf (failSensor u i) THM_STATUS f = rdf u THM_STATUS f := by
    rw [failSensor]
    split_ifs
    · rfl
    · rw [raiseLevel, rdf_of_rd (rd_signalSource_if _ _ _ (.inr (by decide))), rdf_wrb_field _ _ _ (by decide) (hlow _ (le_refl _)),
        rdf_of_rd (rd_countSat_other _ _ _ (by decide)), rdf_of_rd (rd_count_other _ _ _ (by decide)), rdf_of_rd (rd_wrb_other _ _ _ (hi i))]
  have hput (u : State) (i : Nat) (a r : Int) : rdf (putSensor u i a r) THM_STATUS f = rdf u THM_STATUS f := rdf_of_rd (rd_putSensor_other (hi i) u a r) f
  rw [takeSample_eq, rdf_of_rd (rd_sampleKept ..), replaceFailed]
  refine (foldl_keeps_of (fun u => rdf u THM_STATUS f) (fun k hm u => ?_) _).trans ?_
  · exact rdf_of_rd (rd_wrf_other _ _ _ (lt_of_lt_of_le (by decide) (stackReg_bounds (mem_upto.1 hm)).1).ne) f
  · rw [rdf_wrf_field _ _ _ (by decide) (hlow _ (by decide)), rdf_wrf_field _ _ _ (by decide) (hlow _ (by decide)),
      rdf_wrf_field _ _ _ (by decide) (hlow _ (by decide))]
    refine (foldl_keeps (fun u => rdf u THM_STATUS f) (fun u i => hput u i _ _) _ _).trans ?_
    rw [sampleShown, foldl_keeps (fun u => rdf u THM_STATUS f) (fun u i => hput u i _ _), sampleJudged]
    refine foldl_keeps (fun u => rdf u THM_STATUS f) (fun u i => ?_) _ s
    split_ifs
    · exact hfail u i
    · rfl

/-! ### What a working sensor shows -/

theorem rdf_putSensor_self (s : State) (i : Nat) (a r : Int) : rdf (putSensor s i a r) (THM_SENSOR i) THM_SENSOR_temp = wrapN 16 a
    ∧ rdf (putSensor s i a r) (THM_SENSOR i) THM_SENSOR_rate = wrapN 16 r := by
  rw [putSensor]
  constructor
  · rw [rdf_wrf_field _ _ _ (by decide) (by decide), rdf_wrf_self _ _ _ (by decide)]
    exact wrapN_mod a
  · rw [rdf_wrf_self _ _ _ (by decide)]
    exact wrapN_mod r

/-- What a fold that puts readings into sensors leaves of one of them. -/
theorem rdf_foldl_putSensor (a r : Nat → Int) {xs : List Nat} {i : Nat} (hi : i ∈ xs) (s : State) :
    rdf (xs.foldl (fun u j => putSensor u j (a j) (r j)) s) (THM_SENSOR i) THM_SENSOR_temp = wrapN 16 (a i)
    ∧ rdf (xs.foldl (fun u j => putSensor u j (a j) (r j)) s) (THM_SENSOR i) THM_SENSOR_rate = wrapN 16 (r i) := by
  induction xs generalizing s with
  | nil => cases hi
  | cons x xs ih =>
    by_cases hm : i ∈ xs
    · exact ih hm _
    · obtain rfl : i = x := (List.mem_cons.1 hi).resolve_right hm
      have hk : rd (xs.foldl (fun u j => putSensor u j (a j) (r j)) (putSensor s i (a i) (r i))) (THM_SENSOR i)
          = rd (putSensor s i (a i) (r i)) (THM_SENSOR i) :=
        foldl_keeps_of (fun u => rd u (THM_SENSOR i))
          (fun j hj u => rd_putSensor_other (fun he => hm (by rwa [sensor_inj he])) u ..) _
      rw [List.foldl_cons, rdf_of_rd hk, rdf_of_rd hk]
      exact rdf_putSensor_self ..

theorem rd_replaceFailed_working {i : Nat} (hf : sensorFailed s i = false) :
    rd (replaceFailed s) (THM_SENSOR i) = rd s (THM_SENSOR i) := by
  rw [replaceFailed]
  refine (foldl_keeps_of (fun u => rd u (THM_SENSOR i)) (fun k hm u => rd_wrf_other _ _ _ ?_) _).trans ?_
  · exact sensor_ne_of_lt (lt_trans (stackReg_bounds (mem_upto.1 hm)).2 (by decide)) i
  · rw [rd_wrf_other _ _ _ (sensor_ne_of_lt (by decide) i), rd_wrf_other _ _ _ (sensor_ne_of_lt (by decide) i),
      rd_wrf_other _ _ _ (sensor_ne_of_lt (by decide) i)]
    refine foldl_keeps_of (fun u => rd u (THM_SENSOR i)) (fun j hm u => rd_putSensor_other (fun he => ?_) u ..) _
    obtain rfl := sensor_inj he
    exact absurd (List.mem_filter.1 hm).2 (by simp [hf])

/-- A sensor that works after a sample shows its reading and its rate. -/
theorem sample_shows (rs : List (Nat × Int)) (bad : List Nat) {i : Nat} (hi : i < numSensors) (hf : sensorFailed (sampleJudged s rs bad) i = false) :
    sensorTemp (takeSample s rs bad) i = sextN 16 (wrapN 16 (smGet 0 (sampleRaw s rs) i))
    ∧ sensorRate (takeSample s rs bad) i = sextN 16 (wrapN 16 (sampleRate s rs i)) := by
  have hm : i ∈ (upto numSensors).filter (fun i => !sensorFailed (sampleJudged s rs bad) i) :=
    List.mem_filter.2 ⟨mem_upto.2 hi, by simp [hf]⟩
  have hw : sensorFailed (sampleShown s rs bad) i = false := by
    rw [sampleShown, foldl_keeps (fun u => sensorFailed u i) (fun u i => sensorFailed_putSensor ..), hf]
  obtain ⟨ht, hr⟩ := rdf_foldl_putSensor (fun i => smGet 0 (sampleRaw s rs) i) (sampleRate s rs) hm (sampleJudged s rs bad)
  rw [← sampleShown] at ht hr
  have hk : rd (takeSample s rs bad) (THM_SENSOR i) = rd (sampleShown s rs bad) (THM_SENSOR i) := by
    rw [takeSample_eq, rd_sampleKept, rd_replaceFailed_working hw]
  rw [sensorTemp, sensorRate, rdf_of_rd hk, rdf_of_rd hk, ht, hr]
  exact ⟨rfl, rfl⟩

theorem sampleBad_of (rs : List (Nat × Int)) (bad : List Nat) {i : Nat} {r : Int} (hn : (rs.map (·.1)).Nodup) (hm : (i, r) ∈ rs)
    (h : i ∈ bad ∨ r < degC (-40) ∨ degC 150 < r) : sampleBad s rs bad i = true := by
  rw [sampleBad, sampleRaw, smGet_sampleRaw_foldl rs _ hn hm]
  unfold badSample
  obtain h | h | h := h <;> simp [h]

theorem sampleBad_good {rs : List (Nat × Int)} {bad : List Nat} {i : Nat} {r : Int} (hn : (rs.map (·.1)).Nodup) (hm : (i, r) ∈ rs)
    (hb : i ∉ bad) (hl : degC (-40) ≤ r) (hu : r ≤ degC 150)
    (hp : ∀ p, s.thermal.hist.head? = some p → smGet 0 p i - r ≤ degC 2 ∧ r - smGet 0 p i ≤ degC 2) : sampleBad s rs bad i = false := by
  rw [sampleBad, sampleRaw, smGet_sampleRaw_foldl rs _ hn hm]
  unfold badSample
  cases hh : s.thermal.hist.head? with
  | none => simp [hb, hl, hu]
  | some p =>
    obtain ⟨h1, h2⟩ := hp p hh
    simp [hb, hl, hu, h1, h2]

/-- A good reading is taken, with its rate of change. -/
theorem sample_good (rs : List (Nat × Int)) (bad : List Nat) {i : Nat} {r : Int} (hn : (rs.map (·.1)).Nodup) (hm : (i, r) ∈ rs)
    (hi : i < numSensors) (hf : sensorFailed s i = false) (hb : i ∉ bad) (hl : degC (-40) ≤ r) (hu : r ≤ degC 150)
    (hp : ∀ p, s.thermal.hist.head? = some p → smGet 0 p i - r ≤ degC 2 ∧ r - smGet 0 p i ≤ degC 2) :
    sensorFailed (takeSample s rs bad) i = false ∧ sensorTemp (takeSample s rs bad) i = r
      ∧ ∀ o, 10 ≤ s.thermal.hist.length → s.thermal.hist.getLast? = some o →
        sensorRate (takeSample s rs bad) i ≡ r - smGet 0 o i [ZMOD 2 ^ 16] := by
  have hg := sampleBad_good hn hm hb hl hu hp
  have hj : sensorFailed (sampleJudged s rs bad) i = false := by rw [sensorFailed_judged s rs bad hi, hf, hg, Bool.or_false]
  have hraw : smGet 0 (sampleRaw s rs) i = r := smGet_sampleRaw_foldl rs _ hn hm
  obtain ⟨ht, hr⟩ := sample_shows rs bad hi hj
  simp only [degC] at hl hu
  refine ⟨by rw [sensorFailed_takeSample s rs bad hi, hf, hg, Bool.or_false], ?_, fun o hlen ho => ?_⟩
  · rw [ht, hraw, sextN_wrapN (by omega) (by omega)]
  · have hrate : sampleRate s rs i = r - smGet 0 o i := by rw [sampleRate, if_pos hlen, ho, hraw]
    rw [hr, hrate]
    exact sextN_wrapN_modEq _

/-! ### The rest of the state over a sample -/

theorem sampleJudged_aside (s : State) (rs : List (Nat × Int)) (bad : List Nat) : aside (sampleJudged s rs bad) = aside s := by
  refine aside_foldl _ (fun s i => ?_) _ s
  split_ifs
  · exact failSensor_aside s i
  · rfl

theorem putSensor_aside (s : State) (i : Nat) (a r : Int) : aside (putSensor s i a r) = aside s := by rw [putSensor, wrf_aside, wrf_aside]

theorem replaceFailed_aside (s : State) : aside (replaceFailed s) = aside s := by
  rw [replaceFailed, aside_foldl _ (fun s k => wrf_aside ..), wrf_aside, wrf_aside, wrf_aside, aside_foldl _ (fun s i => putSensor_aside ..)]

theorem sampleTaken_aside (s : State) (rs : List (Nat × Int)) (bad : List Nat) : aside (replaceFailed (sampleShown s rs bad)) = aside s := by
  rw [replaceFailed_aside, sampleShown, aside_foldl _ (fun s i => putSensor_aside ..), sampleJudged_aside]

theorem sampleKept_boot (u : State) (h : List (SMap Int)) : (sampleKept u h).boot = u.boot := rfl
theorem sampleKept_pow (u : State) (h : List (SMap Int)) : (sampleKept u h).pow = u.pow := rfl

theorem pow_of_aside (h : aside t = aside s) : t.pow = s.pow := (congrArg State.pow h : (aside t).pow = _)

theorem takeSample_boot (s : State) (rs : List (Nat × Int)) (bad : List Nat) : (takeSample s rs bad).boot = s.boot := by
  rw [takeSample_eq, sampleKept_boot, boot_of_aside (sampleTaken_aside s rs bad)]

theorem takeSample_pow (s : State) (rs : List (Nat × Int)) (bad : List Nat) : (takeSample s rs bad).pow = s.pow := by
  rw [takeSample_eq, sampleKept_pow, pow_of_aside (sampleTaken_aside s rs bad)]

end Sys2Proof.Machine
end

section
/-! PROOFS. What a sample decides (R518 to R523): bands, throttle, shutdown and restart. -/

namespace Sys2Proof.Machine
open Sys2Proof.Laws

variable {s t u : State}

/-! ### The throttle (R520) -/

/-- The throttle is noted. -/
def throttleNoted (s : State) (cause : Nat) : State :=
  wrf (raiseLevel (count (wrb s THM_STATUS THM_STATUS_throttle true) THM_COUNT THM_COUNT_throttles) 14 THM_STATUS THM_STATUS_throttled)
    THM_STATUS THM_STATUS_throttle_cause cause

theorem throttle_begins (h : rdb s THM_STATUS THM_STATUS_throttle = false) (cause : Nat) :
    throttle s cause = lowestState (throttleNoted s cause) := by
  simp only [throttle, throttleNoted, h, Bool.false_eq_true, if_false]

theorem throttle_again (h : rdb s THM_STATUS THM_STATUS_throttle = true) (cause : Nat) : throttle s cause = lowestState s := by
  simp only [throttle, h, if_true]

theorem rd_throttleNoted_other (ht : o ≠ THM_STATUS) (hc : o ≠ THM_COUNT) (h : NotPba o) (hs : o ≠ ICU_SRC 14) (cause : Nat) :
    rd (throttleNoted s cause) o = rd s o := by
  rw [throttleNoted, rd_wrf_other _ _ _ ht, rd_raiseLevel_other _ _ h hs ht, rd_count_other _ _ _ hc, rd_wrb_other _ _ _ ht]

/-- A register that neither a throttle nor the lowest state writes. -/
def OffThrottle (o : Nat) : Prop := NotPba o ∧ o ≠ THM_STATUS ∧ o ≠ THM_COUNT ∧ o ≠ ICU_SRC 14 ∧ o ∉ lowestRegs

theorem rd_lowestState_off (h : o ∉ lowestRegs) (s : State) : rd (lowestState s) o = rd s o := (onlyRegs_lowestState s).2 o h

theorem rd_throttle_other (h : OffThrottle o) (cause : Nat) : rd (throttle s cause) o = rd s o := by
  obtain ⟨hp, ht, hc, hs, hl⟩ := h
  by_cases hb : rdb s THM_STATUS THM_STATUS_throttle = true
  · rw [throttle_again hb, rd_lowestState_off hl]
  · rw [throttle_begins (eq_false_of_ne_true hb), rd_lowestState_off hl, rd_throttleNoted_other ht hc hp hs]

theorem thmStatus_not_lowest : THM_STATUS ∉ lowestRegs :=
  not_mem_lowestRegs.2 ⟨by decide, fun _ hc => ne_clStatus_of_not_mem (.inr (by decide)) hc⟩

theorem thmCount_not_lowest : THM_COUNT ∉ lowestRegs :=
  not_mem_lowestRegs.2 ⟨by decide, fun _ hc => ne_clStatus_of_not_mem (.inr (by decide)) hc⟩

theorem rd_raiseLevel_status (s : State) (n : Nat) (f : Fld) (hn : THM_STATUS ≠ ICU_SRC n) : rd (raiseLevel s n THM_STATUS f) THM_STATUS
    = setb (rd s THM_STATUS) f true := by
  rw [raiseLevel, rd_signalSource_if _ _ _ (.inr (by decide)), rd_wrb_self, rd_countSat_other _ _ _ hn]

/-- A throttle is in force, in the lowest state. -/
theorem throttle_holds (s : State) (cause : Nat) : rdb (throttle s cause) THM_STATUS THM_STATUS_throttle = true
    ∧ rdb (throttle s cause) PWR_STATUS PWR_STATUS_lowest_state = true := by
  by_cases hb : rdb s THM_STATUS THM_STATUS_throttle = true
  · rw [throttle_again hb, rdb_lowestState, rdb_of_rd (rd_lowestState_off thmStatus_not_lowest s), hb]
    exact ⟨rfl, rfl⟩
  · rw [throttle_begins (eq_false_of_ne_true hb), rdb_lowestState, rdb_of_rd (rd_lowestState_off thmStatus_not_lowest _), throttleNoted,
      rdb_wrf_field _ _ _ (by decide) (by decide), rdb, rd_raiseLevel_status _ _ _ (by decide),
      getb_setb_other _ _ _ _ (by decide) (by decide), rd_count_other _ _ _ (by decide), rd_wrb_self, getb_setb_self _ _ _ (by decide) rfl]
    exact ⟨rfl, rfl⟩

theorem throttle_cause (h : rdb s THM_STATUS THM_STATUS_throttle = false) {cause : Nat} (hc : cause < 2 ^ 3) :
    rdf (throttle s cause) THM_STATUS THM_STATUS_throttle_cause = cause := by
  rw [throttle_begins h, rdf_of_rd (rd_lowestState_off thmStatus_not_lowest _), throttleNoted, rdf_wrf_self _ _ _ (by decide)]
  exact Nat.mod_eq_of_lt hc

theorem throttle_count (h : rdb s THM_STATUS THM_STATUS_throttle = false) (cause : Nat) :
    rd (throttle s cause) THM_COUNT = addf (rd s THM_COUNT) THM_COUNT_throttles 1 := by
  rw [throttle_begins h, rd_lowestState_off thmCount_not_lowest, throttleNoted, rd_wrf_other _ _ _ (by decide),
    rd_raiseLevel_other _ _ (.inr (by decide)) (by decide) (by decide), rd_count_self, rd_wrb_other _ _ _ (by decide)]

theorem throttle_aside (s : State) (cause : Nat) : aside (throttle s cause) = aside s := by
  have hl (u : State) : aside (lowestState u) = aside u := by
    rw [lowestState, aside_foldl _ (fun s c => wrf_aside ..), wrb_aside]
  by_cases hb : rdb s THM_STATUS THM_STATUS_throttle = true
  · rw [throttle_again hb, hl]
  · rw [throttle_begins (eq_false_of_ne_true hb), hl, throttleNoted, wrf_aside, raiseLevel_aside, count_aside, wrb_aside]

/-! ### Bands (R518, R519) -/

theorem onlyRegs_bandApply (s : State) (k : Nat) : OnlyRegs s (bandApply s k) [THM_STACK k, THM_COUNT] := by
  rw [bandApply]
  split_ifs
  · exact (OnlyRegs.refl s).mono (List.nil_subset _)
  · exact ((onlyRegs_wrf ..).mono (by simp)).trans ((onlyRegs_count ..).mono (by simp))

/-- The band that a sample decides for a stack. -/
def bandDecided (s : State) (k : Nat) : Nat :=
  if rdf s (THM_STACK k) THM_STACK_band < rdf s (THM_STACK k) THM_STACK_pending then
    max (rdf s (THM_STACK k) THM_STACK_pending) (bandWanted (rdf s (THM_STACK k) THM_STACK_band) (hottestDie s k))
  else bandWanted (rdf s (THM_STACK k) THM_STACK_band) (hottestDie s k)

theorem bandSample_eq (s : State) (k : Nat) : bandSample s k
    = if milestonesRun s then wrf s (THM_STACK k) THM_STACK_pending (bandDecided s k)
      else bandApply (wrf s (THM_STACK k) THM_STACK_pending (bandDecided s k)) k := by
  simp only [bandSample, bandDecided]

theorem bandOf_le (r : Int) : bandOf r ≤ 3 := by
  rw [bandOf]
  split_ifs <;> decide

theorem bandDecided_lt (s : State) (k : Nat) : bandDecided s k < 2 ^ 2 := by
  have hb : rdf s (THM_STACK k) THM_STACK_band < 2 ^ 2 := Nat.mod_lt _ (by decide)
  have hp : rdf s (THM_STACK k) THM_STACK_pending < 2 ^ 2 := Nat.mod_lt _ (by decide)
  have hw : bandWanted (rdf s (THM_STACK k) THM_STACK_band) (hottestDie s k) < 2 ^ 2 := by
    rw [bandWanted]
    have h := Nat.lt_succ_of_le (bandOf_le (hottestDie s k))
    split_ifs
    · exact h
    · exact h
    · exact hb
  rw [bandDecided]
  split_ifs
  · exact max_lt hp hw
  · exact hw

theorem onlyRegs_bandSample (s : State) (k : Nat) : OnlyRegs s (bandSample s k) [THM_STACK k, THM_COUNT] := by
  have h : OnlyRegs s (wrf s (THM_STACK k) THM_STACK_pending (bandDecided s k)) [THM_STACK k, THM_COUNT] := (onlyRegs_wrf ..).mono (by simp)
  rw [bandSample_eq]
  split_ifs
  · exact h
  · exact h.trans (onlyRegs_bandApply ..)

theorem stackReg_ne_count (k : Nat) : THM_STACK k ≠ THM_COUNT := (lt_of_lt_of_le (by decide) (Nat.le_add_right 0x500200 (k * 8))).ne'

/-- A band that takes effect. -/
theorem bandApply_leaves (s : State) (k : Nat) : rdf (bandApply s k) (THM_STACK k) THM_STACK_pending = rdf s (THM_STACK k) THM_STACK_pending
    ∧ rdf (bandApply s k) (THM_STACK k) THM_STACK_band = rdf s (THM_STACK k) THM_STACK_pending := by
  rw [bandApply]
  split
  · next h => exact ⟨rfl, h.symm⟩
  · rw [rdf_of_rd (rd_count_other _ _ _ (stackReg_ne_count k)), rdf_of_rd (rd_count_other _ _ _ (stackReg_ne_count k)),
      rdf_wrf_field _ _ _ (by decide) (by decide), rdf_wrf_self _ _ _ (by decide)]
    exact ⟨rfl, Nat.mod_eq_of_lt (Nat.mod_lt _ (by decide))⟩

/-- One stack's decision: its pending band, and its band where milestones do not run. -/
theorem bandSample_leaves (s : State) (k : Nat) : rdf (bandSample s k) (THM_STACK k) THM_STACK_pending = bandDecided s k
    ∧ rdf (bandSample s k) (THM_STACK k) THM_STACK_band
      = if milestonesRun s then rdf s (THM_STACK k) THM_STACK_band else bandDecided s k := by
  have hp : rdf (wrf s (THM_STACK k) THM_STACK_pending (bandDecided s k)) (THM_STACK k) THM_STACK_pending = bandDecided s k := by
    rw [rdf_wrf_self _ _ _ (by decide)]
    exact Nat.mod_eq_of_lt (bandDecided_lt s k)
  rw [bandSample_eq]
  split_ifs
  · exact ⟨hp, rdf_wrf_field _ _ _ (by decide) (by decide)⟩
  · obtain ⟨h1, h2⟩ := bandApply_leaves (wrf s (THM_STACK k) THM_STACK_pending (bandDecided s k)) k
    exact ⟨h1.trans hp, h2.trans hp⟩

theorem stackReg_inj {j k : Nat} (h : THM_STACK j = THM_STACK k) : j = k := by
  simp only [THM_STACK] at h
  omega

theorem milestonesRun_of_onlyRegs {as : List Nat} (h : OnlyRegs s t as) (hb : PWR_BOOT ∉ as) (hc : MST_CTRL ∉ as) (hs : MST_STAGE ∉ as)
    (hk : HST_KEEP_STATUS ∉ as) : milestonesRun t = milestonesRun s := by
  rw [milestonesRun, milestonesRun, deviceReady, deviceReady, bootState, bootState, stageNow, stageNow, keepState, keepState, h.pow,
    rdf_of_rd (h.2 _ hb), rdb_of_rd (h.2 _ hc), rdf_of_rd (h.2 _ hs), rdf_of_rd (h.2 _ hk)]

/-- The registers of some stacks, and the counter of bands. -/
def bandRegs (ks : List Nat) : List Nat := THM_COUNT :: ks.map THM_STACK

theorem not_mem_bandRegs {ks : List Nat} (h : o ≠ THM_COUNT) (hk : ∀ k ∈ ks, o ≠ THM_STACK k) : o ∉ bandRegs ks := by
  simp only [bandRegs, List.mem_cons, List.mem_map, not_or, not_exists, not_and]
  exact ⟨h, fun k hm he => hk k hm he.symm⟩

theorem onlyRegs_bandSamples (ks : List Nat) (s : State) : OnlyRegs s (ks.foldl bandSample s) (bandRegs ks) :=
  OnlyRegs.foldl (fun k hk s => (onlyRegs_bandSample s k).mono (by
    intro o ho
    obtain rfl | rfl : o = THM_STACK k ∨ o = THM_COUNT := by simpa using ho
    · exact List.mem_cons_of_mem _ (List.mem_map_of_mem hk)
    · exact List.mem_cons_self)) s

/-- A register of the other blocks stays over the bands. -/
theorem ne_of_below {o : Nat} (h : o < 0x500000 ∨ 0x510000 ≤ o) {ks : List Nat} (hk : ∀ k ∈ ks, k < 36) : o ∉ bandRegs ks := by
  refine not_mem_bandRegs ?_ (fun k hm => ?_)
  · obtain h | h := h
    · exact (lt_of_lt_of_le h (by decide)).ne
    · exact (lt_of_lt_of_le (by decide) h).ne'
  · obtain ⟨hl, hu⟩ := stackReg_bounds (hk k hm)
    obtain h | h := h
    · exact (lt_of_lt_of_le h (le_trans (by decide) hl)).ne
    · exact (lt_of_lt_of_le (lt_trans hu (by decide)) h).ne'

/-- Every stack's decision rests on the readings and bands before the first of them. -/
theorem bandSamples_leave (s : State) {k : Nat} (hk : k < 36) :
    rdf ((upto 36).foldl bandSample s) (THM_STACK k) THM_STACK_pending = bandDecided s k
    ∧ rdf ((upto 36).foldl bandSample s) (THM_STACK k) THM_STACK_band
      = if milestonesRun s then rdf s (THM_STACK k) THM_STACK_band else bandDecided s k := by
  obtain ⟨as, bs, he⟩ := List.append_of_mem (mem_upto.2 hk)
  have hn : (as ++ k :: bs).Nodup := he ▸ List.nodup_range
  have hlt : ∀ j ∈ as ++ k :: bs, j < 36 := fun j hj => mem_upto.1 (he ▸ hj)
  have ha : k ∉ as := fun h => (List.nodup_append.1 hn).2.2 k h k List.mem_cons_self rfl
  have hb : k ∉ bs := (List.nodup_cons.1 (List.nodup_append.1 hn).2.1).1
  have h1 := onlyRegs_bandSamples as s
  have h2 := onlyRegs_bandSamples bs (bandSample (as.foldl bandSample s) k)
  have hna : THM_STACK k ∉ bandRegs as := not_mem_bandRegs (stackReg_ne_count k) (fun j hj he => ha (stackReg_inj he ▸ hj))
  have hnb : THM_STACK k ∉ bandRegs bs := not_mem_bandRegs (stackReg_ne_count k) (fun j hj he => hb (stackReg_inj he ▸ hj))
  have hlow (o : Nat) (ho : o < 0x500000 ∨ 0x510000 ≤ o) : o ∉ bandRegs as := ne_of_below ho (fun j hj => hlt j (List.mem_append_left _ hj))
  have hm : milestonesRun (as.foldl bandSample s) = milestonesRun s :=
    milestonesRun_of_onlyRegs h1 (hlow _ (.inl (by decide))) (hlow _ (.inl (by decide))) (hlow _ (.inl (by decide))) (hlow _ (.inl (by decide)))
  have hd : hottestDie (as.foldl bandSample s) k = hottestDie s k := by
    rw [hottestDie, hottestDie]
    simp only [sensorTemp, rdf_of_rd (h1.2 (THM_SENSOR _) (hlow _ (.inr (Nat.le_add_right 0x510000 _))))]
  have hband : bandDecided (as.foldl bandSample s) k = bandDecided s k := by
    rw [bandDecided, bandDecided, hd, rdf_of_rd (h1.2 _ hna), rdf_of_rd (h1.2 _ hna)]
  obtain ⟨hp, hq⟩ := bandSample_leaves (as.foldl bandSample s) k
  rw [he, List.foldl_append, List.foldl_cons, rdf_of_rd (h2.2 _ hnb), rdf_of_rd (h2.2 _ hnb), hp, hq, hm, hband, rdf_of_rd (h1.2 _ hna)]
  exact ⟨rfl, rfl⟩

/-! ### A thermal shutdown (R522, Table 16-4) -/

/-- The record of a trip. -/
def tripRecord (s : State) (cause i : Nat) : Nat :=
  putf THM_LAST_TRIP_shutdowns (min (getf s.boot.tripNv THM_LAST_TRIP_shutdowns + 1) 0xFFFF) + putf THM_LAST_TRIP_cause cause
    + putf THM_LAST_TRIP_sensor i + putf THM_LAST_TRIP_temp (wrapN 16 (sensorTemp s i)) + putf THM_LAST_TRIP_rate (wrapN 16 (sensorRate s i))

/-- The device with its rails off and its trip recorded. -/
def tripped (s : State) (cause i : Nat) : State :=
  wr (railsOff (lowestState (emit s (.pin 1 false)))) THM_LAST_TRIP (BitVec.ofNat 64 (tripRecord s cause i))

/-- The registers of a device that has shut down. -/
def shutRegs (s : State) (cause i : Nat) : State :=
  wr (wrf (wrf (wrf (tripped s cause i) PWR_BOOT PWR_BOOT_state 3) PWR_BOOT PWR_BOOT_wait_s 0xFFFF) MON_STATUS MON_STATUS_baud 115200)
    HST_KEEP_STATUS 0

/-- Whether a register shows the state of a port. -/
def portStatusReg (o : Nat) : Bool := (upto 36).any (fun p => o == CWY_PORT_STATUS p)

/-- The fabric of a device without power. -/
def unlinked (s : State) : State := { clearIf s portStatusReg with fab := {} }

theorem shutdown_eq (s : State) (cause i : Nat) : shutdown s cause i
    = emit (modBoot (unlinked (shutRegs s cause i)) (fun b => { b with
        step := 0, trip := true, cooling := false, rb := 0, tripNv := BitVec.ofNat 64 (tripRecord s cause i) }))
      (.uart (.thermal cause i (sensorTemp s i))) := rfl

theorem rd_unlinked (h : portStatusReg o = false) (s : State) : rd (unlinked s) o = rd s o := by
  have hc : rd (unlinked s) o = rd (clearIf s portStatusReg) o := rfl
  rw [hc, rd_clearIf, if_neg (by simp [h])]

theorem rd_shutdown (h : portStatusReg o = false) (s : State) (cause i : Nat) : rd (shutdown s cause i) o = rd (shutRegs s cause i) o := by
  rw [shutdown_eq, rd_emit, rd_modBoot, rd_unlinked h]

theorem onlyRegs_shutRegs (s : State) (cause i : Nat) :
    OnlyRegs (railsOff (lowestState (emit s (.pin 1 false)))) (shutRegs s cause i) [THM_LAST_TRIP, PWR_BOOT, MON_STATUS, HST_KEEP_STATUS] := by
  rw [shutRegs, tripped]
  refine OnlyRegs.trans ?_ ((onlyRegs_wr ..).mono (by simp))
  refine OnlyRegs.trans ?_ ((onlyRegs_wrf ..).mono (by simp))
  refine OnlyRegs.trans ?_ ((onlyRegs_wrf ..).mono (by simp))
  exact ((onlyRegs_wr ..).mono (by simp)).trans ((onlyRegs_wrf ..).mono (by simp))

theorem railsOff_clears (s : State) : (railsOff s).cores = [] ∧ (railsOff s).engines = [] ∧ (railsOff s).mem.cells = [] ∧ (railsOff s).out = s.out :=
  ⟨rfl, rfl, rfl, rfl⟩

theorem unlinked_keeps (s : State) : (unlinked s).cores = s.cores ∧ (unlinked s).engines = s.engines ∧ (unlinked s).mem = s.mem ∧ (unlinked s).out = s.out :=
  ⟨rfl, rfl, rfl, rfl⟩

theorem getf_tripRecord (s : State) (cause i : Nat) : getf (BitVec.ofNat 64 (tripRecord s cause i)) THM_LAST_TRIP_shutdowns
    = min (getf s.boot.tripNv THM_LAST_TRIP_shutdowns + 1) 0xFFFF := by
  rw [tripRecord, getf, BitVec.toNat_ofNat]
  generalize getf s.boot.tripNv THM_LAST_TRIP_shutdowns = n
  simp only [putf, THM_LAST_TRIP_shutdowns, THM_LAST_TRIP_cause, THM_LAST_TRIP_sensor, THM_LAST_TRIP_temp, THM_LAST_TRIP_rate]
  omega

theorem shutdown_leaves (s : State) (cause i : Nat) : let t := shutdown s cause i
    t.boot.trip = true ∧ t.boot.step = 0 ∧ t.cores = [] ∧ t.engines = [] ∧ t.mem.cells = [] ∧ rdf t PWR_BOOT PWR_BOOT_state = 3
      ∧ .pin 1 false ∈ t.out ∧ rdb t PWR_STATUS PWR_STATUS_lowest_state = true ∧ keepState t = 0 ∧ t.boot.tripNv = rd t THM_LAST_TRIP
      ∧ rdf t THM_LAST_TRIP THM_LAST_TRIP_shutdowns = min (getf s.boot.tripNv THM_LAST_TRIP_shutdowns + 1) 0xFFFF := by
  have hr := onlyRegs_shutRegs s cause i
  obtain ⟨hc, he, hm, ho⟩ := railsOff_clears (lowestState (emit s (.pin 1 false)))
  obtain ⟨uc, ue, um, uo⟩ := unlinked_keeps (shutRegs s cause i)
  have htrip : rd (shutdown s cause i) THM_LAST_TRIP = BitVec.ofNat 64 (tripRecord s cause i) := by
    rw [rd_shutdown (by decide), shutRegs, rd_wr_other _ _ _ _ (by decide), rd_wrf_other _ _ _ (by decide), rd_wrf_other _ _ _ (by decide),
      rd_wrf_other _ _ _ (by decide), tripped, rd_wr_self]
  have hboot : (shutdown s cause i).boot = { (unlinked (shutRegs s cause i)).boot with
      step := 0, trip := true, cooling := false, rb := 0, tripNv := BitVec.ofNat 64 (tripRecord s cause i) } := by
    rw [shutdown_eq, emit_boot, modBoot_boot]
  refine ⟨by rw [hboot], by rw [hboot], ?_, ?_, ?_, ?_, ?_, ?_, ?_, by rw [hboot, htrip], ?_⟩
  · rw [shutdown_eq, emit_cores, modBoot_cores, uc, hr.cores, hc]
  · rw [shutdown_eq, emit_engines, modBoot_engines, ue, hr.eq, he]
  · rw [shutdown_eq, emit_mem, modBoot_mem, um, hr.mem, hm]
  · rw [rdf_of_rd (rd_shutdown (by decide) s cause i), shutRegs, rdf_of_rd (rd_wr_other _ _ _ _ (by decide)),
      rdf_of_rd (rd_wrf_other _ _ _ (by decide)), rdf_wrf_field _ _ _ (by decide) (by decide), rdf_wrf_self _ _ _ (by decide)]
    rfl
  · rw [shutdown_eq, emit, modBoot_out, uo, hr.out, ho, (onlyRegs_lowestState _).out, emit]
    simp
  · rw [rdb_of_rd (rd_shutdown (by decide) s cause i), rdb_of_rd (hr.2 _ (by decide)), rdb_of_rd (rd_railsOff _ _), rdb_lowestState]
  · rw [keepState, rdf_of_rd (rd_shutdown (by decide) s cause i), shutRegs, rdf, rd_wr_self]
    decide
  · rw [rdf, htrip, getf_tripRecord]

/-! ### While shut down, and the restart (R523, R524) -/

theorem coolEnough_iff (s : State) : coolEnough s = true ↔ ∀ i, i < numSensors → sensorTemp s i < restartBelow (sensorClass i) := by
  simp only [coolEnough, List.all_eq_true, mem_upto, decide_eq_true_eq]

theorem coolingSample_warm (h : coolEnough s = false) :
    coolingSample s = modBoot (wrf s PWR_BOOT PWR_BOOT_wait_s 0xFFFF) (fun b => { b with cooling := false }) :=
  if_neg (by rw [← coolEnough, h]; exact Bool.false_ne_true)

theorem coolingSample_cool (h : coolEnough s = true) : coolingSample s = if s.boot.cooling then s
    else modBoot (wrf s PWR_BOOT PWR_BOOT_wait_s 60) (fun b => { b with cooling := true, until_ := wallNow s + 60 * 10 ^ 9 }) := if_pos h

theorem coolingSample_leaves (s : State) : (coolingSample s).boot.cooling = coolEnough s
    ∧ ((coolingSample s).boot.cooling = false → rdf (coolingSample s) PWR_BOOT PWR_BOOT_wait_s = 0xFFFF)
    ∧ (s.boot.cooling = false → (coolingSample s).boot.cooling = true → rdf (coolingSample s) PWR_BOOT PWR_BOOT_wait_s = 60) := by
  have hw (v : Nat) (f : Boot → Boot) (hv : v < 2 ^ 16) : rdf (modBoot (wrf s PWR_BOOT PWR_BOOT_wait_s v) f) PWR_BOOT PWR_BOOT_wait_s = v := by
    rw [rdf, rd_modBoot, ← rdf, rdf_wrf_self _ _ _ (by decide)]
    exact Nat.mod_eq_of_lt hv
  cases hc : coolEnough s with
  | false =>
    rw [coolingSample_warm hc]
    exact ⟨rfl, fun _ => hw _ _ (by decide), fun _ h => absurd h Bool.false_ne_true⟩
  | true =>
    rw [coolingSample_cool hc]
    cases hb : s.boot.cooling with
    | true =>
      rw [if_pos rfl, hb]
      exact ⟨rfl, fun h => absurd h.symm Bool.false_ne_true, fun h => absurd h.symm Bool.false_ne_true⟩
    | false =>
      rw [if_neg Bool.false_ne_true]
      exact ⟨rfl, fun h => absurd h.symm Bool.false_ne_true, fun _ _ => hw _ _ (by decide)⟩

theorem exec_restartCountExpiry_idle (h : rdf s PWR_BOOT PWR_BOOT_state ≠ 3 ∨ s.boot.cooling = false) :
    exec .restartCountExpiry s = .next s := by
  refine congrArg Host.Outcome.next (if_neg ?_)
  rintro ⟨h3, hc⟩
  obtain h | h := h
  · exact h h3
  · exact absurd (h.symm.trans hc) (by decide)

/-- The device when its restart is due. -/
def restartDue (s : State) : State :=
  modBoot (emit (advanceTo s (now s + waitLeft s)) (.pin 1 true)) (fun b => { b with trip := false, cooling := false })

theorem exec_restartCountExpiry_due (h : rdf s PWR_BOOT PWR_BOOT_state = 3) (hc : s.boot.cooling = true) :
    exec .restartCountExpiry s = .next (beginAttempt (deviceReset (restartDue s))) := congrArg Host.Outcome.next (if_pos ⟨h, hc⟩)

theorem restartDue_boot (s : State) : (restartDue s).boot = { s.boot with trip := false, cooling := false } := by
  rw [restartDue, modBoot_boot, emit_boot, advanceTo, wr_boot]

theorem now_restartDue (h : now s + waitLeft s < 2 ^ 64) : now (restartDue s) = now s + waitLeft s := by
  rw [now, restartDue, rd_modBoot, rd_emit, ← now, now_advanceTo, Nat.max_eq_right (Nat.le_add_right ..), Nat.mod_eq_of_lt h]

theorem wallNow_restartDue (h : now s + waitLeft s < 2 ^ 64) : wallNow (restartDue s) = max (wallNow s) s.boot.until_ := by
  rw [wallNow, now_restartDue h, restartDue_boot, waitLeft, wallNow]
  dsimp only
  omega

theorem restart_begins (h : rdf s PWR_BOOT PWR_BOOT_state = 3) (hc : s.boot.cooling = true) (hp : s.boot.pg = true) (hl : s.boot.rstLow = false)
    (ho : now s + waitLeft s < 2 ^ 64) (hb : ∀ b, s.boot.began = some b → b + 60 * 10 ^ 9 < max (wallNow s) s.boot.until_) :
    ∃ t, exec .restartCountExpiry s = .next t ∧ deviceCleared s t ∧ attemptBegins s t 1 ∧ t.boot.trip = false
      ∧ t.out = s.out ++ [.pin 1 true] := by
  have hboot := restartDue_boot s
  have hd : (deviceReset (restartDue s)).boot = (clearedBase (restartDue s)).boot := deviceReset_boot _
  have hw : wallNow (deviceReset (restartDue s)) = max (wallNow s) s.boot.until_ := by rw [wallNow_deviceReset, wallNow_restartDue ho]
  have hn : beginAttempt (deviceReset (restartDue s)) = attemptNow (deviceReset (restartDue s)) 1 := by
    refine beginAttempt_now ?_ ?_ ?_
    · rw [hd, clearedBase, hboot, hp]
    · rw [hd, clearedBase, hboot, hl]
    · rw [hw, hd, clearedBase, hboot]
      exact hb
  have hmem : (restartDue s).mem = s.mem := by rw [restartDue, modBoot_mem, emit_mem, advanceTo, wr_mem]
  have hrep : (restartDue s).rep = s.rep := by rw [restartDue, modBoot_rep, emit_rep, advanceTo, wr_rep]
  have hclear : deviceCleared s (deviceReset (restartDue s)) :=
    deviceCleared_of_same (deviceCleared_deviceReset _) (by rw [hboot]) hmem hrep
  refine ⟨_, exec_restartCountExpiry_due h hc, ?_⟩
  rw [hn]
  refine ⟨hclear.onlyBoot (onlyBoot_attemptNow ..), attemptBegins_attemptNow ?_ 1, ?_, ?_⟩
  · rw [hd, clearedBase, hboot]
  · rw [attemptNow_boot, hd, clearedBase, hboot]
  · rw [(onlyBoot_attemptNow ..).1, deviceReset_out, restartDue, modBoot_out, emit, advanceTo, wr_out]

end Sys2Proof.Machine
end

section
/-! PROOFS. The temperature events (chapter 16), put together. -/

namespace Sys2Proof.Machine
open Sys2Proof.Laws

variable {s t u : State}

/-! ### A sample is judged -/

theorem exec_thermalSample_off (h : s.boot.sampled = false) (rs : List (Nat × Int)) (bad : List Nat) :
    exec (.thermalSample rs bad) s = .next s := congrArg Host.Outcome.next (if_pos (by simp [h]))

theorem exec_thermalSample_shut (h : s.boot.sampled = true) (h3 : bootState s = 3) (rs : List (Nat × Int)) (bad : List Nat) :
    exec (.thermalSample rs bad) s = .next (coolingSample (takeSample s rs bad)) := by
  change execThermalSample rs bad s = _
  rw [execThermalSample, if_neg (by simp [h])]
  generalize takeSample s rs bad = u
  rw [if_pos h3]

/-- Some sensor trips the device. -/
def Trips (u : State) : Prop := ∃ i, i < numSensors ∧ (degC 5 ≤ sensorRate u i ∨ shutdownCeiling (sensorClass i) ≤ sensorTemp u i)

theorem exec_thermalSample_trips (h : s.boot.sampled = true) (h3 : bootState s ≠ 3) {rs : List (Nat × Int)} {bad : List Nat}
    (hu : u = takeSample s rs bad) (ht : Trips u) : ∃ c i, exec (.thermalSample rs bad) s = .next (shutdown u c i) := by
  have hall : ∀ i, i ∈ upto numSensors ↔ i < numSensors := fun _ => mem_upto
  change ∃ c i, execThermalSample rs bad s = _
  rw [execThermalSample, if_neg (by simp [h]), ← hu]
  clear hu
  rw [if_neg h3]
  generalize upto numSensors = all at hall
  generalize upto 36 = ks
  dsimp only
  split
  · exact ⟨_, _, rfl⟩
  · next h1 =>
    split
    · exact ⟨_, _, rfl⟩
    · next h2 =>
      obtain ⟨i, hi, hr⟩ := ht
      simp only [List.find?_eq_none, hall, decide_eq_true_eq] at h1 h2
      exact absurd hr (not_or.2 ⟨h1 i hi, h2 i hi⟩)

/-- The throttle that a sample brings about. -/
def sampleThrottles (u : State) : State :=
  if (upto numSensors).any (fun i => decide (degC 2 ≤ sensorRate u i)) then throttle u 1
  else if (upto numSensors).any (fun i => decide (throttleCeiling (sensorClass i) ≤ sensorTemp u i)) then throttle u 2 else u

theorem exec_thermalSample_runs (h : s.boot.sampled = true) (h3 : bootState s ≠ 3) {rs : List (Nat × Int)} {bad : List Nat}
    (hu : u = takeSample s rs bad) (ht : ¬ Trips u) : exec (.thermalSample rs bad) s = .next ((upto 36).foldl bandSample (sampleThrottles u)) := by
  have hall : ∀ i, i ∈ upto numSensors ↔ i < numSensors := fun _ => mem_upto
  change execThermalSample rs bad s = _
  rw [execThermalSample, if_neg (by simp [h]), ← hu]
  clear hu
  rw [if_neg h3, sampleThrottles]
  generalize upto numSensors = all at hall
  generalize upto 36 = ks
  dsimp only
  split
  · next i hi => exact absurd ⟨i, (hall i).1 (List.mem_of_find?_eq_some hi), .inl (of_decide_eq_true (List.find?_some hi :))⟩ ht
  · split
    · next i hi => exact absurd ⟨i, (hall i).1 (List.mem_of_find?_eq_some hi), .inr (of_decide_eq_true (List.find?_some hi :))⟩ ht
    · rfl

/-- A sensor rises fast. -/
def Fast (u : State) : Prop := ∃ i, i < numSensors ∧ degC 2 ≤ sensorRate u i

/-- A sensor is at its throttle ceiling. -/
def Hot (u : State) : Prop := ∃ i, i < numSensors ∧ throttleCeiling (sensorClass i) ≤ sensorTemp u i

theorem any_fast_iff (u : State) : (upto numSensors).any (fun i => decide (degC 2 ≤ sensorRate u i)) = true ↔ Fast u := by
  simp only [List.any_eq_true, mem_upto, decide_eq_true_eq, Fast]

theorem any_hot_iff (u : State) : (upto numSensors).any (fun i => decide (throttleCeiling (sensorClass i) ≤ sensorTemp u i)) = true ↔ Hot u := by
  simp only [List.any_eq_true, mem_upto, decide_eq_true_eq, Hot]

theorem sampleThrottles_fast (h : Fast u) : sampleThrottles u = throttle u 1 := if_pos ((any_fast_iff u).2 h)
theorem sampleThrottles_hot (h : ¬ Fast u) (h' : Hot u) : sampleThrottles u = throttle u 2 :=
  (if_neg (mt (any_fast_iff u).1 h)).trans (if_pos ((any_hot_iff u).2 h'))
theorem sampleThrottles_calm (h : ¬ Fast u) (h' : ¬ Hot u) : sampleThrottles u = u :=
  (if_neg (mt (any_fast_iff u).1 h)).trans (if_neg (mt (any_hot_iff u).1 h'))

theorem sampleThrottles_cases (u : State) : sampleThrottles u = u ∨ ∃ c, sampleThrottles u = throttle u c := by
  by_cases hf : Fast u
  · exact .inr ⟨1, sampleThrottles_fast hf⟩
  · by_cases hh : Hot u
    · exact .inr ⟨2, sampleThrottles_hot hf hh⟩
    · exact .inl (sampleThrottles_calm hf hh)

theorem rd_sampleThrottles_other (h : OffThrottle o) : rd (sampleThrottles u) o = rd u o := by
  obtain hc | ⟨c, hc⟩ := sampleThrottles_cases u
  · rw [hc]
  · rw [hc, rd_throttle_other h]

theorem pow_sampleThrottles (u : State) : (sampleThrottles u).pow = u.pow := by
  obtain hc | ⟨c, hc⟩ := sampleThrottles_cases u
  · rw [hc]
  · rw [hc, pow_of_aside (throttle_aside u c)]

theorem offThrottle_of_ge {o : Nat} (h : 0x500200 ≤ o) (h' : o < 0x600000) : OffThrottle o :=
  ⟨.inr (le_trans (by decide) h), (lt_of_lt_of_le (by decide) h).ne', (lt_of_lt_of_le (by decide) h).ne', (lt_of_lt_of_le h' (by decide)).ne,
    not_mem_lowestRegs.2 ⟨(lt_of_lt_of_le (by decide) h).ne', fun _ hc => ne_clStatus_of_not_mem (.inr (le_trans (by decide) h)) hc⟩⟩

theorem offThrottle_of_lt {o : Nat} (h : o < 0x288000) : OffThrottle o :=
  ⟨.inl h, (lt_trans h (by decide)).ne, (lt_trans h (by decide)).ne, (lt_trans h (by decide)).ne,
    not_mem_lowestRegs.2 ⟨(lt_trans h (by decide)).ne, fun _ hc => ne_clStatus_of_not_mem (.inl (lt_trans h (by decide))) hc⟩⟩

theorem offThrottle_boot : OffThrottle PWR_BOOT :=
  ⟨.inr (by decide), by decide, by decide, by decide, not_mem_lowestRegs.2 ⟨by decide, fun _ hc => ne_clStatus_of_not_mem (.inl (by decide)) hc⟩⟩

theorem milestonesRun_congr (hp : t.pow = s.pow) (hb : rd t PWR_BOOT = rd s PWR_BOOT) (hc : rd t MST_CTRL = rd s MST_CTRL)
    (hs : rd t MST_STAGE = rd s MST_STAGE) (hk : rd t HST_KEEP_STATUS = rd s HST_KEEP_STATUS) : milestonesRun t = milestonesRun s := by
  rw [milestonesRun, milestonesRun, deviceReady, deviceReady, bootState, bootState, stageNow, stageNow, keepState, keepState, hp,
    rdf_of_rd hb, rdb_of_rd hc, rdf_of_rd hs, rdf_of_rd hk]

theorem milestonesRun_sampled (s : State) (rs : List (Nat × Int)) (bad : List Nat) :
    milestonesRun (sampleThrottles (takeSample s rs bad)) = milestonesRun s := by
  have hlow (o : Nat) (h : o < 0x288000) : rd (sampleThrottles (takeSample s rs bad)) o = rd s o := by
    rw [rd_sampleThrottles_other (offThrottle_of_lt h),
      rd_takeSample_other ⟨.inl h, (lt_trans h (by decide)).ne, .inl (lt_trans h (by decide))⟩]
  refine milestonesRun_congr ?_ ?_ (hlow _ (by decide)) (hlow _ (by decide)) (hlow _ (by decide))
  · rw [pow_sampleThrottles, takeSample_pow]
  · rw [rd_sampleThrottles_other offThrottle_boot, rd_takeSample_other ⟨.inr (by decide), by decide, .inl (by decide)⟩]

/-- The band a sample decides rests on what the stack showed before it, and on its readings. -/
theorem bandDecided_sampled (s : State) (rs : List (Nat × Int)) (bad : List Nat) {k : Nat} (hk : k < 36) :
    (∀ f, THM_STACK_hottest_die.lo + THM_STACK_hottest_die.width ≤ Fld.lo f →
      rdf (sampleThrottles (takeSample s rs bad)) (THM_STACK k) f = rdf s (THM_STACK k) f)
    ∧ hottestDie (sampleThrottles (takeSample s rs bad)) k = hottestDie (takeSample s rs bad) k := by
  obtain ⟨hl, hu⟩ := stackReg_bounds hk
  constructor
  · intro f hf
    rw [rdf_of_rd (rd_sampleThrottles_other (offThrottle_of_ge (le_trans (by decide) hl) (lt_trans hu (by decide)))),
      rdf_takeSample_stack s rs bad hk hf]
  · have hs (d : Nat) (hd : d ∈ upto 16) : THM_SENSOR (288 + 16 * k + d) < 0x600000 := by
      have := mem_upto.1 hd
      simp only [THM_SENSOR]
      omega
    have hmap : (upto 16).map (fun d => sensorTemp (sampleThrottles (takeSample s rs bad)) (288 + 16 * k + d))
        = (upto 16).map (fun d => sensorTemp (takeSample s rs bad) (288 + 16 * k + d)) := by
      refine List.map_congr_left fun d hd => ?_
      have hg : 0x500200 ≤ THM_SENSOR (288 + 16 * k + d) := le_trans (by decide) (Nat.le_add_right 0x510000 _)
      rw [sensorTemp, rdf_of_rd (rd_sampleThrottles_other (offThrottle_of_ge hg (hs d hd))), ← sensorTemp]
    rw [hottestDie, hmap, ← hottestDie]

/-- What a sample that trips nothing leaves of the bands. -/
theorem sample_bands (s : State) (rs : List (Nat × Int)) (bad : List Nat) {k : Nat} (hk : k < 36) :
    rdf ((upto 36).foldl bandSample (sampleThrottles (takeSample s rs bad))) (THM_STACK k) THM_STACK_pending
      = (if rdf s (THM_STACK k) THM_STACK_band < rdf s (THM_STACK k) THM_STACK_pending then
          max (rdf s (THM_STACK k) THM_STACK_pending) (bandWanted (rdf s (THM_STACK k) THM_STACK_band) (hottestDie (takeSample s rs bad) k))
        else bandWanted (rdf s (THM_STACK k) THM_STACK_band) (hottestDie (takeSample s rs bad) k))
    ∧ rdf ((upto 36).foldl bandSample (sampleThrottles (takeSample s rs bad))) (THM_STACK k) THM_STACK_band
      = (if milestonesRun s then rdf s (THM_STACK k) THM_STACK_band
        else rdf ((upto 36).foldl bandSample (sampleThrottles (takeSample s rs bad))) (THM_STACK k) THM_STACK_pending) := by
  obtain ⟨hp, hb⟩ := bandSamples_leave (sampleThrottles (takeSample s rs bad)) hk
  obtain ⟨hf, hh⟩ := bandDecided_sampled s rs bad hk
  rw [hb, hp, milestonesRun_sampled, hf _ (by decide), bandDecided, hh, hf _ (by decide), hf _ (by decide)]
  exact ⟨rfl, rfl⟩

theorem status_not_band {ks : List Nat} (hk : ∀ k ∈ ks, k < 36) : THM_STATUS ∉ bandRegs ks :=
  not_mem_bandRegs (by decide) (fun k hm => (lt_of_lt_of_le (by decide) (stackReg_bounds (hk k hm)).1).ne)

theorem rd_bandSamples_status (s : State) : rd ((upto 36).foldl bandSample s) THM_STATUS = rd s THM_STATUS :=
  (onlyRegs_bandSamples _ s).2 _ (status_not_band fun _ h => mem_upto.1 h)

theorem rd_bandSamples_low (h : o < 0x500000) (s : State) : rd ((upto 36).foldl bandSample s) o = rd s o :=
  (onlyRegs_bandSamples _ s).2 _ (ne_of_below (.inl h) fun _ h => mem_upto.1 h)

theorem rdb_takeSample_throttle (s : State) (rs : List (Nat × Int)) (bad : List Nat) :
    rdb (takeSample s rs bad) THM_STATUS THM_STATUS_throttle = rdb s THM_STATUS THM_STATUS_throttle := by
  rw [rdb, getb, ← rdf, rdf_takeSample_status s rs bad (by decide), rdf, ← getb, ← rdb]

/-- What a sample that trips nothing leaves of the throttle. -/
theorem sample_throttle (s : State) (rs : List (Nat × Int)) (bad : List Nat) :
    let t := (upto 36).foldl bandSample (sampleThrottles (takeSample s rs bad))
    (Fast (takeSample s rs bad) ∨ Hot (takeSample s rs bad) → rdb t THM_STATUS THM_STATUS_throttle = true
      ∧ rdb t PWR_STATUS PWR_STATUS_lowest_state = true ∧ (rdb s THM_STATUS THM_STATUS_throttle = false →
        (Fast (takeSample s rs bad) → rdf t THM_STATUS THM_STATUS_throttle_cause = 1)
        ∧ (¬ Fast (takeSample s rs bad) → rdf t THM_STATUS THM_STATUS_throttle_cause = 2)))
    ∧ (¬ Fast (takeSample s rs bad) → ¬ Hot (takeSample s rs bad) →
      rdb t THM_STATUS THM_STATUS_throttle = rdb s THM_STATUS THM_STATUS_throttle) := by
  have ht := rdb_takeSample_throttle s rs bad
  generalize takeSample s rs bad = u at ht
  dsimp only
  rw [rdb_of_rd (rd_bandSamples_status _), rdb_of_rd (rd_bandSamples_low (by decide) _), rdf_of_rd (rd_bandSamples_status _)]
  refine ⟨fun h => ?_, fun hf hh => by rw [sampleThrottles_calm hf hh, ht]⟩
  by_cases hf : Fast u
  · rw [sampleThrottles_fast hf]
    obtain ⟨h1, h2⟩ := throttle_holds u 1
    exact ⟨h1, h2, fun h0 => ⟨fun _ => throttle_cause (ht.trans h0) (by decide), fun hn => absurd hf hn⟩⟩
  · rw [sampleThrottles_hot hf (h.resolve_left hf)]
    obtain ⟨h1, h2⟩ := throttle_holds u 2
    exact ⟨h1, h2, fun h0 => ⟨fun hy => absurd hy hf, fun _ => throttle_cause (ht.trans h0) (by decide)⟩⟩

/-! ### The end of a throttle, and a band that waits too long -/

theorem getf_addf_other {f g : Fld} (w : Word) (n : Nat) (h : f.lo + f.width ≤ 64) (hd : g.lo + g.width ≤ f.lo ∨ f.lo + f.width ≤ g.lo) :
    getf (addf w f n) g = getf w g := getf_setf_other _ _ _ _ h hd

theorem exec_throttleEnd_idle (h : rdb s THM_STATUS THM_STATUS_throttle = false ∨ mayRelease s = false) : exec .throttleEnd s = .next s := by
  refine congrArg Host.Outcome.next (if_neg ?_)
  obtain h | h := h <;> simp [h]

/-- The throttle is released. -/
def released (s : State) : State := wrb s THM_STATUS THM_STATUS_throttle false

theorem exec_throttleEnd (h : rdb s THM_STATUS THM_STATUS_throttle = true) (hm : mayRelease s = true) : exec .throttleEnd s
    = .next (if !milestonesRun s && lowestOver (released s) (now s) then normalClocks (released s) else released s) :=
  congrArg Host.Outcome.next (if_pos (by rw [h, hm]; rfl))

theorem released_throttle (s : State) : rdb (released s) THM_STATUS THM_STATUS_throttle = false := by
  rw [released, rdb_wrb_self _ _ _ (by decide) (by decide)]

theorem lowestOver_released (hv : rdb s PWR_STATUS PWR_STATUS_vr_alert = false) (hh : ∀ h, s.pow.highAt = some h → h + 100000 ≤ now s) :
    lowestOver (released s) (now s) = true := by
  have hp : (released s).pow = s.pow := by rw [released, wrb_pow]
  have ha : rdb (released s) PWR_STATUS PWR_STATUS_vr_alert = false := by rw [released, rdb_of_rd (rd_wrb_other _ _ _ (by decide)), hv]
  rw [lowestOver, ha, released_throttle, hp]
  cases hc : s.pow.highAt with
  | none => rfl
  | some h => simp [hh h hc]

theorem throttle_ends (h : rdb s THM_STATUS THM_STATUS_throttle = true) (hm : mayRelease s = true) : ∃ t, exec .throttleEnd s = .next t
    ∧ rdb t THM_STATUS THM_STATUS_throttle = false ∧ (milestonesRun s = true → RegsKept s t [THM_STATUS])
    ∧ (milestonesRun s = false → rdb s PWR_STATUS PWR_STATUS_vr_alert = false →
      (∀ h, s.pow.highAt = some h → h + 100000 ≤ now s) → rdb t PWR_STATUS PWR_STATUS_lowest_state = false) := by
  refine ⟨_, exec_throttleEnd h hm, ?_, fun hr => ?_, fun hr hv hh => ?_⟩
  · split_ifs
    · rw [rdb_of_rd (rd_normalClocks_other (by decide)), released_throttle]
    · exact released_throttle s
  · rw [hr]
    exact (onlyRegs_wrb ..).2
  · rw [hr, lowestOver_released hv hh, if_pos (by decide), normalClocks, rdb, rd_modPow, ← rdb, rdb_wrb_self _ _ _ (by decide) (by decide)]

theorem exec_bandPendingTimeout_idle (h : ∀ k, k < 36 → rdf s (THM_STACK k) THM_STACK_pending ≤ rdf s (THM_STACK k) THM_STACK_band) :
    exec .bandPendingTimeout s = .next s := by
  refine congrArg Host.Outcome.next (if_neg ?_)
  simp only [List.any_eq_true, mem_upto, decide_eq_true_eq, not_exists, not_and, not_lt]
  exact h

theorem exec_bandPendingTimeout {k : Nat} (hk : k < 36) (h : rdf s (THM_STACK k) THM_STACK_band < rdf s (THM_STACK k) THM_STACK_pending)
    (ht : rdb s THM_STATUS THM_STATUS_throttle = false) : exec .bandPendingTimeout s = .next (throttle (count s THM_COUNT THM_COUNT_band_late) 3) :=
  congrArg Host.Outcome.next ((if_pos (List.any_eq_true.2 ⟨k, mem_upto.2 hk, decide_eq_true h⟩)).trans (if_neg (by simp [ht])))

theorem bandPending_throttles {k : Nat} (hk : k < 36) (h : rdf s (THM_STACK k) THM_STACK_band < rdf s (THM_STACK k) THM_STACK_pending)
    (ht : rdb s THM_STATUS THM_STATUS_throttle = false) : ∃ t, exec .bandPendingTimeout s = .next t
      ∧ rdb t THM_STATUS THM_STATUS_throttle = true ∧ rdf t THM_STATUS THM_STATUS_throttle_cause = 3
      ∧ rdb t PWR_STATUS PWR_STATUS_lowest_state = true
      ∧ rdf t THM_COUNT THM_COUNT_band_late = (rdf s THM_COUNT THM_COUNT_band_late + 1) % 2 ^ 16
      ∧ rdf t THM_COUNT THM_COUNT_throttles = (rdf s THM_COUNT THM_COUNT_throttles + 1) % 2 ^ 16 := by
  have h0 : rdb (count s THM_COUNT THM_COUNT_band_late) THM_STATUS THM_STATUS_throttle = false := by
    rw [rdb_of_rd (rd_count_other _ _ _ (by decide)), ht]
  obtain ⟨h1, h2⟩ := throttle_holds (count s THM_COUNT THM_COUNT_band_late) 3
  have hc := throttle_count h0 3
  refine ⟨_, exec_bandPendingTimeout hk h ht, h1, throttle_cause h0 (by decide), h2, ?_, ?_⟩
  · rw [rdf, hc, getf_addf_other _ _ (by decide) (by decide), rd_count_self, getf_addf_self _ _ (by decide), ← rdf]
    rfl
  · rw [rdf, hc, getf_addf_self _ _ (by decide), rd_count_self, getf_addf_other _ _ (by decide) (by decide), ← rdf]
    rfl

/-- Settles O52: what a sample of the sensors shows and brings about, the end of a throttle, the time-out of a band, the restart. -/
theorem temperatureEvents : Obligations.TemperatureEvents := by
  unfold Obligations.TemperatureEvents
  refine ⟨fun rs bad s h => exec_thermalSample_off h rs bad,
    fun rs bad s i r hn hm hi hf => ⟨fun hb hl hu hp => sample_good rs bad hn hm hi hf hb hl hu hp,
      fun hb => by rw [sensorFailed_takeSample s rs bad hi, sampleBad_of rs bad hn hm hb, Bool.or_true]⟩,
    fun rs bad s u hs hu h3 => ?_, fun rs bad s u hs hu h3 => ?_, fun s h hm => throttle_ends h hm, fun s h => exec_throttleEnd_idle h,
    fun k s hk h ht => bandPending_throttles hk h ht, fun s h => exec_bandPendingTimeout_idle h,
    fun s h hc hp hl ho hb => restart_begins h hc hp hl ho hb, fun s h => exec_restartCountExpiry_idle h⟩
  · subst hu
    refine ⟨fun ht => ?_, fun ht => ?_⟩
    · obtain ⟨c, i, hc⟩ := exec_thermalSample_trips hs h3 rfl ht
      have hl := shutdown_leaves (takeSample s rs bad) c i
      rw [takeSample_boot] at hl
      exact ⟨_, hc, hl⟩
    · obtain ⟨h1, h2⟩ := sample_throttle s rs bad
      exact ⟨_, exec_thermalSample_runs hs h3 rfl ht, fun k hk => sample_bands s rs bad hk, h1, h2⟩
  · subst hu
    obtain ⟨h1, h2, h4⟩ := coolingSample_leaves (takeSample s rs bad)
    rw [takeSample_boot] at h4
    exact ⟨_, exec_thermalSample_shut hs h3 rs bad, by rw [h1, coolEnough_iff], h2, h4⟩

end Sys2Proof.Machine
end

section
/-! PROOFS. O38: the counters of the blocks are cleared; the logs, the phase records and the telemetry export start empty. -/

namespace Sys2Proof.Machine
open Sys2Proof.Laws

variable {s t u : State} {o : Nat}

/-! ### Clears of many registers -/

/-- Nothing but registers. -/
def CfgOnly (s t : State) : Prop := t = { s with cfg := t.cfg }

theorem CfgOnly.refl (s : State) : CfgOnly s s := rfl

theorem CfgOnly.trans (h : CfgOnly s t) (k : CfgOnly t u) : CfgOnly s u := by
  unfold CfgOnly at h k
  rw [h] at k
  exact k

theorem cfgOnly_clearIf (s : State) (p : Nat → Bool) : CfgOnly s (clearIf s p) := rfl
theorem cfgOnly_wr (s : State) (o : Nat) (w : Word) : CfgOnly s (wr s o w) := rfl
theorem cfgOnly_wrf (s : State) (o : Nat) (f : Fld) (n : Nat) : CfgOnly s (wrf s o f n) := rfl

theorem CfgOnly.foldl {α : Type} {g : State → α → State} (h : ∀ s x, CfgOnly s (g s x)) (xs : List α) (s : State) :
    CfgOnly s (xs.foldl g s) := by
  induction xs generalizing s with
  | nil => exact .refl s
  | cons x xs ih => exact (h s x).trans (ih _)

theorem rd_clearIf_hit {p : Nat → Bool} (s : State) (h : p o = true) : rd (clearIf s p) o = resetWord o := by
  rw [rd_clearIf, if_pos h]

theorem rd_clearIf_miss {p : Nat → Bool} (s : State) (h : p o = false) : rd (clearIf s p) o = rd s o := by
  rw [rd_clearIf, h, if_neg Bool.false_ne_true]

/-- A register that one of a row of clears hits, or that a clear hit before. -/
theorem rd_foldl_clearIf_hit {α : Type} (p : α → Nat → Bool) {xs : List α} {x : α} (hx : x ∈ xs) (h : p x o = true) (s : State) :
    rd (xs.foldl (fun s x => clearIf s (p x)) s) o = resetWord o := by
  have hkeep : ∀ (ys : List α) (u : State), rd u o = resetWord o → rd (ys.foldl (fun s x => clearIf s (p x)) u) o = resetWord o := by
    intro ys
    induction ys with
    | nil => exact fun u hu => hu
    | cons y ys ih => exact fun u hu => ih _ (by rw [rd_clearIf]; split_ifs; exacts [rfl, hu])
  induction xs generalizing s with
  | nil => cases hx
  | cons y ys ih =>
    rcases List.mem_cons.1 hx with rfl | hx
    · exact hkeep ys _ (rd_clearIf_hit s h)
    · exact ih hx _

theorem rd_foldl_clearIf_miss {α : Type} (p : α → Nat → Bool) (h : ∀ x, p x o = false) (xs : List α) (s : State) :
    rd (xs.foldl (fun s x => clearIf s (p x)) s) o = rd s o := by
  induction xs generalizing s with
  | nil => rfl
  | cons y ys ih => rw [List.foldl_cons, ih, rd_clearIf_miss s (h y)]

theorem onlyRegs_clearIf {p : Nat → Bool} {as : List Nat} (s : State) (h : ∀ o, p o = true → o ∈ as) : OnlyRegs s (clearIf s p) as := by
  refine ⟨cfgOnly_clearIf s p, fun o ho => rd_clearIf_miss s ?_⟩
  exact Bool.eq_false_iff.2 fun hp => ho (h o hp)

/-! ### The slices of Verge -/

theorem hotspot_inj (a b : Nat) (h : VRG_HOTSPOT a = VRG_HOTSPOT b) : a = b := by
  simp only [VRG_HOTSPOT] at h
  omega

theorem rd_vrgStatClear_event {i c : Nat} (s : State) (hi : i < 144) (hc : c = 0x10 ∨ c = 0x18) :
    rd (vrgStatClear s) (0xe10000 + i * 0x1000 + c) = resetWord (0xe10000 + i * 0x1000 + c) := by
  rw [vrgStatClear, rd_foldl_wrf_other VRG_HOTSPOT _ _ (fun k hk => by have := mem_upto.1 hk; simp only [VRG_HOTSPOT]; omega)]
  refine rd_clearIf_hit s ?_
  have hr : (0xe10000 + i * 0x1000 + c - 0xE10000) % 0x1000 = c := by omega
  simp only [hr, Bool.and_eq_true, decide_eq_true_eq]
  refine ⟨⟨by omega, by omega⟩, ?_⟩
  rcases hc with rfl | rfl <;> decide

theorem rd_vrgStatClear_hotspot (s : State) (i : Nat) {f : Fld}
    (hd : f.lo + f.width ≤ VRG_HOTSPOT_events.lo ∨ VRG_HOTSPOT_events.lo + VRG_HOTSPOT_events.width ≤ f.lo) :
    rdf (vrgStatClear s) (VRG_HOTSPOT i) f = rdf s (VRG_HOTSPOT i) f := by
  have hfold : ∀ (xs : List Nat) (u : State), rdf (xs.foldl (fun s i => wrf s (VRG_HOTSPOT i) VRG_HOTSPOT_events 0) u) (VRG_HOTSPOT i) f
      = rdf u (VRG_HOTSPOT i) f := by
    intro xs
    induction xs with
    | nil => exact fun u => rfl
    | cons x xs ih =>
      intro u
      rw [List.foldl_cons, ih]
      by_cases hx : i = x
      · rw [hx, rdf_wrf_field _ _ _ (by decide) hd]
      · exact rdf_of_rd (rd_wrf_other _ _ _ fun h => hx (hotspot_inj _ _ h)) f
  rw [vrgStatClear, hfold]
  refine rdf_of_rd (rd_clearIf_miss s ?_) f
  have hr : (VRG_HOTSPOT i - 0xE10000) % 0x1000 = 0x20 := by simp only [VRG_HOTSPOT]; omega
  simp [hr]

theorem rd_vrgStatClear_cfg (s : State) (i : Nat) : rd (vrgStatClear s) (VRG_SLICE_CFG i) = rd s (VRG_SLICE_CFG i) := by
  rw [vrgStatClear, rd_foldl_wrf_other VRG_HOTSPOT _ _ (fun k hk => by simp only [VRG_HOTSPOT, VRG_SLICE_CFG]; omega)]
  refine rd_clearIf_miss s ?_
  have hr : (VRG_SLICE_CFG i - 0xE10000) % 0x1000 = 0 := by simp only [VRG_SLICE_CFG]; omega
  simp [hr]

theorem vrgStatClear_clears (s : State) : CfgOnly s (vrgStatClear s) ∧
    (∀ i, i < 144 → rd (vrgStatClear s) (VRG_EVENTS_0 i) = resetWord (VRG_EVENTS_0 i)
      ∧ rd (vrgStatClear s) (VRG_EVENTS_1 i) = resetWord (VRG_EVENTS_1 i)
      ∧ rdf (vrgStatClear s) (VRG_HOTSPOT i) VRG_HOTSPOT_events = 0
      ∧ rdf (vrgStatClear s) (VRG_HOTSPOT i) VRG_HOTSPOT_last_pc = rdf s (VRG_HOTSPOT i) VRG_HOTSPOT_last_pc
      ∧ rd (vrgStatClear s) (VRG_SLICE_CFG i) = rd s (VRG_SLICE_CFG i)) := by
  refine ⟨(cfgOnly_clearIf s _).trans (.foldl (fun s i => cfgOnly_wrf ..) _ _), fun i hi => ⟨?_, ?_, ?_, ?_, rd_vrgStatClear_cfg s i⟩⟩
  · have h0 : VRG_EVENTS_0 i = 0xe10000 + i * 0x1000 + 0x10 := by simp only [VRG_EVENTS_0]; omega
    rw [h0, rd_vrgStatClear_event s hi (.inl rfl)]
  · have h1 : VRG_EVENTS_1 i = 0xe10000 + i * 0x1000 + 0x18 := by simp only [VRG_EVENTS_1]; omega
    rw [h1, rd_vrgStatClear_event s hi (.inr rfl)]
  · rw [vrgStatClear, rdf_foldl_wrf_mem VRG_HOTSPOT hotspot_inj _ (mem_upto.2 hi) (by decide), Nat.zero_mod]
  · exact rd_vrgStatClear_hotspot s i (by decide)

/-! ### The kerb engines -/

theorem scrub_inj (a b : Nat) (h : KRB_SCRUB a = KRB_SCRUB b) : a = b := by
  simp only [KRB_SCRUB] at h
  omega

theorem rd_kerbStatClear_outside (s : State) (h : o < KRB_STATUS 0 ∨ KRB_STATUS 36 ≤ o) : rd (kerbStatClear s) o = rd s o := by
  rw [kerbStatClear, rd_foldl_wrf_other KRB_SCRUB _ _
    (fun k hk => by have := mem_upto.1 hk; simp only [KRB_SCRUB, KRB_STATUS] at h ⊢; omega)]
  refine rd_clearIf_miss s ?_
  rcases h with h | h
  · simp [Nat.not_le.2 h]
  · simp [Nat.not_lt.2 h]

theorem rd_kerbStatClear_count {i c : Nat} (s : State) (hi : i < 36) (hc : c = 8 ∨ c = 0x10 ∨ c = 0x18) :
    rd (kerbStatClear s) (KRB_STATUS i + c) = resetWord (KRB_STATUS i + c) := by
  rw [kerbStatClear, rd_foldl_wrf_other KRB_SCRUB _ _
    (fun k hk => by have := mem_upto.1 hk; simp only [KRB_SCRUB, KRB_STATUS]; omega)]
  refine rd_clearIf_hit s ?_
  have hr : (KRB_STATUS i + c - KRB_STATUS 0) % 0x4000 = c := by simp only [KRB_STATUS]; omega
  simp only [hr, Bool.and_eq_true, decide_eq_true_eq]
  refine ⟨⟨by simp only [KRB_STATUS]; omega, by simp only [KRB_STATUS]; omega⟩, ?_⟩
  rcases hc with rfl | rfl | rfl <;> decide

theorem rdf_kerbStatClear_position (s : State) (i : Nat) :
    rdf (kerbStatClear s) (KRB_SCRUB i) KRB_SCRUB_position = rdf s (KRB_SCRUB i) KRB_SCRUB_position := by
  have hfold : ∀ (xs : List Nat) (u : State), rdf (xs.foldl (fun s k => wrf s (KRB_SCRUB k) KRB_SCRUB_passes 0) u) (KRB_SCRUB i) KRB_SCRUB_position
      = rdf u (KRB_SCRUB i) KRB_SCRUB_position := by
    intro xs
    induction xs with
    | nil => exact fun u => rfl
    | cons x xs ih =>
      intro u
      rw [List.foldl_cons, ih]
      by_cases hx : i = x
      · rw [hx, rdf_wrf_field _ _ _ (by decide) (by decide)]
      · exact rdf_of_rd (rd_wrf_other _ _ _ fun h => hx (scrub_inj _ _ h)) _
  rw [kerbStatClear, hfold]
  refine rdf_of_rd (rd_clearIf_miss s ?_) _
  have hr : (KRB_SCRUB i - KRB_STATUS 0) % 0x4000 = 0x20 := by simp only [KRB_SCRUB, KRB_STATUS]; omega
  simp [hr]

theorem kerbStatClear_clears (s : State) : CfgOnly s (kerbStatClear s)
    ∧ (∀ i, i < 36 → rd (kerbStatClear s) (KRB_COUNT_0 i) = resetWord (KRB_COUNT_0 i)
      ∧ rd (kerbStatClear s) (KRB_COUNT_1 i) = resetWord (KRB_COUNT_1 i) ∧ rd (kerbStatClear s) (KRB_COUNT_2 i) = resetWord (KRB_COUNT_2 i)
      ∧ rdf (kerbStatClear s) (KRB_SCRUB i) KRB_SCRUB_passes = 0
      ∧ rdf (kerbStatClear s) (KRB_SCRUB i) KRB_SCRUB_position = rdf s (KRB_SCRUB i) KRB_SCRUB_position)
    ∧ ∀ o, (o < KRB_STATUS 0 ∨ KRB_STATUS 36 ≤ o) → rd (kerbStatClear s) o = rd s o := by
  refine ⟨(cfgOnly_clearIf s _).trans (.foldl (fun s i => cfgOnly_wrf ..) _ _), fun i hi => ⟨?_, ?_, ?_, ?_, rdf_kerbStatClear_position s i⟩,
    fun o => rd_kerbStatClear_outside s⟩
  · have h0 : KRB_COUNT_0 i = KRB_STATUS i + 8 := by simp only [KRB_COUNT_0, KRB_STATUS]; omega
    rw [h0, rd_kerbStatClear_count s hi (.inl rfl)]
  · have h1 : KRB_COUNT_1 i = KRB_STATUS i + 0x10 := by simp only [KRB_COUNT_1, KRB_STATUS]; omega
    rw [h1, rd_kerbStatClear_count s hi (.inr (.inl rfl))]
  · have h2 : KRB_COUNT_2 i = KRB_STATUS i + 0x18 := by simp only [KRB_COUNT_2, KRB_STATUS]; omega
    rw [h2, rd_kerbStatClear_count s hi (.inr (.inr rfl))]
  · rw [kerbStatClear, rdf_foldl_wrf_mem KRB_SCRUB scrub_inj _ (mem_upto.2 hi) (by decide), Nat.zero_mod]

/-! ### The walker and the ports -/

theorem resetWord_atnCounts : resetWord ATN_COUNT_0 = 0 ∧ resetWord ATN_COUNT_1 = 0 ∧ resetWord ATN_COUNT_2 = 0 := by decide
theorem resetWord_cwyCount : resetWord CWY_COUNT = 0 := by decide

theorem atnStatClear_clears (s : State) : OnlyRegs s (atnStatClear s) [ATN_COUNT_0, ATN_COUNT_1, ATN_COUNT_2]
    ∧ rd (atnStatClear s) ATN_COUNT_0 = 0 ∧ rd (atnStatClear s) ATN_COUNT_1 = 0 ∧ rd (atnStatClear s) ATN_COUNT_2 = 0 := by
  obtain ⟨h0, h1, h2⟩ := resetWord_atnCounts
  exact ⟨onlyRegs_clearIf s fun o ho => by simpa [or_assoc] using ho, (rd_clearIf_hit s (by decide)).trans h0,
    (rd_clearIf_hit s (by decide)).trans h1, (rd_clearIf_hit s (by decide)).trans h2⟩

/-- The counters of one port. -/
def portCounter (p o : Nat) : Bool := o == CWY_PORT_COUNT p || (upto 6).any (fun k => o == CWY_STALL p k)

theorem cwyStatClear_eq (s : State) :
    cwyStatClear s = (upto 36).foldl (fun s p => clearIf s (portCounter p)) (clearIf s (fun o => o == CWY_COUNT)) := rfl

theorem portCounter_stall {p k : Nat} (hk : k < 6) : portCounter p (CWY_STALL p k) = true := by
  rw [portCounter, Bool.or_eq_true, List.any_eq_true]
  exact .inr ⟨k, mem_upto.2 hk, beq_self_eq_true _⟩

theorem portCounter_false {p : Nat} (h : o ≠ CWY_PORT_COUNT p) (hk : ∀ k, k < 6 → o ≠ CWY_STALL p k) : portCounter p o = false := by
  rw [portCounter, Bool.or_eq_false_iff, beq_eq_false_iff_ne, List.any_eq_false]
  exact ⟨h, fun k hm => by rw [beq_iff_eq]; exact hk k (mem_upto.1 hm)⟩

theorem cwyStatClear_clears (s : State) : CfgOnly s (cwyStatClear s) ∧ rd (cwyStatClear s) CWY_COUNT = 0
    ∧ ∀ p, p < 36 → rd (cwyStatClear s) (CWY_PORT_COUNT p) = resetWord (CWY_PORT_COUNT p)
      ∧ (∀ k, k < 6 → rd (cwyStatClear s) (CWY_STALL p k) = resetWord (CWY_STALL p k))
      ∧ rd (cwyStatClear s) (CWY_PORT_STATUS p) = rd s (CWY_PORT_STATUS p) := by
  rw [cwyStatClear_eq]
  refine ⟨(cfgOnly_clearIf s _).trans (.foldl (fun s i => cfgOnly_clearIf ..) _ _), ?_, fun p hp => ⟨?_, fun k hk => ?_, ?_⟩⟩
  · rw [rd_foldl_clearIf_miss portCounter, rd_clearIf_hit s (by simp), resetWord_cwyCount]
    exact fun p => portCounter_false (by simp only [CWY_COUNT, CWY_PORT_COUNT]; omega) (fun k hk => by simp only [CWY_COUNT, CWY_STALL]; omega)
  · exact rd_foldl_clearIf_hit portCounter (mem_upto.2 hp) (by simp [portCounter]) _
  · exact rd_foldl_clearIf_hit portCounter (mem_upto.2 hp) (portCounter_stall hk) _
  · rw [rd_foldl_clearIf_miss portCounter, rd_clearIf_miss s]
    · exact beq_eq_false_iff_ne.2 (by simp only [CWY_COUNT, CWY_PORT_STATUS]; omega)
    · exact fun q => portCounter_false (by simp only [CWY_PORT_STATUS, CWY_PORT_COUNT]; omega)
        (fun k hk => by simp only [CWY_PORT_STATUS, CWY_STALL]; omega)

/-! ### Single registers -/

/-- A write of a field of a register that may be written. -/
theorem OnlyRegs.wrf {as : List Nat} (h : OnlyRegs s t as) {o : Nat} (ho : o ∈ as) (f : Fld) (n : Nat) : OnlyRegs s (wrf t o f n) as :=
  h.trans ((onlyRegs_wrf t o f n).mono (List.cons_subset.2 ⟨ho, List.nil_subset _⟩))

theorem OnlyRegs.wr {as : List Nat} (h : OnlyRegs s t as) {o : Nat} (ho : o ∈ as) (w : Word) : OnlyRegs s (wr t o w) as :=
  h.trans ((onlyRegs_wr t o w).mono (List.cons_subset.2 ⟨ho, List.nil_subset _⟩))

theorem OnlyRegs.wrb {as : List Nat} (h : OnlyRegs s t as) {o : Nat} (ho : o ∈ as) (f : Fld) (b : Bool) : OnlyRegs s (wrb t o f b) as :=
  h.trans ((onlyRegs_wrb t o f b).mono (List.cons_subset.2 ⟨ho, List.nil_subset _⟩))

theorem OnlyRegs.self (s : State) (as : List Nat) : OnlyRegs s s as := (OnlyRegs.refl s).mono (List.nil_subset _)

theorem hstStatClear_clears (s : State) : OnlyRegs s (hstStatClear s) [HST_ERR, HST_LINK, HST_HOLD] ∧ rd (hstStatClear s) HST_ERR = 0
    ∧ rdf (hstStatClear s) HST_LINK HST_LINK_resets = 0 ∧ rdf (hstStatClear s) HST_LINK HST_LINK_interruptions = 0
    ∧ rdf (hstStatClear s) HST_HOLD HST_HOLD_discarded = 0
    ∧ rdf (hstStatClear s) HST_LINK HST_LINK_speed = rdf s HST_LINK HST_LINK_speed
    ∧ rdf (hstStatClear s) HST_LINK HST_LINK_width = rdf s HST_LINK HST_LINK_width := by
  have hlink : ∀ f : Fld, rdf (hstStatClear s) HST_LINK f
      = rdf (Sys2Proof.Machine.wrf (Sys2Proof.Machine.wrf (Sys2Proof.Machine.wr s HST_ERR 0) HST_LINK HST_LINK_resets 0) HST_LINK HST_LINK_interruptions 0) HST_LINK f :=
    fun f => rdf_of_rd (rd_wrf_other _ _ _ (by decide)) f
  have hkept : ∀ f : Fld, f.lo + f.width ≤ HST_LINK_resets.lo ∨ HST_LINK_resets.lo + HST_LINK_resets.width ≤ f.lo →
      f.lo + f.width ≤ HST_LINK_interruptions.lo ∨ HST_LINK_interruptions.lo + HST_LINK_interruptions.width ≤ f.lo →
      rdf (hstStatClear s) HST_LINK f = rdf s HST_LINK f := fun f h1 h2 => by
    rw [hlink, rdf_wrf_field _ _ _ (by decide) h2, rdf_wrf_field _ _ _ (by decide) h1]
    exact rdf_of_rd (rd_wr_other _ _ _ _ (by decide)) f
  refine ⟨((((OnlyRegs.self s _).wr (by decide) _).wrf (by decide) _ _).wrf (by decide) _ _).wrf (by decide) _ _, ?_, ?_, ?_, ?_,
    hkept _ (by decide) (by decide), hkept _ (by decide) (by decide)⟩
  · rw [hstStatClear, rd_wrf_other _ _ _ (by decide), rd_wrf_other _ _ _ (by decide), rd_wrf_other _ _ _ (by decide), rd_wr_self]
  · rw [hlink, rdf_wrf_field _ _ _ (by decide) (by decide), rdf_wrf_self _ _ _ (by decide), Nat.zero_mod]
  · rw [hlink, rdf_wrf_self _ _ _ (by decide), Nat.zero_mod]
  · rw [hstStatClear, rdf_wrf_self _ _ _ (by decide), Nat.zero_mod]

theorem repStatClear_clears (s : State) : OnlyRegs s (repStatClear s) [REP_COUNT_0, REP_COUNT_1, REP_COUNT_2, REP_SELFTEST]
    ∧ rd (repStatClear s) REP_COUNT_0 = 0 ∧ rd (repStatClear s) REP_COUNT_1 = 0 ∧ rd (repStatClear s) REP_COUNT_2 = 0
    ∧ rdf (repStatClear s) REP_SELFTEST REP_SELFTEST_failures = 0
    ∧ rdf (repStatClear s) REP_SELFTEST REP_SELFTEST_period_h = rdf s REP_SELFTEST REP_SELFTEST_period_h := by
  refine ⟨((((OnlyRegs.self s _).wr (by decide) _).wr (by decide) _).wr (by decide) _).wrf (by decide) _ _, ?_, ?_, ?_, ?_, ?_⟩
  · rw [repStatClear, rd_wrf_other _ _ _ (by decide), rd_wr_other _ _ _ _ (by decide), rd_wr_other _ _ _ _ (by decide), rd_wr_self]
  · rw [repStatClear, rd_wrf_other _ _ _ (by decide), rd_wr_other _ _ _ _ (by decide), rd_wr_self]
  · rw [repStatClear, rd_wrf_other _ _ _ (by decide), rd_wr_self]
  · rw [repStatClear, rdf_wrf_self _ _ _ (by decide), Nat.zero_mod]
  · rw [repStatClear, rdf_wrf_field _ _ _ (by decide) (by decide)]
    refine rdf_of_rd ?_ _
    rw [rd_wr_other _ _ _ _ (by decide), rd_wr_other _ _ _ _ (by decide), rd_wr_other _ _ _ _ (by decide)]

theorem pwrStatClear_clears (s : State) : OnlyRegs s (pwrStatClear s) [PWR_COUNT, PWR_RESET_STATUS] ∧ rd (pwrStatClear s) PWR_COUNT = 0
    ∧ rdf (pwrStatClear s) PWR_RESET_STATUS PWR_RESET_STATUS_roadbed_resets = 0
    ∧ rdf (pwrStatClear s) PWR_RESET_STATUS PWR_RESET_STATUS_aborted = 0
    ∧ rdf (pwrStatClear s) PWR_RESET_STATUS PWR_RESET_STATUS_lost_peer = 0
    ∧ rdf (pwrStatClear s) PWR_RESET_STATUS PWR_RESET_STATUS_last_cause = rdf s PWR_RESET_STATUS PWR_RESET_STATUS_last_cause := by
  have hzero : ∀ f : Fld, f.lo + f.width ≤ PWR_RESET_STATUS_last_cause.lo
      ∨ PWR_RESET_STATUS_last_cause.lo + PWR_RESET_STATUS_last_cause.width ≤ f.lo → getf 0 f = 0 →
      rdf (pwrStatClear s) PWR_RESET_STATUS f = 0 := fun f h hz => by
    rw [pwrStatClear, rdf_wrf_field _ _ _ (by decide) h, rdf, rd_wr_self, hz]
  refine ⟨(((OnlyRegs.self s _).wr (by decide) _).wr (by decide) _).wrf (by decide) _ _, ?_, hzero _ (by decide) (by decide),
    hzero _ (by decide) (by decide), hzero _ (by decide) (by decide), ?_⟩
  · rw [pwrStatClear, rd_wrf_other _ _ _ (by decide), rd_wr_other _ _ _ _ (by decide), rd_wr_self]
  · rw [pwrStatClear, rdf_wrf_self _ _ _ (by decide)]
    exact Nat.mod_eq_of_lt (getf_lt _ _)

theorem monStatClear_clears (s : State) : OnlyRegs s (monStatClear s) [MON_STATUS] ∧ rdf (monStatClear s) MON_STATUS MON_STATUS_commands = 0
    ∧ rdf (monStatClear s) MON_STATUS MON_STATUS_errors = 0
    ∧ rdf (monStatClear s) MON_STATUS MON_STATUS_baud = rdf s MON_STATUS MON_STATUS_baud := by
  refine ⟨((OnlyRegs.self s _).wrf (by decide) _ _).wrf (by decide) _ _, ?_, ?_, ?_⟩
  · rw [monStatClear, rdf_wrf_field _ _ _ (by decide) (by decide), rdf_wrf_self _ _ _ (by decide), Nat.zero_mod]
  · rw [monStatClear, rdf_wrf_self _ _ _ (by decide), Nat.zero_mod]
  · rw [monStatClear, rdf_wrf_field _ _ _ (by decide) (by decide), rdf_wrf_field _ _ _ (by decide) (by decide)]

theorem auditClear_clears (s : State) : CfgOnly s (auditClear s) ∧ rd (auditClear s) TEL_AUDIT_COUNT = 0
    ∧ (∀ i, i < 384 → rd (auditClear s) (TEL_AUDIT_HIST i) = resetWord (TEL_AUDIT_HIST i))
    ∧ rd (auditClear s) TEL_AUDIT_CTRL = rd s TEL_AUDIT_CTRL := by
  refine ⟨(cfgOnly_wr s _ _).trans (cfgOnly_clearIf _ _), ?_, fun i hi => ?_, ?_⟩
  · rw [auditClear, rd_clearIf_miss _ (by decide), rd_wr_self]
  · exact rd_clearIf_hit _ (Bool.and_eq_true_iff.2
      ⟨decide_eq_true (by simp only [TEL_AUDIT_HIST]; omega), decide_eq_true (by simp only [TEL_AUDIT_HIST]; omega)⟩)
  · rw [auditClear, rd_clearIf_miss _ (by decide), rd_wr_other _ _ _ _ (by decide)]

theorem rd_cchStatClear (s : State) (o : Nat) :
    rd (cchStatClear s) o = if 0xD10000 ≤ o ∧ o < 0xD10000 + 144 * 0x1000 then resetWord o else rd s o := by
  rw [cchStatClear, rd_clearIf]
  simp only [Bool.and_eq_true, decide_eq_true_eq]

theorem rd_coreStallClear (s : State) (l o : Nat) :
    rd (coreStallClear s l) o = if CORE_STALL l 0 ≤ o ∧ o < CORE_STALL_CTRL l then resetWord o else rd s o := by
  rw [coreStallClear, rd_clearIf]
  simp only [Bool.and_eq_true, decide_eq_true_eq]

/-! ### The logs -/

/-- A log that is enabled starts empty. -/
theorem logOpen_empty (s : State) (g : LogId) :
    OnlyRegs s (logOpen s g) [g.base + 8, g.base + 16, g.base + 24, g.base + 32]
    ∧ rdb (logOpen s g) (g.base + 8) TEL_LOG_CTRL_enable = true ∧ rd (logOpen s g) (g.base + 16) = 0
    ∧ rd (logOpen s g) (g.base + 24) = 0 ∧ rd (logOpen s g) (g.base + 32) = 0
    ∧ ∀ f : Fld, f.lo + f.width ≤ TEL_LOG_CTRL_enable.lo ∨ TEL_LOG_CTRL_enable.lo + TEL_LOG_CTRL_enable.width ≤ f.lo →
        rdf (logOpen s g) (g.base + 8) f = rdf s (g.base + 8) f := by
  refine ⟨((((OnlyRegs.self s _).wr (by simp) _).wr (by simp) _).wr (by simp) _).wrb (by simp) _ _,
    rdb_wrb_self _ _ _ (by decide) rfl, ?_, ?_, ?_, fun f hf => ?_⟩
  · rw [logOpen, rd_wrb_other _ _ _ (by omega), rd_wr_other _ _ _ _ (by omega), rd_wr_other _ _ _ _ (by omega), rd_wr_self]
  · rw [logOpen, rd_wrb_other _ _ _ (by omega), rd_wr_other _ _ _ _ (by omega), rd_wr_self]
  · rw [logOpen, rd_wrb_other _ _ _ (by omega), rd_wr_self]
  · rw [logOpen, rdf_wrb_field _ _ _ (by decide) hf]
    refine rdf_of_rd ?_ f
    rw [rd_wr_other _ _ _ _ (by omega), rd_wr_other _ _ _ _ (by omega), rd_wr_other _ _ _ _ (by omega)]

theorem logEnable_on (h : rdb s TEL_LOG_CTRL TEL_LOG_CTRL_enable = true) : logEnable s = s := if_pos h
theorem logEnable_off (h : rdb s TEL_LOG_CTRL TEL_LOG_CTRL_enable = false) :
    logEnable s = wr (logOpen s logbook) TEL_LADDER_COUNT 0 := if_neg (by simp [h])
theorem repLogEnable_on (h : rdb s REP_LOG_CTRL TEL_LOG_CTRL_enable = true) : repLogEnable s = s := if_pos h
theorem repLogEnable_off (h : rdb s REP_LOG_CTRL TEL_LOG_CTRL_enable = false) : repLogEnable s = logOpen s repairLog :=
  if_neg (by simp [h])

theorem logEnable_empty (h : rdb s TEL_LOG_CTRL TEL_LOG_CTRL_enable = false) :
    rdb (logEnable s) TEL_LOG_CTRL TEL_LOG_CTRL_enable = true ∧ rd (logEnable s) TEL_LOG_HEAD = 0 ∧ rd (logEnable s) TEL_LOG_TAIL = 0
      ∧ rd (logEnable s) TEL_LOG_STATUS = 0 ∧ rd (logEnable s) TEL_LADDER_COUNT = 0
      ∧ rdf (logEnable s) TEL_LOG_CTRL TEL_LOG_CTRL_size_log2 = rdf s TEL_LOG_CTRL TEL_LOG_CTRL_size_log2
      ∧ OnlyRegs s (logEnable s) [TEL_LOG_CTRL, TEL_LOG_HEAD, TEL_LOG_TAIL, TEL_LOG_STATUS, TEL_LADDER_COUNT] := by
  obtain ⟨honly, hen, hhead, htail, hstat, hkept⟩ := logOpen_empty s logbook
  rw [logEnable_off h]
  generalize logOpen s logbook = u at honly hen hhead htail hstat hkept
  have hu : ∀ o, o ≠ TEL_LADDER_COUNT → rd (wr u TEL_LADDER_COUNT 0) o = rd u o := fun o ho => rd_wr_other _ _ _ _ ho
  exact ⟨(rdb_of_rd (hu _ (by decide)) _).trans hen, (hu _ (by decide)).trans hhead, (hu _ (by decide)).trans htail,
    (hu _ (by decide)).trans hstat, rd_wr_self .., (rdf_of_rd (hu _ (by decide)) _).trans (hkept _ (by decide)),
    (honly.mono (by decide)).wr (by decide) _⟩

theorem repLogEnable_empty (h : rdb s REP_LOG_CTRL TEL_LOG_CTRL_enable = false) :
    rdb (repLogEnable s) REP_LOG_CTRL TEL_LOG_CTRL_enable = true ∧ rd (repLogEnable s) REP_LOG_HEAD = 0
      ∧ rd (repLogEnable s) REP_LOG_TAIL = 0 ∧ rd (repLogEnable s) REP_LOG_STATUS = 0
      ∧ OnlyRegs s (repLogEnable s) [REP_LOG_CTRL, REP_LOG_HEAD, REP_LOG_TAIL, REP_LOG_STATUS] := by
  obtain ⟨honly, hen, hhead, htail, hstat, -⟩ := logOpen_empty s repairLog
  rw [repLogEnable_off h]
  exact ⟨hen, hhead, htail, hstat, honly⟩

/-- The tail after its write is at most the head (R223). -/
theorem logTail_logbook (s : State) (n : BitVec 32) :
    let h := rdf s TEL_LOG_HEAD TEL_LOG_HEAD_head
    let past := (n.toNat + 2 ^ 32 - h) % 2 ^ 32
    OnlyRegs s (logTail s logbook n.toNat) [TEL_LOG_TAIL]
      ∧ (past = 0 ∨ 2 ^ 31 ≤ past → rdf (logTail s logbook n.toNat) TEL_LOG_TAIL TEL_LOG_TAIL_tail = n.toNat)
      ∧ (0 < past → past < 2 ^ 31 → rdf (logTail s logbook n.toNat) TEL_LOG_TAIL TEL_LOG_TAIL_tail = h) := by
  intro h past
  have hn : n.toNat % 2 ^ 32 = n.toNat := Nat.mod_eq_of_lt n.isLt
  have hh : h < 2 ^ 32 := getf_lt _ _
  have heq : rdf (logTail s logbook n.toNat) TEL_LOG_TAIL TEL_LOG_TAIL_tail = (if aheadOf n.toNat h then h else n.toNat) % 2 ^ 32 := by
    rw [logTail, hn]
    exact rdf_wrf_self _ _ _ (by decide)
  have hahead : aheadOf n.toNat h = (decide (0 < past) && decide (past < 2 ^ 31)) := rfl
  refine ⟨onlyRegs_wrf .., fun hp => ?_, fun h0 h1 => ?_⟩
  · rw [heq, hahead, if_neg (by simp only [Bool.and_eq_true, decide_eq_true_eq]; omega), hn]
  · rw [heq, hahead, if_pos (by simp only [Bool.and_eq_true, decide_eq_true_eq]; omega), Nat.mod_eq_of_lt hh]

theorem phaseEnable_on (h : rdb s CMD_PHASE CMD_PHASE_enable = true) : phaseEnable s = s := if_pos h
theorem phaseEnable_off (h : rdb s CMD_PHASE CMD_PHASE_enable = false) :
    phaseEnable s = wr (wrb s CMD_PHASE CMD_PHASE_enable true) CMD_PHASE_HEAD 0 := if_neg (by simp [h])
theorem telEnable_on (h : rdb s TEL_EXP TEL_EXP_enable = true) : telEnable s = s := if_pos h
theorem telEnable_off (h : rdb s TEL_EXP TEL_EXP_enable = false) :
    telEnable s = wr (wrb s TEL_EXP TEL_EXP_enable true) TEL_EXP_HEAD 0 := if_neg (by simp [h])

theorem phaseEnable_empty (h : rdb s CMD_PHASE CMD_PHASE_enable = false) :
    rdb (phaseEnable s) CMD_PHASE CMD_PHASE_enable = true ∧ rd (phaseEnable s) CMD_PHASE_HEAD = 0
      ∧ OnlyRegs s (phaseEnable s) [CMD_PHASE, CMD_PHASE_HEAD] ∧ rdf (phaseEnable s) CMD_PHASE CMD_PHASE_base = rdf s CMD_PHASE CMD_PHASE_base := by
  rw [phaseEnable_off h]
  refine ⟨?_, rd_wr_self .., ((OnlyRegs.self s _).wrb (by decide) _ _).wr (by decide) _, ?_⟩
  · rw [rdb_of_rd (rd_wr_other _ _ _ _ (by decide)), rdb_wrb_self _ _ _ (by decide) rfl]
  · rw [rdf_of_rd (rd_wr_other _ _ _ _ (by decide)), rdf_wrb_field _ _ _ (by decide) (by decide)]

theorem telEnable_empty (h : rdb s TEL_EXP TEL_EXP_enable = false) :
    rdb (telEnable s) TEL_EXP TEL_EXP_enable = true ∧ rd (telEnable s) TEL_EXP_HEAD = 0
      ∧ OnlyRegs s (telEnable s) [TEL_EXP, TEL_EXP_HEAD] ∧ rdf (telEnable s) TEL_EXP TEL_EXP_base = rdf s TEL_EXP TEL_EXP_base := by
  rw [telEnable_off h]
  refine ⟨?_, rd_wr_self .., ((OnlyRegs.self s _).wrb (by decide) _ _).wr (by decide) _, ?_⟩
  · rw [rdb_of_rd (rd_wr_other _ _ _ _ (by decide)), rdb_wrb_self _ _ _ (by decide) rfl]
  · rw [rdf_of_rd (rd_wr_other _ _ _ _ (by decide)), rdf_wrb_field _ _ _ (by decide) (by decide)]

/-- Settles O38: each clear by the registers it resets, each log by what its enabling writes. -/
theorem countersClearAndLogsStartEmpty : Obligations.CountersClearAndLogsStartEmpty := by
  unfold Obligations.CountersClearAndLogsStartEmpty
  refine ⟨fun s hp => ⟨_, next_powered_on hp, cfgOnly_clearIf s _, rd_cchStatClear s⟩,
    fun s hp => ⟨_, next_powered_on hp, vrgStatClear_clears s⟩,
    fun l s hl hp => ⟨_, (onCore_lt _ _ hl).trans (next_powered_on hp), cfgOnly_clearIf s _, rd_coreStallClear s l⟩,
    fun s hp => ⟨_, next_powered_on hp, kerbStatClear_clears s⟩,
    fun s hp => ⟨_, next_powered_on hp, atnStatClear_clears s⟩,
    fun s hp => ⟨_, next_powered_on hp, cwyStatClear_clears s⟩,
    fun s hp => ⟨_, next_powered_on hp, hstStatClear_clears s⟩,
    fun s hp => ⟨_, next_powered_on hp, repStatClear_clears s⟩,
    fun s hp => ⟨_, next_powered_on hp, pwrStatClear_clears s⟩,
    fun s hp => ⟨_, next_powered_on hp, onlyRegs_wr .., rd_wr_self ..⟩,
    fun s hp => ⟨_, next_powered_on hp, monStatClear_clears s⟩,
    fun s hp => ⟨_, next_powered_on hp, auditClear_clears s⟩,
    fun s hp h => ⟨_, next_powered_on hp, logEnable_empty h⟩,
    fun s h => next_powered_same (logEnable_on h),
    fun s hp h => ⟨_, next_powered_on hp, repLogEnable_empty h⟩,
    fun s h => next_powered_same (repLogEnable_on h),
    fun n s hp => ⟨_, next_powered_on hp, logTail_logbook s n⟩,
    fun s hp h => ⟨_, next_powered_on hp, phaseEnable_empty h⟩,
    fun s h => next_powered_same (phaseEnable_on h),
    fun s hp h => ⟨_, next_powered_on hp, telEnable_empty h⟩,
    fun s h => next_powered_same (telEnable_on h)⟩

end Sys2Proof.Machine
end

section
/-! PROOFS. The ports (R385 to R403): what the sending of a frame on a port leaves, what a signal of the late tree leaves, and what
a violation records. -/

namespace Sys2Proof.Machine
open Sys2Proof.Laws

variable {s t u : State} {o : Nat}

/-! ### Frames on a port -/

/-- What a frame on a port does not change: everything but the ports and what is sent. -/
def offWire (s : State) : State := { s with out := [], fab := { s.fab with ports := [] } }

theorem offWire_foldl {α : Type} {f : State → α → State} (h : ∀ s x, offWire (f s x) = offWire s) (xs : List α)
    (s : State) : offWire (xs.foldl f s) = offWire s := foldl_keeps offWire h xs s

section Parts
variable (h : offWire t = offWire s)
include h

theorem cfg_of_offWire : t.cfg = s.cfg := (congrArg State.cfg h : (offWire t).cfg = _)
theorem rd_of_offWire (o : Nat) : rd t o = rd s o := rd_congr (cfg_of_offWire h) o
theorem mst_of_offWire : t.mst = s.mst := (congrArg State.mst h : (offWire t).mst = _)
theorem boot_of_offWire : t.boot = s.boot := (congrArg State.boot h : (offWire t).boot = _)
theorem mem_of_offWire : t.mem = s.mem := (congrArg State.mem h : (offWire t).mem = _)
theorem host_of_offWire : t.host = s.host := (congrArg State.host h : (offWire t).host = _)
theorem lateFor_of_offWire : t.fab.lateFor = s.fab.lateFor :=
  (congrArg (fun v : State => v.fab.lateFor) h : (offWire t).fab.lateFor = _)
theorem clears_of_offWire : t.fab.clears = s.fab.clears :=
  (congrArg (fun v : State => v.fab.clears) h : (offWire t).fab.clears = _)
theorem coords_of_offWire : t.fab.coords = s.fab.coords :=
  (congrArg (fun v : State => v.fab.coords) h : (offWire t).fab.coords = _)
theorem lowUid_of_offWire : t.fab.lowUid = s.fab.lowUid :=
  (congrArg (fun v : State => v.fab.lowUid) h : (offWire t).fab.lowUid = _)

end Parts

@[simp] theorem setPort_offWire (s : State) (p : Nat) (x : Port) : offWire (setPort s p x) = offWire s := rfl
@[simp] theorem modPort_offWire (s : State) (p : Nat) (f : Port → Port) : offWire (modPort s p f) = offWire s := rfl
@[simp] theorem emit_offWire (s : State) (x : Output) : offWire (emit s x) = offWire s := rfl
@[simp] theorem emitWord_offWire (s : State) (p : Nat) (b : List Byte) (l : LinkFields) : offWire (emitWord s p b l) = offWire s := rfl
@[simp] theorem useCredit_offWire (s : State) (p k : Nat) : offWire (useCredit s p k) = offWire s := rfl
@[simp] theorem takeBuffer_offWire (s : State) (p k : Nat) : offWire (takeBuffer s p k) = offWire s := rfl
@[simp] theorem closeWord_offWire (s : State) (p : Nat) (nak : Bool) (g e : Nat) : offWire (closeWord s p nak g e) = offWire s := rfl

@[simp] theorem transmit_offWire (s : State) (p : Nat) (h : FrameHdr) (b : Body) : offWire (transmit s p h b) = offWire s := by
  unfold transmit
  exact offWire_foldl (fun _ _ => emitWord_offWire ..) _ _

@[simp] theorem sendOrWait_offWire (s : State) (p : Nat) (w : WaitFrame) : offWire (sendOrWait s p w) = offWire s := by
  unfold sendOrWait
  split_ifs
  · cases w.mark <;> simp
  · rfl

@[simp] theorem sendCredit_offWire (s : State) (p k n : Nat) : offWire (sendCredit s p k n) = offWire s := by
  unfold sendCredit
  split_ifs <;> simp

@[simp] theorem creditBack_offWire (s : State) (q : Option (Nat × Nat)) : offWire (creditBack s q) = offWire s := by
  cases q with
  | none => rfl
  | some k =>
    unfold creditBack
    dsimp only
    split_ifs <;> simp

@[simp] theorem tookControl_offWire (s : State) (p : Nat) : offWire (tookControl s p) = offWire s := creditBack_offWire ..

@[simp] theorem putOnPort_offWire (s : State) (p : Nat) (w : WaitFrame) : offWire (putOnPort s p w) = offWire s := by
  unfold putOnPort
  split_ifs <;> simp

@[simp] theorem sendControl_offWire (s : State) (p op : Nat) (args : List Nat) : offWire (sendControl s p op args) = offWire s :=
  putOnPort_offWire ..

@[simp] theorem flushLoop_offWire (n : Nat) (s : State) (p : Nat) : offWire (flushLoop n s p) = offWire s := by
  induction n generalizing s with
  | zero => rfl
  | succ n ih =>
    rw [flushLoop]
    split
    · rw [ih, putOnPort_offWire, modPort_offWire]
    · rfl

@[simp] theorem flushPort_offWire (s : State) (p : Nat) : offWire (flushPort s p) = offWire s := flushLoop_offWire ..

@[simp] theorem creditOwed_offWire (s : State) (p : Nat) : offWire (creditOwed s p) = offWire s := by
  unfold creditOwed
  dsimp only
  split_ifs <;> simp

@[simp] theorem controlTo_offWire (s : State) (d op : Nat) (args : List Nat) : offWire (controlTo s d op args) = offWire s := by
  unfold controlTo
  split <;> simp

@[simp] theorem announce_offWire (s : State) (args : List Nat) : offWire (announce s args) = offWire s :=
  offWire_foldl (fun _ _ => controlTo_offWire ..) _ _

@[simp] theorem floodLate_offWire (s : State) (but : Option Nat) (n : Nat) : offWire (floodLate s but n) = offWire s :=
  offWire_foldl (fun _ _ => closeWord_offWire ..) _ _

@[simp] theorem floodBringup_offWire (s : State) (but : Option Nat) (args : Nat → List Nat) :
    offWire (floodBringup s but args) = offWire s := offWire_foldl (fun _ _ => sendControl_offWire ..) _ _

/-! ### Control frames that fit -/

/-- A control frame that finds a buffer is served, and its buffer is free again. -/
theorem controlIn_fits {p : Nat} {h : FrameHdr} {act : State → State} (hp : portActive s p = true) (hf : controlFits s p) :
    controlIn s p h act = tookControl (act (takeBuffer s p 0)) p := by
  obtain ⟨hroom, hkeep⟩ := hf
  rw [controlIn, if_neg (by simp [hp]), if_neg (Nat.not_le.2 hroom), if_neg (by simp [hkeep])]

theorem controlIn_inactive {p : Nat} {h : FrameHdr} {act : State → State} (hp : portActive s p = false) : controlIn s p h act = s := by
  rw [controlIn, if_pos (by simp [hp])]

theorem onPort_lt {p : Nat} (u : State) (h : p < 36) : onPort p u = .next u := by rw [onPort, onlyIf, if_pos (decide_eq_true h)]

/-! ### Views that read registers and the place in the fabric -/

theorem selfId_offWire (s : State) : selfId (offWire s) = selfId s := rfl
theorem portActive_offWire (s : State) (p : Nat) : portActive (offWire s) p = portActive s p := rfl
theorem member_offWire (s : State) : member (offWire s) = member s := rfl
theorem fromParent_offWire (s : State) (p : Nat) : fromParent (offWire s) p = fromParent s p := rfl
theorem children_offWire (s : State) : children (offWire s) = children s := rfl
theorem portNeighbour_offWire (s : State) (p : Nat) : portNeighbour (offWire s) p = portNeighbour s p := rfl

section Views
variable (h : offWire t = offWire s)
include h

theorem portActive_of_offWire (p : Nat) : portActive t p = portActive s p := by rw [← portActive_offWire t, h, portActive_offWire]
theorem member_of_offWire : member t = member s := by rw [← member_offWire t, h, member_offWire]
theorem fromParent_of_offWire (p : Nat) : fromParent t p = fromParent s p := by rw [← fromParent_offWire t, h, fromParent_offWire]
theorem children_of_offWire : children t = children s := by rw [← children_offWire t, h, children_offWire]
theorem portNeighbour_of_offWire (p : Nat) : portNeighbour t p = portNeighbour s p := by
  rw [← portNeighbour_offWire t, h, portNeighbour_offWire]

end Views

/-! ### Late, clear and release -/

/-- What the telling of a clear or of a release leaves alone. -/
def offRelease (s : State) : State :=
  { s with out := [], fab := { s.fab with ports := [], sentClr := false }
           mst := { s.mst with clearAt := none, release := none, told := none } }

theorem offRelease_of_offWire (h : offWire t = offWire s) : offRelease t = offRelease s := by
  have hr : ∀ v, offRelease (offWire v) = offRelease v := fun v => rfl
  rw [← hr t, h, hr]

@[simp] theorem releaseAt_offRelease (s : State) (r n : Nat) : offRelease (releaseAt s r n) = offRelease s := by
  rw [releaseAt, offRelease_of_offWire (announce_offWire ..)]
  rfl

@[simp] theorem tryClear_offRelease (s : State) : offRelease (tryClear s) = offRelease s := by
  rw [tryClear]
  split
  · rfl
  · split
    · split
      · rfl
      · split
        · rfl
        · rw [releaseAt_offRelease]
          rfl
    · split <;> rfl

section Release
variable (h : offRelease t = offRelease s)
include h

theorem cfg_of_offRelease : t.cfg = s.cfg := (congrArg State.cfg h : (offRelease t).cfg = _)
theorem rd_of_offRelease (o : Nat) : rd t o = rd s o := rd_congr (cfg_of_offRelease h) o
theorem seen_of_offRelease : t.mst.seen = s.mst.seen :=
  (congrArg (fun v : State => v.mst.seen) h : (offRelease t).mst.seen = _)
theorem late_of_offRelease : t.mst.late = s.mst.late :=
  (congrArg (fun v : State => v.mst.late) h : (offRelease t).mst.late = _)
theorem due_of_offRelease : t.mst.due = s.mst.due :=
  (congrArg (fun v : State => v.mst.due) h : (offRelease t).mst.due = _)
theorem lateFor_of_offRelease : t.fab.lateFor = s.fab.lateFor :=
  (congrArg (fun v : State => v.fab.lateFor) h : (offRelease t).fab.lateFor = _)
theorem clears_of_offRelease : t.fab.clears = s.fab.clears :=
  (congrArg (fun v : State => v.fab.clears) h : (offRelease t).fab.clears = _)

end Release

/-- Late that has been seen stretches the stage of a member. -/
theorem seeLate_seen (s : State) : (seeLate s).mst.seen = true := by
  rw [seeLate]
  split
  · next h => exact h
  · rw [stretchNow]
    split <;> rfl

theorem seeLate_lateFor (s : State) : (seeLate s).fab.lateFor = s.fab.lateFor := by
  rw [seeLate]
  split
  · rfl
  · rw [stretchNow]
    split <;> rfl

theorem seeLate_late (s : State) : (seeLate s).mst.late = s.mst.late := by
  rw [seeLate]
  split
  · rfl
  · rw [stretchNow]
    split <;> rfl

theorem seeLate_due (s : State) : (seeLate s).mst.due = s.mst.due := by
  rw [seeLate]
  split
  · rfl
  · rw [stretchNow]
    split <;> rfl

theorem rd_stretchNow_other (s : State) (h : o ≠ MST_STATUS) : rd (stretchNow s) o = rd s o := by
  rw [stretchNow]
  split
  · exact rd_wrb_other _ _ _ h
  · rfl

/-- On a device that takes no part late writes no register. -/
theorem stretchNow_apart (h : member s = false) : stretchNow s = s := by
  rw [stretchNow, h, Bool.false_and, Bool.false_and, if_neg Bool.false_ne_true]

theorem rd_seeLate_other (s : State) (h : o ≠ MST_STATUS) : rd (seeLate s) o = rd s o := by
  rw [seeLate]
  split
  · rfl
  · rw [rd_stretchNow_other _ h]
    rfl

theorem rd_seeLate_apart (h : member s = false) (o : Nat) : rd (seeLate s) o = rd s o := by
  rw [seeLate]
  split
  · rfl
  · rw [stretchNow_apart]
    · rfl
    · exact h

/-- The schedule of the next milestone is known (R61). -/
theorem schedule_due (s : State) (n : Nat) (early : Bool) : (schedule s n early).mst.due = some n := by
  have h1 : (announce (stretchNow (modMst s (fun m => { m with due := some n }))) [n, 0, 1]).mst.due = some n := by
    rw [mst_of_offWire (announce_offWire ..), stretchNow]
    split <;> rfl
  have hsample : ∀ v : State, (sampleLate v).mst.due = v.mst.due := by
    intro v
    have hv := congrArg Mst.due (mst_of_offPlan (planEvaluate_offPlan v))
    rw [← hv, sampleLate]
    generalize planEvaluate v = w
    dsimp only
    split_ifs
    · rw [due_of_offRelease (tryClear_offRelease _)]
      rfl
    · rfl
    · rw [due_of_offRelease (tryClear_offRelease _)]
      exact seeLate_due _
    · rw [due_of_offRelease (tryClear_offRelease _), mst_of_offWire (floodLate_offWire ..)]
      exact seeLate_due _
  unfold schedule
  dsimp only
  split_ifs
  · rw [hsample]
    exact h1
  · rw [due_of_offRelease (tryClear_offRelease _), h1]
  · exact h1

/-! ### Violations (R402, R403) -/

/-- The 65th violation of a stage retrains the port, which changes no record of it. -/
theorem retrainPort_keeps (s : State) (p : Nat) :
    rd (retrainPort s p) (CWY_PORT_ERR p) = rd s (CWY_PORT_ERR p)
    ∧ rdf (retrainPort s p) (CWY_PORT_COUNT p) CWY_PORT_COUNT_violations = rdf s (CWY_PORT_COUNT p) CWY_PORT_COUNT_violations
    ∧ ∀ o, o < 0xc10000 → rd (retrainPort s p) o = rd s o := by
  rw [retrainPort]
  split
  · refine ⟨?_, ?_, fun o ho => ?_⟩
    · rw [rd_count_other _ _ _ (by simp only [CWY_PORT_ERR, CWY_PORT_COUNT]; omega), setPortState,
        rd_wrf_other _ _ _ (by simp only [CWY_PORT_ERR, CWY_PORT_STATUS]; omega),
        rd_wrf_other _ _ _ (by simp only [CWY_PORT_ERR, CWY_PORT_STATUS]; omega)]
    · rw [rdf_count_field _ _ _ (by decide) (by decide), setPortState]
      refine rdf_of_rd ?_ _
      rw [rd_wrf_other _ _ _ (by simp only [CWY_PORT_COUNT, CWY_PORT_STATUS]; omega),
        rd_wrf_other _ _ _ (by simp only [CWY_PORT_COUNT, CWY_PORT_STATUS]; omega)]
    · rw [rd_count_other _ _ _ (by simp only [CWY_PORT_COUNT]; omega), setPortState,
        rd_wrf_other _ _ _ (by simp only [CWY_PORT_STATUS]; omega), rd_wrf_other _ _ _ (by simp only [CWY_PORT_STATUS]; omega)]
  · exact ⟨rfl, rfl, fun _ _ => rfl⟩

/-- The registers of a violation, before its port may retrain. -/
def violationNoted (s : State) (p code : Nat) : State :=
  raiseEvent (count (wr s (CWY_PORT_ERR p) (BitVec.ofNat 64 (code * 2 ^ 56 + stageNow s % 2 ^ 48))) (CWY_PORT_COUNT p) CWY_PORT_COUNT_violations)
    (212 + p)

theorem violate_eq (s : State) (p code : Nat) :
    ∃ v, v.cfg = (violationNoted s p code).cfg ∧ (violate s p code = retrainPort v p ∨ violate s p code = v) := by
  rw [violate]
  refine ⟨modPort (violationNoted s p code) p (fun x => { x with viol := x.viol + 1 }), rfl, ?_⟩
  by_cases h : (portOf (modPort (violationNoted s p code) p (fun x => { x with viol := x.viol + 1 })) p).viol = 65
  · exact .inl (if_pos h)
  · exact .inr (if_neg h)

theorem bits_violationWord {code stage : Nat} (hc : code < 256) :
    bits (BitVec.ofNat 64 (code * 2 ^ 56 + stage % 2 ^ 48)) 63 56 = code
    ∧ bits (BitVec.ofNat 64 (code * 2 ^ 56 + stage % 2 ^ 48)) 47 0 = stage % 2 ^ 48 := by
  simp only [bits, bitsN, BitVec.toNat_ofNat]
  omega

theorem violationNoted_kept (s : State) {p code : Nat} (hp : p < 36) (hc : code < 256) : violationKept s (violationNoted s p code) p code := by
  have hpe : NotPba (CWY_PORT_ERR p) := .inr (by simp only [CWY_PORT_ERR]; omega)
  have hpc : NotPba (CWY_PORT_COUNT p) := .inr (by simp only [CWY_PORT_COUNT]; omega)
  have herr : rd (violationNoted s p code) (CWY_PORT_ERR p) = BitVec.ofNat 64 (code * 2 ^ 56 + stageNow s % 2 ^ 48) := by
    rw [violationNoted, rd_raiseEvent_other _ hpe (by simp only [CWY_PORT_ERR, ICU_SRC]; omega),
      rd_count_other _ _ _ (by simp only [CWY_PORT_ERR, CWY_PORT_COUNT]; omega), rd_wr_self]
  have hb := bits_violationWord (stage := stageNow s) hc
  refine ⟨by rw [herr, hb.1], ?_, ?_, rdb_raiseEvent_pending ..⟩
  · rw [herr, hb.2]
    exact Nat.mod_eq_of_lt (getf_lt _ _)
  · rw [violationNoted, rdf_of_rd (rd_raiseEvent_other _ hpc (by simp only [CWY_PORT_COUNT, ICU_SRC]; omega)), rdf, rd_count_self,
      getf_addf_self _ _ (by decide), rd_wr_other _ _ _ _ (by simp only [CWY_PORT_ERR, CWY_PORT_COUNT]; omega)]
    rfl

theorem violationKept.of_cfg {p code : Nat} (h : violationKept s t p code) (hc : u.cfg = t.cfg) : violationKept s u p code := by
  obtain ⟨h1, h2, h3, h4⟩ := h
  have hr := rd_congr hc
  exact ⟨by rw [hr, h1], by rw [hr, h2], by rw [rdf_of_rd (hr _), h3], by rw [rdb_of_rd (hr _), h4]⟩

theorem violationKept.from_cfg {p code : Nat} (h : violationKept s t p code) (hc : s.cfg = u.cfg) : violationKept u t p code := by
  obtain ⟨h1, h2, h3, h4⟩ := h
  have hr := rd_congr hc
  exact ⟨h1, by rw [h2, stageNow, stageNow, rdf_of_rd (hr _)], by rw [h3, rdf_of_rd (hr _)], h4⟩

theorem violationKept.retrain {p code : Nat} (h : violationKept s t p code) (hp : p < 36) : violationKept s (retrainPort t p) p code := by
  obtain ⟨h1, h2, h3, h4⟩ := h
  obtain ⟨k1, k2, k3⟩ := retrainPort_keeps t p
  exact ⟨by rw [k1, h1], by rw [k1, h2], by rw [k2, h3], by rw [rdb_of_rd (k3 _ (by simp only [ICU_SRC]; omega)), h4]⟩

theorem violate_kept (s : State) {p code : Nat} (hp : p < 36) (hc : code < 256) : violationKept s (violate s p code) p code := by
  obtain ⟨v, hv, he | he⟩ := violate_eq s p code
  · rw [he]
    exact ((violationNoted_kept s hp hc).of_cfg hv).retrain hp
  · rw [he]
    exact (violationNoted_kept s hp hc).of_cfg hv

/-- A frame that is dropped as a violation leaves its record, also once its buffer is free again. -/
theorem violateFrame_kept (s : State) {p code : Nat} (w : Nat) (hp : p < 36) (hc : code < 256) :
    violationKept s (violateFrame s p code w) p code :=
  (violate_kept (sendControl s p 6 [code, w]) hp hc).from_cfg (cfg_of_offWire (sendControl_offWire ..))

end Sys2Proof.Machine
end

section
/-! PROOFS. O34: the signals of the late tree, the release, the schedule and the time-sync frames (R399, R400). -/

namespace Sys2Proof.Machine
open Sys2Proof.Laws

variable {s t : State} {p : Nat}

/-- Late is noted for a stage and goes on over the other ports. -/
def lateNoted (s : State) (p n : Nat) : State := floodLate (modFab s (fun f => { f with lateFor := some n })) (some p) n

theorem lateNoted_lateFor (s : State) (p n : Nat) : (lateNoted s p n).fab.lateFor = some n := by
  rw [lateNoted, lateFor_of_offWire (floodLate_offWire ..)]
  rfl

theorem rd_lateNoted (s : State) (p n o : Nat) : rd (lateNoted s p n) o = rd s o := by
  rw [lateNoted, rd_of_offWire (floodLate_offWire ..)]
  rfl

theorem lateIn_member {st : Nat} (hp : portActive s p = true) (hm : member s = true) (hst : stageNow s % 4096 = st)
    (hl : s.fab.lateFor ≠ some (stageNow s)) : lateIn s p st = tryClear (seeLate (lateNoted s p (stageNow s))) := by
  rw [lateIn, hm, if_pos rfl, if_neg]
  · rfl
  · simp [hp, hst, hl]

theorem lateIn_apart {st : Nat} (hp : portActive s p = true) (hm : member s = false) (hst : st < 4096) (hl : s.fab.lateFor ≠ some st) :
    lateIn s p st = tryClear (seeLate (modMst (lateNoted s p st) (fun m => { m with seen := false, late := [] }))) := by
  rw [lateIn, hm, if_neg Bool.false_ne_true, if_neg]
  · rfl
  · simp [hp, Nat.mod_eq_of_lt hst, hl]

theorem member_lateNoted (s : State) (p n : Nat) : member (modMst (lateNoted s p n) (fun m => { m with seen := false, late := [] })) = member s := by
  have h : member (lateNoted s p n) = member s := by
    rw [lateNoted, member_of_offWire (floodLate_offWire ..)]
    rfl
  exact h

theorem lateSignal_member {n : BitVec 12} (hi : p < 36) (hp : portActive s p = true) (hm : member s = true) (hst : stageNow s % 4096 = n.toNat)
    (hl : s.fab.lateFor ≠ some (stageNow s)) :
    ∃ t, exec (.lateSignal p n) s = .next t ∧ t.mst.seen = true ∧ t.fab.lateFor = some (stageNow s) := by
  refine ⟨_, onPort_lt _ hi, ?_⟩
  rw [lateIn_member hp hm hst hl]
  refine ⟨?_, ?_⟩
  · rw [seen_of_offRelease (tryClear_offRelease _), seeLate_seen]
  · rw [lateFor_of_offRelease (tryClear_offRelease _), seeLate_lateFor, lateNoted_lateFor]

theorem lateSignal_apart {n : BitVec 12} (hi : p < 36) (hp : portActive s p = true) (hm : member s = false) (hl : s.fab.lateFor ≠ some n.toNat) :
    ∃ t, exec (.lateSignal p n) s = .next t ∧ t.mst.seen = true ∧ t.mst.late = [] ∧ t.fab.lateFor = some n.toNat
      ∧ ∀ o, (o < CWY_PORT_CTRL 0 ∨ CWY_PORT_CTRL 36 ≤ o) → rd t o = rd s o := by
  refine ⟨_, onPort_lt _ hi, ?_⟩
  rw [lateIn_apart hp hm n.isLt hl]
  refine ⟨?_, ?_, ?_, fun o _ => ?_⟩
  · rw [seen_of_offRelease (tryClear_offRelease _), seeLate_seen]
  · rw [late_of_offRelease (tryClear_offRelease _), seeLate_late]
    rfl
  · rw [lateFor_of_offRelease (tryClear_offRelease _), seeLate_lateFor]
    exact lateNoted_lateFor ..
  · rw [rd_of_offRelease (tryClear_offRelease _), rd_seeLate_apart (by rw [member_lateNoted, hm])]
    exact rd_lateNoted ..

theorem clearIn_child {st : Nat} (hp : portActive s p = true) (hst : s.fab.lateFor.map (· % 4096) = some st)
    (hc : portNeighbour s p ∈ children s) (hn : portNeighbour s p ∉ s.fab.clears) :
    (clearIn s p st).fab.clears = s.fab.clears ++ [portNeighbour s p] := by
  rw [clearIn, if_neg (by simp [hp, hst, hc, hn]), clears_of_offRelease (tryClear_offRelease _)]
  split <;> rfl

/-! ### Frames from the parent -/

theorem takeBuffer_fromParent (s : State) (p : Nat) : fromParent (takeBuffer s p 0) p = fromParent s p :=
  fromParent_of_offWire (takeBuffer_offWire ..) p
theorem takeBuffer_portActive (s : State) (p : Nat) : portActive (takeBuffer s p 0) p = portActive s p :=
  portActive_of_offWire (takeBuffer_offWire ..) p
theorem takeBuffer_member (s : State) (p : Nat) : member (takeBuffer s p 0) = member s := member_of_offWire (takeBuffer_offWire ..)

theorem releaseIn_member (hp : portActive s p = true) (hf : fromParent s p = true) (hm : member s = true) (r n : Nat) :
    releaseIn s p r n = releaseAt (modMst (seeLate s) (fun m => { m with hold := false })) r n := by
  rw [releaseIn, hp, hf, if_neg (by decide), if_neg (by decide), if_pos hm]

theorem releaseIn_apart (hp : portActive s p = true) (hf : fromParent s p = true) (hm : member s = false) (r n : Nat) :
    releaseIn s p r n = modFab (announce s [r, n, 0]) (fun f => { f with lateFor := none, clears := [], sentClr := false }) := by
  rw [releaseIn, hp, hf, if_neg (by decide), if_neg (by decide), hm, if_neg Bool.false_ne_true]

/-- The milestone that a release announces is known. -/
theorem releaseAt_known (s : State) (r n : Nat) : (releaseAt s r n).mst = { s.mst with release := some r, told := some n } := by
  rw [releaseAt, mst_of_offWire (announce_offWire ..)]
  rfl

theorem releaseIn_leaves (hp : portActive s p = true) (hf : fromParent s p = true) (r n : Nat) :
    (member s = true → (releaseIn s p r n).mst.release = some r ∧ (releaseIn s p r n).mst.told = some n
      ∧ (releaseIn s p r n).mst.hold = false ∧ (releaseIn s p r n).mst.seen = true)
    ∧ (member s = false → (releaseIn s p r n).mst = s.mst ∧ ∀ o, rd (releaseIn s p r n) o = rd s o) := by
  refine ⟨fun hm => ?_, fun hm => ?_⟩
  · rw [releaseIn_member hp hf hm, releaseAt_known]
    exact ⟨rfl, rfl, rfl, seeLate_seen s⟩
  · rw [releaseIn_apart hp hf hm]
    have h := announce_offWire s [r, n, 0]
    exact ⟨(mst_of_offWire h : (announce s [r, n, 0]).mst = s.mst), fun o => (rd_of_offWire h o : rd (announce s [r, n, 0]) o = rd s o)⟩

theorem releaseFrame_leaves (hi : p < 36) (hp : portActive s p = true) (hf : fromParent s p = true) (hc : controlFits s p) (r n : Nat) :
    ∃ t, exec (.releaseFrame p r n) s = .next t
      ∧ (member s = true → t.mst.release = some r ∧ t.mst.told = some n ∧ t.mst.hold = false ∧ t.mst.seen = true)
      ∧ (member s = false → t.mst = s.mst ∧ ∀ o, (o < CWY_PORT_CTRL 0 ∨ CWY_PORT_CTRL 36 ≤ o) → rd t o = rd s o) := by
  refine ⟨_, onPort_lt _ hi, ?_⟩
  rw [controlIn_fits hp hc, mst_of_offWire (tookControl_offWire ..)]
  obtain ⟨hmem, hapart⟩ := releaseIn_leaves (s := takeBuffer s p 0) (by rw [takeBuffer_portActive, hp]) (by rw [takeBuffer_fromParent, hf]) r n
  rw [takeBuffer_member] at hmem hapart
  refine ⟨hmem, fun hm => ?_⟩
  obtain ⟨h1, h2⟩ := hapart hm
  refine ⟨h1, fun o _ => ?_⟩
  rw [rd_of_offWire (tookControl_offWire ..), h2]
  rfl

theorem scheduleIn_member (hp : portActive s p = true) (hf : fromParent s p = true) (hm : member s = true) (n : Nat) :
    (scheduleIn s p n).mst.due = some n := by
  rw [scheduleIn, hp, hf, if_neg (by decide), if_neg (by decide), if_pos hm, schedule_due]

theorem scheduleAnnounce_member (hi : p < 36) (hp : portActive s p = true) (hf : fromParent s p = true) (hm : member s = true)
    (hc : controlFits s p) (n : Nat) : ∃ t, exec (.scheduleAnnounce p n) s = .next t ∧ t.mst.due = some n := by
  refine ⟨_, onPort_lt _ hi, ?_⟩
  rw [controlIn_fits hp hc, mst_of_offWire (tookControl_offWire ..)]
  exact scheduleIn_member (by rw [takeBuffer_portActive, hp]) (by rw [takeBuffer_fromParent, hf]) (by rw [takeBuffer_member, hm]) n

/-! ### Time -/

/-- The timebase and the error that a parent's frame gives. -/
def steered (s : State) (pt rtt e : Nat) : State :=
  wrf (wr s MST_TIME (BitVec.ofNat 64 (pt + rtt / 2))) CWY_TIME CWY_TIME_err_ps e

theorem timeSyncIn_parent (hp : portActive s p = true) (hn : portNeighbour s p ∉ children s) (hf : fromParent s p = true)
    (pt rtt e : Nat) (h : Bool) : timeSyncIn s p pt rtt e h
      = if h then steered s pt rtt e else raiseLevel (steered s pt rtt e) 18 CWY_TIME CWY_TIME_sync_lost := by
  rw [timeSyncIn, hp, hf, if_neg (by decide), if_neg (by simpa using hn), if_neg (by decide)]
  rfl

theorem steered_now (s : State) (pt rtt e : Nat) : now (steered s pt rtt e) = (pt + rtt / 2) % 2 ^ 64 := by
  rw [now, steered, rd_wrf_other _ _ _ (by decide), rd_wr_self, BitVec.toNat_ofNat]

theorem steered_err (s : State) (pt rtt e : Nat) : rdf (steered s pt rtt e) CWY_TIME CWY_TIME_err_ps = e % 2 ^ CWY_TIME_err_ps.width :=
  rdf_wrf_self _ _ _ (by decide)

theorem rd_syncLost (s : State) : rd (raiseLevel s 18 CWY_TIME CWY_TIME_sync_lost) CWY_TIME = setb (rd s CWY_TIME) CWY_TIME_sync_lost true := by
  rw [raiseLevel, rd_signalSource_if _ _ _ (.inr (by decide)), rd_wrb_self, rd_countSat_other _ _ _ (by decide)]

theorem syncLost_leaves (s : State) : now (raiseLevel s 18 CWY_TIME CWY_TIME_sync_lost) = now s
    ∧ rdf (raiseLevel s 18 CWY_TIME CWY_TIME_sync_lost) CWY_TIME CWY_TIME_err_ps = rdf s CWY_TIME CWY_TIME_err_ps
    ∧ rdb (raiseLevel s 18 CWY_TIME CWY_TIME_sync_lost) CWY_TIME CWY_TIME_sync_lost = true := by
  refine ⟨?_, ?_, ?_⟩
  · rw [now, rd_raiseLevel_other _ _ (.inl (by decide)) (by decide) (by decide), now]
  · rw [rdf, rd_syncLost, getf_setb_other _ _ _ _ (by decide) (by decide), rdf]
  · rw [rdb, rd_syncLost, getb_setb_self _ _ _ (by decide) rfl]

theorem timeSyncIn_leaves (hp : portActive s p = true) (hn : portNeighbour s p ∉ children s) (hf : fromParent s p = true)
    (pt rtt e : Nat) (h : Bool) : now (timeSyncIn s p pt rtt e h) = (pt + rtt / 2) % 2 ^ 64
      ∧ rdf (timeSyncIn s p pt rtt e h) CWY_TIME CWY_TIME_err_ps = e % 2 ^ CWY_TIME_err_ps.width
      ∧ (h = false → rdb (timeSyncIn s p pt rtt e h) CWY_TIME CWY_TIME_sync_lost = true) := by
  rw [timeSyncIn_parent hp hn hf]
  obtain ⟨h1, h2, h3⟩ := syncLost_leaves (steered s pt rtt e)
  rw [steered_now] at h1
  rw [steered_err] at h2
  cases h with
  | true =>
    rw [if_pos rfl]
    exact ⟨steered_now .., steered_err .., fun hh => absurd hh (by decide)⟩
  | false =>
    rw [if_neg Bool.false_ne_true]
    exact ⟨h1, h2, fun _ => h3⟩

theorem timeSyncFrame_parent (hi : p < 36) (hp : portActive s p = true) (hn : portNeighbour s p ∉ children s) (hf : fromParent s p = true)
    (hc : controlFits s p) (pt rtt e : Nat) (h : Bool) : ∃ t, exec (.timeSyncFrame p pt rtt e h) s = .next t
      ∧ now t = (pt + rtt / 2) % 2 ^ 64 ∧ rdf t CWY_TIME CWY_TIME_err_ps = e % 2 ^ CWY_TIME_err_ps.width
      ∧ (h = false → rdb t CWY_TIME CWY_TIME_sync_lost = true) := by
  refine ⟨_, onPort_lt _ hi, ?_⟩
  rw [controlIn_fits hp hc]
  have hr : ∀ v o, rd (tookControl v p) o = rd v o := fun v o => rd_of_offWire (tookControl_offWire ..) o
  obtain ⟨h1, h2, h3⟩ := timeSyncIn_leaves (s := takeBuffer s p 0) (p := p) (by rw [takeBuffer_portActive, hp])
    (by rwa [portNeighbour_of_offWire (takeBuffer_offWire ..), children_of_offWire (takeBuffer_offWire ..)])
    (by rw [takeBuffer_fromParent, hf]) pt rtt e h
  exact ⟨by rw [now, hr, ← h1, now], by rw [rdf_of_rd (hr _ _), h2], fun hh => by rw [rdb_of_rd (hr _ _), h3 hh]⟩

theorem exec_timeSyncTimer_parent {d : Nat} (hf : inFabric s = true) (hr : isRoot s = false) (hd : parentOf s (selfId s) = some d)
    (hp : portTo s d = some p) : exec .timeSyncTimer s = .next (sendControl s p 3 [now s]) := by
  change execTimeSyncTimer s = _
  rw [execTimeSyncTimer, hd]
  dsimp only
  rw [hf, hr, if_pos (by decide), controlTo, hp]

theorem exec_timeSyncTimer_alone (hf : inFabric s = false) : exec .timeSyncTimer s = .next s := by
  change execTimeSyncTimer s = _
  rw [execTimeSyncTimer]
  split
  · rw [hf, Bool.false_and, if_neg Bool.false_ne_true]
  · rfl

/-! ### A port that is not Active -/

theorem lateIn_inactive (hp : portActive s p = false) (n : Nat) : lateIn s p n = s := by rw [lateIn, hp]; exact if_pos rfl
theorem clearIn_inactive (hp : portActive s p = false) (n : Nat) : clearIn s p n = s := by rw [clearIn, hp]; exact if_pos rfl

theorem exec_onPort_inactive {h : FrameHdr} {act : State → State} (hi : p < 36) (hp : portActive s p = false) :
    onPort p (controlIn s p h act) = .next s := by rw [onPort_lt _ hi, controlIn_inactive hp]

/-- Settles O34: each signal by what the shared rules of frames, of late and of the release leave. -/
theorem lateTreeSignals : Obligations.LateTreeSignals := by
  unfold Obligations.LateTreeSignals
  exact ⟨fun p n s hi hp hm hst hl => lateSignal_member hi hp hm hst hl, fun p n s hi hp hm hl => lateSignal_apart hi hp hm hl,
    fun p n s hi hp hst hc hn => ⟨_, onPort_lt _ hi, clearIn_child hp hst hc hn⟩,
    fun p r n s hi hp hf hc => releaseFrame_leaves hi hp hf hc r n,
    fun p n s hi hp hf hm hc => scheduleAnnounce_member hi hp hf hm hc n,
    fun p pt rtt e h s hi hp hn hf hc => timeSyncFrame_parent hi hp hn hf hc pt rtt e h,
    fun s d p hf hr hd hp => exec_timeSyncTimer_parent hf hr hd hp, fun s hf => exec_timeSyncTimer_alone hf,
    fun p pt rtt e r n w h s hi hp => ⟨(onPort_lt _ hi).trans (by rw [lateIn_inactive hp]), (onPort_lt _ hi).trans (by rw [clearIn_inactive hp]),
      exec_onPort_inactive hi hp, exec_onPort_inactive hi hp, exec_onPort_inactive hi hp⟩⟩

end Sys2Proof.Machine
end

section
/-! PROOFS. O43: bring-up (R394, Table 12-5), its states and what completes it. -/

namespace Sys2Proof.Machine
open Sys2Proof.Laws

variable {s t : State} {o p : Nat}

/-! ### What a new root's stages write -/

/-- The registers that an election leaves: all but the status, the hops, the source of the missing root and the pending vectors. -/
def OffElection (o : Nat) : Prop := NotPba o ∧ o ≠ ICU_SRC 7 ∧ o ≠ MST_STATUS ∧ o ≠ CWY_TIME

theorem rd_elected_other (s : State) (w : Option Candidate) (ho : OffElection o) : rd (elected s w) o = rd s o := by
  obtain ⟨hp, hs, hm, ht⟩ := ho
  cases w with
  | none =>
    rw [elected, rd_raiseLevel_other _ _ hp hs hm, rd_wrf_other _ _ _ ht, rd_wrb_other _ _ _ hm]
    rfl
  | some c =>
    rw [elected, rd_wrb_other _ _ _ hm, rd_wrf_other _ _ _ ht, rd_wrb_other _ _ _ hm]
    rfl

theorem rd_holdStage_other (s : State) (h : o ≠ MST_STATUS) : rd (holdStage s) o = rd s o := by
  rw [holdStage, rd_of_offWire (floodLate_offWire ..)]
  exact rd_seeLate_other s h

theorem rd_continueStages_other (s : State) (n : Nat) (h : o ≠ MST_STATUS) : rd (continueStages s n) o = rd s o := by
  have hh : ∀ v : State, v.cfg = s.cfg → rd (tryClear (holdStage v)) o = rd s o := fun v hv => by
    rw [rd_of_offRelease (tryClear_offRelease _), rd_holdStage_other _ h, rd_congr hv]
  rw [continueStages]
  split
  · rfl
  · split
    · exact hh _ rfl
    · exact hh _ rfl

theorem rd_timeFirst (s : State) (o : Nat) : rd (timeFirst s) o = rd s o := by
  rw [timeFirst]
  split <;> rfl

theorem rd_electAtBringup_other (s : State) (cs : List Candidate) (ho : OffElection o) : rd (electAtBringup s cs) o = rd s o := by
  have h1 := rd_elected_other s (electionWinner (candidates s cs)) ho
  unfold electAtBringup
  generalize elected s (electionWinner (candidates s cs)) = v at h1 ⊢
  rw [← h1]
  dsimp only
  split_ifs
  · rfl
  · rfl
  · exact rd_continueStages_other _ _ ho.2.2.1
  · exact rd_timeFirst ..

/-! ### Starting -/

theorem fabricStart_busy (h : bringingUp s = true) : fabricStart s = s := if_pos h

theorem detectPort_place (s : State) (p : Nat) : (detectPort s p).fab.coords = s.fab.coords ∧ (detectPort s p).fab.lowUid = s.fab.lowUid := by
  have h1 : (setPortState s p 1).fab = s.fab := by rw [setPortState, wrf_fab, wrf_fab]
  have h2 : ∀ (v : State) (x : Port), (setPort v p x).fab.coords = v.fab.coords ∧ (setPort v p x).fab.lowUid = v.fab.lowUid := fun v x => ⟨rfl, rfl⟩
  rw [detectPort, wrb_fab, (h2 _ _).1, (h2 _ _).2, h1]
  exact ⟨rfl, rfl⟩

theorem enabledPorts_place (s : State) : (enabledPorts s).fab.coords = s.fab.coords ∧ (enabledPorts s).fab.lowUid = s.fab.lowUid := by
  rw [enabledPorts]
  generalize upto 36 = ps
  induction ps generalizing s with
  | nil => exact ⟨rfl, rfl⟩
  | cons p ps ih =>
    rw [List.foldl_cons]
    refine ⟨(ih _).1.trans ?_, (ih _).2.trans ?_⟩
    · split
      · exact (detectPort_place s p).1
      · rfl
    · split
      · exact (detectPort_place s p).2
      · rfl


theorem fabricStart_idle (h : bringingUp s = false) : fabricStart s
    = enabledPorts (modFab (setFabricState (wr (wrb s CWY_SELF_ID CWY_SELF_ID_id_valid false) CWY_FABRIC_STATUS 0) 1)
        (fun f => { f with lowUid := none, coords := none, coordsBy := [], members := [] })) := if_neg (by simp [h])

theorem fabricStart_begins (h : bringingUp s = false) : fabricState (fabricStart s) = 1
    ∧ rdb (fabricStart s) CWY_SELF_ID CWY_SELF_ID_id_valid = false ∧ (fabricStart s).fab.coords = none ∧ (fabricStart s).fab.lowUid = none := by
  have hr : ∀ o, o < 0xC10000 → rd (fabricStart s) o
      = rd (setFabricState (wr (wrb s CWY_SELF_ID CWY_SELF_ID_id_valid false) CWY_FABRIC_STATUS 0) 1) o := fun o ho => by
    rw [fabricStart_idle h, (onlyPorts_enabledPorts _).2 o ho, rd_modFab]
  refine ⟨?_, ?_, ?_, ?_⟩
  · rw [fabricState, rdf_of_rd (hr _ (by decide)), setFabricState, rdf_wrf_self _ _ _ (by decide)]
    decide
  · rw [rdb_of_rd (hr _ (by decide)), setFabricState, rdb_of_rd (rd_wrf_other _ _ _ (by decide)), rdb_of_rd (rd_wr_other _ _ _ _ (by decide)),
      rdb_wrb_self _ _ _ (by decide) rfl]
  · rw [fabricStart_idle h, (enabledPorts_place _).1, modFab]
  · rw [fabricStart_idle h, (enabledPorts_place _).2, modFab]

/-! ### The ports are settled -/

/-- The lowest UID that this device knows, its own among them. -/
def lowestUid (s : State) : Word :=
  match s.fab.lowUid with
  | some u => if u.toNat < (rd s CWY_UID).toNat then u else rd s CWY_UID
  | none => rd s CWY_UID

theorem lowestUid_le (s : State) : (lowestUid s).toNat ≤ (rd s CWY_UID).toNat ∧ ∀ v, s.fab.lowUid = some v → (lowestUid s).toNat ≤ v.toNat := by
  rw [lowestUid]
  cases s.fab.lowUid with
  | none => exact ⟨le_refl _, fun v h => by cases h⟩
  | some u =>
    dsimp only
    split
    · next hlt => exact ⟨hlt.le, fun v h => by rw [Option.some.inj h]⟩
    · next hge => exact ⟨le_refl _, fun v h => by rw [← Option.some.inj h]; exact Nat.not_lt.1 hge⟩

/-- Every port that is enabled has come to rest. -/
def portsSettled (s : State) : Bool :=
  (upto 36).all (fun p => !rdb s (CWY_PORT_CTRL p) CWY_PORT_CTRL_enable || [1, 5, 7, 8].contains (portState s p))

theorem portsSettled_true (h : ∀ p, p < 36 → rdb s (CWY_PORT_CTRL p) CWY_PORT_CTRL_enable = true → portState s p ∈ [1, 5, 7, 8]) :
    portsSettled s = true := by
  rw [portsSettled, List.all_eq_true]
  intro p hp
  rw [Bool.or_eq_true, Bool.not_eq_true']
  cases hen : rdb s (CWY_PORT_CTRL p) CWY_PORT_CTRL_enable with
  | false => exact .inl rfl
  | true => exact .inr (List.contains_iff_mem.2 (h p (mem_upto.1 hp) hen))

theorem exec_bringupPortsSettled (s : State) : exec .bringupPortsSettled s = .next (
    if fabricState s ≠ 1 ∨ portsSettled s = false ∨ s.fab.coords.isSome = true then s
    else if activePorts s = [] then modFab (wrf s CWY_SELF_ID CWY_SELF_ID_device_id 0) (fun f => { f with coords := some 0 })
    else floodBringup (modFab (setFabricState s 2) (fun f => { f with lowUid := some (lowestUid s) })) none (fun _ => [0, (lowestUid s).toNat])) :=
  rfl

section
variable (h1 : fabricState s = 1) (hc : s.fab.coords = none)
  (hs : ∀ p, p < 36 → rdb s (CWY_PORT_CTRL p) CWY_PORT_CTRL_enable = true → portState s p ∈ [1, 5, 7, 8])
include h1 hc hs

theorem not_held : ¬ (fabricState s ≠ 1 ∨ portsSettled s = false ∨ s.fab.coords.isSome = true) := by
  rw [portsSettled_true hs, hc]
  simp [h1]

theorem bringupPortsSettled_alone (ha : activePorts s = []) :
    ∃ t, exec .bringupPortsSettled s = .next t ∧ t.fab.coords = some 0 ∧ selfId t = 0 := by
  refine ⟨_, (exec_bringupPortsSettled s).trans (congrArg Host.Outcome.next ((if_neg (not_held h1 hc hs)).trans (if_pos ha))), rfl, ?_⟩
  rw [selfId]
  exact rdf_wrf_self _ _ _ (by decide)

theorem bringupPortsSettled_partners (ha : activePorts s ≠ []) :
    ∃ t u, exec .bringupPortsSettled s = .next t ∧ fabricState t = 2 ∧ t.fab.lowUid = some u
      ∧ u.toNat ≤ (rd s CWY_UID).toNat ∧ ∀ v, s.fab.lowUid = some v → u.toNat ≤ v.toNat := by
  obtain ⟨hown, hknown⟩ := lowestUid_le s
  refine ⟨_, lowestUid s, (exec_bringupPortsSettled s).trans (congrArg Host.Outcome.next ((if_neg (not_held h1 hc hs)).trans (if_neg ha))),
    ?_, ?_, hown, hknown⟩
  · rw [fabricState, rdf_of_rd ((rd_of_offWire (floodBringup_offWire ..) _).trans (rd_modFab ..)), setFabricState, rdf_wrf_self _ _ _ (by decide)]
    decide
  · rw [lowUid_of_offWire (floodBringup_offWire ..)]
    rfl

end

theorem bringupPortsSettled_elsewhere (h : fabricState s ≠ 1) : exec .bringupPortsSettled s = .next s :=
  (exec_bringupPortsSettled s).trans (congrArg Host.Outcome.next (if_pos (.inl h)))

/-! ### The origin -/

theorem exec_originSettled (s : State) : exec .originSettled s = .next (
    if fabricState s ≠ 2 then s
    else if s.fab.lowUid = some (rd s CWY_UID) ∧ s.fab.coords = none then takeCoords (setFabricState s 3) 0 else setFabricState s 3) := rfl

/-- Coordinates that are taken are this device's ID. -/
theorem takeCoords_leaves (s : State) (c : Nat) : (takeCoords s c).fab.coords = some c ∧ selfId (takeCoords s c) = c % 2 ^ 18
    ∧ rd (takeCoords s c) CWY_FABRIC_STATUS = rd s CWY_FABRIC_STATUS := by
  have h : ∀ v : State, offWire (floodBringup (floodBringup v none (fun p => [1, p, c])) none (fun _ => [3, c])) = offWire v := fun v => by
    rw [floodBringup_offWire, floodBringup_offWire]
  rw [takeCoords]
  refine ⟨?_, ?_, ?_⟩
  · rw [coords_of_offWire (h _)]
    rfl
  · rw [selfId, rdf_of_rd ((rd_of_offWire (h _) _).trans (rd_modFab ..)), rdf_wrf_self _ _ _ (by decide)]
    rfl
  · rw [rd_of_offWire (h _), rd_modFab, rd_wrf_other _ _ _ (by decide)]

theorem originSettled_leaves (h : fabricState s = 2) : ∃ t, exec .originSettled s = .next t ∧ fabricState t = 3
    ∧ (s.fab.lowUid = some (rd s CWY_UID) → s.fab.coords = none → t.fab.coords = some 0 ∧ selfId t = 0)
    ∧ (s.fab.lowUid ≠ some (rd s CWY_UID) → t.fab = s.fab) := by
  refine ⟨_, (exec_originSettled s).trans (congrArg Host.Outcome.next (if_neg (not_not.2 h))), ?_⟩
  have h3 : fabricState (setFabricState s 3) = 3 := by
    rw [fabricState, setFabricState, rdf_wrf_self _ _ _ (by decide)]
    decide
  by_cases ho : s.fab.lowUid = some (rd s CWY_UID) ∧ s.fab.coords = none
  · obtain ⟨hcoords, hid, hst⟩ := takeCoords_leaves (setFabricState s 3) 0
    rw [if_pos ho]
    refine ⟨?_, fun _ _ => ⟨hcoords, hid⟩, fun hne => absurd ho.1 hne⟩
    rw [fabricState, rdf_of_rd hst]
    exact h3
  · rw [if_neg ho]
    exact ⟨h3, fun h1 h2 => absurd ⟨h1, h2⟩ ho, fun _ => wrf_fab ..⟩

/-! ### Bring-up frames -/

theorem exec_bringupFrame_fits (hi : p < 36) (hp : portActive s p = true) (hc : controlFits s p) (b : BringupInfo) :
    exec (.bringupFrame p b) s = .next (tookControl (bringupIn (takeBuffer s p 0) p b) p) := by
  change onPort p _ = _
  rw [onPort_lt _ hi, controlIn_fits hp hc]

theorem bringupIn_uid {u v : Word} (hp : portActive s p = true) (h1 : fabricState s = 1) (hl : s.fab.lowUid = some v) :
    bringupIn s p (.uid u) = if u.toNat < v.toNat then modFab s (fun f => { f with lowUid := some u }) else s := by
  rw [bringupIn, hp, if_neg (by decide), if_neg (by omega)]
  dsimp only
  rw [if_pos (.inl h1), hl]
  simp only [decide_eq_true_eq, h1, if_neg (show ¬ (1 = 2) by decide)]

theorem bringupFrame_uid {u v : Word} (hi : p < 36) (hp : portActive s p = true) (h1 : fabricState s = 1) (hl : s.fab.lowUid = some v)
    (hc : controlFits s p) : let r := takeBuffer s p 0
      (u.toNat < v.toNat → exec (.bringupFrame p (.uid u)) s = .next (tookControl { r with fab := { r.fab with lowUid := some u } } p))
      ∧ (v.toNat ≤ u.toNat → exec (.bringupFrame p (.uid u)) s = .next (tookControl r p)) := by
  have h := bringupIn_uid (s := takeBuffer s p 0) (u := u) (v := v) (by rw [takeBuffer_portActive, hp]) h1 hl
  refine ⟨fun hlt => ?_, fun hge => ?_⟩
  · rw [exec_bringupFrame_fits hi hp hc, h, if_pos hlt]
    rfl
  · rw [exec_bringupFrame_fits hi hp hc, h, if_neg (Nat.not_lt.2 hge)]

theorem bringupIn_late (hp : portActive s p = true) (h5 : fabricState s = 5) (b : BringupInfo) :
    bringupIn s p b = violateFrame s p 8 (hdrWord0 (partnerHdr s p 4 (bringupWords b))) := by
  rw [bringupIn.eq_def, hp, if_neg (by decide), if_pos h5]

theorem bringupFrame_late (hi : p < 36) (hp : portActive s p = true) (h5 : fabricState s = 5) (hc : controlFits s p) (b : BringupInfo) :
    ∃ t, exec (.bringupFrame p b) s = .next t ∧ violationKept s t p 8 := by
  refine ⟨_, exec_bringupFrame_fits hi hp hc b, ?_⟩
  rw [bringupIn_late (s := takeBuffer s p 0) (by rw [takeBuffer_portActive, hp]) h5]
  exact ((violateFrame_kept (takeBuffer s p 0) _ hi (by decide)).from_cfg rfl).of_cfg (cfg_of_offWire (tookControl_offWire ..))

/-! ### Completion -/

/-- The registers of bring-up that is complete, before the root is known. -/
def fabricUp (s : State) (m : Nat) : State :=
  let v := wrf (setFabricState (wrb s CWY_SELF_ID CWY_SELF_ID_id_valid true) 5) CWY_FABRIC_STATUS CWY_FABRIC_STATUS_members m
  wrb v CWY_FABRIC_STATUS CWY_FABRIC_STATUS_incomplete (decide (m < fabricSize v))

/-- The root's registers at the end of bring-up. -/
def rootTold (s : State) (n : Nat) : State :=
  let v := wrf s CWY_TIME CWY_TIME_hops (if s.fab.noRoot then 0 else hopsToRoot s)
  if rdb v MST_STATUS MST_STATUS_is_root then wrf v CWY_TIME CWY_TIME_late_prop_ns n else v

theorem rd_rootTold_other (s : State) (n : Nat) (h : o ≠ CWY_TIME) : rd (rootTold s n) o = rd s o := by
  have h1 : rd (wrf s CWY_TIME CWY_TIME_hops (if s.fab.noRoot then 0 else hopsToRoot s)) o = rd s o := rd_wrf_other _ _ _ h
  unfold rootTold
  generalize wrf s CWY_TIME CWY_TIME_hops (if s.fab.noRoot then 0 else hopsToRoot s) = v at h1 ⊢
  dsimp only
  split
  · rw [rd_wrf_other _ _ _ h, h1]
  · exact h1

theorem fabricUp_registers (s : State) (m : Nat) : fabricState (fabricUp s m) = 5
    ∧ rdb (fabricUp s m) CWY_SELF_ID CWY_SELF_ID_id_valid = true
    ∧ rdf (fabricUp s m) CWY_FABRIC_STATUS CWY_FABRIC_STATUS_members = m % 2 ^ 19 := by
  rw [fabricUp]
  generalize decide (m < fabricSize _) = b
  refine ⟨?_, ?_, ?_⟩
  · rw [fabricState, rdf_wrb_field _ _ _ (by decide) (by decide), rdf_wrf_field _ _ _ (by decide) (by decide), setFabricState,
      rdf_wrf_self _ _ _ (by decide)]
    decide
  · rw [rdb_of_rd (rd_wrb_other _ _ _ (by decide)), rdb_of_rd (rd_wrf_other _ _ _ (by decide)), setFabricState,
      rdb_of_rd (rd_wrf_other _ _ _ (by decide)), rdb_wrb_self _ _ _ (by decide) rfl]
  · rw [rdf_wrb_field _ _ _ (by decide) (by decide), rdf_wrf_self _ _ _ (by decide)]
    rfl

/-- The members that bring-up counts. -/
def memberCount (s : State) : Nat :=
  if fabricState s == 1 then 1
  else if s.fab.lowUid == some (rd s CWY_UID) then s.fab.members.length else rdf s CWY_FABRIC_STATUS CWY_FABRIC_STATUS_members

/-- The origin checks its partners and its count goes out. -/
def countTold (s : State) (m : Nat) : State :=
  let v := if fabricState s = 3 then checkPartners s else s
  if fabricState s = 3 then floodBringup v none (fun _ => [2, m]) else v

/-- A device alone is its own root; another elects one. -/
def rootKnown (s : State) (alone : Bool) (cs : List Candidate) : State :=
  if alone then wrb (modFab s (fun f => { f with root := selfId s, noRoot := false })) MST_STATUS MST_STATUS_is_root true
  else electAtBringup s cs

theorem bringupComplete_eq (s : State) (l r : Nat) (cs : List Candidate) : bringupComplete s l r cs
    = if s.fab.coords = none ∨ ¬ ((fabricState s == 1) = true ∨ (fabricState s = 3 ∧ (s.fab.lowUid == some (rd s CWY_UID)) = true)
        ∨ fabricState s = 4) then s
      else rootTold (rootKnown (fabricUp (countTold s (memberCount s)) (memberCount s)) (fabricState s == 1) cs)
        ((l + r + 9) / 10 * 10) := rfl

theorem bringupComplete_held (l r : Nat) (cs : List Candidate) (h : s.fab.coords = none ∨ fabricState s = 2
    ∨ fabricState s = 3 ∧ s.fab.lowUid ≠ some (rd s CWY_UID)) : bringupComplete s l r cs = s := by
  rw [bringupComplete]
  refine if_pos ?_
  rcases h with h | h | ⟨h, hu⟩
  · exact .inl h
  · simp [h]
  · simp [h, hu]

theorem countTold_elsewhere (h : fabricState s ≠ 3) (m : Nat) : countTold s m = s := by rw [countTold, if_neg h, if_neg h]

theorem bringupComplete_alone {x : Nat} (l r : Nat) (cs : List Candidate) (hc : s.fab.coords = some x) (h : fabricState s = 1) :
    bringupComplete s l r cs = rootTold (rootKnown (fabricUp s 1) true cs) ((l + r + 9) / 10 * 10) := by
  have h1 : (fabricState s == 1) = true := by simp [h]
  rw [bringupComplete_eq, if_neg (by simp [hc, h]), memberCount, h1, if_pos rfl, countTold_elsewhere (by omega)]

theorem bringupComplete_counted {x : Nat} (l r : Nat) (cs : List Candidate) (hc : s.fab.coords = some x) (h : fabricState s = 4) :
    bringupComplete s l r cs = rootTold (rootKnown (fabricUp s (memberCount s)) false cs) ((l + r + 9) / 10 * 10) := by
  have h1 : (fabricState s == 1) = false := by simp [h]
  rw [bringupComplete_eq, if_neg (by simp [hc, h]), h1, countTold_elsewhere (by omega)]

theorem rd_rootKnown_alone (s : State) (cs : List Candidate) (o : Nat) :
    rd (rootKnown s true cs) o = if o = MST_STATUS then setb (rd s o) MST_STATUS_is_root true else rd s o := by
  rw [rootKnown, if_pos rfl]
  split
  · next h => rw [h, rd_wrb_self, rd_modFab]
  · next h => rw [rd_wrb_other _ _ _ h, rd_modFab]

theorem bringupComplete_alone_leaves {x : Nat} (l r : Nat) (cs : List Candidate) (hc : s.fab.coords = some x) (h : fabricState s = 1) :
    fabricState (bringupComplete s l r cs) = 5 ∧ rdb (bringupComplete s l r cs) CWY_SELF_ID CWY_SELF_ID_id_valid = true
      ∧ rdf (bringupComplete s l r cs) CWY_FABRIC_STATUS CWY_FABRIC_STATUS_members = 1
      ∧ rdb (bringupComplete s l r cs) MST_STATUS MST_STATUS_is_root = true := by
  obtain ⟨h5, hid, hm⟩ := fabricUp_registers s 1
  have hr : ∀ o, o ≠ CWY_TIME → rd (bringupComplete s l r cs) o = rd (rootKnown (fabricUp s 1) true cs) o := fun o ho => by
    rw [bringupComplete_alone l r cs hc h, rd_rootTold_other _ _ ho]
  generalize fabricUp s 1 = w at h5 hid hm hr
  have hw : ∀ o, o ≠ CWY_TIME → o ≠ MST_STATUS → rd (bringupComplete s l r cs) o = rd w o := fun o ho ho' => by
    rw [hr o ho, rd_rootKnown_alone, if_neg ho']
  refine ⟨?_, ?_, ?_, ?_⟩
  · rw [fabricState, rdf_of_rd (hw _ (by decide) (by decide))]
    exact h5
  · rw [rdb_of_rd (hw _ (by decide) (by decide)), hid]
  · rw [rdf_of_rd (hw _ (by decide) (by decide)), hm]
    rfl
  · rw [rdb, hr _ (by decide), rd_rootKnown_alone, if_pos rfl, getb_setb_self _ _ _ (by decide) rfl]

theorem bringupComplete_counted_leaves {x : Nat} (l r : Nat) (cs : List Candidate) (hc : s.fab.coords = some x) (h : fabricState s = 4) :
    fabricState (bringupComplete s l r cs) = 5 ∧ rdb (bringupComplete s l r cs) CWY_SELF_ID CWY_SELF_ID_id_valid = true := by
  obtain ⟨h5, hid, -⟩ := fabricUp_registers s (memberCount s)
  rw [bringupComplete_counted l r cs hc h]
  generalize fabricUp s (memberCount s) = w at h5 hid
  have hr : ∀ o, OffElection o → rd (rootTold (rootKnown w false cs) ((l + r + 9) / 10 * 10)) o = rd w o := fun o ho => by
    rw [rd_rootTold_other _ _ ho.2.2.2, rootKnown, if_neg Bool.false_ne_true, rd_electAtBringup_other _ _ ho]
  refine ⟨?_, ?_⟩
  · rw [fabricState, rdf_of_rd (hr _ ⟨.inr (by decide), by decide, by decide, by decide⟩)]
    exact h5
  · rw [rdb_of_rd (hr _ ⟨.inr (by decide), by decide, by decide, by decide⟩), hid]

/-- Settles O43: the states of bring-up, one lemma for each of its rows. -/
theorem fabricBringup : Obligations.FabricBringup := by
  unfold Obligations.FabricBringup
  exact ⟨fun s h => next_powered_same (fabricStart_busy h), fun s hp h => ⟨_, next_powered_on hp, fabricStart_begins h⟩,
    fun s h1 hc hs => ⟨bringupPortsSettled_alone h1 hc hs, bringupPortsSettled_partners h1 hc hs⟩, fun s h => bringupPortsSettled_elsewhere h,
    fun s h => originSettled_leaves h, fun s h => (exec_originSettled s).trans (congrArg Host.Outcome.next (if_pos h)),
    fun p u v s hi hp h1 hl hc => bringupFrame_uid hi hp h1 hl hc, fun p b s hi hp h5 hc => bringupFrame_late hi hp h5 hc b,
    fun m l cs s x hc h => ⟨_, rfl, bringupComplete_alone_leaves m l cs hc h⟩,
    fun m l cs s x hc h => ⟨_, rfl, bringupComplete_counted_leaves m l cs hc h⟩,
    fun m l cs s h => congrArg Host.Outcome.next (bringupComplete_held m l cs h)⟩

end Sys2Proof.Machine
end

section
/-! PROOFS. What an access to user stack memory leaves: every register that `noisy` does not name, the host side, and what `aside`
keeps. -/

namespace Sys2Proof.Machine
open Sys2Proof.Laws

variable {s t u : State}

/-! ### Sectors of user stack memory -/

/-- A sector of user stack memory. -/
def UserSector (sec : Nat) : Prop := sec * 256 < userEnd

theorem slicePos_lt (i : Nat) : slicePos i < 4 := by
  have h1 := Nat.mod_lt (clY i) (by decide : 0 < 2)
  have h2 := Nat.mod_lt (clX i) (by decide : 0 < 2)
  rw [slicePos]
  omega

theorem gpcOf_lt (sec : Nat) : gpcOf sec / 32 < 64 := by
  have h1 := stackOfLine_lt (sec / 8)
  have h2 := slicePos_lt (sliceOfLine (sec / 8))
  have h3 := Nat.mod_lt (sec / 8 / 144) (by decide : 0 < 8)
  simp only [gpcOf, pcOfLine]
  omega

/-- A sector of user stack memory lies on one of the stacks, also where its channel has been replaced. -/
theorem placeOf_user {sec : Nat} (s : State) (h : UserSector sec) : (placeOf s sec).1 / 32 < 0x1000 := by
  have hg := gpcOf_lt sec
  unfold UserSector at h
  have hd : dramAddr s (sec * 256) < reserveBase + 0x1000 * 0x80000000 := by
    have hk := stackOfLine_lt (lineOf (sec * 256))
    have hl : locOfLine (lineOf (sec * 256)) < 0x100000 := by
      simp only [locOfLine, lineOf]
      simp only [userEnd] at h
      omega
    unfold dramAddr
    generalize rd s _ = w
    dsimp only
    split
    · next hu => exact absurd h (Nat.not_lt.2 hu)
    · split
      · simp only [relocated, reserveBase]
        split_ifs <;> omega
      · simp only [userEnd, reserveBase] at h ⊢
        omega
  rw [placeOf, if_pos h]
  dsimp only
  split
  · exact lt_trans hg (by decide)
  · simp only [reserveBase] at hd ⊢
    omega

theorem discardSector_user {sec : Nat} (h : UserSector sec) (s : State) : discardSector s sec = s := by
  unfold UserSector at h
  rw [discardSector]
  refine if_pos (.inl ?_)
  simp only [userEnd] at h
  simp only [reserveBase]
  omega

/-! ### What an access leaves -/

/-- The registers that no access writes, and the host side, are as they were. -/
def Calm (s t : State) : Prop := (∀ o, noisy o = false → rd t o = rd s o) ∧ t.host = s.host

theorem Calm.refl (s : State) : Calm s s := ⟨fun _ _ => rfl, rfl⟩

theorem Calm.trans (h : Calm s t) (k : Calm t u) : Calm s u := ⟨fun o ho => (k.1 o ho).trans (h.1 o ho), k.2.trans h.2⟩

theorem Calm.rd (h : Calm s t) {o : Nat} (ho : noisy o = false) : rd t o = rd s o := h.1 o ho
theorem Calm.rdf (h : Calm s t) {o : Nat} (ho : noisy o = false) (f : Fld) : rdf t o f = rdf s o f := rdf_of_rd (h.1 o ho) f
theorem Calm.rdb (h : Calm s t) {o : Nat} (ho : noisy o = false) (f : Fld) : rdb t o f = rdb s o f := rdb_of_rd (h.1 o ho) f

theorem Calm.of_cfg (hc : t.cfg = s.cfg) (hh : t.host = s.host) : Calm s t := ⟨fun o _ => rd_congr hc o, hh⟩

theorem noisy_repStack {k : Nat} (h : k < 0x1000) : noisy (REP_STACK k) = true :=
  noisy_of_repair (by simp only [REP_STACK]; omega) (by simp only [REP_STACK]; omega)

/-- User stack memory ends with a line. -/
theorem userSector_iff (sec : Nat) : UserSector sec ↔ sec / 8 < userEnd / 2048 := by
  have h : userEnd = 2048 * (userEnd / 2048) := by decide
  unfold UserSector
  generalize userEnd / 2048 = n at h ⊢
  rw [h]
  omega

/-- As an invariant of accesses to user stack memory. -/
def calmInv (s : State) : AccessInv where
  holds t := Calm s t
  look o := !noisy o
  seesHost := true
  reach := UserSector
  quiet h := by simpa using h
  line h hk := (userSector_iff _).2 (h ▸ (userSector_iff _).1 hk)
  place s hk := by rw [noisy_repStack (placeOf_user s hk), Bool.not_true]
  frame h _ _ hc hh := ⟨fun o ho => (hc o (by rw [ho, Bool.not_false])).trans (h.1 o ho), (hh rfl).trans h.2⟩
  write _ _ h := h
  lost hk h := by rwa [discardSector_user hk]

theorem calm_vReadSector {sec : Nat} (hk : UserSector sec) (s : State) (who : Reader) (n : Bool) : Calm s (vReadSector s who n sec).2 :=
  vReadSector_kept (calmInv s) hk (.refl s) who n

theorem calm_vWriteSector {a : Nat} (hk : UserSector (a / 256)) (s : State) (n : Bool) (d : List Byte) : Calm s (vWriteSector s n a d) :=
  vWriteSector_kept (calmInv s) hk (.refl s) n d

theorem userSector_of_lt {a : Nat} (h : a < userEnd) : UserSector (a / 256) := lt_of_le_of_lt (Nat.div_mul_le_self a 256) h

theorem regionOf_user {a : Nat} (h : a < userEnd) : regionOf a = .user := if_pos h

theorem calm_sysReadSector {a : Nat} (h : a < userEnd) (s : State) (who : Reader) (n : Nat) : Calm s (sysReadSector s who a n).2 := by
  have hc := calm_vReadSector (userSector_of_lt h) s who false
  rw [sysReadSector, regionOf_user h]
  dsimp only
  generalize vReadSector s who false (a / 256) = r at hc
  split <;> exact hc

theorem calm_sysReadFrom {fuel a n : Nat} (h : a + n ≤ userEnd) (s : State) (who : Reader) : Calm s (sysReadFrom fuel s who a n).2 := by
  induction fuel generalizing s a n with
  | zero => exact .refl s
  | succ k ih =>
    rw [sysReadFrom]
    split
    · exact .refl s
    · next hn =>
      have hc := calm_sysReadSector (a := a) (by omega) s who (min n (256 - a % 256))
      dsimp only
      split
      · next d s1 hr =>
        rw [hr] at hc
        have hrest := ih (a := a + min n (256 - a % 256)) (n := n - min n (256 - a % 256)) (by omega) s1
        split
        · next hr2 =>
          rw [hr2] at hrest
          exact hc.trans hrest
        · next hr2 => exact hc.trans hrest
      · exact hc

theorem calm_sysRead {a n : Nat} (h : a + n ≤ userEnd) (s : State) (req : Requester) (who : Reader) : Calm s (sysRead s req who a n).2 := by
  rw [sysRead]
  split
  · exact .refl s
  · split
    · exact calm_sysReadFrom h s who
    · exact .refl s

theorem calm_engineRead (s : State) (who : Reader) (a n : Nat) : Calm s (engineRead s who a n).2 := by
  rw [engineRead]
  split
  · next h =>
    have hc := calm_sysRead h s .engine who
    split
    all_goals
      next hr =>
        rw [hr] at hc
        exact hc
  · exact .refl s

theorem calm_foldl {α : Type} {f : State → α → State} {xs : List α} (h : ∀ s, ∀ x ∈ xs, Calm s (f s x)) (s : State) : Calm s (xs.foldl f s) := by
  induction xs generalizing s with
  | nil => exact .refl s
  | cons x xs ih => exact (h s x List.mem_cons_self).trans (ih (fun s y hy => h s y (List.mem_cons_of_mem _ hy)) _)

theorem calm_afterRead (s : State) (a n : Nat) : Calm s (afterRead s a n) := by
  rw [afterRead]
  split
  · exact .refl s
  · next h =>
    refine calm_foldl (fun v i hi => calm_vReadSector ?_ v _ _) s
    have := List.mem_range.1 hi
    unfold UserSector
    omega

/-- The pieces of a range of bytes lie in it. -/
theorem mem_sectorPieces {fuel a : Nat} {d : List Byte} {p : Nat × List Byte} (h : p ∈ sectorPieces fuel a d) :
    a ≤ p.1 ∧ p.1 < a + d.length := by
  induction fuel generalizing a d with
  | zero => cases h
  | succ n ih =>
    cases d with
    | nil => cases h
    | cons b r =>
      change p ∈ (a, (b :: r).take (256 - a % 256)) :: sectorPieces n (a + (256 - a % 256)) ((b :: r).drop (256 - a % 256)) at h
      rcases List.mem_cons.1 h with rfl | h
      · exact ⟨le_refl _, Nat.lt_add_of_pos_right (Nat.succ_pos _)⟩
      · obtain ⟨h1, h2⟩ := ih h
        rw [List.length_drop] at h2
        omega

theorem calm_sysWriteSector {a : Nat} (h : a < userEnd) (s : State) (d : List Byte) : Calm s (sysWriteSector s a d).2 := by
  rw [sysWriteSector, regionOf_user h]
  exact calm_vWriteSector (userSector_of_lt h) s false d

theorem calm_sysWrite {a : Nat} {d : List Byte} (h : a + d.length ≤ userEnd) (s : State) (req : Requester) : Calm s (sysWrite s req a d).2 := by
  have hfold : ∀ (ps : List (Nat × List Byte)) (r : VRes × State), (∀ p ∈ ps, p.1 < userEnd) →
      Calm r.2 (ps.foldl (fun (r : VRes × State) p => match r.1 with
        | .data _ => sysWriteSector r.2 p.1 p.2
        | _ => r) r).2 := by
    intro ps
    induction ps with
    | nil => exact fun r _ => .refl r.2
    | cons p ps ih =>
      intro r hp
      refine Calm.trans ?_ (ih _ fun q hq => hp q (List.mem_cons_of_mem _ hq))
      dsimp only
      split
      · exact calm_sysWriteSector (hp p List.mem_cons_self) ..
      · exact .refl _
  rw [sysWrite]
  split
  · exact .refl s
  · split
    · exact hfold _ _ fun p hp => lt_of_lt_of_le (mem_sectorPieces hp).2 h
    · exact .refl s

end Sys2Proof.Machine
end

section
/-! PROOFS. O39: the training step's plan and state (R329, R353), and the layout epochs (R350 to R352). -/

namespace Sys2Proof.Machine
open Sys2Proof.Laws

variable {s t u : State}

/-! ### Loading a plan -/

/-- What a plan that is loaded leaves of the one before. -/
def keptTrain (x : Train) : Train :=
  { draws := x.draws, filler := x.filler, fillerOver := x.fillerOver, reported := x.reported
    onF := x.onF, onB := x.onB, onU := x.onU, started := x.started, opened := x.opened, prefetched := x.prefetched
    foreign := (allStreams.filter (fun u => match u with
      | .F => x.onF.isSome
      | .B => x.onB.isSome
      | .U => x.onU.isSome)).map strNum }

/-- The registers of a plan that is refused. -/
def planRefused (s : State) (r : Nat) : State := wrf (setStepState s 5) CMD_STEP_STATUS CMD_STEP_STATUS_reason r

/-- The registers of a plan that is loaded. -/
def planLoaded (s : State) (e : Nat) : State :=
  wr (wrf (setStepState s 1) CMD_STEP_STATUS CMD_STEP_STATUS_reason 0) CMD_EPOCH_STATUS (BitVec.ofNat 64 (putf CMD_EPOCH_STATUS_in_force e))

/-- The state from which the plan is read. -/
def planAsked (s : State) : State := wr (wr (wr s CMD_STEP_COUNT 0) CMD_SURVEY_STAT 0) CMD_SURVEY_EST 0

/-- The training state of a plan that is loaded. -/
def freshTrain (x : Train) (p : Plan) (by_ : Option (Nat × Nat)) : Train :=
  { keptTrain x with plan := some p, by_ := by_, fNext := (p.firstStep, 0), bNext := (p.firstStep, 0), uNext := p.firstStep }

theorem loadPlan_busy (by_ : Option (Nat × Nat)) (h : stepState s = 2 ∨ stepState s = 3) : loadPlan s by_ = s := if_pos h

theorem loadPlan_read {d : List Byte} (by_ : Option (Nat × Nat)) (h : ¬ (stepState s = 2 ∨ stepState s = 3))
    (hr : engineRead (planAsked s) .requester (rdf s CMD_STEP_PLAN CMD_STEP_PLAN_plan * 128) 128 = (some d, u)) :
    loadPlan s by_ =
      let p := planOfBytes (rdf s CMD_STEP_PLAN CMD_STEP_PLAN_plan * 128) d
      if planRefusal u d p ≠ 0 then planRefused { u with train := { keptTrain s.train with by_ := by_ } } (planRefusal u d p)
      else planLoaded { u with train := freshTrain s.train p by_ } p.epoch := by
  unfold planAsked at hr
  rw [loadPlan, if_neg h]
  dsimp only
  rw [hr]
  rfl

/-- A reason fits its field (Table 10-9). -/
theorem planRefusal_le (s : State) (d : List Byte) (p : Plan) : planRefusal s d p ≤ 4 := by
  rw [planRefusal]
  dsimp only
  repeat' split
  all_goals decide

theorem planRefused_leaves (s : State) {r : Nat} (h : r ≤ 4) : stepState (planRefused s r) = 5
    ∧ rdf (planRefused s r) CMD_STEP_STATUS CMD_STEP_STATUS_reason = r ∧ rd (planRefused s r) CMD_STEP_COUNT = rd s CMD_STEP_COUNT
    ∧ (planRefused s r).mem = s.mem ∧ (planRefused s r).train = s.train := by
  refine ⟨?_, ?_, ?_, ?_, ?_⟩
  · rw [stepState, planRefused, rdf_wrf_field _ _ _ (by decide) (by decide), setStepState, rdf_wrf_self _ _ _ (by decide)]
    decide
  · rw [planRefused, rdf_wrf_self _ _ _ (by decide)]
    exact Nat.mod_eq_of_lt (lt_of_le_of_lt h (by decide))
  · rw [planRefused, rd_wrf_other _ _ _ (by decide), setStepState, rd_wrf_other _ _ _ (by decide)]
  · rw [planRefused, wrf_mem, setStepState, wrf_mem]
  · rw [planRefused, wrf_train, setStepState, wrf_train]

theorem bits_lt_65536 (w : Word) : bits w 63 48 < 65536 := by
  have := w.isLt
  simp only [bits, bitsN]
  omega

theorem planLoaded_leaves (s : State) {e : Nat} (h : e < 65536) : stepState (planLoaded s e) = 1
    ∧ rdf (planLoaded s e) CMD_EPOCH_STATUS CMD_EPOCH_STATUS_in_force = e ∧ rd (planLoaded s e) CMD_STEP_COUNT = rd s CMD_STEP_COUNT
    ∧ (planLoaded s e).mem = s.mem ∧ (planLoaded s e).train = s.train := by
  refine ⟨?_, ?_, ?_, ?_, ?_⟩
  · rw [stepState, planLoaded, rdf_of_rd (rd_wr_other _ _ _ _ (by decide)), rdf_wrf_field _ _ _ (by decide) (by decide), setStepState,
      rdf_wrf_self _ _ _ (by decide)]
    decide
  · rw [planLoaded, rdf, rd_wr_self]
    simp only [getf, putf, CMD_EPOCH_STATUS_in_force, BitVec.toNat_ofNat]
    omega
  · rw [planLoaded, rd_wr_other _ _ _ _ (by decide), rd_wrf_other _ _ _ (by decide), setStepState, rd_wrf_other _ _ _ (by decide)]
  · rw [planLoaded, wr_mem, wrf_mem, setStepState, wrf_mem]
  · rw [planLoaded, wr_train, wrf_train, setStepState, wrf_train]

theorem rd_planAsked_count (s : State) : rd (planAsked s) CMD_STEP_COUNT = 0 := by
  rw [planAsked, rd_wr_other _ _ _ _ (by decide), rd_wr_other _ _ _ _ (by decide), rd_wr_self]

theorem rd_withTrain (s : State) (x : Train) (o : Nat) : rd { s with train := x } o = rd s o := rfl

theorem stepCtrlLoad_read {d : List Byte} (hp : s.boot.pg = true) (h2 : stepState s ≠ 2) (h3 : stepState s ≠ 3)
    (hr : engineRead (planAsked s) .requester (rdf s CMD_STEP_PLAN CMD_STEP_PLAN_plan * 128) 128 = (some d, u)) :
    let p := planOfBytes (rdf s CMD_STEP_PLAN CMD_STEP_PLAN_plan * 128) d
    ∃ t, exec .stepCtrlLoad s = .next t ∧ rd t CMD_STEP_COUNT = 0 ∧ t.mem = u.mem
      ∧ (planRefusal u d p = 0 → stepState t = 1 ∧ t.train.plan = some p ∧ rdf t CMD_EPOCH_STATUS CMD_EPOCH_STATUS_in_force = p.epoch)
      ∧ (planRefusal u d p ≠ 0 → stepState t = 5 ∧ t.train.plan = none ∧ rdf t CMD_STEP_STATUS CMD_STEP_STATUS_reason = planRefusal u d p) := by
  intro p
  have hcount : rd u CMD_STEP_COUNT = 0 := by
    have hc := calm_engineRead (planAsked s) .requester (rdf s CMD_STEP_PLAN CMD_STEP_PLAN_plan * 128) 128
    rw [hr] at hc
    rw [hc.rd (by decide), rd_planAsked_count]
  refine ⟨_, next_powered_on hp, ?_⟩
  rw [loadPlan_read none (by tauto) hr]
  by_cases hz : planRefusal u d p = 0
  · obtain ⟨hstate, hforce, hc, hm, ht⟩ := planLoaded_leaves { u with train := freshTrain s.train p none } (e := p.epoch) (bits_lt_65536 _)
    dsimp only
    rw [if_neg (not_not.2 hz)]
    refine ⟨?_, hm, fun _ => ⟨hstate, ?_, hforce⟩, fun hne => absurd hz hne⟩
    · rw [hc, rd_withTrain, hcount]
    · rw [ht]
      rfl
  · obtain ⟨hstate, hreason, hc, hm, ht⟩ := planRefused_leaves { u with train := { keptTrain s.train with by_ := none } } (planRefusal_le u d p)
    dsimp only
    rw [if_pos hz]
    refine ⟨?_, hm, fun h0 => absurd h0 hz, fun _ => ⟨hstate, ?_, hreason⟩⟩
    · rw [hc, rd_withTrain, hcount]
    · rw [ht]
      rfl

/-! ### Running, pausing and stopping -/

theorem stepState_set (s : State) {n : Nat} (h : n < 16) : stepState (setStepState s n) = n := by
  rw [stepState, setStepState, rdf_wrf_self _ _ _ (by decide)]
  exact Nat.mod_eq_of_lt h

theorem setStepState_onlyRegs {as : List Nat} (h : OnlyRegs s t as) (hm : CMD_STEP_STATUS ∈ as) (n : Nat) : OnlyRegs s (setStepState t n) as :=
  h.wrf hm _ _

theorem rdb_setStepState_ctrl (s : State) (n : Nat) : rdb (setStepState s n) CMD_STEP_CTRL CMD_STEP_CTRL_run = rdb s CMD_STEP_CTRL CMD_STEP_CTRL_run :=
  rdb_of_rd (rd_wrf_other _ _ _ (by decide)) _

theorem stepState_run (s : State) (b : Bool) : stepState (wrb s CMD_STEP_CTRL CMD_STEP_CTRL_run b) = stepState s :=
  rdf_of_rd (rd_wrb_other _ _ _ (by decide)) _

theorem rdb_run (s : State) (b : Bool) : rdb (wrb s CMD_STEP_CTRL CMD_STEP_CTRL_run b) CMD_STEP_CTRL CMD_STEP_CTRL_run = b :=
  rdb_wrb_self _ _ _ (by decide) rfl

theorem stepRun_leaves (s : State) : rdb (stepRun s) CMD_STEP_CTRL CMD_STEP_CTRL_run = true
    ∧ stepState (stepRun s) = (if keepState s < 2 ∧ (stepState s = 1 ∨ stepState s = 3) then 2 else stepState s)
    ∧ OnlyRegs s (stepRun s) [CMD_STEP_CTRL, CMD_STEP_STATUS] := by
  have h1 : OnlyRegs s (wrb s CMD_STEP_CTRL CMD_STEP_CTRL_run true) [CMD_STEP_CTRL, CMD_STEP_STATUS] := (OnlyRegs.self s _).wrb (by decide) _ _
  rw [stepRun]
  split
  · exact ⟨by rw [rdb_setStepState_ctrl, rdb_run], stepState_set _ (by decide), setStepState_onlyRegs h1 (by decide) _⟩
  · exact ⟨rdb_run .., stepState_run .., h1⟩

theorem stepPause_leaves (s : State) : rdb (stepPause s) CMD_STEP_CTRL CMD_STEP_CTRL_run = false
    ∧ stepState (stepPause s) = (if stepState s = 2 then 3 else stepState s)
    ∧ OnlyRegs s (stepPause s) [CMD_STEP_CTRL, CMD_STEP_STATUS] := by
  have h1 : OnlyRegs s (wrb s CMD_STEP_CTRL CMD_STEP_CTRL_run false) [CMD_STEP_CTRL, CMD_STEP_STATUS] := (OnlyRegs.self s _).wrb (by decide) _ _
  rw [stepPause]
  split
  · exact ⟨by rw [rdb_setStepState_ctrl, rdb_run], stepState_set _ (by decide), setStepState_onlyRegs h1 (by decide) _⟩
  · exact ⟨rdb_run .., stepState_run .., h1⟩

theorem stepStop_leaves (s : State) : stepState (stepStop s) = 4 ∧ rd (stepStop s) CMD_STEP_STOP = 0
    ∧ OnlyRegs s (stepStop s) [CMD_STEP_STATUS, CMD_STEP_STOP] := by
  refine ⟨?_, rd_wr_self .., (setStepState_onlyRegs (OnlyRegs.self s _) (by decide) 4).wr (by decide) _⟩
  rw [stepStop, stepState, rdf_of_rd (rd_wr_other _ _ _ _ (by decide))]
  exact stepState_set s (by decide)

/-! ### Layout epochs -/

/-- The request's register. -/
def epochAsked (s : State) (e n : Nat) : State := wr s CMD_EPOCH_REQ (BitVec.ofNat 64 (putf CMD_EPOCH_REQ_epoch e + putf CMD_EPOCH_REQ_step n))

theorem epochAsked_request (s : State) {e n : Nat} (he : e < 2 ^ 16) (hn : n < 2 ^ 32) :
    rdf (epochAsked s e n) CMD_EPOCH_REQ CMD_EPOCH_REQ_epoch = e ∧ rdf (epochAsked s e n) CMD_EPOCH_REQ CMD_EPOCH_REQ_step = n := by
  simp only [epochAsked, rdf, rd_wr_self, getf, putf, CMD_EPOCH_REQ_epoch, CMD_EPOCH_REQ_step, BitVec.toNat_ofNat]
  omega

/-- The request's register and, in the status, its error. -/
theorem epochError_asked (s : State) {e n r : Nat} (he : e < 2 ^ 16) (hn : n < 2 ^ 32) (hr : r < 16) :
    let t := epochError (epochAsked s e n) r
    rdf t CMD_EPOCH_REQ CMD_EPOCH_REQ_epoch = e ∧ rdf t CMD_EPOCH_REQ CMD_EPOCH_REQ_step = n
      ∧ OnlyRegs s t [CMD_EPOCH_REQ, CMD_EPOCH_STATUS]
      ∧ rdf t CMD_EPOCH_STATUS CMD_EPOCH_STATUS_in_force = rdf s CMD_EPOCH_STATUS CMD_EPOCH_STATUS_in_force
      ∧ epochState t = epochState s ∧ rdf t CMD_EPOCH_STATUS CMD_EPOCH_STATUS_error = r := by
  obtain ⟨h1, h2⟩ := epochAsked_request s he hn
  have hreq : rd (epochError (epochAsked s e n) r) CMD_EPOCH_REQ = rd (epochAsked s e n) CMD_EPOCH_REQ := rd_wrf_other _ _ _ (by decide)
  have hst : rd (epochAsked s e n) CMD_EPOCH_STATUS = rd s CMD_EPOCH_STATUS := rd_wr_other _ _ _ _ (by decide)
  refine ⟨(rdf_of_rd hreq _).trans h1, (rdf_of_rd hreq _).trans h2, ((OnlyRegs.self s _).wr (by decide) _).wrf (by decide) _ _, ?_, ?_, ?_⟩
  · exact (rdf_wrf_field _ _ _ (by decide) (by decide)).trans (rdf_of_rd hst _)
  · exact (rdf_wrf_field _ _ _ (by decide) (by decide)).trans (rdf_of_rd hst _)
  · exact (rdf_wrf_self _ _ _ (by decide)).trans (Nat.mod_eq_of_lt hr)

theorem epochRequest_busy (e n : Nat) (h : 1 ≤ epochState s ∧ epochState s ≤ 3) : epochRequest s e n = s := if_pos h

section
variable (h : ¬ (1 ≤ epochState s ∧ epochState s ≤ 3))
include h

theorem epochRequest_inForce {e : Nat} (n : Nat) (he : e = rdf s CMD_EPOCH_STATUS CMD_EPOCH_STATUS_in_force) :
    epochRequest s e n = epochError (epochAsked s e n) 1 := (if_neg h).trans (if_pos he)

theorem epochRequest_badTable {e : Nat} (n : Nat) (he : e ≠ rdf s CMD_EPOCH_STATUS CMD_EPOCH_STATUS_in_force) (hg : remapGood s e = false) :
    epochRequest s e n = epochError (epochAsked (remapRead s) e n) 2 := (if_neg h).trans ((if_neg he).trans (if_pos (by simp [hg])))

theorem epochRequest_taken {e : Nat} (n : Nat) (he : e ≠ rdf s CMD_EPOCH_STATUS CMD_EPOCH_STATUS_in_force) (hg : remapGood s e = true) :
    epochRequest s e n = wrf (epochError (epochAsked (remapRead s) e n) 0) CMD_EPOCH_STATUS CMD_EPOCH_STATUS_state 1 :=
  (if_neg h).trans ((if_neg he).trans (if_neg (by simp [hg])))

/-- What a request that finds no reshard under way leaves. -/
theorem epochRequest_leaves {e n : Nat} (he : e < 2 ^ 16) (hn : n < 2 ^ 32) :
    let t := epochRequest s e n
    rdf t CMD_EPOCH_REQ CMD_EPOCH_REQ_epoch = e ∧ rdf t CMD_EPOCH_REQ CMD_EPOCH_REQ_step = n
      ∧ (let u := if e = rdf s CMD_EPOCH_STATUS CMD_EPOCH_STATUS_in_force then s else remapRead s
         OnlyRegs u t [CMD_EPOCH_REQ, CMD_EPOCH_STATUS]
         ∧ rdf t CMD_EPOCH_STATUS CMD_EPOCH_STATUS_in_force = rdf u CMD_EPOCH_STATUS CMD_EPOCH_STATUS_in_force
         ∧ (e = rdf s CMD_EPOCH_STATUS CMD_EPOCH_STATUS_in_force ∨ remapGood s e = false → epochState t = epochState u))
      ∧ (e = rdf s CMD_EPOCH_STATUS CMD_EPOCH_STATUS_in_force → rdf t CMD_EPOCH_STATUS CMD_EPOCH_STATUS_error = 1)
      ∧ (e ≠ rdf s CMD_EPOCH_STATUS CMD_EPOCH_STATUS_in_force → remapGood s e = false → rdf t CMD_EPOCH_STATUS CMD_EPOCH_STATUS_error = 2)
      ∧ (e ≠ rdf s CMD_EPOCH_STATUS CMD_EPOCH_STATUS_in_force → remapGood s e = true →
          rdf t CMD_EPOCH_STATUS CMD_EPOCH_STATUS_error = 0 ∧ epochState t = 1) := by
  intro t
  by_cases hf : e = rdf s CMD_EPOCH_STATUS CMD_EPOCH_STATUS_in_force
  · obtain ⟨h1, h2, h3, h4, h5, h6⟩ := epochError_asked s he hn (r := 1) (by decide)
    rw [← epochRequest_inForce h n hf] at h1 h2 h3 h4 h5 h6
    rw [if_pos hf]
    exact ⟨h1, h2, ⟨h3, h4, fun _ => h5⟩, fun _ => h6, fun hne => absurd hf hne, fun hne => absurd hf hne⟩
  · rw [if_neg hf]
    cases hg : remapGood s e with
    | false =>
      obtain ⟨h1, h2, h3, h4, h5, h6⟩ := epochError_asked (remapRead s) he hn (r := 2) (by decide)
      rw [← epochRequest_badTable h n hf hg] at h1 h2 h3 h4 h5 h6
      exact ⟨h1, h2, ⟨h3, h4, fun _ => h5⟩, fun hh => absurd hh hf, fun _ _ => h6, fun _ hh => absurd hh (by decide)⟩
    | true =>
      obtain ⟨h1, h2, h3, h4, h5, h6⟩ := epochError_asked (remapRead s) he hn (r := 0) (by decide)
      have ht : t = wrf (epochError (epochAsked (remapRead s) e n) 0) CMD_EPOCH_STATUS CMD_EPOCH_STATUS_state 1 := epochRequest_taken h n hf hg
      rw [ht]
      generalize epochError (epochAsked (remapRead s) e n) 0 = v at h1 h2 h3 h4 h5 h6
      have hreq : rd (wrf v CMD_EPOCH_STATUS CMD_EPOCH_STATUS_state 1) CMD_EPOCH_REQ = rd v CMD_EPOCH_REQ := rd_wrf_other _ _ _ (by decide)
      refine ⟨(rdf_of_rd hreq _).trans h1, (rdf_of_rd hreq _).trans h2,
        ⟨h3.wrf (by decide) _ _, (rdf_wrf_field _ _ _ (by decide) (by decide)).trans h4, fun hh => ?_⟩, fun hh => absurd hh hf,
        fun _ hh => absurd hh (by decide), fun _ _ => ⟨(rdf_wrf_field _ _ _ (by decide) (by decide)).trans h6, ?_⟩⟩
      · rcases hh with hh | hh
        · exact absurd hh hf
        · exact absurd hh (by decide)
      · exact rdf_wrf_self _ _ _ (by decide)

end

theorem exec_epochDrained_held (h : epochState s = 2) (hd : epochDrained s = true) :
    exec .epochDrained s = .next (wrf s CMD_EPOCH_STATUS CMD_EPOCH_STATUS_state 3) := congrArg Host.Outcome.next (if_pos ⟨h, hd⟩)

theorem exec_epochDrained_other (h : epochState s ≠ 2 ∨ epochDrained s = false) : exec .epochDrained s = .next s :=
  congrArg Host.Outcome.next (if_neg fun ⟨h2, hd⟩ => h.elim (fun hn => hn h2) (fun hf => Bool.false_ne_true (hf.symm.trans hd)))

theorem epochCommitWrite_past {n : Nat} (h : n ≤ stageNow s) : epochCommitWrite s n = epochError s 3 := if_pos h
theorem epochCommitWrite_ahead {n : Nat} (h : stageNow s < n) :
    epochCommitWrite s n = epochError (wrf s CMD_EPOCH_COMMIT CMD_EPOCH_COMMIT_stage n) 0 := if_neg (Nat.not_le.2 h)

theorem epochCommitWrite_leaves (s : State) (n : BitVec 48) :
    let t := epochCommitWrite s n.toNat
    OnlyRegs s t [CMD_EPOCH_COMMIT, CMD_EPOCH_STATUS] ∧ epochState t = epochState s
      ∧ (n.toNat ≤ stageNow s → rd t CMD_EPOCH_COMMIT = rd s CMD_EPOCH_COMMIT ∧ rdf t CMD_EPOCH_STATUS CMD_EPOCH_STATUS_error = 3)
      ∧ (stageNow s < n.toNat → rdf t CMD_EPOCH_COMMIT CMD_EPOCH_COMMIT_stage = n.toNat
          ∧ rdf t CMD_EPOCH_STATUS CMD_EPOCH_STATUS_error = 0) := by
  intro t
  have herr : ∀ (v : State) (r : Nat), r < 16 → rdf (epochError v r) CMD_EPOCH_STATUS CMD_EPOCH_STATUS_error = r := fun v r hr =>
    (rdf_wrf_self _ _ _ (by decide)).trans (Nat.mod_eq_of_lt hr)
  have hstate : ∀ (v : State) (r : Nat), epochState (epochError v r) = epochState v := fun v r => rdf_wrf_field _ _ _ (by decide) (by decide)
  have hcommit : ∀ (v : State) (r : Nat), rd (epochError v r) CMD_EPOCH_COMMIT = rd v CMD_EPOCH_COMMIT := fun v r => rd_wrf_other _ _ _ (by decide)
  rcases Nat.lt_or_ge (stageNow s) n.toNat with h | h
  · have ht : t = _ := epochCommitWrite_ahead h
    rw [ht]
    refine ⟨((OnlyRegs.self s _).wrf (by decide) _ _).wrf (by decide) _ _, ?_, fun hh => absurd hh (Nat.not_le.2 h), fun _ => ⟨?_, herr _ _ (by decide)⟩⟩
    · rw [hstate]
      exact rdf_of_rd (rd_wrf_other _ _ _ (by decide)) _
    · rw [rdf_of_rd (hcommit _ _), rdf_wrf_self _ _ _ (by decide)]
      exact Nat.mod_eq_of_lt n.isLt
  · have ht : t = _ := epochCommitWrite_past h
    rw [ht]
    exact ⟨(OnlyRegs.self s _).wrf (by decide) _ _, hstate s 3, fun _ => ⟨hcommit s 3, herr s 3 (by decide)⟩, fun hh => absurd hh (Nat.not_lt.2 h)⟩

/-- Settles O39: the step's states by the registers each row writes, the plan by what reading it leaves. -/
theorem trainingStepAndEpochs : Obligations.TrainingStepAndEpochs := by
  unfold Obligations.TrainingStepAndEpochs
  exact ⟨fun s h => next_powered_same (loadPlan_busy none h), fun s u d hp h2 h3 hr => stepCtrlLoad_read hp h2 h3 hr,
    fun s hp => ⟨_, next_powered_on hp, stepRun_leaves s⟩, fun s hp => ⟨_, next_powered_on hp, stepPause_leaves s⟩,
    fun s hp => ⟨_, next_powered_on hp, stepStop_leaves s⟩,
    fun e n s => ⟨fun h => next_powered_same (epochRequest_busy _ _ h), fun hp h => ⟨_, next_powered_on hp, epochRequest_leaves (by omega) e.isLt n.isLt⟩⟩,
    fun s h hd => ⟨_, exec_epochDrained_held h hd, rdf_wrf_self _ _ _ (by decide), onlyRegs_wrf ..⟩, fun s h => exec_epochDrained_other h,
    fun n s hp => ⟨_, next_powered_on hp, epochCommitWrite_leaves s n⟩⟩

end Sys2Proof.Machine
end

section
/-! PROOFS. O45: collectives (R404 to R411): their queues, their records, the start of a step and the time-out. -/

namespace Sys2Proof.Machine
open Sys2Proof.Laws

variable {s t u v : State}

/-! ### Rings in user stack memory -/

/-- Only user stack memory is of the kind of user stack memory. -/
theorem eq_user_of_kind {r : Region} (h : r.kind = .user) : r = .user := by
  cases r with
  | user => rfl
  | _ => cases h

theorem regionOf_kind_user {a : Nat} (h : (regionOf a).kind = .user) : a < userEnd := by
  by_contra hn
  have hu := eq_user_of_kind h
  rw [regionOf, if_neg hn] at hu
  simp only [ite_eq_iff, reduceCtorEq, and_false, or_false] at hu

/-- A range that begins in user stack memory and that one requester may reach lies in it. -/
theorem rangeOk_user {q : Requester} {a n : Nat} (h : rangeOk q a n = true) (ha : a < userEnd) (hn : 1 < n) : a + n ≤ userEnd := by
  simp only [rangeOk, Bool.and_eq_true, Bool.or_eq_true, decide_eq_true_eq] at h
  obtain ⟨-, h | h⟩ := h
  · omega
  · rw [regionOf_user ha] at h
    have hk : (regionOf (a + n - 1)).kind = .user := by
      split at h
      · next hu _ => cases hu
      · exact (beq_iff_eq.1 h).symm
    have := regionOf_kind_user hk
    omega

theorem bytesOf_length (n v : Nat) : (bytesOf n v).length = n := by
  induction n generalizing v with
  | zero => rfl
  | succ n ih => exact congrArg Nat.succ (ih _)

theorem placed_lt {r : RingCfg} (h : r.placed = true) : r.base + (64 + 2 ^ r.log2 * 64) ≤ userEnd := by
  rw [RingCfg.placed, Bool.and_eq_true, decide_eq_true_eq] at h
  exact rangeOk_user h.1 h.2 (by have := Nat.zero_le (2 ^ r.log2 * 64); omega)

theorem calm_ringConsumed (s : State) (r : RingCfg) (n : Nat) : Calm s (ringConsumed s r n) := by
  rw [ringConsumed]
  split
  · next h =>
    have hp := placed_lt h
    refine calm_sysWrite (a := r.base + 8) ?_ s .engine
    have hlen : (bytesOf 8 (n % 2 ^ 64)).length = 8 := bytesOf_length ..
    rw [hlen]
    omega
  · exact .refl s

theorem fab_of_outer (h : outer t = outer s) : t.fab = s.fab := (congrArg State.fab h : (outer t).fab = _)

theorem fab_ringConsumed (s : State) (r : RingCfg) (n : Nat) : (ringConsumed s r n).fab = s.fab := by
  rw [ringConsumed]
  split
  · exact fab_of_outer (sysWrite_outer ..)
  · rfl

theorem cqReg_quiet {i : Nat} (hi : i < 16) : noisy (CWY_CQ_BASE i) = false ∧ noisy (CWY_CQ_CTRL i) = false := by
  interval_cases i <;> decide

theorem cqRing_of_calm {i : Nat} (hi : i < 16) (h : Calm s t) : cqRing t i = cqRing s i := by
  obtain ⟨hb, hc⟩ := cqReg_quiet hi
  rw [cqRing, h.rdf hb, h.rdb hc, h.rdf hc, cqRing]

theorem cqRing_enable (s : State) (i : Nat) : cqRing (wrb s (CWY_CQ_CTRL i) CWY_CQ_CTRL_enable true) i = { cqRing s i with enable := true } := by
  have hb : rdf (wrb s (CWY_CQ_CTRL i) CWY_CQ_CTRL_enable true) (CWY_CQ_BASE i) ATN_RING_BASE_base = rdf s (CWY_CQ_BASE i) ATN_RING_BASE_base :=
    rdf_of_rd (rd_wrb_other _ _ _ (by simp only [CWY_CQ_BASE, CWY_CQ_CTRL]; omega)) _
  rw [cqRing, hb, rdb_wrb_self _ _ _ (by decide) rfl, rdf_wrb_field _ _ _ (by decide) (by decide), cqRing]

theorem collQueueEnable_enables {i : Nat} (hi : i < 16) (h : rdb s (CWY_CQ_CTRL i) CWY_CQ_CTRL_enable = false) :
    cqRing (collQueueEnable s i) i = { cqRing s i with enable := true } ∧ (collQueueEnable s i).fab = s.fab := by
  have hgo : ¬ (i ≥ 16 ∨ rdb s (CWY_CQ_CTRL i) CWY_CQ_CTRL_enable = true) := by
    simpa [h] using hi
  rw [collQueueEnable, if_neg hgo]
  dsimp only
  exact ⟨by rw [cqRing_of_calm hi (calm_ringConsumed ..), cqRing_enable], by rw [fab_ringConsumed, wrb_fab]⟩

theorem collQueueEnable_ignored {i : Nat} (h : 16 ≤ i ∨ rdb s (CWY_CQ_CTRL i) CWY_CQ_CTRL_enable = true) : collQueueEnable s i = s := if_pos h

/-! ### Records -/

theorem collRecord_ignored {i : Nat} (h : 16 ≤ i ∨ (cqRing s i).enable = false ∨ 2 ≤ keepState s) : collRecord s i = s := by
  rw [collRecord]
  refine if_pos ?_
  simpa using h

/-- A record that is not opened: its status is written and counted. -/
def collRefused (s : State) (d : List Byte) (code : Nat) : State :=
  dropEarly (count (collStatus s (localForm s (wordAt d 5).toNat) (bits (wordAt d 6) 31 0) code) CWY_COUNT CWY_COUNT_coll_failed)
    (bits (wordAt d 6) 31 0)

theorem collRecord_read {i n : Nat} {d : List Byte} (hi : i < 16) (he : (cqRing s i).enable = true) (hk : keepState s < 2)
    (hr : ringNext s (cqRing s i) = .record n d) (hu : u = ringConsumed (ringRead s (cqRing s i)) (cqRing s i) (n + 1)) :
    collRecord s i = (match collOf u d with
      | none => collRefused u d 1
      | some c =>
        if (findColl u c.id).isSome then collRefused u d 1
        else if u.fab.colls.length ≥ 64 then collRefused u d 5
        else if !rdb u CWY_SELF_ID CWY_SELF_ID_id_valid && decide (1 < groupSize u c.key.mask) then collRefused u d 3
        else openColl u c) := by
  have hgo : ¬ (i ≥ 16 ∨ (!(cqRing s i).enable) = true ∨ keepState s ≥ 2) := by
    simpa [he] using ⟨hi, Nat.lt_succ_iff.1 hk⟩
  rw [collRecord, if_neg hgo, hr, hu]
  rfl

theorem localForm_zero (s : State) : localForm s 0 = 0 := by
  rw [localForm, if_neg]
  simp [isGlobal]

theorem bits_all_zero {w : Word} (h : bits w 63 0 = 0) : w.toNat = 0 := by
  have := w.isLt
  simp only [bits, bitsN] at h
  omega

/-- A record without a place for its status only counts. -/
theorem collRefused_uncalled {d : List Byte} (code : Nat) (h : bits (wordAt d 5) 63 0 = 0) :
    collRefused u d code = dropEarly (count u CWY_COUNT CWY_COUNT_coll_failed) (bits (wordAt d 6) 31 0) := by
  rw [collRefused, bits_all_zero h, localForm_zero, collStatus, if_pos rfl]

theorem collRecord_bad {i n : Nat} {d : List Byte} (hi : i < 16) (he : (cqRing s i).enable = true) (hk : keepState s < 2)
    (hr : ringNext s (cqRing s i) = .record n d) (hu : u = ringConsumed (ringRead s (cqRing s i)) (cqRing s i) (n + 1))
    (hc : collOf u d = none) (hz : bits (wordAt d 5) 63 0 = 0) :
    ∃ t, exec (.collectiveRecord i) s = .next (dropEarly t (bits (wordAt d 6) 31 0)) ∧ t.fab = u.fab
      ∧ rdf t CWY_COUNT CWY_COUNT_coll_failed = (rdf u CWY_COUNT CWY_COUNT_coll_failed + 1) % 2 ^ CWY_COUNT_coll_failed.width := by
  have h := collRecord_read hi he hk hr hu
  rw [hc] at h
  refine ⟨count u CWY_COUNT CWY_COUNT_coll_failed, congrArg Host.Outcome.next (h.trans (collRefused_uncalled 1 hz)), count_fab .., ?_⟩
  rw [rdf, rd_count_self, getf_addf_self _ _ (by decide), rdf]

/-- No piece has come early for a collective. -/
theorem takeEarly_none {id : Nat} (h : ∀ e ∈ s.fab.early, e.q.id ≠ id) : (takeEarly s id).fab.colls = s.fab.colls := by
  have hnil : s.fab.early.filter (fun e => e.q.id == id) = [] := List.filter_eq_nil_iff.2 fun e he => by simpa using h e he
  rw [takeEarly, hnil]
  rfl

theorem openColl_colls {c : Coll} (h : ∀ e ∈ s.fab.early, e.q.id ≠ c.id) : ∃ e, (openColl s c).fab.colls = s.fab.colls ++ [e] ∧ e.id = c.id
    ∧ e.key = c.key ∧ e.src = c.src ∧ e.dst = c.dst ∧ e.start = c.start ∧ e.status = c.status := by
  rw [openColl]
  rw [takeEarly_none]
  · exact ⟨_, rfl, rfl, rfl, rfl, rfl, rfl, rfl⟩
  · exact h

theorem collRecord_good {i n : Nat} {d : List Byte} {c : Coll} (hi : i < 16) (he : (cqRing s i).enable = true) (hk : keepState s < 2)
    (hr : ringNext s (cqRing s i) = .record n d) (hu : u = ringConsumed (ringRead s (cqRing s i)) (cqRing s i) (n + 1))
    (hc : collOf u d = some c) (hf : findColl u c.id = none) (hl : u.fab.colls.length < 64) (hv : rdb u CWY_SELF_ID CWY_SELF_ID_id_valid = true) :
    collRecord s i = openColl u c := by
  rw [collRecord_read hi he hk hr hu, hc]
  dsimp only
  rw [hf, if_neg (by decide), if_neg (Nat.not_le.2 hl), hv, Bool.not_true, Bool.false_and, if_neg Bool.false_ne_true]

/-! ### The start of a step -/

/-- The collectives and the pieces that came early. -/
def collsOf (s : State) : List Coll × List EarlyFrame := (s.fab.colls, s.fab.early)

theorem collsOf_of_fab (h : t.fab = s.fab) : collsOf t = collsOf s := by rw [collsOf, h, collsOf]

theorem fab_of_offPlan (h : offPlan t = offPlan s) : t.fab = s.fab := (congrArg State.fab h : (offPlan t).fab = _)

theorem collsOf_of_offWire (h : offWire t = offWire s) : collsOf t = collsOf s :=
  (congrArg (fun v : State => (v.fab.colls, v.fab.early)) h : collsOf (offWire t) = _)

theorem fab_pieceBytes (s : State) (c : Coll) (q : PieceId) : (pieceBytes s c q).2.fab = s.fab := by
  rw [pieceBytes]
  refine List.foldlRecOn (motive := fun r : List Byte × State => r.2.fab = s.fab) _ _ rfl fun r hr seg _ => ?_
  have hread := fab_of_offPlan (engineRead_offPlan r.2 .requester seg.1 seg.2)
  generalize engineRead r.2 .requester seg.1 seg.2 = x at hread ⊢
  split <;> exact hread.trans hr

theorem collsOf_sendPiece (s : State) (c : Coll) (q : PieceId) : collsOf (sendPiece s c q) = collsOf s := by
  have hb := fab_pieceBytes s c q
  rw [sendPiece]
  generalize pieceBytes s c q = x at hb
  refine (foldl_keeps collsOf (fun v f => ?_) _ _).trans (collsOf_of_fab hb)
  dsimp only
  split
  · exact collsOf_of_offWire (putOnPort_offWire ..)
  · exact collsOf_of_fab (count_fab ..)

/-- One range of the caller's own data is put in place. -/
def copyRange (s : State) (a b n : Nat) : State :=
  if a = b then s
  else match engineRead s .requester a n with
    | (some d, s1) => (sysWrite s1 .engine b d).2
    | (none, s1) => let (d, s2) := freeBytes s1 n; (sysWrite s2 .engine b d).2

theorem fab_copyRange (s : State) (a b n : Nat) : (copyRange s a b n).fab = s.fab := by
  have hread := fab_of_offPlan (engineRead_offPlan s .requester a n)
  rw [copyRange]
  split
  · rfl
  · generalize engineRead s .requester a n = x at hread ⊢
    split
    · exact (fab_of_outer (sysWrite_outer ..)).trans hread
    · exact (fab_of_outer (sysWrite_outer ..)).trans hread

theorem copyOwn_eq (s : State) (c : Coll) : copyOwn s c = match c.key.op with
    | 1 => copyRange s c.src (chunkHome s c 0) (groupSize s c.key.mask * c.key.c)
    | 2 => copyRange s c.src (c.dst + ownRank s c.key.mask * c.key.c) c.key.c
    | 3 => copyRange s c.src c.dst (groupSize s c.key.mask * c.key.c)
    | 4 => if c.key.root = ownRank s c.key.mask then copyRange s c.src c.dst c.key.c else s
    | _ => copyRange s (c.src + ownRank s c.key.mask * c.key.c) (c.dst + ownRank s c.key.mask * c.key.c) c.key.c := rfl

theorem fab_copyOwn (s : State) (c : Coll) : (copyOwn s c).fab = s.fab := by
  rw [copyOwn_eq]
  split
  · exact fab_copyRange ..
  · exact fab_copyRange ..
  · exact fab_copyRange ..
  · split
    · exact fab_copyRange ..
    · rfl
  · exact fab_copyRange ..

theorem findColl_of_colls (h : t.fab.colls = s.fab.colls) (n : Nat) : findColl t n = findColl s n := by rw [findColl, h, findColl]

theorem id_of_findColl {n : Nat} {c : Coll} (h : findColl s n = some c) : c.id = n := by
  have := List.find?_some h
  simpa using this

/-- The collective put in place of the one of its ID is found there. -/
theorem findColl_putColl {n : Nat} {c c1 : Coll} (h : findColl s n = some c) (hid : c1.id = n) : findColl (putColl s c1) n = some c1 := by
  have hgen : ∀ cs : List Coll, cs.find? (fun x => x.id == n) = some c →
      (cs.map (fun x => if x.id = c1.id then c1 else x)).find? (fun x => x.id == n) = some c1 := by
    intro cs
    induction cs with
    | nil => exact fun h => nomatch h
    | cons x xs ih =>
      intro hx
      rw [List.map_cons]
      by_cases hn : x.id = n
      · rw [if_pos (hn.trans hid.symm), List.find?_cons_of_pos (by simpa using hid)]
      · rw [if_neg fun he => hn (he.trans hid), List.find?_cons_of_neg (by simpa using hn)]
        exact ih (by rwa [List.find?_cons_of_neg (by simpa using hn)] at hx)
  exact hgen _ h

/-- The record of a step that has started. -/
def stepRunning (s : State) (c : Coll) (qs : List PieceId) : Coll :=
  { c with copied := true, running := true, stage := stageNow s, unacked := c.unacked ++ qs }

/-- The state in which a step's own data is in place. -/
def ownCopied (s : State) (c : Coll) : State := if c.copied then s else copyOwn s c

theorem fab_ownCopied (s : State) (c : Coll) : (ownCopied s c).fab = s.fab := by
  rw [ownCopied]
  split
  · rfl
  · exact fab_copyOwn s c

theorem stepStart_starts {n : Nat} {c : Coll} {st : Nat × Nat × Nat} (hf : findColl s n = some c) (hr : c.running = false) (hk : keepState s < 2)
    (hb : s.boot.rb = 0) (hst : (collSteps s c.key)[c.pos]? = some st) (hfit : stepFits s c (stepSends s c st) = true)
    (hh : portHeld s c (stepSends s c st) = false)
    (hroute : ∀ q ∈ stepSends s c st, (pieceRoute s c.key q (pieceHdr s q 5 3 0 (pieceDst s c q) 0)).isSome = true) :
    stepStart s n = advanceColl (takeEarly ((stepSends s c st).foldl (fun v q => sendPiece v (stepRunning s c (stepSends s c st)) q)
      (putColl (ownCopied s c) (stepRunning s c (stepSends s c st)))) n) n := by
  have hany : ((stepSends s c st).any fun q => (pieceRoute s c.key q (pieceHdr s q 5 3 0 (pieceDst s c q) 0)).isNone) = false :=
    List.any_eq_false.2 fun q hq => by simpa using Option.isSome_iff_ne_none.1 (hroute q hq)
  have hgo : ¬ (c.running || decide (keepState s ≥ 2) || s.boot.rb != 0) = true := by simp [hr, hb, hk]
  rw [stepStart, hf]
  dsimp only
  rw [if_neg hgo, hst]
  dsimp only
  rw [hfit, hh, if_neg (by decide), hany, if_neg Bool.false_ne_true]
  rfl

theorem collectiveStepStart_starts {n : Nat} {c : Coll} {st : Nat × Nat × Nat} (hf : findColl s n = some c) (hr : c.running = false)
    (hk : keepState s < 2) (hb : s.boot.rb = 0) (hst : (collSteps s c.key)[c.pos]? = some st)
    (hfit : stepFits s c (stepSends s c st) = true) (hh : portHeld s c (stepSends s c st) = false)
    (hroute : ∀ q ∈ stepSends s c st, (pieceRoute s c.key q (pieceHdr s q 5 3 0 (pieceDst s c q) 0)).isSome = true)
    (he : ∀ e ∈ s.fab.early, e.q.id ≠ n) : ∃ t, exec (.collectiveStepStart n) s = .next (advanceColl t n)
      ∧ findColl t n = some { c with copied := true, running := true, stage := stageNow s, unacked := c.unacked ++ stepSends s c st } := by
  refine ⟨_, congrArg Host.Outcome.next (stepStart_starts hf hr hk hb hst hfit hh hroute), ?_⟩
  have hcolls : collsOf ((stepSends s c st).foldl (fun v q => sendPiece v (stepRunning s c (stepSends s c st)) q)
      (putColl (ownCopied s c) (stepRunning s c (stepSends s c st)))) = collsOf (putColl (ownCopied s c) (stepRunning s c (stepSends s c st))) :=
    foldl_keeps collsOf (fun v q => collsOf_sendPiece ..) _ _
  generalize (stepSends s c st).foldl _ _ = w at hcolls ⊢
  have hearly : w.fab.early = s.fab.early := calc
    w.fab.early = (putColl (ownCopied s c) (stepRunning s c (stepSends s c st))).fab.early := congrArg Prod.snd hcolls
    _ = (ownCopied s c).fab.early := rfl
    _ = s.fab.early := congrArg Fab.early (fab_ownCopied s c)
  have hid : (stepRunning s c (stepSends s c st)).id = n := id_of_findColl (c := c) hf
  rw [findColl_of_colls (takeEarly_none (by rwa [hearly])), findColl_of_colls (congrArg Prod.fst hcolls)]
  refine findColl_putColl (c := c) ?_ hid
  rw [findColl_of_colls (congrArg Fab.colls (fab_ownCopied s c)), hf]

theorem exec_collective_unknown {n : Nat} (h : findColl s n = none) : exec (.collectiveStepStart n) s = .next s ∧ exec (.collectiveTimeout n) s = .next s := by
  refine ⟨congrArg Host.Outcome.next ?_, ?_⟩
  · rw [stepStart, h]
  · change execCollectiveTimeout n s = _
    rw [execCollectiveTimeout, h]

theorem exec_collectiveTimeout {n : Nat} {c : Coll} {st : Nat × Nat × Nat} {q : PieceId} (hf : findColl s n = some c)
    (hst : (collSteps s c.key)[c.pos]? = some st) (hq : q ∈ stepExpects s c st) (hg : q ∉ c.got) :
    exec (.collectiveTimeout n) s = .next (endColl s c 4) := by
  change execCollectiveTimeout n s = _
  rw [execCollectiveTimeout, hf]
  dsimp only
  rw [hst]
  dsimp only
  rw [if_neg]
  intro hall
  exact hg (List.contains_iff_mem.1 (List.all_eq_true.1 hall q hq))

/-- Settles O45: queues and records by what a ring's accesses leave, the start of a step by what its own pieces change. -/
theorem collectives : Obligations.Collectives := by
  unfold Obligations.Collectives
  exact ⟨fun i s hi hp h => ⟨_, next_powered_on hp, collQueueEnable_enables hi h⟩, fun i s h => next_powered_same (collQueueEnable_ignored h),
    fun i s h => congrArg Host.Outcome.next (collRecord_ignored h),
    fun i n d s hi he hk hr => ⟨fun hc hz => collRecord_bad hi he hk hr rfl hc hz, fun c hc hf hl hv hearly => by
      obtain ⟨e, h1, h2⟩ := openColl_colls hearly
      exact ⟨_, e, congrArg Host.Outcome.next (collRecord_good hi he hk hr rfl hc hf hl hv), h1, h2⟩⟩,
    fun n c st s hf hr hk hb hst hfit hh hroute he => collectiveStepStart_starts hf hr hk hb hst hfit hh hroute he,
    fun n s h => exec_collective_unknown h, fun n c st q s hf hst hq hg => exec_collectiveTimeout hf hst hq hg⟩

end Sys2Proof.Machine
end

section
/-! PROOFS. O35: the external tick, timing requests and the loss of the root (R56 to R63, R81 to R84). -/

namespace Sys2Proof.Machine
open Sys2Proof.Laws

variable {s t u : State} {o : Nat}

/-! ### What may be stretched -/

/-- From s to t no register changes but for the stretch of the stage in MST_STATUS. -/
def StretchOnly (s t : State) : Prop :=
  (∀ o, o ≠ MST_STATUS → rd t o = rd s o)
  ∧ ∀ f : Fld, f.lo + f.width ≤ 2 ∨ 3 ≤ f.lo → rdb t MST_STATUS f = rdb s MST_STATUS f

namespace StretchOnly

theorem of_cfg (h : t.cfg = s.cfg) : StretchOnly s t := ⟨fun o _ => rd_congr h o, fun _ _ => rdb_of_rd (rd_congr h _) _⟩

theorem refl (s : State) : StretchOnly s s := of_cfg rfl

theorem trans (h : StretchOnly s t) (h' : StretchOnly t u) : StretchOnly s u :=
  ⟨fun o ho => (h'.1 o ho).trans (h.1 o ho), fun f hf => (h'.2 f hf).trans (h.2 f hf)⟩

theorem of_offWire (h : offWire t = offWire s) : StretchOnly s t := of_cfg (cfg_of_offWire h)

theorem of_offRelease (h : offRelease t = offRelease s) : StretchOnly s t := of_cfg (cfg_of_offRelease h)

theorem leadNs (h : StretchOnly s t) : leadNs t = leadNs s := rdf_of_rd (h.1 _ (by decide)) _

end StretchOnly

theorem stretchOnly_stretchNow (s : State) : StretchOnly s (stretchNow s) := by
  rw [stretchNow]
  split
  · exact ⟨fun o ho => rd_wrb_other _ _ _ ho, fun f hf => rdb_wrb_field _ _ _ (by decide) hf⟩
  · exact .refl s

theorem stretchOnly_seeLate (s : State) : StretchOnly s (seeLate s) := by
  rw [seeLate]
  split
  · exact .refl s
  · exact (StretchOnly.of_cfg rfl).trans (stretchOnly_stretchNow _)

theorem stretchOnly_tryClear (s : State) : StretchOnly s (tryClear s) := .of_offRelease (tryClear_offRelease s)

/-- The members are told of a scheduled time. -/
def scheduleTold (s : State) (n : Nat) : State := announce (stretchNow (modMst s (fun m => { m with due := some n }))) [n, 0, 1]

theorem scheduleTold_mst (s : State) (n : Nat) : (scheduleTold s n).mst = { s.mst with due := some n } := by
  rw [scheduleTold, mst_of_offWire (announce_offWire ..), stretchNow]
  split <;> rfl

theorem stretchOnly_scheduleTold (s : State) (n : Nat) : StretchOnly s (scheduleTold s n) := by
  have h := stretchOnly_stretchNow (modMst s (fun m => { m with due := some n }))
  rw [scheduleTold]
  exact StretchOnly.trans (t := modMst s (fun m => { m with due := some n })) (.of_cfg rfl) (h.trans (.of_offWire (announce_offWire ..)))

theorem schedule_eq (s : State) (n : Nat) (early : Bool) : schedule s n early = (
    if early && !(scheduleTold s n).mst.sampled then sampleLate (modMst (scheduleTold s n) (fun m => { m with slotOver := true }))
    else if (scheduleTold s n).mst.seen then tryClear (scheduleTold s n) else scheduleTold s n) := rfl

theorem tickLost_of_offRelease (h : offRelease t = offRelease s) : t.mst.tickLost = s.mst.tickLost :=
  (congrArg (fun v : State => v.mst.tickLost) h : (offRelease t).mst.tickLost = _)
theorem sampled_of_offRelease (h : offRelease t = offRelease s) : t.mst.sampled = s.mst.sampled :=
  (congrArg (fun v : State => v.mst.sampled) h : (offRelease t).mst.sampled = _)
theorem slotOver_of_offRelease (h : offRelease t = offRelease s) : t.mst.slotOver = s.mst.slotOver :=
  (congrArg (fun v : State => v.mst.slotOver) h : (offRelease t).mst.slotOver = _)

/-- A schedule that is not early takes no sample. -/
theorem stretchOnly_schedule (s : State) (n : Nat) : StretchOnly s (schedule s n false) ∧ (schedule s n false).mst.tickLost = s.mst.tickLost := by
  have hm := scheduleTold_mst s n
  have hk := stretchOnly_scheduleTold s n
  rw [schedule_eq, Bool.false_and, if_neg Bool.false_ne_true]
  split
  · exact ⟨hk.trans (stretchOnly_tryClear _), by rw [tickLost_of_offRelease (tryClear_offRelease _), hm]⟩
  · exact ⟨hk, by rw [hm]⟩

/-- What the late sample leaves of the stage. -/
theorem seeLate_marks (s : State) : (seeLate s).mst.tickLost = s.mst.tickLost ∧ (seeLate s).mst.sampled = s.mst.sampled
    ∧ (seeLate s).mst.slotOver = s.mst.slotOver := by
  rw [seeLate]
  split
  · exact ⟨rfl, rfl, rfl⟩
  · rw [stretchNow]
    split <;> exact ⟨rfl, rfl, rfl⟩

/-- The sample of s has been taken in v. -/
def SampledOf (s v : State) : Prop := v.mst.sampled = true ∧ v.mst.slotOver = s.mst.slotOver ∧ v.mst.tickLost = s.mst.tickLost

theorem SampledOf.of_mst (h : SampledOf s t) (hm : u.mst = t.mst) : SampledOf s u := by
  rw [SampledOf, hm]
  exact h

theorem SampledOf.tryClear (h : SampledOf s t) : SampledOf s (tryClear t) := by
  obtain ⟨h1, h2, h3⟩ := h
  have hv := tryClear_offRelease t
  exact ⟨(sampled_of_offRelease hv).trans h1, (slotOver_of_offRelease hv).trans h2, (tickLost_of_offRelease hv).trans h3⟩

theorem SampledOf.seeLate (h : SampledOf s t) : SampledOf s (seeLate t) := by
  obtain ⟨h1, h2, h3⟩ := h
  obtain ⟨k1, k2, k3⟩ := seeLate_marks t
  exact ⟨k2.trans h1, k3.trans h2, k1.trans h3⟩

theorem sampleLate_marks (s : State) : SampledOf s (sampleLate s) := by
  have hp := mst_of_offPlan (planEvaluate_offPlan s)
  rw [sampleLate]
  generalize planEvaluate s = w at hp ⊢
  have hover : w.mst.slotOver = s.mst.slotOver := congrArg Mst.slotOver hp
  have hlost : w.mst.tickLost = s.mst.tickLost := congrArg Mst.tickLost hp
  have hfirst : SampledOf s (modMst w (fun m => { m with sampled := true, late := lateHolds w })) := ⟨rfl, hover, hlost⟩
  have hlate : ∀ b x, SampledOf s (modFab (wrb (seeLate (modMst w (fun m => { m with sampled := true, late := lateHolds w })))
      MST_STATUS MST_STATUS_late_local b) (fun f => { f with lateFor := x })) := fun b x => hfirst.seeLate.of_mst rfl
  split
  · split
    · exact hfirst.tryClear
    · exact hfirst
  · split
    · exact (hlate _ _).tryClear
    · exact ((hlate _ _).of_mst (mst_of_offWire (floodLate_offWire ..))).tryClear

theorem schedule_marks (s : State) (n : Nat) (early : Bool) : (schedule s n early).mst.tickLost = s.mst.tickLost
    ∧ (early = true → (schedule s n early).mst.sampled = true ∧ (s.mst.sampled = false → (schedule s n early).mst.slotOver = true)) := by
  cases early with
  | false => exact ⟨(stretchOnly_schedule s n).2, fun h => absurd h Bool.false_ne_true⟩
  | true =>
    have hm := scheduleTold_mst s n
    have hlost : (scheduleTold s n).mst.tickLost = s.mst.tickLost := by rw [hm]
    have hsam : (scheduleTold s n).mst.sampled = s.mst.sampled := by rw [hm]
    rw [schedule_eq, Bool.true_and]
    by_cases hs : (scheduleTold s n).mst.sampled = true
    · have hs' : s.mst.sampled = true := hsam.symm.trans hs
      rw [hs, Bool.not_true, if_neg Bool.false_ne_true, hs']
      have hv := tryClear_offRelease (scheduleTold s n)
      split
      · exact ⟨(tickLost_of_offRelease hv).trans hlost,
          fun _ => ⟨(sampled_of_offRelease hv).trans hs, fun h => absurd h.symm Bool.false_ne_true⟩⟩
      · exact ⟨hlost, fun _ => ⟨hs, fun h => absurd h.symm Bool.false_ne_true⟩⟩
    · rw [Bool.eq_false_iff.2 hs, Bool.not_false, if_pos rfl]
      obtain ⟨h1, h2, h3⟩ := sampleLate_marks (modMst (scheduleTold s n) (fun m => { m with slotOver := true }))
      exact ⟨h3.trans hlost, fun _ => ⟨h1, fun _ => h2⟩⟩

/-! ### Edges -/

theorem advanceTo_mst (s : State) (n : Nat) : (advanceTo s n).mst = s.mst := rfl

theorem periodNs_advanceTo (s : State) (n : Nat) : periodNs (advanceTo s n) = periodNs s := rdf_of_rd (rd_advanceTo_other s n (by decide)) _

theorem leadNs_advanceTo (s : State) (n : Nat) : leadNs (advanceTo s n) = leadNs s := rdf_of_rd (rd_advanceTo_other s n (by decide)) _

theorem nominal_advanceTo (s : State) (n : Nat) : nominal (advanceTo s n) = nominal s := by
  rw [nominal, periodNs_advanceTo, advanceTo_mst, nominal]

/-- An edge at e finds the stage stretched. -/
def edgeStretched (s : State) (e : Nat) : Bool :=
  s.mst.seen && (match s.mst.due with
    | some d => decide (d ≤ e)
    | none => false)

theorem edgeStretched_iff {e : Nat} : edgeStretched s e = true ↔ s.mst.seen = true ∧ ∃ d ∈ s.mst.due, d ≤ e := by
  rw [edgeStretched, Bool.and_eq_true]
  cases s.mst.due with
  | none => simp
  | some d => simp

/-- An edge is ignored. -/
def EdgeIgnored (s : State) (e : Nat) : Prop :=
  (s.mst.due.isSome = true ∧ ¬ s.mst.tickLost = true) ∨ edgeStretched s e = true ∨ 2 * e < 2 * s.mst.opened + periodNs s

section Edge
variable (hp : takesPart s = true) (hr : isRoot s = true) (ht : tickInput s = true) (hj : s.mst.joined = true)
include hp hr ht hj

theorem tickEdge_taken {e : Nat} (h : ¬ EdgeIgnored s e) : tickEdge s e
    = schedule (modMst (advanceTo s e) (fun m => { m with tickLost := false })) (e + leadNs s) (decide (e < nominal s - leadNs s)) := by
  rw [tickEdge, hp, hr, ht, hj, if_neg (by decide)]
  dsimp only
  rw [periodNs_advanceTo, leadNs_advanceTo, nominal_advanceTo, advanceTo_mst]
  exact if_neg h

theorem tickEdge_ignored {e : Nat} (h : EdgeIgnored s e) :
    tickEdge s e = raiseLevel (advanceTo s e) 2 MST_STATUS MST_STATUS_tick_ignored := by
  rw [tickEdge, hp, hr, ht, hj, if_neg (by decide)]
  dsimp only
  rw [periodNs_advanceTo, advanceTo_mst]
  exact if_pos h

theorem tickMissed_schedules (hd : s.mst.due = none) : tickMissed s
    = schedule (raiseLevel (modMst (advanceTo s (s.mst.opened + 2 * periodNs s)) (fun m => { m with tickLost := true })) 1 MST_STATUS
        MST_STATUS_tick_missed) (s.mst.opened + 2 * periodNs s) false := by
  rw [tickMissed, hp, hr, ht, hj, hd]
  rfl

end Edge

/-- A level that a bit of a register holds. -/
theorem rdb_raiseLevel_self (s : State) {n off : Nat} {f : Fld} (h : NotPba off) (hf : f.lo + f.width ≤ 64) (hw : f.width = 1) :
    rdb (raiseLevel s n off f) off f = true := by
  rw [raiseLevel, rdb, rd_signalSource_if _ _ _ h, rd_wrb_self, getb_setb_self _ _ _ hf hw]

theorem msTickEdge_taken {e : Nat} (hp : takesPart s = true) (hr : isRoot s = true) (ht : tickInput s = true) (hj : s.mst.joined = true)
    (h : ¬ EdgeIgnored s e) : ∃ t, exec (.msTickEdge e) s = .next t ∧ t.mst.due = some (e + leadNs s) ∧ t.mst.tickLost = false
      ∧ (e < nominal s - leadNs s → t.mst.sampled = true ∧ (s.mst.sampled = false → t.mst.slotOver = true)) := by
  refine ⟨_, congrArg Host.Outcome.next (tickEdge_taken hp hr ht hj h), schedule_due .., ?_⟩
  obtain ⟨h1, h2⟩ := schedule_marks (modMst (advanceTo s e) (fun m => { m with tickLost := false })) (e + leadNs s) (decide (e < nominal s - leadNs s))
  exact ⟨h1, fun he => h2 (decide_eq_true he)⟩

theorem msTickEdge_ignored {e : Nat} (hp : takesPart s = true) (hr : isRoot s = true) (ht : tickInput s = true) (hj : s.mst.joined = true)
    (h : EdgeIgnored s e) : ∃ t, exec (.msTickEdge e) s = .next t ∧ rdb t MST_STATUS MST_STATUS_tick_ignored = true ∧ t.mst = s.mst := by
  refine ⟨_, congrArg Host.Outcome.next (tickEdge_ignored hp hr ht hj h), rdb_raiseLevel_self _ (.inl (by decide)) (by decide) rfl, ?_⟩
  rw [raiseLevel_mst, advanceTo_mst]

theorem tickMissed_leaves (hp : takesPart s = true) (hr : isRoot s = true) (ht : tickInput s = true) (hj : s.mst.joined = true)
    (hd : s.mst.due = none) : ∃ t, exec .tickMissed s = .next t ∧ t.mst.due = some (s.mst.opened + 2 * periodNs s) ∧ t.mst.tickLost = true
      ∧ rdb t MST_STATUS MST_STATUS_tick_missed = true := by
  refine ⟨_, congrArg Host.Outcome.next (tickMissed_schedules hp hr ht hj hd), schedule_due .., ?_⟩
  generalize hw : modMst (advanceTo s (s.mst.opened + 2 * periodNs s)) (fun m => { m with tickLost := true }) = w
  have hlost : w.mst.tickLost = true := by rw [← hw]; rfl
  obtain ⟨h1, h2⟩ := stretchOnly_schedule (raiseLevel w 1 MST_STATUS MST_STATUS_tick_missed) (s.mst.opened + 2 * periodNs s)
  exact ⟨by rw [h2, raiseLevel_mst, hlost],
    by rw [h1.2 _ (.inr (by decide)), rdb_raiseLevel_self _ (.inl (by decide)) (by decide) rfl]⟩

/-! ### The mode of the pin -/

theorem stretchOnly_leaveInput (s : State) : StretchOnly s (leaveInput s) := by
  rw [leaveInput]
  split
  · exact (stretchOnly_schedule _ _).1
  · exact .refl s

theorem enterInput_eq (s : State) : enterInput s = (
    if takesPart s && isRoot s && s.mst.joined && s.mst.release.isNone && !edgeStretched s (now s) then
      modMst s (fun m => { m with due := none, tickLost := false })
    else modMst s (fun m => { m with tickLost := false })) := rfl

theorem enterInput_cfg (s : State) : (enterInput s).cfg = s.cfg := by
  rw [enterInput_eq]
  split <;> rfl

theorem enterInput_due (hp : takesPart s = true) (hr : isRoot s = true) (hj : s.mst.joined = true) (hl : s.mst.release = none)
    (hs : s.mst.seen = false) : (enterInput s).mst.due = none := by
  rw [enterInput_eq, hp, hr, hj, hl, edgeStretched, hs]
  rfl

/-- The pin in mode n, claimed. -/
def pinWord (s : State) (n : Nat) : Word :=
  setb (setb (setf (rd s MST_TICK_PIN) MST_TICK_PIN_mode n) MST_TICK_PIN_claimed true) MST_TICK_PIN_conflict false

theorem pinWord_fields (s : State) {n : Nat} (hn : n < 4) : getf (pinWord s n) MST_TICK_PIN_mode = n
    ∧ getb (pinWord s n) MST_TICK_PIN_claimed = true ∧ getb (pinWord s n) MST_TICK_PIN_conflict = false := by
  refine ⟨?_, ?_, ?_⟩
  · rw [pinWord, getf_setb_other _ _ _ _ (by decide) (by decide), getf_setb_other _ _ _ _ (by decide) (by decide), getf_setf_self _ _ _ (by decide)]
    exact Nat.mod_eq_of_lt hn
  · rw [pinWord, getb_setb_other _ _ _ _ (by decide) (by decide), getb_setb_self _ _ _ (by decide) rfl]
  · rw [pinWord, getb_setb_self _ _ _ (by decide) rfl]

/-- The stage goes over to the timing of the mode that the pin takes. -/
def stageTurned (s : State) (n : Nat) : State := if n = 2 then leaveInput s else if tickInput s then s else enterInput s

/-- The pin holds the mode and the status says whether milestones follow it. -/
def pinHeld (s0 s : State) (w : Word) (n : Nat) : State :=
  if isRoot s0 then wrb (wr s MST_TICK_PIN w) MST_STATUS MST_STATUS_tick_external (n == 1) else wr s MST_TICK_PIN w

theorem stretchOnly_stageTurned (s : State) (n : Nat) : StretchOnly s (stageTurned s n) := by
  rw [stageTurned]
  split
  · exact stretchOnly_leaveInput s
  · split
    · exact .refl s
    · exact .of_cfg (enterInput_cfg s)

theorem pinHeld_mst (s0 s : State) (w : Word) (n : Nat) : (pinHeld s0 s w n).mst = s.mst := by
  rw [pinHeld]
  split <;> rfl

theorem rd_pinHeld (s0 s : State) (w : Word) (n : Nat) : rd (pinHeld s0 s w n) MST_TICK_PIN = w
    ∧ ∀ o, o ≠ MST_TICK_PIN → o ≠ MST_STATUS → rd (pinHeld s0 s w n) o = rd s o := by
  rw [pinHeld]
  split
  · exact ⟨by rw [rd_wrb_other _ _ _ (by decide), rd_wr_self], fun o h1 h2 => by rw [rd_wrb_other _ _ _ h2, rd_wr_other _ _ _ _ h1]⟩
  · exact ⟨rd_wr_self .., fun o h1 _ => rd_wr_other _ _ _ _ h1⟩

/-- Resource 0 is owned by n. -/
def pinOwned (s : State) (n : Nat) : State := wrf s (SEC_OWN 0) SEC_OWN_owner n

theorem tickMode_claims {n : Nat} (hn : n = 1 ∨ n = 2) (ho : rdf s (SEC_OWN 0) SEC_OWN_owner = 0) :
    tickMode s n = pinHeld s (stageTurned (pinOwned s n) n) (pinWord (pinOwned s n) n) n := by
  have hw : Wins s 0 n := wins_iff.2 (by rw [ho]; rcases hn with rfl | rfl <;> rfl)
  rw [tickMode, if_neg (by omega), if_neg (by omega), claimRes_won hw]
  rfl

theorem tickMode_refused {n : Nat} (hn : n = 1 ∨ n = 2) (h0 : rdf s (SEC_OWN 0) SEC_OWN_owner ≠ 0)
    (h1 : rdf s (SEC_OWN 0) SEC_OWN_owner ≠ n) : tickMode s n
      = wrb (countSat (wrf s (SEC_OWN 0) SEC_OWN_last_refused n) (SEC_OWN 0) SEC_OWN_conflicts) MST_TICK_PIN MST_TICK_PIN_conflict true := by
  have hw : ¬ Wins s 0 n := fun h => by
    have := wins_iff.1 h
    simp [h0, h1] at this
  rw [tickMode, if_neg (by omega), if_neg (by omega), claimRes_lost hw]

theorem execTickMode_ready {m : BitVec 2} (h : deviceReady s = true) : exec (.mstTickModeWrite m) s = .next (tickMode s m.toNat) :=
  congrArg Host.Outcome.next (if_pos h)

theorem member_parts (h : member s = true) : takesPart s = true ∧ s.mst.joined = true ∧ deviceReady s = true := by
  rw [member, Bool.and_eq_true] at h
  obtain ⟨hp, hj⟩ := h
  refine ⟨hp, hj, ?_⟩
  simp only [takesPart, Bool.and_eq_true] at hp
  exact hp.1.1.1

/-! ### Partners -/

section Any
variable {α : Type} {P : Nat × α → Bool} {k : Nat} (hP : ∀ v, P (k, v) = false)
include hP

theorem any_smErase (m : SMap α) : (smErase m k).any P = m.any P := by
  induction m with
  | nil => rfl
  | cons e r ih =>
    obtain ⟨a, w⟩ := e
    rw [smErase]
    split
    · next h => rw [ih, List.any_cons, h, hP, Bool.false_or]
    · rw [List.any_cons, List.any_cons, ih]

theorem any_smInsert (m : SMap α) (v : α) : (smInsert m k v).any P = m.any P := by
  induction m with
  | nil => rw [smInsert, List.any_cons, hP, Bool.false_or]
  | cons e r ih =>
    obtain ⟨a, w⟩ := e
    rw [smInsert]
    split
    · rw [List.any_cons, hP, Bool.false_or]
    · rw [List.any_cons, List.any_cons, ih]

/-- What an entry of key k has no say in is as before a write of k. -/
theorem any_smPut [DecidableEq α] (d : α) (m : SMap α) (v : α) : (smPut d m k v).any P = m.any P := by
  rw [smPut]
  split
  · exact any_smErase hP m
  · rw [any_smInsert hP, any_smErase hP]

end Any

/-- No write below the ports' registers makes or ends a partner. -/
theorem hasPartner_wr (s : State) {o : Nat} (w : Word) (h : o < 0xC10000) : hasPartner (wr s o w) = hasPartner s := by
  rw [hasPartner, hasPartner]
  refine any_smPut (fun v => ?_) _ _ _
  have hne : ¬ o = CWY_PORT_STATUS ((o - 0xC10000) / 0x4000) := by simp only [CWY_PORT_STATUS]; omega
  simp [hne]

/-- What a stage looks at but for the owners of the pins. -/
theorem pinOwned_views (s : State) (n : Nat) : takesPart (pinOwned s n) = takesPart s ∧ isRoot (pinOwned s n) = isRoot s
    ∧ tickInput (pinOwned s n) = tickInput s ∧ (pinOwned s n).mst = s.mst := by
  have hr : ∀ o, o ≠ SEC_OWN 0 → rd (pinOwned s n) o = rd s o := fun o ho => rd_wrf_other _ _ _ ho
  have hf : inFabric (pinOwned s n) = inFabric s := rdb_of_rd (hr _ (by decide)) _
  have hfab : (pinOwned s n).fab = s.fab := wrf_fab ..
  have hpow : (pinOwned s n).pow = s.pow := wrf_pow ..
  have hpartner : hasPartner (pinOwned s n) = hasPartner s := hasPartner_wr _ _ (by decide)
  have hboot : bootState (pinOwned s n) = bootState s := rdf_of_rd (hr _ (by decide)) _
  have hkeep : keepState (pinOwned s n) = keepState s := rdf_of_rd (hr _ (by decide)) _
  have hen := rdb_of_rd (hr MST_CTRL (by decide)) MST_CTRL_enable
  have hst := rdb_of_rd (hr MST_STATUS (by decide)) MST_STATUS_is_root
  have htick := rdf_of_rd (hr MST_TICK_PIN (by decide)) MST_TICK_PIN_mode
  exact ⟨by rw [takesPart, takesPart, deviceReady, deviceReady, hpow, hboot, hkeep, hasRoot, hasRoot, hf, hfab, hpartner, hen],
    by rw [isRoot, isRoot, hf, hpartner, hst], by rw [tickInput, tickInput, htick], wrf_mst ..⟩

theorem stageTurned_due (hm : member s = true) (hr : isRoot s = true) (ht : tickInput s = false) (hl : s.mst.release = none)
    (hs : s.mst.seen = false) : (stageTurned (pinOwned s 1) 1).mst.due = none := by
  obtain ⟨v1, v2, v3, v4⟩ := pinOwned_views s 1
  obtain ⟨hp, hj, -⟩ := member_parts hm
  rw [stageTurned, if_neg (by decide), v3, ht, if_neg Bool.false_ne_true]
  exact enterInput_due (v1.trans hp) (v2.trans hr) (by rw [v4, hj]) (by rw [v4, hl]) (by rw [v4, hs])

theorem pinWord_pinOwned (s : State) (n m : Nat) : pinWord (pinOwned s n) m = pinWord s m := by
  rw [pinWord, pinOwned, rd_wrf_other _ _ _ (by decide), pinWord]

theorem mstTickMode_claimed {m : BitVec 2} (hd : deviceReady s = true) (hm : m.toNat = 1 ∨ m.toNat = 2)
    (ho : rdf s (SEC_OWN 0) SEC_OWN_owner = 0) : ∃ t, exec (.mstTickModeWrite m) s = .next t
      ∧ rdf t MST_TICK_PIN MST_TICK_PIN_mode = m.toNat ∧ rdf t (SEC_OWN 0) SEC_OWN_owner = m.toNat
      ∧ rdb t MST_TICK_PIN MST_TICK_PIN_claimed = true ∧ rdb t MST_TICK_PIN MST_TICK_PIN_conflict = false
      ∧ RegsKept s t [MST_TICK_PIN, SEC_OWN 0, MST_STATUS]
      ∧ (m.toNat = 1 → member s = true → isRoot s = true → tickInput s = false → s.mst.release = none → s.mst.seen = false →
        t.mst.due = none) := by
  have h4 : m.toNat < 4 := m.isLt
  generalize hn : m.toNat = n at hm h4
  refine ⟨tickMode s n, by rw [execTickMode_ready hd, hn], ?_⟩
  rw [tickMode_claims hm ho, pinWord_pinOwned]
  obtain ⟨p1, p2⟩ := rd_pinHeld s (stageTurned (pinOwned s n) n) (pinWord s n) n
  obtain ⟨w1, w2, w3⟩ := pinWord_fields s h4
  have hturn := (stretchOnly_stageTurned (pinOwned s n) n).1
  refine ⟨by rw [rdf, p1, w1], ?_, by rw [rdb, p1, w2], by rw [rdb, p1, w3], fun o h => ?_, fun h1 hmem hroot ht hl hs => ?_⟩
  · rw [rdf, p2 _ (by decide) (by decide), hturn _ (by decide), pinOwned, rd_wrf_self, getf_setf_self _ _ _ (by decide)]
    exact Nat.mod_eq_of_lt (h4.trans (by decide))
  · simp only [List.mem_cons, List.not_mem_nil, or_false, not_or] at h
    obtain ⟨h1, h2, h3⟩ := h
    rw [p2 _ h1 h3, hturn _ h3, pinOwned, rd_wrf_other _ _ _ h2]
  · subst h1
    rw [pinHeld_mst, stageTurned_due hmem hroot ht hl hs]

theorem leaveInput_schedules (hp : takesPart s = true) (hr : isRoot s = true) (ht : tickInput s = true) (hj : s.mst.joined = true)
    (hd : s.mst.due = none) : leaveInput s = schedule s (if now s + leadNs s ≤ nominal s then nominal s else now s + leadNs s) false := by
  rw [leaveInput, hp, hr, ht, hj, hd]
  rfl

/-- The pin is given back. -/
def pinFreed (s0 s : State) : State :=
  let s2 := wr s MST_TICK_PIN 0
  let s3 := if rdf s0 MST_TICK_PIN MST_TICK_PIN_mode = 0 then s2 else wrf s2 (SEC_OWN 0) SEC_OWN_owner 0
  if isRoot s0 then wrb s3 MST_STATUS MST_STATUS_tick_external false else s3

theorem pinFreed_root (hr : isRoot s = true) (ht : tickInput s = true) (u : State) :
    pinFreed s u = wrb (wrf (wr u MST_TICK_PIN 0) (SEC_OWN 0) SEC_OWN_owner 0) MST_STATUS MST_STATUS_tick_external false := by
  have hne : rdf s MST_TICK_PIN MST_TICK_PIN_mode ≠ 0 := by
    have := beq_iff_eq.1 ht
    omega
  rw [pinFreed, if_pos hr, if_neg hne]

theorem tickMode_zero (s : State) : tickMode s 0 = pinFreed s (leaveInput s) := by
  rw [tickMode, if_neg (by decide), if_pos rfl, pinFreed]

theorem mstTickMode_released (hm : member s = true) (hr : isRoot s = true) (ht : tickInput s = true) (hd : s.mst.due = none) :
    ∃ t, exec (.mstTickModeWrite 0) s = .next t ∧ rdf t MST_TICK_PIN MST_TICK_PIN_mode = 0 ∧ rdf t (SEC_OWN 0) SEC_OWN_owner = 0
      ∧ t.mst.due = some (if now s + leadNs s ≤ nominal s then nominal s else now s + leadNs s) := by
  obtain ⟨hp, hj, hready⟩ := member_parts hm
  have hdue := schedule_due s (if now s + leadNs s ≤ nominal s then nominal s else now s + leadNs s) false
  rw [← leaveInput_schedules hp hr ht hj hd] at hdue
  refine ⟨tickMode s 0, execTickMode_ready hready, ?_⟩
  rw [tickMode_zero, pinFreed_root hr ht]
  generalize leaveInput s = u at hdue
  refine ⟨?_, ?_, ?_⟩
  · rw [rdf, rd_wrb_other _ _ _ (by decide), rd_wrf_other _ _ _ (by decide), rd_wr_self]
    rfl
  · rw [rdf, rd_wrb_other _ _ _ (by decide), rd_wrf_self, getf_setf_self _ _ _ (by decide)]
    rfl
  · rw [wrb_mst, wrf_mst, wr_mst, hdue]

theorem mstTickMode_refused {m : BitVec 2} (hd : deviceReady s = true) (hm : m.toNat = 1 ∨ m.toNat = 2)
    (h0 : rdf s (SEC_OWN 0) SEC_OWN_owner ≠ 0) (h1 : rdf s (SEC_OWN 0) SEC_OWN_owner ≠ m.toNat) :
    ∃ t, exec (.mstTickModeWrite m) s = .next t ∧ rdf t MST_TICK_PIN MST_TICK_PIN_mode = rdf s MST_TICK_PIN MST_TICK_PIN_mode
      ∧ rdb t MST_TICK_PIN MST_TICK_PIN_conflict = true ∧ OnlyRegs s t [MST_TICK_PIN, SEC_OWN 0] := by
  refine ⟨tickMode s m.toNat, execTickMode_ready hd, ?_⟩
  rw [tickMode_refused hm h0 h1]
  refine ⟨?_, rdb_wrb_self _ _ _ (by decide) rfl, ((OnlyRegs.self s _).wrf (by decide) _ _).wrf (by decide) _ _ |>.wrb (by decide) _ _⟩
  rw [rdf_wrb_field _ _ _ (by decide) (by decide)]
  refine rdf_of_rd ?_ _
  rw [rd_countSat_other _ _ _ (by decide), rd_wrf_other _ _ _ (by decide)]

theorem mstTickMode_three (s : State) : exec (.mstTickModeWrite 3) s = .next s := by
  have h : tickMode s 3 = s := if_pos (by decide)
  change Host.Outcome.next (if deviceReady s then tickMode s 3 else s) = _
  rw [h, ite_self]

/-! ### Timing requests -/

theorem putRequest_timing (s : State) (p : TimingParam) (v : Nat) : (putRequest s p v).mst = s.mst ∧ periodNs (putRequest s p v) = periodNs s
    ∧ slotPermille (putRequest s p v) = slotPermille s ∧ leadNs (putRequest s p v) = leadNs s := by
  cases p with
  | period =>
    exact ⟨wrf_mst .., rdf_wrf_field _ _ _ (by decide) (by decide), rdf_of_rd (rd_wrf_other _ _ _ (by decide)) _,
      rdf_of_rd (rd_wrf_other _ _ _ (by decide)) _⟩
  | slot =>
    exact ⟨wrf_mst .., rdf_of_rd (rd_wrf_other _ _ _ (by decide)) _, rdf_wrf_field _ _ _ (by decide) (by decide),
      rdf_of_rd (rd_wrf_other _ _ _ (by decide)) _⟩
  | lead =>
    exact ⟨wrf_mst .., rdf_of_rd (rd_wrf_other _ _ _ (by decide)) _, rdf_of_rd (rd_wrf_other _ _ _ (by decide)) _,
      rdf_wrf_field _ _ _ (by decide) (by decide)⟩

theorem timingRequest_root (hr : isRoot s = true) (p : TimingParam) (v : Nat) : timingRequest s p v = match timingCheck s p v with
    | some w => modMst (putRequest s p v) (fun m => { m with reqs := m.reqs ++ [(p, w, stageNow s)] })
    | none => raiseLevel (putRequest s p v) 0 MST_STATUS MST_STATUS_bad_request := by
  rw [timingRequest, hr]
  rfl

theorem timingRequest_leaves (hr : isRoot s = true) (p : TimingParam) (v : Nat) :
    (∀ w, timingCheck s p v = some w → (timingRequest s p v).mst = { s.mst with reqs := s.mst.reqs ++ [(p, w, stageNow s)] })
    ∧ (timingCheck s p v = none → (timingRequest s p v).mst = s.mst ∧ rdb (timingRequest s p v) MST_STATUS MST_STATUS_bad_request = true)
    ∧ periodNs (timingRequest s p v) = periodNs s ∧ slotPermille (timingRequest s p v) = slotPermille s
    ∧ leadNs (timingRequest s p v) = leadNs s := by
  obtain ⟨h1, h2, h3, h4⟩ := putRequest_timing s p v
  rw [timingRequest_root hr]
  generalize putRequest s p v = u at h1 h2 h3 h4
  cases timingCheck s p v with
  | some w =>
    refine ⟨fun x hx => ?_, fun h => absurd h (by simp), h2, h3, h4⟩
    cases hx
    change { u.mst with reqs := u.mst.reqs ++ [(p, w, stageNow s)] } = _
    rw [h1]
  | none =>
    have hk : ∀ o, o < 0x288000 → o ≠ ICU_SRC 0 → o ≠ MST_STATUS → rd (raiseLevel u 0 MST_STATUS MST_STATUS_bad_request) o = rd u o :=
      fun o ho hs hm => rd_raiseLevel_other u _ (.inl ho) hs hm
    exact ⟨fun x hx => absurd hx (by simp), fun _ => ⟨(raiseLevel_mst ..).trans h1, rdb_raiseLevel_self _ (.inl (by decide)) (by decide) rfl⟩,
      (rdf_of_rd (hk _ (by decide) (by decide) (by decide)) _).trans h2, (rdf_of_rd (hk _ (by decide) (by decide) (by decide)) _).trans h3,
      (rdf_of_rd (hk _ (by decide) (by decide) (by decide)) _).trans h4⟩

theorem timingRequest_elsewhere (hr : isRoot s = false) (p : TimingParam) (v : Nat) : exec (.timingRequest p v) s = .next s := by
  have h : timingRequest s p v = s := if_pos (by rw [hr]; rfl)
  change Host.Outcome.next (if deviceReady s then timingRequest s p v else s) = _
  rw [h, ite_self]

/-! ### The loss of the root -/

theorem rootFab_of_offWire (h : offWire t = offWire s) : t.fab.root = s.fab.root :=
  (congrArg (fun v : State => v.fab.root) h : (offWire t).fab.root = _)
theorem rootFab_of_offRelease (h : offRelease t = offRelease s) : t.fab.root = s.fab.root :=
  (congrArg (fun v : State => v.fab.root) h : (offRelease t).fab.root = _)

theorem stretchNow_fab (s : State) : (stretchNow s).fab = s.fab := by
  rw [stretchNow]
  split
  · exact wrb_fab ..
  · rfl

theorem seeLate_rootFab (s : State) : (seeLate s).fab.root = s.fab.root := by
  rw [seeLate]
  split
  · rfl
  · rw [stretchNow_fab]
    rfl

/-- From s to t nothing changes of the root and of what is told of it. -/
def RootTold (s t : State) : Prop := t.fab.root = s.fab.root ∧ StretchOnly s t

theorem RootTold.refl (s : State) : RootTold s s := ⟨rfl, .refl s⟩

theorem RootTold.trans (h : RootTold s t) (h' : RootTold t u) : RootTold s u := ⟨h'.1.trans h.1, h.2.trans h'.2⟩

theorem RootTold.of_cfg (h : t.cfg = s.cfg) (hr : t.fab.root = s.fab.root) : RootTold s t := ⟨hr, .of_cfg h⟩

theorem rootTold_seeLate (s : State) : RootTold s (seeLate s) := ⟨seeLate_rootFab s, stretchOnly_seeLate s⟩

theorem rootTold_tryClear (s : State) : RootTold s (tryClear s) := ⟨rootFab_of_offRelease (tryClear_offRelease s), stretchOnly_tryClear s⟩

theorem rootTold_holdStage (s : State) : RootTold s (holdStage s) := by
  have hw := floodLate_offWire (modFab (seeLate s) (fun f => { f with lateFor := some (stageNow s), clears := [], sentClr := false })) none (stageNow s)
  have hmid : RootTold (seeLate s) (modFab (seeLate s) (fun f => { f with lateFor := some (stageNow s), clears := [], sentClr := false })) :=
    .of_cfg rfl rfl
  rw [holdStage]
  exact (rootTold_seeLate s).trans (hmid.trans ⟨rootFab_of_offWire hw, .of_offWire hw⟩)

theorem rootTold_continueStages (s : State) (n : Nat) : RootTold s (continueStages s n) := by
  have hh : ∀ v : State, v.cfg = s.cfg → v.fab = s.fab → RootTold s (tryClear (holdStage v)) := fun v hv hf =>
    (RootTold.of_cfg hv (by rw [hf])).trans ((rootTold_holdStage v).trans (rootTold_tryClear _))
  rw [continueStages]
  split
  · exact .of_cfg rfl rfl
  · split
    · exact hh _ rfl rfl
    · exact hh _ rfl rfl

theorem rootTold_timeFirst (s : State) : RootTold s (timeFirst s) := by
  rw [timeFirst]
  split
  · exact .of_cfg rfl rfl
  · exact .refl s

/-- The election after a loss of the root, with its record. -/
def rootReplaced (s : State) (cs : List Candidate) : State :=
  raiseLevel (elected s (electionWinner (candidates s cs))) 5 MST_STATUS MST_STATUS_root_change

/-- The late tree begins again under a new root. -/
def treeRenewed (s u : State) : State :=
  modFab u (fun f => { f with clears := [], sentClr := false, lateFor := if member s then some (stageNow s) else f.lateFor })

/-- A member holds its stage for what the new root says. -/
def stageHeld (s u : State) (g : Mst → Mst) : State := if member s then modMst (seeLate (treeRenewed s u)) g else treeRenewed s u

theorem rootTold_stageHeld (s u : State) (g : Mst → Mst) : RootTold u (stageHeld s u g) := by
  have h : RootTold u (treeRenewed s u) := .of_cfg rfl rfl
  rw [stageHeld]
  split
  · exact (h.trans (rootTold_seeLate _)).trans (.of_cfg rfl rfl)
  · exact h

theorem rootLost_eq (s : State) (cs : List Candidate) : rootLost s cs = (
    if !inFabric s || isRoot s then s
    else
      let u := rootReplaced s cs
      let me := rdb u MST_STATUS MST_STATUS_is_root
      let v := stageHeld s u (fun m => { m with hold := !me, changed := some (if me then s.fab.root else 0x3FFFF) })
      if me then (if highestStage u cs = 0 then timeFirst v else continueStages v (highestStage u cs))
      else if member s then tryClear v else v) := rfl

theorem rootLost_told (cs : List Candidate) (hf : inFabric s = true) (hr : isRoot s = false) :
    RootTold (rootReplaced s cs) (rootLost s cs) := by
  rw [rootLost_eq, hf, hr, if_neg (by decide)]
  have h := rootTold_stageHeld s (rootReplaced s cs)
  dsimp only
  split
  · split
    · exact (h _).trans (rootTold_timeFirst _)
    · exact (h _).trans (rootTold_continueStages _ _)
  · split
    · exact (h _).trans (rootTold_tryClear _)
    · exact h _

theorem rootReplaced_leaves (s : State) (cs : List Candidate) : rdb (rootReplaced s cs) MST_STATUS MST_STATUS_root_change = true
    ∧ ∀ c, electionWinner (candidates s cs) = some c → (rootReplaced s cs).fab.root = c.dev
      ∧ rdb (rootReplaced s cs) MST_STATUS MST_STATUS_is_root = (c.dev == selfId s) := by
  refine ⟨rdb_raiseLevel_self _ (.inl (by decide)) (by decide) rfl, fun c hc => ?_⟩
  rw [rootReplaced, hc, raiseLevel_fab]
  refine ⟨?_, ?_⟩
  · rw [elected, wrb_fab, wrf_fab, wrb_fab]
    rfl
  · rw [raiseLevel, rdb, rd_signalSource_if _ _ _ (.inl (by decide)), ← rdb, rdb_wrb_field _ _ _ (by decide) (by decide),
      rdb_of_rd (rd_countSat_other _ _ _ (by decide)), elected, rdb_wrb_field _ _ _ (by decide) (by decide),
      rdb_of_rd (rd_wrf_other _ _ _ (by decide)), rdb_wrb_self _ _ _ (by decide) rfl]

theorem exec_rootLost_leaves (cs : List Candidate) (hf : inFabric s = true) (hr : isRoot s = false) :
    ∃ t, exec (.rootLost cs) s = .next t ∧ rdb t MST_STATUS MST_STATUS_root_change = true
      ∧ ∀ c, electionWinner (candidates s cs) = some c → t.fab.root = c.dev ∧ rdb t MST_STATUS MST_STATUS_is_root = (c.dev == selfId s) := by
  obtain ⟨hroot, hst⟩ := rootLost_told cs hf hr
  obtain ⟨h1, h2⟩ := rootReplaced_leaves s cs
  refine ⟨_, rfl, by rw [hst.2 _ (.inr (by decide)), h1], fun c hc => ?_⟩
  obtain ⟨k1, k2⟩ := h2 c hc
  exact ⟨by rw [hroot, k1], by rw [hst.2 _ (.inl (by decide)), k2]⟩

theorem exec_rootLost_root (cs : List Candidate) (hr : isRoot s = true) : exec (.rootLost cs) s = .next s :=
  congrArg Host.Outcome.next (if_pos (by rw [hr, Bool.or_true]))

/-- Settles O35: edges and schedules by what a schedule leaves of the stage, the pin by its registers, the election by what is told of
the root after it. -/
theorem ticksAndTimingRequests : Obligations.TicksAndTimingRequests := by
  unfold Obligations.TicksAndTimingRequests
  refine ⟨fun e s hp hr ht hj hd he => msTickEdge_taken hp hr ht hj ?_, fun e s hp hr ht hj h => msTickEdge_ignored hp hr ht hj ?_,
    fun s hp hr ht hj hd => tickMissed_leaves hp hr ht hj hd, fun m s hd hm ho => mstTickMode_claimed hd hm ho,
    fun s hm hr ht hd => mstTickMode_released hm hr ht hd, fun m s hd hm h0 h1 => mstTickMode_refused hd hm h0 h1, mstTickMode_three,
    fun p v s hd hr => ⟨_, congrArg Host.Outcome.next (if_pos hd), timingRequest_leaves hr p v⟩,
    fun p v s hr => timingRequest_elsewhere hr p v, fun cs s hf hr => exec_rootLost_leaves cs hf hr, fun cs s hr => exec_rootLost_root cs hr⟩
  · rintro (⟨h1, h2⟩ | h2 | h3)
    · rcases hd with hd | ⟨hd, -⟩
      · rw [hd] at h1
        exact absurd h1 Bool.false_ne_true
      · exact h2 hd
    · obtain ⟨hseen, d, hmem, hle⟩ := edgeStretched_iff.1 h2
      rcases hd with hd | ⟨-, hd⟩
      · rw [hd] at hmem
        exact nomatch hmem
      · exact absurd hle (Nat.not_le.2 (hd hseen d hmem))
    · omega
  · rcases h with h | ⟨h1, h2⟩ | ⟨h1, h2⟩
    · exact .inr (.inr h)
    · exact .inl ⟨h1, by rw [h2]; exact Bool.false_ne_true⟩
    · exact .inr (.inl (edgeStretched_iff.2 ⟨h1, h2⟩))

end Sys2Proof.Machine
end

section
/-! PROOFS. O40: the tables that a request's answer leaves; and the refutation of O40 by a record that reading it displaces. -/

namespace Sys2Proof.Machine
open Sys2Proof.Laws

variable {s t : State}

theorem atnStatus_atn (s : State) (a c v : Nat) (y : Bool) (g : Option Nat) : (atnStatus s a c v y g).atn = s.atn := by
  have h : ∀ u : State, u.atn = s.atn →
      (if (1 ≤ c ∧ c ≤ 8) ∨ c = 0x0A then count u ATN_COUNT_2 ATN_COUNT_2_refused else u).atn = s.atn := by
    intro u hu
    split
    · rw [count_atn, hu]
    · exact hu
  rw [atnStatus]
  refine h _ ?_
  split
  · rfl
  · exact walkerWrite_atn ..

/-- The walker but for the requests of its rings. -/
def offRings (s : State) : Atn := { s.atn with rings := [] }

theorem offRings_of_atn (h : t.atn = s.atn) : offRings t = offRings s := by rw [offRings, h, offRings]

theorem setQueue_offRings (s : State) (i : Nat) (q : List AtnReq) : offRings (setQueue s i q) = offRings s := rfl

/-- An answer changes nothing of the walker but the ring. -/
theorem answerBad_offRings (n : Nat) (s : State) (i : Nat) : offRings (answerBad n s i) = offRings s := by
  induction n generalizing s with
  | zero => rfl
  | succ n ih =>
    rw [answerBad]
    split
    · split
      · rw [ih, offRings_of_atn (atnStatus_atn ..), setQueue_offRings]
      · rfl
    · rfl

theorem endReq_offRings (s : State) (i c v : Nat) : offRings (endReq s i c v) = offRings s := by
  rw [endReq]
  split
  · rw [answerBad_offRings, offRings_of_atn (atnStatus_atn ..), setQueue_offRings]
  · rfl

theorem endReq_tables (s : State) (i c v : Nat) : (endReq s i c v).atn.tables = s.atn.tables :=
  (congrArg Atn.tables (endReq_offRings s i c v) : (offRings (endReq s i c v)).tables = _)

theorem endReq_lists (s : State) (i c v : Nat) : (endReq s i c v).atn.lists = s.atn.lists :=
  (congrArg Atn.lists (endReq_offRings s i c v) : (offRings (endReq s i c v)).lists = _)

/-! ### A record that reading it displaces -/

/-- The address of the image: its line has the slice and the set of line 0. -/
def farImage : Nat := 73870 * 2048

/-- A record of a table of one page. -/
def onePageRecord : List Byte :=
  wordBytes [BitVec.ofNat 64 farImage, BitVec.ofNat 64 farImage, BitVec.ofNat 64 farImage, BitVec.ofNat 64 farImage,
    BitVec.ofNat 64 hostBase, BitVec.ofNat 64 farImage, BitVec.ofNat 64 (2 ^ 32 + 64 * 2 ^ 16 + 64), BitVec.ofNat 64 (2 ^ 32 + 1)]
    ++ List.replicate 192 0

/-- Memory reads as zero, but slice 0 holds sector 0 clean with the record in it, and one way of its sets is left to lines. The front
request of ring 0 registers the table of that record. -/
def sDisplaced : State :=
  { slices := [(0, { lines := [{ line := 0, secs := [(0, ⟨.clean, onePageRecord⟩)] }] })]
    cfg := [(VRG_SLICE_CFG 0, setf 0 VRG_SLICE_CFG_window_active 15)]
    atn := { rings := [(0, [{ op := 1, handle := 0, addr := 0, args := 0, status := 0, until_ := 0, bad := false }])] } }

theorem recordSeen_sDisplaced : (tableRecord sDisplaced 0 0).isSome = true := by decide +kernel
theorem recordGone_sDisplaced : tableRecord (recordRead sDisplaced 0) 0 0 = none := by decide +kernel

/-- The front request of ring 0. -/
def registerReq : AtnReq := { op := 1, handle := 0, addr := 0, args := 0, status := 0, until_ := 0, bad := false }

theorem atnFront_sDisplaced : atnFront sDisplaced 0 1 registerReq := ⟨⟨[], rfl⟩, rfl, rfl, by decide⟩

theorem firstFree_sDisplaced : (upto 4096).find? (fun k => !smHas sDisplaced.atn.tables k) = some 0 := by decide +kernel

theorem tableOf_setTable (s : State) (k : Nat) (t : RouteTable) : tableOf (setTable s k t) k = some t := smFind?_smSet_self ..

/-- REGISTER opens table 0, for it read the record before what it read displaced it. -/
theorem registered_sDisplaced : (tableOf (atnRegister sDisplaced 0) 0).isSome = true := by
  obtain ⟨t, ht⟩ := Option.isSome_iff_exists.1 recordSeen_sDisplaced
  have h : ∃ u v, atnRegister sDisplaced 0 = endReq (setTable u 0 t) 0 0 v := by
    rw [atnRegister]
    change ∃ u v, (if 1 ≠ 1 ∨ false = true ∨ keepState sDisplaced ≥ 2 then _ else _) = _
    rw [if_neg (by decide), ht]
    dsimp only
    rw [firstFree_sDisplaced]
    exact ⟨_, _, rfl⟩
  obtain ⟨u, v, h⟩ := h
  rw [h, tableOf, endReq_tables, ← tableOf, tableOf_setTable]
  rfl

/-- Refutes O40: the record of a REGISTER stands clean in its slice, over memory that reads as zero, and the reading of the image that
it names displaces it: the record is bad in the state that reading leaves, but REGISTER took it as it read it and opened the table. -/
theorem not_routeTables : ¬ Obligations.RouteTables := by
  unfold Obligations.RouteTables
  intro h
  obtain ⟨-, -, -, -, -, hregister, -⟩ := h
  have hend := (hregister 0 registerReq sDisplaced atnFront_sDisplaced).1 recordGone_sDisplaced
  have heq : atnRegister sDisplaced 0 = endReq (recordRead sDisplaced 0) 0 3 0 := Host.Outcome.next.inj hend
  have hopen := registered_sDisplaced
  have hnone : (recordRead sDisplaced 0).atn.tables = [] := by decide +kernel
  rw [heq, tableOf, endReq_tables, hnone] at hopen
  exact absurd hopen Bool.false_ne_true

end Sys2Proof.Machine
end

section
/-! PROOFS. The refutation of O41 by an image that its own reading displaces. -/

namespace Sys2Proof.Machine
open Sys2Proof.Laws

/-- A table of one page: its image at 0, the written bits in the line that has the slice and the set of line 0. -/
def onePageTable : RouteTable :=
  { imageA := 0, imageB := 0, frames := 0, work := farImage - 16, layby := 0, signposts := 0, pagesMax := 1, kb := 64, vb := 64
    kind := 1, homes := 1, ring := 0 }

/-- A READ of query block 1. -/
def readReq : AtnReq := { op := 3, handle := 0, addr := 0, args := 1, status := 0, until_ := 0, bad := false }

/-- Memory holds an image of length 128 at 0, but slice 0 holds its first sector clean as zeros, an image of length 0, and one way of
its sets is left to lines. -/
def sStaleImage : State :=
  { slices := [(0, { lines := [{ line := 0, secs := [(0, ⟨.clean, List.replicate 256 0⟩)] }] })]
    cfg := [(VRG_SLICE_CFG 0, setf 0 VRG_SLICE_CFG_window_active 15)]
    mem := { cells := [(0, 128)] }
    atn := { tables := [(0, onePageTable)], rings := [(0, [readReq])] } }

theorem atnNew_sStaleImage : atnNew sStaleImage 0 3 0 readReq onePageTable :=
  ⟨⟨⟨[], rfl⟩, rfl, rfl, by decide⟩, rfl, rfl, rfl⟩

theorem length_beforeRead : (imageHead sStaleImage (onePageTable.image onePageTable.version)).length = 0 := by decide +kernel

theorem inRange_afterRead : readReq.args % 2 ^ 32
    < ((imageHead (walkRead sStaleImage 3 onePageTable) (onePageTable.image onePageTable.version)).length + 63) / 64 := by
  decide +kernel

theorem pages_afterRead : readPages (walkRead sStaleImage 3 onePageTable) onePageTable (onePageTable.image onePageTable.version)
    (imageHead (walkRead sStaleImage 3 onePageTable) (onePageTable.image onePageTable.version)) (readReq.args % 2 ^ 32) = [] := by
  decide +kernel

theorem lists_afterRead : (walkRead sStaleImage 3 onePageTable).atn.lists = [] := by decide +kernel

/-- A READ of a block past the image is answered so. -/
theorem acceptWalk_outOfRange {s : State} {i k : Nat} {r : AtnReq} {t : RouteTable} (ht : tableOfHandle s r.handle = some (k, t)) (hop : r.op = 3)
    (h : ¬ (r.args % 2 ^ 32 = 0 ∨ r.args % 2 ^ 32 < ((imageHead s (t.image t.version)).length + 63) / 64)) :
    acceptWalk s i r = endReq (walkRead s r.op t) i 4 0 := by
  rw [acceptWalk, ht]
  dsimp only
  refine if_pos ?_
  rwa [if_pos hop]

theorem serveWalk_new {s : State} {i op k : Nat} {r : AtnReq} {t : RouteTable} (h : atnNew s i op k r t) : serveWalk s i op = acceptWalk s i r := by
  obtain ⟨⟨⟨q, hq⟩, hop, hbad, hkeep⟩, hpark, hver, -⟩ := h
  have hgo : ¬ (r.op ≠ op ∨ r.bad = true ∨ keepState s ≥ 2 ∨ r.parked = true) := by
    rw [hbad, hpark]
    simpa [hop] using Nat.lt_succ_iff.1 hkeep
  rw [serveWalk, hq]
  dsimp only
  rw [if_neg hgo, hver]
  rfl

/-- READ answers that its block is out of range, as the image said when it was read. -/
theorem exec_sStaleImage : exec (.atnRead 0) sStaleImage = .next (endReq (walkRead sStaleImage readReq.op onePageTable) 0 4 0) := by
  have hout : ¬ (readReq.args % 2 ^ 32 = 0
      ∨ readReq.args % 2 ^ 32 < ((imageHead sStaleImage (onePageTable.image onePageTable.version)).length + 63) / 64) := by
    rw [length_beforeRead]
    decide
  have hserve := serveWalk_new atnNew_sStaleImage
  rw [acceptWalk_outOfRange (k := 0) (t := onePageTable) rfl rfl hout] at hserve
  exact congrArg Host.Outcome.next hserve

/-- Refutes O41: the first sector of the image stands clean in its slice with a length of 0, over memory with a length of 128, and the
reading of the written bits displaces it: in the state that reading leaves, the block of the READ is in range and needs no page, but the
READ was answered out of range as its image read, and no list is open. -/
theorem not_walkRequests : ¬ Obligations.WalkRequests := by
  unfold Obligations.WalkRequests
  intro h
  obtain ⟨-, hread, -⟩ := h
  obtain ⟨u, hu, hlists⟩ := hread 0 0 readReq onePageTable sStaleImage atnNew_sStaleImage (by decide)
    inRange_afterRead pages_afterRead rfl
  rw [exec_sStaleImage] at hu
  rw [← Host.Outcome.next.inj hu, endReq_lists] at hlists
  rw [show readReq.op = 3 from rfl, lists_afterRead] at hlists
  exact absurd (congrArg List.length hlists) (by decide)

end Sys2Proof.Machine
end

section
/-! PROOFS. What the command entries of the channels do once they have started (R427, R438, R439, Table 13-7). -/

namespace Sys2Proof.Machine

variable {s t : State} {i n : Nat} {e : Entry}

/-! ### Channels and their entries -/

@[simp] theorem chanOf_setChan_self (s : State) (i : Nat) (c : Chan) : chanOf (setChan s i c) i = c := smGet_smPut_self ..

theorem chanOf_setChan_other {j : Nat} (h : j ≠ i) (s : State) (c : Chan) : chanOf (setChan s i c) j = chanOf s j :=
  smGet_smPut_other _ _ _ _ _ _ h

theorem chanOf_of_host (h : t.host = s.host) (j : Nat) : chanOf t j = chanOf s j := by rw [chanOf, h, chanOf]

/-- An entry of a number, changed. -/
def onNumber (n : Nat) (f : Entry → Entry) (e : Entry) : Entry := if e.n = n then f e else e

theorem entries_modEntry (s : State) (i n : Nat) (f : Entry → Entry) :
    (chanOf (modEntry s i n f) i).entries = (chanOf s i).entries.map (onNumber n f) := by
  rw [modEntry, modChan, chanOf_setChan_self]
  rfl

theorem mem_modEntry {f : Entry → Entry} (he : e ∈ (chanOf s i).entries) (hn : e.n = n) :
    f e ∈ (chanOf (modEntry s i n f) i).entries := by
  rw [entries_modEntry]
  exact List.mem_map.2 ⟨e, he, if_pos hn⟩

theorem entryRuns_modEntry {f : Entry → Entry} (he : e ∈ (chanOf s i).entries) (hn : e.n = n)
    (hf : ∀ z, (f z).n = z.n ∧ (f z).phase = .running) : entryRuns (modEntry s i n f) i n :=
  ⟨f e, mem_modEntry he hn, (hf e).1.trans hn, (hf e).2⟩

theorem entryRuns_runEntry (he : e ∈ (chanOf s i).entries) (hn : e.n = n) : entryRuns (runEntry s i n) i n :=
  entryRuns_modEntry he hn fun _ => ⟨rfl, rfl⟩

theorem entryCarried_carryEntry (he : e ∈ (chanOf s i).entries) (hn : e.n = n) (hp : e.phase ≠ .ended) (code value : Nat) :
    entryCarried (carryEntry s i n code value) i n code value := by
  refine ⟨{ e with phase := .carried, code := code, value := value }, ?_, hn, rfl, rfl, rfl⟩
  rw [carryEntry, modChan, chanOf_setChan_self]
  exact List.mem_map.2 ⟨e, he, if_pos ⟨hn, hp⟩⟩

theorem regions_carryEntry (s : State) (i n code value : Nat) :
    (chanOf (carryEntry s i n code value) i).regions = (chanOf s i).regions := by
  rw [carryEntry, modChan, chanOf_setChan_self]

theorem entryCarried_of_host (h : t.host = s.host) {code value : Nat} (hc : entryCarried s i n code value) :
    entryCarried t i n code value := by
  rw [entryCarried, chanOf_of_host h]
  exact hc

theorem entryRuns_of_host (h : t.host = s.host) (hc : entryRuns s i n) : entryRuns t i n := by
  rw [entryRuns, chanOf_of_host h]
  exact hc

theorem mem_of_entryOf (h : entryOf s i n = some e) : e ∈ (chanOf s i).entries ∧ e.n = n :=
  ⟨List.mem_of_find?_eq_some h, by simpa using List.find?_some h⟩

/-! ### An entry that has started -/

section
variable {op : Nat} (h : entryStarted s i n op e)
include h

theorem started_mem : e ∈ (chanOf s i).entries := List.mem_of_find?_eq_some h.2.1

theorem started_number_phase : e.n = n ∧ e.phase = .started := by
  have hb := List.find?_some h.2.1
  simpa using hb

theorem started_number : e.n = n := (started_number_phase h).1

theorem started_not_ended : e.phase ≠ .ended := by
  rw [(started_number_phase h).2]
  decide

theorem started_carried (code value : Nat) : entryCarried (carryEntry s i n code value) i n code value :=
  entryCarried_carryEntry (started_mem h) (started_number h) (started_not_ended h) code value

theorem onEntry_started (act : State → Entry → State) : onEntry i n op act s = .next (act s e) := by
  obtain ⟨hi, hf, hop⟩ := h
  rw [onEntry, onIndex, onlyIf_of hi, hf]
  exact congrArg Host.Outcome.next (if_pos hop)

end

/-! ### Requests to other devices that an entry makes -/

theorem host_of_besideFabric (h : besideFabric t = besideFabric s) : t.host = s.host :=
  (congrArg State.host h : (besideFabric t).host = _)

/-- A request goes out or waits, or is answered unreachable at once where no route leads to its device. -/
theorem ask_cases (s : State) (a : Ask) : besideFabric (ask s a) = besideFabric s
    ∨ ∃ u tag, besideFabric u = besideFabric s ∧ ask s a = answerAsked u tag a.who 2 [] := by
  unfold ask
  cases tagNow s with
  | none => exact .inl rfl
  | some t =>
    dsimp only [sendOn]
    split
    · exact .inl (by simp)
    · split_ifs with hcls
      · exact absurd rfl hcls
      · exact .inl (by simp)
      · split
        · next who hw =>
          have hwho : some a.who = some who := (smFind?_smSet_self s.fab.sent t a.who).symm.trans hw
          rw [← Option.some.inj hwho]
          refine .inr ⟨_, _, ?_, rfl⟩
          simp
        · exact .inl rfl

/-- An entry whose copy has sent a number of its reads. -/
def SentReads (i n k : Nat) (s : State) : Prop := ∃ z ∈ (chanOf s i).entries, z.n = n ∧ z.reads = k

/-- What a read of a copy that is answered at once makes of its entry. -/
def gotRead (src : Nat) (e : Entry) : Entry := { e with asked := e.asked - 1, got := smSet e.got src [] }

theorem answerAsked_copyRead (s : State) (tag src : Nat) : answerAsked s tag (.copyRead i n src) 2 []
    = modFab (modEntry s i n (gotRead src)) (fun f => { f with sent := smErase f.sent tag }) := rfl

theorem SentReads.map {k : Nat} {f : Entry → Entry} (hf : ∀ z, (f z).n = z.n ∧ (f z).reads = z.reads) (h : SentReads i n k s) :
    SentReads i n k (modEntry s i n f) := by
  obtain ⟨z, hz, hn, hk⟩ := h
  exact ⟨f z, mem_modEntry hz hn, (hf z).1.trans hn, (hf z).2.trans hk⟩

theorem SentReads.of_host {k : Nat} (h : t.host = s.host) (hs : SentReads i n k s) : SentReads i n k t := by
  rw [SentReads, chanOf_of_host h]
  exact hs

theorem sentReads_ask {a : Ask} {src k : Nat} (ha : a.who = .copyRead i n src) (h : SentReads i n k s) :
    SentReads i n k (ask s a) ∧ (ask s a).mem = s.mem := by
  obtain hb | ⟨u, tag, hu, he⟩ := ask_cases s a
  · exact ⟨h.of_host (host_of_besideFabric hb), mem_of_besideFabric hb⟩
  · rw [he, ha, answerAsked_copyRead]
    have hm : SentReads i n k (modEntry u i n (gotRead src)) :=
      (h.of_host (host_of_besideFabric hu)).map fun _ => ⟨rfl, rfl⟩
    exact ⟨hm.of_host rfl, (mem_of_besideFabric hu : u.mem = s.mem)⟩

theorem sentReads_foldl {α : Type} {k : Nat} {g : α → Ask} {src : α → Nat} (hg : ∀ c, (g c).who = .copyRead i n (src c)) (xs : List α)
    (h : SentReads i n k s) : SentReads i n k (xs.foldl (fun s c => ask s (g c)) s) ∧ (xs.foldl (fun s c => ask s (g c)) s).mem = s.mem := by
  induction xs generalizing s with
  | nil => exact ⟨h, rfl⟩
  | cons x xs ih =>
    obtain ⟨h1, hm⟩ := sentReads_ask (hg x) h
    obtain ⟨h2, hm2⟩ := ih h1
    exact ⟨h2, hm2.trans hm⟩

/-! ### Copies -/

/-- The entry of a copy, or of an inline write, that has come to its end. -/
theorem endCopy_of {z : Entry} {code done : Nat} (hz : entryOf s i n = some z) (hp : z.phase ≠ .ended) :
    (endCopy s i n code done).mem = s.mem ∧ (0 < z.asked → entryRuns (endCopy s i n code done) i n)
      ∧ (z.asked = 0 → entryCarried (endCopy s i n code done) i n (if code = 0 then z.code else code) (done - z.lost)) := by
  obtain ⟨hmem, hn⟩ := mem_of_entryOf hz
  rw [endCopy, hz]
  dsimp only
  by_cases h0 : z.asked = 0
  · rw [if_pos h0]
    exact ⟨rfl, fun h => by omega, fun _ => entryCarried_carryEntry hmem hn hp _ _⟩
  · rw [if_neg h0]
    exact ⟨rfl, fun _ => entryRuns_modEntry hmem hn fun _ => ⟨rfl, rfl⟩, fun h => absurd h h0⟩

theorem copy_holds (d : List Byte) (h : entryStarted s i n 0x01 e) :
    (unitHeld s e = false → exec (.copy i n d) s = .next (lateSettle s))
      ∧ (unitHeld s e = true → readsNow s e ≠ [] → ∃ t, exec (.copy i n d) s = .next (lateSettle t) ∧ t.mem = s.mem
        ∧ ∃ z ∈ (chanOf t i).entries, z.n = n ∧ z.reads = e.reads + (readsNow s e).length)
      ∧ (unitHeld s e = true → readsNow s e = [] →
        let x := copyPieces i n e.rows e.got (e.rows.pieces.drop e.pos) s e.pos e.value d
        (x.code = none → x.pos = e.pos → exec (.copy i n d) s = .next (lateSettle s))
        ∧ (x.code = none → x.pos ≠ e.pos → exec (.copy i n d) s
            = .next (lateSettle (modEntry x.st i n (fun z => { z with pos := x.pos, value := x.done }))))
        ∧ (∀ c z, x.code = some c → entryOf x.st i n = some z → z.phase ≠ .ended →
          ∃ t, exec (.copy i n d) s = .next (lateSettle t) ∧ t.mem = x.st.mem
            ∧ (0 < z.asked → entryRuns t i n)
            ∧ (z.asked = 0 → entryCarried t i n (if c = 0 then z.code else c) (x.done - z.lost)))) := by
  have hn := started_number h
  have hexec : exec (.copy i n d) s = .next (lateSettle (copyEntry s i d e)) :=
    onEntry_started h fun s e => lateSettle (copyEntry s i d e)
  rw [hexec, copyEntry]
  refine ⟨fun hu => by simp [hu], fun hu hr => ?_, fun hu hr => ?_⟩
  · have hr' : (readsNow s e).isEmpty = false := by cases hq : readsNow s e with
      | nil => exact absurd hq hr
      | cons _ _ => rfl
    simp only [hu, hr', Bool.not_true, Bool.not_false, Bool.false_eq_true, if_false, if_true]
    rw [hn]
    have h0 : SentReads i n (e.reads + (readsNow s e).length) (modEntry s i n (fun z =>
        { z with reads := z.reads + (readsNow s e).length, asked := z.asked + (readsNow s e).length })) :=
      ⟨_, mem_modEntry (started_mem h) hn, hn, rfl⟩
    obtain ⟨h1, hm⟩ := sentReads_foldl (g := fun c : Nat × Nat × Nat =>
      { who := .copyRead i n c.1, dst := globalDev c.1, type := 1, op := 0, len := c.2.2, addr := globalLocal c.1, body := .empty })
      (src := fun c => c.1) (fun _ => rfl) (readsNow s e) h0
    exact ⟨_, rfl, hm, h1⟩
  · have hq : (List.isEmpty (readsNow s e)) = true := by rw [hr]; rfl
    simp only [hu, hq, Bool.not_true, Bool.false_eq_true, if_false]
    rw [hn]
    generalize copyPieces i n e.rows e.got (e.rows.pieces.drop e.pos) s e.pos e.value d = x
    rw [keepCopy, hn]
    refine ⟨fun hc hp => by simp [hc, hp], fun hc hp => by simp [hc, hp], fun c z hc hz hp => ?_⟩
    rw [hc]
    obtain ⟨hm, hrun, hcar⟩ := endCopy_of (code := c) (done := x.done) hz hp
    exact ⟨_, rfl, hm, hrun, hcar⟩

/-! ### Inline writes -/

theorem sectorPieces_single {k a : Nat} {d : List Byte} (hd : d ≠ []) (hs : a % 256 + d.length ≤ 256) :
    sectorPieces (k + 2) a d = [(a, d)] := by
  obtain ⟨b, bs, rfl⟩ := List.exists_cons_of_ne_nil hd
  have hle : (b :: bs).length ≤ 256 - a % 256 := by omega
  rw [sectorPieces]
  · rw [List.take_of_length_le hle, List.drop_of_length_le hle, sectorPieces]
  · exact hd

theorem sectorPieces_empty (k a : Nat) : sectorPieces (k + 1) a [] = [] := rfl

theorem ownLocal_user {a : Nat} (h : a < userEnd) (s : State) : ownLocal s a = some a := by
  have hg : isGlobal a = false := by
    have hue : userEnd < 2 ^ 47 := by decide
    rw [isGlobal, Nat.div_eq_of_lt (by omega)]
    rfl
  rw [ownLocal, hg]
  rfl

theorem writePiece_user {a : Nat} {d z : List Byte} {u : State} (ha : a < userEnd) (hw : sysWrite s .host a d = (.data z, u)) :
    writePiece s i n a d = (0, u) := by
  rw [writePiece, ownLocal_user ha]
  dsimp only
  rw [regionOf_user ha]
  dsimp only
  rw [hw]

theorem isPeer_user {a : Nat} (h : a < userEnd) (s : State) : isPeer s a = false := by
  rw [isPeer, ownLocal_user h]
  rfl

/-- An inline write of no bytes, and one within a sector of user memory. -/
theorem writeInline_holds (h : entryStarted s i n 0x02 e) :
    (unitHeld s e = false → exec (.writeInline i n) s = .next (lateSettle s))
      ∧ (unitHeld s e = true → e.payload = [] → entryOf s i n = some e → e.asked = 0 →
          ∃ t, exec (.writeInline i n) s = .next (lateSettle t) ∧ entryCarried t i n e.code (e.value - e.lost) ∧ t.mem = s.mem)
      ∧ (∀ z u y, unitHeld s e = true → e.payload ≠ [] → e.pos = 0 → e.value = 0 →
          e.arg 0 % 256 + e.payload.length ≤ 256 → e.arg 0 + e.payload.length ≤ userEnd →
          sysWrite s .host (e.arg 0) e.payload = (.data z, u) → entryOf u i n = some y → y.asked = 0 → y.phase ≠ .ended →
          ∃ t, exec (.writeInline i n) s = .next (lateSettle t) ∧ t.mem = u.mem
            ∧ entryCarried t i n y.code (e.payload.length - y.lost)) := by
  have hn := started_number h
  have hexec : exec (.writeInline i n) s = .next (lateSettle (writeInline s i e)) :=
    onEntry_started h fun s e => lateSettle (writeInline s i e)
  rw [hexec, writeInline, keepCopy, hn]
  refine ⟨fun hu => by simp [hu], fun hu hd ho h0 => ?_, fun z u y hu hd hpos hval hs hb hw ho h0 hp => ?_⟩
  · rw [hd, sectorPieces_empty, List.drop_nil, inlinePieces]
    obtain ⟨hm, -, hc⟩ := endCopy_of (code := 0) (done := e.value) ho (started_not_ended h)
    simp only [hu, Bool.not_true, Bool.false_eq_true, if_false]
    exact ⟨_, rfl, hc h0, hm⟩
  · have hlen := List.length_pos_of_ne_nil hd
    obtain ⟨k, hk⟩ : ∃ k, e.payload.length + 1 = k + 2 := ⟨e.payload.length - 1, by omega⟩
    have ha : e.arg 0 < userEnd := by omega
    have hpieces : (sectorPieces (e.payload.length + 1) (e.arg 0) e.payload).drop e.pos = [(e.arg 0, e.payload)] := by
      rw [hk, sectorPieces_single hd hs, hpos, List.drop_zero]
    rw [hpieces, inlinePieces, isPeer_user ha, writePiece_user ha hw]
    obtain ⟨hm, -, hc⟩ := endCopy_of (code := 0) (done := e.value + e.payload.length) ho hp
    simp only [hu, Bool.not_true, Bool.false_and, Bool.false_eq_true, if_false]
    rw [inlinePieces]
    refine ⟨_, rfl, hm, ?_⟩
    rw [hval, Nat.zero_add] at hc ⊢
    exact hc h0

/-! ### Streams -/

/-- A stream at rest that a START loads: its pc and its registers are set, and it is marked to start. -/
def loadedBy (pc : Nat) (regs : SMap Word) (preds : BitVec 8) (owner : Option Nat) (w : Work) (z : Stream) : Stream :=
  if z.atRest = true then { z with pc := pc, regs := regs, preds := preds, start := true, owner := owner, work := w } else z

theorem strOf_modStr (s : State) (l : Nat) (u : StreamId) (f : Stream → Stream) (m : Nat) (v : StreamId) :
    strOf (modStr s l u f) m v = if (m, v) = (l, u) then f (strOf s m v) else strOf s m v := by
  by_cases hm : m = l
  · subst hm
    by_cases hv : v = u
    · rw [hv, if_pos rfl, strOf_modStr_self]
    · rw [if_neg (fun h => hv (congrArg Prod.snd h)), modStr, strOf_setStr_sibling _ _ _ _ _ hv]
  · rw [if_neg (fun h => hm (congrArg Prod.fst h)), modStr, strOf_setStr_other _ _ _ _ _ _ hm]

theorem strOf_loadStream (s : State) (k pc : Nat) (given : List (Nat × Word)) (owner : Option Nat) (w : Work) (q p : Nat × StreamId) :
    strOf (loadStream s k q.1 q.2 pc given owner w) p.1 p.2 = if p = q then
      loadedBy pc (openRegs k (3 * q.1 + strNum q.2) given).1 (openRegs k (3 * q.1 + strNum q.2) given).2 owner w (strOf s p.1 p.2)
      else strOf s p.1 p.2 := by
  unfold loadStream requestStart
  rw [strOf_modStr, strOf_modStr]
  by_cases hp : p = q
  · subst hp
    simp only [if_true, loadedBy]
    by_cases hr : (strOf s p.1 p.2).atRest = true
    · have hr2 : ∀ (x : Stream) (rs : SMap Word) (ps : BitVec 8),
          ({ x with pc := pc, regs := rs, preds := ps } : Stream).atRest = x.atRest := fun _ _ _ => rfl
      simp [hr, hr2]
    · simp [hr]
  · simp [hp]

/-- A fold of updates, one stream of one core each, of which a second on the same stream does nothing. -/
theorem strOf_foldl_named {f : State → Nat × StreamId → State} {g : Nat × StreamId → Stream → Stream}
    (hg : ∀ q z, g q (g q z) = g q z)
    (hf : ∀ s q p, strOf (f s q) p.1 p.2 = if p = q then g q (strOf s p.1 p.2) else strOf s p.1 p.2)
    (qs : List (Nat × StreamId)) (s : State) (p : Nat × StreamId) :
    strOf (qs.foldl f s) p.1 p.2 = if p ∈ qs then g p (strOf s p.1 p.2) else strOf s p.1 p.2 := by
  induction qs generalizing s with
  | nil => simp
  | cons q qs ih =>
    rw [List.foldl_cons, ih, hf]
    by_cases h : p = q <;> by_cases hm : p ∈ qs <;> simp [h, hm, hg]

theorem loadedBy_idem (pc : Nat) (regs : SMap Word) (preds : BitVec 8) (owner : Option Nat) (w : Work) (z : Stream) :
    loadedBy pc regs preds owner w (loadedBy pc regs preds owner w z) = loadedBy pc regs preds owner w z := by
  unfold loadedBy
  by_cases hz : z.atRest = true
  · have hr2 : ({ z with pc := pc, regs := regs, preds := preds, start := true, owner := owner, work := w } : Stream).atRest = z.atRest := rfl
    simp [hz, hr2]
  · simp [hz]

/-- A fold that puts one value under each index. -/
theorem smGet_foldl_smPut {α : Type} [DecidableEq α] (d : α) (g : Nat → α) (xs : List Nat) (m : SMap α) (j : Nat) :
    smGet d (xs.foldl (fun m i => smPut d m (i + 1) (g i)) m) (j + 1) = if j ∈ xs then g j else smGet d m (j + 1) := by
  induction xs generalizing m with
  | nil => simp
  | cons x xs ih =>
    rw [List.foldl_cons, ih, smGet_smPut]
    by_cases h : j = x <;> by_cases hm : j ∈ xs <;> simp [h, hm]

/-- The value that a register of a stream being loaded takes. -/
def openValue (k place : Nat) (given : List (Nat × Word)) (i : Nat) : Word :=
  match given.find? (fun g => g.1 == i + 1) with
  | some g => g.2
  | none => Config.freeWord k (64 * place + (i + 1))

theorem smGet_openRegs (k place : Nat) (given : List (Nat × Word)) {j : Nat} (hj : j < 47) :
    smGet 0 (openRegs k place given).1 (j + 1) = openValue k place given j :=
  (smGet_foldl_smPut 0 (openValue k place given) (upto 47) [] j).trans (if_pos (List.mem_range.2 hj))

/-- The first argument register of a stream that a START loads. -/
theorem reg_loadedBy {z : Stream} (hz : z.atRest = true) (k place pc : Nat) (v : Word) (owner : Option Nat) (w : Work) :
    (loadedBy pc (openRegs k place [(1, v)]).1 (openRegs k place [(1, v)]).2 owner w z).reg 1 = v := by
  rw [loadedBy, if_pos hz]
  exact smGet_openRegs k place [(1, v)] (by decide : 0 < 47)

theorem host_loadStream (s : State) (k pc : Nat) (given : List (Nat × Word)) (owner : Option Nat) (w : Work) (q : Nat × StreamId) :
    (loadStream s k q.1 q.2 pc given owner w).host = s.host := rfl

/-- The streams of a START, loaded. -/
def loadAll (s : State) (k pc : Nat) (v : Word) (i n : Nat) (ts : List (Nat × StreamId)) : State :=
  ts.foldl (fun s q => loadStream s k q.1 q.2 pc [(1, v)] (some i) (.start n)) s

theorem strOf_loadAll (s : State) (k pc : Nat) (v : Word) (i n : Nat) (ts : List (Nat × StreamId)) (p : Nat × StreamId) :
    strOf (loadAll s k pc v i n ts) p.1 p.2 = if p ∈ ts then
      loadedBy pc (openRegs k (3 * p.1 + strNum p.2) [(1, v)]).1 (openRegs k (3 * p.1 + strNum p.2) [(1, v)]).2 (some i) (.start n)
        (strOf s p.1 p.2)
      else strOf s p.1 p.2 :=
  strOf_foldl_named (g := fun p z => loadedBy pc (openRegs k (3 * p.1 + strNum p.2) [(1, v)]).1
      (openRegs k (3 * p.1 + strNum p.2) [(1, v)]).2 (some i) (.start n) z)
    (fun _ z => loadedBy_idem _ _ _ _ _ z)
    (fun s q p => strOf_loadStream s k pc _ _ _ q p) ts s p

theorem host_loadAll (s : State) (k pc : Nat) (v : Word) (i n : Nat) (ts : List (Nat × StreamId)) :
    (loadAll s k pc v i n ts).host = s.host :=
  foldl_keeps State.host (fun s q => host_loadStream s k pc _ _ _ q) ts s

/-- What a START entry does, by what it names. -/
theorem startEntry_cases (s : State) (i : Nat) (e : Entry) :
    (namedStreams e = none → startEntry s i e = carryEntry s i e.n 0x05 0)
      ∧ ∀ ts, namedStreams e = some ts →
        ((∃ q ∈ ts, (strOf s q.1 q.2).atRest = false) → startEntry s i e = carryEntry s i e.n 0x05 0)
        ∧ ((∀ q ∈ ts, (strOf s q.1 q.2).atRest = true) → bitsN (e.arg 2) 3 3 = 0 →
          (e.arg 0 % 8 ≠ 0 → startEntry s i e = carryEntry s i e.n 0x02 0)
          ∧ (e.arg 0 % 8 = 0 → e.arg 0 < 2 ^ 48 → ts ≠ [] → startEntry s i e
            = loadAll { runEntry s i e.n with free := (runEntry s i e.n).free + 1 } (runEntry s i e.n).free (e.arg 0)
              (e.args.getD 3 0) i e.n ts)) := by
  refine ⟨fun h => by rw [startEntry, h], fun ts h => ⟨fun ⟨q, hq, hr⟩ => ?_, fun hr hm => ⟨fun h8 => ?_, fun h8 hlt hne => ?_⟩⟩⟩ <;>
    rw [startEntry, h]
  · exact if_pos (by simpa using ⟨q.1, q.2, hq, hr⟩)
  · have hall : (ts.all fun t => (strOf s t.1 t.2).atRest) = true := by simpa using hr
    simp [hall, hm, h8]
  · have hall : (ts.all fun t => (strOf s t.1 t.2).atRest) = true := by simpa using hr
    have hno : ¬ 2 ^ 48 ≤ e.arg 0 := by omega
    simp only [hall, hm, h8, hno, hne, takeFree, Bool.not_true, Bool.false_eq_true, if_false, beq_iff_eq, Nat.zero_ne_one,
      bne_self_eq_false, decide_false, Bool.or_self, Bool.and_false]
    simp
    rfl

theorem start_holds (h : entryStarted s i n 0x03 e) :
    (namedStreams e = none → ∃ t, exec (.start i n) s = .next t ∧ entryCarried t i n 0x05 0 ∧ t.cores = s.cores)
      ∧ (∀ ts, namedStreams e = some ts → (∀ q ∈ ts, (strOf s q.1 q.2).atRest = true) → bitsN (e.arg 2) 3 3 = 0 →
          (e.arg 0 % 8 = 0 → e.arg 0 < 2 ^ 48 → ts ≠ [] → ∃ t, exec (.start i n) s = .next t ∧ entryRuns t i n
            ∧ (∀ q ∈ ts, (strOf t q.1 q.2).start = true ∧ (strOf t q.1 q.2).pc = e.arg 0
                ∧ (strOf t q.1 q.2).reg 1 = e.args.getD 3 0 ∧ (strOf t q.1 q.2).owner = some i)
            ∧ ∀ l u, (l, u) ∉ ts → strOf t l u = strOf s l u)
          ∧ (e.arg 0 % 8 ≠ 0 → ∃ t, exec (.start i n) s = .next t ∧ entryCarried t i n 0x02 0 ∧ t.cores = s.cores))
      ∧ (∀ ts, namedStreams e = some ts → (∃ q ∈ ts, (strOf s q.1 q.2).atRest = false) → ∃ t, exec (.start i n) s = .next t
          ∧ entryCarried t i n 0x05 0 ∧ t.cores = s.cores) := by
  have hn := started_number h
  have hexec : exec (.start i n) s = .next (startEntry s i e) := onEntry_started h fun s e => startEntry s i e
  obtain ⟨hnone, hsome⟩ := startEntry_cases s i e
  rw [hn] at hnone hsome
  rw [hexec]
  refine ⟨fun hx => ?_, fun ts hx hr hm => ⟨fun h8 hlt hne => ?_, fun h8 => ?_⟩, fun ts hx hr => ?_⟩
  · rw [hnone hx]
    exact ⟨_, rfl, started_carried h _ _, rfl⟩
  · rw [((hsome ts hx).2 hr hm).2 h8 hlt hne]
    generalize hu : ({ runEntry s i n with free := (runEntry s i n).free + 1 } : State) = u
    have hstr : ∀ p : Nat × StreamId, strOf u p.1 p.2 = strOf s p.1 p.2 := fun p => by rw [← hu]; rfl
    refine ⟨_, rfl, entryRuns_of_host (host_loadAll ..) (entryRuns_of_host (by rw [← hu]) (entryRuns_runEntry (started_mem h) hn)),
      fun q hq => ?_, fun l v hlv => ?_⟩
    · have hq' : (strOf u q.1 q.2).atRest = true := by rw [hstr]; exact hr q hq
      rw [strOf_loadAll, if_pos hq]
      refine ⟨?_, ?_, reg_loadedBy hq' .., ?_⟩ <;> rw [loadedBy, if_pos hq']
    · rw [strOf_loadAll (p := (l, v)), if_neg hlv]
      exact hstr (l, v)
  · rw [((hsome ts hx).2 hr hm).1 h8]
    exact ⟨_, rfl, started_carried h _ _, rfl⟩
  · rw [(hsome ts hx).1 hr]
    exact ⟨_, rfl, started_carried h _ _, rfl⟩

/-! ### Halts -/

theorem host_of_onlyCoreSignals {l : Nat} (h : OnlyCoreSignals s t l) : t.host = s.host := by rw [h.1]

theorem strOf_haltStream_named (s : State) (q p : Nat × StreamId) :
    strOf (requestHalt s q.1 q.2) p.1 p.2 = if p = q then (strOf s p.1 p.2).halting .external 0 else strOf s p.1 p.2 := by
  obtain ⟨l, u⟩ := q
  obtain ⟨m, v⟩ := p
  by_cases hm : m = l
  · subst hm
    rw [strOf_requestHalt]
    simp
  · rw [if_neg (fun h => hm (congrArg Prod.fst h)), requestHalt, strOf, coreOf_haltStream_other _ _ _ _ _ _ hm]
    rfl

/-- The streams halted, before the checks for deadlock. -/
def haltEach (s : State) (ts : List (Nat × StreamId)) : State := ts.foldl (fun s q => requestHalt s q.1 q.2) s

theorem strOf_haltEach (s : State) (ts : List (Nat × StreamId)) (p : Nat × StreamId) :
    strOf (haltEach s ts) p.1 p.2 = if p ∈ ts then (strOf s p.1 p.2).halting .external 0 else strOf s p.1 p.2 :=
  strOf_foldl_named (g := fun _ z => z.halting .external 0) (fun _ z => halting_idem z _ _)
    (fun s q p => strOf_haltStream_named s q p) ts s p

/-- A stream that waits on no counter is as it was after checks for deadlock. -/
theorem strOf_deadlockChecks {l : Nat} {u : StreamId} (ls : List Nat)
    (h : (strOf s l u).st ≠ .waiting ∨ (strOf s l u).wait = none ∨ l ∉ ls) : strOf (ls.foldl deadlockCheck s) l u = strOf s l u := by
  induction ls generalizing s with
  | nil => rfl
  | cons m ls ih =>
    have h1 : strOf (deadlockCheck s m) l u = strOf s l u := by
      by_cases hm : l = m
      · subst hm
        exact strOf_deadlockCheck_other (by simpa using h)
      · rw [strOf, (onlyCoreSignals_deadlockCheck s m).2 l hm]
        rfl
    rw [List.foldl_cons, ih, h1]
    rw [h1]
    simp only [List.mem_cons, not_or] at h
    tauto

theorem haltAll_eq (s : State) (ts : List (Nat × StreamId)) :
    haltAll s ts = ((ts.map (·.1)).dedup).foldl deadlockCheck (haltEach s ts) := rfl

theorem strOf_haltAll_mem {ts : List (Nat × StreamId)} {q : Nat × StreamId} (hq : q ∈ ts) (s : State) :
    strOf (haltAll s ts) q.1 q.2 = (strOf s q.1 q.2).halting .external 0 := by
  have h : strOf (haltEach s ts) q.1 q.2 = (strOf s q.1 q.2).halting .external 0 := by rw [strOf_haltEach, if_pos hq]
  rw [haltAll_eq, strOf_deadlockChecks _ (.inl (by rw [h]; exact halting_not_waiting _ _ _)), h]

theorem strOf_haltAll_other {ts : List (Nat × StreamId)} {l : Nat} {u : StreamId} (hn : (l, u) ∉ ts)
    (hw : (strOf s l u).st ≠ .waiting ∨ (strOf s l u).wait = none ∨ ∀ q ∈ ts, q.1 ≠ l) : strOf (haltAll s ts) l u = strOf s l u := by
  have h : strOf (haltEach s ts) l u = strOf s l u := by rw [strOf_haltEach s ts (l, u), if_neg hn]
  rw [haltAll_eq, strOf_deadlockChecks _ (by
    rw [h]
    refine hw.imp_right (Or.imp_right fun hq hl => ?_)
    obtain ⟨q, hq1, hq2⟩ := List.mem_map.1 (List.mem_dedup.1 hl)
    exact hq q hq1 hq2), h]

theorem host_haltAll (s : State) (ts : List (Nat × StreamId)) : (haltAll s ts).host = s.host :=
  (foldl_keeps State.host (fun s l => host_of_onlyCoreSignals (onlyCoreSignals_deadlockCheck s l)) _ _).trans
    (foldl_keeps State.host (f := fun s (q : Nat × StreamId) => requestHalt s q.1 q.2)
      (fun _ q => host_of_onlyCoreSignals (onlyCoreSignals_haltStream q.2 .external 0)) ts s)

theorem cmdHalt_holds (h : entryStarted s i n 0x04 e) :
    (namedStreams e = none → ∃ t, exec (.cmdHalt i n) s = .next t ∧ entryCarried t i n 0x02 0 ∧ t.cores = s.cores)
      ∧ ∀ ts, namedStreams e = some ts → ∃ t, exec (.cmdHalt i n) s = .next t ∧ entryRuns t i n
          ∧ (∀ q ∈ ts, strOf t q.1 q.2 = (strOf s q.1 q.2).halting .external 0)
          ∧ ∀ l u, (l, u) ∉ ts → ((strOf s l u).st ≠ .waiting ∨ (strOf s l u).wait = none ∨ ∀ q ∈ ts, q.1 ≠ l) →
            strOf t l u = strOf s l u := by
  have hn := started_number h
  have hexec : exec (.cmdHalt i n) s = .next (haltEntry s i e) := onEntry_started h fun s e => haltEntry s i e
  rw [hexec, haltEntry, hn]
  refine ⟨fun hx => ?_, fun ts hx => ?_⟩ <;> rw [hx] <;> dsimp only
  · exact ⟨_, rfl, started_carried h _ _, rfl⟩
  · have hc : (chanOf (haltAll s ts) i).entries = (chanOf s i).entries := by rw [chanOf_of_host (host_haltAll s ts)]
    exact ⟨_, rfl, entryRuns_modEntry (hc ▸ started_mem h) hn fun _ => ⟨rfl, rfl⟩, fun q hq => strOf_haltAll_mem hq s,
      fun l u hl hw => strOf_haltAll_other hl hw⟩

/-! ### No operation, Kerb commands and fillers -/

theorem cmdNop_holds (h : entryStarted s i n 0x00 e) :
    ∃ t, exec (.cmdNop i n) s = .next t ∧ entryCarried t i n 0 0 ∧ t = { s with host := t.host } :=
  ⟨_, onEntry_started h fun s _ => carryEntry s i n 0 0, started_carried h _ _, rfl⟩

theorem cmdKerb_holds (h : entryStarted s i n 0x05 e) :
    (kblockOf ((upto 8).map (wordAt e.payload)) = none → ∃ t, exec (.cmdKerb i n) s = .next t ∧ entryCarried t i n 0x02 0
        ∧ t.engines = s.engines)
      ∧ ∀ b, kblockOf ((upto 8).map (wordAt e.payload)) = some b → ∃ u, exec (.cmdKerb i n) s = .next (submitKerb u (.entry i n) b)
        ∧ entryRuns u i n ∧ u = { s with host := u.host } := by
  have hn := started_number h
  have hexec : exec (.cmdKerb i n) s = .next (kerbEntry s i e) := onEntry_started h fun s e => kerbEntry s i e
  rw [hexec, kerbEntry, hn]
  refine ⟨fun hx => ?_, fun b hx => ?_⟩ <;> rw [hx]
  · exact ⟨_, rfl, started_carried h _ _, rfl⟩
  · exact ⟨_, rfl, entryRuns_runEntry (started_mem h) hn, rfl⟩

theorem fillerUnit_holds (h : entryStarted s i n 0x0B e) :
    ∃ t, exec (.fillerUnit i n) s = .next t ∧ entryRuns t i n ∧ t = { s with host := t.host } :=
  ⟨_, onEntry_started h fun s _ => runEntry s i n, entryRuns_runEntry (started_mem h) (started_number h), rfl⟩

/-! ### Regions and slots -/

theorem regionReg_holds (h : entryStarted s i n 0x06 e) :
      let xs := extentsOf e.payload
      let len := (xs.map (·.2)).sum
      ((e.arg 0 % 2 ^ 21 ≠ 0 ∨ e.arg 0 < hostBase ∨ hostEnd < e.arg 0 + len) → ∃ t, exec (.regionReg i n) s = .next t
        ∧ entryCarried t i n 0x02 0 ∧ (chanOf t i).regions = (chanOf s i).regions)
      ∧ (e.arg 0 % 2 ^ 21 = 0 → hostBase ≤ e.arg 0 → e.arg 0 + len ≤ hostEnd →
          (∀ x ∈ xs, x.1 % 4096 = 0 ∧ x.2 ≠ 0 ∧ x.2 % 4096 = 0) →
          (∀ r ∈ (chanOf s i).regions, r.w + r.len ≤ e.arg 0 ∨ e.arg 0 + len ≤ r.w) → (chanOf s i).regions.length < 256 →
          extentsUsed s + xs.length ≤ 65536 → ∃ t r, exec (.regionReg i n) s = .next t ∧ entryCarried t i n 0 len
            ∧ (chanOf t i).regions = (chanOf s i).regions ++ [r] ∧ r.w = e.arg 0 ∧ r.extents = xs ∧ r.active = true
            ∧ r.epoch = bitsN (e.arg 1) 31 0) := by
  have hn := started_number h
  have hexec : exec (.regionReg i n) s = .next (regionReg s i e) := onEntry_started h fun s e => regionReg s i e
  rw [hexec, regionReg, hn]
  refine ⟨fun hx => ?_, fun h21 hlo hhi hxs hrs hmany hused => ?_⟩
  · rw [if_pos (by tauto)]
    exact ⟨_, rfl, started_carried h _ _, regions_carryEntry ..⟩
  · have hany : ((extentsOf e.payload).any fun x => x.1 % 4096 != 0 || x.2 == 0 || x.2 % 4096 != 0) = false := by
      rw [List.any_eq_false]
      intro x hx
      obtain ⟨h1, h2, h3⟩ := hxs x hx
      simp [h1, h2, h3]
    have hover : ((chanOf s i).regions.any fun r => decide (r.w < e.arg 0 + ((extentsOf e.payload).map (·.2)).sum)
        && decide (e.arg 0 < r.w + r.len)) = false := by
      rw [List.any_eq_false]
      intro r hr
      have := hrs r hr
      simp only [Bool.and_eq_true, decide_eq_true_eq]
      omega
    rw [hany, hover, if_neg (by simp; omega), if_neg (by omega)]
    refine ⟨_, { w := e.arg 0, read := bitsN (e.arg 1) 32 32 == 1, write := bitsN (e.arg 1) 33 33 == 1,
                 epoch := bitsN (e.arg 1) 31 0, extents := extentsOf e.payload }, rfl,
      entryCarried_carryEntry ?_ hn (started_not_ended h) _ _, ?_, rfl, rfl, rfl, rfl⟩
    · rw [modChan, chanOf_setChan_self]
      exact started_mem h
    · rw [regions_carryEntry, modChan, chanOf_setChan_self]

theorem smGet_map {α : Type} (d : α) (f : Nat → α → α) (hf : ∀ k, f k d = d) (m : SMap α) (k : Nat) :
    smGet d (m.map fun p => (p.1, f p.1 p.2)) k = f k (smGet d m k) := by
  induction m with
  | nil => exact (hf k).symm
  | cons p m ih =>
    obtain ⟨j, v⟩ := p
    rw [List.map_cons, smGet, smGet]
    split_ifs with h
    · rw [h]
    · exact ih

/-- A channel without some of its regions. -/
def withoutRegions (rs : List (Nat × Nat)) (i : Nat) (c : Chan) : Chan :=
  { c with regions := c.regions.filter (fun r => !rs.contains (i, r.w)) }

theorem chanOf_dropRegions (s : State) (rs : List (Nat × Nat)) (i : Nat) :
    chanOf (dropRegions s rs) i = withoutRegions rs i (chanOf (discardHeld s fun x => rs.contains (x.chan, x.w)) i) :=
  smGet_map ({} : Chan) (withoutRegions rs) (fun _ => rfl) (discardHeld s fun x => rs.contains (x.chan, x.w)).host.chans i

theorem chanOf_discardHeld_of_none (h : s.host.holdQ = []) (p : HeldWrite → Bool) (i : Nat) :
    chanOf (discardHeld s p) i = chanOf s i := by
  rw [discardHeld, h]
  rfl

theorem regionDereg_holds (h : entryStarted s i n 0x07 e) :
      ((∀ r ∈ (chanOf s i).regions, r.w ≠ e.arg 0) → ∃ t, exec (.regionDereg i n) s = .next t ∧ entryCarried t i n 0x07 0)
      ∧ ∀ r, (chanOf s i).regions.find? (fun r => r.w == e.arg 0) = some r → s.host.holdQ = [] → s.reqs = [] →
          ∃ t, exec (.regionDereg i n) s = .next t ∧ entryCarried t i n 0 0 ∧ ∀ x ∈ (chanOf t i).regions, x.w ≠ r.w := by
  have hn := started_number h
  have hexec : exec (.regionDereg i n) s = .next (regionDereg s i e) := onEntry_started h fun s e => regionDereg s i e
  rw [hexec, regionDereg, hn]
  refine ⟨fun hx => ?_, fun r hr hq hreq => ?_⟩
  · have hfind : (chanOf s i).regions.find? (fun r => r.w == e.arg 0) = none := by simpa using hx
    rw [hfind]
    exact ⟨_, rfl, started_carried h _ _⟩
  · have hheld : regionHeld s i r.w = 0 := by rw [regionHeld, hq]; rfl
    rw [hr]
    dsimp only
    rw [hheld, hreq, if_neg (by simp)]
    have hc : chanOf (dropRegions s [(i, r.w)]) i = withoutRegions [(i, r.w)] i (chanOf s i) := by
      rw [chanOf_dropRegions, chanOf_discardHeld_of_none hq]
    refine ⟨_, rfl, entryCarried_carryEntry ?_ hn (started_not_ended h) _ _, fun x hx => ?_⟩
    · rw [hc]
      exact started_mem h
    · rw [regions_carryEntry, hc] at hx
      have hx2 := (List.mem_filter.1 hx).2
      simpa using hx2

theorem localForm_of_lt {a : Nat} (h : a < 2 ^ 63) (s : State) : localForm s a = a := by
  have hg : isGlobal a = false := by
    rw [isGlobal, Nat.div_eq_of_lt h]
    rfl
  rw [localForm, hg]
  rfl

/-- An address and its local form have the same place in their 2 MiB. -/
theorem localForm_mod (s : State) (a : Nat) : localForm s a % 2 ^ 21 = a % 2 ^ 21 := by
  rw [localForm]
  split_ifs
  · rw [globalLocal]
    omega
  · rfl

theorem placeReg_put (h : entryStarted s i n 0x08 e) (k a len : Nat) : ∃ p, entryCarried (placeReg.put s i e k a len) i n 0 (k * 2 ^ 30)
    ∧ smFind? (placeReg.put s i e k a len).host.slots k = some p ∧ p.chan = i ∧ p.addr = a ∧ p.len = len
    ∧ (p.write = true ↔ bitsN (e.arg 2) 33 33 = 1) ∧ (p.read = true ↔ bitsN (e.arg 2) 32 32 = 1) := by
  have hn := started_number h
  rw [placeReg.put, hn]
  refine ⟨_, entryCarried_carryEntry (started_mem h) hn (started_not_ended h) _ _, smFind?_smSet_self _ _ _, rfl, rfl, rfl, ?_, ?_⟩ <;>
    exact beq_iff_eq

theorem placeReg_holds (h : entryStarted s i n 0x08 e) :
      let k := bitsN (e.arg 2) 11 0
      (e.arg 0 % 2 ^ 21 = 0 → e.arg 1 % 2 ^ 21 = 0 → 0 < e.arg 1 → e.arg 1 ≤ 2 ^ 30 → e.arg 0 + e.arg 1 ≤ userEnd →
        (∀ p, smFind? s.host.slots k = some p → p.chan = i) → ∃ t p, exec (.placeReg i n) s = .next t
          ∧ entryCarried t i n 0 (k * 2 ^ 30) ∧ smFind? t.host.slots k = some p ∧ p.chan = i ∧ p.addr = e.arg 0 ∧ p.len = e.arg 1
          ∧ (p.write = true ↔ bitsN (e.arg 2) 33 33 = 1) ∧ (p.read = true ↔ bitsN (e.arg 2) 32 32 = 1))
      ∧ ((e.arg 0 % 2 ^ 21 ≠ 0 ∨ e.arg 1 = 0 ∨ 2 ^ 30 < e.arg 1) → ∃ t, exec (.placeReg i n) s = .next t
          ∧ entryCarried t i n 0x02 0 ∧ t.host.slots = s.host.slots) := by
  have hexec : exec (.placeReg i n) s = .next (placeReg s i e) := onEntry_started h fun s e => placeReg s i e
  rw [hexec, placeReg, localForm_mod]
  refine ⟨fun ha hl hpos hle hend hp => ?_, fun hx => ?_⟩
  · have hlt : e.arg 0 < 2 ^ 63 := by
      have hue : userEnd < 2 ^ 63 := by decide
      omega
    rw [localForm_of_lt hlt]
    have hfits : (decide (e.arg 0 + e.arg 1 ≤ userEnd) || (decide (windowBase ≤ e.arg 0) && decide (e.arg 0 + e.arg 1 ≤ windowEnd))) = true := by
      rw [decide_eq_true hend, Bool.true_or]
    obtain ⟨p, hput⟩ := placeReg_put h (bitsN (e.arg 2) 11 0) (e.arg 0) (e.arg 1)
    refine ⟨_, p, rfl, ?_⟩
    rw [hfits, if_neg (by simp; omega)]
    cases hf : smFind? s.host.slots (bitsN (e.arg 2) 11 0) with
    | none => exact hput
    | some q =>
      dsimp only
      rw [if_neg (not_not_intro (hp q hf))]
      exact hput
  · rw [if_pos (by tauto), started_number h]
    exact ⟨_, rfl, started_carried h _ _, rfl⟩

theorem placeDereg_holds (h : entryStarted s i n 0x09 e) :
      let k := bitsN (e.arg 2) 11 0
      (∀ p, smFind? s.host.slots k = some p → p.chan = i → ∃ t, exec (.placeDereg i n) s = .next t ∧ entryCarried t i n 0 0
          ∧ smFind? t.host.slots k = none)
      ∧ (smFind? s.host.slots k = none → ∃ t, exec (.placeDereg i n) s = .next t ∧ entryCarried t i n 0x07 0
          ∧ t.host.slots = s.host.slots) := by
  have hn := started_number h
  have hexec : exec (.placeDereg i n) s = .next (placeDereg s i e) := onEntry_started h fun s e => placeDereg s i e
  rw [hexec, placeDereg, hn]
  refine ⟨fun p hp hc => ?_, fun hp => ?_⟩ <;> rw [hp]
  · dsimp only
    rw [if_pos hc]
    exact ⟨_, rfl, entryCarried_carryEntry (started_mem h) hn (started_not_ended h) _ _, smFind?_smErase_self _ _⟩
  · exact ⟨_, rfl, started_carried h _ _, rfl⟩

/-! ### Plans -/

theorem host_setStepState (s : State) (n : Nat) : (setStepState s n).host = s.host := wrf_host ..

theorem host_loadPlan (s : State) (o : Option (Nat × Nat)) : (loadPlan s o).host = s.host := by
  have hstart : (wr (wr (wr s CMD_STEP_COUNT 0) CMD_SURVEY_STAT 0) CMD_SURVEY_EST 0).host = s.host := by rw [wr_host, wr_host, wr_host]
  rw [loadPlan]
  dsimp only
  split_ifs
  · rfl
  · generalize wr (wr (wr s CMD_STEP_COUNT 0) CMD_SURVEY_STAT 0) CMD_SURVEY_EST 0 = u at hstart ⊢
    have hread := (calm_engineRead u .requester (rdf s CMD_STEP_PLAN CMD_STEP_PLAN_plan * 128) 128).2.trans hstart
    generalize engineRead u .requester (rdf s CMD_STEP_PLAN CMD_STEP_PLAN_plan * 128) 128 = r at hread ⊢
    obtain ⟨_ | d, s2⟩ := r
    · rw [wrf_host, host_setStepState]
      exact hread
    · dsimp only
      split_ifs
      · rw [wrf_host, host_setStepState]
        exact hread
      · rw [wr_host, wrf_host, host_setStepState]
        exact hread

theorem stepLoad_holds (h : entryStarted s i n 0x0A e) :
      ((stepState s = 2 ∨ stepState s = 3) → ∃ t, exec (.stepLoad i n) s = .next t ∧ entryCarried t i n 0x05 0
          ∧ t.train = s.train)
      ∧ (stepState s ≠ 2 → stepState s ≠ 3 → (e.arg 0 % 128 ≠ 0 ∨ 2 ^ 48 ≤ e.arg 0) → ∃ t, exec (.stepLoad i n) s = .next t
          ∧ entryCarried t i n 0x02 0 ∧ t.train = s.train)
      ∧ (stepState s ≠ 2 → stepState s ≠ 3 → e.arg 0 % 128 = 0 → e.arg 0 < 2 ^ 48 →
          let u := loadPlan (wrf s CMD_STEP_PLAN CMD_STEP_PLAN_plan (e.arg 0 / 128)) (some (i, e.n))
          ∃ t, exec (.stepLoad i n) s = .next t ∧ t.train = u.train ∧ t.cfg = u.cfg ∧ t.mem = u.mem
            ∧ entryCarried t i n 0 (bits (rd u CMD_STEP_STATUS) 63 56)) := by
  have hn := started_number h
  have hexec : exec (.stepLoad i n) s = .next (stepLoad s i e) := onEntry_started h fun s e => stepLoad s i e
  rw [hexec, stepLoad, hn]
  refine ⟨fun hx => ?_, fun h2 h3 hx => ?_, fun h2 h3 ha hb => ?_⟩
  · rw [if_pos hx]
    exact ⟨_, rfl, started_carried h _ _, rfl⟩
  · rw [if_neg (by tauto), if_pos hx]
    exact ⟨_, rfl, started_carried h _ _, rfl⟩
  · rw [if_neg (by tauto), if_neg (by omega)]
    dsimp only
    have hhost : (loadPlan (wrf s CMD_STEP_PLAN CMD_STEP_PLAN_plan (e.arg 0 / 128)) (some (i, n))).host = s.host :=
      (host_loadPlan _ _).trans (wrf_host ..)
    generalize loadPlan (wrf s CMD_STEP_PLAN CMD_STEP_PLAN_plan (e.arg 0 / 128)) (some (i, n)) = u at hhost ⊢
    refine ⟨_, rfl, rfl, rfl, rfl, entryCarried_carryEntry ?_ hn (started_not_ended h) _ _⟩
    rw [chanOf_of_host hhost]
    exact started_mem h

/-- Settles O48: each entry that has started is carried out with its status, or runs, as its operation states. -/
theorem commandEntries : Obligations.CommandEntries :=
  ⟨fun _ _ _ _ h => cmdNop_holds h, fun _ _ _ d _ h => copy_holds d h, fun _ _ _ _ h => writeInline_holds h,
    fun _ _ _ _ h => start_holds h, fun _ _ _ _ h => cmdHalt_holds h, fun _ _ _ _ h => cmdKerb_holds h,
    fun _ _ _ _ h => regionReg_holds h, fun _ _ _ _ h => regionDereg_holds h, fun _ _ _ _ h => placeReg_holds h,
    fun _ _ _ _ h => placeDereg_holds h, fun _ _ _ _ h => stepLoad_holds h, fun _ _ _ _ h => fillerUnit_holds h⟩

end Sys2Proof.Machine
end

section
/-! PROOFS. Channels (R421 to R437): records and events, doorbells, the mailbox, the reading of entries, their completion. -/

namespace Sys2Proof.Machine

variable {s t u : State} {i j n : Nat}

/-! ### Records and events -/

/-- A channel without the records it has written and holds. -/
def keptChan (c : Chan) : Chan := { c with written := 0, held := [] }

/-- The channels are as they were but for their records. -/
def ChansKept (s t : State) : Prop := ∀ j, keptChan (chanOf t j) = keptChan (chanOf s j)

theorem ChansKept.refl (s : State) : ChansKept s s := fun _ => rfl
theorem ChansKept.trans (h : ChansKept s t) (k : ChansKept t u) : ChansKept s u := fun j => (k j).trans (h j)
theorem ChansKept.of_chans (h : t.host.chans = s.host.chans) : ChansKept s t := fun j => by rw [chanOf, h, chanOf]

theorem ChansKept.st (h : ChansKept s t) (j : Nat) : (chanOf t j).st = (chanOf s j).st := (congrArg Chan.st (h j) : (keptChan (chanOf t j)).st = _)
theorem ChansKept.entries (h : ChansKept s t) (j : Nat) : (chanOf t j).entries = (chanOf s j).entries :=
  (congrArg Chan.entries (h j) : (keptChan (chanOf t j)).entries = _)
theorem ChansKept.regions (h : ChansKept s t) (j : Nat) : (chanOf t j).regions = (chanOf s j).regions :=
  (congrArg Chan.regions (h j) : (keptChan (chanOf t j)).regions = _)

theorem ChansKept.foldl {α : Type} {f : State → α → State} (h : ∀ s x, ChansKept s (f s x)) (xs : List α) (s : State) :
    ChansKept s (xs.foldl f s) := by
  induction xs generalizing s with
  | nil => exact .refl s
  | cons x xs ih => exact (h s x).trans (ih _)

theorem chansKept_setChan {c : Chan} (h : keptChan c = keptChan (chanOf s i)) : ChansKept s (setChan s i c) := by
  intro j
  by_cases hj : j = i
  · rw [hj, chanOf_setChan_self, h]
  · rw [chanOf_setChan_other hj]

theorem signalVector_chans (s : State) (v : Nat) : (signalVector s v).host.chans = s.host.chans := by
  rw [signalVector]
  split_ifs <;> rfl

theorem signalHeldOff_chans (s : State) (v : Nat) : (signalHeldOff s v).host.chans = s.host.chans := by
  rw [signalHeldOff]
  split_ifs
  · rfl
  · exact signalVector_chans ..

/-- A record is written, with a signal perhaps, or held. -/
theorem putRecord_cases (s : State) (i : Nat) (r : Record) : ∃ u c, u.host = s.host ∧ u.cfg = s.cfg ∧ keptChan c = keptChan (chanOf s i)
    ∧ (putRecord s i r = setChan u i c ∨ ∃ v, putRecord s i r = signalHeldOff (setChan u i c) v) := by
  rw [putRecord]
  dsimp only
  by_cases hw : ((chanOf s i).st = .opened ∨ (chanOf s i).st = .stopped ∨ (chanOf s i).st = .destroying) ∧ hostOpen s = true
      ∧ s.host.inReset = false ∧ (chanOf s i).held = []
  · rw [if_pos hw]
    by_cases hs : (r.signal && (chanOf s i).irq) = true
    · rw [if_pos hs]
      refine ⟨_, _, emit_host .., emit_cfg .., ?_, .inr ⟨_, rfl⟩⟩
      rfl
    · rw [if_neg hs]
      refine ⟨_, _, emit_host .., emit_cfg .., ?_, .inl rfl⟩
      rfl
  · rw [if_neg hw]
    refine ⟨s, _, rfl, rfl, ?_, .inl rfl⟩
    rfl

theorem chansKept_putRecord (s : State) (i : Nat) (r : Record) : ChansKept s (putRecord s i r) := by
  obtain ⟨u, c, hu, -, hc, h⟩ := putRecord_cases s i r
  have hset : ChansKept s (setChan u i c) :=
    (ChansKept.of_chans (congrArg HostSt.chans hu)).trans (chansKept_setChan (by rw [hc, chanOf_of_host hu]))
  rcases h with h | ⟨v, h⟩ <;> rw [h]
  · exact hset
  · exact hset.trans (.of_chans (signalHeldOff_chans _ v))

theorem chansKept_flushRecords (s : State) (i : Nat) : ChansKept s (flushRecords s i) := by
  rw [flushRecords]
  have hclear : ChansKept s (modChan s i fun c => { c with held := [] }) := chansKept_setChan rfl
  exact hclear.trans (ChansKept.foldl (fun s r => chansKept_putRecord s i r) _ _)

theorem chansKept_putEvent (s : State) (i code seq : Nat) (v : Word) : ChansKept s (putEvent s i code seq v) := by
  rw [putEvent]
  split_ifs
  · exact .refl s
  · exact .of_chans rfl
  · exact chansKept_putRecord s i _

theorem chansKept_writesLost (s : State) (gone : List HeldWrite) : ChansKept s (writesLost s gone) := by
  rw [writesLost]
  exact (ChansKept.of_chans (by rw [count_host])).trans (ChansKept.foldl
    (fun s i => (ChansKept.of_chans (by rw [wrb_host])).trans (chansKept_putEvent _ i _ _ _)) _ _)

theorem chansKept_discardHeld (s : State) (p : HeldWrite → Bool) : ChansKept s (discardHeld s p) :=
  (ChansKept.of_chans rfl).trans (chansKept_writesLost (modHost s fun h => { h with holdQ := h.holdQ.filter fun x => !p x }) _)

/-- The registers below those of the pending vectors are as they were. -/
def LowRegs (s t : State) : Prop := ∀ o, o < 0x288000 → rd t o = rd s o

theorem lowRegs_signalVector (s : State) (v : Nat) : LowRegs s (signalVector s v) := by
  intro o ho
  have hne : o ≠ 0x288000 + v / 64 * 8 := by omega
  simp only [signalVector]
  split_ifs
  · exact smGet_smPut_other _ _ _ _ _ _ hne
  · rfl
  · rfl
  · rfl

theorem lowRegs_signalHeldOff (s : State) (v : Nat) : LowRegs s (signalHeldOff s v) := by
  rw [signalHeldOff]
  split_ifs
  · exact fun _ _ => rfl
  · exact lowRegs_signalVector _ v

theorem lowRegs_putRecord (s : State) (i : Nat) (r : Record) : LowRegs s (putRecord s i r) := by
  obtain ⟨u, c, -, hu, -, h⟩ := putRecord_cases s i r
  have hset : LowRegs s (setChan u i c) := fun o _ => rd_congr hu o
  rcases h with h | ⟨v, h⟩ <;> rw [h]
  · exact hset
  · exact fun o ho => (lowRegs_signalHeldOff _ v o ho).trans (hset o ho)

/-- An event leaves the cause with which a channel has stopped. -/
theorem rdf_putEvent_cause (s : State) (hi : i < 4096) (code seq : Nat) (v : Word) :
    rdf (putEvent s i code seq v) (CMD_CHAN i) CMD_CHAN_cause = rdf s (CMD_CHAN i) CMD_CHAN_cause := by
  rw [putEvent]
  split_ifs
  · rfl
  · exact rdf_countSat_field _ _ _ (by decide) (by decide)
  · have hlow : CMD_CHAN i < 0x288000 := by simp only [CMD_CHAN]; omega
    rw [rdf, lowRegs_putRecord _ _ _ _ hlow, rdf]

/-! ### A channel that stops -/

theorem st_stopChan (s : State) (i cause : Nat) : (chanOf (stopChan s i cause) i).st = .stopped := by
  have h : ∀ u : State, (chanOf (modChan u i fun c => { c with st := .stopped, chain := [], reread := 0, fetching := true }) i).st = .stopped :=
    fun u => by rw [modChan, chanOf_setChan_self]
  rw [stopChan]
  split_ifs
  · exact h _
  · rw [(chansKept_putEvent _ _ _ _ _).st]
    exact h _

theorem entries_stopChan (s : State) (i cause : Nat) : (chanOf (stopChan s i cause) i).entries = (chanOf s i).entries := by
  have h : ∀ u : State, u.host = s.host → (chanOf (modChan u i fun c => { c with st := .stopped, chain := [], reread := 0, fetching := true }) i).entries
      = (chanOf s i).entries := fun u hu => by rw [modChan, chanOf_setChan_self, chanOf_of_host hu]
  rw [stopChan]
  split_ifs
  · exact h _ (wrf_host ..)
  · rw [(chansKept_putEvent _ _ _ _ _).entries]
    exact h _ (wrf_host ..)

theorem rdf_modChan (s : State) (i : Nat) (f : Chan → Chan) (o : Nat) (g : Fld) : rdf (modChan s i f) o g = rdf s o g := rfl

theorem cause_stopChan (s : State) (hi : i < 4096) {cause : Nat} (hc : cause < 16) :
    rdf (stopChan s i cause) (CMD_CHAN i) CMD_CHAN_cause = cause := by
  have h : ∀ f : Chan → Chan, rdf (modChan (wrf s (CMD_CHAN i) CMD_CHAN_cause cause) i f) (CMD_CHAN i) CMD_CHAN_cause = cause := fun f => by
    rw [rdf_modChan, rdf_wrf_self _ _ _ (by decide)]
    exact Nat.mod_eq_of_lt hc
  rw [stopChan]
  split_ifs
  · exact h _
  · rw [rdf_putEvent_cause _ hi]
    exact h _

/-! ### Doorbells -/

theorem onIndex_of (hi : i < 4096) (s : State) : onIndex i s = .next s := onlyIf_of hi s

theorem unlessHeld_of (h : s.boot.rb = 0) (c : Instr) (t : State) : unlessHeld s c t = t := if_neg (not_not_intro h)

theorem exec_commandDoorbell (hi : i < 4096) (h : hostNow s) (b : BellWrite) :
    exec (.commandDoorbell i b) s = .next (commandDoorbell s i b) := by
  change onIndex i (if hostArrives s then unlessHeld s (.commandDoorbell i b) (commandDoorbell s i b) else s) = _
  rw [onIndex_of hi, if_pos h.1, unlessHeld_of h.2]

theorem exec_completionDoorbell (hi : i < 4096) (h : hostNow s) (b : BellWrite) :
    exec (.completionDoorbell i b) s = .next (completionDoorbell s i b) := by
  change onIndex i (if hostArrives s then unlessHeld s (.completionDoorbell i b) (completionDoorbell s i b) else s) = _
  rw [onIndex_of hi, if_pos h.1, unlessHeld_of h.2]

/-- A doorbell write that is dropped: of a wrong width, in keep state or while the device is not ready, or for another generation. -/
def bellDropped (s : State) (i : Nat) (b : BellWrite) : Prop := b.width ≠ 8 ∨ barsRefuse s = true ∨ bellMatches s i b.data = false

theorem badDoorbell_counts (s : State) : OnlyRegs s (badDoorbell s) [HST_ERR]
    ∧ rdf (badDoorbell s) HST_ERR HST_ERR_bad_doorbell = (rdf s HST_ERR HST_ERR_bad_doorbell + 1) % 2 ^ 16 :=
  ⟨(OnlyRegs.self s _).wr (by decide) _, rdf_count_self _ _ _ _ (by decide)⟩

theorem doorbell_dropped (hi : i < 4096) (h : hostNow s) (b : BellWrite) (c : Instr)
    (hc : c = .commandDoorbell i b ∧ b.at_ ≠ 0 ∨ c = .completionDoorbell i b ∧ b.at_ ≠ 8
      ∨ (c = .commandDoorbell i b ∨ c = .completionDoorbell i b) ∧ bellDropped s i b) :
    ∃ t, exec c s = .next t ∧ OnlyRegs s t [HST_ERR]
      ∧ rdf t HST_ERR HST_ERR_bad_doorbell = (rdf s HST_ERR HST_ERR_bad_doorbell + 1) % 2 ^ 16 := by
  have hcmd : b.at_ ≠ 0 ∨ bellDropped s i b → exec (.commandDoorbell i b) s = .next (badDoorbell s) := fun hb => by
    rw [exec_commandDoorbell hi h]
    exact congrArg Host.Outcome.next (if_pos hb)
  have hcpl : b.at_ ≠ 8 ∨ bellDropped s i b → exec (.completionDoorbell i b) s = .next (badDoorbell s) := fun hb => by
    rw [exec_completionDoorbell hi h]
    exact congrArg Host.Outcome.next (if_pos hb)
  refine ⟨badDoorbell s, ?_, badDoorbell_counts s⟩
  obtain ⟨rfl, hb⟩ | ⟨rfl, hb⟩ | ⟨rfl | rfl, hb⟩ := hc
  · exact hcmd (.inl hb)
  · exact hcpl (.inl hb)
  · exact hcmd (.inr hb)
  · exact hcpl (.inr hb)

theorem completionDoorbell_sets (hi : i < 4096) (h : hostNow s) {d : Word} (hr : barsRefuse s = false) (hm : bellMatches s i d = true) :
    ∃ t, exec (.completionDoorbell i ⟨8, 8, d⟩) s = .next t ∧ chanOf t i = { chanOf s i with cqCons := bits d 31 0 }
      ∧ (∀ j, j ≠ i → chanOf t j = chanOf s j) ∧ t = { s with host := t.host } := by
  refine ⟨modChan s i fun c => { c with cqCons := bits d 31 0 }, ?_, ?_, fun j hj => chanOf_setChan_other hj _ _, rfl⟩
  · rw [exec_completionDoorbell hi h]
    exact congrArg Host.Outcome.next (if_neg (by simp [hr, hm]))
  · rw [modChan, chanOf_setChan_self]

theorem commandDoorbell_raises (hi : i < 4096) (h : hostNow s) {d : Word} (hr : barsRefuse s = false) (hm : bellMatches s i d = true)
    {k : Nat} (h0 : 0 < k) (hk : k < 2 ^ 31) (hd : bits d 31 0 = ((chanOf s i).producer + k) % 2 ^ 32)
    (hfit : (chanOf s i).producer + k ≤ (chanOf s i).consumer + 2 ^ (chanOf s i).ringLog2) :
    ∃ t, exec (.commandDoorbell i ⟨0, 8, d⟩) s = .next t
      ∧ chanOf t i = { chanOf s i with producer := (chanOf s i).producer + k }
      ∧ (∀ j, j ≠ i → chanOf t j = chanOf s j) ∧ t = { s with host := t.host } := by
  have hδ : (bits d 31 0 + 2 ^ 32 - (chanOf s i).producer % 2 ^ 32) % 2 ^ 32 = k := by
    rw [hd]
    omega
  refine ⟨modChan s i fun c => { c with producer := c.producer + k }, ?_, ?_, fun j hj => chanOf_setChan_other hj _ _, rfl⟩
  · rw [exec_commandDoorbell hi h, commandDoorbell, if_neg (by simp [hr, hm])]
    dsimp only
    rw [hδ, if_neg (by omega), if_neg (fun hover => absurd hover.2 (Nat.not_lt.2 (Nat.sub_le_iff_le_add'.2 hfit)))]
  · rw [modChan, chanOf_setChan_self]

/-! ### The mailbox -/

theorem mboxSays_mboxEnd (s : State) {status : Nat} (hs : status < 256) (value : Nat) : mboxSays (mboxEnd s status value) status value := by
  have hv : value % 2 ^ 32 < 2 ^ 32 := Nat.mod_lt _ (by decide)
  have hrd : (rd (mboxEnd s status value) CMD_MBOX_RESULT).toNat = status * 2 ^ 48 + value % 2 ^ 32 := by
    rw [mboxEnd, rd_wr_self, BitVec.toNat_ofNat]
    simp only [putf, CMD_MBOX_RESULT_status, CMD_MBOX_RESULT_value]
    omega
  refine ⟨?_, ?_, ?_⟩
  · rw [rdf, getf, hrd]
    simp only [CMD_MBOX_RESULT_status]
    omega
  · rw [rdf, getf, hrd]
    simp only [CMD_MBOX_RESULT_value, pow_zero, Nat.div_one]
    omega
  · rw [rdb, getb, getf, hrd, beq_eq_false_iff_ne]
    simp only [CMD_MBOX_RESULT_busy]
    omega

@[simp] theorem mboxEnd_host (s : State) (status value : Nat) : (mboxEnd s status value).host = s.host := wr_host ..

theorem mboxRow_takes (h : mboxTakes s) (c : Instr) (op : Nat) : mboxRow s c op = mbox s op := by
  obtain ⟨hr, hb, -, -⟩ := h
  rw [mboxRow, if_pos hr, unlessHeld_of hb]

theorem mbox_create (h : mboxTakes s) : mbox s 1 = mboxCreate s := by
  obtain ⟨-, -, hbusy, hk⟩ := h
  rw [mbox, hbusy, if_neg Bool.false_ne_true, if_neg (by omega), if_pos rfl]

/-- What an operation of the mailbox other than CREATE does for the channel that it names. -/
def mboxOn (s : State) (i op : Nat) : State :=
  let st := (chanOf s i).st
  match op with
  | 2 => if st = .opened ∨ st = .stopped ∨ st = .orphaned then mboxDestroy s i else mboxEnd s 4 0
  | 3 =>
    if st = .stopped then
      mboxEnd (flushRecords (modChan s i (fun c => { c with st := .opened, reread := 0, fetching := true, chain := [] })) i) 0 0
    else mboxEnd s 4 0
  | 4 =>
    if st ≠ .orphaned then mboxEnd s 4 0
    else if !mboxConfigOk s then mboxEnd s 1 0
    else mboxEnd (flushRecords (setChan s i (configured s (chanOf s i))) i) 0 (handleOf s i)
  | _ => if st = .opened ∨ st = .stopped ∨ st = .orphaned then mboxConfirm s i else mboxEnd s 4 0

theorem mbox_named (h : mboxNames s i) {op : Nat} (h2 : 2 ≤ op) (h5 : op ≤ 5) : mbox s op = mboxOn s i op := by
  obtain ⟨⟨-, -, hbusy, hk⟩, hi⟩ := h
  rw [mbox, hbusy, if_neg Bool.false_ne_true, if_neg (by omega), if_neg (by omega), if_neg (by omega), hi]
  rfl

theorem mboxCreate_refused (h : mboxConfigOk s = false) : mboxCreate s = mboxEnd s 1 0 := by
  rw [mboxCreate, h]
  rfl

/-- The index with its next generation. -/
def nextGen (s : State) (i : Nat) : State :=
  modHost s fun h => { h with gens := smPut 0 h.gens i (if genOf s i = 0xFFFFF then 1 else genOf s i + 1) }

/-- The channel that CREATE makes. -/
def createdAt (s : State) (i : Nat) : State := wr (setChan (nextGen s i) i (configured (nextGen s i) {})) (CMD_CHAN i) 0

theorem mboxCreate_made (h : mboxConfigOk s = true) (hi : freeIndex s = some i) :
    mboxCreate s = mboxEnd (createdAt s i) 0 (handleOf (nextGen s i) i) := by
  rw [mboxCreate, h, hi]
  rfl

theorem genOf_nextGen (s : State) (i : Nat) : genOf (nextGen s i) i = if genOf s i = 0xFFFFF then 1 else genOf s i + 1 :=
  smGet_smPut_self ..

theorem create_makes (hi : freeIndex s = some i) (hc : mboxConfigOk s = true) :
    let t := mboxCreate s
    (chanOf t i).st = .opened ∧ (chanOf t i).consumer = 0 ∧ (chanOf t i).producer = 0 ∧ (chanOf t i).entries = []
      ∧ genOf t i = (if genOf s i = 0xFFFFF then 1 else genOf s i + 1) ∧ mboxSays t 0 (genOf t i * 4096 + i)
      ∧ ∀ j, j ≠ i → chanOf t j = chanOf s j := by
  have hhost : (mboxCreate s).host = (setChan (nextGen s i) i (configured (nextGen s i) {})).host := by
    rw [mboxCreate_made hc hi, mboxEnd_host, createdAt, wr_host]
  have hchan : ∀ j, chanOf (mboxCreate s) j = chanOf (setChan (nextGen s i) i (configured (nextGen s i) {})) j := chanOf_of_host hhost
  have hgen : genOf (mboxCreate s) i = genOf (nextGen s i) i := by
    rw [genOf, hhost]
    rfl
  dsimp only
  rw [hchan, chanOf_setChan_self, hgen]
  refine ⟨rfl, rfl, rfl, rfl, genOf_nextGen s i, ?_, fun j hj => by rw [hchan, chanOf_setChan_other hj]; rfl⟩
  rw [mboxCreate_made hc hi]
  exact mboxSays_mboxEnd _ (by decide) _

theorem chanOf_asked (s : State) (x : Option Nat) (j : Nat) : chanOf (modHost s fun h => { h with destroy := x }) j = chanOf s j := rfl

theorem destroy_marks (h : mboxNames s i) (ho : (chanOf s i).st = .opened) : ∃ t, exec .destroy s = .next t
    ∧ (chanOf t i).st = .destroying ∧ t.host.destroy = some i ∧ rdb t CMD_MBOX_RESULT CMD_MBOX_RESULT_busy = true := by
  have hx : mboxRow s .destroy 2 = mboxDestroy s i := by
    rw [mboxRow_takes h.1, mbox_named h (by decide) (by decide)]
    exact if_pos (.inl ho)
  refine ⟨mboxDestroy s i, congrArg Host.Outcome.next hx, ?_, ?_, ?_⟩
  · rw [mboxDestroy, chanOf_of_host (wrb_host ..), chanOf_asked, modChan, chanOf_setChan_self]
  · rw [mboxDestroy, wrb_host]
    rfl
  · exact rdb_wrb_self _ _ _ (by decide) (by decide)

theorem resume_holds (h : mboxNames s i) :
    ((chanOf s i).st = .stopped → ∃ t, exec .resume s = .next t ∧ (chanOf t i).st = .opened ∧ mboxSays t 0 0)
      ∧ ((chanOf s i).st ≠ .stopped → ∃ t, exec .resume s = .next t ∧ mboxSays t 4 0 ∧ t.host = s.host) := by
  have hx : exec .resume s = .next (mboxOn s i 3) := by
    refine congrArg Host.Outcome.next ?_
    rw [mboxRow_takes h.1, mbox_named h (by decide) (by decide)]
  refine ⟨fun hs => ⟨_, hx, ?_⟩, fun hs => ⟨_, hx, ?_⟩⟩ <;> rw [mboxOn]
  · rw [if_pos hs, chanOf_of_host (mboxEnd_host ..), (chansKept_flushRecords _ _).st, modChan, chanOf_setChan_self]
    exact ⟨rfl, mboxSays_mboxEnd _ (by decide) _⟩
  · rw [if_neg hs]
    exact ⟨mboxSays_mboxEnd _ (by decide) _, mboxEnd_host ..⟩

theorem adopt_holds (h : mboxNames s i) :
    ((chanOf s i).st = .orphaned → mboxConfigOk s = true → ∃ t, exec .adopt s = .next t ∧ (chanOf t i).st = .opened
          ∧ mboxSays t 0 (handleOf s i))
      ∧ ((chanOf s i).st ≠ .orphaned → ∃ t, exec .adopt s = .next t ∧ mboxSays t 4 0 ∧ t.host = s.host) := by
  have hx : exec .adopt s = .next (mboxOn s i 4) := by
    refine congrArg Host.Outcome.next ?_
    rw [mboxRow_takes h.1, mbox_named h (by decide) (by decide)]
  refine ⟨fun hs hc => ⟨_, hx, ?_⟩, fun hs => ⟨_, hx, ?_⟩⟩ <;> rw [mboxOn]
  · rw [if_neg (not_not_intro hs), hc, if_neg (by simp), chanOf_of_host (mboxEnd_host ..), (chansKept_flushRecords _ _).st, chanOf_setChan_self]
    exact ⟨rfl, mboxSays_mboxEnd _ (by decide) _⟩
  · rw [if_pos hs]
    exact ⟨mboxSays_mboxEnd _ (by decide) _, mboxEnd_host ..⟩

/-- Replayed writes leave the channels. -/
theorem replayHeld_chans (s : State) : (replayHeld s).host.chans = s.host.chans := by
  have hfold : ∀ (xs : List HeldWrite) (u : State),
      (xs.foldl (fun u x => emit u (.hostWrite x.bus x.data (relaxedOn u))) u).host = u.host :=
    foldl_keeps State.host fun _ _ => emit_host ..
  rw [replayHeld]
  split_ifs
  · rfl
  · exact (congrArg HostSt.chans (hfold (s.host.holdQ.filter fun x => (chanOf s x.chan).regions.any fun r => r.w == x.w && r.active) s) : _)

/-- A region that its confirmation makes active. -/
def confirmedRegion (w : Nat) (x : HRegion) : HRegion := if x.w = w then { x with active := true } else x

theorem mboxConfirm_some {r : HRegion} (hr : (chanOf s i).regions.find? (fun r => r.w == (mboxArg s 0).toNat) = some r) :
    (r.epoch ≠ bits (mboxArg s 1) 31 0 → mboxConfirm s i = mboxEnd (dropRegions s [(i, (mboxArg s 0).toNat)]) 7 0)
      ∧ (r.epoch = bits (mboxArg s 1) 31 0 → mboxConfirm s i = mboxEnd (replayHeld (modChan s i fun c =>
          { c with regions := c.regions.map (confirmedRegion (mboxArg s 0).toNat) })) 0 (regionHeld s i (mboxArg s 0).toNat)) := by
  rw [mboxConfirm, hr]
  exact ⟨fun h => if_pos h, fun h => if_neg (not_not_intro h)⟩

theorem confirm_holds (h : mboxNames s i) (ho : (chanOf s i).st = .opened) :
      let w := (mboxArg s 0).toNat
      ((∀ r ∈ (chanOf s i).regions, r.w ≠ w) → ∃ t, exec .confirm s = .next t ∧ mboxSays t 6 0 ∧ t.host = s.host)
      ∧ ∀ r, (chanOf s i).regions.find? (fun r => r.w == w) = some r →
        (r.epoch = bits (mboxArg s 1) 31 0 → ∃ t, exec .confirm s = .next t ∧ mboxSays t 0 (regionHeld s i w)
          ∧ ∀ x ∈ (chanOf t i).regions, x.w = w → x.active = true)
        ∧ (r.epoch ≠ bits (mboxArg s 1) 31 0 → ∃ t, exec .confirm s = .next t ∧ mboxSays t 7 0
          ∧ ∀ x ∈ (chanOf t i).regions, x.w ≠ w) := by
  have hx : exec .confirm s = .next (mboxConfirm s i) := by
    refine congrArg Host.Outcome.next ?_
    rw [mboxRow_takes h.1, mbox_named h (by decide) (by decide)]
    exact if_pos (.inl ho)
  refine ⟨fun hn => ⟨_, hx, ?_⟩, fun r hr => ⟨fun he => ⟨_, hx, ?_⟩, fun he => ⟨_, hx, ?_⟩⟩⟩
  · have hfind : (chanOf s i).regions.find? (fun r => r.w == (mboxArg s 0).toNat) = none := by simpa using hn
    rw [mboxConfirm, hfind]
    exact ⟨mboxSays_mboxEnd _ (by decide) _, mboxEnd_host ..⟩
  · rw [(mboxConfirm_some hr).2 he]
    refine ⟨mboxSays_mboxEnd _ (by decide) _, fun x hm hw => ?_⟩
    rw [chanOf_of_host (mboxEnd_host ..), (ChansKept.of_chans (replayHeld_chans _)).regions, modChan, chanOf_setChan_self] at hm
    obtain ⟨y, -, hy⟩ := List.mem_map.1 hm
    rw [confirmedRegion] at hy
    split_ifs at hy with hyw
    · rw [← hy]
    · exact absurd (hy ▸ hw) hyw
  · rw [(mboxConfirm_some hr).1 he]
    refine ⟨mboxSays_mboxEnd _ (by decide) _, fun x hm hw => ?_⟩
    rw [chanOf_of_host (mboxEnd_host ..), chanOf_dropRegions] at hm
    have hkeep := (List.mem_filter.1 hm).2
    simp [hw] at hkeep

theorem channelFreed_holds (hi : i < 4096) (hd : (chanOf s i).st = .destroying) (he : (chanOf s i).entries = [])
    (ho : ∀ c ∈ s.cores, ∀ u, (c.2.str u).owner = some i → (c.2.str u).atRest = true) : ∃ t, exec (.channelFreed i) s = .next t
      ∧ (chanOf t i).st = .free ∧ (s.host.destroy = some i → mboxSays t 0 0 ∧ t.host.destroy = none) := by
  have howned : (s.cores.all fun k => allStreams.all fun t => (k.2.str t).owner != some i || (k.2.str t).atRest) = true := by
    rw [List.all_eq_true]
    intro c hc
    rw [List.all_eq_true]
    intro u _
    have := ho c hc u
    by_cases hu : (c.2.str u).owner = some i <;> simp [hu, this]
  have hx : exec (.channelFreed i) s = .next (if s.host.destroy = some i then
      mboxEnd (modHost (freeChan s i) fun h => { h with destroy := none }) 0 0 else freeChan s i) :=
    (onIndex_of hi _).trans (congrArg Host.Outcome.next (if_pos ⟨hd, he, howned⟩))
  have hfree : (chanOf (freeChan s i) i).st = .free := by
    rw [chanOf, freeChan]
    exact congrArg Chan.st ((smGet_smErase ({} : Chan) _ i i).trans (if_pos rfl))
  refine ⟨_, hx, ?_, fun h => ?_⟩
  · split_ifs
    · rw [chanOf_of_host (mboxEnd_host ..)]
      exact hfree
    · exact hfree
  · rw [if_pos h]
    exact ⟨mboxSays_mboxEnd _ (by decide) _, by rw [mboxEnd_host]; rfl⟩

/-! ### Entries are read -/

theorem startFences_entries (c : Chan) : ∃ f : Entry → Entry, (startFences c).entries = c.entries.map f
    ∧ (∀ e, (f e).n = e.n ∧ (f e).op = e.op) ∧ ∀ e, e.phase = .started → (f e).phase = .started := by
  refine ⟨_, rfl, fun e => ?_, fun e he => ?_⟩
  · split_ifs <;> exact ⟨rfl, rfl⟩
  · rw [if_neg (by rw [he]; exact fun h => by cases h.1)]
    exact he

theorem stampUnits_entries (s : State) (i : Nat) : ∃ f : Entry → Entry, (chanOf (stampUnits s i) i).entries = (chanOf s i).entries.map f
    ∧ ∀ e, (f e).n = e.n ∧ (f e).op = e.op ∧ (f e).phase = e.phase := by
  rw [stampUnits]
  split_ifs
  · exact ⟨id, (List.map_id _).symm, fun _ => ⟨rfl, rfl, rfl⟩⟩
  · refine ⟨_, by rw [modChan, chanOf_setChan_self]; rfl, fun e => ?_⟩
    split_ifs <;> exact ⟨rfl, rfl, rfl⟩

theorem stampUnits_consumer (s : State) (i : Nat) : (chanOf (stampUnits s i) i).consumer = (chanOf s i).consumer := by
  rw [stampUnits]
  split_ifs
  · rfl
  · rw [modChan, chanOf_setChan_self]
    rfl

/-- An entry without a fence that is accepted on its own starts. -/
theorem acceptList_starts (c : Chan) {e : Entry} (hf : e.fence = false) :
    (acceptList c [e] none).consumer = c.consumer + 1
      ∧ ∃ z ∈ (acceptList c [e] none).entries, z.n = e.n ∧ z.op = e.op ∧ z.phase = .started := by
  refine ⟨rfl, ?_⟩
  have hnew : acceptList c [e] none = startFences { c with
      entries := c.entries ++ [{ e with payload := [e].flatMap (·.payload), phase := if e.fence then .accepted else .started }],
      consumer := c.consumer + 1, chain := [], reread := 0, fetching := true } := rfl
  rw [hnew]
  obtain ⟨f, hfe, hkeep, hst⟩ := startFences_entries { c with
      entries := c.entries ++ [{ e with payload := [e].flatMap (·.payload), phase := if e.fence then .accepted else .started }],
      consumer := c.consumer + 1, chain := [], reread := 0, fetching := true }
  rw [hfe]
  refine ⟨f { e with payload := [e].flatMap (·.payload), phase := if e.fence then .accepted else .started }, ?_, (hkeep _).1, (hkeep _).2,
    hst _ (if_neg (by simp [hf]))⟩
  exact List.mem_map.2 ⟨_, List.mem_append_right _ (List.mem_singleton.2 rfl), rfl⟩

theorem slotOf_op (n : Nat) (d : List Byte) : (slotOf n d).e.op = (slotOf n d).op ∧ (slotOf n d).e.n = n := ⟨rfl, rfl⟩

theorem takeEntry_single {x : Slot} (hc : (chanOf s i).chain = []) (hz : x.zero = true) (hl : x.inline_ ≤ 192) (hx : x.chain = false)
    (ho : x.op ≠ 0x7F) (ha : canAccept s i 1 = true) :
    takeEntry s i x = modChan s i fun c => acceptList c [x.e] (entryRefusal c.kind x.e) := by
  have hgood : (x.zero && decide (x.inline_ ≤ 192)) = true := by rw [hz, decide_eq_true hl]; rfl
  rw [takeEntry]
  dsimp only
  rw [if_neg ho, hc, List.isEmpty_nil, if_pos rfl, takeHead]
  rw [hgood, hx, ha]
  rfl

theorem slotBytes_host (h : (chanOf s i).ringDev = false) (d : List Byte) : slotBytes s i d = (d, s) := by
  rw [slotBytes, h]
  rfl

/-- The number of the entry whose slot is read. -/
def slotNumber (s : State) (i : Nat) : Nat := (chanOf s i).consumer + (chanOf s i).chain.length

theorem exec_entryFetch (hi : i < 4096) (hr : reads s i = true) (hd : (chanOf s i).ringDev = false) (hf : (chanOf s i).fetching = true)
    (d : List Byte) : exec (.entryFetch i d) s = .next (if visible (slotNumber s i) d then
      stampUnits (takeEntry s i (slotOf (slotNumber s i) d)) i else modChan s i fun c => { c with fetching := false, reread := 0 }) := by
  refine (onIndex_of hi _).trans (congrArg Host.Outcome.next ?_)
  rw [hr, hf, if_neg (by simp), slotBytes_host hd]
  rfl

theorem entryFetch_takes (hi : i < 4096) (hr : reads s i = true) (hd : (chanOf s i).ringDev = false) (hf : (chanOf s i).fetching = true)
    {d : List Byte} (hv : visible (slotNumber s i) d = true) (hc : (chanOf s i).chain = [])
    (hz : (slotOf (slotNumber s i) d).zero = true) (hl : (slotOf (slotNumber s i) d).inline_ ≤ 192)
    (hx : (slotOf (slotNumber s i) d).chain = false) (ho : (slotOf (slotNumber s i) d).op ≠ 0x7F) (ha : canAccept s i 1 = true)
    (hr2 : entryRefusal (chanOf s i).kind (slotOf (slotNumber s i) d).e = none) (hfe : (slotOf (slotNumber s i) d).e.fence = false) :
    ∃ t e, exec (.entryFetch i d) s = .next t ∧ e ∈ (chanOf t i).entries ∧ e.n = slotNumber s i
      ∧ e.op = (slotOf (slotNumber s i) d).op ∧ e.phase = .started ∧ (chanOf t i).consumer = (chanOf s i).consumer + 1 := by
  have hsl := slotOf_op (slotNumber s i) d
  have hx2 := exec_entryFetch hi hr hd hf d
  rw [hv, if_pos rfl, takeEntry_single hc hz hl hx ho ha] at hx2
  generalize slotOf (slotNumber s i) d = x at *
  obtain ⟨hcons, z, hzm, hzn, hzo, hzp⟩ := acceptList_starts (chanOf s i) hfe
  have hch : chanOf (modChan s i fun c => acceptList c [x.e] (entryRefusal c.kind x.e)) i = acceptList (chanOf s i) [x.e] none := by
    rw [modChan, chanOf_setChan_self, hr2]
  obtain ⟨g, hg, hgk⟩ := stampUnits_entries (modChan s i fun c => acceptList c [x.e] (entryRefusal c.kind x.e)) i
  refine ⟨_, g z, hx2, ?_, ?_, ?_, ?_, ?_⟩
  · rw [hg, hch]
    exact List.mem_map.2 ⟨z, hzm, rfl⟩
  · rw [(hgk z).1, hzn, hsl.2]
  · rw [(hgk z).2.1, hzo, hsl.1]
  · rw [(hgk z).2.2, hzp]
  · rw [stampUnits_consumer, hch, hcons]

theorem entryFetch_invisible (hi : i < 4096) (hr : reads s i = true) (hd : (chanOf s i).ringDev = false) (hf : (chanOf s i).fetching = true)
    {d : List Byte} (hv : visible (slotNumber s i) d = false) : ∃ t, exec (.entryFetch i d) s = .next t
      ∧ chanOf t i = { chanOf s i with fetching := false, reread := 0 } := by
  refine ⟨_, exec_entryFetch hi hr hd hf d, ?_⟩
  rw [hv, if_neg Bool.false_ne_true, modChan, chanOf_setChan_self]

/-- The state in which a slot is judged that has been read again. -/
def rereadCounted (s : State) (i : Nat) : State := countSat s (CMD_CHAN i) CMD_CHAN_rereads

theorem chanOf_rereadCounted (s : State) (i j : Nat) : chanOf (rereadCounted s i) j = chanOf s j := chanOf_of_host (countSat_host ..) j

theorem exec_entryReread (hi : i < 4096) (hr : reads s i = true) (hd : (chanOf s i).ringDev = false) (hf : (chanOf s i).fetching = false)
    {d : List Byte} (hv : visible (slotNumber s i) d = false) : exec (.entryReread i d) s = .next (if 63 ≤ (chanOf s i).reread then
      stopChan (rereadCounted s i) i 1 else modChan (rereadCounted s i) i fun c => { c with reread := c.reread + 1 }) := by
  refine (onIndex_of hi _).trans (congrArg Host.Outcome.next ?_)
  rw [hr, hf, if_neg (by simp), slotBytes_host hd]
  dsimp only
  have hch := chanOf_rereadCounted s i i
  rw [rereadCounted] at hch ⊢
  rw [hch]
  exact if_neg (by rw [← slotNumber, hv]; exact Bool.false_ne_true)

theorem entryReread_again (hi : i < 4096) (hr : reads s i = true) (hd : (chanOf s i).ringDev = false) (hf : (chanOf s i).fetching = false)
    {d : List Byte} (hv : visible (slotNumber s i) d = false) (hn : (chanOf s i).reread < 63) :
    ∃ t, exec (.entryReread i d) s = .next t ∧ chanOf t i = { chanOf s i with reread := (chanOf s i).reread + 1 } := by
  refine ⟨_, exec_entryReread hi hr hd hf hv, ?_⟩
  rw [if_neg (by omega), modChan, chanOf_setChan_self, chanOf_rereadCounted]

theorem entryReread_stops (hi : i < 4096) (hr : reads s i = true) (hd : (chanOf s i).ringDev = false) (hf : (chanOf s i).fetching = false)
    {d : List Byte} (hv : visible (slotNumber s i) d = false) (hn : 63 ≤ (chanOf s i).reread) :
    ∃ t, exec (.entryReread i d) s = .next t ∧ (chanOf t i).st = .stopped ∧ rdf t (CMD_CHAN i) CMD_CHAN_cause = 1 := by
  refine ⟨_, exec_entryReread hi hr hd hf hv, ?_⟩
  rw [if_pos hn]
  exact ⟨st_stopChan .., cause_stopChan _ hi (by decide)⟩

/-! ### Entries complete -/

/-- No entry of the number is left. -/
def NoEntry (i n : Nat) (s : State) : Prop := ∀ x ∈ (chanOf s i).entries, x.n ≠ n

theorem NoEntry.of_map {f : Entry → Entry} (hf : ∀ e, (f e).n = e.n) (he : (chanOf t i).entries = (chanOf s i).entries.map f)
    (h : NoEntry i n s) : NoEntry i n t := by
  intro x hx
  rw [he] at hx
  obtain ⟨y, hy, rfl⟩ := List.mem_map.1 hx
  rw [hf]
  exact h y hy

theorem NoEntry.of_entries (he : (chanOf t i).entries = (chanOf s i).entries) (h : NoEntry i n s) : NoEntry i n t := by
  rw [NoEntry, he]
  exact h

/-- The channel without an entry and those of its chain. -/
def entriesGone (s : State) (i : Nat) (gone : List Nat) : State :=
  modChan s i fun c => startFences { c with entries := c.entries.filter fun x => !gone.contains x.n }

theorem noEntry_entriesGone {gone : List Nat} (h : n ∈ gone) : NoEntry i n (entriesGone s i gone) := by
  intro x hx hn
  rw [entriesGone, modChan, chanOf_setChan_self] at hx
  obtain ⟨f, hf, hk, -⟩ := startFences_entries { chanOf s i with entries := (chanOf s i).entries.filter fun x => !gone.contains x.n }
  rw [hf] at hx
  obtain ⟨y, hy, rfl⟩ := List.mem_map.1 hx
  rw [(hk y).1] at hn
  have hg := (List.mem_filter.1 hy).2
  simp [hn, h] at hg

theorem noEntry_completeEntry (s : State) (i : Nat) (e : Entry) (w : Bool) : NoEntry i e.n (completeEntry s i e w) := by
  rw [completeEntry]
  dsimp only
  have hgone : NoEntry i e.n (stampUnits (entriesGone s i (e.n :: (contsOf (chanOf s i).entries.length (chanOf s i).entries e.n).map (·.n))) i) := by
    obtain ⟨f, hf, hk⟩ := stampUnits_entries (entriesGone s i (e.n :: (contsOf (chanOf s i).entries.length (chanOf s i).entries e.n).map (·.n))) i
    exact (noEntry_entriesGone List.mem_cons_self).of_map (fun z => (hk z).1) hf
  rw [entriesGone] at hgone
  generalize (if e.code ≠ 0 ∨ e.cmpl = true then [recordOf e e.code e.value] else [])
    ++ ((contsOf (chanOf s i).entries.length (chanOf s i).entries e.n).filter (·.cmpl)).map (fun x => recordOf x 0 0) = recs
  split_ifs
  · exact hgone.of_entries ((ChansKept.foldl (fun s r => chansKept_putRecord s i r) _ _).entries i)
  · refine NoEntry.of_entries (entries_stopChan ..) (hgone.of_entries ?_)
    rw [modChan, chanOf_setChan_self]
  · refine hgone.of_entries ?_
    rw [modChan, chanOf_setChan_self]

theorem entryComplete_holds (hi : i < 4096) (w : Bool) {e : Entry}
    (h : (chanOf s i).entries.find? (fun e => e.n == n && entryDone s e) = some e) :
    ∃ t, exec (.entryComplete i n w) s = .next t ∧ NoEntry i n t := by
  have hn : e.n = n := by
    have hb := List.find?_some h
    simp only [Bool.and_eq_true, beq_iff_eq] at hb
    exact hb.1
  have hx : exec (.entryComplete i n w) s = .next (completeEntry s i e w) := by
    refine (onIndex_of hi _).trans (congrArg Host.Outcome.next ?_)
    rw [h]
  exact ⟨_, hx, hn ▸ noEntry_completeEntry s i e w⟩

/-- Settles O47: doorbells, the mailbox, the reading of slots and the completion of entries do as they state. -/
theorem channelsAndMailbox : Obligations.ChannelsAndMailbox :=
  ⟨fun _ _ _ hi h => ⟨fun b c hc => doorbell_dropped hi h b c hc, fun hr hm =>
      ⟨completionDoorbell_sets hi h hr hm, fun _ h0 hk hd hfit => commandDoorbell_raises hi h hr hm h0 hk hd hfit⟩⟩,
    fun s h => ⟨fun hc => ⟨mboxEnd s 1 0, congrArg Host.Outcome.next
          ((mboxRow_takes h _ _).trans ((mbox_create h).trans (mboxCreate_refused hc))), mboxSays_mboxEnd _ (by decide) _, mboxEnd_host ..⟩,
        fun _ hc hi => ⟨_, congrArg Host.Outcome.next ((mboxRow_takes h _ _).trans (mbox_create h)), create_makes hi hc⟩⟩,
    fun _ _ h ho => destroy_marks h ho,
    fun _ _ h => ⟨(resume_holds h).1, (resume_holds h).2, (adopt_holds h).1, (adopt_holds h).2⟩,
    fun _ _ h ho => confirm_holds h ho,
    fun _ _ hi hd he ho => channelFreed_holds hi hd he ho,
    fun _ _ _ hi hr hd => ⟨fun hf hv => entryFetch_invisible hi hr hd hf hv,
      fun hf hv hc x hx hz hl hch ho ha hr2 hfe => by
        subst hx
        exact entryFetch_takes hi hr hd hf hv hc hz hl hch ho ha hr2 hfe,
      fun hf hv hn => entryReread_again hi hr hd hf hv hn, fun hf hv hn => entryReread_stops hi hr hd hf hv hn⟩,
    fun _ _ w _ _ hi h => entryComplete_holds hi w h⟩

end Sys2Proof.Machine
end

section
/-! PROOFS. Codewords, credits and frames that arrive (R390, R393, R397, R398, R402). -/

namespace Sys2Proof.Machine

variable {s t u : State} {p : Nat} {h : FrameHdr}

/-! ### Ports -/

@[simp] theorem portOf_setPort_self (s : State) (p : Nat) (x : Port) : portOf (setPort s p x) p = x := smGet_smPut_self ..

@[simp] theorem portOf_modPort_self (s : State) (p : Nat) (f : Port → Port) : portOf (modPort s p f) p = f (portOf s p) :=
  portOf_setPort_self ..

theorem portOf_of_fab (hf : t.fab = s.fab) (q : Nat) : portOf t q = portOf s q := by rw [portOf, hf, portOf]

theorem retrainPort_fab (s : State) (p : Nat) : (retrainPort s p).fab = s.fab := by
  rw [retrainPort, setPortState]
  split_ifs
  · rw [count_fab, wrf_fab, wrf_fab]
  · rfl

/-! ### Codewords -/

/-- A port without what is noted of its lanes. -/
def offLanes (x : Port) : Port := { x with corr := [], badLanes := [] }

theorem addCorrected_offLanes (s : State) (p : Nat) (ns : List Nat) : offLanes (portOf (addCorrected s p ns) p) = offLanes (portOf s p) := by
  have hfold : ∀ (qs : List (Nat × Nat)) (s : State), offLanes (portOf (qs.foldl (fun s q => modPort s p (fun x =>
      { x with
        corr := smPut 0 x.corr q.2 (smGet 0 x.corr q.2 + q.1)
        badLanes := if 2 ^ 20 < smGet 0 x.corr q.2 + q.1 ∧ ¬ x.badLanes.contains q.2 = true then x.badLanes ++ [q.2] else x.badLanes })) s) p)
      = offLanes (portOf s p) := by
    intro qs
    induction qs with
    | nil => exact fun _ => rfl
    | cons q qs ih =>
      intro s
      rw [List.foldl_cons, ih, portOf_modPort_self]
      rfl
  rw [addCorrected]
  dsimp only
  split_ifs
  · rw [portOf_of_fab (retrainPort_fab ..)]
    exact hfold ..
  · exact hfold ..

section
variable {x y : Port} (hx : offLanes x = offLanes y)
include hx

theorem ack_of_offLanes : x.ack = y.ack := (congrArg Port.ack hx : (offLanes x).ack = _)
theorem sent_of_offLanes : x.sent = y.sent := (congrArg Port.sent hx : (offLanes x).sent = _)

end

theorem dropAcked_port (s : State) (p a : Nat) : (portOf (dropAcked s p a) p).ack = (portOf s p).ack
    ∧ (portOf (dropAcked s p a) p).refusing = (portOf s p).refusing
    ∧ (portOf (dropAcked s p a) p).sent = (portOf s p).sent.filter fun f => seqAfter f.seq a := by
  rw [dropAcked, portOf_modPort_self]
  exact ⟨rfl, rfl, rfl⟩

theorem replayFrom_fab (s : State) (p : Nat) : (replayFrom s p).fab = s.fab := by
  rw [replayFrom, count_fab]
  exact foldl_keeps State.fab (fun _ _ => emit_fab ..) _ s

/-- A codeword in sequence is accepted; a replay that it asks for changes no record of it. -/
theorem codeword_accepted {q a : Nat} {nak : Bool} {cs : List Nat} (hp : portActive (addCorrected s p cs) p = true)
    (hq : q = ((portOf s p).ack + 1) % 4096) : (portOf (codewordIn s p q a nak true cs) p).ack = q
      ∧ (portOf (codewordIn s p q a nak true cs) p).refusing = false
      ∧ ∀ f ∈ (portOf (codewordIn s p q a nak true cs) p).sent, f ∈ (portOf s p).sent ∧ seqAfter f.seq a = true := by
  have hview := addCorrected_offLanes s p cs
  have hack := ack_of_offLanes hview
  have hsent := sent_of_offLanes hview
  rw [codewordIn]
  dsimp only
  rw [if_neg (by rw [hp]; decide), if_neg (by rw [hack]; simp [hq])]
  have hd := dropAcked_port (setPort (addCorrected s p cs) p { portOf (addCorrected s p cs) p with ack := q, refusing := false }) p a
  rw [portOf_setPort_self] at hd
  generalize dropAcked (setPort (addCorrected s p cs) p { portOf (addCorrected s p cs) p with ack := q, refusing := false }) p a = v at hd ⊢
  obtain ⟨h1, h2, h3⟩ := hd
  have hgood : (portOf v p).ack = q ∧ (portOf v p).refusing = false
      ∧ ∀ f ∈ (portOf v p).sent, f ∈ (portOf s p).sent ∧ seqAfter f.seq a = true := by
    refine ⟨h1, h2, fun f hf => ?_⟩
    rw [h3, List.mem_filter] at hf
    exact ⟨hsent ▸ hf.1, hf.2⟩
  have hmore : portOf (modPort (replayFrom v p) p fun x => { x with replays := x.replays + 1 }) p
      = { portOf v p with replays := (portOf v p).replays + 1 } := by
    rw [portOf_modPort_self, portOf_of_fab (replayFrom_fab ..)]
  split_ifs
  · rw [portOf_of_fab (retrainPort_fab ..), hmore]
    exact hgood
  · rw [hmore]
    exact hgood
  · exact hgood

theorem closeWord_port (s : State) (p : Nat) (nak : Bool) (g e : Nat) :
    portOf (closeWord s p nak g e) p = { portOf s p with seq := ((portOf s p).seq + 1) % 4096, buf := [], first := 1023 } :=
  portOf_setPort_self s p _

/-- A codeword that is not good, or out of sequence, is refused. -/
theorem codeword_refused {q a : Nat} {nak good : Bool} {cs : List Nat} (hp : portActive (addCorrected s p cs) p = true)
    (hq : good = false ∨ q ≠ ((portOf s p).ack + 1) % 4096) : (portOf (codewordIn s p q a nak good cs) p).ack = (portOf s p).ack
      ∧ (portOf (codewordIn s p q a nak good cs) p).refusing = true
      ∧ (portOf (codewordIn s p q a nak good cs) p).sent = (portOf s p).sent := by
  have hview := addCorrected_offLanes s p cs
  have hack := ack_of_offLanes hview
  have hsent := sent_of_offLanes hview
  rw [codewordIn]
  dsimp only
  rw [if_neg (by rw [hp]; decide), if_pos (by rw [hack]; simpa using hq)]
  split_ifs with hr
  · exact ⟨hack, hr, hsent⟩
  · rw [closeWord_port, portOf_setPort_self]
    exact ⟨hack, rfl, hsent⟩

theorem exec_codeword {q a : Nat} (nak : Bool) (rx : RxWord) (cs : List Nat) (hp : p < 36) (ha : portActive s p = true) (hq : q < 4096)
    (hk : a < 4096) : exec (.codeword p q a nak rx cs) s = .next (codewordIn s p q a nak (wordGood q a nak rx cs) cs) := by
  refine (onPort_lt _ hp).trans (congrArg Host.Outcome.next (if_pos ?_))
  rw [ha, decide_eq_true hq, decide_eq_true hk]
  rfl

theorem codeword_holds {q a : Nat} (nak : Bool) (rx : RxWord) {cs : List Nat} (hp : p < 36) (ha : portActive s p = true) (hq : q < 4096)
    (hk : a < 4096) (hc : portActive (addCorrected s p cs) p = true) :
    (wordGood q a nak rx cs = true → q = ((portOf s p).ack + 1) % 4096 → ∃ t, exec (.codeword p q a nak rx cs) s = .next t
      ∧ (portOf t p).ack = q ∧ (portOf t p).refusing = false ∧ ∀ f ∈ (portOf t p).sent, f ∈ (portOf s p).sent ∧ seqAfter f.seq a = true)
    ∧ (wordGood q a nak rx cs = false ∨ q ≠ ((portOf s p).ack + 1) % 4096 → ∃ t, exec (.codeword p q a nak rx cs) s = .next t
      ∧ (portOf t p).ack = (portOf s p).ack ∧ (portOf t p).refusing = true ∧ (portOf t p).sent = (portOf s p).sent) := by
  have hx := exec_codeword nak rx cs hp ha hq hk
  generalize wordGood q a nak rx cs = good at hx ⊢
  refine ⟨fun hg hs => ⟨_, hx, ?_⟩, fun hb => ⟨_, hx, ?_⟩⟩
  · rw [hg]
    exact codeword_accepted hc hs
  · exact codeword_refused hc hb

/-! ### Credits -/

theorem exec_creditFrame {cls vc n : Nat} (hp : p < 36) (ha : portActive s p = true) (hc : cls < 4) (hv : vc < 2) (hw : (portOf s p).wait = [])
    (hf : controlFits s p) : ∃ t, exec (.creditFrame p cls vc n) s = .next (creditOwed t p)
      ∧ portOf t p = { portOf s p with credits := (portOf t p).credits }
      ∧ smGet 0 (portOf t p).credits (2 * cls + vc) = smGet 0 (portOf s p).credits (2 * cls + vc) + n := by
  obtain ⟨hroom, hkeep⟩ := hf
  have hport : portOf (modPort s p fun x => { x with credits := smPut 0 x.credits (2 * cls + vc) (smGet 0 x.credits (2 * cls + vc) + n) }) p
      = { portOf s p with credits := smPut 0 (portOf s p).credits (2 * cls + vc) (smGet 0 (portOf s p).credits (2 * cls + vc) + n) } :=
    portOf_modPort_self ..
  refine ⟨modPort s p fun x => { x with credits := smPut 0 x.credits (2 * cls + vc) (smGet 0 x.credits (2 * cls + vc) + n) }, ?_, ?_, ?_⟩
  · refine (onPort_lt _ hp).trans (congrArg Host.Outcome.next ?_)
    rw [if_pos (by rw [ha, decide_eq_true hc, decide_eq_true hv]; rfl), creditIn, if_neg (Nat.not_le.2 hroom), hkeep,
      if_neg Bool.false_ne_true, flushPort, hport]
    dsimp only
    rw [hw]
    rfl
  · rw [hport]
  · rw [hport]
    exact smGet_smPut_self ..

/-! ### Frames for this device -/

/-- A frame that fills a buffer and is for this device is served there, and its buffer is free again. -/
theorem frameIn_served {b : Body} {len : Nat} {serve : State → State} (hf : frameServed s p h len) (h7 : h.type ≠ 7) :
    frameIn s p h b len serve = creditBack (serve (frameTaken s p h)) (some (p, pairKey h)) := by
  obtain ⟨-, ha, hlen, hdrop, hv, hid, hdst⟩ := hf
  rw [frameIn, if_neg (by rw [ha]; simpa using hlen)]
  dsimp only
  rw [hdrop, if_neg Bool.false_ne_true, hv, if_neg (not_not_intro rfl), if_neg h7, hid, if_neg (by decide), if_neg (not_not_intro hdst),
    frameTaken, pairKey]

theorem typeFits_self {n : Nat} (ht : h.type = n) : typeFits h n = true := by
  rw [typeFits, ht, beq_self_eq_true, Bool.true_or, Bool.true_or]

theorem exec_readFrame (hf : frameServed s p h 0) (ht : h.type = 1) :
    exec (.readFrame p h) s = .next (lateSettle (creditBack (serveRead (frameTaken s p h) h) (some (p, pairKey h)))) := by
  refine (onPort_lt _ hf.1).trans (congrArg Host.Outcome.next ?_)
  rw [if_pos (typeFits_self ht), if_pos ht, frameIn_served hf (by rw [ht]; decide)]

theorem exec_writeFrame {d : List Byte} (hf : frameServed s p h d.length) (ht : h.type = 2) :
    exec (.writeFrame p h d) s = .next (lateSettle (creditBack (serveWrite (frameTaken s p h) h d) (some (p, pairKey h)))) := by
  refine (onPort_lt _ hf.1).trans (congrArg Host.Outcome.next ?_)
  rw [if_pos (typeFits_self ht), frameIn_served hf (by rw [ht]; decide)]

theorem exec_kerbFrame {b : KerbPayload} (hf : frameServed s p h (kerbLen b)) (ht : h.type = 3) :
    exec (.kerbFrame p h b) s = .next (creditBack (serveKerb (frameTaken s p h) h b) (some (p, pairKey h))) := by
  refine (onPort_lt _ hf.1).trans (congrArg Host.Outcome.next ?_)
  rw [if_pos (typeFits_self ht), frameIn_served hf (by rw [ht]; decide)]

theorem keepState_frameTaken (s : State) (p : Nat) (h : FrameHdr) : keepState (frameTaken s p h) = keepState s := rfl

theorem peerRefused_none (hk : keepState s < 2) : peerRefused s h = none := if_neg (Nat.not_le.2 hk)

theorem serveRead_data {d : List Byte} (hk : keepState s < 2) (hw : h.why = .plain)
    (hr : sysRead s .peer .requester h.addr h.length = (.data d, u)) : serveRead s h = respond u h 0 d := by
  have hc : peerConfig h = none := by rw [peerConfig, hw]
  have ha : auditRead s h = (none, s) := if_pos (.inl (by rw [hw]; decide))
  rw [serveRead, peerRefused_none hk, hc, ha]
  dsimp only [Option.getD]
  rw [hr]

theorem serveRead_config {off : Nat} {d : List Byte} (hk : keepState s < 2) (hc : peerConfig h = some off) (ho : off < configMapped)
    (hr : configRead s off h.length = (d, u)) : serveRead s h = respond u h 0 d := by
  rw [serveRead, peerRefused_none hk, hc]
  dsimp only [Option.getD]
  rw [if_neg (Nat.not_le.2 ho), hr]

theorem serveWrite_data {d e : List Byte} (hk : keepState s < 2) (hw : h.why = .plain) (ho : h.op = 0)
    (hr : sysWrite s .peer h.addr d = (.data e, u)) : serveWrite s h d = respond u h 0 [] := by
  have hc : peerConfig h = none := by rw [peerConfig, hw]
  rw [serveWrite, peerRefused_none hk, hc]
  dsimp only [Option.getD]
  rw [if_pos ho, hr]

theorem serveKerb_status (hk : keepState s < 2) (id : Nat) (w v : Word) :
    serveKerb s h (.status id w v) = kerbStatusIn (respond s h 0 []) id w v := by
  rw [serveKerb, peerRefused_none hk]
  rfl

theorem serveRead_keep (hk : 2 ≤ keepState s) : serveRead s h = respond (count s HST_ERR HST_ERR_ur) h 2 [] := by
  rw [serveRead, peerRefused, if_pos hk]
  rfl

theorem smHas_of_smFind? {α : Type} {m : SMap α} {k : Nat} {v : α} (h : smFind? m k = some v) : smHas m k = true := by
  induction m with
  | nil => cases h
  | cons x m ih =>
    obtain ⟨j, w⟩ := x
    rw [smFind?] at h
    rw [smHas, List.any_cons, Bool.or_eq_true]
    split_ifs at h with hj
    · exact .inl (beq_iff_eq.2 hj)
    · exact .inr (ih h)

theorem serveResponse_known {d : List Byte} {w : Asked} (hs : smFind? s.fab.sent h.tag = some w) :
    serveResponse s h d = answerTag s h.tag h.status d := by
  have hhas : smHas s.fab.sent h.tag = true := smHas_of_smFind? hs
  rw [serveResponse, hhas]
  simp

theorem exec_responseFrame {d : List Byte} (hf : frameServed s p h d.length) (ht : h.type = 4) :
    exec (.responseFrame p h d) s = .next (creditBack (serveResponse (frameTaken s p h) h d) (some (p, pairKey h))) := by
  refine (onPort_lt _ hf.1).trans (congrArg Host.Outcome.next ?_)
  rw [if_pos (typeFits_self ht), frameIn_served hf (by rw [ht]; decide)]

theorem exec_collectiveFrame {off : Nat} {q : PieceId} {k : CollKey} {d : List Byte} (hf : frameServed s p h d.length) (ht : h.type = 5) :
    exec (.collectiveFrame p h q k ⟨off, d⟩) s
      = .next (lateSettle (creditBack (pieceIn (frameTaken s p h) p h q k off d) (some (p, pairKey h)))) := by
  refine (onPort_lt _ hf.1).trans (congrArg Host.Outcome.next ?_)
  rw [if_pos (typeFits_self ht), frameIn_served hf (by rw [ht]; decide)]

theorem exec_collectiveAck {q : PieceId} (hf : frameServed s p h h.length) (ht : h.type = 6) :
    exec (.collectiveAck p h q) s = .next (creditBack (ackIn (frameTaken s p h) h q) (some (p, pairKey h))) := by
  refine (onPort_lt _ hf.1).trans (congrArg Host.Outcome.next ?_)
  rw [if_pos (typeFits_self ht), frameIn_served hf (by rw [ht]; decide)]

/-! ### Frames that break a rule -/

theorem violationOf_lt (s : State) (p : Nat) (h : FrameHdr) : violationOf s p h < 256 := by
  rw [violationOf]
  split_ifs <;> decide

theorem raiseEvent_mem_count (s : State) (o n : Nat) (w : Word) (f : Fld) (k : Nat) :
    (raiseEvent (count (wr s o w) n f) k).mem = s.mem := by rw [raiseEvent_mem, count_mem, wr_mem]

theorem retrainPort_mem (s : State) (p : Nat) : (retrainPort s p).mem = s.mem := by
  rw [retrainPort, setPortState]
  split_ifs
  · rw [count_mem, wrf_mem, wrf_mem]
  · rfl

theorem violate_mem (s : State) (p code : Nat) : (violate s p code).mem = s.mem := by
  have h0 : ∀ (v : State) (f : Port → Port), (modPort v p f).mem = v.mem := fun _ _ => rfl
  rw [violate]
  split_ifs
  · rw [retrainPort_mem, h0, raiseEvent_mem_count]
  · rw [h0, raiseEvent_mem_count]

theorem violateFrame_mem (s : State) (p code w : Nat) : (violateFrame s p code w).mem = s.mem := by
  rw [violateFrame, violate_mem]
  exact mem_of_offWire (sendControl_offWire ..)

/-- A frame that breaks a rule is dropped; its buffer, where it has one, is free again. -/
theorem frameIn_violates {b : Body} {len v : Nat} {serve : State → State} (hf : frameViolates s p h len v) :
    offWire (frameIn s p h b len serve) = offWire (violateFrame s p v (hdrWord0 h)) := by
  obtain ⟨-, ha, hlen, hdrop, hv, h0⟩ := hf
  rw [frameIn, if_neg (by rw [ha]; simpa using hlen)]
  dsimp only
  rw [hdrop, if_neg Bool.false_ne_true, hv, if_pos h0]
  split_ifs
  · rfl
  · rw [creditBack_offWire, modPort_offWire]

theorem violationKept_frameIn {b : Body} {len v : Nat} {serve : State → State} (hf : frameViolates s p h len v) :
    violationKept s (frameIn s p h b len serve) p v ∧ (frameIn s p h b len serve).mem = s.mem := by
  have hw := frameIn_violates (b := b) (serve := serve) hf
  have hv : v < 256 := hf.2.2.2.2.1 ▸ violationOf_lt s p h
  exact ⟨(violateFrame_kept s _ hf.1 hv).of_cfg (cfg_of_offWire hw), (mem_of_offWire hw).trans (violateFrame_mem ..)⟩

theorem frame_violates {v : Nat} {d : List Byte} (ht : h.type = 1 ∨ h.type = 2 ∨ h.type = 4)
    (hf : frameViolates s p h (if h.type = 1 then 0 else d.length) v) :
    ∃ t, exec (if h.type = 1 then .readFrame p h else if h.type = 2 then .writeFrame p h d else .responseFrame p h d) s
        = .next (if h.type = 4 then t else lateSettle t)
      ∧ violationKept s t p v ∧ t.mem = s.mem := by
  rcases ht with ht | ht | ht
  · refine ⟨_, ?_, violationKept_frameIn (b := .empty) (serve := fun s => serveRead s h) hf⟩
    rw [if_pos ht, if_neg (by rw [ht]; decide)]
    refine (onPort_lt _ hf.1).trans (congrArg Host.Outcome.next ?_)
    rw [if_pos (typeFits_self ht), if_pos ht, if_pos ht]
  · refine ⟨_, ?_, violationKept_frameIn (b := .data d) (serve := fun s => serveWrite s h d) hf⟩
    rw [if_neg (by rw [ht]; decide), if_pos ht, if_neg (by rw [ht]; decide)]
    refine (onPort_lt _ hf.1).trans (congrArg Host.Outcome.next ?_)
    have hlen : (if h.type = 1 then 0 else d.length) = d.length := if_neg (by rw [ht]; decide)
    rw [if_pos (typeFits_self ht), hlen]
  · refine ⟨_, ?_, violationKept_frameIn (b := if d = [] then .empty else .data d) (serve := fun s => serveResponse s h d) hf⟩
    rw [if_neg (by rw [ht]; decide), if_neg (by rw [ht]; decide), if_pos ht]
    refine (onPort_lt _ hf.1).trans (congrArg Host.Outcome.next ?_)
    have hlen : (if h.type = 1 then 0 else d.length) = d.length := if_neg (by rw [ht]; decide)
    rw [if_pos (typeFits_self ht), hlen]

/-! ### Resend markers, refusals and time-outs -/

theorem portOf_takeBuffer_ack (s : State) (p q : Nat) : (portOf (takeBuffer s p 0) q).ack = (portOf s q).ack := by
  by_cases hq : q = p
  · rw [hq, takeBuffer, portOf_modPort_self]
  · exact congrArg Port.ack (smGet_smPut_other ({} : Port) {} s.fab.ports p q _ hq)

theorem exec_resendMarker {f q i : Nat} (hp : p < 36) (ha : portActive s p = true) (hf : controlFits s p)
    (hi : (upto 3).find? (fun i => rdf s (CWY_PORT_PARTNER (groupBase (portDim p) (portPlus p) + i)) CWY_PORT_PARTNER_port == f) = some i) :
    exec (.resendMarker p f q) s = .next (tookControl (modPort (takeBuffer s p 0) p (fun x => { x with
      dropNext := !seqAfter q (portOf s (groupBase (portDim p) (portPlus p) + i)).ack })) p) := by
  refine (onPort_lt _ hp).trans (congrArg Host.Outcome.next ?_)
  rw [controlIn_fits ha hf]
  have hi' : (upto 3).find? (fun i => rdf (takeBuffer s p 0) (CWY_PORT_PARTNER (groupBase (portDim p) (portPlus p) + i)) CWY_PORT_PARTNER_port
      == f) = some i := hi
  rw [hi', ← portOf_takeBuffer_ack s p]

theorem exec_nakFrame {c : Nat} {w : Word} {a : Asked} (hp : p < 36) (ha : portActive s p = true) (hf : controlFits s p)
    (hs : bits w 28 11 = selfId s) (h1 : bits w 59 58 = 1) (hc : 0 < c) (hw : smFind? s.fab.sent (bits w 10 0) = some a)
    (hn : ∀ e n, a ≠ .acked e n) :
    exec (.nakFrame p c w) s = .next (tookControl (answerTag (takeBuffer s p 0) (bits w 10 0) 3 []) p) := by
  refine (onPort_lt _ hp).trans (congrArg Host.Outcome.next ?_)
  rw [controlIn_fits ha hf, nakIn]
  have hs' : bits w 28 11 = selfId (takeBuffer s p 0) := hs
  have hw' : smFind? (takeBuffer s p 0).fab.sent (bits w 10 0) = some a := hw
  rw [← hs', h1, decide_eq_true hc, hw']
  simp only [beq_self_eq_true, Bool.and_self, if_true]

theorem exec_requestTimeout {n : Nat} {a : Asked} (hw : smFind? s.fab.sent n = some a) (hn : ∀ e k, a ≠ .acked e k) :
    ∃ u, exec (.requestTimeout n) s = .next (answerTag u n 4 []) ∧ u = { s with fab := u.fab }
      ∧ u.fab = { s.fab with timedOut := s.fab.timedOut ++ [n] } := by
  refine ⟨modFab s fun f => { f with timedOut := f.timedOut ++ [n] }, congrArg Host.Outcome.next ?_, rfl, rfl⟩
  rw [hw]
  split
  · next he => cases he
  · next he => exact absurd (Option.some.inj he) (hn _ _)
  · rfl

theorem exec_requestTimeout_unknown {n : Nat} (hw : smFind? s.fab.sent n = none) : exec (.requestTimeout n) s = .next s := by
  refine congrArg Host.Outcome.next ?_
  rw [hw]

/-- Settles O44: codewords, credits, frames, refusals and time-outs do as they state. -/
theorem framesAreServed : Obligations.FramesAreServed := by
  refine ⟨fun p q a nak rx cs s hp ha hq hk hc => codeword_holds nak rx hp ha hq hk hc, fun _ _ _ _ _ hp ha hc hv hw hf => exec_creditFrame hp ha hc hv hw hf, ?_, ?_, ?_, ?_, ?_, ?_, ?_, ?_,
    fun _ _ _ _ _ ht hf => frame_violates ht hf, fun _ _ _ _ _ hp ha hf hi => exec_resendMarker hp ha hf hi,
    fun _ _ _ _ _ hp ha hf hs h1 hc hw hn => exec_nakFrame hp ha hf hs h1 hc hw hn, fun _ _ _ hw hn => exec_requestTimeout hw hn,
    fun _ _ hw => exec_requestTimeout_unknown hw⟩
  · intro p h d s u hf ht hk hw hr
    rw [exec_readFrame hf ht, serveRead_data (s := frameTaken s p h) (keepState_frameTaken s p h ▸ hk) hw hr]
  · intro p off h d s u hf ht hk hc ho hr
    rw [exec_readFrame hf ht, serveRead_config (s := frameTaken s p h) (keepState_frameTaken s p h ▸ hk) hc ho hr]
  · intro p h d e s u hf ht ho hk hw hr
    rw [exec_writeFrame hf ht, serveWrite_data (s := frameTaken s p h) (keepState_frameTaken s p h ▸ hk) hw ho hr]
  · intro p id h w v s hf ht hk
    rw [exec_kerbFrame hf ht, serveKerb_status (s := frameTaken s p h) (keepState_frameTaken s p h ▸ hk)]
  · intro p h s hf ht hk
    refine ⟨count (frameTaken s p h) HST_ERR HST_ERR_ur, ?_, ?_, ?_⟩
    · rw [exec_readFrame hf ht, serveRead_keep (s := frameTaken s p h) (keepState_frameTaken s p h ▸ hk)]
    · rw [count_mem]
      rfl
    · rw [rdf_count_self _ _ _ _ (by decide)]
      rfl
  · intro p h d w s hf ht hs
    rw [exec_responseFrame hf ht, serveResponse_known (s := frameTaken s p h) hs]
  · exact fun p off h q k d s hf ht => exec_collectiveFrame hf ht
  · exact fun p h q s hf ht => exec_collectiveAck hf ht

end Sys2Proof.Machine
end
